-- ==== Sys2Proof/Word.lean ====
section
/-! DEFINITION. The widths of the K7 (R6, R245) and the plainest arithmetic on them. -/

namespace Sys2Proof

/-- One byte of storage (R6). -/
abbrev Byte := BitVec 8

/-- A parcel of code (R259), and a 16-bit element. -/
abbrev Parcel := BitVec 16

/-- The value of a g register or of a queue entry (R245, R62). -/
abbrev Word := BitVec 32

/-- The value of an a register, an address, or a 64-bit control register (R245). -/
abbrev DWord := BitVec 64

/-- The low half of a 64-bit value (R246). -/
def DWord.lo (x : DWord) : Word := x.truncate 32

/-- The high half of a 64-bit value (R246). -/
def DWord.hi (x : DWord) : Word := (x >>> 32).truncate 32

/-- A 64-bit value from its low and high words (R246). -/
def DWord.join (lo hi : Word) : DWord := (hi.zeroExtend 64 <<< 32) ||| lo.zeroExtend 64

end Sys2Proof
end

