-- ==== Sys2Proof/Machine/Tab.lean ====
section
/-! DEFINITION. Tables by number.  Registers, memory, thread slots and every other numbered collection of the machine
are tables in one canonical form: keys strictly rising, and no entry equal to what an unlisted key reads as, which is
the default value of the entries' type.  Equal tables are therefore equal data. -/

namespace Sys2Proof.Machine

/-- A table: pairs of key and value. -/
structure Tab (α : Type) where
  cells : List (Nat × α) := []
  deriving DecidableEq, Repr, Inhabited

/-- The value listed for a key. -/
def lookup {α : Type} (k : Nat) : List (Nat × α) → Option α
  | [] => none
  | (j, x) :: r => if j = k then some x else lookup k r

/-- List a value for a key, in key order. -/
def insertKey {α : Type} (k : Nat) (v : α) : List (Nat × α) → List (Nat × α)
  | [] => [(k, v)]
  | (j, x) :: r => if k < j then (k, v) :: (j, x) :: r else if k = j then (k, v) :: r else (j, x) :: insertKey k v r

/-- Keys strictly rising. -/
def rising {α : Type} : List (Nat × α) → Bool
  | [] => true
  | [_] => true
  | (j, _) :: (k, y) :: r => j < k && rising ((k, y) :: r)

namespace Tab

variable {α : Type} [Inhabited α]

/-- What a key reads as. -/
def get (t : Tab α) (k : Nat) : α := (lookup k t.cells).getD default

/-- The table with one key changed. -/
def set [DecidableEq α] (t : Tab α) (k : Nat) (v : α) : Tab α :=
  if v = default then ⟨t.cells.filter (fun c => c.1 ≠ k)⟩ else ⟨insertKey k v t.cells⟩

/-- Change one entry by a function of its value. -/
def modify [DecidableEq α] (t : Tab α) (k : Nat) (f : α → α) : Tab α := t.set k (f (t.get k))

/-- Drop the entries that a test names: they read as unlisted again. -/
def drop (t : Tab α) (p : Nat → α → Bool) : Tab α := ⟨t.cells.filter (fun c => !p c.1 c.2)⟩

/-- Change the values of the listed entries. -/
def mapCells [DecidableEq α] (t : Tab α) (f : Nat → α → α) : Tab α :=
  t.cells.foldr (fun c (m : Tab α) => m.set c.1 (f c.1 c.2)) {}

/-- The listed keys. -/
def keys (t : Tab α) : List Nat := t.cells.map Prod.fst

/-- The canonical form. -/
def wf [DecidableEq α] (t : Tab α) : Bool := rising t.cells && t.cells.all (fun c => c.2 ≠ default)

end Tab

/-- A memory: bytes by address, an unlisted byte reading 0. -/
abbrev Memory := Tab Byte

/-- The memory that lists nothing. -/
def Memory.empty : Memory := ⟨[]⟩

/-- The canonical form of a memory. -/
abbrev Memory.wf (m : Memory) : Bool := Tab.wf m

/-- n bytes from an address, lowest first (R6). -/
def Memory.bytes (m : Memory) (a : Nat) : Nat → List Byte
  | 0 => []
  | n + 1 => m.get a :: Memory.bytes m (a + 1) n

/-- Store bytes upward from an address. -/
def Memory.store (m : Memory) (a : Nat) : List Byte → Memory
  | [] => m
  | b :: r => Memory.store (m.set a b) (a + 1) r

/-- The number that bytes spell, lowest first (R6). -/
def leNat : List Byte → Nat
  | [] => 0
  | b :: r => b.toNat + 256 * leNat r

/-- The n low bytes of a number, lowest first. -/
def leBytes : Nat → Nat → List Byte
  | 0, _ => []
  | n + 1, x => BitVec.ofNat 8 x :: leBytes n (x / 256)

/-- A little-endian number of n bytes in memory. -/
def Memory.nat (m : Memory) (a n : Nat) : Nat := leNat (m.bytes a n)

end Sys2Proof.Machine
end

