-- ==== Sys2Proof/Machine/Hash.lean ====
section
/-! DEFINITION. SHA-512 and HMAC-SHA-512, by which a peer authenticates a notify (R69) and the boot extends the measurement
log (R208).  The standard that the manual names defines them (FIPS 180-4, FIPS 198-1); words are numbers below 2^64. -/

namespace Sys2Proof.Machine.Hash

/-- The largest r below 2^bits with r^k ≤ n. -/
def root (k n bits : Nat) : Nat :=
  ((List.range bits).reverse).foldl (fun r i => if (r + 2 ^ i) ^ k ≤ n then r + 2 ^ i else r) 0

/-- The first primes. -/
def primes (below : Nat) : List Nat :=
  (List.range below).filter (fun n => 2 ≤ n && (List.range n).all (fun d => d < 2 || n % d != 0))

/-- The round constants: 64 bits of the fractions of the cube roots of the first 80 primes; and the initial words: of the square
roots of the first 8. -/
def roundKeys : List Nat := (primes 410).map (fun p => root 3 (p * 2 ^ 192) 70 % 2 ^ 64)
def initial : List Nat := (primes 20).map (fun p => root 2 (p * 2 ^ 128) 70 % 2 ^ 64)

def rotr (x n : Nat) : Nat := (x >>> n) ||| (x <<< (64 - n)) % 2 ^ 64

/-- The four sums of rotations: two of state words, two of schedule words. -/
def bigA (x : Nat) : Nat := rotr x 28 ^^^ rotr x 34 ^^^ rotr x 39
def bigE (x : Nat) : Nat := rotr x 14 ^^^ rotr x 18 ^^^ rotr x 41
def small0 (x : Nat) : Nat := rotr x 1 ^^^ rotr x 8 ^^^ (x >>> 7)
def small1 (x : Nat) : Nat := rotr x 19 ^^^ rotr x 61 ^^^ (x >>> 6)

/-- One round on the eight state words with a key and a schedule word. -/
def round (k w : Nat) : List Nat → List Nat
  | [a, b, c, d, e, f, g, h] =>
    let t := h + bigE e + ((e &&& f) ^^^ ((2 ^ 64 - 1 - e) &&& g)) + k + w
    [(t + bigA a + ((a &&& b) ^^^ (a &&& c) ^^^ (b &&& c))) % 2 ^ 64, a, b, c, (d + t) % 2 ^ 64, e, f, g]
  | r => r

/-- The rounds of a block: the schedule is a window of sixteen words. -/
def rounds : List Nat → List Nat → List Nat → List Nat
  | [], _, st => st
  | k :: ks, w, st =>
    let new := (small1 (w.getD 14 0) + w.getD 9 0 + small0 (w.getD 1 0) + w.headD 0) % 2 ^ 64
    rounds ks (w.drop 1 ++ [new]) (round k (w.headD 0) st)

/-- A number from bytes, the first the most significant; and its n bytes. -/
def beNat (bs : List Byte) : Nat := bs.foldl (fun n b => n * 256 + b.toNat) 0
def beBytes (n v : Nat) : List Byte := (leBytes n v).reverse

/-- Pieces of n bytes. -/
def pieces (n : Nat) : Nat → List Byte → List (List Byte)
  | 0, _ => []
  | k + 1, bs => bs.take n :: pieces n k (bs.drop n)

/-- SHA-512 of a message. -/
def sha (m : List Byte) : List Byte :=
  let blocks := (m.length + 17 + 127) / 128
  let padded := m ++ [0x80] ++ List.replicate (blocks * 128 - m.length - 17) 0 ++ beBytes 16 (8 * m.length)
  let h := (pieces 128 blocks padded).foldl (fun h b =>
    List.zipWith (fun x y => (x + y) % 2 ^ 64) h (rounds roundKeys ((pieces 8 16 b).map beNat) h)) initial
  h.flatMap (beBytes 8)

/-- HMAC-SHA-512 under a key of 64 bytes. -/
def hmac (key m : List Byte) : List Byte :=
  let pad (x : Byte) : List Byte := (key ++ List.replicate (128 - key.length) 0).map (· ^^^ x)
  sha (pad 0x5C ++ sha (pad 0x36 ++ m))

/-- HKDF-SHA-512 of a secret under a salt (RFC 5869), 64 bytes; the manual names no info string, and the model takes the empty one
(DESIGN CHOICE, log 37). -/
def hkdf (salt secret : List Byte) : List Byte := hmac (hmac salt secret) [1]

end Sys2Proof.Machine.Hash

namespace Sys2Proof.Machine

/-- The tag of a notify: the first 128 bits of the HMAC under the session key over VA, tail and sequence number, little-endian
(R69).  A string of bits stands in a bit vector with its first byte most significant (DESIGN CHOICE, log 29). -/
def notifyTag (key : BitVec 512) (va : DWord) (tail : Word) (seq : DWord) : BitVec 128 :=
  BitVec.ofNat 128 (Hash.beNat ((Hash.hmac (Hash.beBytes 64 key.toNat)
    (leBytes 8 va.toNat ++ leBytes 4 tail.toNat ++ leBytes 8 seq.toNat)).take 16))

/-- The key of a session (R210), from the shared secret and the two ephemeral keys, the peer's first; strings of bits as in notifyTag. -/
def sessionKey (secret peerKey ownKey : BitVec 256) : BitVec 512 :=
  BitVec.ofNat 512 (Hash.beNat (Hash.hkdf (Hash.beBytes 32 peerKey.toNat ++ Hash.beBytes 32 ownKey.toNat) (Hash.beBytes 32 secret.toNat)))

/-- The measurement log extended with a digest: SHA-512 of the old value followed by the digest (R208). -/
def extendLog (old digest : BitVec 512) : BitVec 512 :=
  BitVec.ofNat 512 (Hash.beNat (Hash.sha (Hash.beBytes 64 old.toNat ++ Hash.beBytes 64 digest.toNat)))

end Sys2Proof.Machine
end

