-- ==== Sys2Proof/Syntax.lean ====
section
/-! DEFINITION. The steps of the K7: one constructor of Instr per row of the opcode table.  The first part holds the
instructions of Tisan T1 with their operand fields as the formats of R262, R265 and R266 cut them; the second part
holds the module's operations and events, each with what its agent or the outside world decides. -/

namespace Sys2Proof

/-- A thread slot (R35): global core number (R11), bank (R76) and slot 0–1,023. -/
structure TRef where
  core : Nat
  bank : Nat
  slot : Nat
  deriving DecidableEq, Repr

/-- What the Ringmaster writes into a queue descriptor (R63), and the cluster whose FIFO it gives to the queue (R64). -/
structure QueueCfg where
  base : DWord
  cap : Word
  kind : Byte
  scope : Byte
  tenant : Byte
  fifo : Byte
  session : Word
  recBase : DWord
  cluster : Nat
  /-- the reserved bytes, those at 0x19 first -/
  rsv : BitVec 216 := 0
  deriving DecidableEq, Repr

/-- What the attendant makes of a logged fault (R86, R88). -/
inductive FaultFate
  | resolve
  | outside
  | permission
  | walkUE
  | discard
  deriving DecidableEq, Repr

/-- A reset request over the sideband (R186). -/
structure ResetMsg where
  cmd : Byte
  scope : Byte
  pmask : Byte
  rsv : Byte
  tag : Word
  bytes : Nat
  deriving DecidableEq, Repr

/-- A link or port of R187: the external links of R214's numbering, and the die-to-die ports. -/
inductive LinkId
  | uaLink (n : Nat)
  | ultraEthernet (n : Nat)
  | pciExpress (n : Nat)
  | dieToDie (die n : Nat)
  deriving DecidableEq, Repr

/-- Why the device reset (R222). -/
inductive ResetCause
  | powerOn
  | sideband
  | ringmaster
  | thermal
  | brownout
  | fatal
  deriving DecidableEq, Repr

/-- Why the Ringmaster alone is reset (R211). -/
inductive RmCause
  | lastPair
  | watchdog
  | sideband
  deriving DecidableEq, Repr

/-- What boot finds outside the module's own state (R208): the identity key, the two image signatures, the
configuration record with its core map, initial division and L2 modes, and the measured digests. -/
structure BootRecord where
  identityOk : Bool
  imageAOk : Bool
  imageBOk : Bool
  recordOk : Bool
  firmwareOk : Bool
  coreMap : BitVec 252
  owner : Byte
  dlocal : BitVec 4
  /-- one for each step of the boot -/
  digests : List (BitVec 512)
  /-- the links train and HBM starts -/
  startOk : Bool := true
  deriving DecidableEq, Repr

/-- What patrol scrub finds at a line (R220). -/
inductive ScrubFate
  | clean
  | corrected
  | uncorrectable
  deriving DecidableEq, Repr

/-- The control registers with no row of their own (R7). -/
inductive CtlReg
  | trapDeleg (tenant : Nat)
  | l2Target (die tenant : Nat)
  | erqPtr (part : Nat)
  deriving DecidableEq, Repr

/-- What another module answers to a post (R347, R351). -/
inductive PostFate
  | delivered
  | cap
  | noTarget
  | overwrite
  deriving DecidableEq, Repr

/-- A post that arrives from another module (R189, R347, R351): handle, offset, and the value of an RPOST or an RPOSTW. -/
structure PeerPost where
  handle : DWord
  off : Nat
  wide : Bool
  value : Word
  data : BitVec 256
  s0 : Byte
  s1 : Byte
  tag : BitVec 6
  deriving DecidableEq, Repr

/-- A change of remote nodes that a directory exchange brings (R179). -/
inductive NodeOp
  | insert (parent : Nat) (tokens : List Word) (psn : Word) (station : BitVec 10)
  | remove (node : Nat)
  deriving DecidableEq, Repr

/-- What a peer module answers about a page set that it holds (R178, R179): no answer, evicted meanwhile, or words: of the
whole page set for a fetch; the status bits, m, l and o for a query. -/
inductive PeerBlock
  | unreachable
  | gone
  | served (ws : List Word)
  deriving DecidableEq, Repr

/-- A result entry of an engine and the command that it is of (R68). -/
structure EngineResult where
  value : Word
  cmd : Nat
  deriving DecidableEq, Repr

/-- An attention query that a peer module sends for a page set that this module holds (R177, R179): its number, the fields of its ATTN descriptor,
the elements of q in QTAG, and the positions of the block from lo up to hi. -/
structure PeerQuery where
  psn : Nat
  sigma : Word
  layer : Nat
  hoff : Nat
  dim : Nat
  qtag : Nat
  ktag : Nat
  vtag : Nat
  q : List Word
  lo : Nat
  hi : Nat
  deriving DecidableEq, Repr

/-- The steps of the module, one constructor per row of the opcode table.  Those that the machine itself writes down (the
instructions with operands, and what the agenda of a cycle names) stand first; the others follow. -/
inductive Instr
  /-- CLAUSE (R277): Clause header: gates troupe readiness on the wait mask, selects the flags counted by fs, and sets the yield bit. -/
  | clause (w : BitVec 12) (a b n : BitVec 4) (y : BitVec 1)
  /-- MOV_C (R278): Compact move d := g[s]. -/
  | movC (d : BitVec 6) (s : BitVec 5)
  /-- ADD_C (R278): Compact add d := d + g[s]. -/
  | addC (d : BitVec 6) (s : BitVec 5)
  /-- SUB_C (R278): Compact subtract d := d - g[s]. -/
  | subC (d : BitVec 6) (s : BitVec 5)
  /-- AND_C (R278): Compact and d := d and g[s]. -/
  | andC (d : BitVec 6) (s : BitVec 5)
  /-- OR_C (R278): Compact or d := d or g[s]. -/
  | orC (d : BitVec 6) (s : BitVec 5)
  /-- XOR_C (R278): Compact xor d := d xor g[s]. -/
  | xorC (d : BitVec 6) (s : BitVec 5)
  /-- SHL_C (R278): Compact shift left by g[s] bits 4:0. -/
  | shlC (d : BitVec 6) (s : BitVec 5)
  /-- SHR_C (R278): Compact logical shift right by g[s] bits 4:0. -/
  | shrC (d : BitVec 6) (s : BitVec 5)
  /-- ADDI_C (R278): Compact add of a 5-bit immediate. -/
  | addiC (d : BitVec 6) (s : BitVec 5)
  /-- MOVI_C (R278): Compact move of a 5-bit immediate. -/
  | moviC (d : BitVec 6) (s : BitVec 5)
  /-- FADD_C (R278): Compact F32 add rounded in mode. -/
  | faddC (d : BitVec 6) (s : BitVec 5)
  /-- FMUL_C (R278): Compact F32 multiply rounded in mode. -/
  | fmulC (d : BitVec 6) (s : BitVec 5)
  /-- FMAX_C (R278): Compact F32 maximum under R237. -/
  | fmaxC (d : BitVec 6) (s : BitVec 5)
  /-- FSUB_C (R278): Compact F32 subtract rounded in mode. -/
  | fsubC (d : BitVec 6) (s : BitVec 5)
  /-- SHRI_C (R278): Compact logical shift right by an immediate. -/
  | shriC (d : BitVec 6) (s : BitVec 5)
  /-- ADD (R279): Integer add modulo 2^32. -/
  | add (d a b : BitVec 6)
  /-- SUB (R279): Integer subtract modulo 2^32. -/
  | sub (d a b : BitVec 6)
  /-- MUL (R279): Low 32 bits of the product. -/
  | mul (d a b : BitVec 6)
  /-- MULH_I (R279): High 32 bits of the signed product. -/
  | mulhI (d a b : BitVec 6)
  /-- MULH_N (R279): High 32 bits of the unsigned product. -/
  | mulhN (d a b : BitVec 6)
  /-- DIV_I (R280): Signed division truncated toward zero, with defined results for division by zero. -/
  | divI (d a b : BitVec 6)
  /-- DIV_N (R280): Unsigned division, with 0xFFFF_FFFF on division by zero. -/
  | divN (d a b : BitVec 6)
  /-- REM_I (R280): Signed remainder taking the sign of x; x on division by zero. -/
  | remI (d a b : BitVec 6)
  /-- REM_N (R280): Unsigned remainder; x on division by zero. -/
  | remN (d a b : BitVec 6)
  /-- AND (R279): Bitwise and. -/
  | and (d a b : BitVec 6)
  /-- OR (R279): Bitwise or. -/
  | or (d a b : BitVec 6)
  /-- XOR (R279): Bitwise exclusive or. -/
  | xor (d a b : BitVec 6)
  /-- ANDN (R279): x and not y. -/
  | andn (d a b : BitVec 6)
  /-- SHL (R279): Shift left by y bits 4:0. -/
  | shl (d a b : BitVec 6)
  /-- SHR (R279): Logical shift right by y bits 4:0. -/
  | shr (d a b : BitVec 6)
  /-- SAR (R279): Arithmetic shift right by y bits 4:0. -/
  | sar (d a b : BitVec 6)
  /-- ROT (R279): Rotate left by y bits 4:0. -/
  | rot (d a b : BitVec 6)
  /-- MIN_I (R279): Signed minimum. -/
  | minI (d a b : BitVec 6)
  /-- MIN_N (R279): Unsigned minimum. -/
  | minN (d a b : BitVec 6)
  /-- MAX_I (R279): Signed maximum. -/
  | maxI (d a b : BitVec 6)
  /-- MAX_N (R279): Unsigned maximum. -/
  | maxN (d a b : BitVec 6)
  /-- ABS (R279): Absolute value of the signed operand. -/
  | abs (d a : BitVec 6)
  /-- NEG (R279): 0 - x. -/
  | neg (d a : BitVec 6)
  /-- CLZ (R279): Count of leading zeros. -/
  | clz (d a : BitVec 6)
  /-- POPC (R279): Count of set bits. -/
  | popc (d a : BitVec 6)
  /-- BREV (R279): Bit reversal. -/
  | brev (d a : BitVec 6)
  /-- MOV (R279): Register move. -/
  | mov (d a : BitVec 6)
  /-- NOT (R279): Bitwise not. -/
  | not (d a : BitVec 6)
  /-- ADDI (R281): Add a sign-extended 13-bit immediate. -/
  | addi (d a : BitVec 6) (i : BitVec 13)
  /-- ANDI (R281): And with a zero-extended 13-bit immediate. -/
  | andi (d a : BitVec 6) (i : BitVec 13)
  /-- ORI (R281): Or with a zero-extended 13-bit immediate. -/
  | ori (d a : BitVec 6) (i : BitVec 13)
  /-- XORI (R281): Xor with a sign-extended 13-bit immediate. -/
  | xori (d a : BitVec 6) (i : BitVec 13)
  /-- SHLI (R282): Shift left by an immediate. -/
  | shli (d a : BitVec 6) (n : BitVec 5)
  /-- SHRI (R282): Logical shift right by an immediate. -/
  | shri (d a : BitVec 6) (n : BitVec 5)
  /-- SARI (R282): Arithmetic shift right by an immediate. -/
  | sari (d a : BitVec 6) (n : BitVec 5)
  /-- ROTI (R282): Rotate left by an immediate. -/
  | roti (d a : BitVec 6) (n : BitVec 5)
  /-- MOVH (R283): Writes imm19 << 13 into gd. -/
  | movh (d : BitVec 6) (i : BitVec 19)
  /-- CMP (R284): Integer compare of two g registers into a predicate, signed or unsigned. -/
  | cmp (p : BitVec 3) (a b : BitVec 6) (y : BitVec 3) (c : BitVec 4)
  /-- CMPI (R285): Integer compare against a sign-extended immediate into a predicate. -/
  | cmpi (p c : BitVec 3) (a : BitVec 6) (i : BitVec 13)
  /-- PAND (R286): Predicate and. -/
  | pand (d a b : BitVec 3)
  /-- POR (R286): Predicate or. -/
  | por (d a b : BitVec 3)
  /-- PXOR (R286): Predicate xor. -/
  | pxor (d a b : BitVec 3)
  /-- PANDN (R286): Predicate and-not. -/
  | pandn (d a b : BitVec 3)
  /-- PNOT (R286): Predicate not. -/
  | pnot (d a : BitVec 3)
  /-- PMOVG (R286): Predicate from a g register being non-zero. -/
  | pmovg (d : BitVec 3) (a : BitVec 6)
  /-- PMOVP (R286): Writes 1 or 0 to a g register from a predicate. -/
  | pmovp (d : BitVec 6) (a : BitVec 3)
  /-- SEL (R287): Selects one of two g registers by a predicate, reading both. -/
  | sel (d a b : BitVec 6) (p : BitVec 3)
  /-- FADD (R288): F32 addition rounded in mode. -/
  | fadd (d a b : BitVec 6)
  /-- FSUB (R288): F32 subtraction rounded in mode. -/
  | fsub (d a b : BitVec 6)
  /-- FMUL (R288): F32 multiplication rounded in mode. -/
  | fmul (d a b : BitVec 6)
  /-- FDIV (R288): F32 division rounded in mode. -/
  | fdiv (d a b : BitVec 6)
  /-- FMIN (R288): IEEE minimum under R237. -/
  | fmin (d a b : BitVec 6)
  /-- FMAX (R288): IEEE maximum under R237. -/
  | fmax (d a b : BitVec 6)
  /-- FABS (R288): Clears the sign bit. -/
  | fabs (d a : BitVec 6)
  /-- FNEG (R288): Inverts the sign bit. -/
  | fneg (d a : BitVec 6)
  /-- FCPSGN (R288): x with the sign bit of y. -/
  | fcpsgn (d a b : BitVec 6)
  /-- FSQRT (R288): F32 square root rounded in mode. -/
  | fsqrt (d a : BitVec 6)
  /-- FRCP (R288): F32 reciprocal in the special unit. -/
  | frcp (d a : BitVec 6)
  /-- FRSQ (R288): F32 reciprocal square root in the special unit. -/
  | frsq (d a : BitVec 6)
  /-- EX2 (R242): Bit-exact 2^x by the algorithm of R242. -/
  | ex2 (d a : BitVec 6)
  /-- FMA (R289): Fused x*y + d with one rounding. -/
  | fma (d a b : BitVec 6)
  /-- FMS (R289): Fused x*y - d with one rounding. -/
  | fms (d a b : BitVec 6)
  /-- FNMA (R289): Fused -(x*y) + d with one rounding. -/
  | fnma (d a b : BitVec 6)
  /-- FNMS (R289): Fused -(x*y) - d with one rounding. -/
  | fnms (d a b : BitVec 6)
  /-- FCMP (R290): IEEE float compare into a predicate. -/
  | fcmp (p : BitVec 3) (a b : BitVec 6) (c : BitVec 7)
  /-- FCVT_F32_I32 (R291): Converts a signed integer to F32. -/
  | fcvtF32I32 (d a : BitVec 6) (r : BitVec 3)
  /-- FCVT_F32_N32 (R291): Converts an unsigned integer to F32. -/
  | fcvtF32N32 (d a : BitVec 6) (r : BitVec 3)
  /-- FCVT_I32_F32 (R291): Converts F32 to a signed integer. -/
  | fcvtI32F32 (d a : BitVec 6) (r : BitVec 3)
  /-- FCVT_N32_F32 (R291): Converts F32 to an unsigned integer. -/
  | fcvtN32F32 (d a : BitVec 6) (r : BitVec 3)
  /-- FCVT_F32_F16 (R291): Widens F16 to F32 exactly. -/
  | fcvtF32F16 (d a : BitVec 6) (r : BitVec 3)
  /-- FCVT_F16_F32 (R291): Narrows F32 to F16. -/
  | fcvtF16F32 (d a : BitVec 6) (r : BitVec 3)
  /-- FCVT_F32_BF16 (R291): Widens BF16 to F32 exactly. -/
  | fcvtF32Bf16 (d a : BitVec 6) (r : BitVec 3)
  /-- FCVT_BF16_F32 (R291): Narrows F32 to BF16. -/
  | fcvtBf16F32 (d a : BitVec 6) (r : BitVec 3)
  /-- FRND (R291): Rounds F32 to an integral F32 value. -/
  | frnd (d a : BitVec 6) (r : BitVec 3)
  /-- AADD (R292): a[d] := a[a] + (sext(g[b]) << sh). -/
  | aadd (d a : BitVec 4) (b : BitVec 6) (s : BitVec 3)
  /-- AMOV (R292): Builds a 64-bit address from a g pair. -/
  | amov (d : BitVec 4) (s : BitVec 6)
  /-- ASPLIT (R292): Splits an address register into a g pair. -/
  | asplit (d : BitVec 6) (a : BitVec 4)
  /-- ACMP (R292): Compares two address registers into a predicate. -/
  | acmp (d : BitVec 3) (a b : BitVec 4) (c : BitVec 3)
  /-- AMOVA (R292): Copies one address register to another. -/
  | amova (d a : BitVec 4)
  /-- AADDI (R293): Adds a sign-extended byte immediate to an address register. -/
  | aaddi (d a : BitVec 4) (i : BitVec 13)
  /-- AFROM (R294): Address relative to the clause header. -/
  | afrom (d : BitVec 4) (i : BitVec 19)
  /-- BR (R295): Conditional PC-relative branch to a clause header, splitting divergent troupes. -/
  | br (p : BitVec 3) (n : BitVec 1) (o : BitVec 21)
  /-- CALL (R296): Conditional branch that writes the link into a15. -/
  | call (p : BitVec 3) (n : BitVec 1) (o : BitVec 21)
  /-- JMP (R297): Jump to the header addressed by an a register. -/
  | jmp (a : BitVec 4)
  /-- JCALL (R297): Indirect jump writing the link into ad. -/
  | jcall (d a : BitVec 4)
  /-- RET (R297): Return; same effect as JMP. -/
  | ret (a : BitVec 4)
  /-- TRAP (R298): Traps the thread SOFT with a 12-bit code. -/
  | trap (c : BitVec 12)
  /-- SPAWN (R47): Creates a group of the spawning thread's kernel on the same core and bank. -/
  | spawn (d : BitVec 6) (a : BitVec 4) (b : BitVec 6)
  /-- LD (R307): Scalar load at the chosen level, tracked on a flag. -/
  | ld (t : BitVec 6) (a : BitVec 4) (l : BitVec 2) (y : BitVec 3) (f : BitVec 1) (o : BitVec 9)
  /-- ST (R307): Scalar store through the store queue at the chosen level. -/
  | st (t : BitVec 6) (a : BitVec 4) (l : BitVec 2) (y : BitVec 3) (f : BitVec 1) (o : BitVec 9)
  /-- WLD (R308): Packed load of one w register footprint, setting its tag. -/
  | wld (t a : BitVec 4) (l : BitVec 2) (o : BitVec 6) (f : BitVec 1) (g : BitVec 6)
  /-- WST (R308): Packed store of one w register footprint. -/
  | wst (t a : BitVec 4) (l : BitVec 2) (o : BitVec 6) (f : BitVec 1) (g : BitVec 6)
  /-- GATHER (R309): Indexed load of eight words into a w register. -/
  | gather (d a b : BitVec 4) (f : BitVec 1) (l : BitVec 2) (y : BitVec 1)
  /-- SCATTER (R309): Indexed store of eight words from a w register. -/
  | scatter (d a b : BitVec 4) (f : BitVec 1) (l : BitVec 2) (y : BitVec 1)
  /-- PREF (R310): Prefetches a line into L1/L2; never faults or logs. -/
  | pref (a : BitVec 4) (l : BitVec 2) (o : BitVec 9)
  /-- ATOM_ADD (R311): Atomic add at the home. -/
  | atomAdd (d : BitVec 6) (a : BitVec 4) (b : BitVec 6) (f : BitVec 1) (l : BitVec 2)
  /-- ATOM_MIN_I (R311): Atomic signed minimum at the home. -/
  | atomMinI (d : BitVec 6) (a : BitVec 4) (b : BitVec 6) (f : BitVec 1) (l : BitVec 2)
  /-- ATOM_MIN_N (R311): Atomic unsigned minimum at the home. -/
  | atomMinN (d : BitVec 6) (a : BitVec 4) (b : BitVec 6) (f : BitVec 1) (l : BitVec 2)
  /-- ATOM_MAX_I (R311): Atomic signed maximum at the home. -/
  | atomMaxI (d : BitVec 6) (a : BitVec 4) (b : BitVec 6) (f : BitVec 1) (l : BitVec 2)
  /-- ATOM_MAX_N (R311): Atomic unsigned maximum at the home. -/
  | atomMaxN (d : BitVec 6) (a : BitVec 4) (b : BitVec 6) (f : BitVec 1) (l : BitVec 2)
  /-- ATOM_AND (R311): Atomic and at the home. -/
  | atomAnd (d : BitVec 6) (a : BitVec 4) (b : BitVec 6) (f : BitVec 1) (l : BitVec 2)
  /-- ATOM_OR (R311): Atomic or at the home. -/
  | atomOr (d : BitVec 6) (a : BitVec 4) (b : BitVec 6) (f : BitVec 1) (l : BitVec 2)
  /-- ATOM_XOR (R311): Atomic xor at the home. -/
  | atomXor (d : BitVec 6) (a : BitVec 4) (b : BitVec 6) (f : BitVec 1) (l : BitVec 2)
  /-- ATOM_XCHG (R311): Atomic exchange at the home. -/
  | atomXchg (d : BitVec 6) (a : BitVec 4) (b : BitVec 6) (f : BitVec 1) (l : BitVec 2)
  /-- ATOM_FADD (R311): Atomic F32 add rounded RNE at the home. -/
  | atomFadd (d : BitVec 6) (a : BitVec 4) (b : BitVec 6) (f : BitVec 1) (l : BitVec 2)
  /-- ATOM_BUMP (R311): Atomic increment that never passes the capacity y. -/
  | atomBump (d : BitVec 6) (a : BitVec 4) (b : BitVec 6) (f : BitVec 1) (l : BitVec 2)
  /-- ACAS (R312): Atomic compare and swap at the home. -/
  | acas (d : BitVec 6) (a : BitVec 4) (b : BitVec 6) (f : BitVec 1) (l : BitVec 2)
  /-- FENCE (R313): Orders predecessor before successor operation classes at a scope; acquires self-invalidate L1. -/
  | fence (p u : BitVec 5) (s : BitVec 3)
  /-- BAR_ARRIVE (R52): Arrives at a barrier and returns its phase. -/
  | barArrive (d b : BitVec 6)
  /-- BAR_WAIT (R52): Blocks until the barrier phase differs from the given phase. -/
  | barWait (a b : BitVec 6)
  /-- BAR_SYNC (R52): Arrives and blocks until the phase changes. -/
  | barSync (b : BitVec 6)
  /-- BAR_INIT (R51): Initialises barriers for the units of level L. -/
  | barInit (a b : BitVec 6) (l : BitVec 3)
  /-- BAR_TEST (R52): Reads whether COUNT is zero, and the phase and physical index. -/
  | barTest (d b : BitVec 6) (p : BitVec 3)
  /-- BAR_DROP (R52): Removes the thread from the barrier's expected count. -/
  | barDrop (b : BitVec 6)
  /-- TWAITANY (R60): Blocks until any masked tag is set. -/
  | twaitany (a : BitVec 4)
  /-- TWAITALL (R60): Blocks until all masked tags are set. -/
  | twaitall (a : BitVec 4)
  /-- TFIRST (R60): Index of the lowest set masked tag, without blocking. -/
  | tfirst (d : BitVec 6) (a : BitVec 4)
  /-- TCLR (R60): Clears the masked tags through the store queue. -/
  | tclr (a : BitVec 4)
  /-- TSET (R60): Sets the masked tags through the store queue. -/
  | tset (a : BitVec 4)
  /-- TTEST (R60): Predicate whether any masked tag is set. -/
  | ttest (d : BitVec 3) (a : BitVec 4)
  /-- QBIND (R74): Binds a queue port to a queue descriptor in one direction. -/
  | qbind (q : BitVec 2) (a : BitVec 4) (b : BitVec 1)
  /-- QSTAT (R316): Returns count, direction and state of the bound queue. -/
  | qstat (d : BitVec 6) (q : BitVec 2)
  /-- QCLOSE (R67): Closes the bound queue; blocked threads trap QUEUE. -/
  | qclose (q : BitVec 2)
  /-- QTRY (R317): Non-blocking pop or push reporting success in p7. -/
  | qtry (d : BitVec 6) (q : BitVec 2) (b : BitVec 6)
  /-- HPUSH (R73): Inserts a key and payload into the die task heap. -/
  | hpush (a : BitVec 6) (b : BitVec 4) (f : BitVec 1)
  /-- HPOP (R73): Pops one of the 32 smallest keys, waiting while the heap is empty. -/
  | hpop (d : BitVec 6) (b : BitVec 4) (f : BitVec 1)
  /-- HTRY (R73): Pops if the heap is non-empty, reporting in p7. -/
  | htry (d : BitVec 6) (b : BitVec 4) (f : BitVec 1)
  /-- MOVS (R300): Reads a special register. -/
  | movs (d : BitVec 6) (n : BitVec 10)
  /-- MOVSW (R301): Writes FSTAT, RMODE or SRSTEP after earlier float operations complete. -/
  | movsw (a : BitVec 6) (n : BitVec 10)
  /-- MKH (R348): Mints a register handle in the core's handle table. -/
  | mkh (d : BitVec 4) (a : BitVec 6) (f : BitVec 1)
  /-- ARM (R349): Clears the full bits of a register range. -/
  | arm (d : BitVec 6) (k : BitVec 1) (b : BitVec 6)
  /-- RPOST (R351): Posts a g value through a handle into another thread's register. -/
  | rpost (d : BitVec 6) (a : BitVec 4) (b : BitVec 6) (f : BitVec 1) (o : BitVec 2)
  /-- RPOSTW (R351): Posts a w register with its tag and scales through a handle. -/
  | rpostw (d : BitVec 6) (a b : BitVec 4) (f : BitVec 1) (o : BitVec 2)
  /-- FULL (R350): Samples a register's full bit into a predicate. -/
  | full (d : BitVec 3) (a : BitVec 6) (k : BitVec 1)
  /-- REVOKE (R353): Revokes a handle at its core. -/
  | revoke (a : BitVec 4) (f : BitVec 1) (o : BitVec 2)
  /-- STREAM (R340): Streamer copies a TSR tile with conversion. -/
  | stream (a : BitVec 4) (b : BitVec 6) (f : BitVec 1) (o : BitVec 2)
  /-- STREAMG (R340): Streamer gathers rows by index. -/
  | streamg (a : BitVec 4) (b : BitVec 6) (f : BitVec 1) (o : BitVec 2)
  /-- SCOPY (R340): Streamer byte copy with overlap-safe semantics. -/
  | scopy (a : BitVec 4) (b : BitVec 6) (f : BitVec 1) (o : BitVec 2)
  /-- BINSCAT (R341): Streamer scatters rows into bins with overflow bin and drop count. -/
  | binscat (a : BitVec 4) (b : BitVec 6) (f : BitVec 1) (o : BitVec 2)
  /-- SFILL (R340): Streamer fills a range with a repeated 8-byte pattern. -/
  | sfill (a : BitVec 4) (b : BitVec 6) (f : BitVec 1) (o : BitVec 2)
  /-- MMA (R329): Queues a matrix multiply-accumulate into a tile. -/
  | mma (d : BitVec 3) (a : BitVec 4) (b : BitVec 6) (f : BitVec 1) (o : BitVec 2)
  /-- MMAS (R329): Queues a 16:32 sparse matrix multiply-accumulate. -/
  | mmas (d : BitVec 3) (a : BitVec 4) (b : BitVec 6) (f : BitVec 1) (o : BitVec 2)
  /-- XZERO (R333): Zeroes a tile and clears its FAIL bit. -/
  | xzero (d : BitVec 3)
  /-- XLD (R334): Loads a tile from a TSR, widening exactly. -/
  | xld (d : BitVec 3) (a : BitVec 4) (b : BitVec 6) (f : BitVec 1) (o : BitVec 2)
  /-- XST (R334): Stores a tile to a TSR with conversion. -/
  | xst (d : BitVec 3) (a : BitVec 4) (b : BitVec 6) (f : BitVec 1) (o : BitVec 2)
  /-- XDRAIN (R335): Drains a tile to memory or adds it into a peer tile, then zeroes it. -/
  | xdrain (d : BitVec 3) (a : BitVec 4) (b : BitVec 6) (f : BitVec 1) (o : BitVec 2)
  /-- XGUARD (R333): Reads, and optionally clears, a tile's guard status. -/
  | xguard (d : BitVec 6) (a : BitVec 3) (c : BitVec 1)
  /-- XTAG (R333): Returns the tile tag F32. -/
  | xtag (d : BitVec 6) (a : BitVec 3)
  /-- BIND (R355): Creates a standing product binding and computes C in full. -/
  | bind (d : BitVec 6) (a : BitVec 4) (f : BitVec 1) (o : BitVec 2)
  /-- UNBIND (R356): Stops capture and frees a binding number. -/
  | unbind (b : BitVec 6) (f : BitVec 1) (o : BitVec 2)
  /-- SETTLE (R357): Cuts the epoch and corrects C, or reconciles it in full. -/
  | settle (d b : BitVec 6) (f : BitVec 1) (o : BitVec 2)
  /-- STALE (R358): Returns the binding's staleness status word. -/
  | stale (d b : BitVec 6) (f : BitVec 1)
  /-- RECOMP (R357): Recomputes C in full at a new cut. -/
  | recomp (d b : BitVec 6) (f : BitVec 1) (o : BitVec 2)
  /-- BSTAT (R358): Returns binding state, last command and settle count. -/
  | bstat (d b : BitVec 6) (f : BitVec 1)
  /-- PXFIND (R360): Creates a sequence and matches its prompt against the prefix tree. -/
  | pxfind (d : BitVec 6) (a : BitVec 4) (f : BitVec 1) (o : BitVec 2)
  /-- PXINS (R361): Indexes a sequence's private full blocks as tree nodes. -/
  | pxins (d : BitVec 6) (a : BitVec 4) (b : BitVec 6) (f : BitVec 1) (o : BitVec 2)
  /-- PXREF (R362): Forks a sequence, adding a reference to each page set. -/
  | pxref (d : BitVec 6) (a : BitVec 4) (b : BitVec 6) (f : BitVec 1) (o : BitVec 2)
  /-- PXUNREF (R362): Releases a sequence and its page-set references. -/
  | pxunref (d b : BitVec 6) (f : BitVec 1) (o : BitVec 2)
  /-- KVAPP (R174): Reserves positions, copying a shared partial block on write. -/
  | kvapp (d b : BitVec 6) (f : BitVec 1) (o : BitVec 2)
  /-- KVTRIM (R363): Rolls a sequence back to a shorter length. -/
  | kvtrim (d b : BitVec 6) (f : BitVec 1) (o : BitVec 2)
  /-- KVXLAT (R364): Translates (sequence, position, layer) into a K-slot VA per thread. -/
  | kvxlat (d : BitVec 4) (b : BitVec 6) (f : BitVec 1)
  /-- ATTN (R365): Attention over a position range computed in the slice dot units. -/
  | attn (d : BitVec 6) (a : BitVec 4) (f : BitVec 1) (o : BitVec 2)
  /-- WADD (R320): Element-wise packed add. -/
  | wadd (d a b : BitVec 4)
  /-- WSUB (R320): Element-wise packed subtract. -/
  | wsub (d a b : BitVec 4)
  /-- WMUL (R320): Element-wise packed multiply. -/
  | wmul (d a b : BitVec 4)
  /-- WFMA (R320): Element-wise fused multiply-add into d. -/
  | wfma (d a b : BitVec 4)
  /-- WMAX (R320): Element-wise maximum. -/
  | wmax (d a b : BitVec 4)
  /-- WMIN (R320): Element-wise minimum. -/
  | wmin (d a b : BitVec 4)
  /-- WDOT (R321): Eight-lane dot product accumulated into F32 with one rounding. -/
  | wdot (d a b : BitVec 4)
  /-- WRED (R324): Reduces eight elements into a g register over a fixed tree. -/
  | wred (d : BitVec 6) (a : BitVec 4) (m : BitVec 3)
  /-- WCVT (R322): Converts packed elements between formats, optionally stochastic. -/
  | wcvt (d a : BitVec 4) (t : BitVec 6) (r k : BitVec 1)
  /-- WPACK (R320): Or-combines data and scales of two registers. -/
  | wpack (d a b : BitVec 4)
  /-- WUNPK (R323): Widens eight elements of a part to F32 or I32. -/
  | wunpk (d a : BitVec 4) (p : BitVec 2)
  /-- WSHUF (R323): Byte shuffle under control bytes. -/
  | wshuf (d a b : BitVec 4)
  /-- WTAG (R320): Retags a w register and zeroes unused bits. -/
  | wtag (d : BitVec 4) (t : BitVec 6)
  /-- WSCL (R324): Scales elements or block scale bytes by 2^k. -/
  | wscl (d a : BitVec 4) (b : BitVec 6)
  /-- WSETS (R320): Sets scale byte s0 or s1 from a g register. -/
  | wsets (d : BitVec 4) (a : BitVec 6) (m : BitVec 1)
  /-- WCMP (R324): Element-wise compare into a bit mask. -/
  | wcmp (d : BitVec 6) (a b : BitVec 4) (c : BitVec 3)
  /-- SCHEDULER_TAKE_LAUNCH (R29): The die scheduler takes the head launch-queue entry, validates it, and reserves a placement or keeps the kernel pending. -/
  | schedulerTakeLaunch (die queue core bank : Nat)
  /-- PLACEMENT_ARRIVAL (R29): Placement and code window arrive at the target core, which initialises the group's slots. -/
  | placementArrival (idx : Nat)
  /-- PENDING_GROUP_PLACE (R29): A pending or recalled group is placed when slots become free. -/
  | pendingGroupPlace (idx core bank : Nat)
  /-- FORMATION_ROUND (R36): Every 8 cycles an issue slot rebuilds troupes from threads at clause headers. -/
  | formationRound (core islot : Nat)
  /-- TRAP_AT_REPLY (R380): A trap decided after issue reaches the core and halts the group. -/
  | trapAtReply (idx : Nat)
  /-- GROUP_HALTED (R45): Every troupe has stopped; the handler chosen by delegation starts. -/
  | groupHalted (g : Nat)
  /-- GROUP_RECALL (R58): A barrier named in a wake-up record releases and the group is reloaded. -/
  | groupRecall (g : Nat)
  /-- GROUP_RETIRE (R45): A RETIRING group whose release is performed and with nothing in flight frees its resources. -/
  | groupRetire (g : Nat)
  /-- KERNEL_DRAIN_DONE (R32): All groups retired and engine work completed: the kernel RETIRES. -/
  | kernelDrainDone (k : Nat)
  /-- THREAD_SLOT_FREE (R46): An EXITED thread with nothing in flight frees its slot and advances handle generations. -/
  | threadSlotFree (t : TRef)
  /-- KERNEL_CANCEL_DONE (R32): All groups discarded and engine work drained: FAULTED or CANCELLED with a rejection add. -/
  | kernelCancelDone (k : Nat)
  /-- BARRIER_RELEASE (R56): Six cycles after completion the barrier's waiters are released and wake-up records acted on. -/
  | barrierRelease (core bank phys : Nat)
  /-- HEAP_ARRIVAL (R318): A heap operation reaches the task heap and is performed in arrival order. -/
  | heapArrival (die pick : Nat)
  /-- SWAP_END (R78): At cycle 48 of a swap the incoming bank becomes selectable and BUSY clears. -/
  | swapEnd (core : Nat)
  /-- SPILL_DONE (R79): The last byte is written; the context is SPILLED and the bank free. -/
  | spillDone (core : Nat)
  /-- LOAD_DONE (R94): The load finishes, held posts apply, the context is SHADOW and SPILLED is cleared. -/
  | loadDone (core : Nat)
  /-- OPERAND_LOG_REPLAY (R86): A resolved logged entry replays its faulted elements, then held entries in order. -/
  | operandLogReplay (id : Nat)
  /-- PAGE_WALK_DONE (R133): A page walk finishes, setting A/D, filling TLBs or logging a fault. -/
  | pageWalkDone (id : Nat)
  /-- STORE_DRAIN (R103): A store leaves the store queue, writes L1 and sends a registration. -/
  | storeDrain (t : TRef)
  /-- REGISTRATION_ACCEPT (R103): The home records ownership of the masked words and revokes other owners. -/
  | registrationAccept (id : Nat)
  /-- HOME_REQUEST (R104): A load, atomic or other request is performed at the home slice in home order, forwarding registered words. -/
  | homeRequest (id : Nat)
  /-- FORWARD_AT_OWNER (R104): The owning core sends a registered word to the home, or an empty reply. -/
  | forwardAtOwner (id : Nat)
  /-- ACCESS_COMPLETE (R303): A load, store or atomic completion reaches the thread, writing its register and counting its flag down. -/
  | accessComplete (id : Nat)
  /-- SETTLE_CUT_MARKER (R115): A home slice receives a settle cut marker and advances its epoch. -/
  | settleCutMarker (die slice : Nat)
  /-- SHOOTDOWN_ACK (R136): All units have dropped entries and drained accesses; the broadcast completes. -/
  | shootdownAck (idx : Nat)
  /-- MIGRATION_COPY_DONE (R140): Copy completes; leaves repointed with W restored and source to SCRUBBING. -/
  | migrationCopyDone (src : Nat)
  /-- SCRUB_DONE (R141): Zero fill, invalidation and broadcast done; the frame becomes FREE. -/
  | scrubDone (frame : Nat)
  /-- SPE_COMMAND_START (R147): The SPE starts the next command of a binding once the one before completes. -/
  | speCommandStart (die : Nat)
  /-- SPE_FULL_COMPUTE_DONE (R150): A full computation of C completes and the binding rests. -/
  | speFullComputeDone (part n : Nat)
  /-- SPE_SETTLE_DONE (R149): An ordinary settle's corrections are written and the command completes. -/
  | speSettleDone (part n : Nat)
  /-- ADAPT_ADMIT (R157): A freed adaptation slot admits the oldest waiting BIND. -/
  | adaptAdmit (part : Nat)
  /-- PFX_COMMAND_START (R171): The prefix engine performs the next command of a sequence in acceptance order. -/
  | pfxCommandStart (die : Nat) (peers : List PeerBlock)
  /-- PFX_COPY_DONE (R168): A page-set copy completes; the map entry is released. -/
  | pfxCopyDone (idx : Nat) (peer : PeerBlock)
  /-- FLIT_ARRIVAL (R182): A flit passes its destination stop and is ejected or refused and circulates. -/
  | flitArrival (idx : Nat) (full parityBad : Bool)
  /-- BUDGET_PERIOD (R184): Every 1,024 cycles injection and HBM budgets restart. -/
  | budgetPeriod (die : Nat)
  /-- COLLECTIVE_TAKE (R191): The collective service takes a queue entry and reads its descriptor. -/
  | collectiveTake (queue : Nat)
  /-- COLLECTIVE_REDUCE (R191): All NLOC descriptors present: the partition reduces exactly and rounds once. -/
  | collectiveReduce (comm step : Nat)
  /-- PARTITION_RESET_DONE (R199): The partition reset completes, RUNNING or DEGRADED. -/
  | partitionResetDone (p : Nat)
  /-- CLUSTER_START (R226): Each die starts one more cluster every 4,096 cycles. -/
  | clusterStart (die : Nat)
  /-- POST_ARRIVAL (R347): A post reaches the target core, is checked and delivered or rejected. -/
  | postArrival (idx : Nat) (peer : Option PeerPost)
  /-- REVOKE_ARRIVAL (R353): A revoke reaches the handle's core and frees a live entry. -/
  | revokeArrival (idx : Nat)
  /-- POST_REPLY (R351): The acknowledgement or rejection returns to the sender. -/
  | postReply (idx : Nat) (fate : PostFate)
  /-- DRAIN_ARRIVAL (R337): A peer drain arrives and is added, held or rejected by sequence. -/
  | drainArrival (idx : Nat)
  /-- MATRIX_COMMAND_DONE (R329): The array finishes an MMA, checks the guard and commits the tile. -/
  | matrixCommandDone (idx mismatches : Nat)
  /-- STREAMER_COMMAND_DONE (R338): A streamer command completes, writing STATUS, then tag, then flag. -/
  | streamerCommandDone (cluster idx : Nat)
  /-- CE_FOLD_FLUSH (R218): A pending corrected record is written after 1 ms. -/
  | ceFoldFlush (idx : Nat)
  /-- ARRAY_POWER_DOWN (R226): An array idle for 65,536 cycles powers down. -/
  | arrayPowerDown (core : Nat)
  /-- ARRAY_WAKE (R226): A powered-down array wakes in the ramp before the first MMA. -/
  | arrayWake (core : Nat)
  /-- RESERVED_ENCODING (R272): A parcel or word that matches no listed instruction (op 0x00 or 0x2E–0x3E, an unlisted selector, parcel 0x0000, or op4 15 other than 0x001E) traps ILLEGAL at decode. -/
  | reservedEncoding (w : Word)
  /-- GLEANER_TRANSFER (R80): Each cycle the Gleaner completes one 128-byte transfer of a spilling context, passing bytes that stalled accesses wait on and marking slots as copied. -/
  | gleanerTransfer (core : Nat)
  /-- NOP_C (R278): Compact no-operation, parcel 0x001E. -/
  | nopC
  /-- EXIT (R48): Retires the thread; the last exit moves the group to RETIRING. -/
  | exit
  /-- YIELD (R48): The troupe takes the current cycle as its age and drops the greedy hold. -/
  | yield
  /-- NOP (R298): No operation. -/
  | nop
  /-- BRK (R298): Traps the thread BRK and halts the group. -/
  | brk
  /-- QUEUE_PORT_PUSH (R65): A push through a port is performed at the queue as a release, or blocks while full and is retried when room appears. -/
  | queuePortPush (t : TRef) (port : BitVec 2) (v : Word)
  /-- QUEUE_PORT_POP (R65): A pop through a port is performed as an acquire, or blocks while empty and is retried when an entry arrives. -/
  | queuePortPop (t : TRef) (port : BitVec 2)
  /-- UNIT_HANDOFF (R23): Another die's scheduler receives a unit handed over and places it. -/
  | unitHandoff (idx die : Nat)
  /-- STEAL_REQUEST (R75): An idle cluster scheduler asks another cluster for donatable work. -/
  | stealRequest (cluster : Nat)
  /-- STEAL_REPLY (R75): The thief receives task control blocks or a refusal, and places or asks the next cluster. -/
  | stealReply (idx : Nat)
  /-- TRAP_SERVICE_TIMEOUT (R91): A service group not placed within 1 ms sends the trap to the Ringmaster. -/
  | trapServiceTimeout (g : Nat)
  /-- TRAP_RESUME (R92): Action 1 resumes the group from its resumption records. -/
  | trapResume (g : Nat)
  /-- TRAP_TERMINATE_GROUP (R92): Action 2, or exit without action, discards the group. -/
  | trapTerminateGroup (g : Nat)
  /-- TRAP_TERMINATE_KERNEL (R92): Action 3 discards the group and sends the kernel to CANCELLING. -/
  | trapTerminateKernel (g : Nat)
  /-- GROUP_EVICT (R58): A group blocked at barriers is spilled to free slots and a wake-up record written. -/
  | groupEvict (g : Nat)
  /-- KERNEL_CANCEL (R34): The Ringmaster cancels a kernel through the kernel table. -/
  | kernelCancel (k : Nat)
  /-- QUEUE_CONFIGURE (R67): The Ringmaster configures a FREE queue descriptor. -/
  | queueConfigure (asid : BitVec 16) (va : DWord) (cfg : QueueCfg)
  /-- QUEUE_REOPEN (R67): The Ringmaster reopens or frees a CLOSED queue. -/
  | queueReopen (q : Nat) (free : Bool)
  /-- ENGINE_RESULT_PUSH (R68): An engine pushes a result entry, holding it while the queue is full. -/
  | engineResultPush (q : Nat) (v : EngineResult)
  /-- NOTIFY (R70): The notify gate authenticates a peer notify and advances TAIL or drops it. -/
  | notify (session : Word) (va : DWord) (tail : Word) (seq : DWord) (tag : BitVec 128)
  /-- HEAP_OWNER_WRITE (R72): Granting the heap; a change of VALID or ASID discards every entry. -/
  | heapOwnerWrite (die : Nat) (v : DWord)
  /-- CTX_SWAP (R78): CTX_CMD SWAP exchanges the banks, abandoning a spill in progress. -/
  | ctxSwap (core : Nat)
  /-- CTX_SPILL (R79): CTX_CMD SPILL starts writing the shadow context to its save area. -/
  | ctxSpill (core : Nat) (save : BitVec 26)
  /-- CTX_LOAD (R82): CTX_CMD LOAD checks the header and starts reading a SPILLED context into the shadow bank. -/
  | ctxLoad (core : Nat) (save : BitVec 26) (ctx asid : BitVec 16)
  /-- CTX_DISCARD (R77): CTX_CMD DISCARD frees the shadow bank, discarding its groups and cancelling their kernels. -/
  | ctxDiscard (core : Nat)
  /-- CTX_CMD_BAD (R77): A CTX_CMD write of an invalid CMD sets STATUS 5. -/
  | ctxCmdBad (core : Nat) (cmd : BitVec 3)
  /-- ATTENDANT_FAULT_HANDLE (R206): The attendant receives a fault or delegated trap and resolves it, asking the Ringmaster if needed. -/
  | attendantFaultHandle (id : Nat) (fate : FaultFate)
  /-- L1_EVICT_WRITEBACK (R105): L1 eviction writes registered words to the home, clearing registration. -/
  | l1EvictWriteback (core line : Nat)
  /-- DSP_WIN_WRITE (R98): Write of a tenant die-scratchpad window, discarded whole if out of range. -/
  | dspWinWrite (die tenant : Nat) (v : DWord)
  /-- SFENCE_VMA (R135): A Ringmaster hart broadcasts translation invalidation across the partition. -/
  | sfenceVma (part : Nat) (asid : Option (BitVec 16)) (va : Option DWord)
  /-- SHOOTDOWN_TIMEOUT_WARN (R136): After 8 µs unacknowledged, XL_SHOOT_TIMEOUT with A1 is written. -/
  | shootdownTimeoutWarn (idx : Nat)
  /-- SHOOTDOWN_TIMEOUT_RESET (R136): After 1 ms unacknowledged, XL_SHOOT_TIMEOUT with A5 and a partition reset. -/
  | shootdownTimeoutReset (idx : Nat)
  /-- FRAME_ALLOCATE (R139): The Ringmaster provides a frame to a tenant, free or by evicting a victim. -/
  | frameAllocate (tenant frame : Nat) (asid : BitVec 16) (va : DWord) (leaf : Nat) (perms : BitVec 3)
  /-- FRAME_EVICT (R139): A victim frame is written out, unmapped with a broadcast and scrubbed. -/
  | frameEvict (frame : Nat)
  /-- AGE_SWEEP (R139): Every 1 ms the Ringmaster sweeps and clears A bits to age frames. -/
  | ageSweep
  /-- FRAME_WRITEBACK_DONE (R138): Write-back to backing store completes and the frame becomes BACKED. -/
  | frameWritebackDone (frame : Nat)
  /-- FRAME_PIN (R138): The Ringmaster pins a frame. -/
  | framePin (frame : Nat)
  /-- FRAME_UNPIN (R138): The Ringmaster unpins a frame. -/
  | frameUnpin (frame : Nat)
  /-- MIGRATION_START (R140): Source marked MIGRATING, W withheld, broadcast and copy started. -/
  | migrationStart (src dst : Nat)
  /-- MIGRATION_ABANDON (R140): A faulting or uncorrectable copy abandons the migration. -/
  | migrationAbandon (src : Nat) (ue : Bool)
  /-- SCRUB_FAIL (R141): A failed scrub write sends the frame to POISONED. -/
  | scrubFail (frame : Nat)
  /-- ROW_SPARE_REPAIR (R138): Row sparing repairs every poisoned line of a POISONED frame. -/
  | rowSpareRepair (frame left : Nat)
  /-- TEN_FR_WRITE (R139): Write of a tenant frame budget, discarded whole if inconsistent. -/
  | tenFrWrite (tenant : Nat) (v : DWord)
  /-- SPE_FAIL (R159): An unresolvable fault or uncorrectable read moves the binding to FAILED. -/
  | speFail (part n : Nat)
  /-- ADAPT_EVICT (R162): The Ringmaster evicts a clean adaptation's C frames. -/
  | adaptEvict (part n : Nat)
  /-- ADAPT_RECREATE (R162): An access or command on an EVICTED adaptation restores and recomputes C. -/
  | adaptRecreate (part n : Nat) (frames : List Nat)
  /-- PFX_BASE_WRITE (R164): Write of the key-value pool base, discarded while sequences exist. -/
  | pfxBaseWrite (part : Nat) (v : DWord)
  /-- PFX_CFG_WRITE (R164): Write of the pool configuration, resetting the free list and sequences. -/
  | pfxCfgWrite (part : Nat) (v : DWord)
  /-- REMOTE_FETCH (R179): A holder serves a remote page-set fetch and renews its lease. -/
  | remoteFetch (part psn : Nat)
  /-- REMOTE_ATTN_QUERY (R179): A holder computes a block triple for a remote ATTN query. -/
  | remoteAttnQuery (part : Nat) (q : PeerQuery)
  /-- BGT_CLASS_WRITE (R184): Write of a class budget, discarded or raised as the rule gives. -/
  | bgtClassWrite (die cls : Nat) (v : DWord)
  /-- BGT_CLASS_READ (R184): A read returns and clears the STALL count. -/
  | bgtClassRead (die cls : Nat)
  /-- RESET_REQ_DEVICE (R186): Sideband reset request of device scope. -/
  | resetReqDevice (m : ResetMsg) (boot : BootRecord)
  /-- RESET_REQ_PARTITION (R186): Sideband reset request of partition scope. -/
  | resetReqPartition (m : ResetMsg)
  /-- RESET_REQ_RINGMASTER (R186): Sideband reset request of Ringmaster scope. -/
  | resetReqRingmaster (m : ResetMsg)
  /-- GET_VERSION (R185): SPDM GET_VERSION over the sideband. -/
  | getVersion
  /-- GET_CAPABILITIES (R185): SPDM GET_CAPABILITIES. -/
  | getCapabilities
  /-- NEGOTIATE_ALGORITHMS (R185): SPDM NEGOTIATE_ALGORITHMS. -/
  | negotiateAlgorithms
  /-- GET_DIGESTS (R185): SPDM GET_DIGESTS. -/
  | getDigests
  /-- GET_CERTIFICATE (R209): SPDM GET_CERTIFICATE returns the chain ending in the identity key. -/
  | getCertificate
  /-- CHALLENGE (R209): SPDM CHALLENGE signed with the identity key. -/
  | challenge (nonce : BitVec 256)
  /-- GET_MEASUREMENTS (R209): SPDM GET_MEASUREMENTS returns the signed measurement log. -/
  | getMeasurements
  /-- MCTP_UNSUPPORTED (R185): Any other MCTP message is dropped without reply. -/
  | mctpUnsupported (ty : Byte)
  /-- LINK_ENABLE (R187): The Ringmaster enables a link, which starts TRAINING. -/
  | linkEnable (l : LinkId)
  /-- LINK_TRAINED (R187): Training completes at full or reduced width. -/
  | linkTrained (l : LinkId) (wide : Bool)
  /-- LINK_ERROR_THRESHOLD (R187): Error rate over threshold sends the link to RETRAINING. -/
  | linkErrorThreshold (l : LinkId)
  /-- LINK_RETRAIN_DONE (R187): Retraining succeeds and held traffic resumes in order. -/
  | linkRetrainDone (l : LinkId) (wide : Bool)
  /-- LINK_FAIL (R188): Three failures or 10 ms take the link DOWN and its traffic is handled. -/
  | linkFail (l : LinkId)
  /-- LINK_DISABLE (R187): The Ringmaster disables a link. -/
  | linkDisable (l : LinkId)
  /-- POST_LOST_TIMEOUT (R188): A post unacknowledged for 100 µs is declared lost. -/
  | postLostTimeout (idx : Nat)
  /-- COLLECTIVE_CHILD_PARTIAL (R191): A partial from a child module arrives and is added and sent up. -/
  | collectiveChildPartial (comm step rank : Nat) (vals : List Word) (bad : List Nat)
  /-- COLLECTIVE_RESULT (R191): The final result is written to every local DST and DONE is added. -/
  | collectiveResult (comm step : Nat) (vals : List Word) (bad : List Nat)
  /-- COLLECTIVE_CANCEL (R191): The Ringmaster cancels a waiting collective with STATUS 5. -/
  | collectiveCancel (comm step : Nat)
  /-- PART_CFG_WRITE (R194): Write of the partition division, discarded if invalid. -/
  | partCfgWrite (v : DWord)
  /-- IVL_MAP_WRITE (R195): Write of a die's home interleave map. -/
  | ivlMapWrite (die : Nat) (v : DWord)
  /-- NBND_WRITE (R196): Write of a die's package-loop peer bound. -/
  | nbndWrite (die : Nat) (v : DWord)
  /-- XSHR_WRITE (R197): Write of a shared-range register, discarded if beyond memory. -/
  | xshrWrite (n : Nat) (v : DWord)
  /-- PARTITION_MERGE (R200): A merge request starts the quiesce handshake. -/
  | partitionMerge (a b : Nat) (dlocal : Bool)
  /-- PARTITION_SPLIT (R202): A split request starts quiesce and migration. -/
  | partitionSplit (p : Nat)
  /-- L2_MODE_CHANGE (R203): An L2 mode change request starts quiesce. -/
  | l2ModeChange (p : Nat) (dlocal : Bool)
  /-- QUIESCE_DONE (R200): The handshake succeeds: flush, rewrite, shoot-down and PART_CFG write. -/
  | quiesceDone
  /-- QUIESCE_TIMEOUT (R201): 1 ms without success refuses the reconfiguration with PART_MERGE_REFUSED. -/
  | quiesceTimeout (found : DWord)
  /-- PARTITION_RESET (R199): A Ringmaster or sideband reset sends a partition to RESETTING. -/
  | partitionReset (p : Nat) (sideband : Bool)
  /-- DEVICE_RESET (R208): Power-up or device reset runs the measured boot sequence. -/
  | deviceReset (cause : ResetCause) (boot : BootRecord)
  /-- LOCKSTEP_MISMATCH (R211): A pair mismatch halts the pair and moves its work. -/
  | lockstepMismatch (pair : Nat)
  /-- WATCHDOG_EXPIRY (R211): No pair pets within TIMEOUT: RM_WATCHDOG and Ringmaster reset. -/
  | watchdogExpiry
  /-- RM_WDOG_PET (R211): Writing PET restarts the watchdog interval. -/
  | rmWdogPet
  /-- RM_WDOG_TIMEOUT_WRITE (R211): Write of TIMEOUT, discarded if 0 or too large. -/
  | rmWdogTimeoutWrite (v : Word)
  /-- RINGMASTER_RESET (R211): The Ringmaster alone is reset while partitions run on. -/
  | ringmasterReset (cause : RmCause)
  /-- SELF_TEST_DONE (R211): Self-test ends; passing pairs rejoin or the complex FAILS. -/
  | selfTestDone (passing : BitVec 4)
  /-- REATTACH_DONE (R211): Journal replay ends with RM_RECOVERED and held traps handled. -/
  | reattachDone
  /-- SESSION_OPEN (R210): A peer's signed key exchange opens a notify session. -/
  | sessionOpen (session : Word) (key : BitVec 512) (ok : Bool)
  /-- SESSION_CLOSE (R210): Closing a session removes its key from the gate. -/
  | sessionClose (session : Word)
  /-- ATTENDANT_FAULT (R207): An attendant faults; its traps go to the Ringmaster and it is reset. -/
  | attendantFault (core : Nat)
  /-- PARK_WINDOW_WRITE (R207): An attendant writes a thread record, landing only if STOPPED. -/
  | parkWindowWrite (core slot off : Nat) (v : DWord)
  /-- PARK_CTL_WRITE (R207): Write of PARK_CTL selecting the bank and clearing WERR. -/
  | parkCtlWrite (core : Nat) (v : DWord)
  /-- HANDLE_KEY_ROTATE (R346): Rotating a core's handle key revokes all handles and frees withdrawn entries. -/
  | handleKeyRotate (core : Nat)
  /-- ERQ_CFG_WRITE (R215): Write of the error queue configuration, discarded if invalid. -/
  | erqCfgWrite (part : Nat) (v : DWord)
  /-- ERQ_CFG_READ (R215): A read returns and clears LOST. -/
  | erqCfgRead (part : Nat)
  /-- PATROL_SCRUB (R220): Patrol scrub passes HBM lines, correcting and sparing rows. -/
  | patrolScrub (pa : Nat) (fate : ScrubFate) (left : Nat)
  /-- RSTC_WRITE (R222): Write-one-to-clear of reset cause bits. -/
  | rstcWrite (v : DWord)
  /-- DIE_FAILURE (R224): A compute die fails; homes lost, kernels terminated, partition DEGRADED. -/
  | dieFailure (die : Nat)
  /-- WEAR_UPDATE (R225): Hourly update of the predicted life, writing WEAR_WARN when due. -/
  | wearUpdate (die : Nat) (hours : Word) (bankSpent : Bool)
  /-- THERMAL_WARN (R226): Temperature or power over limit begins throttling with THERM_WARN. -/
  | thermalWarn (die : Nat)
  /-- THROTTLE_STEP (R226): Each ms the clock steps down, or back up when below limits. -/
  | throttleStep (die : Nat) (cool : Bool)
  /-- THERMAL_TRIP (R226): At 110 °C THERM_TRIP is written and the device resets. -/
  | thermalTrip (die : Nat) (boot : BootRecord)
  /-- VDROOP (R219): Supply droop stretches the clock. -/
  | vdroop (die : Nat)
  /-- BROWNOUT (R222): Supply below limit for 10 µs resets the device. -/
  | brownout (boot : BootRecord)
  /-- REGISTER_WRITE (R7): Write to a control register with no row of its own. -/
  | registerWrite (r : CtlReg) (v : DWord)
  /-- CONTEXT_DESTROY (R94): The Ringmaster destroys a SPILLED context, which becomes DESTROYED, revoking its handles and cancelling kernels with groups in it. -/
  | contextDestroy (ctx : BitVec 16)
  /-- PROCESS_END (R158): A process ends, so every binding it owns is unbound and every sequence it created is released by a Ringmaster-issued PXUNREF. -/
  | processEnd (asid : BitVec 16)
  /-- FRAME_UNMAP (R138): The Ringmaster unmaps a mapped frame at a process's request, invalidating its leaf with a broadcast and sending it to SCRUBBING, or to POISONED if it holds a poisoned line. -/
  | frameUnmap (frame : Nat)
  /-- DIRECTORY_EXCHANGE (R179): A directory exchange with a peer makes the Ringmaster insert or remove remote nodes in the Tiller. -/
  | directoryExchange (part : Nat) (op : NodeOp)
  deriving DecidableEq, Repr

end Sys2Proof
end

