-- ==== Sys2Proof/WellFormed.lean ====
section
/-! DEFINITION. Which operand values an instruction admits.  Instr.codesOk holds what R272 has the decoder settle (the
reserved codes of ty, lv, tag, rounding, condition, mod, scope and special-register fields); Instr.limitsOk holds what
check 2 of R273 tests at issue (pairs, ports as destinations, register limits). -/

namespace Sys2Proof

/-- A pair is named by an even register, g2 to g58 (R246, R267). -/
def isPair (n : BitVec 6) : Bool := n.toNat % 2 == 0 && 2 ≤ n.toNat && n.toNat ≤ 58

/-- A g field that must not name a queue port (R305, R344). -/
def notPort (n : BitVec 6) : Bool := n.toNat < 60

/-- A g field limited to g1–g59 (R47, R74). -/
def isWritableG (n : BitVec 6) : Bool := 1 ≤ n.toNat && n.toNat < 60

/-- The codes of R232 that name a format, NONE and ANY left out. -/
def isFormatTag (n : Nat) : Bool := (1 ≤ n && n ≤ 0x0C) || (0x10 ≤ n && n ≤ 0x16)

/-- The target codes of WCVT (R322). -/
def isCvtTarget (n : Nat) : Bool := (1 ≤ n && n ≤ 6) || (0x0A ≤ n && n ≤ 0x0C)

/-- The special registers that MOVS reads (R250). -/
def isSpecial (n : Nat) : Bool :=
  n ≤ 5 || (8 ≤ n && n ≤ 0x17) || (0x20 ≤ n && n ≤ 0x23) || (0x30 ≤ n && n ≤ 0x32) ||
  (0x40 ≤ n && n ≤ 0x42) || (0x50 ≤ n && n ≤ 0x52) || n == 0x60 || n == 0x61 || n == 0x70

/-- The reserved codes that the decoder refuses (R271, R272). -/
def Instr.codesOk : Instr → Bool
  | .movC d s => !(d.toNat == 0 && s.toNat == 0)
  | .cmp _ _ _ y c => y.toNat ≤ 1 && c.toNat ≤ 5
  | .fcmp _ _ _ c => c.toNat ≤ 7
  | .fcvtF32I32 _ _ r | .fcvtF32N32 _ _ r | .fcvtI32F32 _ _ r | .fcvtN32F32 _ _ r | .fcvtF32F16 _ _ r
  | .fcvtF16F32 _ _ r | .fcvtF32Bf16 _ _ r | .fcvtBf16F32 _ _ r | .frnd _ _ r => r.toNat ≤ 4
  | .acmp _ _ _ c => c.toNat ≤ 3
  | .ld _ _ _ y _ _ => y.toNat != 6
  | .st _ _ _ y _ _ => y.toNat != 1 && y.toNat != 3 && y.toNat != 6
  | .wld _ _ _ _ _ g => isFormatTag g.toNat
  | .wst _ _ _ _ _ g => isFormatTag g.toNat || g.toNat == 0x3F
  | .pref _ l _ => l.toNat != 2
  | .atomAdd _ _ _ _ l | .atomMinI _ _ _ _ l | .atomMinN _ _ _ _ l | .atomMaxI _ _ _ _ l | .atomMaxN _ _ _ _ l
  | .atomAnd _ _ _ _ l | .atomOr _ _ _ _ l | .atomXor _ _ _ _ l | .atomXchg _ _ _ _ l | .atomFadd _ _ _ _ l
  | .atomBump _ _ _ _ l | .acas _ _ _ _ l => l.toNat ≤ 1
  | .fence _ _ s => 1 ≤ s.toNat && s.toNat ≤ 5
  | .movs _ n => isSpecial n.toNat
  | .movsw _ n => 0x40 ≤ n.toNat && n.toNat ≤ 0x42
  | .wred _ _ m => m.toNat ≤ 2
  | .wcvt _ _ t _ k => isCvtTarget t.toNat && (k.toNat == 0 || t.toNat == 5)
  | .wtag _ t => t.toNat == 0 || isFormatTag t.toNat
  | _ => true

/-- The register limits tested at issue (R246, R267, R305, R344 and the entries). -/
def Instr.limitsOk : Instr → Bool
  | .clause _ a b _ _ => a.toNat ≤ 12 && b.toNat ≤ 12
  | .amov _ s => isPair s
  | .asplit d _ => isPair d
  | .spawn d _ b => isWritableG d && b.toNat ≤ 52
  | .ld t _ _ y _ _ => if y.toNat == 5 then isPair t else if y.toNat == 7 then t.toNat < 16 else notPort t
  | .st t _ _ y _ _ => if y.toNat == 5 then isPair t else if y.toNat == 7 then t.toNat < 16 else true
  | .atomAdd d _ _ _ _ | .atomMinI d _ _ _ _ | .atomMinN d _ _ _ _ | .atomMaxI d _ _ _ _ | .atomMaxN d _ _ _ _
  | .atomAnd d _ _ _ _ | .atomOr d _ _ _ _ | .atomXor d _ _ _ _ | .atomXchg d _ _ _ _ | .atomFadd d _ _ _ _
  | .atomBump d _ _ _ _ => notPort d
  | .acas d _ b _ _ => notPort d && isPair b
  | .barArrive d _ | .barTest d _ _ | .tfirst d _ => notPort d
  | .qstat d _ => isWritableG d
  | .qtry d _ b => notPort d && notPort b
  | .hpop d _ _ | .htry d _ _ => isWritableG d
  | .movs d n => if n.toNat == 0x50 then isPair d else true
  | .arm d k b =>
    if k.toNat == 0 then 1 ≤ d.toNat && d.toNat + b.toNat ≤ 59 else d.toNat + b.toNat ≤ 15
  | .full _ a k => if k.toNat == 0 then isWritableG a else a.toNat ≤ 15
  | .xld _ _ b _ _ | .xst _ _ b _ _ => isPair b
  | .xguard d _ _ | .xtag d _ => notPort d
  | .bind d _ _ _ | .stale d _ _ | .pxref d _ _ _ _ | .pxunref d _ _ _ | .attn d _ _ _ => notPort d
  | .bstat d _ _ => isPair d
  | .pxfind d _ _ _ => isPair d
  | .pxins d _ b _ _ | .kvapp d b _ _ | .kvtrim d b _ _ => notPort d && isPair b
  | .kvxlat _ b _ => isPair b
  | _ => true

/-- An instruction that neither R272 nor check 2 of R273 refuses by its word alone. -/
def Instr.wf (i : Instr) : Bool := i.codesOk && i.limitsOk

end Sys2Proof
end

