-- ==== Sys2Proof/Decode.lean ====
section
/-! DEFINITION. The decoder and the encoder of Tisan T1, from the formats of R262 and R265 and the opcode map of R271.
An instruction is read from its bytes as a number with bit 0 its least significant bit; a field name[hi:lo] is
bits w lo n of it (R260).  A pattern that R272 does not allow is refused by name. -/

namespace Sys2Proof

/-- bits(x, lo + n - 1, lo) of R260. -/
def bits (w lo n : Nat) : Nat := w / 2 ^ lo % 2 ^ n

/-- The same, as a field of an instruction. -/
def field (w lo n : Nat) : BitVec n := BitVec.ofNat n (bits w lo n)

/-- Why the decoder refuses a pattern (the rows of R272). -/
inductive DecodeError
  | truncated
  | reservedOpcode (op : Nat)
  | reservedSelector (op code : Nat)
  | reservedField
  | reservedCode
  deriving DecidableEq, Repr

/-- A parsed instruction, when the fields it does not use are zero (R267). -/
def unused (zero : Bool) (i : Instr) : Except DecodeError Instr :=
  if zero then .ok i else .error .reservedField

/-- Major opcode 0x01 (R271): selector bits [31:25]. -/
def decodeInt (w : Nat) : Except DecodeError Instr :=
  match bits w 25 7 with
  | 0 => .ok (.add (field w 7 6) (field w 13 6) (field w 19 6))
  | 1 => .ok (.sub (field w 7 6) (field w 13 6) (field w 19 6))
  | 2 => .ok (.mul (field w 7 6) (field w 13 6) (field w 19 6))
  | 3 => .ok (.mulhI (field w 7 6) (field w 13 6) (field w 19 6))
  | 4 => .ok (.mulhN (field w 7 6) (field w 13 6) (field w 19 6))
  | 5 => .ok (.divI (field w 7 6) (field w 13 6) (field w 19 6))
  | 6 => .ok (.divN (field w 7 6) (field w 13 6) (field w 19 6))
  | 7 => .ok (.remI (field w 7 6) (field w 13 6) (field w 19 6))
  | 8 => .ok (.remN (field w 7 6) (field w 13 6) (field w 19 6))
  | 9 => .ok (.and (field w 7 6) (field w 13 6) (field w 19 6))
  | 10 => .ok (.or (field w 7 6) (field w 13 6) (field w 19 6))
  | 11 => .ok (.xor (field w 7 6) (field w 13 6) (field w 19 6))
  | 12 => .ok (.andn (field w 7 6) (field w 13 6) (field w 19 6))
  | 13 => .ok (.shl (field w 7 6) (field w 13 6) (field w 19 6))
  | 14 => .ok (.shr (field w 7 6) (field w 13 6) (field w 19 6))
  | 15 => .ok (.sar (field w 7 6) (field w 13 6) (field w 19 6))
  | 16 => .ok (.rot (field w 7 6) (field w 13 6) (field w 19 6))
  | 17 => .ok (.minI (field w 7 6) (field w 13 6) (field w 19 6))
  | 18 => .ok (.minN (field w 7 6) (field w 13 6) (field w 19 6))
  | 19 => .ok (.maxI (field w 7 6) (field w 13 6) (field w 19 6))
  | 20 => .ok (.maxN (field w 7 6) (field w 13 6) (field w 19 6))
  | 21 => unused (bits w 19 6 == 0) (.abs (field w 7 6) (field w 13 6))
  | 22 => unused (bits w 19 6 == 0) (.neg (field w 7 6) (field w 13 6))
  | 23 => unused (bits w 19 6 == 0) (.clz (field w 7 6) (field w 13 6))
  | 24 => unused (bits w 19 6 == 0) (.popc (field w 7 6) (field w 13 6))
  | 25 => unused (bits w 19 6 == 0) (.brev (field w 7 6) (field w 13 6))
  | 26 => unused (bits w 19 6 == 0) (.mov (field w 7 6) (field w 13 6))
  | 27 => unused (bits w 19 6 == 0) (.not (field w 7 6) (field w 13 6))
  | c => .error (.reservedSelector 1 c)

/-- Major opcode 0x06 (R271): selector bits [31:30]. -/
def decodeShi (w : Nat) : Except DecodeError Instr :=
  match bits w 30 2 with
  | 0 => unused (bits w 24 6 == 0) (.shli (field w 7 6) (field w 13 6) (field w 19 5))
  | 1 => unused (bits w 24 6 == 0) (.shri (field w 7 6) (field w 13 6) (field w 19 5))
  | 2 => unused (bits w 24 6 == 0) (.sari (field w 7 6) (field w 13 6) (field w 19 5))
  | 3 => unused (bits w 24 6 == 0) (.roti (field w 7 6) (field w 13 6) (field w 19 5))
  | c => .error (.reservedSelector 6 c)

/-- Major opcode 0x0A (R271): selector bits [31:25]. -/
def decodePlog (w : Nat) : Except DecodeError Instr :=
  match bits w 25 7 with
  | 0 => unused (bits w 10 3 == 0 && bits w 16 3 == 0 && bits w 22 3 == 0) (.pand (field w 7 3) (field w 13 3) (field w 19 3))
  | 1 => unused (bits w 10 3 == 0 && bits w 16 3 == 0 && bits w 22 3 == 0) (.por (field w 7 3) (field w 13 3) (field w 19 3))
  | 2 => unused (bits w 10 3 == 0 && bits w 16 3 == 0 && bits w 22 3 == 0) (.pxor (field w 7 3) (field w 13 3) (field w 19 3))
  | 3 => unused (bits w 10 3 == 0 && bits w 16 3 == 0 && bits w 22 3 == 0) (.pandn (field w 7 3) (field w 13 3) (field w 19 3))
  | 4 => unused (bits w 10 3 == 0 && bits w 16 9 == 0) (.pnot (field w 7 3) (field w 13 3))
  | 5 => unused (bits w 10 3 == 0 && bits w 19 6 == 0) (.pmovg (field w 7 3) (field w 13 6))
  | 6 => unused (bits w 16 9 == 0) (.pmovp (field w 7 6) (field w 13 3))
  | c => .error (.reservedSelector 10 c)

/-- Major opcode 0x0C (R271): selector bits [31:25]. -/
def decodeFop (w : Nat) : Except DecodeError Instr :=
  match bits w 25 7 with
  | 0 => .ok (.fadd (field w 7 6) (field w 13 6) (field w 19 6))
  | 1 => .ok (.fsub (field w 7 6) (field w 13 6) (field w 19 6))
  | 2 => .ok (.fmul (field w 7 6) (field w 13 6) (field w 19 6))
  | 3 => .ok (.fdiv (field w 7 6) (field w 13 6) (field w 19 6))
  | 4 => .ok (.fmin (field w 7 6) (field w 13 6) (field w 19 6))
  | 5 => .ok (.fmax (field w 7 6) (field w 13 6) (field w 19 6))
  | 6 => unused (bits w 19 6 == 0) (.fabs (field w 7 6) (field w 13 6))
  | 7 => unused (bits w 19 6 == 0) (.fneg (field w 7 6) (field w 13 6))
  | 8 => .ok (.fcpsgn (field w 7 6) (field w 13 6) (field w 19 6))
  | 9 => unused (bits w 19 6 == 0) (.fsqrt (field w 7 6) (field w 13 6))
  | 10 => unused (bits w 19 6 == 0) (.frcp (field w 7 6) (field w 13 6))
  | 11 => unused (bits w 19 6 == 0) (.frsq (field w 7 6) (field w 13 6))
  | 12 => unused (bits w 19 6 == 0) (.ex2 (field w 7 6) (field w 13 6))
  | c => .error (.reservedSelector 12 c)

/-- Major opcode 0x0D (R271): selector bits [31:25]. -/
def decodeFma (w : Nat) : Except DecodeError Instr :=
  match bits w 25 7 with
  | 0 => .ok (.fma (field w 7 6) (field w 13 6) (field w 19 6))
  | 1 => .ok (.fms (field w 7 6) (field w 13 6) (field w 19 6))
  | 2 => .ok (.fnma (field w 7 6) (field w 13 6) (field w 19 6))
  | 3 => .ok (.fnms (field w 7 6) (field w 13 6) (field w 19 6))
  | c => .error (.reservedSelector 13 c)

/-- Major opcode 0x0F (R271): selector bits [31:25]. -/
def decodeFcvt (w : Nat) : Except DecodeError Instr :=
  match bits w 25 7 with
  | 0 => unused (bits w 22 3 == 0) (.fcvtF32I32 (field w 7 6) (field w 13 6) (field w 19 3))
  | 1 => unused (bits w 22 3 == 0) (.fcvtF32N32 (field w 7 6) (field w 13 6) (field w 19 3))
  | 2 => unused (bits w 22 3 == 0) (.fcvtI32F32 (field w 7 6) (field w 13 6) (field w 19 3))
  | 3 => unused (bits w 22 3 == 0) (.fcvtN32F32 (field w 7 6) (field w 13 6) (field w 19 3))
  | 4 => unused (bits w 22 3 == 0) (.fcvtF32F16 (field w 7 6) (field w 13 6) (field w 19 3))
  | 5 => unused (bits w 22 3 == 0) (.fcvtF16F32 (field w 7 6) (field w 13 6) (field w 19 3))
  | 6 => unused (bits w 22 3 == 0) (.fcvtF32Bf16 (field w 7 6) (field w 13 6) (field w 19 3))
  | 7 => unused (bits w 22 3 == 0) (.fcvtBf16F32 (field w 7 6) (field w 13 6) (field w 19 3))
  | 8 => unused (bits w 22 3 == 0) (.frnd (field w 7 6) (field w 13 6) (field w 19 3))
  | c => .error (.reservedSelector 15 c)

/-- Major opcode 0x10 (R271): selector bits [31:28]. -/
def decodeAop (w : Nat) : Except DecodeError Instr :=
  match bits w 28 4 with
  | 0 => unused (bits w 11 2 == 0 && bits w 17 2 == 0) (.aadd (field w 7 4) (field w 13 4) (field w 19 6) (field w 25 3))
  | 1 => unused (bits w 11 2 == 0 && bits w 19 9 == 0) (.amov (field w 7 4) (field w 13 6))
  | 2 => unused (bits w 17 11 == 0) (.asplit (field w 7 6) (field w 13 4))
  | 3 => unused (bits w 10 3 == 0 && bits w 17 2 == 0 && bits w 23 2 == 0) (.acmp (field w 7 3) (field w 13 4) (field w 19 4) (field w 25 3))
  | 4 => unused (bits w 11 2 == 0 && bits w 17 11 == 0) (.amova (field w 7 4) (field w 13 4))
  | c => .error (.reservedSelector 16 c)

/-- Major opcode 0x15 (R271): selector bits [31:25]. -/
def decodeJmp (w : Nat) : Except DecodeError Instr :=
  match bits w 25 7 with
  | 0 => unused (bits w 7 6 == 0 && bits w 17 8 == 0) (.jmp (field w 13 4))
  | 1 => unused (bits w 11 2 == 0 && bits w 17 8 == 0) (.jcall (field w 7 4) (field w 13 4))
  | 2 => unused (bits w 7 6 == 0 && bits w 17 8 == 0) (.ret (field w 13 4))
  | c => .error (.reservedSelector 21 c)

/-- Major opcode 0x16 (R271): selector bits [31:25]. -/
def decodeCtrl (w : Nat) : Except DecodeError Instr :=
  match bits w 25 7 with
  | 0 => unused (bits w 7 18 == 0) (.exit)
  | 1 => unused (bits w 7 18 == 0) (.yield)
  | 2 => unused (bits w 7 18 == 0) (.nop)
  | 3 => unused (bits w 7 18 == 0) (.brk)
  | 4 => unused (bits w 7 6 == 0) (.trap (field w 13 12))
  | c => .error (.reservedSelector 22 c)

/-- Major opcode 0x17 (R271): selector bits [31:25]. -/
def decodeSpawn (w : Nat) : Except DecodeError Instr :=
  match bits w 25 7 with
  | 0 => unused (bits w 17 2 == 0) (.spawn (field w 7 6) (field w 13 4) (field w 19 6))
  | c => .error (.reservedSelector 23 c)

/-- Major opcode 0x1F (R271): selector bits [31:28]. -/
def decodeAtom (w : Nat) : Except DecodeError Instr :=
  match bits w 28 4 with
  | 0 => unused (bits w 17 2 == 0) (.atomAdd (field w 7 6) (field w 13 4) (field w 19 6) (field w 25 1) (field w 26 2))
  | 1 => unused (bits w 17 2 == 0) (.atomMinI (field w 7 6) (field w 13 4) (field w 19 6) (field w 25 1) (field w 26 2))
  | 2 => unused (bits w 17 2 == 0) (.atomMinN (field w 7 6) (field w 13 4) (field w 19 6) (field w 25 1) (field w 26 2))
  | 3 => unused (bits w 17 2 == 0) (.atomMaxI (field w 7 6) (field w 13 4) (field w 19 6) (field w 25 1) (field w 26 2))
  | 4 => unused (bits w 17 2 == 0) (.atomMaxN (field w 7 6) (field w 13 4) (field w 19 6) (field w 25 1) (field w 26 2))
  | 5 => unused (bits w 17 2 == 0) (.atomAnd (field w 7 6) (field w 13 4) (field w 19 6) (field w 25 1) (field w 26 2))
  | 6 => unused (bits w 17 2 == 0) (.atomOr (field w 7 6) (field w 13 4) (field w 19 6) (field w 25 1) (field w 26 2))
  | 7 => unused (bits w 17 2 == 0) (.atomXor (field w 7 6) (field w 13 4) (field w 19 6) (field w 25 1) (field w 26 2))
  | 8 => unused (bits w 17 2 == 0) (.atomXchg (field w 7 6) (field w 13 4) (field w 19 6) (field w 25 1) (field w 26 2))
  | 9 => unused (bits w 17 2 == 0) (.atomFadd (field w 7 6) (field w 13 4) (field w 19 6) (field w 25 1) (field w 26 2))
  | 10 => unused (bits w 17 2 == 0) (.atomBump (field w 7 6) (field w 13 4) (field w 19 6) (field w 25 1) (field w 26 2))
  | c => .error (.reservedSelector 31 c)

/-- Major opcode 0x22 (R271): selector bits [31:28]. -/
def decodeBar (w : Nat) : Except DecodeError Instr :=
  match bits w 28 4 with
  | 0 => unused (bits w 13 6 == 0 && bits w 25 3 == 0) (.barArrive (field w 7 6) (field w 19 6))
  | 1 => unused (bits w 7 6 == 0 && bits w 25 3 == 0) (.barWait (field w 13 6) (field w 19 6))
  | 2 => unused (bits w 7 12 == 0 && bits w 25 3 == 0) (.barSync (field w 19 6))
  | 3 => unused (bits w 7 6 == 0) (.barInit (field w 13 6) (field w 19 6) (field w 25 3))
  | 4 => unused (bits w 13 6 == 0) (.barTest (field w 7 6) (field w 19 6) (field w 25 3))
  | 5 => unused (bits w 7 12 == 0 && bits w 25 3 == 0) (.barDrop (field w 19 6))
  | c => .error (.reservedSelector 34 c)

/-- Major opcode 0x23 (R271): selector bits [31:25]. -/
def decodeTags (w : Nat) : Except DecodeError Instr :=
  match bits w 25 7 with
  | 0 => unused (bits w 7 6 == 0 && bits w 17 8 == 0) (.twaitany (field w 13 4))
  | 1 => unused (bits w 7 6 == 0 && bits w 17 8 == 0) (.twaitall (field w 13 4))
  | 2 => unused (bits w 17 8 == 0) (.tfirst (field w 7 6) (field w 13 4))
  | 3 => unused (bits w 7 6 == 0 && bits w 17 8 == 0) (.tclr (field w 13 4))
  | 4 => unused (bits w 7 6 == 0 && bits w 17 8 == 0) (.tset (field w 13 4))
  | 5 => unused (bits w 10 3 == 0 && bits w 17 8 == 0) (.ttest (field w 7 3) (field w 13 4))
  | c => .error (.reservedSelector 35 c)

/-- Major opcode 0x24 (R271): selector bits [31:25]. -/
def decodeQueue (w : Nat) : Except DecodeError Instr :=
  match bits w 25 7 with
  | 0 => unused (bits w 9 4 == 15 && bits w 17 2 == 0 && bits w 20 5 == 0) (.qbind (field w 7 2) (field w 13 4) (field w 19 1))
  | 1 => unused (bits w 15 10 == 15) (.qstat (field w 7 6) (field w 13 2))
  | 2 => unused (bits w 7 6 == 0 && bits w 15 10 == 15) (.qclose (field w 13 2))
  | 3 => unused (bits w 15 4 == 15) (.qtry (field w 7 6) (field w 13 2) (field w 19 6))
  | c => .error (.reservedSelector 36 c)

/-- Major opcode 0x25 (R271): selector bits [31:28]. -/
def decodeHeap (w : Nat) : Except DecodeError Instr :=
  match bits w 28 4 with
  | 0 => unused (bits w 7 6 == 0 && bits w 23 2 == 0 && bits w 26 2 == 0) (.hpush (field w 13 6) (field w 19 4) (field w 25 1))
  | 1 => unused (bits w 13 6 == 0 && bits w 23 2 == 0 && bits w 26 2 == 0) (.hpop (field w 7 6) (field w 19 4) (field w 25 1))
  | 2 => unused (bits w 13 6 == 0 && bits w 23 2 == 0 && bits w 26 2 == 0) (.htry (field w 7 6) (field w 19 4) (field w 25 1))
  | c => .error (.reservedSelector 37 c)

/-- Major opcode 0x28 (R271): selector bits [28:26]. -/
def decodeRreg (w : Nat) : Except DecodeError Instr :=
  match bits w 26 3 with
  | 0 => unused (bits w 11 2 == 0 && bits w 19 6 == 0 && bits w 29 3 == 0) (.mkh (field w 7 4) (field w 13 6) (field w 25 1))
  | 1 => unused (bits w 14 5 == 0 && bits w 25 1 == 0 && bits w 29 3 == 0) (.arm (field w 7 6) (field w 13 1) (field w 19 6))
  | 2 => unused (bits w 17 2 == 0 && bits w 31 1 == 0) (.rpost (field w 7 6) (field w 13 4) (field w 19 6) (field w 25 1) (field w 29 2))
  | 3 => unused (bits w 17 2 == 0 && bits w 23 2 == 0 && bits w 31 1 == 0) (.rpostw (field w 7 6) (field w 13 4) (field w 19 4) (field w 25 1) (field w 29 2))
  | 4 => unused (bits w 10 3 == 0 && bits w 20 6 == 0 && bits w 29 3 == 0) (.full (field w 7 3) (field w 13 6) (field w 19 1))
  | 5 => unused (bits w 7 6 == 0 && bits w 17 8 == 0 && bits w 31 1 == 0) (.revoke (field w 13 4) (field w 25 1) (field w 29 2))
  | c => .error (.reservedSelector 40 c)

/-- Major opcode 0x29 (R271): selector bits [28:26]. -/
def decodeStrm (w : Nat) : Except DecodeError Instr :=
  match bits w 26 3 with
  | 0 => unused (bits w 7 6 == 0 && bits w 17 2 == 0 && bits w 31 1 == 0) (.stream (field w 13 4) (field w 19 6) (field w 25 1) (field w 29 2))
  | 1 => unused (bits w 7 6 == 0 && bits w 17 2 == 0 && bits w 31 1 == 0) (.streamg (field w 13 4) (field w 19 6) (field w 25 1) (field w 29 2))
  | 2 => unused (bits w 7 6 == 0 && bits w 17 2 == 0 && bits w 31 1 == 0) (.scopy (field w 13 4) (field w 19 6) (field w 25 1) (field w 29 2))
  | 3 => unused (bits w 7 6 == 0 && bits w 17 2 == 0 && bits w 31 1 == 0) (.binscat (field w 13 4) (field w 19 6) (field w 25 1) (field w 29 2))
  | 4 => unused (bits w 7 6 == 0 && bits w 17 2 == 0 && bits w 31 1 == 0) (.sfill (field w 13 4) (field w 19 6) (field w 25 1) (field w 29 2))
  | c => .error (.reservedSelector 41 c)

/-- Major opcode 0x2A (R271): selector bits [28:26]. -/
def decodeMtx (w : Nat) : Except DecodeError Instr :=
  match bits w 26 3 with
  | 0 => unused (bits w 10 3 == 0 && bits w 17 2 == 0 && bits w 31 1 == 0) (.mma (field w 7 3) (field w 13 4) (field w 19 6) (field w 25 1) (field w 29 2))
  | 1 => unused (bits w 10 3 == 0 && bits w 17 2 == 0 && bits w 31 1 == 0) (.mmas (field w 7 3) (field w 13 4) (field w 19 6) (field w 25 1) (field w 29 2))
  | 2 => unused (bits w 10 16 == 0 && bits w 29 3 == 0) (.xzero (field w 7 3))
  | 3 => unused (bits w 10 3 == 0 && bits w 17 2 == 0 && bits w 31 1 == 0) (.xld (field w 7 3) (field w 13 4) (field w 19 6) (field w 25 1) (field w 29 2))
  | 4 => unused (bits w 10 3 == 0 && bits w 17 2 == 0 && bits w 31 1 == 0) (.xst (field w 7 3) (field w 13 4) (field w 19 6) (field w 25 1) (field w 29 2))
  | 5 => unused (bits w 10 3 == 0 && bits w 17 2 == 0 && bits w 31 1 == 0) (.xdrain (field w 7 3) (field w 13 4) (field w 19 6) (field w 25 1) (field w 29 2))
  | 6 => unused (bits w 16 3 == 0 && bits w 20 6 == 0 && bits w 29 3 == 0) (.xguard (field w 7 6) (field w 13 3) (field w 19 1))
  | 7 => unused (bits w 16 10 == 0 && bits w 29 3 == 0) (.xtag (field w 7 6) (field w 13 3))
  | c => .error (.reservedSelector 42 c)

/-- Major opcode 0x2B (R271): selector bits [28:26]. -/
def decodeSpe (w : Nat) : Except DecodeError Instr :=
  match bits w 26 3 with
  | 0 => unused (bits w 17 8 == 0 && bits w 31 1 == 0) (.bind (field w 7 6) (field w 13 4) (field w 25 1) (field w 29 2))
  | 1 => unused (bits w 7 12 == 0 && bits w 31 1 == 0) (.unbind (field w 19 6) (field w 25 1) (field w 29 2))
  | 2 => unused (bits w 13 6 == 0 && bits w 31 1 == 0) (.settle (field w 7 6) (field w 19 6) (field w 25 1) (field w 29 2))
  | 3 => unused (bits w 13 6 == 0 && bits w 29 3 == 0) (.stale (field w 7 6) (field w 19 6) (field w 25 1))
  | 4 => unused (bits w 13 6 == 0 && bits w 31 1 == 0) (.recomp (field w 7 6) (field w 19 6) (field w 25 1) (field w 29 2))
  | 5 => unused (bits w 13 6 == 0 && bits w 29 3 == 0) (.bstat (field w 7 6) (field w 19 6) (field w 25 1))
  | c => .error (.reservedSelector 43 c)

/-- Major opcode 0x2C (R271): selector bits [28:26]. -/
def decodePfx (w : Nat) : Except DecodeError Instr :=
  match bits w 26 3 with
  | 0 => unused (bits w 17 8 == 0 && bits w 31 1 == 0) (.pxfind (field w 7 6) (field w 13 4) (field w 25 1) (field w 29 2))
  | 1 => unused (bits w 17 2 == 0 && bits w 31 1 == 0) (.pxins (field w 7 6) (field w 13 4) (field w 19 6) (field w 25 1) (field w 29 2))
  | 2 => unused (bits w 17 2 == 0 && bits w 31 1 == 0) (.pxref (field w 7 6) (field w 13 4) (field w 19 6) (field w 25 1) (field w 29 2))
  | 3 => unused (bits w 13 6 == 0 && bits w 31 1 == 0) (.pxunref (field w 7 6) (field w 19 6) (field w 25 1) (field w 29 2))
  | 4 => unused (bits w 13 6 == 0 && bits w 31 1 == 0) (.kvapp (field w 7 6) (field w 19 6) (field w 25 1) (field w 29 2))
  | 5 => unused (bits w 13 6 == 0 && bits w 31 1 == 0) (.kvtrim (field w 7 6) (field w 19 6) (field w 25 1) (field w 29 2))
  | 6 => unused (bits w 11 8 == 0 && bits w 29 3 == 0) (.kvxlat (field w 7 4) (field w 19 6) (field w 25 1))
  | 7 => unused (bits w 17 8 == 0 && bits w 31 1 == 0) (.attn (field w 7 6) (field w 13 4) (field w 25 1) (field w 29 2))
  | c => .error (.reservedSelector 44 c)

/-- Major opcode 0x2D (R271): selector bits [31:28]. -/
def decodeWop (w : Nat) : Except DecodeError Instr :=
  match bits w 28 4 with
  | 0 => unused (bits w 11 2 == 0 && bits w 17 2 == 0 && bits w 23 5 == 0) (.wadd (field w 7 4) (field w 13 4) (field w 19 4))
  | 1 => unused (bits w 11 2 == 0 && bits w 17 2 == 0 && bits w 23 5 == 0) (.wsub (field w 7 4) (field w 13 4) (field w 19 4))
  | 2 => unused (bits w 11 2 == 0 && bits w 17 2 == 0 && bits w 23 5 == 0) (.wmul (field w 7 4) (field w 13 4) (field w 19 4))
  | 3 => unused (bits w 11 2 == 0 && bits w 17 2 == 0 && bits w 23 5 == 0) (.wfma (field w 7 4) (field w 13 4) (field w 19 4))
  | 4 => unused (bits w 11 2 == 0 && bits w 17 2 == 0 && bits w 23 5 == 0) (.wmax (field w 7 4) (field w 13 4) (field w 19 4))
  | 5 => unused (bits w 11 2 == 0 && bits w 17 2 == 0 && bits w 23 5 == 0) (.wmin (field w 7 4) (field w 13 4) (field w 19 4))
  | 6 => unused (bits w 11 2 == 0 && bits w 17 2 == 0 && bits w 23 5 == 0) (.wdot (field w 7 4) (field w 13 4) (field w 19 4))
  | 7 => unused (bits w 17 8 == 0) (.wred (field w 7 6) (field w 13 4) (field w 25 3))
  | 8 => unused (bits w 11 2 == 0 && bits w 17 2 == 0 && bits w 27 1 == 0) (.wcvt (field w 7 4) (field w 13 4) (field w 19 6) (field w 25 1) (field w 26 1))
  | 9 => unused (bits w 11 2 == 0 && bits w 17 2 == 0 && bits w 23 5 == 0) (.wpack (field w 7 4) (field w 13 4) (field w 19 4))
  | 10 => unused (bits w 11 2 == 0 && bits w 17 2 == 0 && bits w 21 7 == 0) (.wunpk (field w 7 4) (field w 13 4) (field w 19 2))
  | 11 => unused (bits w 11 2 == 0 && bits w 17 2 == 0 && bits w 23 5 == 0) (.wshuf (field w 7 4) (field w 13 4) (field w 19 4))
  | 12 => unused (bits w 11 8 == 0 && bits w 25 3 == 0) (.wtag (field w 7 4) (field w 19 6))
  | 13 => unused (bits w 11 2 == 0 && bits w 17 2 == 0 && bits w 25 3 == 0) (.wscl (field w 7 4) (field w 13 4) (field w 19 6))
  | 14 => unused (bits w 11 2 == 0 && bits w 19 6 == 0 && bits w 26 2 == 0) (.wsets (field w 7 4) (field w 13 6) (field w 25 1))
  | 15 => unused (bits w 17 2 == 0 && bits w 23 2 == 0) (.wcmp (field w 7 6) (field w 13 4) (field w 19 4) (field w 25 3))
  | c => .error (.reservedSelector 45 c)

/-- A 32-bit word, by its major opcode (R271). -/
def parse32 (w : Nat) : Except DecodeError Instr :=
  match bits w 1 6 with
  | 1 => decodeInt w
  | 2 => .ok (.addi (field w 7 6) (field w 13 6) (field w 19 13))
  | 3 => .ok (.andi (field w 7 6) (field w 13 6) (field w 19 13))
  | 4 => .ok (.ori (field w 7 6) (field w 13 6) (field w 19 13))
  | 5 => .ok (.xori (field w 7 6) (field w 13 6) (field w 19 13))
  | 6 => decodeShi w
  | 7 => .ok (.movh (field w 7 6) (field w 13 19))
  | 8 => unused (bits w 10 3 == 0) (.cmp (field w 7 3) (field w 13 6) (field w 19 6) (field w 25 3) (field w 28 4))
  | 9 => .ok (.cmpi (field w 7 3) (field w 10 3) (field w 13 6) (field w 19 13))
  | 10 => decodePlog w
  | 11 => unused (bits w 28 4 == 0) (.sel (field w 7 6) (field w 13 6) (field w 19 6) (field w 25 3))
  | 12 => decodeFop w
  | 13 => decodeFma w
  | 14 => unused (bits w 10 3 == 0) (.fcmp (field w 7 3) (field w 13 6) (field w 19 6) (field w 25 7))
  | 15 => decodeFcvt w
  | 16 => decodeAop w
  | 17 => unused (bits w 11 2 == 0 && bits w 17 2 == 0) (.aaddi (field w 7 4) (field w 13 4) (field w 19 13))
  | 18 => unused (bits w 11 2 == 0) (.afrom (field w 7 4) (field w 13 19))
  | 19 => .ok (.br (field w 7 3) (field w 10 1) (field w 11 21))
  | 20 => .ok (.call (field w 7 3) (field w 10 1) (field w 11 21))
  | 21 => decodeJmp w
  | 22 => decodeCtrl w
  | 23 => decodeSpawn w
  | 24 => .ok (.ld (field w 7 6) (field w 13 4) (field w 17 2) (field w 19 3) (field w 22 1) (field w 23 9))
  | 25 => .ok (.st (field w 7 6) (field w 13 4) (field w 17 2) (field w 19 3) (field w 22 1) (field w 23 9))
  | 26 => unused (bits w 11 2 == 0) (.wld (field w 7 4) (field w 13 4) (field w 17 2) (field w 19 6) (field w 25 1) (field w 26 6))
  | 27 => unused (bits w 11 2 == 0) (.wst (field w 7 4) (field w 13 4) (field w 17 2) (field w 19 6) (field w 25 1) (field w 26 6))
  | 28 => unused (bits w 11 2 == 0 && bits w 17 2 == 0 && bits w 23 2 == 0 && bits w 29 3 == 0) (.gather (field w 7 4) (field w 13 4) (field w 19 4) (field w 25 1) (field w 26 2) (field w 28 1))
  | 29 => unused (bits w 11 2 == 0 && bits w 17 2 == 0 && bits w 23 2 == 0 && bits w 29 3 == 0) (.scatter (field w 7 4) (field w 13 4) (field w 19 4) (field w 25 1) (field w 26 2) (field w 28 1))
  | 30 => unused (bits w 7 6 == 0 && bits w 19 4 == 0) (.pref (field w 13 4) (field w 17 2) (field w 23 9))
  | 31 => decodeAtom w
  | 32 => unused (bits w 17 2 == 0 && bits w 28 4 == 0) (.acas (field w 7 6) (field w 13 4) (field w 19 6) (field w 25 1) (field w 26 2))
  | 33 => unused (bits w 7 12 == 0) (.fence (field w 19 5) (field w 24 5) (field w 29 3))
  | 34 => decodeBar w
  | 35 => decodeTags w
  | 36 => decodeQueue w
  | 37 => decodeHeap w
  | 38 => unused (bits w 13 6 == 0 && bits w 29 3 == 0) (.movs (field w 7 6) (field w 19 10))
  | 39 => unused (bits w 7 6 == 0 && bits w 29 3 == 0) (.movsw (field w 13 6) (field w 19 10))
  | 40 => decodeRreg w
  | 41 => decodeStrm w
  | 42 => decodeMtx w
  | 43 => decodeSpe w
  | 44 => decodePfx w
  | 45 => decodeWop w
  | 63 => .ok (.clause (field w 7 12) (field w 19 4) (field w 23 4) (field w 27 4) (field w 31 1))
  | op => .error (.reservedOpcode op)

/-- A 16-bit parcel, by op4 (R266). -/
def parse16 (w : Nat) : Except DecodeError Instr :=
  match bits w 1 4 with
  | 0 => .ok (.movC (field w 5 6) (field w 11 5))
  | 1 => .ok (.addC (field w 5 6) (field w 11 5))
  | 2 => .ok (.subC (field w 5 6) (field w 11 5))
  | 3 => .ok (.andC (field w 5 6) (field w 11 5))
  | 4 => .ok (.orC (field w 5 6) (field w 11 5))
  | 5 => .ok (.xorC (field w 5 6) (field w 11 5))
  | 6 => .ok (.shlC (field w 5 6) (field w 11 5))
  | 7 => .ok (.shrC (field w 5 6) (field w 11 5))
  | 8 => .ok (.addiC (field w 5 6) (field w 11 5))
  | 9 => .ok (.moviC (field w 5 6) (field w 11 5))
  | 10 => .ok (.faddC (field w 5 6) (field w 11 5))
  | 11 => .ok (.fmulC (field w 5 6) (field w 11 5))
  | 12 => .ok (.fmaxC (field w 5 6) (field w 11 5))
  | 13 => .ok (.fsubC (field w 5 6) (field w 11 5))
  | 14 => .ok (.shriC (field w 5 6) (field w 11 5))
  | _ => unused (bits w 5 11 == 0) .nopC

/-- An instruction whose codes R272 allows. -/
def settle (r : Except DecodeError Instr) : Except DecodeError Instr :=
  match r with
  | .ok i => if i.codesOk then .ok i else .error .reservedCode
  | .error e => .error e

/-- The decoder on a 32-bit word and on a parcel. -/
def decode32 (w : Nat) : Except DecodeError Instr := settle (parse32 w)

def decode16 (w : Nat) : Except DecodeError Instr := settle (parse16 w)

/-- Bit 0 of the first parcel gives the length in parcels (R259). -/
def lengthOf (first : Nat) : Nat := if first % 2 == 0 then 1 else 2

/-- The decoder on bytes as they stand in memory, low parcel and low byte first (R259, R6); it answers the
instruction and the bytes after it. -/
def decode : List Byte → Except DecodeError (Instr × List Byte)
  | b0 :: b1 :: rest =>
    let p := b0.toNat + 256 * b1.toNat
    if lengthOf p == 1 then
      match decode16 p with
      | .ok i => .ok (i, rest)
      | .error e => .error e
    else
      match rest with
      | b2 :: b3 :: rest' =>
        match decode32 (p + 65536 * (b2.toNat + 256 * b3.toNat)) with
        | .ok i => .ok (i, rest')
        | .error e => .error e
      | _ => .error .truncated
  | _ => .error .truncated

/-- The word of an instruction as a number, from the same tables; 0 for a step that is no instruction. -/
def encodeWord : Instr → Nat
  | .clause w a b n y => 127 + w.toNat * 128 + a.toNat * 524288 + b.toNat * 8388608 + n.toNat * 134217728 + y.toNat * 2147483648
  | .movC d s => 0 + d.toNat * 32 + s.toNat * 2048
  | .addC d s => 2 + d.toNat * 32 + s.toNat * 2048
  | .subC d s => 4 + d.toNat * 32 + s.toNat * 2048
  | .andC d s => 6 + d.toNat * 32 + s.toNat * 2048
  | .orC d s => 8 + d.toNat * 32 + s.toNat * 2048
  | .xorC d s => 10 + d.toNat * 32 + s.toNat * 2048
  | .shlC d s => 12 + d.toNat * 32 + s.toNat * 2048
  | .shrC d s => 14 + d.toNat * 32 + s.toNat * 2048
  | .addiC d s => 16 + d.toNat * 32 + s.toNat * 2048
  | .moviC d s => 18 + d.toNat * 32 + s.toNat * 2048
  | .faddC d s => 20 + d.toNat * 32 + s.toNat * 2048
  | .fmulC d s => 22 + d.toNat * 32 + s.toNat * 2048
  | .fmaxC d s => 24 + d.toNat * 32 + s.toNat * 2048
  | .fsubC d s => 26 + d.toNat * 32 + s.toNat * 2048
  | .shriC d s => 28 + d.toNat * 32 + s.toNat * 2048
  | .nopC => 30
  | .add d a b => 3 + d.toNat * 128 + a.toNat * 8192 + b.toNat * 524288
  | .sub d a b => 33554435 + d.toNat * 128 + a.toNat * 8192 + b.toNat * 524288
  | .mul d a b => 67108867 + d.toNat * 128 + a.toNat * 8192 + b.toNat * 524288
  | .mulhI d a b => 100663299 + d.toNat * 128 + a.toNat * 8192 + b.toNat * 524288
  | .mulhN d a b => 134217731 + d.toNat * 128 + a.toNat * 8192 + b.toNat * 524288
  | .divI d a b => 167772163 + d.toNat * 128 + a.toNat * 8192 + b.toNat * 524288
  | .divN d a b => 201326595 + d.toNat * 128 + a.toNat * 8192 + b.toNat * 524288
  | .remI d a b => 234881027 + d.toNat * 128 + a.toNat * 8192 + b.toNat * 524288
  | .remN d a b => 268435459 + d.toNat * 128 + a.toNat * 8192 + b.toNat * 524288
  | .and d a b => 301989891 + d.toNat * 128 + a.toNat * 8192 + b.toNat * 524288
  | .or d a b => 335544323 + d.toNat * 128 + a.toNat * 8192 + b.toNat * 524288
  | .xor d a b => 369098755 + d.toNat * 128 + a.toNat * 8192 + b.toNat * 524288
  | .andn d a b => 402653187 + d.toNat * 128 + a.toNat * 8192 + b.toNat * 524288
  | .shl d a b => 436207619 + d.toNat * 128 + a.toNat * 8192 + b.toNat * 524288
  | .shr d a b => 469762051 + d.toNat * 128 + a.toNat * 8192 + b.toNat * 524288
  | .sar d a b => 503316483 + d.toNat * 128 + a.toNat * 8192 + b.toNat * 524288
  | .rot d a b => 536870915 + d.toNat * 128 + a.toNat * 8192 + b.toNat * 524288
  | .minI d a b => 570425347 + d.toNat * 128 + a.toNat * 8192 + b.toNat * 524288
  | .minN d a b => 603979779 + d.toNat * 128 + a.toNat * 8192 + b.toNat * 524288
  | .maxI d a b => 637534211 + d.toNat * 128 + a.toNat * 8192 + b.toNat * 524288
  | .maxN d a b => 671088643 + d.toNat * 128 + a.toNat * 8192 + b.toNat * 524288
  | .abs d a => 704643075 + d.toNat * 128 + a.toNat * 8192
  | .neg d a => 738197507 + d.toNat * 128 + a.toNat * 8192
  | .clz d a => 771751939 + d.toNat * 128 + a.toNat * 8192
  | .popc d a => 805306371 + d.toNat * 128 + a.toNat * 8192
  | .brev d a => 838860803 + d.toNat * 128 + a.toNat * 8192
  | .mov d a => 872415235 + d.toNat * 128 + a.toNat * 8192
  | .not d a => 905969667 + d.toNat * 128 + a.toNat * 8192
  | .addi d a i => 5 + d.toNat * 128 + a.toNat * 8192 + i.toNat * 524288
  | .andi d a i => 7 + d.toNat * 128 + a.toNat * 8192 + i.toNat * 524288
  | .ori d a i => 9 + d.toNat * 128 + a.toNat * 8192 + i.toNat * 524288
  | .xori d a i => 11 + d.toNat * 128 + a.toNat * 8192 + i.toNat * 524288
  | .shli d a n => 13 + d.toNat * 128 + a.toNat * 8192 + n.toNat * 524288
  | .shri d a n => 1073741837 + d.toNat * 128 + a.toNat * 8192 + n.toNat * 524288
  | .sari d a n => 2147483661 + d.toNat * 128 + a.toNat * 8192 + n.toNat * 524288
  | .roti d a n => 3221225485 + d.toNat * 128 + a.toNat * 8192 + n.toNat * 524288
  | .movh d i => 15 + d.toNat * 128 + i.toNat * 8192
  | .cmp p a b y c => 17 + p.toNat * 128 + a.toNat * 8192 + b.toNat * 524288 + y.toNat * 33554432 + c.toNat * 268435456
  | .cmpi p c a i => 19 + p.toNat * 128 + c.toNat * 1024 + a.toNat * 8192 + i.toNat * 524288
  | .pand d a b => 21 + d.toNat * 128 + a.toNat * 8192 + b.toNat * 524288
  | .por d a b => 33554453 + d.toNat * 128 + a.toNat * 8192 + b.toNat * 524288
  | .pxor d a b => 67108885 + d.toNat * 128 + a.toNat * 8192 + b.toNat * 524288
  | .pandn d a b => 100663317 + d.toNat * 128 + a.toNat * 8192 + b.toNat * 524288
  | .pnot d a => 134217749 + d.toNat * 128 + a.toNat * 8192
  | .pmovg d a => 167772181 + d.toNat * 128 + a.toNat * 8192
  | .pmovp d a => 201326613 + d.toNat * 128 + a.toNat * 8192
  | .sel d a b p => 23 + d.toNat * 128 + a.toNat * 8192 + b.toNat * 524288 + p.toNat * 33554432
  | .fadd d a b => 25 + d.toNat * 128 + a.toNat * 8192 + b.toNat * 524288
  | .fsub d a b => 33554457 + d.toNat * 128 + a.toNat * 8192 + b.toNat * 524288
  | .fmul d a b => 67108889 + d.toNat * 128 + a.toNat * 8192 + b.toNat * 524288
  | .fdiv d a b => 100663321 + d.toNat * 128 + a.toNat * 8192 + b.toNat * 524288
  | .fmin d a b => 134217753 + d.toNat * 128 + a.toNat * 8192 + b.toNat * 524288
  | .fmax d a b => 167772185 + d.toNat * 128 + a.toNat * 8192 + b.toNat * 524288
  | .fabs d a => 201326617 + d.toNat * 128 + a.toNat * 8192
  | .fneg d a => 234881049 + d.toNat * 128 + a.toNat * 8192
  | .fcpsgn d a b => 268435481 + d.toNat * 128 + a.toNat * 8192 + b.toNat * 524288
  | .fsqrt d a => 301989913 + d.toNat * 128 + a.toNat * 8192
  | .frcp d a => 335544345 + d.toNat * 128 + a.toNat * 8192
  | .frsq d a => 369098777 + d.toNat * 128 + a.toNat * 8192
  | .ex2 d a => 402653209 + d.toNat * 128 + a.toNat * 8192
  | .fma d a b => 27 + d.toNat * 128 + a.toNat * 8192 + b.toNat * 524288
  | .fms d a b => 33554459 + d.toNat * 128 + a.toNat * 8192 + b.toNat * 524288
  | .fnma d a b => 67108891 + d.toNat * 128 + a.toNat * 8192 + b.toNat * 524288
  | .fnms d a b => 100663323 + d.toNat * 128 + a.toNat * 8192 + b.toNat * 524288
  | .fcmp p a b c => 29 + p.toNat * 128 + a.toNat * 8192 + b.toNat * 524288 + c.toNat * 33554432
  | .fcvtF32I32 d a r => 31 + d.toNat * 128 + a.toNat * 8192 + r.toNat * 524288
  | .fcvtF32N32 d a r => 33554463 + d.toNat * 128 + a.toNat * 8192 + r.toNat * 524288
  | .fcvtI32F32 d a r => 67108895 + d.toNat * 128 + a.toNat * 8192 + r.toNat * 524288
  | .fcvtN32F32 d a r => 100663327 + d.toNat * 128 + a.toNat * 8192 + r.toNat * 524288
  | .fcvtF32F16 d a r => 134217759 + d.toNat * 128 + a.toNat * 8192 + r.toNat * 524288
  | .fcvtF16F32 d a r => 167772191 + d.toNat * 128 + a.toNat * 8192 + r.toNat * 524288
  | .fcvtF32Bf16 d a r => 201326623 + d.toNat * 128 + a.toNat * 8192 + r.toNat * 524288
  | .fcvtBf16F32 d a r => 234881055 + d.toNat * 128 + a.toNat * 8192 + r.toNat * 524288
  | .frnd d a r => 268435487 + d.toNat * 128 + a.toNat * 8192 + r.toNat * 524288
  | .aadd d a b s => 33 + d.toNat * 128 + a.toNat * 8192 + b.toNat * 524288 + s.toNat * 33554432
  | .amov d s => 268435489 + d.toNat * 128 + s.toNat * 8192
  | .asplit d a => 536870945 + d.toNat * 128 + a.toNat * 8192
  | .acmp d a b c => 805306401 + d.toNat * 128 + a.toNat * 8192 + b.toNat * 524288 + c.toNat * 33554432
  | .amova d a => 1073741857 + d.toNat * 128 + a.toNat * 8192
  | .aaddi d a i => 35 + d.toNat * 128 + a.toNat * 8192 + i.toNat * 524288
  | .afrom d i => 37 + d.toNat * 128 + i.toNat * 8192
  | .br p n o => 39 + p.toNat * 128 + n.toNat * 1024 + o.toNat * 2048
  | .call p n o => 41 + p.toNat * 128 + n.toNat * 1024 + o.toNat * 2048
  | .jmp a => 43 + a.toNat * 8192
  | .jcall d a => 33554475 + d.toNat * 128 + a.toNat * 8192
  | .ret a => 67108907 + a.toNat * 8192
  | .exit => 45
  | .yield => 33554477
  | .nop => 67108909
  | .brk => 100663341
  | .trap c => 134217773 + c.toNat * 8192
  | .spawn d a b => 47 + d.toNat * 128 + a.toNat * 8192 + b.toNat * 524288
  | .ld t a l y f o => 49 + t.toNat * 128 + a.toNat * 8192 + l.toNat * 131072 + y.toNat * 524288 + f.toNat * 4194304 + o.toNat * 8388608
  | .st t a l y f o => 51 + t.toNat * 128 + a.toNat * 8192 + l.toNat * 131072 + y.toNat * 524288 + f.toNat * 4194304 + o.toNat * 8388608
  | .wld t a l o f g => 53 + t.toNat * 128 + a.toNat * 8192 + l.toNat * 131072 + o.toNat * 524288 + f.toNat * 33554432 + g.toNat * 67108864
  | .wst t a l o f g => 55 + t.toNat * 128 + a.toNat * 8192 + l.toNat * 131072 + o.toNat * 524288 + f.toNat * 33554432 + g.toNat * 67108864
  | .gather d a b f l y => 57 + d.toNat * 128 + a.toNat * 8192 + b.toNat * 524288 + f.toNat * 33554432 + l.toNat * 67108864 + y.toNat * 268435456
  | .scatter d a b f l y => 59 + d.toNat * 128 + a.toNat * 8192 + b.toNat * 524288 + f.toNat * 33554432 + l.toNat * 67108864 + y.toNat * 268435456
  | .pref a l o => 61 + a.toNat * 8192 + l.toNat * 131072 + o.toNat * 8388608
  | .atomAdd d a b f l => 63 + d.toNat * 128 + a.toNat * 8192 + b.toNat * 524288 + f.toNat * 33554432 + l.toNat * 67108864
  | .atomMinI d a b f l => 268435519 + d.toNat * 128 + a.toNat * 8192 + b.toNat * 524288 + f.toNat * 33554432 + l.toNat * 67108864
  | .atomMinN d a b f l => 536870975 + d.toNat * 128 + a.toNat * 8192 + b.toNat * 524288 + f.toNat * 33554432 + l.toNat * 67108864
  | .atomMaxI d a b f l => 805306431 + d.toNat * 128 + a.toNat * 8192 + b.toNat * 524288 + f.toNat * 33554432 + l.toNat * 67108864
  | .atomMaxN d a b f l => 1073741887 + d.toNat * 128 + a.toNat * 8192 + b.toNat * 524288 + f.toNat * 33554432 + l.toNat * 67108864
  | .atomAnd d a b f l => 1342177343 + d.toNat * 128 + a.toNat * 8192 + b.toNat * 524288 + f.toNat * 33554432 + l.toNat * 67108864
  | .atomOr d a b f l => 1610612799 + d.toNat * 128 + a.toNat * 8192 + b.toNat * 524288 + f.toNat * 33554432 + l.toNat * 67108864
  | .atomXor d a b f l => 1879048255 + d.toNat * 128 + a.toNat * 8192 + b.toNat * 524288 + f.toNat * 33554432 + l.toNat * 67108864
  | .atomXchg d a b f l => 2147483711 + d.toNat * 128 + a.toNat * 8192 + b.toNat * 524288 + f.toNat * 33554432 + l.toNat * 67108864
  | .atomFadd d a b f l => 2415919167 + d.toNat * 128 + a.toNat * 8192 + b.toNat * 524288 + f.toNat * 33554432 + l.toNat * 67108864
  | .atomBump d a b f l => 2684354623 + d.toNat * 128 + a.toNat * 8192 + b.toNat * 524288 + f.toNat * 33554432 + l.toNat * 67108864
  | .acas d a b f l => 65 + d.toNat * 128 + a.toNat * 8192 + b.toNat * 524288 + f.toNat * 33554432 + l.toNat * 67108864
  | .fence p u s => 67 + p.toNat * 524288 + u.toNat * 16777216 + s.toNat * 536870912
  | .barArrive d b => 69 + d.toNat * 128 + b.toNat * 524288
  | .barWait a b => 268435525 + a.toNat * 8192 + b.toNat * 524288
  | .barSync b => 536870981 + b.toNat * 524288
  | .barInit a b l => 805306437 + a.toNat * 8192 + b.toNat * 524288 + l.toNat * 33554432
  | .barTest d b p => 1073741893 + d.toNat * 128 + b.toNat * 524288 + p.toNat * 33554432
  | .barDrop b => 1342177349 + b.toNat * 524288
  | .twaitany a => 71 + a.toNat * 8192
  | .twaitall a => 33554503 + a.toNat * 8192
  | .tfirst d a => 67108935 + d.toNat * 128 + a.toNat * 8192
  | .tclr a => 100663367 + a.toNat * 8192
  | .tset a => 134217799 + a.toNat * 8192
  | .ttest d a => 167772231 + d.toNat * 128 + a.toNat * 8192
  | .qbind q a b => 7753 + q.toNat * 128 + a.toNat * 8192 + b.toNat * 524288
  | .qstat d q => 34046025 + d.toNat * 128 + q.toNat * 8192
  | .qclose q => 67600457 + q.toNat * 8192
  | .qtry d q b => 101154889 + d.toNat * 128 + q.toNat * 8192 + b.toNat * 524288
  | .hpush a b f => 75 + a.toNat * 8192 + b.toNat * 524288 + f.toNat * 33554432
  | .hpop d b f => 268435531 + d.toNat * 128 + b.toNat * 524288 + f.toNat * 33554432
  | .htry d b f => 536870987 + d.toNat * 128 + b.toNat * 524288 + f.toNat * 33554432
  | .movs d n => 77 + d.toNat * 128 + n.toNat * 524288
  | .movsw a n => 79 + a.toNat * 8192 + n.toNat * 524288
  | .mkh d a f => 81 + d.toNat * 128 + a.toNat * 8192 + f.toNat * 33554432
  | .arm d k b => 67108945 + d.toNat * 128 + k.toNat * 8192 + b.toNat * 524288
  | .rpost d a b f o => 134217809 + d.toNat * 128 + a.toNat * 8192 + b.toNat * 524288 + f.toNat * 33554432 + o.toNat * 536870912
  | .rpostw d a b f o => 201326673 + d.toNat * 128 + a.toNat * 8192 + b.toNat * 524288 + f.toNat * 33554432 + o.toNat * 536870912
  | .full d a k => 268435537 + d.toNat * 128 + a.toNat * 8192 + k.toNat * 524288
  | .revoke a f o => 335544401 + a.toNat * 8192 + f.toNat * 33554432 + o.toNat * 536870912
  | .stream a b f o => 83 + a.toNat * 8192 + b.toNat * 524288 + f.toNat * 33554432 + o.toNat * 536870912
  | .streamg a b f o => 67108947 + a.toNat * 8192 + b.toNat * 524288 + f.toNat * 33554432 + o.toNat * 536870912
  | .scopy a b f o => 134217811 + a.toNat * 8192 + b.toNat * 524288 + f.toNat * 33554432 + o.toNat * 536870912
  | .binscat a b f o => 201326675 + a.toNat * 8192 + b.toNat * 524288 + f.toNat * 33554432 + o.toNat * 536870912
  | .sfill a b f o => 268435539 + a.toNat * 8192 + b.toNat * 524288 + f.toNat * 33554432 + o.toNat * 536870912
  | .mma d a b f o => 85 + d.toNat * 128 + a.toNat * 8192 + b.toNat * 524288 + f.toNat * 33554432 + o.toNat * 536870912
  | .mmas d a b f o => 67108949 + d.toNat * 128 + a.toNat * 8192 + b.toNat * 524288 + f.toNat * 33554432 + o.toNat * 536870912
  | .xzero d => 134217813 + d.toNat * 128
  | .xld d a b f o => 201326677 + d.toNat * 128 + a.toNat * 8192 + b.toNat * 524288 + f.toNat * 33554432 + o.toNat * 536870912
  | .xst d a b f o => 268435541 + d.toNat * 128 + a.toNat * 8192 + b.toNat * 524288 + f.toNat * 33554432 + o.toNat * 536870912
  | .xdrain d a b f o => 335544405 + d.toNat * 128 + a.toNat * 8192 + b.toNat * 524288 + f.toNat * 33554432 + o.toNat * 536870912
  | .xguard d a c => 402653269 + d.toNat * 128 + a.toNat * 8192 + c.toNat * 524288
  | .xtag d a => 469762133 + d.toNat * 128 + a.toNat * 8192
  | .bind d a f o => 87 + d.toNat * 128 + a.toNat * 8192 + f.toNat * 33554432 + o.toNat * 536870912
  | .unbind b f o => 67108951 + b.toNat * 524288 + f.toNat * 33554432 + o.toNat * 536870912
  | .settle d b f o => 134217815 + d.toNat * 128 + b.toNat * 524288 + f.toNat * 33554432 + o.toNat * 536870912
  | .stale d b f => 201326679 + d.toNat * 128 + b.toNat * 524288 + f.toNat * 33554432
  | .recomp d b f o => 268435543 + d.toNat * 128 + b.toNat * 524288 + f.toNat * 33554432 + o.toNat * 536870912
  | .bstat d b f => 335544407 + d.toNat * 128 + b.toNat * 524288 + f.toNat * 33554432
  | .pxfind d a f o => 89 + d.toNat * 128 + a.toNat * 8192 + f.toNat * 33554432 + o.toNat * 536870912
  | .pxins d a b f o => 67108953 + d.toNat * 128 + a.toNat * 8192 + b.toNat * 524288 + f.toNat * 33554432 + o.toNat * 536870912
  | .pxref d a b f o => 134217817 + d.toNat * 128 + a.toNat * 8192 + b.toNat * 524288 + f.toNat * 33554432 + o.toNat * 536870912
  | .pxunref d b f o => 201326681 + d.toNat * 128 + b.toNat * 524288 + f.toNat * 33554432 + o.toNat * 536870912
  | .kvapp d b f o => 268435545 + d.toNat * 128 + b.toNat * 524288 + f.toNat * 33554432 + o.toNat * 536870912
  | .kvtrim d b f o => 335544409 + d.toNat * 128 + b.toNat * 524288 + f.toNat * 33554432 + o.toNat * 536870912
  | .kvxlat d b f => 402653273 + d.toNat * 128 + b.toNat * 524288 + f.toNat * 33554432
  | .attn d a f o => 469762137 + d.toNat * 128 + a.toNat * 8192 + f.toNat * 33554432 + o.toNat * 536870912
  | .wadd d a b => 91 + d.toNat * 128 + a.toNat * 8192 + b.toNat * 524288
  | .wsub d a b => 268435547 + d.toNat * 128 + a.toNat * 8192 + b.toNat * 524288
  | .wmul d a b => 536871003 + d.toNat * 128 + a.toNat * 8192 + b.toNat * 524288
  | .wfma d a b => 805306459 + d.toNat * 128 + a.toNat * 8192 + b.toNat * 524288
  | .wmax d a b => 1073741915 + d.toNat * 128 + a.toNat * 8192 + b.toNat * 524288
  | .wmin d a b => 1342177371 + d.toNat * 128 + a.toNat * 8192 + b.toNat * 524288
  | .wdot d a b => 1610612827 + d.toNat * 128 + a.toNat * 8192 + b.toNat * 524288
  | .wred d a m => 1879048283 + d.toNat * 128 + a.toNat * 8192 + m.toNat * 33554432
  | .wcvt d a t r k => 2147483739 + d.toNat * 128 + a.toNat * 8192 + t.toNat * 524288 + r.toNat * 33554432 + k.toNat * 67108864
  | .wpack d a b => 2415919195 + d.toNat * 128 + a.toNat * 8192 + b.toNat * 524288
  | .wunpk d a p => 2684354651 + d.toNat * 128 + a.toNat * 8192 + p.toNat * 524288
  | .wshuf d a b => 2952790107 + d.toNat * 128 + a.toNat * 8192 + b.toNat * 524288
  | .wtag d t => 3221225563 + d.toNat * 128 + t.toNat * 524288
  | .wscl d a b => 3489661019 + d.toNat * 128 + a.toNat * 8192 + b.toNat * 524288
  | .wsets d a m => 3758096475 + d.toNat * 128 + a.toNat * 8192 + m.toNat * 33554432
  | .wcmp d a b c => 4026531931 + d.toNat * 128 + a.toNat * 8192 + b.toNat * 524288 + c.toNat * 33554432
  | _ => 0

/-- How many parcels an instruction takes (R259, R265, R266); 0 for a step that is no instruction. -/
def Instr.parcels : Instr → Nat
  | .movC _ _ | .addC _ _ | .subC _ _ | .andC _ _ | .orC _ _ | .xorC _ _ | .shlC _ _ | .shrC _ _ | .addiC _ _
  | .moviC _ _ | .faddC _ _ | .fmulC _ _ | .fmaxC _ _ | .fsubC _ _ | .shriC _ _ | .nopC => 1
  | .clause _ _ _ _ _ | .add _ _ _ | .sub _ _ _ | .mul _ _ _ | .mulhI _ _ _ | .mulhN _ _ _ | .divI _ _ _
  | .divN _ _ _ | .remI _ _ _ | .remN _ _ _ | .and _ _ _ | .or _ _ _ | .xor _ _ _ | .andn _ _ _ | .shl _ _ _
  | .shr _ _ _ | .sar _ _ _ | .rot _ _ _ | .minI _ _ _ | .minN _ _ _ | .maxI _ _ _ | .maxN _ _ _ | .abs _ _
  | .neg _ _ | .clz _ _ | .popc _ _ | .brev _ _ | .mov _ _ | .not _ _ | .addi _ _ _ | .andi _ _ _ | .ori _ _ _
  | .xori _ _ _ | .shli _ _ _ | .shri _ _ _ | .sari _ _ _ | .roti _ _ _ | .movh _ _ | .cmp _ _ _ _ _
  | .cmpi _ _ _ _ | .pand _ _ _ | .por _ _ _ | .pxor _ _ _ | .pandn _ _ _ | .pnot _ _ | .pmovg _ _ | .pmovp _ _
  | .sel _ _ _ _ | .fadd _ _ _ | .fsub _ _ _ | .fmul _ _ _ | .fdiv _ _ _ | .fmin _ _ _ | .fmax _ _ _ | .fabs _ _
  | .fneg _ _ | .fcpsgn _ _ _ | .fsqrt _ _ | .frcp _ _ | .frsq _ _ | .ex2 _ _ | .fma _ _ _ | .fms _ _ _
  | .fnma _ _ _ | .fnms _ _ _ | .fcmp _ _ _ _ | .fcvtF32I32 _ _ _ | .fcvtF32N32 _ _ _ | .fcvtI32F32 _ _ _
  | .fcvtN32F32 _ _ _ | .fcvtF32F16 _ _ _ | .fcvtF16F32 _ _ _ | .fcvtF32Bf16 _ _ _ | .fcvtBf16F32 _ _ _
  | .frnd _ _ _ | .aadd _ _ _ _ | .amov _ _ | .asplit _ _ | .acmp _ _ _ _ | .amova _ _ | .aaddi _ _ _
  | .afrom _ _ | .br _ _ _ | .call _ _ _ | .jmp _ | .jcall _ _ | .ret _ | .exit | .yield | .nop | .brk | .trap _
  | .spawn _ _ _ | .ld _ _ _ _ _ _ | .st _ _ _ _ _ _ | .wld _ _ _ _ _ _ | .wst _ _ _ _ _ _ | .gather _ _ _ _ _ _
  | .scatter _ _ _ _ _ _ | .pref _ _ _ | .atomAdd _ _ _ _ _ | .atomMinI _ _ _ _ _ | .atomMinN _ _ _ _ _
  | .atomMaxI _ _ _ _ _ | .atomMaxN _ _ _ _ _ | .atomAnd _ _ _ _ _ | .atomOr _ _ _ _ _ | .atomXor _ _ _ _ _
  | .atomXchg _ _ _ _ _ | .atomFadd _ _ _ _ _ | .atomBump _ _ _ _ _ | .acas _ _ _ _ _ | .fence _ _ _
  | .barArrive _ _ | .barWait _ _ | .barSync _ | .barInit _ _ _ | .barTest _ _ _ | .barDrop _ | .twaitany _
  | .twaitall _ | .tfirst _ _ | .tclr _ | .tset _ | .ttest _ _ | .qbind _ _ _ | .qstat _ _ | .qclose _
  | .qtry _ _ _ | .hpush _ _ _ | .hpop _ _ _ | .htry _ _ _ | .movs _ _ | .movsw _ _ | .mkh _ _ _ | .arm _ _ _
  | .rpost _ _ _ _ _ | .rpostw _ _ _ _ _ | .full _ _ _ | .revoke _ _ _ | .stream _ _ _ _ | .streamg _ _ _ _
  | .scopy _ _ _ _ | .binscat _ _ _ _ | .sfill _ _ _ _ | .mma _ _ _ _ _ | .mmas _ _ _ _ _ | .xzero _
  | .xld _ _ _ _ _ | .xst _ _ _ _ _ | .xdrain _ _ _ _ _ | .xguard _ _ _ | .xtag _ _ | .bind _ _ _ _
  | .unbind _ _ _ | .settle _ _ _ _ | .stale _ _ _ | .recomp _ _ _ _ | .bstat _ _ _ | .pxfind _ _ _ _
  | .pxins _ _ _ _ _ | .pxref _ _ _ _ _ | .pxunref _ _ _ _ | .kvapp _ _ _ _ | .kvtrim _ _ _ _ | .kvxlat _ _ _
  | .attn _ _ _ _ | .wadd _ _ _ | .wsub _ _ _ | .wmul _ _ _ | .wfma _ _ _ | .wmax _ _ _ | .wmin _ _ _
  | .wdot _ _ _ | .wred _ _ _ | .wcvt _ _ _ _ _ | .wpack _ _ _ | .wunpk _ _ _ | .wshuf _ _ _ | .wtag _ _
  | .wscl _ _ _ | .wsets _ _ _ | .wcmp _ _ _ _ => 2
  | _ => 0

/-- The bytes of a number, least significant first (R6). -/
def bytesOf : Nat → Nat → List Byte
  | 0, _ => []
  | n + 1, w => BitVec.ofNat 8 (w % 256) :: bytesOf n (w / 256)

/-- The encoder: the bytes of an instruction as they stand in memory. -/
def encode (i : Instr) : List Byte := bytesOf (2 * i.parcels) (encodeWord i)

/-- The instruction that the decoder reads from bits numbered as the opcode table numbers them. -/
def decodeTableWord (nbits w : Nat) : Option Instr :=
  match decode (bytesOf 4 (w % 2 ^ nbits)) with
  | .ok (i, _) => some i
  | .error _ => none

end Sys2Proof
end

