-- ==== Sys2Proof/Machine/Num.lean ====
section
/-! DEFINITION. Numbers (16): the formats to the bit, exact values, rounding in every mode, the arithmetic and the
conversions of F32, stochastic rounding, the accumulation of the matrix array, and EX2. -/

namespace Sys2Proof.Machine

/-- Rounding modes, in the order of RMODE's codes (R234). -/
inductive RMode
  | rne | rtz | rdn | rup
  deriving DecidableEq, Repr

/-- A floating-point element format (R227). -/
structure Fmt where
  width : Nat
  mb : Nat
  bias : Nat
  /-- the largest finite magnitude, infinity if there is one, and the NaN produced -/
  top : Nat
  inf : Option Nat
  nan : Nat

def f32 : Fmt := ⟨32, 23, 127, 0x7F7FFFFF, some 0x7F800000, 0x7FC00000⟩
def f16 : Fmt := ⟨16, 10, 15, 0x7BFF, some 0x7C00, 0x7E00⟩
def bf16 : Fmt := ⟨16, 7, 127, 0x7F7F, some 0x7F80, 0x7FC0⟩
def e4m3 : Fmt := ⟨8, 3, 7, 0x7E, none, 0x7F⟩
def e5m2 : Fmt := ⟨8, 2, 15, 0x7B, some 0x7C, 0x7E⟩
def e2m1 : Fmt := ⟨4, 1, 1, 7, none, 0⟩

/-- An exact value (R235): NaN (signalling or not), an infinity, or plus or minus m × 2^e. -/
inductive Val
  | nan (signalling : Bool)
  | inf (neg : Bool)
  | fin (neg : Bool) (m : Nat) (e : Int)
  deriving DecidableEq, Repr

/-- exact(x) of a pattern of a format (R227). -/
def Fmt.decode (f : Fmt) (x : Nat) : Val :=
  let neg := x / 2 ^ (f.width - 1) % 2 == 1
  let mag := x % 2 ^ (f.width - 1)
  if f.top < mag then
    if f.inf = some mag then .inf neg
    else .nan (f.inf.isSome && mag / 2 ^ (f.mb - 1) % 2 == 0)
  else if mag / 2 ^ f.mb = 0 then .fin neg mag (1 - f.bias - f.mb)
  else .fin neg (2 ^ f.mb + mag % 2 ^ f.mb) ((mag / 2 ^ f.mb : Nat) - (f.bias : Int) - f.mb)

/-- FSTAT bits (R234). -/
def fINV : BitVec 5 := 16
def fDIVZ : BitVec 5 := 8
def fOVF : BitVec 5 := 4
def fUNF : BitVec 5 := 2
def fINX : BitVec 5 := 1

/-- A result and the FSTAT bits it sets. -/
abbrev Res := Nat × BitVec 5

/-- Does a magnitude cut at a fraction go up?  odd: the kept part is odd; c compares the fraction with a half. -/
def goesUp (m : RMode) (neg odd zero : Bool) (c : Ordering) : Bool :=
  if zero then false
  else match m with
    | .rne => match c with | .gt => true | .eq => odd | .lt => false
    | .rtz => false
    | .rdn => neg
    | .rup => !neg

/-- m × 2^e in units of 2^q: the integer part, and the fraction against a half and against zero. -/
def scaleTo (m : Nat) (e q : Int) : Nat × Ordering × Bool :=
  if q ≤ e then (m * 2 ^ (e - q).toNat, .lt, true)
  else
    let k := (q - e).toNat
    (m / 2 ^ k, compare (2 * (m % 2 ^ k)) (2 ^ k), m % 2 ^ k == 0)

/-- The exponent of the last kept bit of m × 2^e in a format: subnormals stop at the smallest. -/
def Fmt.quantum (f : Fmt) (m : Nat) (e : Int) : Int := max ((Nat.log2 m : Int) + e - f.mb) (1 - f.bias - f.mb)

/-- The pattern of magnitude r × 2^q. -/
def Fmt.code (f : Fmt) (r : Nat) (q : Int) : Nat := (q - (1 - f.bias - f.mb)).toNat * 2 ^ f.mb + r

def Fmt.withSign (f : Fmt) (neg : Bool) (mag : Nat) : Nat := (if neg then 2 ^ (f.width - 1) else 0) + mag

/-- A format that saturates when .sat asks for it: E5M2 alone, the 8-bit format with an infinity (R238). -/
def Fmt.saturates (f : Fmt) (sat : Bool) : Bool := sat && f.width == 8

/-- What an overflow gives in a mode; sat asks for the largest finite value (R238). -/
def Fmt.overflow (f : Fmt) (m : RMode) (sat neg : Bool) : Nat :=
  match f.inf with
  | none => f.withSign neg f.top
  | some i =>
    let toInf := match m with | .rne => true | .rtz => false | .rdn => neg | .rup => !neg
    f.withSign neg (if toInf && !f.saturates sat then i else f.top)

/-- Flags of a finite result: inexact, and underflow when it is below the smallest normal magnitude (R234, R238). -/
def Fmt.flags (f : Fmt) (code : Nat) (exact : Bool) : BitVec 5 :=
  if exact then 0 else if code < 2 ^ f.mb then fINX ||| fUNF else fINX

/-- round(v, fmt, mode) of a finite value (R235). -/
def Fmt.roundFin (f : Fmt) (mode : RMode) (sat : Bool) (neg : Bool) (m : Nat) (e : Int) : Res :=
  if m = 0 then (f.withSign neg 0, 0)
  else
    let q := f.quantum m e
    let (r, c, z) := scaleTo m e q
    let code := f.code (r + if goesUp mode neg (r % 2 == 1) z c then 1 else 0) q
    if f.top < code then (f.overflow mode sat neg, fOVF ||| fINX) else (f.withSign neg code, f.flags code z)

/-- The stochastic rounding of a finite value with random bits u (R240). -/
def Fmt.roundSr (f : Fmt) (u : Nat) (sat : Bool) (neg : Bool) (m : Nat) (e : Int) : Res :=
  if m = 0 then (f.withSign neg 0, 0)
  else
    let q := f.quantum m e
    let (r, _, z) := scaleTo m e q
    let t := (scaleTo m e (q - 16)).1 % 65536
    let code := f.code (r + if t ≠ 0 ∧ u < t then 1 else 0) q
    if f.top < code then (f.overflow .rne sat neg, fOVF ||| fINX) else (f.withSign neg code, f.flags code z)

/-- round(v, F32, mode): NaN gives the NaN produced; infinities stay. -/
def Fmt.round (f : Fmt) (mode : RMode) : Val → Res
  | .nan _ => (f.nan, 0)
  | .inf neg => (f.withSign neg (f.inf.getD f.top), 0)
  | .fin neg m e => f.roundFin mode false neg m e

def Val.isNan : Val → Bool
  | .nan _ => true
  | _ => false

def Val.isSnan : Val → Bool
  | .nan b => b
  | _ => false

def Val.isZero : Val → Bool
  | .fin _ 0 _ => true
  | _ => false

def Val.neg : Val → Val
  | .nan b => .nan b
  | .inf n => .inf !n
  | .fin n m e => .fin (!n) m e

def Val.isNeg : Val → Bool
  | .nan _ => false
  | .inf n => n
  | .fin n _ _ => n

/-- A finite value as an integer multiple of 2^q, for q at or below its exponent. -/
def signedAt (neg : Bool) (m : Nat) (e q : Int) : Int :=
  let v : Int := (m * 2 ^ (e - q).toNat : Nat)
  if neg then -v else v

def ofSigned (v : Int) (q : Int) : Val := .fin (v < 0) v.natAbs q

/-- The exact sum, with the sign of zero that the mode gives (R235). -/
def Val.add (mode : RMode) : Val → Val → Val
  | .nan a, y => .nan (a || y.isSnan)
  | x, .nan b => .nan (b || x.isSnan)
  | .inf a, .inf b => if a = b then .inf a else .nan false
  | .inf a, _ => .inf a
  | _, .inf b => .inf b
  | .fin a m e, .fin b n f =>
    let q := min e f
    let v := signedAt a m e q + signedAt b n f q
    if v = 0 then .fin (if m = 0 ∧ n = 0 ∧ a = b then a else mode == .rdn) 0 0 else ofSigned v q

/-- The exact product; 0 times infinity has none. -/
def Val.mul : Val → Val → Val
  | .nan a, y => .nan (a || y.isSnan)
  | x, .nan b => .nan (b || x.isSnan)
  | .inf a, y => if y.isZero then .nan false else .inf (a != y.isNeg)
  | x, .inf b => if x.isZero then .nan false else .inf (b != x.isNeg)
  | .fin a m e, .fin b n f => .fin (a != b) (m * n) (e + f)

/-- INV of an operation: a signalling NaN operand, or a NaN out of operands that are none (R236). -/
def invFlag (ops : List Val) (r : Val) : BitVec 5 :=
  if ops.any Val.isSnan || (r.isNan && !ops.any Val.isNan) then fINV else 0

/-- Below the smallest normal magnitude after rounding with an exponent without bounds: tiny in the sense of IEEE 754-2019
(R236). -/
def Fmt.tiny (f : Fmt) (mode : RMode) (neg : Bool) (m : Nat) (e : Int) : Bool :=
  let top := (Nat.log2 m : Int) + e
  let (r, c, z) := scaleTo m e (top - f.mb)
  let r1 := r + if goesUp mode neg (r % 2 == 1) z c then 1 else 0
  top + 1 < 1 - f.bias || (top < 1 - f.bias && r1 < 2 ^ (f.mb + 1))

/-- An exact result rounded by an arithmetic instruction, with the exceptions of IEEE 754-2019: a tiny and inexact one sets
UNF, even where it rounds to the smallest normal magnitude (R236). -/
def Fmt.deliver (f : Fmt) (mode : RMode) (v : Val) : Res :=
  let (c, fl) := f.round mode v
  match v with
  | .fin neg m e => (c, if fl.getLsbD 0 && f.tiny mode neg m e then fl ||| fUNF else fl)
  | _ => (c, fl)

def finishOp (mode : RMode) (ops : List Val) (r : Val) : Res :=
  let (c, fl) := f32.deliver mode r
  (c, fl ||| invFlag ops r)

def fadd (mode : RMode) (x y : Nat) : Res :=
  let a := f32.decode x; let b := f32.decode y
  finishOp mode [a, b] (a.add mode b)

def fsub (mode : RMode) (x y : Nat) : Res :=
  let a := f32.decode x; let b := f32.decode y
  finishOp mode [a, b] (a.add mode b.neg)

def fmul (mode : RMode) (x y : Nat) : Res :=
  let a := f32.decode x; let b := f32.decode y
  finishOp mode [a, b] (a.mul b)

/-- round(±x × y ± z), rounded once (R236); 0 times infinity sets INV even beside a NaN (R289). -/
def fma (mode : RMode) (negProd negAdd : Bool) (x y z : Nat) : Res :=
  let a := f32.decode x; let b := f32.decode y; let c := f32.decode z
  let p := if negProd then (a.mul b).neg else a.mul b
  let r := finishOp mode [a, b, c] (p.add mode (if negAdd then c.neg else c))
  (r.1, if p.isNan && !a.isNan && !b.isNan then r.2 ||| fINV else r.2)

/-- A quotient of positive integers as a value that rounds as the exact one does: enough bits and a sticky bit. -/
def divVal (neg : Bool) (m n : Nat) (e : Int) : Val :=
  let k := Nat.log2 n + 30
  .fin neg (2 * (m * 2 ^ k / n) + if m * 2 ^ k % n = 0 then 0 else 1) (e - k - 1)

def fdiv (mode : RMode) (x y : Nat) : Res :=
  let a := f32.decode x; let b := f32.decode y
  let neg := a.isNeg != b.isNeg
  match a, b with
  | .nan _, _ | _, .nan _ => finishOp mode [a, b] (.nan false)
  | .inf _, .inf _ => finishOp mode [a, b] (.nan false)
  | .inf _, _ => finishOp mode [a, b] (.inf neg)
  | _, .inf _ => finishOp mode [a, b] (.fin neg 0 0)
  | .fin _ m e, .fin _ n f =>
    if n = 0 then (if m = 0 then finishOp mode [a, b] (.nan false) else (f32.withSign neg 0x7F800000, fDIVZ))
    else if m = 0 then finishOp mode [a, b] (.fin neg 0 0)
    else finishOp mode [a, b] (divVal neg m n (e - f))

/-- The square root of m × 2^e with a sticky bit; q, r say that m was itself cut. -/
def sqrtVal (m : Nat) (e : Int) (cut : Bool) : Val :=
  let m' := if e % 2 = 0 then m else 2 * m
  let e' := if e % 2 = 0 then e else e - 1
  let n := m' * 2 ^ 64
  let s := Nat.sqrt n
  .fin false (2 * s + if s * s = n ∧ !cut then 0 else 1) (e' / 2 - 32 - 1)

def fsqrt (mode : RMode) (x : Nat) : Res :=
  let a := f32.decode x
  match a with
  | .nan _ => finishOp mode [a] (.nan false)
  | .inf n => finishOp mode [a] (if n then .nan false else .inf false)
  | .fin n m e =>
    if m = 0 then finishOp mode [a] a
    else if n then finishOp mode [a] (.nan false)
    else finishOp mode [a] (sqrtVal m e false)

def frcp (mode : RMode) (x : Nat) : Res := fdiv mode 0x3F800000 x

def frsq (mode : RMode) (x : Nat) : Res :=
  let a := f32.decode x
  match a with
  | .nan _ => finishOp mode [a] (.nan false)
  | .inf n => finishOp mode [a] (if n then .nan false else .fin false 0 0)
  | .fin n m e =>
    if m = 0 then (f32.withSign n 0x7F800000, fDIVZ)
    else if n then finishOp mode [a] (.nan false)
    else
      let k := 2 * (Nat.log2 m + 40)
      let q := 2 ^ k / m
      finishOp mode [a] (sqrtVal q (-(k : Int) - e) (2 ^ k % m != 0))

/-- x < y of exact values that are no NaN; the two zeros compare equal. -/
def Val.lt : Val → Val → Bool
  | .inf a, .inf b => a && !b
  | .inf a, _ => a
  | _, .inf b => !b
  | .fin a m e, .fin b n f => let q := min e f; signedAt a m e q < signedAt b n f q
  | _, _ => false

def Val.eq : Val → Val → Bool
  | .inf a, .inf b => a == b
  | .fin a m e, .fin b n f => let q := min e f; signedAt a m e q == signedAt b n f q
  | _, _ => false

/-- minimum and maximum of IEEE 754-2019 (R237). -/
def fminmax (max : Bool) (x y : Nat) : Res :=
  let a := f32.decode x; let b := f32.decode y
  let inv := if a.isSnan || b.isSnan then fINV else 0
  if a.isNan || b.isNan then (0x7FC00000, inv)
  else
    let xFirst := a.lt b || (a.eq b && a.isNeg && !b.isNeg)
    ((if xFirst != max then x else y), inv)

/-- The comparison conditions of FCMP and WCMP by code: EQ NE LT LE GT GE UN OR. -/
def fcond (c : Nat) (a b : Val) : Bool :=
  let un := a.isNan || b.isNan
  if c = 0 then !un && a.eq b
  else if c = 1 then un || !a.eq b
  else if c = 2 then !un && a.lt b
  else if c = 3 then !un && (a.lt b || a.eq b)
  else if c = 4 then !un && b.lt a
  else if c = 5 then !un && (b.lt a || a.eq b)
  else if c = 6 then un
  else !un

/-- A finite value rounded to an integer in a mode; the flag says exact. -/
def roundInt (mode : RMode) (neg : Bool) (m : Nat) (e : Int) : Int × Bool :=
  let (r, c, z) := scaleTo m e 0
  let n : Int := ((r + if goesUp mode neg (r % 2 == 1) z c then 1 else 0 : Nat) : Int)
  (if neg then -n else n, z)

/-- The same, stochastically (R240). -/
def roundIntSr (u : Nat) (neg : Bool) (m : Nat) (e : Int) : Int × Bool :=
  let (r, _, z) := scaleTo m e 0
  let t := (scaleTo m e (-16)).1 % 65536
  let n : Int := ((r + if t ≠ 0 ∧ u < t then 1 else 0 : Nat) : Int)
  (if neg then -n else n, z)

/-- A rounded integer clamped to a range, with the flags of the integer targets of R238. -/
def clampInt (lo hi : Int) (ovf : BitVec 5) (r : Int × Bool) : Int × BitVec 5 :=
  if r.1 < lo then (lo, ovf) else if hi < r.1 then (hi, ovf) else (r.1, if r.2 then 0 else fINX)

/-- F32 to an integer range (I32, N32, I8, I4): a value, or the results for infinities and NaN (R238). -/
def toIntRange (lo hi : Int) (ovf : BitVec 5) (rnd : Bool → Nat → Int → Int × Bool) : Val → Int × BitVec 5
  | .nan _ => (0, fINV)
  | .inf n => (if n then lo else hi, ovf)
  | .fin n m e => clampInt lo hi ovf (rnd n m e)

/-- An integer to F32 in a mode. -/
def ofInt (mode : RMode) (v : Int) : Res := f32.round mode (.fin (v < 0) v.natAbs 0)

/-- FRND: to an integral value, the sign of zero kept; a non-zero operand that gives zero is tiny (R238). -/
def frnd (mode : RMode) (x : Nat) : Res :=
  match f32.decode x with
  | .nan s => (0x7FC00000, if s then fINV else 0)
  | .inf n => (f32.withSign n 0x7F800000, 0)
  | .fin n m e =>
    let (v, z) := roundInt mode n m e
    ((f32.roundFin .rne false n v.natAbs 0).1, if z then 0 else if v = 0 then fINX ||| fUNF else fINX)

/-- A value of one floating-point format into another (R238); sr gives the random bits of a stochastic rounding. -/
def convert (f : Fmt) (mode : RMode) (sr : Option Nat) (sat : Bool) : Val → Res
  | .nan s => (f.nan, if s || (f.nan == 0) then fINV else 0)
  | .inf n =>
    match f.inf with
    | some i => if f.saturates sat then (f.withSign n f.top, fOVF ||| fINX) else (f.withSign n i, 0)
    | none => (f.withSign n f.top, fOVF ||| fINX)
  | .fin n m e =>
    match sr with
    | none => f.roundFin mode sat n m e
    | some u => f.roundSr u sat n m e

/-- SipHash-2-4's round. -/
def sipRound (v : DWord × DWord × DWord × DWord) : DWord × DWord × DWord × DWord :=
  let (v0, v1, v2, v3) := v
  let v0 := v0 + v1; let v2 := v2 + v3
  let v1 := v1.rotateLeft 13 ^^^ v0; let v3 := v3.rotateLeft 16 ^^^ v2
  let v0 := v0.rotateLeft 32
  let v2 := v2 + v1; let v0 := v0 + v3
  let v1 := v1.rotateLeft 17 ^^^ v2; let v3 := v3.rotateLeft 21 ^^^ v0
  (v0, v1, v2.rotateLeft 32, v3)

/-- One message word of SipHash-2-4. -/
def sipWord (v : DWord × DWord × DWord × DWord) (m : DWord) : DWord × DWord × DWord × DWord :=
  let v := sipRound (sipRound (v.1, v.2.1, v.2.2.1, v.2.2.2 ^^^ m))
  (v.1 ^^^ m, v.2.1, v.2.2.1, v.2.2.2)

/-- sr_bits(key, t0, t1, idx, step): SipHash-2-4 with k0 = key and k1 = 0 over the four words (R240). -/
def srBits (key : DWord) (t0 t1 idx step : Word) : DWord :=
  let v : DWord × DWord × DWord × DWord :=
    (key ^^^ 0x736f6d6570736575, 0x646f72616e646f6d, key ^^^ 0x6c7967656e657261, 0x7465646279746573)
  let v := sipWord v (DWord.join t0 t1)
  let v := sipWord v (DWord.join idx step)
  let v := sipWord v 0x1000000000000000
  let v := (v.1, v.2.1, v.2.2.1 ^^^ 0xff, v.2.2.2)
  let v := sipRound (sipRound (sipRound (sipRound v)))
  v.1 ^^^ v.2.1 ^^^ v.2.2.1 ^^^ v.2.2.2

/-- floor(log2 |v|) of a finite non-zero value. -/
def Val.log2 : Val → Int
  | .fin _ m e => Nat.log2 m + e
  | _ => 0

/-- One chunk of the matrix array: the products of at most 16 terms into an F32 accumulator (R241). -/
def chunk (acc : Nat) (ps : List Val) : Nat :=
  let a := f32.decode acc
  if ps.any Val.isNan || (ps.any (fun p => p == .inf false) && ps.any (fun p => p == .inf true)) then 0x7FC00000
  else match ps.find? (fun p => match p with | .inf _ => true | _ => false) with
    | some v => (f32.round .rne (a.add .rne v)).1
    | none =>
      let nz := ps.filter (fun p => !p.isZero)
      match nz with
      | [] => acc
      | p0 :: r =>
        let emax := r.foldl (fun m p => max m p.log2) p0.log2
        let sum := nz.foldl (fun s p => match p with
          | .fin n m e =>
            let v : Int := ((scaleTo m e (emax - 32)).1 : Nat)
            if n then s - v else s + v
          | _ => s) (0 : Int)
        (f32.round .rne (a.add .rne (ofSigned sum (emax - 32)))).1

/-- round_rne(exact(acc) + a × b), the F32 case of R241. -/
def fmaStep (acc : Nat) (p : Val) : Nat := (f32.round .rne ((f32.decode acc).add .rne p)).1

/-- T[j] of R243: round_rne(2^(j/64)). -/
def ex2Table : List Nat := [
  0x3F800000, 0x3F8164D2, 0x3F82CD87, 0x3F843A29, 0x3F85AAC3, 0x3F871F62, 0x3F88980F, 0x3F8A14D5,
  0x3F8B95C2, 0x3F8D1ADF, 0x3F8EA43A, 0x3F9031DC, 0x3F91C3D3, 0x3F935A2B, 0x3F94F4F0, 0x3F96942D,
  0x3F9837F0, 0x3F99E046, 0x3F9B8D3A, 0x3F9D3EDA, 0x3F9EF532, 0x3FA0B051, 0x3FA27043, 0x3FA43516,
  0x3FA5FED7, 0x3FA7CD94, 0x3FA9A15B, 0x3FAB7A3A, 0x3FAD583F, 0x3FAF3B79, 0x3FB123F6, 0x3FB311C4,
  0x3FB504F3, 0x3FB6FD92, 0x3FB8FBAF, 0x3FBAFF5B, 0x3FBD08A4, 0x3FBF179A, 0x3FC12C4D, 0x3FC346CD,
  0x3FC5672A, 0x3FC78D75, 0x3FC9B9BE, 0x3FCBEC15, 0x3FCE248C, 0x3FD06334, 0x3FD2A81E, 0x3FD4F35B,
  0x3FD744FD, 0x3FD99D16, 0x3FDBFBB8, 0x3FDE60F5, 0x3FE0CCDF, 0x3FE33F89, 0x3FE5B907, 0x3FE8396A,
  0x3FEAC0C7, 0x3FED4F30, 0x3FEFE4BA, 0x3FF28177, 0x3FF5257D, 0x3FF7D0DF, 0x3FFA83B3, 0x3FFD3E0C]

/-- EX2 (R242). -/
def ex2 (x : Nat) : Res :=
  match f32.decode x with
  | .nan s => (0x7FC00000, if s then fINV else 0)
  | .inf n => if n then (0, 0) else (0x7F800000, 0)
  | .fin neg m e =>
    let q := min e 0
    let v := signedAt neg m e q
    let one : Int := ((2 ^ (-q).toNat : Nat) : Int)
    if 128 * one ≤ v then (0x7F800000, fOVF ||| fINX)
    else if v < -150 * one then (0, fUNF ||| fINX)
    else
      let n := v / one
      let f := v - n * one
      let j := (64 * f / one).toNat
      let r := Val.fin false (64 * f - j * one).toNat (q - 6)
      let rne (w : Val) : Val := f32.decode (f32.round .rne w).1
      let t := rne (r.mul (f32.decode 0x3D635847))
      let t := rne ((f32.decode 0x3E75FDF0).add .rne t)
      let t := rne (r.mul t)
      let t := rne ((f32.decode 0x3F317218).add .rne t)
      let t := rne (r.mul t)
      let p := rne ((f32.decode 0x3F800000).add .rne t)
      let g := rne ((f32.decode (ex2Table.getD j 0)).mul p)
      match g with
      | .fin _ gm ge =>
        let (c, fl) := f32.round .rne (.fin false gm (ge + n))
        let inx := f ≠ 0 ∨ v = -150 * one
        let fl' := if inx then (if c < 2 ^ 23 then fINX ||| fUNF else fINX) else 0
        (c, fl' ||| (fl &&& fOVF) ||| (if c = 0x7F800000 then fINX else 0))
      | _ => (0x7FC00000, 0)

end Sys2Proof.Machine
end

