-- ==== Sys2Proof/Config.lean ====
section
/-! DEFINITION. What the manual leaves to one implementation or leaves open, as constants without a body: nothing can
be proved of their values.  Each is named in a row of the assumption log. -/

namespace Sys2Proof.Config

/-- The keyed tag of a register handle (R345): private to the implementation.  Arguments: core, key epoch of the
core, table index and generation. -/
opaque ktag : Nat → Nat → Nat → Nat → Word

/-- The implementation's signature over a nonce and the measurement log (R209). -/
opaque signature : BitVec 256 → BitVec 512 → BitVec 512

/-- The certificate chain that ends in the identity key (R209), reduced to one value. -/
opaque certificateChain : BitVec 512

/-- The module's own IANA enterprise number (R186). -/
opaque enterprise : Word

/-- HASH of a Tiller node over a whole token path (R169). -/
opaque nodeHash : List Word → DWord

/-- The hash h(b) of a home block number that spreads homes over slices (R195): private to the implementation. -/
opaque homeHash : Nat → Nat

/-- The set of a die TLB's 1,024 that a page's translation uses, by process and page address (R134): private to the
implementation. -/
opaque tlbSet : BitVec 16 → Nat → Nat

/-- The set of an L1's 128 that a line uses, by the number of the line (R99): private to the implementation. -/
opaque l1Set : Nat → Nat

/-- The set of its slice's 2,048 that an L2 line uses, by the number of the line (R99): private to the implementation. -/
opaque l2Set : Nat → Nat

/-- The VA of the trap window that a trap service group is given (R92), by the number of the halted group. -/
opaque trapWindow : Nat → DWord

/-- The layout of a trap window behind its action word (R92), which the manual leaves to the implementation: the slot and the
byte of its thread record that a byte of the window shows. -/
opaque windowPlace : Nat → Option (Nat × Nat)

/-- The place of a node's child table in the node store (R169), by partition and node: private to the implementation. -/
opaque childPlace : Nat → Nat → Nat

/-- The size of the root's child table, fixed when a partition is configured (R169): 2^k entries, k from 2 to 16 by this number. -/
opaque rootTable : Nat

/-- Nodes that the node store of a partition can hold beside its first (R169, R173): private to the implementation. -/
opaque nodeStore : Nat

/-- The route table of R181, written by the foundation firmware: which loop carries the flits of an ordered pair of stops, counted
among the loops of their die or among the package loops. -/
opaque route : Nat → Nat → Nat

/-- The fixed function of R189: the UALink port that carries posts to a station. -/
opaque postPort : Nat → Nat

/-- The register that a handle and an offset name at the module of a station, as a number: what the handles of another module name is not
known here. -/
opaque remoteRegister : BitVec 10 → BitVec 64 → Nat → Nat

/-- The pair that a record of the Ringmaster itself names, by its code, where the event singles out none (R214). -/
opaque rmUnit : Nat → Nat

/-- The code of the record that a failure of boot step 5 writes (R208), and the frame that holds the Ringmaster's journal (R205). -/
opaque bootCode : Nat
opaque journalFrame : Nat

/-- The pair of the Ringmaster that a piece of S level's work runs on (R211), by the number of the action. -/
opaque workPair : Nat → Nat

/-- The nonce of a request for measurements (R209), by a count. -/
opaque requestNonce : Nat → BitVec 256

/-- The HBM row that holds a physical address (R220): the layout of a stack is the implementation's. -/
opaque hbmRow : Nat → Nat

/-- The digests of the certificate slots that GET_DIGESTS returns (R185, R209). -/
opaque certificateDigests : BitVec 512

/-- A value the manual does not state, drawn afresh each time (R250's counters, poisoned remote data). -/
opaque freeWord : Nat → Word

end Sys2Proof.Config
end

