-- ==== Sys2Proof/Machine/Types.lean ====
section
/-! DEFINITION. The records of the machine's state that threads, troupes, groups, contexts, memory and queues use.
A default value is what an unlisted entry of a table holds: a FREE slot, barrier, queue or word. -/

namespace Sys2Proof.Machine

/-- The trap causes of R89, in the order of their codes. -/
inductive Cause
  | illegal | format | align | address | target | rights | cap | overwrite | notarget | brk | soft | barrier
  | queue | desc | guard | poison
  deriving DecidableEq, Repr

/-- Why a thread left its troupe and blocked (R37, R46). -/
inductive BlockWhy
  /-- an instruction that reads empty catch registers: its source g and w registers -/
  | catchReg (gs ws : List Nat)
  /-- a queue port: the queue's key -/
  | queue (q : Nat)
  /-- WAIT or SYNC on a physical barrier -/
  | barrier (phys : Nat)
  /-- TWAITANY, or TWAITALL, on a mask -/
  | tags (m : DWord) (all : Bool)
  /-- a full operand log -/
  | log
  /-- a header whose wait mask names flags of these operations held in the operand log, by their numbers -/
  | gate (ids : List Nat)
  /-- a fetch that faulted: the log entry -/
  | fetch (id : Nat)
  deriving DecidableEq, Repr

/-- The state of a thread slot (R46). -/
inductive RunState
  | free
  | runnable
  | blocked (why : BlockWhy)
  | stopped
  | exited
  deriving DecidableEq, Repr, Inhabited

/-- A w register: data bits, two scales and a format tag (R232, R245). -/
structure WReg where
  data : BitVec 256 := 0
  s0 : Byte := 0
  s1 : Byte := 0
  tag : BitVec 6 := 0
  deriving DecidableEq, Repr, Inhabited

/-- A queue-port binding (R65): the descriptor's VA, the key of the queue it names, and which configuration of that
descriptor it was bound to (R67). -/
structure Port where
  bound : Bool := false
  push : Bool := false
  va : DWord := 0
  q : Nat := 0
  gen : Nat := 0
  deriving DecidableEq, Repr, Inhabited

/-- A register of a thread, by file and number (R220). -/
inductive RegName
  | g (n : Nat)
  | a (n : Nat)
  | w (n : Nat)
  | p (n : Nat)
  | flag (n : Nat)
  deriving DecidableEq, Repr

/-- A result of fixed latency on its way to its register (R18, R276): when it is delivered, and whether the register's full bit was
clear at the issue, so that a post may still land before it (R249). -/
structure Busy where
  due : Nat := 0
  empty : Bool := false
  deriving DecidableEq, Repr, Inhabited

/-- Everything one thread slot holds (R76, R245–R251, R84).  The entries of g, a, w and p that the accessors hard-wire
(g0, p0) are never listed. -/
structure Thread where
  run : RunState := .free
  /-- the thread's group, 0 for none -/
  group : Nat := 0
  g : Tab Word := {}
  a : Tab DWord := {}
  w : Tab WReg := {}
  p : Tab Bool := {}
  flags : Tab (BitVec 3) := {}
  /-- registers g1–g59 whose full bit is clear (R249) -/
  gEmpty : Tab Bool := {}
  /-- registers w0–w15 whose full bit is clear -/
  wEmpty : Tab Bool := {}
  ports : Tab Port := {}
  fstat : BitVec 5 := 0
  rmode : BitVec 2 := 0
  srstep : Word := 0
  cycHi : Option Word := none
  nowHi : Option Word := none
  hdr : DWord := 0
  off : BitVec 5 := 0
  gate : Bool := false
  cause : Byte := 0
  phase : Bool := false
  skid : BitVec 5 := 0
  fva : DWord := 0
  tpc : DWord := 0
  /-- the clause's A and B fields, none for 12 (R262) -/
  curA : Option Nat := none
  curB : Option Nat := none
  /-- the clause's length in parcels after the header, and its Y bit -/
  len : Nat := 0
  y : Bool := false
  tidx : Word := 0
  gsize : Word := 0
  lvc : Tab Word := {}
  lvn : Tab Word := {}
  /-- the physical barrier that a WAIT or SYNC of this thread waits on, a SYNC having arrived (R57) -/
  sync : Option Nat := none
  /-- entries popped by an issued port use and not yet taken as operands, by port -/
  portIn : Tab (Option Word) := {}
  /-- registrations in flight whose values loads of this thread returned (R112) -/
  seen : List Nat := []
  /-- the thread has passed its first header (R27) -/
  begun : Bool := false
  /-- the thread was resumed while the clause at HDR could not be fetched: R85 is still to be checked -/
  recheck : Bool := false
  /-- registers with an uncorrectable error that nothing has written since (R219, R220) -/
  lost : List RegName := []
  /-- the code block that the thread stands in, by physical address / 64, plus 1; 0 for none (R274) -/
  block : Nat := 0
  /-- results of fixed latency under way, by register (RegName.code) -/
  busy : Tab Busy := {}
  deriving DecidableEq, Repr, Inhabited

/-- A troupe: ascending slots of one group at one PC (R36). -/
structure Troupe where
  id : Nat
  slots : List Nat
  age : Nat
  /-- the first troupe of a newly placed group (R30), with the cycle of the placement -/
  first : Option Nat
  /-- the first cycle at which the troupe may be ready again (R37) -/
  readyAt : Nat
  /-- its threads have been released in the cycle of its age and have not issued since (R37) -/
  woken : Bool := false
  deriving DecidableEq, Repr

/-- A physical barrier (R49–R56, R382). -/
structure Barrier where
  granted : Bool := false
  dead : Bool := false
  expect : Nat := 0
  count : Nat := 0
  phase : Bool := false
  drops : Nat := 0
  arrived : Tab Bool := {}
  /-- releases under way: when each is due, and the waiters it lets go (R52, R56) -/
  releasing : List (Nat × List Nat) := []
  group : Nat := 0
  level : Nat := 0
  rbase : Nat := 0
  deriving DecidableEq, Repr, Inhabited

/-- An accumulator tile (R327, R333, R337): the group it is granted to, its elements as F32, the guard status and the
sequence state. -/
structure Tile where
  group : Nat := 0
  elems : Tab Word := {}
  /-- the poisoned elements (R221, R329) -/
  bad : Tab Bool := {}
  reruns : Byte := 0
  fail : Bool := false
  /-- bits of the tag word not restated above -/
  sc : BitVec 16 := 0
  sn : BitVec 16 := 0
  deriving DecidableEq, Repr, Inhabited

/-- Context states (R93). -/
inductive CtxState
  | absent | active | shadow | spilling | spilled | loading | destroyed
  deriving DecidableEq, Repr, Inhabited

/-- A context: one address space's occupancy of a bank (R76), found by its number.  Its thread slots, lane store and pad
bytes stand in the tables of State under its number, so a swap moves none of them. -/
structure Ctx where
  state : CtxState := .absent
  core : Nat := 0
  bank : Nat := 0
  tenant : BitVec 6 := 0
  asid : BitVec 16 := 0
  /-- physical address of its last save area -/
  save : Nat := 0
  tags : BitVec 64 := 0
  barriers : Tab Barrier := {}
  tiles : Tab Tile := {}
  troupes : List Troupe := []
  /-- transfers of 128 bytes that the Gleaner has made of a spill under way (R79, R80), and the cycle of the last one, plus 1 -/
  passed : Nat := 0
  movedAt : Nat := 0
  /-- the slots occupied when the spill began (R374), and the ranges of the core pad and of the core's share of cluster memory that it
  writes first, as they overlapped the active context's then -/
  slots : List Nat := []
  ovPad : List (Nat × Nat) := []
  ovShare : List (Nat × Nat) := []
  deriving DecidableEq, Repr, Inhabited

/-- One 4-byte word of an L1 (R99). -/
structure L1Word where
  value : Word := 0
  valid : Bool := false
  reg : Bool := false
  /-- the copy is poisoned (R221) -/
  bad : Bool := false
  deriving DecidableEq, Repr, Inhabited

/-- A translation held in a TLB (R134): level 0, 1 or 2, the page's first VA and PA, and its permissions. -/
structure TlbEntry where
  asid : BitVec 16
  level : Nat
  va : Nat
  pa : Nat
  r : Bool
  w : Bool
  x : Bool
  /-- D was set when the entry was filled (a store through an entry with D clear walks again) -/
  d : Bool
  deriving DecidableEq, Repr

/-- One issue slot of a core (R39, R40). -/
structure ISlot where
  /-- cycles in which the lap pointer did not advance (rule 1 of R40) -/
  held : Nat := 0
  /-- the first slot of the troupe that issued last, and the troupe's number (0 before the first issue) -/
  lastFirst : Nat := 0
  last : Nat := 0
  /-- the troupe with the greedy claim, 0 for none -/
  greedy : Nat := 0
  /-- the policy of the kernel that issued last: round-robin -/
  robin : Bool := false
  /-- the first cycle in which the special unit takes a troupe again (R18, R368) -/
  special : Nat := 0
  deriving DecidableEq, Repr, Inhabited

/-- A context command in progress (R77). -/
inductive CmdBusy
  | swap | spill | load
  /-- a SWAP that waits for a group of the outgoing context to stop (R43, R78) -/
  | swapWait
  deriving DecidableEq, Repr

/-- The privilege levels of a hart of the Ringmaster or of an attendant, which has no U level (R204, R206). -/
inductive HartLevel
  | m | s | u
  deriving DecidableEq, Repr, Inhabited

/-- The states of a handle-table entry (R346). -/
inductive HandleState
  | free | live | retired | withdrawn
  deriving DecidableEq, Repr, Inhabited

/-- A handle-table entry (R346): KIND 0 g, 1 w; MODE 0 FAULT, 1 REPLACE. -/
structure Handle where
  state : HandleState := .free
  gen : Nat := 0
  /-- how the previous generation ended: retired, or revoked -/
  ended : Bool := false
  /-- the target thread: its context, slot and group -/
  ctx : Nat := 0
  slot : Nat := 0
  group : Nat := 0
  kind : Nat := 0
  first : Nat := 0
  cnt : Nat := 0
  mode : Nat := 0
  deriving DecidableEq, Repr, Inhabited

/-- One compute core's own state (R12, R77, R206, R207). -/
structure Core where
  /-- the number of the active bank, and the contexts in bank 0 and bank 1 (0 for none) -/
  active : Bool := false
  ctx0 : Nat := 0
  ctx1 : Nat := 0
  cmdCtx : BitVec 16 := 0
  cmdSave : BitVec 26 := 0
  cmdStatus : BitVec 4 := 0
  cmdBusy : Option CmdBusy := none
  /-- the cycle before which no instruction issues (R78), and the one in which a LOAD ends (R374) -/
  idleUntil : Nat := 0
  loadDue : Nat := 0
  parkBank : Bool := false
  parkWerr : Bool := false
  attFaulted : Bool := false
  /-- the attendant's level, and what its last load has brought into the hart (R206) -/
  attLevel : HartLevel := .m
  attData : List Byte := []
  /-- code blocks of 64 bytes in the instruction cache, by physical address / 64, as they were when they were fetched (R274) -/
  icache : Tab (List Byte) := {}
  /-- code blocks whose next fetch meets poison, since their flit failed (R181) -/
  lostBlocks : List Nat := []
  islots : Tab ISlot := {}
  tlb : List TlbEntry := []
  handles : Tab Handle := {}
  keyEpoch : Nat := 0
  arrayOff : Bool := false
  arrayUsed : Nat := 0
  deriving DecidableEq, Repr, Inhabited

/-- Where an error record that has been written stands: in the mirror, and in its partition's ring with the TAIL of before it. -/
structure RecAt where
  mirror : Nat
  ring : Option Nat
  part : Nat
  tail : Word
  deriving DecidableEq, Repr

/-- The record of the threads of one troupe that trapped after the issue of an instruction (R217, R380), by the number of the issue. -/
structure LateRec where
  batch : Nat
  place : RecAt
  deriving DecidableEq, Repr

/-- Group states (R44). -/
inductive GroupState
  | absent | pending | running | halting | halted | evicted | retiring | retired | discarded
  deriving DecidableEq, Repr, Inhabited

/-- A group (R35, R44): its kernel, its number, where it stands, its coordinates and sizes by level, what it was
granted, why it halted, and what a trap of it awaits. -/
structure Group where
  state : GroupState := .absent
  kernel : Nat := 0
  gnum : Word := 0
  ctx : Nat := 0
  lvc : Tab Word := {}
  size : Nat := 0
  producer : Bool := false
  spawned : Bool := false
  lane : Nat := 0
  padBase : Nat := 0
  padLen : Nat := 0
  cluster : Nat := 0
  cluBase : Nat := 0
  cluLen : Nat := 0
  barBase : Nat := 0
  barCount : Nat := 0
  tileBase : Nat := 0
  tileCount : Nat := 0
  /-- the cluster-domain unit: a number shared by its groups, 0 for none -/
  unit : Nat := 0
  /-- the primary cause of the halt, the first slot of the troupe that met it, and whether several troupes trapped (R43,
  R90) -/
  cause : Byte := 0
  causeSlot : Nat := 0
  multi : Bool := false
  haltAt : Nat := 0
  /-- the cycle, plus 1, in which a troupe of the group trapped last, and the record of the first one that did so then, while its
  DETAIL[8] is clear (R43, R213) -/
  trapAt : Nat := 0
  firstRec : Option RecAt := none
  /-- the records of traps decided after issue, since the group was last resumed -/
  late : List LateRec := []
  /-- the handler that works on the halt (R91): 0 the attendant, 1 the trap service group, 2 the Ringmaster -/
  handler : Option Nat := none
  /-- barriers of the wake-up record of an evicted group (R58) -/
  wake : List Nat := []
  recalled : Bool := false
  /-- the group that a trap service group serves (R92) -/
  serves : Nat := 0
  /-- of a halted group: when its trap service group was launched, in ns, and the action word of the trap window (R91, R92) -/
  servedAt : Nat := 0
  action : Word := 0
  placedAt : Nat := 0
  deriving DecidableEq, Repr, Inhabited

/-- Kernel states (R31). -/
inductive KState
  | absent | enqueued | running | draining | cancelling | retired | rejected | faulted | cancelled
  deriving DecidableEq, Repr, Inhabited

/-- The codes of KSTATE (R31); 0 for an entry that holds no kernel. -/
def KState.code : KState → Nat
  | .absent => 0
  | .enqueued => 1
  | .running => 2
  | .draining => 3
  | .cancelling => 4
  | .retired => 5
  | .rejected => 6
  | .faulted => 7
  | .cancelled => 8

/-- A kernel table entry (R20, R28, R31). -/
structure Kernel where
  state : KState := .absent
  /-- the record's virtual address, its bytes, and the 128 bytes of code of the snapshot with their first VA -/
  recVa : DWord := 0
  record : Memory := {}
  codeVa : DWord := 0
  code : Memory := {}
  asid : BitVec 16 := 0
  /-- the context and tenant that enqueued it -/
  ctx : Nat := 0
  tenant : BitVec 6 := 0
  die : Nat := 0
  part : Nat := 0
  groups : List Nat := []
  nextSpawn : Nat := 0
  /-- the end state that CANCELLING leads to is FAULTED -/
  faulting : Bool := false
  /-- trap service kernel for a group (R92) -/
  serves : Nat := 0
  deriving DecidableEq, Repr, Inhabited

/-- Queue states (R66). -/
inductive QState
  | free | empty | busy | full | closing | closed
  deriving DecidableEq, Repr, Inhabited

/-- A queue, by the physical address of its descriptor (R63). -/
structure Queue where
  state : QState := .free
  base : DWord := 0
  cap : Nat := 0
  kind : Nat := 0
  scope : Nat := 0
  tenant : Nat := 0
  fifo : Nat := 0
  head : Word := 0
  tail : Word := 0
  session : Word := 0
  recBase : DWord := 0
  /-- the process whose virtual addresses BASE and RECBASE are -/
  asid : BitVec 16 := 0
  va : DWord := 0
  /-- the cluster that holds a hardware FIFO (R64) -/
  cluster : Nat := 0
  /-- the descriptor's reserved bytes (R63) -/
  rsv : BitVec 216 := 0
  /-- which configuration of the descriptor this is, so that a binding to a freed one is known (R67) -/
  gen : Nat := 0
  /-- the entries of a hardware FIFO, oldest first; for a launch queue the kernel-table entries of the snapshots -/
  entries : List Nat := []
  deriving DecidableEq, Repr, Inhabited

/-- Where an access is performed (R95). -/
inductive Place
  | virt
  | lane (n : Nat)
  | pad (n : Nat)
  | clus (n : Nat)
  | dsp (n : Nat)
  /-- the trap window on a halted group, 4,096 bytes by the group's number (R92) -/
  | win (n : Nat)
  deriving DecidableEq, Repr

/-- How a translation failed (R88, R133). -/
inductive XFault
  | unmapped | permission | walkUE | control
  deriving DecidableEq, Repr

/-- How far one part of an access has come. -/
inductive PieceState
  /-- in the load pipe or the store queue -/
  | queued
  /-- waiting for a page walk -/
  | walk
  /-- faulted: held in the operand log -/
  | logged (f : XFault)
  /-- has left the store queue for its home -/
  | sent (seq : Nat)
  /-- the value is fixed, or the store performed -/
  | done
  deriving DecidableEq, Repr

/-- One part of an access: bytes that stand together in one place. -/
structure Piece where
  place : Place
  va : DWord
  pa : Option Nat
  len : Nat
  /-- where the part stands among the operation's bytes -/
  pos : Nat
  /-- the bytes to store, or the bytes loaded -/
  data : List Byte
  poisoned : Bool
  st : PieceState
  /-- the place of the home's reply among those it has sent (R181), 0 for none -/
  reply : Nat := 0
  deriving DecidableEq, Repr

/-- What an access does (R302). -/
inductive AccOp
  | load
  | store
  | rmw (op : Nat) (y : Word)
  | cas (cmp new : Word)
  | tset (m : DWord)
  | tclr (m : DWord)
  /-- a clause fetch that faulted -/
  | fetch
  /-- a result on its way to its register (MKH) -/
  | value (v : DWord)
  /-- a FENCE that the operand log holds (R87): its predecessors, its successors and its scope -/
  | fence (pred succ : BitVec 5) (scope : Nat)
  deriving DecidableEq, Repr

/-- Where a completed access writes (R303): nothing, a g register extended from ty (R307), a pair, an a register, a
packed register in a tag, or the active elements of a packed register. -/
inductive Dst
  | none
  | g (n : Nat) (ty : Nat)
  | pair (n : Nat)
  | a (n : Nat)
  | w (n : Nat) (tag : BitVec 6)
  | elems (n : Nat) (tag : BitVec 6) (es : List Nat)
  deriving DecidableEq, Repr

/-- The level field (R102). -/
inductive Level
  | l1 | l2 | sys | st
  deriving DecidableEq, Repr

/-- A load, store, atomic or tag operation between its issue and its completion; its number gives its age. -/
structure Access where
  thr : Nat
  core : Nat
  op : AccOp
  lv : Level
  dst : Dst
  pieces : List Piece
  flag : Option Nat
  pc : DWord
  asid : BitVec 16
  /-- the attendant has settled the fault and the entry waits for its replay; discarded entries write nothing -/
  resolved : Bool
  discarded : Bool
  /-- a load completes no earlier (R18) -/
  due : Nat
  /-- bytes of a faulted packed or gather access whose elements its register has taken already (R86) -/
  put : List Nat := []
  /-- a walk of the access has begun (R134): when, none while it waits for one of its die's 96 walkers -/
  walkAt : Option Nat := none
  /-- the settle epoch that a store on its way to its home carries (R115) -/
  epoch : Nat := 0
  /-- the number of its issue, which the threads of a troupe share (R217) -/
  batch : Nat := 0
  deriving DecidableEq, Repr

/-- A registration on its way to the home (R103). -/
structure Regn where
  core : Nat
  block : Nat
  words : List Nat
  /-- the access parts it performs: access number and index of the part -/
  covers : List (Nat × Nat)
  epoch : Nat
  /-- what the stores wrote: the value that a word has in home order once the registration is accepted (R100, R103) -/
  vals : Tab Word := {}
  /-- its flit failed three retries, so it is delivered as poison (R181) -/
  bad : Bool := false
  deriving DecidableEq, Repr

/-- A trap decided after issue, on its way to the core (R380). -/
structure LateTrap where
  thr : Nat
  cause : Cause
  code : Nat
  pc : DWord
  va : Option DWord
  pa : Option Nat
  /-- the flag of the command whose reply carries the trap, which counts down with it -/
  flag : Option Nat := none
  batch : Nat := 0
  deriving DecidableEq, Repr

/-- Where a post or a revoke stands (R347, R351, R353). -/
inductive PostStage
  /-- on its way to the target core -/
  | out
  /-- held at the Gleaner while the target's context is LOADING, in order of arrival (R94) -/
  | held (n : Nat)
  /-- delivered or rejected; the reply is on its way back -/
  | acked
  | rejected (c : Cause)
  deriving DecidableEq, Repr

/-- A post or a revoke under way. -/
structure Post where
  thr : Nat
  core : Nat
  handle : DWord
  off : Nat
  wide : Bool
  value : Word
  wvalue : WReg
  remote : Bool
  station : Nat
  revoke : Bool
  /-- .acq: the thread's operations before this number come first -/
  acq : Bool
  flag : Option Nat
  pc : DWord
  sentAt : Nat
  stage : PostStage
  /-- a post inside the module sets its full bit no earlier, and once it has arrived its flag counts down no earlier (R18, R351) -/
  due : Nat
  /-- a post of another module, which answers to no thread here -/
  peer : Bool := false
  /-- the settle epoch that it brings to its target (R115) -/
  epoch : Nat := 0
  /-- the number of its issue (R217) -/
  batch : Nat := 0
  deriving DecidableEq, Repr

/-- The post or revoke has not reached its target. -/
def PostStage.onWay : PostStage → Bool
  | .out | .held _ => true
  | _ => false

/-- A heap operation under way or waiting at the heap (R72, R73, R318). -/
inductive HeapKind
  | push | pop | try_
  deriving DecidableEq, Repr

structure HeapOp where
  thr : Nat
  die : Nat
  kind : HeapKind
  key : Word
  payload : DWord
  dstG : Nat
  dstA : Nat
  flag : Option Nat
  pc : DWord
  /-- an HPOP found the heap empty and waits there -/
  waiting : Bool
  /-- the operation completes no earlier: the latency of an L2 hit (R18, R73) -/
  due : Nat := 0
  batch : Nat := 0
  deriving DecidableEq, Repr

/-- The troupe that issues (set by step for exec). -/
structure Sel where
  core : Nat
  ctx : Nat
  slots : List Nat
  deriving DecidableEq, Repr

end Sys2Proof.Machine
end

