-- ==== Sys2Proof/Machine/Engines.lean ====
section
/-! DEFINITION. The records of the engines, of partitions and of the error logger. -/

namespace Sys2Proof.Machine

/-- An error record (R213). -/
structure ErrRec where
  code : Nat
  sev : Nat
  action : Nat
  eclass : Nat
  part : Nat
  einst : Nat
  ctx : Nat := 0
  slot : Nat := 0xFFFF
  gnum : Nat := 0
  pc : Nat := 0
  va : Option Nat := none
  pa : Option Nat := none
  /-- CTXID, SLOT, GNUM and PC are valid -/
  thread : Bool := false
  count : Nat := 1
  prior : Bool := false
  time : Nat := 0
  detail : Nat := 0
  deriving DecidableEq, Repr

/-- The error record queue of a partition (R215). -/
structure Erq where
  lost : Nat := 0
  base : Nat := 0
  log2cap : Nat := 0
  head : Word := 0
  tail : Word := 0
  /-- a record was lost since the last one written -/
  mark : Bool := false
  deriving DecidableEq, Repr, Inhabited

/-- A tensor shape record as read (R325): tile, extents and strides from dimension 0 up. -/
structure Tsr where
  base : DWord
  tag : Nat
  rank : Nat
  scope : Nat
  tflags : Nat
  /-- the reserved bytes are zero -/
  rsvOk : Bool
  ext : List Nat
  stride : List Nat
  tile : List Nat
  deriving DecidableEq, Repr, Inhabited

/-- Frame states (R137). -/
inductive FState
  | free | mapped | backed | pinned | migrating | scrubbing | poisoned
  deriving DecidableEq, Repr, Inhabited

/-- A frame (R137–R141): the tenant charged, the process and VA of its mapping, the addresses of the leaves that map it, its
age in sweeps, the bindings and the Ringmaster's pins that hold it, and for a migration the destination with the W bits
withheld at the source. -/
structure Frame where
  state : FState := .free
  tenant : Nat := 0
  asid : BitVec 16 := 0
  va : DWord := 0
  leaves : List Nat := []
  age : Nat := 0
  pins : Nat := 0
  rm : Bool := false
  dest : Option Nat := none
  /-- this frame is the destination of a migration -/
  filling : Bool := false
  withheld : List Bool := []
  /-- D has been cleared for a write-back, or a frame that is scrubbed has been zero-filled and invalidated; the broadcast after it
  is awaited (R138, R141) -/
  cleared : Bool := false
  /-- frames of the page: 512 for the first one of a 1 GiB page, whose others name it (R137) -/
  count : Nat := 1
  head : Option Nat := none
  deriving DecidableEq, Repr, Inhabited

/-- Binding states (R156).  UNBINDING is no state of its own here: it is a binding with an UNBIND among the commands accepted
for it, or one whose process has ended (Binding.leaving). -/
inductive BState
  | free | admitting | computing | clean | dirty | settling | evicted | failed
  deriving DecidableEq, Repr, Inhabited

/-- Pages of a binding's regions where they are mapped now (R143): 0 A, 1 B, 2 C, 3 the base, 4 the
journal, 5 a C that is evicted.  A page that has lost its frame stands from noFrame up (R138, R159). -/
structure Watch where
  region : Nat
  pa : Nat
  va : Nat
  len : Nat
  deriving DecidableEq, Repr

/-- The capture of a word (R144, R145): the old value, whether it was poisoned, and where its journal entry stands, if it has one:
in the pool of the die scratchpad or in memory. -/
structure Capture where
  old : Word
  bad : Bool := false
  entry : Option (Bool × Nat) := none
  deriving DecidableEq, Repr

/-- A standing product (R142–R162). -/
structure Binding where
  state : BState := .free
  asid : BitVec 16 := 0
  cT : Tsr := default
  aT : Tsr := default
  bT : Tsr := default
  baseT : Option Tsr := none
  journal : DWord := 0
  jdsp : Bool := false
  jcap : Nat := 0
  recon : Nat := 0
  adapt : Bool := false
  watch : List Watch := []
  /-- captures of the open epoch, by operand * 2^31 + word -/
  caps : Tab (Option Capture) := {}
  /-- captures of the settling epoch -/
  old : Tab (Option Capture) := {}
  ovf : Bool := false
  oldOvf : Bool := false
  cmod : Bool := false
  /-- settles since the last full computation -/
  count : Nat := 0
  /-- captures since BIND (R145), and entries outstanding -/
  journaled : Nat := 0
  outstanding : Nat := 0
  /-- the running command is a full computation -/
  full : Bool := false
  /-- entries outstanding that the running command consumes -/
  consuming : Nat := 0
  /-- the owning process has ended while a command was running (R158) -/
  leaving : Bool := false
  /-- the running computation brings back an evicted C -/
  back : Bool := false
  /-- the frames of an evicted C, or of one that is being computed again: their numbers and records, and what their leaves held -/
  cSaved : List (Nat × Frame × List Nat) := []
  last : Nat := 0
  /-- the order number of an ADMITTING bind -/
  since : Nat := 0
  /-- the settle epoch that its last cut opened (R115, R147) -/
  cutAt : Nat := 0
  /-- elements of C, row × 65,536 + column, that the running command has written already (R154) -/
  wrote : List Nat := []
  /-- lines that reached the SPE as poison, by virtual address / 128 (R181) -/
  lost : List Nat := []
  deriving DecidableEq, Repr, Inhabited

/-- Partition states (R198). -/
inductive PState
  | absent | running | quiescing | reconfiguring | degraded | resetting
  deriving DecidableEq, Repr, Inhabited

/-- A pending corrected record (R218). -/
structure Pending where
  err : ErrRec
  line : Nat
  due : Nat
  deriving DecidableEq, Repr

/-- Which engine a command went to: the matrix array of a core, the streamer of a cluster, the SPE or the prefix engine of a
die. -/
inductive Eng
  | matrix (core : Nat)
  | streamer (cluster : Nat)
  | spe (die : Nat)
  | pfx (die : Nat)
  deriving DecidableEq, Repr

/-- A write that a command has still to make: bytes upward from an address, or the low half (false) or the high half of one byte; and
whether what it writes is poisoned. -/
structure Put where
  va : DWord
  bs : List Byte
  bad : Bool
  half : Option Bool := none
  deriving DecidableEq, Repr

/-- An accepted engine command: the instruction, the operand values read at issue, its flag, and what the engine keeps of
it. -/
structure Cmd where
  thr : Nat
  eng : Eng
  i : Instr
  vals : List Nat
  flag : Option Nat
  pc : DWord
  kernel : Nat
  /-- .acq and .rel (R114), and the order scope -/
  acq : Bool
  rel : Bool
  scope : Nat
  /-- the tag word, and the core whose arrival tag it names -/
  tag : Word
  started : Bool
  /-- progress private to the engine -/
  mark : Nat
  asid : BitVec 16
  tenant : Nat
  core : Nat
  group : Nat
  /-- the descriptor and its tensor records have been read: the descriptor's fields, and the records -/
  ready : Bool := false
  fields : List Nat := []
  tsrs : List Tsr := []
  /-- a translation fault that the command waits with, and whether the attendant has settled it -/
  fault : Option (XFault × DWord) := none
  resolved : Bool := false
  /-- the random step taken at issue (R234), whether it was taken then though the command is held back, and the issue that the command belongs to: the commands of one troupe share
  a queue entry (R327) -/
  step : Word := 0
  drawn : Bool := false
  batch : Nat := 0
  /-- the issuing thread's KEY, GNUM and TIDX -/
  seed : DWord × Word × Word := (0, 0, 0)
  /-- a drain buffer: the elements of the tile that was copied, and the poisoned ones (R335) -/
  buf : Tab Word := {}
  bufBad : Tab Bool := {}
  /-- lines, by virtual address / 128, that reach the engine as poison, since their flits failed (R181) -/
  lost : List Nat := []
  /-- a copy under way: how many of its rows have been begun, the writes of them that are still to be made, and whether a source was
  poisoned or an index out of range so far (R340, R341) -/
  rows : Nat := 0
  todo : List Put := []
  sawBad : Bool := false
  sawRange : Bool := false
  /-- a page walk for the command has begun (R134): when -/
  walkAt : Option Nat := none
  deriving DecidableEq, Repr

/-- A unit that waits to be placed (R23, R24, R29, R75): a cluster-domain unit, or a single group of a kernel without one.
Its groups not yet placed stand in ascending order. -/
structure PendUnit where
  kernel : Nat
  unit : Nat
  groups : List Nat
  die : Nat
  /-- the cluster whose scheduler holds it -/
  cluster : Option Nat
  /-- some group of it has been placed; its cluster-memory allocation starts here -/
  begun : Bool
  base : Nat
  /-- a thief has it, who places every group of it (R75) -/
  shipped : Bool := false
  deriving DecidableEq, Repr

/-- A placement on its way to its core (R29): the slots reserved for a group. -/
structure Placement where
  group : Nat
  ctx : Nat
  slots : List Nat
  deriving DecidableEq, Repr

/-- A cluster scheduler's round of steal requests (R75): the thief, and the cluster it asks now. -/
structure Steal where
  thief : Nat
  asked : Nat
  deriving DecidableEq, Repr

/-- Link states (R187). -/
inductive LinkState
  | disabled | training | up | degraded | retraining | down
  deriving DecidableEq, Repr, Inhabited

/-- A link's training or retraining under way (R185, R187): how often it has failed, when it began in ns, and whether the peer has
asked for an option that is not supported. -/
structure LinkTry where
  failures : Nat := 0
  since : Nat := 0
  refused : Bool := false
  deriving DecidableEq, Repr, Inhabited

/-- Ringmaster states (R212). -/
inductive RmState
  | booting | recoveryMode | running | reduced | recovering | failed
  deriving DecidableEq, Repr, Inhabited

/-- What this module answers to a peer (R178, R179): the words of a page set that it holds, with the numbers of the poisoned ones; a
block's triple with its status bits; or that it cannot be reached. -/
inductive PeerReply
  | page (ws : List Word) (bad : List Nat)
  | triple (status m l : Word) (o : List Word) (bad : List Bool)
  | unreachable
  /-- what a read or an atomic of a peer or a device returns, and whether it is poisoned (R100, R185) -/
  | data (bs : List Byte) (bad : Bool)
  /-- a write has been performed -/
  | written
  deriving DecidableEq, Repr

/-- What the sideband port sends back, in order (R185, R186, R209). -/
inductive Reply
  | reset (code : Nat) (tag : Word) (enterprise : Word)
  | version
  | capabilities
  | algorithms
  | digests (d : BitVec 512)
  | certificate (c : BitVec 512)
  | challenge (log : BitVec 512) (sig : BitVec 512)
  | measurements (log : BitVec 512) (sig : BitVec 512)
  | refused
  deriving DecidableEq, Repr

/-- A flit that has been refused or resent (R181, R182): how often. -/
structure Flit where
  refused : Nat := 0
  retries : Nat := 0
  /-- its place among the flits of its pair, and whether it has been ejected and its operation is still to be performed -/
  seq : Nat := 0
  ejected : Bool := false
  deriving DecidableEq, Repr, Inhabited

/-- The flit goes round or is being resent. -/
def Flit.away (f : Flit) : Bool := !f.ejected && (f.refused != 0 || f.retries != 0)

/-- A request for a reconfiguration (R200, R202, R203). -/
inductive ReconfReq
  | merge (a b : Nat) (dlocal : Bool)
  | split (p : Nat)
  | mode (p : Nat) (dlocal : Bool)
  deriving DecidableEq, Repr

/-- A notify session (R69, R210): its key and the highest sequence number accepted. -/
structure Session where
  opened : Bool := false
  key : BitVec 512 := 0
  highest : DWord := 0
  deriving DecidableEq, Repr, Inhabited

/-- A line of an L2 slice (R99, R107, R108): its number (the physical address / 128), the tenant charged, none for lines that no
tenant's context allocated, and the evict-first mark (R102).  What the line holds stands in State.mem. -/
structure L2Line where
  line : Nat
  tenant : Option Nat := none
  first : Bool := false
  /-- written since it was filled, so that it goes back to HBM when it leaves -/
  dirty : Bool := false
  deriving DecidableEq, Repr

/-- A die's registers and engine state that have no table of their own (R98, R107, R115, R184, R195, R196, R72, R225,
R226). -/
structure Die where
  winBase : Tab Nat := {}
  winLen : Tab Nat := {}
  tqOcc : Tab Nat := {}
  /-- the L2's lines by slice × 2,048 + set, the most recently used first, at most 16 a set (R99) -/
  l2 : Tab (List L2Line) := {}
  tqTarget : Tab Nat := {}
  stall : Tab Nat := {}
  /-- the last cycle counted in each STALL, plus 1 -/
  stallAt : Tab Nat := {}
  /-- bursts of 64 bytes that the die's stacks have made -/
  bursts : Nat := 0
  bgtHbm : Tab Nat := {}
  bgtLoop : Tab Nat := {}
  /-- lines that units of the die have asked their homes for -/
  lines : Nat := 0
  /-- the line and the burst counted last in the running step, plus 1: further bytes of them count nothing more -/
  lastLine : Nat := 0
  lastBurst : Nat := 0
  /-- injections and bursts counted in the running period, by class -/
  used : Tab Nat := {}
  /-- requests that wait for budget, oldest first, each with the cycle in which it was tried last; and the request
  that earlier periods have granted some, with how much; by the keys of used -/
  queue : Tab (List (Nat × Nat)) := {}
  granted : Tab (Nat × Nat) := {}
  ivlDies : BitVec 4 := 0
  ivlMode : Bool := false
  peers : BitVec 4 := 0
  heapValid : Bool := false
  heapAsid : BitVec 16 := 0
  tlb : List TlbEntry := []
  epochs : Tab Nat := {}
  /-- clusters started since power-up (R226) -/
  started : Nat := 0
  failed : Bool := false
  /-- steps of 218.75 MHz that the clock has been lowered by (R226) -/
  slow : Nat := 0
  /-- when the clock last changed, in ns -/
  slowAt : Nat := 0
  /-- cycles of the module's clock that the die's own, slower one has left out -/
  skipped : Nat := 0
  /-- the cycles in which the matrix arrays of the die that woke last began to (R226) -/
  wakes : List Nat := []
  /-- droops that stretched the clock (R219) -/
  stretched : Nat := 0
  wear : Word := 0xFFFFFFFF
  wearMark : Word := 8760
  deriving DecidableEq, Repr, Inhabited

/-- A reconfiguration of partitions in progress (R200–R203). -/
structure Reconf where
  /-- the quarters that take part, the division and the modes asked for -/
  dies : List Nat
  owner : Byte
  dlocal : BitVec 4
  modeOnly : Bool
  split : Bool
  /-- when the handshake began, in ns (R201) -/
  since : Nat
  deriving DecidableEq, Repr

/-- A translation broadcast in progress (R135, R136). -/
structure Shoot where
  part : Nat
  asid : Option (BitVec 16)
  va : Option DWord
  warned : Bool
  /-- accesses in flight that had left with a dropped translation -/
  waiting : List Nat
  due : Nat
  /-- the SFENCE.VMA instructions of a Ringmaster hart complete with the broadcasts of one number, 0 for none (R135) -/
  hart : Nat := 0
  deriving DecidableEq, Repr

/-- A tenant's registers (R91, R139). -/
structure Tenant where
  deleg : Word := 0xAAAAAAAA
  used : Nat := 0
  burst : Nat := 0
  guar : Nat := 0
  deriving DecidableEq, Repr, Inhabited

/-- A collective descriptor as taken (R191). -/
structure CollDesc where
  die : Nat
  va : DWord
  asid : BitVec 16
  src : DWord
  dst : DWord
  key : DWord
  count : Nat
  stag : Nat
  dtag : Nat
  wtag : Nat
  op : Nat
  nloc : Nat
  done : DWord
  deriving DecidableEq, Repr

/-- A collective in progress in a partition of this module (R191): its descriptors, the partition's partial in WTAG (or the
result in DTAG) by element, the elements that depend on poison, the partials of child modules by rank, and what this module has
sent to its parent, or the result that rank 0 has rounded. -/
structure Coll where
  part : Nat
  descs : List CollDesc
  reduced : Bool := false
  own : List Word := []
  bad : List Nat := []
  children : List (Nat × List Word × List Nat) := []
  sent : Option (List Word) := none
  /-- elements that reached the service as poison (R181) -/
  lost : List Nat := []
  deriving DecidableEq, Repr

/-- Where a module of a communicator is found (R191): its UALink station, or its Ultra Ethernet address. -/
inductive PeerAddr
  | station (n : BitVec 10)
  | ethernet (a : Nat)
  deriving DecidableEq, Repr

/-- A communicator (R191). -/
structure Comm where
  configured : Bool := false
  ranks : Nat := 0
  rank : Nat := 0
  /-- the links to its modules -/
  links : List LinkId := []
  /-- its modules in the order of their ranks -/
  members : List PeerAddr := []
  deriving DecidableEq, Repr, Inhabited

/-- Page-set states (R167). -/
inductive PgState
  | free | copying | priv | indexed
  deriving DecidableEq, Repr, Inhabited

/-- An entry of the page-set table (R166); bad: an uncorrectable error stands in it (R180). -/
structure PageSet where
  state : PgState := .free
  ref : Nat := 0
  node : Nat := 0xFFFFFFFF
  bad : Bool := false
  deriving DecidableEq, Repr, Inhabited

/-- STATE codes, and the 8-byte entry that stands in the page-set table (R166): REF only when PRIVATE, NODE only when INDEXED. -/
def PgState.code : PgState → Nat
  | .free => 0 | .priv => 1 | .indexed => 2 | .copying => 3

def PageSet.entry (e : PageSet) : DWord :=
  BitVec.ofNat 64 (e.state.code * 2 ^ 48 + (if e.state = .priv then e.ref % 65536 * 2 ^ 32 else 0) +
    (if e.state = .indexed then e.node else 0xFFFFFFFF))

/-- A node of the Tiller (R169), found by its index; the root is node 0 and is not listed.  A remote node has a station. -/
structure Node where
  valid : Bool := false
  tokens : List Word := []
  hash : DWord := 0
  psn : Nat := 0
  ref : Nat := 0
  station : Option (BitVec 10) := none
  parent : Nat := 0
  stamp : Nat := 0
  lease : Nat := 0
  bad : Bool := false
  deriving DecidableEq, Repr, Inhabited

/-- The states of a sequence index (R172).  An index with an accepted PXUNREF among the commands ahead is RELEASING without
a mark of its own; releasing stands for the release that follows the end of its process. -/
inductive SeqState
  | free | live | releasing
  deriving DecidableEq, Repr, Inhabited

/-- A sequence record (R171, R172): the process that created it, and the core and thread of its map's address. -/
structure Seq where
  state : SeqState := .free
  gen : Nat := 0
  len : Nat := 0
  capb : Nat := 0
  map : DWord := 0
  asid : BitVec 16 := 0
  core : Nat := 0
  thr : Nat := 0
  /-- RELEASING: commands accepted before this number still run -/
  last : Nat := 0
  bad : Bool := false
  deriving DecidableEq, Repr, Inhabited

/-- A partition's key-value pool (R164, R168): PFX_BASE, the fields of PFX_CFG, the page-set table, the free list (those freed
last, then the numbers from fresh to COUNT), the nodes and the sequences. -/
structure Pool where
  base : DWord := 0
  tenant : Nat := 0
  layers : Nat := 0
  slot : Nat := 0
  count : Nat := 0
  pages : Tab PageSet := {}
  freed : List Nat := []
  fresh : Nat := 0
  nodes : Tab Node := {}
  /-- the child tables, by node, the root's by 0: each child's index and the low 32 bits of its HASH (R169) -/
  tables : Tab (List (Nat × Word)) := {}
  seqs : Tab Seq := {}
  deriving DecidableEq, Repr, Inhabited

/-- A partition's own state (R193, R198, R215, R142). -/
structure Part where
  state : PState := .absent
  erq : Erq := {}
  pool : Pool := {}
  bindings : Tab Binding := {}
  /-- cuts made in the partition (R115) -/
  cuts : Nat := 0
  deriving DecidableEq, Repr, Inhabited

/-- A transition of a context, as the context journal records it (R94). -/
structure CtxNote where
  cycle : Nat
  core : Nat
  bank : Nat
  ctx : Nat
  state : CtxState
  deriving DecidableEq, Repr

/-- The objects whose actions the Ringmaster journals, and their states (R205). -/
inductive JObject
  | frame (n : Nat)
  | context (n : Nat)
  | kernel (n : Nat)
  | binding (part n : Nat)
  | session (n : Nat)
  | partition (n : Nat)
  deriving DecidableEq, Repr

inductive JState
  | frame (x : FState)
  | context (x : CtxState)
  | kernel (x : KState)
  | binding (x : BState)
  | session (opened : Bool)
  | partition (x : PState)
  deriving DecidableEq, Repr

/-- An action in the Ringmaster's journal (R205): the object, its old and its new state, whether its completion is recorded, and the
pair that works on it (R211). -/
structure JAction where
  obj : JObject
  old : JState
  new : JState
  done : Bool
  pair : Nat := 0
  deriving DecidableEq, Repr

/-- What waits for the Ringmaster (R211): a halted group's trap, or a fault, by the number of its operation. -/
inductive Held
  | trap (g : Nat)
  | fault (id : Nat)
  deriving DecidableEq, Repr

/-- The supervisor complex and the hub die (14, R222, R223). -/
structure Ringmaster where
  state : RmState := .booting
  /-- running pairs, and pairs excluded by a mismatch during RECOVERING -/
  pairs : BitVec 4 := 0
  excluded : BitVec 4 := 0
  /-- pairs that passed self-test in a RECOVERING not yet re-attached -/
  passed : Option (BitVec 4) := none
  timeout : Word := 100000
  petAt : Nat := 0
  mirror : List ErrRec := []
  /-- the newest records of the mirror that fill in only when the complex is re-attached (R211, R216) -/
  mirrorDue : Nat := 0
  /-- the last records of severity 3 or 4, at most 16 (R223) -/
  severe : List ErrRec := []
  /-- the partition that the next SFENCE.VMA targets, in the Ringmaster's control state (R135) -/
  fencePart : Nat := 0
  log : BitVec 512 := 0
  /-- the digests of the boot steps that are still to come (R208) -/
  toMeasure : List (BitVec 512) := []
  attests : Bool := false
  journal : List CtxNote := []
  /-- the privilege level that each pair's harts run at (R204) -/
  harts : Tab HartLevel := {}
  /-- the queues granted to the peer whose handshake is under way (R210) -/
  grants : List Nat := []
  /-- what has come to wait for the Ringmaster while it is reset, in the order of arrival (R211) -/
  backlog : List Held := []
  /-- the journal of S level's actions (R205) -/
  actions : List JAction := []
  rstc : BitVec 20 := 1
  replies : List Reply := []
  /-- reset requests that wait for a reconfiguration to end (R186), and requests for further ones (R203) -/
  held : List ResetMsg := []
  requests : List ReconfReq := []
  /-- records from before the last device reset, not yet written to partition 0's queue (R223) -/
  prior : List ErrRec := []
  /-- steps 1–5 of the boot are done (R208), and the enabled-core map of the configuration record (R10) -/
  booted : Bool := false
  coreMap : BitVec 252 := 0
  deriving DecidableEq, Repr, Inhabited

end Sys2Proof.Machine
end

