-- ==== Sys2Proof/Machine/State.lean ====
section
/-! DEFINITION. The state of the module, the reasons a step can stop, and the state right after device reset. -/

namespace Sys2Proof.Machine

/-- Why the machine stops with a fault. -/
inductive Fault
  /-- Raised by the meaning of an instruction with an encoding when no troupe is selected to issue it: exec is then
  called outside a step.  Safe: step never calls it so. -/
  | noTroupe
  deriving DecidableEq, Repr

/-- Why an instruction has no meaning. -/
inductive Refusal
  /-- Raised by an arm of exec whose instruction is not modelled yet, with its mnemonic.  Safe. -/
  | notModelled (mnemonic : String)
  deriving DecidableEq, Repr

/-- Where an SRAM holds bits that fail (R220). -/
inductive SramAt
  /-- a word of an L1, by physical address / 4; a line in an instruction cache -/
  | l1 (core w : Nat)
  | icache (core : Nat)
  /-- a line of an L2, by die, slice × 2,048 + set, and number -/
  | l2 (die place line : Nat)
  /-- an entry of a TLB of a core, a die or a cluster's tile walker -/
  | coreTlb (core n : Nat)
  | dieTlb (die n : Nat)
  | walkerTlb (cluster n : Nat)
  /-- a word of the lane store, a core pad, cluster memory or a die scratchpad -/
  | loc (pl : Place)
  /-- an element of a tile, by context, tile and key -/
  | tile (ctx n e : Nat)
  /-- an entry of an operand log -/
  | log (id : Nat)
  /-- a register of a thread, its full bit or a flag -/
  | reg (t : Nat) (r : RegName)
  /-- a node in the node store of a die's prefix engine -/
  | node (die n : Nat)
  deriving DecidableEq, Repr

/-- Steps that the module or the outside world takes and that stand in no row of the opcode table. -/
inductive Outer
  /-- 1 ms has passed since the trap service group of a halted group was launched (R91) -/
  | serviceTimeout (g : Nat)
  /-- the Ringmaster writes a page-table root, or the root of no table, for an ASID (R132) -/
  | rootWrite (asid : BitVec 16) (table : Option Nat)
  /-- the Ringmaster writes a page-table entry at its home (R132, R137) -/
  | entryWrite (pa : Nat) (v : DWord)
  /-- the Ringmaster grants a tenant the 512 frames of a 1 GiB page (R137) -/
  | giantAllocate (tenant frame : Nat) (asid : BitVec 16) (va : DWord) (leaf : Nat) (perms : BitVec 3)
  /-- an uncorrectable error in a page-set table entry or a sequence record of the prefix index (R180) -/
  | pageError (part n : Nat)
  | seqError (part n : Nat)
  /-- a flit of an operation fails its parity check on a leg of its way; the reply of a load or atomic, a word that its owner
  forwards, or a line that an engine reads fails three retries; any other flit is resent (R181, R183) -/
  | flitError (id leg : Nat)
  | replyError (id : Nat)
  | forwardError (w : Nat)
  | engineError (id line loop : Nat)
  | fetchError (core block loop : Nat)
  | walkError (id loop : Nat)
  | collectiveError (k line loop : Nat)
  | flitResent (die loop : Nat)
  /-- a peer asks in training for an option that is not supported (R185); a try of training fails; 10 ms of it have passed (R187),
  of the link with a key; a post of 100 µs is lost (R188) -/
  | optionRefused (l : LinkId)
  | linkTryFails (l : LinkId)
  | linkOut (key : Nat)
  | postLost (id : Nat)
  /-- a peer reads or performs an atomic over a UALink port, or writes over one or over Ultra Ethernet (R69, R100, R185) -/
  | peerRead (port pa n : Nat)
  | peerWrite (l : LinkId) (pa : Nat) (bs : List Byte)
  | peerAtomic (port pa op : Nat) (y : Word) (cmp : Option Word)
  /-- the Ringmaster writes the root of a root port's I/O tables, and a device of the port reads or writes by DMA (R185) -/
  | ioRoot (port : Nat) (table : Option Nat)
  | dmaRead (port iova n : Nat)
  | dmaWrite (port iova : Nat) (bs : List Byte)
  /-- the Ringmaster configures a communicator (R191) -/
  | commWrite (comm : Nat) (members : List PeerAddr) (rank : Nat) (links : List LinkId)
  /-- a handshake is refused (R201); the Ringmaster writes PART_CFG at the end of a reconfiguration (R200) -/
  | handshakeOut
  | configure
  /-- the harts of a pair change their level, and access a control-space register at it (R204); an attendant changes its level, and
  reads or writes through its core's L1 (R206) -/
  | hartLevel (pair : Nat) (l : HartLevel)
  | hartAccess (pair : Nat) (i : Instr)
  | attendantLevel (core : Nat) (l : HartLevel)
  | attendantRead (core va n : Nat)
  | attendantWrite (core va : Nat) (bs : List Byte)
  /-- the Ringmaster writes RM_WDOG (R211); it grants a queue to a peer, and the peer's key exchange ends (R210) -/
  | wdogWrite (v : DWord)
  | grantQueue (q : Nat)
  | handshake (session : Word) (secret peerKey ownKey : BitVec 256) (chainOk sigOk : Bool)
  /-- an SRAM or a register file corrects an error or fails (R220) -/
  | sramCorrected (at_ : SramAt)
  | sramFails (at_ : SramAt)
  /-- the store queue of a thread that is gone from its slot: a store leaves it (R113) -/
  | drain (t : Nat)
  /-- a copy, a stored tile or a command that computes C makes one of its writes ahead of the others (R109, R154) -/
  | copyAhead (id : Nat)
  | speElement (part n row col : Nat)
  /-- a registration that has reached its home takes the capture of one of its words (R144, R145); a line enters an L1 unasked -/
  | captureWord (id w : Nat)
  | l1Fill (core pa : Nat)
  /-- the tile walker translates the k-th page beyond the tile that a command has in progress under its r-th record (R134) -/
  | tileAhead (id r k : Nat)
  deriving DecidableEq, Repr

/-- Who moves next: an issue slot of a core, a step that an agent or the outside world takes, or the clock, which begins
the next cycle with its agenda (log 5). -/
inductive Turn
  | issue (core islot : Nat)
  | event (i : Instr)
  | outer (o : Outer)
  | tick
  deriving DecidableEq, Repr

/-- The module.  Thread slots stand under the key of their context and slot (threadKey), so that a bank swap moves
none of them. -/
structure State where
  /-- the value of every word at its home (L2 and HBM), by physical address (R100, R101) -/
  mem : Memory
  /-- poisoned words, by physical address / 4 (R221) -/
  poison : Tab Bool
  /-- the core that owns a registered word, plus 1, by physical address / 4 (R103) -/
  owner : Tab Nat
  /-- the L1 words of every core (R99) -/
  l1 : Tab L1Word
  /-- lane store, core pad, cluster memory and die scratchpad (R95-R98) -/
  lane : Memory
  pad : Memory
  clus : Memory
  dsp : Memory
  /-- what a flush has emptied out of the die scratchpads (R200) -/
  dspSave : Memory
  /-- poisoned words of the local levels, by localWord -/
  lpoison : Tab Bool
  /-- thread slots, contexts, cores, groups and kernels -/
  threads : Tab Thread
  /-- evicted threads by group * 1024 + slot, and their lane stores likewise (R58) -/
  evicted : Tab Thread
  evLane : Memory
  ctxs : Tab Ctx
  cores : Tab Core
  groups : Tab Group
  kernels : Tab Kernel
  /-- queues by the physical address of their descriptor; the core-cluster and die records -/
  queues : Tab Queue
  dies : Tab Die
  parts : Tab Part
  tenants : Tab Tenant
  frames : Tab Frame
  /-- pages written out: by ASID * 2^64 + virtual address (R139) -/
  backing : Memory
  /-- shared ranges: first frame and length (R197) -/
  xshr : Tab (Nat × Nat)
  /-- the tile walkers' TLBs, by cluster (R134) -/
  walkers : Tab (List TlbEntry)
  /-- page-table roots by ASID, plus 1; 0 for none (R132) -/
  roots : Tab Nat
  owners : Byte
  dlocal : BitVec 4
  rm : Ringmaster
  links : Tab LinkState
  linkTries : Tab LinkTry
  /-- the roots of the I/O tables of the PCI Express root ports, plus 1; 0 for none (R185) -/
  ioRoots : Tab Nat
  sessions : Tab Session
  comms : Tab Comm
  /-- what is under way: accesses, registrations, late traps, broadcasts, reconfigurations, pending records, collectives -/
  accs : Tab (Option Access)
  regns : Tab (Option Regn)
  /-- the schedulers' pending units, placements under way, and steal rounds -/
  pends : Tab (Option PendUnit)
  placements : Tab (Option Placement)
  steals : Tab (Option Steal)
  late : Tab (Option LateTrap)
  posts : Tab (Option Post)
  /-- engine commands accepted and not yet complete -/
  cmds : Tab (Option Cmd)
  heapOps : Tab (Option HeapOp)
  /-- the entries of each die's task heap -/
  heaps : Tab (List (Word × DWord))
  shoots : Tab (Option Shoot)
  reconf : Option Reconf
  pending : Tab (Option Pending)
  colls : Tab (Option Coll)
  /-- flits refused or resent, by the number of their operation (R181, R182) -/
  flits : Tab Flit
  /-- results that engines hold for a full result queue: the queue, the value and the command (R68) -/
  results : Tab (Option (Nat × Word × Nat))
  /-- answers sent to peer modules, oldest first (R179) -/
  outbox : List PeerReply
  /-- the highest settle epoch that an agent has seen (R115): a core, a cluster's or a die's local memory and queues, an engine -/
  seen : Tab Nat
  /-- the corrections in an HBM row within the last 24 h, by their times in ns (R220) -/
  rows : Tab (List Nat)
  /-- the model's own: whose turn it is, who issues, the count of steps, the clock in ns, and two counters -/
  turns : List Turn
  sel : Option Sel
  cycle : Nat
  now : Nat
  nextId : Nat
  fresh : Nat
  deriving DecidableEq, Repr

/-- A die's registers at device reset (R184, R195, R196, R107, R225). -/
def Die.atReset (n : Nat) : Die :=
  { bgtLoop := ⟨(List.range 8).map (fun c => (c, 1024))⟩, bgtHbm := ⟨(List.range 8).map (fun c => (c, 0x7FF))⟩,
    tqTarget := ⟨(List.range 64).map (fun t => (t, 0x4000))⟩, ivlDies := BitVec.ofNat 4 (2 ^ n), peers := BitVec.ofNat 4 (2 ^ n) }

/-- THE MACHINE RIGHT AFTER DEVICE RESET (R7's reset columns, R40, R194, R211, R212, R222): the Ringmaster is BOOTING, no
partition exists, no core has started, memory lists nothing.  Fields without a reset value in the manual are named in
logs 1, 2, 3, 4, 5 and 6. -/
def State.reset : State :=
  { mem := {}, poison := {}, owner := {}, l1 := {}, lane := {}, pad := {}, clus := {}, dsp := {}, dspSave := {}, lpoison := {},
    threads := {}, evicted := {}, evLane := {}, ctxs := {}, cores := {}, groups := {}, kernels := {}, queues := {},
    dies := ⟨(List.range 4).map (fun n => (n, Die.atReset n))⟩, parts := {}, tenants := {},
    frames := {}, backing := {}, xshr := {}, walkers := {}, roots := {}, owners := 0xE4, dlocal := 0, rm := {}, links := {}, linkTries := {}, ioRoots := {}, sessions := {},
    comms := {}, accs := {}, regns := {}, pends := {}, placements := {}, steals := {}, late := {}, posts := {}, cmds := {},
    heapOps := {}, heaps := {}, shoots := {}, reconf := none, pending := {}, colls := {}, flits := {}, results := {}, outbox := [], seen := {}, rows := {},
    turns := [], sel := none, cycle := 0, now := 0, nextId := 1, fresh := 0 }

end Sys2Proof.Machine
end

