-- ==== Sys2Proof/Machine/Regs.lean ====
section
/-! DEFINITION. Where things stand in the state, and every read and write of a register of a thread slot (17).  The
hard-wired registers g0 and p0 live here and nowhere else. -/

namespace Sys2Proof.Machine

/-- The key of a thread slot: its context and its slot number. -/
def threadKey (ctx slot : Nat) : Nat := ctx * 1024 + slot

def keyCtx (t : Nat) : Nat := t / 1024
def keySlot (t : Nat) : Nat := t % 1024

/-- The operations that a thread leaves under way when its slot is freed go on under a key that no slot has: it names the
thread's group and the slot that it had. -/
def ghostKey (group t : Nat) : Nat := 2 ^ 40 * group + t

/-- An evicted thread keeps what it has under way, and its registers meanwhile, under such a key of its own (R58). -/
def evictedKey (group t : Nat) : Nat := 2 ^ 80 + ghostKey group t

/-- The slot's key that stands in a key, and the group that such a key names, 0 for a thread in its slot. -/
def slotKey (t : Nat) : Nat := t % 2 ^ 40
def ghostGroup (t : Nat) : Nat := t / 2 ^ 40 % 2 ^ 40

/-- The die and the cluster (numbered die × 7 + cluster) of a core (R11). -/
def coreDie (core : Nat) : Nat := core / 56
def coreCluster (core : Nat) : Nat := core / 8

/-- The context in a bank: bank 0 or 1 (R76). -/
def Core.ctxIn (c : Core) (bank : Nat) : Nat := if bank = 0 then c.ctx0 else c.ctx1

/-- The number of the active bank and of the shadow bank. -/
def Core.activeBank (c : Core) : Nat := if c.active then 1 else 0
def Core.shadowBank (c : Core) : Nat := if c.active then 0 else 1

def Core.setCtx (c : Core) (bank ctx : Nat) : Core := if bank = 0 then { c with ctx0 := ctx } else { c with ctx1 := ctx }

/-- A throttled die leaves this cycle out: one of eight for each step of 218.75 MHz (R226). -/
def Die.skips (d : Die) (cycle : Nat) : Bool := decide (cycle % 8 < d.slow)

namespace State

def thr (s : State) (t : Nat) : Thread := s.threads.get t
def setThr (s : State) (t : Nat) (x : Thread) : State := { s with threads := s.threads.set t x }
def modThr (s : State) (t : Nat) (f : Thread → Thread) : State := s.setThr t (f (s.thr t))
def ctx (s : State) (c : Nat) : Ctx := s.ctxs.get c
def modCtx (s : State) (c : Nat) (f : Ctx → Ctx) : State := { s with ctxs := s.ctxs.modify c f }
def core (s : State) (c : Nat) : Core := s.cores.get c
def modCore (s : State) (c : Nat) (f : Core → Core) : State := { s with cores := s.cores.modify c f }
def group (s : State) (g : Nat) : Group := s.groups.get g
def modGroup (s : State) (g : Nat) (f : Group → Group) : State := { s with groups := s.groups.modify g f }
def kernel (s : State) (k : Nat) : Kernel := s.kernels.get k
def modKernel (s : State) (k : Nat) (f : Kernel → Kernel) : State := { s with kernels := s.kernels.modify k f }
def queue (s : State) (q : Nat) : Queue := s.queues.get q
def modQueue (s : State) (q : Nat) (f : Queue → Queue) : State := { s with queues := s.queues.modify q f }
def die (s : State) (d : Nat) : Die := s.dies.get d
def modDie (s : State) (d : Nat) (f : Die → Die) : State := { s with dies := s.dies.modify d f }
def part (s : State) (p : Nat) : Part := s.parts.get p
def modPart (s : State) (p : Nat) (f : Part → Part) : State := { s with parts := s.parts.modify p f }

/-- The key of the slot that an event names by core, bank and slot. -/
def keyOf (s : State) (r : TRef) : Nat := threadKey ((s.core r.core).ctxIn r.bank) r.slot

/-- The core of a thread's context. -/
def coreOf (s : State) (t : Nat) : Nat := (s.ctx (keyCtx t)).core

/-- Records from before the device reset are still to be written to partition 0's queue: no kernel starts (R223). -/
def priorWaits (s : State) : Bool := !s.rm.prior.isEmpty

/-- The core cycles of a die since device reset (R226, R250). -/
def coreCycles (s : State) (die : Nat) : Nat := s.cycle - (s.die die).skipped

/-- The number of the issue that an operation of a thread belongs to: the threads of one troupe share it (R217, R327, R338). -/
def issueOf (s : State) (t : Nat) : Nat := (s.cycle * 4 + keySlot t % 4) * 256 + s.coreOf t

/-- The partition that holds a die (R194). -/
def partOf (s : State) (die : Nat) : Nat := s.owners.toNat / 4 ^ die % 4

/-- The dies of a partition. -/
def diesOf (s : State) (p : Nat) : List Nat := (List.range 4).filter (fun d => s.partOf d == p)

/-- Whether two cores lie in one unit of a scope (R111). -/
def covers (s : State) (scope c d : Nat) : Bool :=
  if scope = 1 then c == d
  else if scope = 2 then coreCluster c == coreCluster d
  else if scope = 3 then coreDie c == coreDie d
  else if scope = 4 then s.partOf (coreDie c) == s.partOf (coreDie d)
  else true

/-- The thread keys of a context's listed slots that a test accepts, in ascending slot order. -/
def slotsOf (s : State) (c : Nat) (p : Thread → Bool) : List Nat :=
  (s.threads.cells.filter (fun e => keyCtx e.1 == c && p e.2)).map (fun e => keySlot e.1)

/-- An evicted thread, by its group and the key of its slot: with operations under way it stands among the threads. -/
def evictedThr (s : State) (gid t : Nat) : Thread :=
  if s.threads.get (evictedKey gid t) = {} then s.evicted.get (gid * 1024 + keySlot t) else s.thr (evictedKey gid t)

def setEvicted (s : State) (gid t : Nat) (x : Thread) : State :=
  if s.threads.get (evictedKey gid t) = {} then { s with evicted := s.evicted.set (gid * 1024 + keySlot t) x }
  else s.setThr (evictedKey gid t) x

/-- A number for the next operation under way. -/
def takeId (s : State) : Nat × State := (s.nextId, { s with nextId := s.nextId + 1 })

/-- A value the manual does not state (log 4). -/
def draw (s : State) : Word × State := (Config.freeWord s.fresh, { s with fresh := s.fresh + 1 })

/-- The kernel and the tenant of a thread. -/
def kernelOf (s : State) (t : Nat) : Nat := (s.group (s.thr t).group).kernel
def tenantOf (s : State) (t : Nat) : Nat := (s.ctx (keyCtx t)).tenant.toNat

end State

namespace Thread

/-- A register that is written anew has lost its error (R220). -/
def clearLost (x : Thread) (r : RegName) : List RegName := x.lost.filter (· ≠ r)

/-- A read of g0–g59 (R245). -/
def rdG (x : Thread) (n : Nat) : Word := if n = 0 then 0 else x.g.get n

/-- A write of g0–g59 by the owning thread: g0 discards, and the full bit is set (R245, R249). -/
def wrG (x : Thread) (n : Nat) (v : Word) : Thread :=
  if n = 0 then x else { x with g := x.g.set n v, gEmpty := x.gEmpty.set n false, lost := x.clearLost (.g n) }

def rdA (x : Thread) (n : Nat) : DWord := x.a.get n
def wrA (x : Thread) (n : Nat) (v : DWord) : Thread := { x with a := x.a.set n v, lost := x.clearLost (.a n) }

/-- p0 reads true, and a write to it is discarded (R245). -/
def rdP (x : Thread) (n : Nat) : Bool := if n = 0 then true else x.p.get n
def wrP (x : Thread) (n : Nat) (v : Bool) : Thread := if n = 0 then x else { x with p := x.p.set n v, lost := x.clearLost (.p n) }

def rdW (x : Thread) (n : Nat) : WReg := x.w.get n

/-- A write of a w register by the owning thread sets its full bit (R249). -/
def wrW (x : Thread) (n : Nat) (v : WReg) : Thread := { x with w := x.w.set n v, wEmpty := x.wEmpty.set n false, lost := x.clearLost (.w n) }

/-- A pair, low word in the even register (R246). -/
def rdPair (x : Thread) (n : Nat) : DWord := DWord.join (x.rdG n) (x.rdG (n + 1))
def wrPair (x : Thread) (n : Nat) (v : DWord) : Thread := (x.wrG n v.lo).wrG (n + 1) v.hi

/-- A flag counts up or down (R248, R269). -/
def flagUp (x : Thread) (f : Option Nat) : Thread :=
  match f with
  | none => x
  | some n => { x with flags := x.flags.set n (x.flags.get n + 1) }

def flagDown (x : Thread) (f : Option Nat) : Thread :=
  match f with
  | none => x
  | some n => { x with flags := x.flags.set n (x.flags.get n - 1) }

/-- The flag that fs selects in the clause's header (R269). -/
def flagOf (x : Thread) (fs : BitVec 1) : Option Nat := if fs.toNat = 0 then x.curA else x.curB

/-- The FLAGS word (R251). -/
def flagsWord (x : Thread) : DWord :=
  (List.range 12).foldl (fun acc n => acc ||| ((x.flags.get n).zeroExtend 64 <<< (3 * n))) 0

/-- The full bits in the layout of R375: g1–g59 in bits 1–59 of the first 8 bytes, w0–w15 in the next. -/
def fullG (x : Thread) : Nat :=
  (List.range 60).foldl (fun acc n => if n ≠ 0 ∧ x.gEmpty.get n = false then acc + 2 ^ n else acc) 0

def fullW (x : Thread) : Nat :=
  (List.range 16).foldl (fun acc n => if x.wEmpty.get n = false then acc + 2 ^ n else acc) 0

/-- Where the thread's next instruction stands (R84, R85). -/
def pc (x : Thread) : DWord := if x.gate then x.hdr + BitVec.ofNat 64 (2 * x.off.toNat) else x.hdr

/-- The address of the parcel after the clause (R261). -/
def clauseEnd (x : Thread) : DWord := x.hdr + BitVec.ofNat 64 (2 * (2 + x.len))

/-- The thread stands at a header. -/
def atHeader (x : Thread) (h : DWord) : Thread := { x with hdr := h, off := 0, gate := false }

/-- Past n parcels of the clause: to the next instruction, or to the header that must follow (R261). -/
def advance (x : Thread) (n : Nat) : Thread :=
  if x.off.toNat + n < 2 + x.len then { x with off := x.off + BitVec.ofNat 5 n } else x.atHeader x.clauseEnd

/-- The instruction of n parcels at the thread's PC is the clause's last. -/
def lastOf (x : Thread) (n : Nat) : Bool := 2 + x.len ≤ x.off.toNat + n

end Thread

/-- Some source register's full bit is clear (R249). -/
def someEmpty (x : Thread) (gs ws : List Nat) : Bool :=
  gs.any (fun n => 1 ≤ n && n < 60 && x.gEmpty.get n) || ws.any (fun n => x.wEmpty.get n)

/-- Cause codes (R89). -/
def Cause.code : Cause → Nat
  | .illegal => 1 | .format => 2 | .align => 3 | .address => 4 | .target => 5 | .rights => 6 | .cap => 7
  | .overwrite => 8 | .notarget => 9 | .brk => 10 | .soft => 11 | .barrier => 12 | .queue => 13 | .desc => 14
  | .guard => 15 | .poison => 16

/-- The error code that a trap's record carries (R89, R219). -/
def Cause.errCode : Cause → Nat
  | .guard => 0x0402
  | .poison => 0x0103
  | c => 0x0300 + c.code

/-- The recovery action of a trap's record (R219). -/
def trapAction (code : Nat) : Nat :=
  if code = 0x030A ∨ code = 0x030B then 0
  else if code = 0x0103 ∨ code = 0x0203 then 4
  else if code = 0x0402 then 2
  else 3

end Sys2Proof.Machine
end

