-- ==== Sys2Proof/Machine/Flags.lean ====
section
/-! DEFINITION. The flag computations: the exception bits of FSTAT and what sets them (R234, R290), the conditions of the
integer compares (R284, R285), and the conditions on the flags that count an operation (R248, R269). -/

namespace Sys2Proof.Machine

/-- The rounding mode in RMODE (R234). -/
def modeOf (x : Thread) : RMode := match x.rmode.toNat with | 0 => .rne | 1 => .rtz | 2 => .rdn | _ => .rup

/-- The exception bits of a result are or-ed into FSTAT (R234). -/
def Thread.raise (x : Thread) (fl : BitVec 5) : Thread := { x with fstat := x.fstat ||| fl }

/-- FCMP's INV (R290): any NaN for the orderings LT to GE, a signalling one otherwise. -/
def fcmpInv (c : Nat) (a b : Val) : BitVec 5 :=
  if a.isSnan || b.isSnan || (2 ≤ c && c ≤ 5 && (a.isNan || b.isNan)) then fINV else 0

/-- EQ NE LT LE GT GE by code, signed or unsigned (R284, R285). -/
def icond (signed : Bool) (c : Nat) (x y : Word) : Bool :=
  let lt := if signed then x.toInt < y.toInt else x.toNat < y.toNat
  match c with
  | 0 => x == y
  | 1 => x != y
  | 2 => lt
  | 3 => lt || x == y
  | 4 => !(lt || x == y)
  | _ => !lt

/-- Codes 6 and 7 of CMPI are LTN and GEN (R285). -/
def cmpiCond (c : Nat) (x y : Word) : Bool :=
  if c = 6 then icond false 2 x y else if c = 7 then icond false 5 x y else icond true c x y

/-- An instruction that counts a flag needs one, by fs (R269): none where the header names none. -/
def needFlag (x : Thread) (fs : BitVec 1) : Bool := (x.flagOf fs).isSome

/-- A flag at 7 holds the issue of what would count it up (R248). -/
def flagFull (x : Thread) (f : Option Nat) : Bool :=
  match f with
  | none => false
  | some n => x.flags.get n == 7

end Sys2Proof.Machine
end

