-- ==== Sys2Proof/Machine/Home.lean ====
section
/-! DEFINITION. The home of every word (07): its current value, forwarding, revocation, stores at the home with the
standing-product capture of R144, and the error records of 15. -/

namespace Sys2Proof.Machine

/-- First byte of control space: no memory from here up (R101). -/
def memTop : Nat := 0xC000000000

/-- The key of a word in the L1 table. -/
def l1Key (core w : Nat) : Nat := core * 2 ^ 38 + w

/-- The word numbers that n bytes from an address touch. -/
def wordsOf (pa n : Nat) : List Nat := if n = 0 then [] else (List.range ((pa + n - 1) / 4 - pa / 4 + 1)).map (· + pa / 4)

/-- Byte j of a word. -/
def byteOf (v : Word) (j : Nat) : Byte := (v >>> (8 * j)).truncate 8

/-- A word from its four bytes. -/
def wordOf (bs : List Byte) : Word := BitVec.ofNat 32 (leNat bs)

/-- The first code of a list in n-byte pieces, as bytes of a record. -/
def recBytes (fs : List (Nat × Nat)) : List Byte := fs.flatMap (fun f => leBytes f.1 f.2)

/-- The 64 bytes of a record (R213); lost says that records were lost before it. -/
def ErrRec.bytes (e : ErrRec) (lost : Bool) : List Byte :=
  let flags := (if e.va.isSome then 1 else 0) + (if e.pa.isSome then 2 else 0) + (if e.thread then 4 else 0) +
    (if lost then 8 else 0) + (if e.prior then 16 else 0)
  recBytes [(2, e.code), (1, e.sev), (1, e.action), (1, e.eclass), (1, e.part), (2, e.einst), (2, e.ctx), (2, e.slot),
    (4, e.gnum), (8, e.pc), (8, e.va.getD 0), (8, e.pa.getD 0), (4, e.count), (4, flags), (8, e.time), (8, e.detail)]

/-- State codes (R66). -/
def QState.code : QState → Nat
  | .free => 0 | .empty => 1 | .busy => 2 | .full => 3 | .closing => 4 | .closed => 5

/-- The 64 bytes of a queue's descriptor (R63). -/
def Queue.bytes (q : Queue) : List Byte :=
  recBytes [(8, q.base.toNat), (4, q.cap), (1, q.kind), (1, q.scope), (1, q.tenant), (1, q.fifo), (4, q.head.toNat), (4, q.tail.toNat),
    (1, q.state.code), (3, q.rsv.toNat), (4, q.session.toNat), (8, q.recBase.toNat), (24, q.rsv.toNat / 2 ^ 24)]

/-- The record of an operand: 0 A, 1 B. -/
def Binding.opnd (b : Binding) (r : Nat) : Tsr := if r = 0 then b.aT else b.bT

/-- The captures of an epoch take in one of a word: those of the settling epoch where the write comes before the cut, or else those of
the open one. -/
def Binding.take (b : Binding) (settling : Bool) (key : Nat) (c : Capture) : Binding :=
  if settling then { b with old := b.old.set key (some c) }
  else { b with caps := b.caps.set key (some c), state := if b.state = .clean then .dirty else b.state }

/-- An epoch's overflow (R146); a settle whose own epoch overflows reconciles (R151). -/
def Binding.overflow (b : Binding) (settling : Bool) : Binding :=
  if settling then { b with oldOvf := true, full := true } else { b with ovf := true }

namespace State

/-- The home value of a word in memory. -/
def memWord (s : State) (w : Nat) : Word := wordOf (s.mem.bytes (4 * w) 4)

/-- The core that owns a word. -/
def ownerOf (s : State) (w : Nat) : Option Nat := if s.owner.get w = 0 then none else some (s.owner.get w - 1)

def l1Word (s : State) (core w : Nat) : L1Word := s.l1.get (l1Key core w)
def setL1 (s : State) (core w : Nat) (x : L1Word) : State := { s with l1 := s.l1.set (l1Key core w) x }

/-- A registration of this core for this word is still on its way. -/
def regnPending (s : State) (core w : Nat) : Bool :=
  s.regns.cells.any (fun e => match e.2 with | some r => r.core == core && r.words.contains w | none => false)

/-- The value of a word in its home order: the owner's if it is registered (R104), but not that of a store whose registration the
home has not accepted yet (R103). -/
def wordVal (s : State) (w : Nat) : Word :=
  match s.ownerOf w with
  | some c => if s.regnPending c w then s.memWord w else (s.l1Word c w).value
  | none => s.memWord w

/-- n bytes at their homes. -/
def homeLoad (s : State) (pa : Nat) : Nat → List Byte
  | 0 => []
  | n + 1 => byteOf (s.wordVal (pa / 4)) (pa % 4) :: s.homeLoad (pa + 1) n

/-- Some word of the bytes is poisoned (R221). -/
def poisonedAt (s : State) (pa n : Nat) : Bool := (wordsOf pa n).any (fun w => s.poison.get w)

/-- The owner sends a registered word to the home, which revokes the registration; the owner keeps it valid, and registered
only while a newer registration of it is on its way (R104). -/
def forward (s : State) (w : Nat) : State :=
  match s.ownerOf w with
  | none => s
  | some c =>
    let v := s.l1Word c w
    { s with mem := s.mem.store (4 * w) (leBytes 4 (s.wordVal w).toNat), owner := s.owner.set w 0,
             poison := if v.bad then s.poison.set w true else s.poison, l1 := s.l1.set (l1Key c w) { v with reg := s.regnPending c w } }

/-- A newer store of the whole word discards the owner's value (R103): the owner's L1 word turns invalid, unless that core
has since written it again and its new registration is on its way. -/
def revoke (s : State) (w : Nat) : State :=
  match s.ownerOf w with
  | none => s
  | some c =>
    if s.regnPending c w then { s with owner := s.owner.set w 0 }
    else { s with owner := s.owner.set w 0, l1 := s.l1.set (l1Key c w) {} }

/-- A store at the home without capture: whole words revoke registrations and clear poison, parts of words are merged
with the forwarded value and leave poison (R102, R221). -/
def homeStoreRaw (s : State) (pa : Nat) (bs : List Byte) : State :=
  let n := bs.length
  let s1 := (wordsOf pa n).foldl (fun s w =>
    if pa ≤ 4 * w ∧ 4 * w + 4 ≤ pa + n then
      let s := s.revoke w
      { s with poison := s.poison.set w false }
    else s.forward w) s
  { s1 with mem := s1.mem.store pa bs }

/-- Where the next record of a partition's ring goes, when it is open and not full (R215, R216). -/
def ringSlot (s : State) (p : Nat) : Option Nat :=
  let q := (s.part p).erq
  if p = 0xFF ∨ q.log2cap = 0 ∨ (q.tail - q.head).toNat = 2 ^ q.log2cap then none
  else some (q.base * 4096 + 64 * (q.tail.toNat % 2 ^ q.log2cap))

/-! Error records.  put stores bytes at their home: a record that lies in a watched word is captured as every write is (R144). -/

/-- Write a record into a partition's queue (R215, R216). -/
def queueToBy (put : State → Nat → List Byte → State) (s : State) (p : Nat) (e : ErrRec) : State :=
  let q := (s.part p).erq
  if p = 0xFF ∨ q.log2cap = 0 then s
  else if (q.tail - q.head).toNat = 2 ^ q.log2cap then
    s.modPart p (fun x => { x with erq := { q with lost := min (q.lost + 1) 65535, mark := true } })
  else
    let s1 := put s (q.base * 4096 + 64 * (q.tail.toNat % 2 ^ q.log2cap)) (e.bytes q.mark)
    s1.modPart p (fun x => { x with erq := { q with tail := q.tail + 1, mark := false } })

/-- Write a record into its own partition's queue, and send it to the Ringmaster's mirror (R216), which fills in after a reset of the
complex; the hub die keeps the last 16 of severity 3 or 4 (R223). -/
def emitBy (put : State → Nat → List Byte → State) (s : State) (e : ErrRec) : State :=
  let s1 := queueToBy put s e.part e
  let rm := s1.rm
  let severe := if 3 ≤ e.sev then (rm.severe ++ [e]).drop (rm.severe.length - 15) else rm.severe
  let due := if rm.state = .recovering then rm.mirrorDue + 1 else rm.mirrorDue
  { s1 with rm := { rm with mirror := rm.mirror ++ [e], mirrorDue := due, severe := severe } }

/-- The pending record of a code and instance (R218). -/
def pendingOf (s : State) (e : ErrRec) : Option (Nat × Pending) :=
  s.pending.cells.findSome? (fun c => match c.2 with
    | some p => if p.err.code == e.code && p.err.eclass == e.eclass && p.err.einst == e.einst then some (c.1, p) else none
    | none => none)

/-- Hold or release a pending record; a new number is taken when it is the next one. -/
def setPending (s : State) (k : Nat) (p : Option Pending) : State :=
  { s with pending := s.pending.set k p, nextId := max s.nextId (k + 1) }

/-- An event enters the error logger: corrected records are folded (R218), the others written at once. -/
def logBy (put : State → Nat → List Byte → State) (s : State) (e0 : ErrRec) : State :=
  let e := { e0 with time := s.now }
  if e.sev ≠ 1 then emitBy put s e
  else
    let line := e.pa.getD 0 / 128
    match s.pendingOf e with
    | none => s.setPending s.nextId (some { err := e, line := line, due := s.now + 1000000 })
    | some (k, p) =>
      if p.line = line ∧ s.now < p.due then
        let e1 := { p.err with count := p.err.count + 1 }
        if e1.count = 0xFFFFFFFF then (emitBy put s e1).setPending k none
        else s.setPending k (some { p with err := e1 })
      else
        ((emitBy put s p.err).setPending k none).setPending s.nextId
          (some { err := e, line := line, due := s.now + 1000000 })

/-- The bytes lie in an enabled shared range (R197). -/
def shared (s : State) (pa : Nat) : Bool :=
  s.xshr.cells.any (fun r => r.2.1 * 0x200000 ≤ pa && pa < (r.2.1 + r.2.2) * 0x200000)

/-- Of a tenant's page of n frames from an address of 2 MiB, some part lies in its key-value pool (R164, R165). -/
def inPool (s : State) (tenant va n : Nat) : Bool :=
  s.parts.cells.any (fun p => p.2.pool.count != 0 && p.2.pool.tenant == tenant && p.2.pool.base.toNat < va + n * 0x200000 &&
    va < p.2.pool.base.toNat + p.2.pool.count * 0x200000)

/-- A PINNED frame of a key-value pool, which is homed whole (R165, R195); the first frame of a 1 GiB page has the state of all. -/
def poolFrame (s : State) (f : Nat) : Bool :=
  let h := (s.frames.get f).head.getD f
  let x := s.frames.get h
  x.state == .pinned && s.inPool x.tenant (x.va.toNat + (f - h) * 0x200000) 1

/-- The number that chooses a block's home (R195): the private hash of the block, or the number of a pool's frame. -/
def homeNumber (s : State) (pa : Nat) : Nat := if s.poolFrame (pa / 0x200000) then pa / 0x200000 else Config.homeHash (pa / 256)

/-- The die that homes a block for an agent of a die (R195): by its stacks in die-local mode and for shared ranges. -/
def homeDie (s : State) (die pa : Nat) : Nat :=
  let d := s.die die
  let ds := (List.range 4).filter (fun q => d.ivlDies.getLsbD q)
  if s.shared pa || d.ivlMode then pa / 0x3000000000
  else ds.getD (s.homeNumber pa % (32 * ds.length) / 32) 0

/-- The slice of its home die that homes a block (R99, R195): the hash mod 32 in both modes. -/
def homeSlice (s : State) (pa : Nat) : Nat := s.homeNumber pa % 32

/-! Settle epochs (R115), of 16 bits. -/

/-- An epoch is another one or comes after it, in a window of 2^15. -/
def epochFrom (old new : Nat) : Bool := (new + 65536 - old) % 65536 < 32768

def laterEpoch (a b : Nat) : Nat := if epochFrom a b then b else a

/-- The agents that keep the highest epoch they have seen: a core under its number, a cluster for its memory and FIFOs, a die for its
scratchpad and task heap, and the engines. -/
def clusterAgent (cl : Nat) : Nat := 256 + cl
def dieAgent (d : Nat) : Nat := 512 + d
def engAgent : Eng → Nat
  | .matrix core => core
  | .streamer cl => 1024 + cl
  | .spe d => 2048 + d
  | .pfx d => 2056 + d

/-- The die of an agent. -/
def agentDie (a : Nat) : Nat :=
  if a < 256 then coreDie a else if a < 512 then (a - 256) / 7 else if a < 1024 then a - 512 else if a < 2048 then (a - 1024) / 7
  else (a - 2048) % 8

/-- The slices and agents of dies begin again with epoch 0: no binding is left there. -/
def forgetEpochs (s : State) (ds : List Nat) : State :=
  { s with dies := s.dies.mapCells (fun n d => if ds.contains n then { d with epochs := {} } else d),
           seen := s.seen.drop (fun a _ => ds.contains (agentDie a)) }

/-- The epoch of the home slice of an address. -/
def sliceEpoch (s : State) (die pa : Nat) : Nat := (s.die (s.homeDie die pa)).epochs.get (s.homeSlice pa)

/-- An operation that carries an epoch reaches a slice: one that carries a later epoch than the slice's own advances it, so that the
operation is placed after the cut before the slice's marker arrives. -/
def seeEpoch (s : State) (die pa e : Nat) : State :=
  s.modDie (s.homeDie die pa) (fun d => { d with epochs := d.epochs.modify (s.homeSlice pa) (fun old => laterEpoch old e) })

/-- An agent hears of an epoch. -/
def learn (s : State) (agent e : Nat) : State := { s with seen := s.seen.modify agent (fun old => laterEpoch old e) }

/-- The reply of a home carries its slice's epoch to an agent. -/
def tellEpoch (s : State) (agent die pa : Nat) : State := s.learn agent (s.sliceEpoch die pa)

/-- A write of an agent is performed at a home. -/
def meetEpoch (s : State) (agent die pa : Nat) : State := (s.seeEpoch die pa (s.seen.get agent)).tellEpoch agent die pa

/-- What one agent knows passes to another, with what it stores in a local memory, puts in a queue or completes. -/
def passEpoch (s : State) (from_ to_ : Nat) : State := s.learn to_ (s.seen.get from_)

/-- The bindings of a partition that watch (R144): neither FREE nor waiting for a slot.  One with an UNBIND that waits for the command
ahead captures until its number is freed (DESIGN CHOICE, log 34). -/
def watching (b : Binding) : Bool :=
  match b.state with
  | .free | .admitting => false
  | _ => true

/-- The regions of a binding that hold a physical word, with the word's VA. -/
def regionsOf (b : Binding) (w : Nat) : List (Nat × Nat) :=
  (b.watch.filter (fun x => x.pa < 4 * w + 4 && 4 * w < x.pa + x.len)).map (fun x => (x.region, x.va + 4 * w - x.pa))

/-- The number of a word in an operand's storage (R145). -/
def wordIndex (base : DWord) (va : Nat) : Nat := (va - base.toNat / 4 * 4) / 4

/-- The physical address of a pinned page of a binding's region. -/
def pinnedPa (b : Binding) (region va : Nat) : Option Nat :=
  (b.watch.find? (fun x => x.region == region && x.va ≤ va && va < x.va + x.len)).map (fun x => x.pa + (va - x.va))

/-- Entry j of a binding's journal in its partition's die-scratchpad pool (R98, R142).  Where the Ringmaster places the pool is not
stated; it lies outside every tenant's window, so its bytes are numbered apart from theirs. -/
def poolEntry (p n j : Nat) : Nat := 2 ^ 40 + 8 * ((p * 4096 + n) * 2 ^ 24 + j)

/-- A word of a die scratchpad among the local words (R221). -/
def dspWord (a : Nat) : Nat := (3 * 2 ^ 60 + a) / 4

/-- Where entry j of a journal stands (R145). -/
def journalAt (b : Binding) (p n j : Nat) : Option (Bool × Nat) :=
  if b.jdsp then some (true, poolEntry p n j) else (pinnedPa b 4 (b.journal.toNat + 8 * j)).map (fun a => (false, a))

/-- A journal entry is written: WORD and OPND, and OLD with its poison (R145, R221). -/
def putEntryBy (put : State → Nat → List Byte → State) (s : State) (key : Nat) (old : Word) (bad : Bool) : Option (Bool × Nat) → State
  | none => s
  | some (true, a) => { s with dsp := s.dsp.store a (leBytes 4 key ++ leBytes 4 old.toNat),
                               lpoison := (s.lpoison.set (dspWord a) false).set (dspWord a + 1) bad }
  | some (false, a) =>
    let s1 := put s a (leBytes 4 key ++ leBytes 4 old.toNat)
    { s1 with poison := s1.poison.set (a / 4 + 1) bad }

/-- The journal entry of a capture is uncorrectable (R159). -/
def entryBad (s : State) : Option (Bool × Nat) → Bool
  | none => false
  | some (true, a) => s.lpoison.get (dspWord a) || s.lpoison.get (dspWord a + 1)
  | some (false, a) => s.poison.get (a / 4) || s.poison.get (a / 4 + 1)

/-- A command that computes C of the binding is under way. -/
def computing (b : Binding) : Bool := b.state == .computing || b.state == .settling

/-- Every home slice of the partition has made the binding's cut (R115, R147). -/
def allCut (s : State) (p : Nat) (b : Binding) : Bool :=
  (s.diesOf p).all (fun d => (List.range 32).all (fun k => epochFrom b.cutAt ((s.die d).epochs.get k)))

/-- The SPE is reading operands for a command of the binding. -/
def reading (s : State) (p : Nat) (b : Binding) : Bool := computing b && s.allCut p b

/-- The cut of the running command has not reached the home slice of a word: a write there comes before it (R115). -/
def beforeCut (s : State) (p : Nat) (b : Binding) (w : Nat) : Bool :=
  computing b && !epochFrom b.cutAt (s.sliceEpoch ((s.diesOf p).headD 0) (4 * w))

/-- A write of these words would be captured without an entry while the SPE reads operands: the home holds it (R146). -/
def captureHeld (s : State) (ws : List Nat) : Bool :=
  ws.any (fun w => !s.shared (4 * w) && s.parts.cells.any (fun p => p.2.bindings.cells.any (fun b =>
    s.reading p.1 b.2 && b.2.jcap ≤ b.2.outstanding && (regionsOf b.2 w).any (fun r =>
      r.1 ≤ 1 && (b.2.caps.get (r.1 * 2 ^ 31 + wordIndex (b.2.opnd r.1).base r.2)).isNone))))

/-- A step from s to t has taken a write that the home must hold (R146): a binding whose operands the SPE reads has a capture more
without an entry. -/
def tookHeld (s t : State) : Bool :=
  s.parts.cells.any (fun p => p.2.bindings.cells.any (fun b => s.reading p.1 b.2 &&
    ((t.part p.1).bindings.get b.1).caps.cells.any (fun e => match e.2 with
      | some c => c.entry.isNone && (b.2.caps.get e.1).isNone
      | none => false)))

/-- The capture of one operand word with its old value (R144–R146), in the epoch to which the write belongs; the watch of a new binding
starts at its cut (R157). -/
def captureWordBy (put : State → Nat → List Byte → State) (s : State) (w p n opnd idx : Nat) (old : Word) (bad : Bool) : State :=
  let b := (s.part p).bindings.get n
  let key := opnd * 2 ^ 31 + idx
  let first := s.beforeCut p b w
  if (if first then b.last == 0 || (b.old.get key).isSome else (b.caps.get key).isSome) then s
  else
    let set_ (s : State) (b : Binding) : State := s.modPart p (fun q => { q with bindings := q.bindings.set n b })
    if b.jcap ≤ b.outstanding then
      let s1 := set_ s ({ b with journaled := b.journaled + 1 }.take first key { old := old, bad := bad } |>.overflow first)
      if (if first then b.oldOvf else b.ovf) then s1
      else logBy put s1 { code := 0x0404, sev := 1, action := 1, eclass := 5, part := p,
                          einst := (s.diesOf p).getD (n % max 1 (s.diesOf p).length) 0, detail := n }
    else
      let e := journalAt b p n (b.journaled % b.jcap)
      let b1 := { b with journaled := b.journaled + 1, outstanding := b.outstanding + 1,
                         consuming := if first then b.consuming + 1 else b.consuming }
      putEntryBy put (set_ s (b1.take first key { old := old, bad := bad, entry := e })) key old bad e

/-- What a write does to the bindings that watch a word: a capture in A or B, C-modified in C or the base (R144, R154). -/
def captureInBy (put : State → Nat → List Byte → State) (s : State) (w p n : Nat) : State :=
  let b := (s.part p).bindings.get n
  if !watching b then s
  else (regionsOf b w).foldl (fun s r =>
    if r.1 = 0 then captureWordBy put s w p n 0 (wordIndex b.aT.base r.2) (s.wordVal w) (s.poison.get w)
    else if r.1 = 1 then captureWordBy put s w p n 1 (wordIndex b.bT.base r.2) (s.wordVal w) (s.poison.get w)
    else if r.1 = 2 ∨ r.1 = 3 then
      s.modPart p (fun q => { q with bindings := q.bindings.modify n (fun b => { b with cmod := true }) })
    else s) s

/-- A write of these words takes its place at the home; a word of a shared range is never watched (R197). -/
def captureBy (put : State → Nat → List Byte → State) (s : State) (ws : List Nat) : State :=
  (ws.filter (fun w => !s.shared (4 * w))).foldl (fun s w => s.parts.cells.foldl (fun s p =>
    p.2.bindings.cells.foldl (fun s b => captureInBy put s w p.1 b.1) s) s) s

/-- A store at the home with its captures, whose journal entries and records are such stores in turn, as deep as n (R144, log 33). -/
def writeHome : Nat → State → Nat → List Byte → State
  | 0, s, pa, bs => s.homeStoreRaw pa bs
  | n + 1, s, pa, bs => (captureBy (writeHome n) s (wordsOf pa bs.length)).homeStoreRaw pa bs

/-- A store at the home (R100, R102, R144). -/
def homeStore (s : State) (pa : Nat) (bs : List Byte) : State := s.writeHome 4096 pa bs

def capture (s : State) (ws : List Nat) : State := captureBy homeStore s ws
def queueTo (s : State) (p : Nat) (e : ErrRec) : State := queueToBy homeStore s p e
def emit (s : State) (e : ErrRec) : State := emitBy homeStore s e
def log (s : State) (e : ErrRec) : State := logBy homeStore s e

/-- The descriptor of a queue in device memory follows the queue (R63). -/
def putDesc (s : State) (q : Nat) : State := s.homeStore q (s.queue q).bytes

/-- A queue changes, and its descriptor with it. -/
def updQueue (s : State) (q : Nat) (f : Queue → Queue) : State := (s.modQueue q f).putDesc q

/-- Where a line's tag stands: its home die, and the slice and set there; which set of its slice a line uses is the
implementation's (R99). -/
def l2Place (s : State) (die pa : Nat) : Nat × Nat :=
  (s.homeDie die pa, s.homeSlice pa * 2048 + Config.l2Set (pa / 128) % 2048)

/-- The line of an address stands in its home's L2. -/
def inL2 (s : State) (die pa : Nat) : Bool :=
  let k := s.l2Place die pa
  ((s.die k.1).l2.get k.2).any (fun x => x.line == pa / 128)

/-- The line that a set with no free way gives up (R108): the least recently used evict-first line, else that of a tenant whose
OCC is above its TARGET, else that of the set. -/
def l2Victim (d : Die) (ls : List L2Line) : Option L2Line :=
  let old := ls.reverse
  let rich (x : L2Line) : Bool := match x.tenant with | some t => d.tqTarget.get t < d.tqOcc.get t | none => false
  match old.find? L2Line.first with
  | some x => some x
  | none => match old.find? rich with
    | some x => some x
    | none => old.head?

/-- A tenant is charged one line more or less (R107). -/
def charge (d : Die) (t : Option Nat) (more : Bool) : Die :=
  match t with
  | none => d
  | some t => { d with tqOcc := d.tqOcc.modify t (fun n => if more then n + 1 else n - 1) }

/-- HBM bursts of 64 bytes at the stacks that hold an address (R101, R184). -/
def burst (s : State) (pa n : Nat) : State := s.modDie (pa / 0x3000000000) (fun d => { d with bursts := d.bursts + n })

/-- A line leaves the L2 of a die: its registered words are forwarded first (R104, R108), and a dirty one goes back to HBM (R99). -/
def dropLine (s : State) (die set_ : Nat) (x : L2Line) : State :=
  let ws := (List.range 32).map (· + x.line * 32)
  let back : Bool := x.dirty || ws.any (fun w => (s.ownerOf w).isSome)
  let s1 := ws.foldl State.forward s
  let s2 := if back then s1.burst (x.line * 128) 2 else s1
  s2.modDie die (fun d => charge { d with l2 := d.l2.modify set_ (fun ls => ls.filter (fun y => y.line != x.line)) } x.tenant false)

/-- A dirty line of an L2 is written to HBM, and stays (R102). -/
def cleanLine (s : State) (die pa : Nat) : State :=
  let k := s.l2Place die pa
  if ((s.die k.1).l2.get k.2).any (fun x => x.line == pa / 128 && x.dirty) then
    (s.burst pa 2).modDie k.1 (fun d => { d with l2 := d.l2.modify k.2 (fun ls =>
      ls.map (fun x => if x.line = pa / 128 then { x with dirty := false } else x)) })
  else s

/-- The lines that n bytes touch, by their first addresses. -/
def linesAt (pa n : Nat) : List Nat :=
  ((List.range (n / 128 + 2)).map (fun i => pa / 128 * 128 + 128 * i)).filter (· < pa + n)

/-- A unit of a die asks a home for a line: a flit, where it is not the line that the unit's step has asked for just before (R184). -/
def countLine (s : State) (die pa : Nat) : State :=
  s.modDie die (fun d => if d.lastLine = pa / 128 + 1 then d else { d with lines := d.lines + 1, lastLine := pa / 128 + 1 })

/-- One burst for the 64 bytes of an address, where it is not the one made just before. -/
def countBurst (s : State) (pa : Nat) : State :=
  s.modDie (pa / 0x3000000000) (fun d =>
    if d.lastBurst = pa / 64 + 1 then d else { d with bursts := d.bursts + 1, lastBurst := pa / 64 + 1 })

/-- An access at .sys goes to HBM; dirty words that a load reads are written there first (R102). -/
def useSys (s : State) (die pa n : Nat) (wr : Bool) : State :=
  let s1 := (linesAt pa n).foldl (fun s a => s.countLine die a) s
  (if wr then s1 else (linesAt pa n).foldl (fun s a => s.cleanLine die a) s1).burst pa ((n + 63) / 64)

/-- An access performed at the home uses the line of its address: the line is the most recently used one of its set, filled from HBM
and allocated for a tenant when it was not there (R99, R107, R108); an access of level .st marks it evict-first (R102), and a write
makes it dirty.  An address of a shared range has no line; it is accessed at .sys (R197). -/
def useLine (s0 : State) (die pa : Nat) (tenant : Option Nat) (first wr : Bool) : State :=
  if s0.shared pa then s0.useSys die pa 1 wr
  else
    let s := s0.countLine die pa
    let k := s.l2Place die pa
    let ls := (s.die k.1).l2.get k.2
    match ls.find? (fun x => x.line == pa / 128) with
    | some x =>
      s.modDie k.1 (fun d => { d with l2 := d.l2.modify k.2 (fun ls =>
        { x with first := x.first || first, dirty := x.dirty || wr } :: ls.filter (fun y => y.line != x.line)) })
    | none =>
      let s1 := if ls.length < 16 then s
        else match l2Victim (s.die k.1) ls with | some v => s.dropLine k.1 k.2 v | none => s
      (s1.burst pa 2).modDie k.1 (fun d =>
        charge { d with l2 := d.l2.modify k.2 (fun ls => { line := pa / 128, tenant := tenant, first := first, dirty := wr } :: ls) }
          tenant true)

/-- The lines of n bytes. -/
def useLines (s : State) (die pa n : Nat) (tenant : Option Nat) (first wr : Bool) : State :=
  (linesAt pa n).foldl (fun s a => s.useLine die a tenant first wr) s

/-- The stop that is the home of an address for an agent of a die (R181, R195, R197): a slice, by die × 32 + slice, or for a shared
range the memory controller of the stack, by 128 + the stack.  A core's stop is 256 + its number, and 512 + d stands for the
stops of die d's other units. -/
def stopOf (s : State) (die pa : Nat) : Nat :=
  if s.shared pa then 128 + pa / 0x1000000000 else s.homeDie die pa * 32 + s.homeSlice pa

/-- NBND keeps an agent of a die from an address (R196): from its home slice, or that slice, which does not hold the line, from the
die whose stacks do. -/
def blocked (s : State) (die pa : Nat) : Bool :=
  !s.shared pa && (!(s.die die).peers.getLsbD (s.homeDie die pa) ||
    (!s.inL2 die pa && !(s.die (s.homeDie die pa)).peers.getLsbD (pa / 0x3000000000)))

/-- The loop that carries a flit from a die to a home, as the instance of a record (R9, R181, R214): one of the die's 24 Carousel
loops, or one of the 8 package loops. -/
def loopOf (s : State) (die pa : Nat) : Nat :=
  let r := Config.route (512 + die) (s.stopOf die pa)
  if s.homeDie die pa = die then die * 24 + r % 24 else 96 + r % 8

/-- The two die-to-die ports, one of either die, that the static route from a die to a stop of another one uses (R183). -/
def portPair (die to_ stop : Nat) : List LinkId :=
  let n := Config.route (512 + die) stop % 8
  if die = to_ then [] else [.dieToDie die n, .dieToDie to_ n]

/-- The state of a die-to-die port, by its key in the table of links (linkKey). -/
def portState (s : State) (l : LinkId) : LinkState :=
  match l with
  | .dieToDie d n => s.links.get (32 + 8 * d + n)
  | _ => .disabled

/-- The states of the ports on the way from a die to a home (R183). -/
def portsTo (s : State) (die pa : Nat) : List LinkState :=
  (portPair die (s.homeDie die pa) (s.stopOf die pa)).map s.portState

/-- A port is DOWN or DISABLED: what is held on it completes with poison or is dropped (R188). -/
def cutOff (l : LinkState) : Bool := l == .down || l == .disabled

/-- A port is retraining: flits wait at their source stop (R183). -/
def atWork (l : LinkState) : Bool := l == .retraining || l == .training

def portDown (s : State) (die pa : Nat) : Bool := (s.portsTo die pa).any cutOff

def portWaits (s : State) (die pa : Nat) : Bool := !s.portDown die pa && (s.portsTo die pa).any atWork

/-- The home of an address is out of reach of an agent of a die: blocked, lost with its die, or behind a port that is DOWN
(R188, R196, R224). -/
def homeGone (s : State) (die pa : Nat) : Bool :=
  s.blocked die pa || (s.die (s.homeDie die pa)).failed || s.portDown die pa

/-- The record of a request that NBND blocks: LOOP_UE with action A5 (R196, R219). -/
def noteBlocked (s : State) (die pa : Nat) : State :=
  if s.blocked die pa then
    s.log { code := 0x0502, sev := 2, action := 5, eclass := 11, part := s.partOf die, einst := s.loopOf die pa,
            pa := some pa }
  else s

/-- A store of a unit of a die, for an agent: dropped where the home is out of its reach (R196, R224). -/
def dieStore (s : State) (die pa : Nat) (bs : List Byte) (agent : Nat := dieAgent die) : State :=
  if s.homeGone die pa then s.noteBlocked die pa else (s.meetEpoch agent die pa).homeStore pa bs

end State

end Sys2Proof.Machine
end

