-- ==== Sys2Proof/Machine/Walk.lean ====
section
/-! DEFINITION. The Sv57 page table (R132): its entries, the walk through it, and the A bit of a leaf that a walk has reached
(R133). -/

namespace Sys2Proof.Machine

/-- bits(x, lo + n - 1, lo) of a number (R260). -/
def cut (x lo n : Nat) : Nat := x / 2 ^ lo % 2 ^ n

/-- Canonical Sv57: bits [63:57] all equal bit 56 (R95). -/
def canonical (a : DWord) : Bool := cut a.toNat 56 8 == 0 || cut a.toNat 56 8 == 255

/-- An entry that R132 calls malformed, at a level; the reserved encodings of Sv57 are W without R, a leaf of misaligned address, and
A, D or U in an entry that is no leaf (log 32). -/
def malformed (pte level : Nat) : Bool :=
  let leaf := cut pte 1 3 != 0
  cut pte 54 10 != 0 || (cut pte 2 1 == 1 && cut pte 1 1 == 0) || (leaf && 2 < level) || (!leaf && level == 0) ||
  (leaf && cut pte 10 (9 * level) != 0) || (!leaf && (cut pte 4 1 != 0 || cut pte 6 2 != 0))

namespace State

/-- The walk from a table at a level down (R132), for a unit of a die where one is named: the leaf's address, value and level, or the
fault.  An entry that the unit cannot reach comes as poison (R188, R196). -/
def walkFrom (s : State) (die : Option Nat) (va : Nat) : Nat → Nat → Except XFault (Nat × Nat × Nat)
  | 0, _ => .error .unmapped
  | level + 1, table =>
    let a := table + 8 * cut va (12 + 9 * level) 9
    let pte := leNat (s.homeLoad a 8)
    if memTop ≤ a then .error .unmapped
    else if s.poisonedAt a 8 || die.any (fun d => s.homeGone d a) then .error .walkUE
    else if cut pte 0 1 = 0 ∨ malformed pte level then .error .unmapped
    else if cut pte 1 3 ≠ 0 then .ok (a, pte, level)
    else s.walkFrom die va level (cut pte 10 44 * 4096)

/-- The entry at which a walk for a unit of a die is out of reach. -/
def walkCut (s : State) (die va : Nat) : Nat → Nat → Option Nat
  | 0, _ => none
  | level + 1, table =>
    let a := table + 8 * cut va (12 + 9 * level) 9
    let pte := leNat (s.homeLoad a 8)
    if memTop ≤ a then none
    else if s.homeGone die a then some a
    else if s.poisonedAt a 8 || cut pte 0 1 == 0 || malformed pte level || cut pte 1 3 != 0 then none
    else s.walkCut die va level (cut pte 10 44 * 4096)

/-- The entries that a walk for a unit of a die reads. -/
def walkReads (s : State) (die va : Nat) : Nat → Nat → List Nat
  | 0, _ => []
  | level + 1, table =>
    let a := table + 8 * cut va (12 + 9 * level) 9
    let pte := leNat (s.homeLoad a 8)
    if memTop ≤ a || s.homeGone die a then []
    else if s.poisonedAt a 8 || cut pte 0 1 == 0 || malformed pte level || cut pte 1 3 != 0 then [a]
    else a :: s.walkReads die va level (cut pte 10 44 * 4096)

/-- The tenant of a process: that of its contexts. -/
def tenantOfProcess (s : State) (asid : BitVec 16) : Option Nat :=
  (s.ctxs.cells.find? (fun c => c.2.asid == asid && c.2.state != .absent && c.2.state != .destroyed)).map (fun c => c.2.tenant.toNat)

/-- The walker reads the entries on its way at .l2, for the process's tenant (R107, R133). -/
def readPath (s : State) (die : Nat) (asid : BitVec 16) (va : Nat) : State :=
  if s.roots.get asid.toNat = 0 then s
  else (s.walkReads die va 5 (s.roots.get asid.toNat - 1)).foldl (fun s a => s.useLine die a (s.tenantOfProcess asid) false false) s

/-- The walker sets bits of a leaf at its home, as .sys does (R133). -/
def setLeafBits (s : State) (a low : Nat) : State := (s.homeStore a [BitVec.ofNat 8 low]).burst a 1

/-- A walk from a root, given as in State.roots, that a missing permission ends, or a leaf outside the module, has reached the leaf all
the same, and sets A there (R133); one that NBND blocks is recorded (R196). -/
def deniedRoot (s : State) (root : Nat) (die : Option Nat) (va : Nat) (f : XFault) : State :=
  if root = 0 then s
  else if f = .walkUE then
    (match die.bind (fun d => (s.walkCut d va 5 (root - 1)).map (fun a => (d, a))) with
     | some e => s.noteBlocked e.1 e.2
     | none => s)
  else if f ≠ .permission ∧ f ≠ .control then s
  else match s.walkFrom die va 5 (root - 1) with
    | .ok (a, pte, _) => if cut pte 6 1 = 1 then s else s.setLeafBits a (pte % 64 + 64 + cut pte 7 1 * 128)
    | .error _ => s

/-- What a failed walk of a process's table leaves. -/
def denied (s : State) (die : Nat) (asid : BitVec 16) (va : Nat) (f : XFault) : State :=
  (s.readPath die asid va).deniedRoot (s.roots.get asid.toNat) (some die) va f

end State

end Sys2Proof.Machine
end

