-- ==== Sys2Proof/Machine/Ops.lean ====
section
/-! DEFINITION. Troupes (R36–R40), taking a trap (R42, R43, R380), returning from one (R45, R85), and the issue of one
instruction for the threads of a troupe in ascending slot order (R38). -/

namespace Sys2Proof.Machine

/-- What a trap carries: its cause, the code of its record (R88, R89), the address and the physical address when they
are valid (R213), and further bits of DETAIL. -/
structure TrapInfo where
  cause : Cause
  code : Nat
  va : Option Nat := none
  pa : Option Nat := none
  detail : Nat := 0
  deriving DecidableEq, Repr

/-- A trap with its cause's own code and no address. -/
def trapOf (c : Cause) : TrapInfo := { cause := c, code := c.errCode }

/-- A trap with an address (ALIGN, ADDRESS, TARGET). -/
def trapAt (c : Cause) (va : DWord) : TrapInfo := { cause := c, code := c.errCode, va := some va.toNat }

/-- What an instruction does for one thread. -/
inductive TRes
  /-- executed; the thread goes on behind the instruction, or at the header of a target -/
  | done (s : State) (dst : Option DWord)
  /-- executed, and the thread leaves its troupe (EXIT) -/
  | leave (s : State)
  /-- the thread leaves its troupe and blocks at the instruction (R37) -/
  | block (s : State) (why : BlockWhy)
  /-- the troupe is not ready (R39): nothing issues -/
  | hold
  | trap (i : TrapInfo)

/-- Split a list by a key, keeping its order. -/
def classes {β : Type} [DecidableEq β] (f : Nat → β) : Nat → List Nat → List (List Nat)
  | 0, _ => []
  | _, [] => []
  | n + 1, x :: r => (x :: r.filter (fun y => f y = f x)) :: classes f n (r.filter (fun y => f y ≠ f x))

/-- Pieces of 32 from the front (R36). -/
def chunks32 : Nat → List Nat → List (List Nat)
  | 0, _ => []
  | _, [] => []
  | n + 1, x :: r => (x :: r).take 32 :: chunks32 n ((x :: r).drop 32)

/-- A port binding as 8 bytes (R382). -/
def Port.word (p : Port) : Nat :=
  if p.bound then p.va.toNat / 64 * 64 + (if p.push then 2 else 0) + 1 else 0

/-- Put an element into a list that is sorted by a test. -/
def insertBy {β : Type} (le : β → β → Bool) (x : β) : List β → List β
  | [] => [x]
  | y :: r => if le x y then x :: y :: r else y :: insertBy le x r

/-- Sort a list, keeping the order of equal elements. -/
def sortBy {β : Type} (le : β → β → Bool) : List β → List β
  | [] => []
  | x :: r => insertBy le x (sortBy le r)

/-- Pairs of numbers in lexical order. -/
def lexLe (a b : Nat × Nat) : Bool := a.1 < b.1 || (a.1 == b.1 && a.2 ≤ b.2)

namespace State

/-- A group that holds resources: placed, or with a placement under way. -/
def holds (g : Group) : Bool :=
  match g.state with
  | .running | .halting | .halted | .evicted | .retiring => true
  | .pending => g.ctx != 0
  | _ => false

/-! The operand log (R86, R87). -/

/-- The entry stands in the operand log because a part of it faulted (R86). -/
def faulted (a : Access) : Bool := a.pieces.any (fun p => match p.st with | .logged _ => true | _ => false)

/-- The accesses of a thread under way, oldest first, with their numbers. -/
def accsOf (s : State) (t : Nat) : List (Nat × Access) :=
  s.accs.cells.filterMap (fun e => match e.2 with | some a => if a.thr == t then some (e.1, a) else none | none => none)

/-- An engine command that the operand log holds: a matrix command whose operands faulted (R329), or a KVXLAT whose map entry
did (R176). -/
def cmdLogged (c : Cmd) : Bool :=
  c.fault.isSome && (match c.eng, c.i with | .matrix _, _ => true | _, .kvxlat _ _ _ => true | _, _ => false)

/-- The logged engine commands of a thread before a number. -/
def cmdFault (s : State) (t id : Nat) : Bool :=
  s.cmds.cells.any (fun e => e.1 < id && (match e.2 with | some c => c.thr == t && cmdLogged c | none => false))

/-- A FENCE in the operand log (R87). -/
def logFence (a : Access) : Bool := match a.op with | .fence _ _ _ => true | _ => false

/-- An older access or command of the thread has faulted, or a FENCE that was held behind one has not been performed, so this
one is held behind it (R87). -/
def heldBehind (s : State) (t id : Nat) : Bool :=
  (s.accsOf t).any (fun e => e.1 < id && (faulted e.2 || logFence e.2)) || s.cmdFault t id

/-- The operations of a thread that the operand log holds with a flag that a test names: the faulted ones and those held behind
them (R87). -/
def loggedWith (s : State) (t : Nat) (p : Nat → Bool) : List Nat :=
  ((s.accsOf t).filter (fun e => e.2.flag.any p && (faulted e.2 || s.heldBehind t e.1))).map Prod.fst ++
  s.cmds.cells.filterMap (fun e => match e.2 with
    | some a => if a.thr == t && a.flag.any p && (cmdLogged a || s.heldBehind t e.1) then some e.1 else none
    | none => none)

/-- LOGF: the flags held by the thread's log entries (R84). -/
def logFlags (s : State) (t : Nat) : Nat :=
  (List.range 12).foldl (fun acc n => if (s.loggedWith t (· == n)).isEmpty then acc else acc + 2 ^ n) 0

/-- Entries of a context in the operand log: the faulted ones and those held behind them. -/
def logCount (s : State) (c : Nat) : Nat :=
  (s.accs.cells.filter (fun e => match e.2 with
    | some a => keyCtx a.thr == c && (faulted a || s.heldBehind a.thr e.1)
    | none => false)).length +
  (s.cmds.cells.filter (fun e => match e.2 with
    | some a => keyCtx a.thr == c && (cmdLogged a || s.heldBehind a.thr e.1)
    | none => false)).length

/-! What waits for the Ringmaster (R206, R211). -/

/-- The complex is in service (R212). -/
def rmUp (s : State) : Bool := s.rm.state == .running || s.rm.state == .reduced

/-- A fault of a page that is not resident, which the attendant takes to the Ringmaster (R206). -/
def asksRm (f : XFault) : Bool := f == .unmapped || f == .control

/-- An access's fault, and its part. -/
def faultOf (a : Access) : Option (XFault × Piece) :=
  a.pieces.findSome? (fun p => match p.st with | .logged f => some (f, p) | _ => none)

/-- The traps and the faults that wait for the Ringmaster, the traps in the order of their halts. -/
def heldNow (s : State) : List Held :=
  (sortBy lexLe ((s.groups.cells.filter (fun e => e.2.state == .halted && e.2.handler == some 2)).map (fun e => (e.2.haltAt, e.1)))).map
    (fun e => .trap e.2) ++
  s.accs.cells.filterMap (fun e => e.2.bind (fun a => (faultOf a).bind (fun f => if !a.resolved && asksRm f.1 then some (.fault e.1) else none))) ++
  s.cmds.cells.filterMap (fun e => e.2.bind (fun c => c.fault.bind (fun f => if !c.resolved && asksRm f.1 then some (.fault e.1) else none)))

/-- What came in a reset of the Ringmaster is handled in the order of its arrival (R211). -/
def heldInTurn (s : State) (h : Held) : Bool :=
  !s.rm.backlog.contains h || (s.rm.backlog.takeWhile (· != h)).all (fun x => !s.heldNow.contains x)

/-- What has come to wait since the reset takes its place behind what waits already. -/
def queueHeld (s : State) : State :=
  let now := s.heldNow
  let old := s.rm.backlog.filter now.contains
  { s with rm := { s.rm with backlog := old ++ now.filter (fun h => !old.contains h) } }

/-! Thread records, and the copy of a completion into the save area of a context that is in no bank (R81, R84, R382). -/

/-- The state word of a resumption record (R84). -/
def stateWord (s : State) (t : Nat) : Nat :=
  let x := s.thr t
  x.skid.toNat + (if x.gate then 32 else 0) + x.off.toNat * 64 + (if x.phase then 2048 else 0) + x.cause.toNat * 4096 +
    s.logFlags t * 2 ^ 20

/-- The 1,152 bytes of a thread record (R382). -/
def threadRecord (s : State) (t : Nat) : List Byte :=
  let x := s.thr t
  let preds := (List.range 8).foldl (fun acc n => if x.rdP n then acc + 2 ^ n else acc) 0
  leBytes 8 x.hdr.toNat ++ leBytes 8 (s.stateWord t) ++ leBytes 8 x.fva.toNat ++ leBytes 8 x.tpc.toNat ++
  (List.range 64).flatMap (fun n => leBytes 4 (if n < 60 then (x.rdG n).toNat else 0)) ++
  (List.range 16).flatMap (fun n => leBytes 8 (x.rdA n).toNat) ++
  (List.range 16).flatMap (fun n =>
    let w := x.rdW n
    leBytes 32 w.data.toNat ++ [w.s0, w.s1] ++ leBytes 6 w.tag.toNat) ++
  leBytes 8 (x.flagsWord.toNat + preds * 2 ^ 40) ++
  leBytes 8 x.fullG ++ leBytes 8 x.fullW ++
  (List.range 4).flatMap (fun n => leBytes 8 (x.ports.get n).word) ++
  leBytes 8 (x.srstep.toNat + x.fstat.toNat * 2 ^ 32 + x.rmode.toNat * 2 ^ 40) ++
  leBytes 32 0

/-- Where a slot's record lies in the save area of its context. -/
def recordAt (s : State) (t : Nat) : Nat := (s.ctx (keyCtx t)).save + 0x10000 + 1152 * keySlot t

/-- The context is in no bank, so that the Gleaner takes what reaches it (R81). -/
def inArea (x : Ctx) : Bool := x.state == .spilled || x.state == .loading

/-- Bytes of ranges below a limit. -/
def below (rs : List (Nat × Nat)) (limit : Nat) : Nat := rs.foldl (fun n r => n + (min (r.1 + r.2) limit - r.1)) 0

/-- The transfer of a spill in which the record of the i-th occupied slot begins: the records come after the bytes of steps 1 and 2
(R79, R374). -/
def recordTransfer (x : Ctx) (i : Nat) : Nat := (below x.ovPad (2 ^ 20) + below x.ovShare (2 ^ 20) + 1152 * i) / 128

/-- The Gleaner has copied a slot (R374). -/
def copied (x : Ctx) (slot : Nat) : Bool :=
  x.state == .spilling && x.slots.contains slot && recordTransfer x (x.slots.findIdx (· == slot)) < x.passed

/-- A post or completion reached a thread slot: where the Gleaner has copied the slot, it is written into the save area as well
(R81). -/
def settleSlot (s : State) (t : Nat) : State :=
  if inArea (s.ctx (keyCtx t)) || copied (s.ctx (keyCtx t)) (keySlot t) then s.homeStore (s.recordAt t) (s.threadRecord t) else s

/-! Troupes. -/

/-- Issue slot, group and PC of a slot: threads that agree on them may form a troupe (R36). -/
def place (s : State) (c slot : Nat) : Nat × Nat × DWord × BitVec 5 × Bool :=
  let x := s.thr (threadKey c slot)
  (slot % 4, x.group, x.hdr, x.off, x.gate)

def addTroupe (s : State) (c : Nat) (slots : List Nat) (age readyAt : Nat) (first : Option Nat) : State :=
  let s1 := s.modCtx c (fun x =>
    { x with troupes := x.troupes ++ [{ id := s.nextId, slots := slots, age := age, first := first, readyAt := readyAt }] })
  { s1 with nextId := s.nextId + 1 }

/-- Form troupes from slots of a context, by issue slot, group and PC, at most 32 threads each (R36, R37); the first of them
is the one with the lowest slot (R30). -/
def formTroupes (s : State) (c : Nat) (slots : List Nat) (age readyAt : Nat) (first : Option Nat) : State :=
  match (classes (s.place c) slots.length slots).flatMap (fun l => chunks32 l.length l) with
  | [] => s
  | l :: r => r.foldl (fun s l => s.addTroupe c l age readyAt none) (s.addTroupe c l age readyAt first)

/-- Threads that have become runnable form troupes of the cycle, together with those of the same group and PC that were
released in it before (R37). -/
def releaseTroupes (s : State) (c : Nat) (slots : List Nat) : State :=
  let early (tr : Troupe) : Bool := tr.woken && tr.age == s.cycle && tr.readyAt == s.cycle
  let old := ((s.ctx c).troupes.filter early).flatMap Troupe.slots
  let all := s.slotsOf c (fun _ => true) |>.filter (fun k => slots.contains k || old.contains k)
  let s1 := s.modCtx c (fun x => { x with troupes := x.troupes.filter (fun tr => !early tr) })
  (s1.formTroupes c all s.cycle s.cycle none).modCtx c (fun x =>
    { x with troupes := x.troupes.map (fun tr => if tr.slots.any all.contains then { tr with woken := true } else tr) })

/-- Make blocked threads runnable (R37). -/
def wake (s : State) (c : Nat) (slots : List Nat) : State :=
  (slots.foldl (fun s k => s.modThr (threadKey c k) (fun x => { x with run := .runnable })) s).releaseTroupes c slots

/-- The event that a blocked thread waits for has come (R41); queues and barriers release their own waiters. -/
def cleared (s : State) (t : Nat) : BlockWhy → Bool
  | .catchReg gs ws => !someEmpty (s.thr t) gs ws
  | .tags m all => if all then (s.ctx (keyCtx t)).tags &&& m = m else (s.ctx (keyCtx t)).tags &&& m ≠ 0
  | .log => s.logCount (keyCtx t) < 256
  | .gate ids => ids.all (fun id => (s.accs.get id).isNone && (s.cmds.get id).isNone)
  | .fetch id => (s.accs.get id).isNone
  | .queue _ | .barrier _ => false

/-- Wake the threads of a context whose events have come. -/
def wakeCtx (s : State) (c : Nat) : State :=
  let w := (s.threads.cells.filter (fun e => keyCtx e.1 == c && (match e.2.run with
    | .blocked y => s.cleared e.1 y
    | _ => false))).map (fun e => keySlot e.1)
  if w.isEmpty then s else s.wake c w

/-- Wake every thread that a queue blocks. -/
def wakeQueue (s : State) (q : Nat) : State :=
  s.ctxs.keys.foldl (fun s c =>
    let w := s.slotsOf c (fun x => x.run == .blocked (.queue q))
    if w.isEmpty then s else s.wake c w) s

/-- The threads of a group that occupy slots. -/
def groupSlots (s : State) (g : Nat) (p : Thread → Bool) : List Nat :=
  s.slotsOf (s.group g).ctx (fun x => x.group == g && p x)

/-- The group of a thread, in its slot or gone from it. -/
def groupOf (s : State) (t : Nat) : Nat := if ghostGroup t = 0 then (s.thr t).group else ghostGroup t

/-- The record of a trap met by a thread (R213, R217). -/
def trapRec (s : State) (t0 : Nat) (pc : DWord) (i : TrapInfo) (count : Nat) : ErrRec :=
  let t := slotKey t0
  let core := s.coreOf t
  { code := i.code, sev := 2, action := trapAction i.code, eclass := 0, part := s.partOf (coreDie core), einst := core,
    ctx := keyCtx t, slot := keySlot t, gnum := (s.group (s.groupOf t0)).gnum.toNat, pc := pc.toNat, va := i.va, pa := i.pa,
    thread := true, count := count, detail := i.cause.code + i.detail }

/-- The halt of a group is broadcast (R42): blocked threads stop at once, with skid count 0; the others stop with
GROUP_HALTED.  A group already halting or halted has one halt (R43). -/
def startHalt (s : State) (g : Nat) (cause : Byte) (slot : Nat) : State :=
  if (s.group g).state ≠ .running then s
  else
    let c := (s.group g).ctx
    let s1 := (s.groupSlots g (fun x => match x.run with | .blocked _ => true | _ => false)).foldl
      (fun s k => s.modThr (threadKey c k) (fun x => { x with run := .stopped, skid := 0 })) s
    s1.modGroup g (fun x => { x with state := .halting, cause := cause, causeSlot := slot, haltAt := s.cycle, multi := false })

/-- Drop the troupe of these slots. -/
def dropTroupe (s : State) (c : Nat) (slots : List Nat) : State :=
  s.modCtx c (fun x => { x with troupes := x.troupes.filter (fun tr => tr.slots ≠ slots) })

/-- Where the next record of a partition will stand. -/
def recAt (s : State) (part : Nat) : RecAt :=
  { mirror := s.rm.mirror.length, ring := s.ringSlot part, part := part, tail := (s.part part).erq.tail }

/-- A record of the ring has not been consumed. -/
def unread (s : State) (r : RecAt) : Bool :=
  let q := (s.part r.part).erq
  r.ring.isNone || (r.tail - q.head).toNat < (q.tail - q.head).toNat

/-- A record that has been written takes in an event that belongs to it; its LOST bit stays. -/
def amend (s : State) (r : RecAt) (f : ErrRec → ErrRec) : State :=
  match (s.rm.mirror.drop r.mirror).head? with
  | none => s
  | some e =>
    let s1 := { s with rm := { s.rm with mirror := s.rm.mirror.set r.mirror (f e) } }
    match r.ring with
    | none => s1
    | some a => s1.homeStore a ((f e).bytes (leNat (s.homeLoad (a + 0x2C) 1) / 8 % 2 == 1))

/-- Another troupe of the group traps in one cycle: DETAIL[8] is set in the first one's record too (R213), and in the cycle of the halt
the cause is that of the troupe with the lowest first slot (R43). -/
def trapAgain (s : State) (g : Nat) (cause : Byte) (slot : Nat) : State :=
  let s1 := match (s.group g).firstRec with
    | none => s
    | some r => (s.amend r (fun e => { e with detail := e.detail + 256 })).modGroup g (fun x => { x with firstRec := none })
  s1.modGroup g (fun x =>
    if x.state ≠ .halting ∨ x.haltAt ≠ s.cycle then x
    else if slot < x.causeSlot then { x with multi := true, cause := cause, causeSlot := slot }
    else { x with multi := true })

/-- A trap for a translation that failed at issue: the walk has reached its leaf all the same (R133), or is recorded (R196); and one for
a fetch of a line that came as poison: a blocked one is recorded (R196), a flit that failed has been used (R181). -/
def deniedAt (s : State) (c : Nat) (i : TrapInfo) : State :=
  let core := (s.ctx c).core
  let f : Option XFault := if i.code = 0x0201 ∨ i.code = 0x0202 then some .permission else if i.code = 0x0203 then some .walkUE else none
  match f, i.va, i.pa with
  | some f, some va, _ => s.denied (coreDie core) (s.ctx c).asid va f
  | none, _, some pa => (s.noteBlocked (coreDie core) pa).modCore core (fun k => { k with lostBlocks := k.lostBlocks.filter (· != pa / 64) })
  | _, _, _ => s

/-- TAKING A TRAP.  The troupe executes the instruction for none of its threads; each stops with its PC there and skid
count 0; each trapping thread records its cause and faulting address; one record is written for the troupe; the group
halts (R42, R43, R217). -/
def trapTroupe (s : State) (sel : Sel) (traps : List (Nat × TrapInfo)) : State :=
  match traps with
  | [] => s
  | (k0, i0) :: _ =>
    let t0 := threadKey sel.ctx k0
    let g := (s.thr t0).group
    let s1 := sel.slots.foldl (fun s k => s.modThr (threadKey sel.ctx k) (fun x =>
      { x with run := .stopped, skid := 0, cause := 0, tpc := 0 })) s
    let s2 := traps.foldl (fun s e => s.modThr (threadKey sel.ctx e.1) (fun x =>
      { x with cause := BitVec.ofNat 8 e.2.cause.code, fva := BitVec.ofNat 64 (e.2.va.getD 0) })) s1
    let s2 := traps.foldl (fun s e => s.deniedAt sel.ctx e.2) s2
    let g0 := s.group g
    let again := g0.state != .running && g0.trapAt == s.cycle + 1
    let e := s.trapRec t0 (s.thr t0).pc i0 traps.length
    let s3 := s2.log (if again then { e with detail := e.detail + 256 } else e)
    let s4 := (s3.dropTroupe sel.ctx sel.slots).modGroup g (fun x =>
      { x with trapAt := s.cycle + 1, firstRec := if again then x.firstRec else some (s2.recAt e.part) })
    let cause := BitVec.ofNat 8 i0.cause.code
    let slot := sel.slots.headD k0
    if again then s4.trapAgain g cause slot
    else if g0.state = .running then s4.startHalt g cause slot
    else s4

/-- The record of a trap decided after issue.  The threads of one troupe that trap at one instruction have one record, with the lowest
slot and their number (R217): one that traps once the record has been consumed has its own (DESIGN CHOICE, log 8). -/
def lateRecord (s : State) (g batch : Nat) (e : ErrRec) : State :=
  match (s.group g).late.find? (fun r => r.batch == batch && s.unread r.place) with
  | some r => s.amend r.place (fun x =>
      if e.slot < x.slot then { e with count := x.count + 1, time := x.time } else { x with count := x.count + 1 })
  | none => (s.log e).modGroup g (fun x => { x with late := { batch := batch, place := s.recAt e.part } :: x.late })

/-- TAKING A TRAP DECIDED AFTER ISSUE (R380): the issuing thread records cause, address and TPC, and its group halts; no
thread's progress is undone.  A thread that has exited leaves only the record. -/
def trapLate (s : State) (t : Nat) (pc : DWord) (i : TrapInfo) (batch : Nat) : State :=
  let s1 := s.lateRecord (s.groupOf t) batch (s.trapRec t pc i 1)
  match (s.thr t).run with
  | .exited | .free => s1
  | _ =>
    let s2 := s1.modThr t (fun x =>
      { x with cause := BitVec.ofNat 8 i.cause.code, fva := BitVec.ofNat 64 (i.va.getD 0), tpc := pc })
    (s2.startHalt (s.thr t).group (BitVec.ofNat 8 i.cause.code) (keySlot t)).settleSlot t

/-- Hold a late trap until its reply reaches the core; the flag of the command that it ends counts down with it. -/
def laterFlag (s : State) (t : Nat) (pc : DWord) (i : TrapInfo) (flag : Option Nat) (batch : Nat) : State :=
  { s with late := s.late.set s.nextId (some { thr := t, cause := i.cause, code := i.code, pc := pc,
                                               va := i.va.map (BitVec.ofNat 64), pa := i.pa, flag := flag, batch := batch }),
           nextId := s.nextId + 1 }

/-- The same without a flag. -/
def later (s : State) (t : Nat) (pc : DWord) (i : TrapInfo) (batch : Nat) : State := s.laterFlag t pc i none batch

end State

/-- What has come of a troupe's threads so far. -/
structure Issued where
  st : State
  go : List (Nat × Option DWord) := []
  blocked : List (Nat × BlockWhy) := []
  left : List Nat := []
  traps : List (Nat × TrapInfo) := []
  held : Bool := false

/-- One thread more. -/
def Issued.add (op : State → Nat → TRes) (c : Nat) (a : Issued) (k : Nat) : Issued :=
  match op a.st (threadKey c k) with
  | .done s dst => { a with st := s, go := a.go ++ [(k, dst)] }
  | .leave s => { a with st := s, left := a.left ++ [k] }
  | .block s why => { a with st := s, blocked := a.blocked ++ [(k, why)] }
  | .hold => { a with held := true }
  | .trap i => { a with traps := a.traps ++ [(k, i)] }

namespace State

/-- The troupe's parts after an instruction: the part that falls through and one part per target, each with its age; the
fall-through part, or the part with the lowest first slot, keeps the troupe's number and with it the greedy claim (R37,
R40). -/
def regroup (s : State) (c : Nat) (old : Troupe) (header : Bool) (age : Nat) (go : List (Nat × Option DWord)) : State :=
  let slots := go.map Prod.fst
  let parts := classes (fun k => (go.find? (fun e => e.1 == k)).bind Prod.snd) slots.length slots
  let fall := parts.find? (fun l => l.all (fun k => go.any (fun e => e.1 == k && e.2.isNone)))
  let rest := parts.filter (fun l => some l ≠ fall)
  match fall with
  | some l =>
    let first := if header then old.first else none
    let readyAt := if header then old.readyAt else s.cycle + 1
    let s1 := s.modCtx c (fun x =>
      { x with troupes := x.troupes ++ [{ old with slots := l, age := age, first := first, readyAt := readyAt }] })
    rest.foldl (fun s l => s.addTroupe c l age (s.cycle + 3) none) s1
  | none =>
    match rest with
    | [] => s
    | l :: r =>
      let s1 := s.modCtx c (fun x =>
        { x with troupes := x.troupes ++ [{ old with slots := l, age := age, first := none, readyAt := s.cycle + 3 }] })
      r.foldl (fun s l => s.addTroupe c l age (s.cycle + 3) none) s1

/-- The thread leaves the issuing troupe and blocks (R37). -/
def leaveTroupe (s : State) (sel : Sel) (t : Nat) (why : BlockWhy) : State :=
  let s1 := s.modThr t (fun x => { x with run := .blocked why })
  s1.modCtx sel.ctx (fun x => { x with troupes := (x.troupes.map (fun tr =>
    if tr.slots = sel.slots then { tr with slots := tr.slots.filter (· ≠ keySlot t) } else tr)).filter (fun tr =>
      !tr.slots.isEmpty) })

/-- The issue slot remembers the troupe, its first slot and its kernel's policy (R40); a troupe that yields loses the greedy
claim. -/
def noteIssue (s : State) (sel : Sel) (id : Nat) (yields : Bool) : State :=
  let k0 := sel.slots.headD 0
  let robin := (s.kernel (s.kernelOf (threadKey sel.ctx k0))).record.nat 6 1 == 1
  s.modCore sel.core (fun c => { c with islots := c.islots.modify (k0 % 4) (fun i =>
    { i with last := id, lastFirst := k0, greedy := if yields then 0 else id, robin := robin }) })

/-- The threads go on: each PC past the instruction or at its target, skid counted (R42); a header, which takes no parcel of
the clause here, is no instruction issued (R39). -/
def goOn (s : State) (c n : Nat) (go : List (Nat × Option DWord)) : State :=
  go.foldl (fun s e => s.modThr (threadKey c e.1) (fun x =>
    let x := if (s.group x.group).state = .halting ∧ (s.group x.group).haltAt < s.cycle ∧ n ≠ 0 then
        { x with skid := x.skid + 1 } else x
    match e.2 with
    | none => x.advance n
    | some h => x.atHeader h)) s

/-- After an instruction of n parcels has issued for its troupe; n is 0 for a header, which takes no issue cycle: the
troupe keeps its claim and goes on in the same cycle (R39, R40). -/
def finish (s : State) (sel : Sel) (n : Nat) (yields : Bool) (a : Issued) : State :=
  let c := sel.ctx
  let x0 := s.thr (threadKey c (sel.slots.headD 0))
  let old := ((s.ctx c).troupes.find? (fun tr => tr.slots == sel.slots)).getD
    { id := 0, slots := sel.slots, age := s.cycle, first := none, readyAt := 0 }
  let robin := (s.kernel (s.kernelOf (threadKey c (sel.slots.headD 0)))).record.nat 6 1 == 1
  let y := !robin && (yields || (x0.gate && x0.y && x0.lastOf n))
  let s1 := a.blocked.foldl (fun s e => s.modThr (threadKey c e.1) (fun x => { x with run := .blocked e.2 })) a.st
  let s2 := (s1.goOn c n a.go).dropTroupe c sel.slots
  let s3 := s2.regroup c old (n == 0) (if y then s.cycle else old.age) a.go
  if n = 0 then s3 else s3.noteIssue sel old.id y

/-- Threads leave a troupe that waits at a header, and block (R37). -/
def leaveAll (s : State) (sel : Sel) (l : List (Nat × BlockWhy)) : State :=
  (l.foldl (fun (r : State × Sel) e =>
    (r.1.leaveTroupe r.2 (threadKey sel.ctx e.1) e.2, { r.2 with slots := r.2.slots.filter (· ≠ e.1) })) (s, sel)).1

/-- ISSUE.  An instruction of n parcels for the threads of the selected troupe, in ascending slot order.  If any of them
traps, it is executed for none (R42); if any of them must wait for its troupe, nothing issues (R39), and at a header only the
threads that block leave the troupe (R37). -/
def issue (s0 : State) (n : Nat) (yields : Bool) (op : State → Nat → TRes) : Host.Outcome State Fault Refusal :=
  match s0.sel with
  | none => .fault .noTroupe
  | some sel =>
    let s := { s0 with sel := none }
    let a := sel.slots.foldl (Issued.add op sel.ctx) { st := s }
    if !a.traps.isEmpty then .next (s.trapTroupe sel a.traps)
    else if a.held then .next (if n = 0 then s.leaveAll sel a.blocked else s)
    else .next (s.finish sel n yields a)

/-- Release of a stopped thread when its group resumes (R85). -/
def resumeThread (s : State) (t : Nat) : State :=
  s.modThr t (fun x => if x.run = .stopped then { x with run := .runnable, cause := 0, tpc := 0, skid := 0 } else x)

end State

end Sys2Proof.Machine
end

