-- ==== Sys2Proof/Machine/Translate.lean ====
section
/-! DEFINITION. Effective addresses (R95–R98) and their translation (09): the Sv57 walk, the TLBs, and the permissions
of R133. -/

namespace Sys2Proof.Machine

/-- What an access needs of its leaf (R133). -/
inductive Need
  | read | write | both | fetch
  deriving DecidableEq, Repr

def Need.writes : Need → Bool
  | .write | .both => true
  | _ => false

def TlbEntry.size (e : TlbEntry) : Nat := 2 ^ (12 + 9 * e.level)

/-- The physical address of an address in the entry's page. -/
def TlbEntry.at (e : TlbEntry) (va : Nat) : Nat := e.pa + va % e.size

/-- The entry translates this address for this process, with the permissions needed; a write needs D set too. -/
def TlbEntry.serves (e : TlbEntry) (asid : BitVec 16) (va : Nat) (n : Need) : Bool :=
  e.asid == asid && va / e.size * e.size == e.va &&
  match n with
  | .read => e.r
  | .write => e.w && e.d
  | .both => e.r && e.w && e.d
  | .fetch => e.x

def tlbFind (l : List TlbEntry) (asid : BitVec 16) (va : Nat) (n : Need) : Option TlbEntry :=
  l.find? (fun e => e.serves asid va n)

/-- Put an entry in a die TLB (R134): 8 ways; a full set loses the entry filled longest ago (DESIGN CHOICE, log 48). -/
def dieFill (l : List TlbEntry) (e : TlbEntry) : List TlbEntry :=
  let set_ (x : TlbEntry) : Nat := Config.tlbSet x.asid x.va % 1024
  let rest := l.filter (fun x => !(x.asid == e.asid && x.va == e.va))
  match ((rest.filter (fun x => set_ x == set_ e)).drop 7).getLast? with
  | some old => e :: rest.filter (fun x => x != old)
  | none => e :: rest

/-- Put an entry in a TLB of a capacity, in place of one for the same page; a full one gives up the entry filled longest ago (DESIGN
CHOICE, log 48). -/
def tlbFill (l : List TlbEntry) (cap : Nat) (e : TlbEntry) : List TlbEntry :=
  (e :: l.filter (fun x => !(x.asid == e.asid && x.va == e.va))).take cap

/-- The permission bits of a leaf for user mode (R132, R133). -/
def leafAllows (pte : Nat) (n : Need) : Bool :=
  cut pte 4 1 == 1 &&
  match n with
  | .read => cut pte 1 1 == 1
  | .write => cut pte 2 1 == 1
  | .both => cut pte 1 1 == 1 && cut pte 2 1 == 1
  | .fetch => cut pte 3 1 == 1

namespace State

/-- The frame whose record stands for a frame: the first of its 1 GiB page (R137). -/
def firstFrame (s : State) (f : Nat) : Nat := (s.frames.get f).head.getD f

def frame (s : State) (f : Nat) : Frame := s.frames.get (s.firstFrame f)
def modFrame (s : State) (f : Nat) (g : Frame → Frame) : State := { s with frames := s.frames.modify (s.firstFrame f) g }

/-- A store has set D in the leaf of a frame: a BACKED frame is MAPPED again (R138). -/
def dirtied (s : State) (pa level : Nat) : State :=
  let one (s : State) (f : Nat) : State := s.modFrame f (fun x => if x.state = .backed then { x with state := .mapped } else x)
  if level = 2 then (List.range 512).foldl (fun s i => one s (pa / 0x200000 + i)) s else one s (pa / 0x200000)

/-- A walk from a root, given as in State.roots, for a unit of a die where one is named: it sets A, and D for a write, and answers the
translation (R133). -/
def walkRoot (s : State) (root : Nat) (die : Option Nat) (asid : BitVec 16) (va : Nat) (n : Need) : Except XFault (State × TlbEntry) :=
  if root = 0 then .error .unmapped
  else
    match s.walkFrom die va 5 (root - 1) with
    | .error f => .error f
    | .ok (a, pte, level) =>
      if !leafAllows pte n then .error .permission
      else
        let low := pte % 64 + 64 + (if n.writes || cut pte 7 1 == 1 then 128 else 0)
        let s0 := if low = pte % 256 then s else s.setLeafBits a low
        let s1 := if n.writes ∧ cut pte 7 1 = 0 then s0.dirtied (cut pte 10 44 * 4096) level else s0
        let size := 2 ^ (12 + 9 * level)
        let pa := cut pte 10 44 * 4096
        if memTop ≤ pa then .error .control
        else .ok (s1, { asid := asid, level := level, va := va / size * size, pa := pa, r := cut pte 1 1 == 1,
                        w := cut pte 2 1 == 1, x := cut pte 3 1 == 1, d := n.writes || cut pte 7 1 == 1 })

/-- A walk of a process's table. -/
def walk (s : State) (die : Nat) (asid : BitVec 16) (va : Nat) (n : Need) : Except XFault (State × TlbEntry) :=
  (s.readPath die asid va).walkRoot (s.roots.get asid.toNat) (some die) asid va n

/-- A translation that the core TLB or the die TLB serves (R134). -/
def tlbHit (s : State) (core : Nat) (asid : BitVec 16) (va : Nat) (n : Need) : Option (State × Nat) :=
  match tlbFind (s.core core).tlb asid va n with
  | some e => some (s, TlbEntry.at e va)
  | none =>
    match tlbFind (s.die (coreDie core)).tlb asid va n with
    | some e => some (s.modCore core (fun c => { c with tlb := tlbFill c.tlb 128 e }), TlbEntry.at e va)
    | none => none

/-- A walk that fills both TLBs. -/
def walkFill (s : State) (core : Nat) (asid : BitVec 16) (va : Nat) (n : Need) : Except XFault (State × Nat) :=
  match s.walk (coreDie core) asid va n with
  | .error f => .error f
  | .ok (s1, e) =>
    let s2 := s1.modDie (coreDie core) (fun d => { d with tlb := dieFill d.tlb e })
    .ok (s2.modCore core (fun c => { c with tlb := tlbFill c.tlb 128 e }), TlbEntry.at e va)

/-- A translation through the TLBs or by a walk: clause fetches, and every unit that waits for its translation. -/
def translate (s : State) (core : Nat) (asid : BitVec 16) (va : Nat) (n : Need) : Except XFault (State × Nat) :=
  match s.tlbHit core asid va n with
  | some r => .ok r
  | none => s.walkFill core asid va n

/-- A translation through a die's TLB alone (engines, R134). -/
def translateDie (s : State) (die : Nat) (asid : BitVec 16) (va : Nat) (n : Need) : Except XFault (State × Nat) :=
  match tlbFind (s.die die).tlb asid va n with
  | some e => .ok (s, TlbEntry.at e va)
  | none =>
    match s.walk die asid va n with
    | .error f => .error f
    | .ok (s1, e) => .ok (s1.modDie die (fun d => { d with tlb := dieFill d.tlb e }), TlbEntry.at e va)

/-- The same, with what a failed walk leaves (R133). -/
def dieAddr (s : State) (die : Nat) (asid : BitVec 16) (va : Nat) (n : Need) : Except State (State × Nat) :=
  match s.translateDie die asid va n with
  | .ok r => .ok r
  | .error f => .error (s.denied die asid va f)

/-- A translation through a cluster's tile walker (R134): its own 512 entries, then the die's TLB, then a walk. -/
def translateTile (s : State) (cluster : Nat) (asid : BitVec 16) (va : Nat) (n : Need) : Except XFault (State × Nat) :=
  let put (s : State) (e : TlbEntry) : State := { s with walkers := s.walkers.modify cluster (fun l => tlbFill l 512 e) }
  match tlbFind (s.walkers.get cluster) asid va n with
  | some e => .ok (s, TlbEntry.at e va)
  | none =>
    match tlbFind (s.die (cluster / 7)).tlb asid va n with
    | some e => .ok (put s e, TlbEntry.at e va)
    | none =>
      match s.walk (cluster / 7) asid va n with
      | .error f => .error f
      | .ok (s1, e) => .ok (put (s1.modDie (cluster / 7) (fun d => { d with tlb := dieFill d.tlb e })) e, TlbEntry.at e va)

/-- How a failed translation is recorded: cause, code (R88). -/
def xTrap (f : XFault) (va : DWord) : TrapInfo :=
  match f with
  | .unmapped | .control => { cause := .address, code := 0x0201, va := some va.toNat }
  | .permission => { cause := .address, code := 0x0202, va := some va.toNat }
  | .walkUE => { cause := .poison, code := 0x0203, va := some va.toNat }

/-- The window of a tenant on a die (R98): its first byte and its length. -/
def window (s : State) (die tenant : Nat) : Nat × Nat :=
  (((s.die die).winBase.get tenant) * 65536, ((s.die die).winLen.get tenant) * 65536)

/-- Where an effective address lies for a thread, and whether n bytes there lie within the allocation (R95, R96). -/
def locate (s : State) (t : Nat) (ea : DWord) (n : Nat) : Option Place :=
  let g := s.group (s.thr t).group
  let sel := cut ea.toNat 60 4
  let off := cut ea.toNat 0 32
  let core := s.coreOf t
  if sel = 0 ∨ sel = 15 then (if canonical ea then some .virt else none)
  else if cut ea.toNat 32 28 ≠ 0 then none
  else if sel = 8 then (if off + n ≤ g.lane then some (.lane (t * 256 + off)) else none)
  else if sel = 9 then (if off + n ≤ g.padLen then some (.pad (keyCtx t * 2 ^ 20 + g.padBase + off)) else none)
  else if sel = 10 then
    (if off + n ≤ g.cluLen then some (.clus (coreCluster core * 2 ^ 21 + g.cluBase + off)) else none)
  else if sel = 11 then
    let w := s.window (coreDie core) (s.tenantOf t)
    (if off + n ≤ w.2 then some (.dsp (coreDie core * 2 ^ 25 + w.1 + off)) else none)
  else none

end State

end Sys2Proof.Machine
end

