-- ==== Sys2Proof/Machine/Area.lean ====
section
/-! DEFINITION. The thread record of a save area and of the park window (R83, R84, R382), and the copy of a completion into
the save area of a context that is no longer in a bank (R81). -/

namespace Sys2Proof.Machine

namespace State

/-- What a save area's bytes give a thread slot (R382): the record's public fields over the slot's private ones. -/
def readRecord (x : Thread) (b : List Byte) : Thread :=
  let n (o k : Nat) : Nat := leNat ((b.drop o).take k)
  let st := n 8 8
  { x with
    hdr := BitVec.ofNat 64 (n 0 8), skid := BitVec.ofNat 5 st, gate := cut st 5 1 == 1, off := BitVec.ofNat 5 (cut st 6 5)
    phase := cut st 11 1 == 1, cause := BitVec.ofNat 8 (cut st 12 8)
    fva := BitVec.ofNat 64 (n 16 8), tpc := BitVec.ofNat 64 (n 24 8)
    g := (List.range 59).foldl (fun g i => g.set (i + 1) (BitVec.ofNat 32 (n (0x20 + 4 * (i + 1)) 4))) {}
    a := (List.range 16).foldl (fun a i => a.set i (BitVec.ofNat 64 (n (0x120 + 8 * i) 8))) {}
    w := (List.range 16).foldl (fun w i =>
      let o := 0x1A0 + 40 * i
      w.set i { data := BitVec.ofNat 256 (n o 32), s0 := BitVec.ofNat 8 (n (o + 32) 1), s1 := BitVec.ofNat 8 (n (o + 33) 1),
                tag := BitVec.ofNat 6 (n (o + 34) 1) }) {}
    flags := (List.range 12).foldl (fun f i => f.set i (BitVec.ofNat 3 (cut (n 0x420 8) (3 * i) 3))) {}
    p := (List.range 7).foldl (fun p i => p.set (i + 1) (cut (n 0x420 8) (41 + i) 1 == 1)) {}
    gEmpty := (List.range 59).foldl (fun e i => e.set (i + 1) (cut (n 0x428 8) (i + 1) 1 == 0)) {}
    wEmpty := (List.range 16).foldl (fun e i => e.set i (cut (n 0x430 8) i 1 == 0)) {}
    ports := (List.range 4).foldl (fun p i =>
      let v := n (0x438 + 8 * i) 8
      p.set i (if cut v 0 1 == 1 then
        { bound := true, push := cut v 1 1 == 1, va := BitVec.ofNat 64 (v / 64 * 64),
          q := if (x.ports.get i).va == BitVec.ofNat 64 (v / 64 * 64) then (x.ports.get i).q else 0
          gen := if (x.ports.get i).va == BitVec.ofNat 64 (v / 64 * 64) then (x.ports.get i).gen else 0 } else {})) {}
    srstep := BitVec.ofNat 32 (n 0x458 4), fstat := BitVec.ofNat 5 (cut (n 0x45C 4) 0 5)
    rmode := BitVec.ofNat 2 (cut (n 0x45C 4) 8 2) }

/-- The ranges in common of two lists of ranges, in ascending order. -/
def common (xs ys : List (Nat × Nat)) : List (Nat × Nat) :=
  sortBy lexLe ((xs.flatMap (fun x => ys.map (fun y =>
    (max x.1 y.1, min (x.1 + x.2) (y.1 + y.2) - max x.1 y.1)))).filter (fun r => r.2 != 0))

/-- The byte offsets of ranges. -/
def spanBytes (rs : List (Nat × Nat)) : List Nat := rs.flatMap (fun r => (List.range r.2).map (· + r.1))

/-- The pad allocations of a context's groups, and their parts of the core's share of cluster memory, which the groups of one unit have
in common (R97, R381). -/
def padSpans (s : State) (c : Nat) : List (Nat × Nat) :=
  s.groups.cells.filterMap (fun e => if holds e.2 ∧ e.2.ctx = c ∧ c ≠ 0 ∧ e.2.padLen ≠ 0 then some (e.2.padBase, e.2.padLen) else none)

def shareSpans (s : State) (c : Nat) : List (Nat × Nat) :=
  (s.groups.cells.filterMap (fun e =>
    if holds e.2 ∧ e.2.ctx = c ∧ c ≠ 0 ∧ e.2.cluLen ≠ 0 then some (e.2.cluBase / 8, e.2.cluLen / 8) else none)).eraseDups

/-- An offset in a core's share of cluster memory, for a byte of the core's cluster that lies in it (R97). -/
def shareOff (core a : Nat) : Option Nat :=
  let p := a % 2 ^ 21
  if p / 256 % 8 = core % 8 then some (p / 2048 * 256 + p % 256) else none

/-- The access must wait for the Gleaner (R80): a byte of it lies in the active and in the spilling context's allocations, and
has not been passed. -/
def gleanerHolds (s : State) (core : Nat) (pl : Place) (n : Nat) : Bool :=
  let k := s.core core
  let x := s.ctx (k.ctxIn k.shadowBank)
  let waits (rs : List (Nat × Nat)) (start b len : Nat) : Bool :=
    below rs (b + len) != below rs b && 128 * x.passed < start + below rs (b + len)
  if x.state ≠ .spilling then false
  else match pl with
    | .pad a => waits x.ovPad 0 (a % 2 ^ 20) n
    | .clus a =>
      let m := 256 - a % 256
      [(a, min n m), (a + m, n - m)].any (fun e => e.2 != 0 && match shareOff core e.1 with
        | some q => waits x.ovShare (below x.ovPad (2 ^ 20)) q e.2
        | none => false)
    | _ => false

/-- The Gleaner has passed a byte of a spill's first part: the byte's place in that order, if it has one. -/
def gleaned (x : Ctx) (rs : List (Nat × Nat)) (start b : Nat) : Bool :=
  x.state == .spilling && below rs (b + 1) != below rs b && start + below rs b < 128 * x.passed

/-- Where in the save area of its context a local byte stands that a completion must write there too (R81, R382). -/
def areaByte (s : State) (c : Nat) (pl : Place) : Option Nat :=
  let x := s.ctx c
  match pl with
  | .lane n => if inArea x || copied x (n / 256 % 1024) then some (x.save + 0x130000 + (n - c * 262144)) else none
  | .pad n =>
    let p := n % 2 ^ 20
    if inArea x || gleaned x x.ovPad 0 p then some (x.save + 0x190000 + p) else none
  | .clus n =>
    match shareOff x.core n with
    | some q => if inArea x || gleaned x x.ovShare (below x.ovPad (2 ^ 20)) q then some (x.save + 0x250000 + q) else none
    | none => none
  | _ => none

/-- Arrival tags of a context that is in no bank stand in its save area too (R81). -/
def settleTags (s : State) (c : Nat) : State :=
  let x := s.ctx c
  if inArea x then s.homeStore (x.save + 0x300) (leBytes 8 x.tags.toNat) else s

/-- Port bindings that a record gives by their descriptors alone name the queues there (R65, R382, log 9). -/
def findPorts (s : State) (t : Nat) : State :=
  (List.range 4).foldl (fun s i =>
    let p := (s.thr t).ports.get i
    if !p.bound || p.q != 0 then s
    else match s.translate (s.coreOf t) (s.ctx (keyCtx t)).asid p.va.toNat .read with
      | .ok (s1, pa) => s1.modThr t (fun x => { x with ports := x.ports.set i { p with q := pa } })
      | .error f => s.denied (coreDie (s.coreOf t)) (s.ctx (keyCtx t)).asid p.va.toNat f) s

/-- Bytes of a thread record take other values (R84, R207): SKID and LOGF keep their values, and a thread that is moved to
another instruction waits for no barrier there. -/
def parkBytes (s : State) (t off : Nat) (bs : List Byte) : State :=
  let x := s.thr t
  let b := s.threadRecord t
  let y := readRecord x (b.take off ++ bs ++ b.drop (off + bs.length))
  (s.setThr t { y with skid := x.skid, sync := if y.pc = x.pc then x.sync else none }).findPorts t

/-- The address of the trap window on a halted group (R92): 4 KiB at a canonical address. -/
def windowVa (g : Nat) : Nat := (Config.trapWindow g).toNat % 2 ^ 56 / 4096 * 4096

/-- Bytes of the trap window of a group: the action word at offset 0, and record bytes where the implementation puts them; the
rest is free. -/
def windowByte (s : State) (g off : Nat) : Byte :=
  if off < 4 then byteOf (s.group g).action off
  else match Config.windowPlace off with
    | some (k, b) =>
      let t := threadKey (s.group g).ctx k
      if (s.thr t).group = g then (s.threadRecord t).getD b 0 else byteOf (Config.freeWord (s.fresh + off)) 0
    | none => byteOf (Config.freeWord (s.fresh + off)) 0

/-- One byte written through the window; a record is written only while its thread is STOPPED, as in the park window (R207). -/
def windowPut (s : State) (g off : Nat) (v : Byte) : State :=
  if off < 4 then
    s.modGroup g (fun x => { x with action := wordOf (((leBytes 4 x.action.toNat).take off) ++ [v] ++ (leBytes 4 x.action.toNat).drop (off + 1)) })
  else match Config.windowPlace off with
    | some (k, b) =>
      let t := threadKey (s.group g).ctx k
      if (s.thr t).group = g ∧ (s.thr t).run = .stopped ∧ b < 1152 then s.parkBytes t b [v] else s
    | none => s

def windowStore (s : State) (n : Nat) (bs : List Byte) : State :=
  (bs.zip (List.range bs.length)).foldl (fun s e => s.windowPut (n / 4096) (n % 4096 + e.2) e.1) s

/-- The access of a trap service group at its window (R92). -/
def windowOf (s : State) (t : Nat) (ea : DWord) (n : Nat) : Option Nat :=
  let g := (s.group (s.thr t).group).serves
  let w := windowVa g
  if g ≠ 0 ∧ w ≤ ea.toNat ∧ ea.toNat + n ≤ w + 4096 then some (g * 4096 + (ea.toNat - w)) else none

/-- A context that replays and completes into a bank (R88): one that is ACTIVE. -/
def replays (s : State) (t : Nat) : Bool := (s.ctx (keyCtx t)).state == .active

end State

end Sys2Proof.Machine
end

