-- ==== Sys2Proof/Machine/Budget.lean ====
section
/-! DEFINITION. Activity budgets (R184): what a class may inject in a period, and their registers. -/

namespace Sys2Proof.Machine

/-- What a request needs of a budget (R184): on a die, under a key (class × 64 + stop for injections, 512 + class for HBM bursts), how
many, and the limit of a period, none for no limit. -/
structure BudgetNeed where
  die : Nat
  key : Nat
  count : Nat
  limit : Option Nat

namespace State

/-- The HBM bursts that a step has made on a die, and the 128-byte flits that it has sent for a unit of one: one for each line that it
asks a home for, and at least one. -/
def made (s t : State) (q : Nat) : Nat := (t.die q).bursts - (s.die q).bursts
def flitsSent (s t : State) (die : Nat) : Nat := max 1 ((t.die die).lines - (s.die die).lines)

/-- What a step to t needs of the budgets of a class: injections at its stop, and bursts on the dies whose stacks make them. -/
def needs (s t : State) (die cls stop : Nat) : List BudgetNeed :=
  let d := s.die die
  { die := die, key := cls * 64 + stop, count := s.flitsSent t die,
    limit := if d.bgtLoop.get cls < 1024 then some (d.bgtLoop.get cls) else none } ::
  ((List.range 4).filter (fun q => s.made t q != 0)).map (fun q =>
    { die := q, key := 512 + cls, count := s.made t q,
      limit := if (s.die q).bgtHbm.get cls < 0x7FF then some (64 * (s.die q).bgtHbm.get cls) else none })

/-- The requests that still wait for a budget, oldest first: those tried in this cycle or the one before. -/
def waiting (s : State) (n : BudgetNeed) : List Nat :=
  (((s.die n.die).queue.get n.key).filter (fun e => s.cycle ≤ e.2 + 1)).map Prod.fst

/-- A request is the first that waits for a budget: none passes another of its class (R184). -/
def isNext (s : State) (id : Nat) (n : BudgetNeed) : Bool := (s.waiting n).head?.all (· == id)

/-- What earlier periods have granted a request. -/
def grantOf (s : State) (id : Nat) (n : BudgetNeed) : Nat :=
  let g := (s.die n.die).granted.get n.key
  if g.1 = id then g.2 else 0

/-- What the running period and earlier ones leave a request. -/
def left (s : State) (id : Nat) (n : BudgetNeed) : Nat :=
  n.limit.elim n.count (fun l => (l - (s.die n.die).used.get n.key) + s.grantOf id n)

/-- A request has the budget for what it needs. -/
def affords (s : State) (id : Nat) (n : BudgetNeed) : Bool := n.limit.isNone || (s.isNext id n && n.count ≤ s.left id n)

/-- A request takes what it needs; what earlier periods granted it is part of that. -/
def take (s : State) (id : Nat) (u : State) (n : BudgetNeed) : State :=
  u.modDie n.die (fun d => { d with used := d.used.modify n.key (· + (n.count - s.grantOf id n)),
                                    granted := if s.grantOf id n = 0 then d.granted else d.granted.set n.key (0, 0),
                                    queue := d.queue.modify n.key (fun l => l.filter (fun e => e.1 != id)) })

/-- A cycle in which an injection of a class waits for budget (STALL). -/
def stalled (s : State) (die cls : Nat) : State :=
  if (s.die die).stallAt.get cls = s.cycle + 1 then s
  else s.modDie die (fun d => { d with stall := d.stall.set cls (min 65535 (d.stall.get cls + 1)), stallAt := d.stallAt.set cls (s.cycle + 1) })

/-- A request waits in its place; the first one takes what the running period still has, so that one of more than a period's budget
is spread over several. -/
def waitFor (s : State) (id cls : Nat) (n : BudgetNeed) : State :=
  match n.limit with
  | none => s
  | some l =>
    let ids := s.waiting n
    let tried (d : Die) (i : Nat) : Nat := if i = id then s.cycle else ((d.queue.get n.key).find? (fun e => e.1 == i)).elim s.cycle Prod.snd
    let s1 := s.modDie n.die (fun d =>
      let d1 := { d with queue := d.queue.set n.key ((if ids.contains id then ids else ids ++ [id]).map (fun i => (i, tried d i))) }
      if s.isNext id n && !s.affords id n then
        { d1 with granted := d.granted.set n.key (id, s.grantOf id n + (l - d.used.get n.key)), used := d.used.set n.key (max l (d.used.get n.key)) }
      else d1)
    if s.affords id n then s1 else s1.stalled n.die cls

/-- INJECTION.  A step by which a request, with its number, injects for a class at a stop is counted against its budget; with not enough
left it waits, and STALL counts. -/
def inject (s : State) (die cls stop id : Nat) (moved : State → Bool) (k : State → State) : State :=
  let t := k { s with dies := s.dies.mapCells (fun _ d => { d with lastLine := 0, lastBurst := 0 }) }
  let ns := s.needs t die cls stop
  if !moved t then t
  else if ns.all (s.affords id) then ns.foldl (s.take id) t
  else ns.foldl (fun u n => u.waitFor id cls n) s

/-- BUDGET_PERIOD: a period runs from each cycle c with c mod 1,024 = 0. -/
def newPeriod (s : State) (die : Nat) : State :=
  if s.cycle % 1024 = 0 then s.modDie die (fun d => { d with used := {} }) else s

/-- BGT_CLASS_WRITE: LOOP above 1,024 is discarded whole; class 6 keeps at least 64. -/
def writeBudget (s : State) (die cls : Nat) (v : DWord) : State :=
  let loop := v.toNat % 2 ^ 11
  let hbm := v.toNat / 2 ^ 16 % 2 ^ 11
  let least (n : Nat) : Nat := if cls = 6 then max 64 n else n
  if 4 ≤ die ∨ 8 ≤ cls ∨ 1024 < loop then s
  else s.modDie die (fun d => { d with bgtLoop := d.bgtLoop.set cls (least loop), bgtHbm := d.bgtHbm.set cls (least hbm) })

/-- What a read of BGT_CLASS_n returns. -/
def budgetWord (s : State) (die cls : Nat) : DWord :=
  let d := s.die die
  BitVec.ofNat 64 (d.stall.get cls * 2 ^ 32 + d.bgtHbm.get cls * 2 ^ 16 + d.bgtLoop.get cls)

/-- BGT_CLASS_READ: STALL is cleared. -/
def readBudget (s : State) (die cls : Nat) : State := s.modDie die (fun d => { d with stall := d.stall.set cls 0 })

end State

def execBudgetPeriod (die : Nat) (s : State) : Host.Outcome State Fault Refusal := .next (s.newPeriod die)
def execBgtClassWrite (die cls : Nat) (v : DWord) (s : State) : Host.Outcome State Fault Refusal := .next (s.writeBudget die cls v)
def execBgtClassRead (die cls : Nat) (s : State) : Host.Outcome State Fault Refusal := .next (s.readBudget die cls)

end Sys2Proof.Machine
end

