-- ==== Sys2Proof/Machine/Access.lean ====
section
/-! DEFINITION. Loads, stores and atomics between issue and completion (07, 08, 20): the store queue, the load pipe, L1 and
its registrations, the home, page walks and the operand log, and when a thread's operations count as performed
(R110, R112). -/

namespace Sys2Proof.Machine

/-- The fields of a handle (R345). -/
def handleCore (h : DWord) : Nat := cut h.toNat 56 8
def handleIdx (h : DWord) : Nat := cut h.toNat 44 12
def handleGen (h : DWord) : Nat := cut h.toNat 32 12

/-- A piece of n bytes at an address, before translation. -/
structure Want where
  va : DWord
  place : Place
  len : Nat
  pos : Nat
  data : List Byte := []

def AccOp.isLoad : AccOp → Bool
  | .load | .rmw _ _ | .cas _ _ => true
  | _ => false

def AccOp.isStore : AccOp → Bool
  | .store | .tset _ | .tclr _ => true
  | _ => false

/-- What the access needs of its leaf (R133). -/
def AccOp.need : AccOp → Need
  | .store | .tset _ | .tclr _ => .write
  | .rmw _ _ | .cas _ _ => .both
  | .fetch => .fetch
  | _ => .read

def Piece.isDone (p : Piece) : Bool := p.st == .done

/-- The piece has not left the store queue. -/
def Piece.waits (p : Piece) : Bool :=
  match p.st with
  | .queued | .walk | .logged _ => true
  | _ => false

/-- The piece may leave the store queue, or waits there for its page walk; a faulted one stands in the operand log. -/
def Piece.ahead (p : Piece) : Bool :=
  match p.st with
  | .queued | .walk => true
  | _ => false

def Access.fixed (a : Access) : Bool := a.pieces.all Piece.isDone

/-- Store-queue entries that an access takes (R304): one per element of a SCATTER, one otherwise. -/
def Access.entries (a : Access) : Nat :=
  if !a.op.isStore then 0
  else match a.dst with
    | .elems _ _ _ => (a.pieces.filter Piece.waits).length
    | _ => if a.pieces.any Piece.waits then 1 else 0

/-- Replace one piece of a list. -/
def setPiece : List Piece → Nat → Piece → List Piece
  | [], _, _ => []
  | _ :: r, 0, q => q :: r
  | p :: r, n + 1, q => p :: setPiece r n q

namespace State

def setAcc (s : State) (id : Nat) (a : Option Access) : State := { s with accs := s.accs.set id a }

/-- Entries of a thread's store queue in use (R304). -/
def queued (s : State) (t : Nat) : Nat := (s.accsOf t).foldl (fun n e => n + e.2.entries) 0

/-- The fewest cycles of a load at a physical address (R18): from L1, from the L2 of its own die or of another one, or from
HBM. -/
def loadFrom (s : State) (core : Nat) (lv : Level) (pa len : Nat) : Nat :=
  let die := coreDie core
  if lv = .l1 ∧ (wordsOf pa len).all (fun w => (s.l1Word core w).valid) then 24
  else if !s.inL2 die pa || lv == .sys then 520
  else if s.homeDie die pa = die then 130 else 260

/-- Walks under way on a die, for accesses and for commands of engines (R134). -/
def walksOn (s : State) (die : Nat) : Nat :=
  (s.accs.cells.filter (fun e => match e.2 with | some a => a.walkAt.isSome && coreDie a.core == die | none => false)).length +
  (s.cmds.cells.filter (fun e => match e.2 with | some c => c.walkAt.isSome && coreDie c.core == die | none => false)).length

/-- A step from s to t has walked for a unit of a die: a translation has come into its TLB. -/
def walkedOn (s t : State) (die : Nat) : Bool := (t.die die).tlb.any (fun e => !(s.die die).tlb.contains e)

/-- A step from s to t must wait: it walks while all 96 walkers of a die work (R134), or takes a write that a settle holds at its home
(R146). -/
def mustHold (s t : State) : Bool :=
  s.tookHeld t || (List.range 4).any (fun d => 96 ≤ s.walksOn d && 96 ≤ t.walksOn d && s.walkedOn t d)

/-- A step is taken unless it must wait. -/
def orHold (s t : State) : State := if s.mustHold t then s else t

/-- A step of an engine for a command, on a die: where it walks, the walk begins when one of the die's 96 walkers is free, and the
step is taken when the walk has ended, 130 cycles a level later at the earliest (R134). -/
def walking (s : State) (die id : Nat) (k : State → State) : State :=
  let t := k s
  match s.cmds.get id with
  | none => t
  | some c =>
    let failed := match t.cmds.get id with | some d => d.fault.isSome && c.fault.isNone | none => false
    if !s.walkedOn t die && !failed then t
    else match c.walkAt with
      | none => if s.walksOn die < 96 then { s with cmds := s.cmds.set id (some { c with walkAt := some s.cycle }) } else s
      | some t0 =>
        let levels := if failed then 1 else 5 - ((t.die die).tlb.head?.elim 4 TlbEntry.level)
        if s.cycle < t0 + 130 * levels then s
        else { t with cmds := t.cmds.modify id (fun o => o.map (fun d => { d with walkAt := none })) }

/-- Some older access of the thread satisfies a test. -/
def older (s : State) (t id : Nat) (p : Access → Bool) : Bool := (s.accsOf t).any (fun e => e.1 < id && p e.2)

/-- Two pieces of one thread touch common bytes: in one local place, at overlapping virtual or physical addresses. -/
def overlap (p q : Piece) : Bool :=
  let meet (a b : Nat) : Bool := a < b + q.len && b < a + p.len
  match p.place, q.place with
  | .virt, .virt => meet p.va.toNat q.va.toNat || (match p.pa, q.pa with | some a, some b => meet a b | _, _ => false)
  | .lane a, .lane b | .pad a, .pad b | .clus a, .clus b | .dsp a, .dsp b | .win a, .win b => meet a b
  | _, _ => false

/-- The bytes of a load piece that an older store piece covers in full. -/
def forwardFrom (p q : Piece) : Option (List Byte) :=
  let at_ (a b : Nat) : Option (List Byte) :=
    if b ≤ a ∧ a + p.len ≤ b + q.len then some ((q.data.drop (a - b)).take p.len) else none
  match p.place, q.place with
  | .virt, .virt =>
    if q.va.toNat ≤ p.va.toNat ∧ p.va.toNat + p.len ≤ q.va.toNat + q.len then at_ p.va.toNat q.va.toNat
    else match p.pa, q.pa with
      | some a, some b => at_ a b
      | _, _ => none
  | .lane a, .lane b | .pad a, .pad b | .clus a, .clus b | .dsp a, .dsp b | .win a, .win b => at_ a b
  | _, _ => none

/-- A part without a translation may lie where another one does, at another virtual address of the same page. -/
def mayAlias (p q : Piece) : Bool :=
  let a := p.va.toNat % 4096
  let b := q.va.toNat % 4096
  p.place == .virt && q.place == .virt && (p.pa.isNone || q.pa.isNone) && a < b + q.len && b < a + p.len

/-- A .l1 store of whole aligned words registers; the narrower and the unaligned ones are performed at the home (R102). -/
def registers (s : State) (lv : Level) (p : Piece) (whole : Bool) : Bool :=
  match p.pa with
  | some pa => lv == .l1 && pa % 4 == 0 && p.len % 4 == 0 && whole && !s.shared pa
  | none => false

/-- Every piece of a .l1 block store covers whole words; if one does not, the store is performed whole as .l2 (R102). -/
def wholeWords (a : Access) : Bool :=
  match a.pieces.head?, a.pieces.getLast? with
  | some p, some q => p.va.toNat % 4 == 0 && (q.va.toNat + q.len) % 4 == 0
  | _, _ => true

/-- A store piece is on its way to be performed at its home, and not as a registration. -/
def goesHome (s : State) (p : Piece) : Bool :=
  match p.st with
  | .sent k => (s.regns.get k).isNone
  | _ => false

/-- A store piece that still supplies later loads of its thread: in the queue, or on its way to be performed at the home. -/
def supplies (s : State) (a : Access) (p : Piece) : Bool :=
  a.op == .store && (p.waits || s.goesHome p)

/-- What the thread's own store queue says to a load piece: nothing, the bytes, or wait (R117, R304).  The youngest older store
decides; one that stands in L1 already answers from there. -/
inductive Queued
  | nothing
  | bytes (bs : List Byte)
  | wait
  deriving DecidableEq, Repr

/-- A store that stands in L1 already, and covers only a part of a load whose other bytes an older one on its way supplies, makes the load
wait for that one. -/
def ownStores (s : State) (t id : Nat) (p : Piece) : Queued :=
  (s.accsOf t).foldl (fun r e =>
    if e.1 < id then
      e.2.pieces.foldl (fun r q =>
        if e.2.op ≠ .store then r
        else if !overlap p q then (if q.waits && mayAlias p q then .wait else r)
        else if s.supplies e.2 q then
          match forwardFrom p q with
          | some bs => .bytes bs
          | none => .wait
        else match q.st with
          | .sent _ => if (forwardFrom p q).isSome then .nothing else (match r with | .nothing => .nothing | _ => .wait)
          | _ => r) r
    else r) .nothing

/-- The fewest cycles from the issue of a load or an atomic to its completion (R18, R97, R311); all else only lengthens them.  A load
that its thread's own store queue serves takes as long as one that hits L1 (R304). -/
def loadCycles (s : State) (t id core : Nat) (op : AccOp) (lv : Level) (ps : List Piece) : Nat :=
  if !op.isLoad then 1
  else ps.foldl (fun n p => max n (match p.place with
    | .lane _ => 8
    | .pad _ | .win _ => 14
    | .clus a => if a / 256 % 8 = core % 8 then 14 else 36
    | .dsp _ => 110
    | .virt => match p.pa with
      | none => 24
      | some pa =>
        if op ≠ .load then (if lv == .sys then 520 else if s.homeDie (coreDie core) pa = coreDie core then 130 else 260)
        else match s.ownStores t id p with
          | .bytes _ => 24
          | _ => s.loadFrom core lv pa p.len)) 1

/-- Put an access under way: each piece translated by a TLB hit, or waiting for a walk. -/
def startAccess (s : State) (t : Nat) (op : AccOp) (lv : Level) (dst : Dst) (ws : List Want) (flag : Option Nat)
    (pc : DWord) : State :=
  let core := s.coreOf t
  let asid := (s.ctx (keyCtx t)).asid
  let r := ws.foldl (fun (acc : State × List Piece) w =>
    let p : Piece := { place := w.place, va := w.va, pa := none, len := w.len, pos := w.pos, data := w.data,
                       poisoned := false, st := .queued }
    if w.place ≠ .virt then (acc.1, acc.2 ++ [p])
    else match acc.1.tlbHit core asid w.va.toNat op.need with
      | some (s1, pa) => (s1, acc.2 ++ [{ p with pa := some pa }])
      | none => (acc.1, acc.2 ++ [{ p with st := .walk }])) (s, [])
  let a : Access := { thr := t, core := core, op := op, lv := lv, dst := dst, pieces := r.2, flag := flag, pc := pc,
                      asid := asid, resolved := false, discarded := false, batch := s.issueOf t, due := s.cycle + s.loadCycles t s.nextId core op lv r.2,
                      walkAt := if r.2.any (fun p => p.st == .walk) && s.walksOn (coreDie core) < 96 then some s.cycle else none }
  (r.1.setAcc s.nextId (some a)).takeId.2

/-- The bytes of a local place. -/
def localLoad (s : State) (pl : Place) (n : Nat) : List Byte :=
  match pl with
  | .virt => []
  | .lane a => s.lane.bytes a n
  | .pad a => s.pad.bytes a n
  | .clus a => s.clus.bytes a n
  | .dsp a => s.dsp.bytes a n
  | .win a => (List.range n).map (fun i => s.windowByte (a / 4096) (a % 4096 + i))

/-- The first byte of a local place in one numbering of all local bytes; words are numbered by a quarter of it. -/
def localByte (pl : Place) : Nat :=
  match pl with
  | .virt => 0
  | .lane a => a
  | .pad a => 2 ^ 60 + a
  | .clus a => 2 * 2 ^ 60 + a
  | .dsp a => 3 * 2 ^ 60 + a
  | .win a => 4 * 2 ^ 60 + a

/-- Some word of n bytes of a local place is poisoned (R221). -/
def localPoison (s : State) (pl : Place) (n : Nat) : Bool := (wordsOf (localByte pl) n).any (fun w => s.lpoison.get w)

/-- A store of a local place: a store of all four bytes of a word clears its poison (R221). -/
def localStore (s : State) (pl : Place) (bs : List Byte) : State :=
  let a := localByte pl
  let s1 := (wordsOf a bs.length).foldl (fun s w =>
    if a ≤ 4 * w ∧ 4 * w + 4 ≤ a + bs.length then { s with lpoison := s.lpoison.set w false } else s) s
  match pl with
  | .virt => s
  | .lane a => { s1 with lane := s1.lane.store a bs }
  | .pad a => { s1 with pad := s1.pad.store a bs }
  | .clus a => { s1 with clus := s1.clus.store a bs }
  | .dsp a => { s1 with dsp := s1.dsp.store a bs }
  | .win a => s1.windowStore a bs

/-- The place n bytes further on. -/
def placeAfter (pl : Place) (n : Nat) : Place :=
  match pl with
  | .virt => .virt
  | .lane a => .lane (a + n)
  | .pad a => .pad (a + n)
  | .clus a => .clus (a + n)
  | .dsp a => .dsp (a + n)
  | .win a => .win (a + n)

/-- Bytes from a local place cut where a core's share of cluster memory ends: the parts, each with its offset. -/
def shareParts (pl : Place) (bs : List Byte) : List (Place × List Byte) :=
  match pl with
  | .clus a =>
    let m := 256 - a % 256
    if bs.length ≤ m then [(pl, bs)] else [(pl, bs.take m), (.clus (a + m), bs.drop m)]
  | _ => [(pl, bs)]

/-- A store of a thread of a context at a local place: a byte that the Gleaner has taken out of the core is written in the save
area too, and only there when its cluster memory is no longer the context's (R81). -/
def putLocal (s : State) (c : Nat) (pl : Place) (bs : List Byte) : State :=
  (shareParts pl bs).foldl (fun s e =>
    match s.areaByte c e.1 with
    | none => s.localStore e.1 e.2
    | some a =>
      let s1 := s.homeStore a e.2
      match e.1 with
      | .clus _ => if inArea (s.ctx c) then s1 else s1.localStore e.1 e.2
      | _ => s1.localStore e.1 e.2) s

/-- Bytes of a local place as a thread of a context reads them. -/
def getLocal (s : State) (c : Nat) (pl : Place) (n : Nat) : List Byte :=
  match pl with
  | .clus _ =>
    if inArea (s.ctx c) then (List.range n).flatMap (fun i =>
      match s.areaByte c (placeAfter pl i) with
      | some a => s.homeLoad a 1
      | none => s.localLoad (placeAfter pl i) 1)
    else s.localLoad pl n
  | _ => s.localLoad pl n

/-- What a store into a local memory that other cores reach, and a load of it, hand on of settle epochs (R115). -/
def placeAgent : Place → Option Nat
  | .clus a => some (clusterAgent (a / 2 ^ 21))
  | .dsp a => some (dieAgent (a / 2 ^ 25))
  | _ => none

def leaveEpoch (s : State) (core : Nat) (pl : Place) : State := (placeAgent pl).elim s (s.passEpoch core)
def takeEpoch (s : State) (core : Nat) (pl : Place) : State := (placeAgent pl).elim s (fun a => s.passEpoch a core)

/-- A part of an access of the active context waits for the Gleaner (R80). -/
def gleanerBars (s : State) (t core : Nat) (p : Piece) : Bool :=
  (s.ctx (keyCtx t)).state == .active && s.gleanerHolds core p.place p.len

/-- Two home blocks have one stop for the agents of a die. -/
def sameStop (s : State) (die b c : Nat) : Bool := b == c || s.stopOf die (256 * b) == s.stopOf die (256 * c)

/-- A message of this core to the stop of this home block is still on its way, sent before a number: delivery is FIFO for each pair
of stops (R181). -/
def sentBefore (s : State) (core block seq : Nat) : Bool :=
  s.regns.cells.any (fun e => match e.2 with
    | some r => e.1 < seq && r.core == core && s.sameStop (coreDie core) r.block block
    | none => false) ||
  s.accs.cells.any (fun e => match e.2 with
    | some a => a.core == core && a.pieces.any (fun p => match p.st, p.pa with
        | .sent k, some pa => k < seq && s.sameStop (coreDie core) (pa / 256) block && s.goesHome p
        | _, _ => false)
    | none => false)

/-- The stops that the flit of an operation goes between (R181): its core, and the home of its words or a target core. -/
def flitOf (s : State) (id : Nat) : Option (Nat × Nat) :=
  match s.accs.get id, s.regns.get id, s.posts.get id with
  | some a, _, _ => a.pieces.findSome? (fun p =>
      match p.pa with
      | none => none
      | some pa =>
        let away : Bool := match p.st with
          | .sent _ => s.goesHome p
          | .queued => !a.op.isStore
          | _ => false
        if away then some (a.core, s.stopOf (coreDie a.core) pa) else none)
  | none, some r, _ => some (r.core, s.stopOf (coreDie r.core) (256 * r.block))
  | none, none, some p => if p.stage == .out && !p.remote then some (p.core, 256 + handleCore p.handle) else none
  | none, none, none => none

/-- The place of an operation's flit among those of its pair (R181): that of the message it has sent, or of the flit that goes round; a
request that sets out only as it is performed comes after them all. -/
def flitSeq (s : State) (id : Nat) : Nat :=
  let other : Nat := if (s.flits.get id).seq = 0 then s.nextId else (s.flits.get id).seq
  match s.accs.get id, s.regns.get id with
  | some a, _ => (a.pieces.findSome? (fun p => match p.st with | .sent k => if s.goesHome p then some k else none | _ => none)).getD other
  | none, some _ => id
  | none, none => other

/-- An older flit of the same pair goes round or is being resent (R181, R182). -/
def behind (s : State) (id : Nat) (pair : Nat × Nat) : Bool :=
  s.flits.cells.any (fun e => e.1 != id && e.2.away && s.flitOf e.1 == some pair && s.flitSeq e.1 < s.flitSeq id)

/-- The flit of an operation cannot be ejected (R181, R182): its destination has refused it, or an older one of its pair has not
been ejected. -/
def barred (s : State) (id : Nat) : Bool :=
  let f := s.flits.get id
  (!f.ejected && f.refused != 0) || (!s.flits.cells.isEmpty && match s.flitOf id with | some pair => s.behind id pair | none => false)

/-- A message of an operation has been performed; the next one that it sends is another flit. -/
def flitTaken (s : State) (id : Nat) : State := { s with flits := s.flits.set id {} }

/-- Replies of one home to one core arrive in the order in which they are sent (R181): another access of the core, whose every reply has
been sent before one of this access's by the same home, completes first. -/
def replyBehind (s : State) (id : Nat) (a : Access) : Bool :=
  let stop (p : Piece) : Nat := s.stopOf (coreDie a.core) (p.pa.getD 0)
  s.accs.cells.any (fun e => match e.2 with
    | some b => e.1 != id && b.core == a.core && b.fixed && b.pieces.any (fun q => q.reply != 0) &&
        b.pieces.all (fun q => q.reply == 0 || a.pieces.any (fun p => q.reply < p.reply && stop p == stop q))
    | none => false)

/-- The word is registered to a core other than this one (R104). -/
def elsewhere (s : State) (core w : Nat) : Bool :=
  match s.ownerOf w with
  | some c => c != core
  | none => false

/-- The home of the address is blocked or lost for a core (R196, R224). -/
def homeLost (s : State) (core pa : Nat) : Bool := s.homeGone (coreDie core) pa

/-- L1_EVICT_WRITEBACK: an L1 drops a line and writes its registered words to the home (R105).  A word whose registration
is still under way stays until the home has accepted it. -/
def evictLine (s : State) (core line : Nat) : State :=
  ((List.range 32).map (· + line * 32)).foldl (fun s w =>
    if s.regnPending core w then s
    else
      let s1 := if s.ownerOf w == some core then s.forward w else s
      s1.setL1 core w {}) s

/-- The lines of an L1 set in use: those with a word valid or registered (R99). -/
def l1Lines (s : State) (core set_ : Nat) : List Nat :=
  ((s.l1.cells.filter (fun e => e.1 / 2 ^ 38 == core)).map (fun e => e.1 % 2 ^ 38 / 32)).eraseDups.filter (fun l =>
    Config.l1Set l % 128 == set_)

/-- Room in a core's L1 for the line of an address: 128 sets of 8 lines (R99).  A full set gives up a line none of whose words has a
registration under way, none while there is no such line; which one it gives up is free (log 4). -/
def l1Room (s : State) (core pa : Nat) : Option State :=
  let ls := s.l1Lines core (Config.l1Set (pa / 128) % 128)
  if ls.contains (pa / 128) || ls.length < 8 then some s
  else
    let idle := ls.filter (fun l => !((List.range 32).any (fun i => s.regnPending core (32 * l + i))))
    match idle with
    | [] => none
    | l :: _ => some (s.draw.2.evictLine core (idle.getD (s.draw.1.toNat % idle.length) l))

/-- Fill the unregistered words of a 128-byte line into an L1 (R102, R310): those registered elsewhere stay out. -/
def fillLine (s : State) (core pa : Nat) : State :=
  ((List.range 32).map (· + pa / 128 * 32)).foldl (fun s w =>
    if (s.l1Word core w).valid || s.elsewhere core w || s.regnPending core w then s
    else s.setL1 core w { value := s.memWord w, valid := true, reg := false, bad := s.poison.get w }) s

/-- The words of a .l1 load that misses come from the home as one access (R306): valid copies that no registration holds follow. -/
def refresh (s : State) (core : Nat) (ws : List Nat) : State :=
  ws.foldl (fun s w =>
    let x := s.l1Word core w
    if x.valid && !x.reg then s.setL1 core w { value := s.memWord w, valid := true, reg := false, bad := s.poison.get w } else s) s

/-- The registrations under way from this core that cover these words. -/
def regnsFor (s : State) (core : Nat) (ws : List Nat) : List Nat :=
  s.regns.cells.filterMap (fun e => match e.2 with
    | some r => if r.core == core && r.words.any ws.contains then some e.1 else none
    | none => none)

/-- A load piece at a physical address is performed (R102, R104): a .l1 load from L1 when all of its words are valid there, and otherwise
at the home; the new state, the bytes and whether they are poisoned.  Nothing while it must wait for a forward, for an earlier message to
the home, or, as a .l1 load, for a registration of its own core (R105).  A block homed on a failed die gives poison from L1 too (R224). -/
def loadPhys (s : State) (t core pa n : Nat) (lv : Level) : Option (State × List Byte × Bool) :=
  let ws := wordsOf pa n
  let bad := s.poisonedAt pa n
  if s.shared pa then
    if s.sentBefore core (pa / 256) s.nextId then none else some (s, s.mem.bytes pa n, bad || s.homeLost core pa)
  else if lv = .l1 ∧ ws.all (fun w => (s.l1Word core w).valid) then
    let s1 := s.modThr t (fun x => { x with seen := x.seen ++ s.regnsFor core ws })
    some (s1, (List.range n).map (fun i => byteOf (s.l1Word core ((pa + i) / 4)).value ((pa + i) % 4)),
      ws.any (fun w => (s.l1Word core w).bad) || (s.die (s.homeDie (coreDie core) pa)).failed)
  else if s.sentBefore core (pa / 256) s.nextId || ws.any (s.elsewhere core) || (lv == .l1 && ws.any (s.regnPending core)) then none
  else
    let bs := s.homeLoad pa n
    if s.homeLost core pa then some (s.noteBlocked (coreDie core) pa, bs, true)
    else
      let s := s.tellEpoch core (coreDie core) pa
      match lv with
      | .l1 => (s.l1Room core pa).map (fun s => ((s.refresh core ws).fillLine core pa, bs, bad))
      | .sys => some (ws.foldl State.forward s, bs, bad)
      | _ => some (s, bs, bad)

/-- A store performed at the home by a core (R102), with the settle epoch e that it carries (R115): the words' registrations are revoked,
the core's own L1 copy is updated afterwards; none while a part of a word must first be forwarded from another core, or while a settle
holds the write (R146). -/
def storePhys (s : State) (core pa e : Nat) (bs : List Byte) : Option State :=
  let ws := wordsOf pa bs.length
  let part (w : Nat) : Bool := !(pa ≤ 4 * w && 4 * w + 4 ≤ pa + bs.length)
  if ws.any (fun w => s.elsewhere core w && part w) || s.captureHeld ws then none
  else if s.homeLost core pa then some (s.noteBlocked (coreDie core) pa)
  else
    let had := ws.filter (fun w => (s.l1Word core w).valid && !s.regnPending core w)
    let s1 := ((s.seeEpoch (coreDie core) pa e).homeStore pa bs).tellEpoch core (coreDie core) pa
    some (had.foldl (fun s w => s.setL1 core w { value := s.memWord w, valid := true, reg := false, bad := s.poison.get w }) s1)

/-- Class L before a number: every load value of the thread is fixed (R110). -/
def loadsFixed (s : State) (t id : Nat) : Bool :=
  !s.older t id (fun a => a.op.isLoad && !a.fixed)

/-- Class S before a number, at a scope: at core scope the store stands in L1 or its level, wider it is performed at its home
(R110). -/
def storesPerformed (s : State) (t id scope : Nat) : Bool :=
  !s.older t id (fun a =>
    (a.op.isStore && a.pieces.any (fun p =>
      if scope = 1 then p.waits || s.goesHome p
      else !p.isDone)) ||
    (match a.op with | .rmw _ _ | .cas _ _ => !a.fixed | _ => false))

/-- Class P before a number: the post's full bit is set, or the post is lost (R110); a rejected post is no longer on its way. -/
def postsPerformed (s : State) (t id : Nat) : Bool :=
  !s.posts.cells.any (fun e => match e.2 with
    | some p => p.thr == t && e.1 < id && p.stage.onWay && !p.revoke
    | none => false)

/-- The stores whose values the thread's loads returned from L1 are accepted (cumulativity, R112). -/
def seenAccepted (s : State) (t : Nat) : Bool := !(s.thr t).seen.any (fun r => (s.regns.get r).isSome)

/-- The predecessor set of R112 is performed at a scope, for the operations of a thread before a number: bits L, S, E, P, C
from the low end.  Engine commands count from their acceptance, which is their issue. -/
def performed (s : State) (t id scope : Nat) (pred : BitVec 5) : Bool :=
  (!pred.getLsbD 0 || s.loadsFixed t id) && (!pred.getLsbD 1 || s.storesPerformed t id scope) &&
  (!pred.getLsbD 3 || s.postsPerformed t id) &&
  (!(pred.getLsbD 1 || pred.getLsbD 2 || pred.getLsbD 3) || scope == 1 || s.seenAccepted t)

/-- A release by a thread of its earlier loads, stores and posts at a scope (R65, R318). -/
def released (s : State) (t scope : Nat) : Bool := s.performed t s.nextId scope 0b01011

/-- An acquire at a scope: at cluster scope or wider, every L1 word of the core that is not registered to it turns invalid
(R106). -/
def acquire (s : State) (core scope : Nat) : State :=
  if scope ≤ 1 then s
  else { s with l1 := s.l1.drop (fun k x => k / 2 ^ 38 == core && !x.reg) }

/-- A word as it stands for an agent that reads at the home, with the forward done (engines, scheduler). -/
def homeRead (s : State) (pa n : Nat) : State × List Byte :=
  ((wordsOf pa n).foldl State.forward s, s.homeLoad pa n)

/-- An atomic add performed at the memory side by an agent (R33). -/
def homeAdd (s : State) (pa : Nat) (v : Word) : State :=
  let old := wordOf (s.homeLoad pa 4)
  s.homeStore pa (leBytes 4 (old + v).toNat)

end State

end Sys2Proof.Machine
end

