-- ==== Sys2Proof/Machine/Memory.lean ====
section
/-! DEFINITION. The steps of the memory system (R103–R105, R113, R303, R304, R86–R88, R133): a store leaves its queue, a
registration is accepted, a request is performed, a word is forwarded, a line is evicted, an access completes, a walk
ends, a logged fault is settled and replayed.  A step that the state does not allow changes nothing. -/

namespace Sys2Proof.Machine

/-- The new word of an ATOM (R311). -/
def atomNew (op : Nat) (old y : Word) : Word :=
  match op with
  | 0 => old + y
  | 1 => if old.toInt ≤ y.toInt then old else y
  | 2 => if old.toNat ≤ y.toNat then old else y
  | 3 => if old.toInt ≤ y.toInt then y else old
  | 4 => if old.toNat ≤ y.toNat then y else old
  | 5 => old &&& y
  | 6 => old ||| y
  | 7 => old ^^^ y
  | 8 => y
  | 9 => BitVec.ofNat 32 (fadd .rne old.toNat y.toNat).1
  | _ => if old.toNat < y.toNat then old + 1 else old

/-- The word that an atomic writes, none when it writes nothing (R311, R312). -/
def AccOp.writes (op : AccOp) (old : Word) : Option Word :=
  match op with
  | .rmw k y => some (atomNew k old y)
  | .cas c n => if old = c then some n else none
  | _ => none

namespace State

/-- The word that a store piece writes. -/
def pieceWord (pa : Nat) (bs : List Byte) (w : Nat) : Word := wordOf ((bs.drop (4 * w - pa)).take 4)

/-- Write the words of a .l1 store piece into the core's L1, valid and registered (R103).  A word that the core owns keeps its value
in home order, until the new registration is accepted (log 33). -/
def writeL1 (s : State) (core pa : Nat) (bs : List Byte) (bad : Bool) : State :=
  (wordsOf pa bs.length).foldl (fun s w =>
    let s1 := if s.ownerOf w = some core then { s with mem := s.mem.store (4 * w) (leBytes 4 (s.wordVal w).toNat) } else s
    s1.setL1 core w { value := pieceWord pa bs w, valid := true, reg := true, bad := bad }) s

/-- The index of the first piece of a list that a test accepts. -/
def firstPiece (ps : List Piece) (p : Piece → Bool) : Option Nat := ps.findIdx? p

/-- The piece lies in the thread's own lane store, which a faulted entry does not hold back (R87). -/
def inLane (p : Piece) : Bool :=
  match p.place with
  | .lane _ => p.len != 0
  | _ => false

/-- The oldest store-class access of a thread of which something has not left its queue; the parts of a faulted one that translated are
committed (R86, R308, R309), and a lane store passes entries held behind a fault. -/
def storeHead (s : State) (t : Nat) : Option (Nat × Access) :=
  (s.accsOf t).find? (fun e => e.2.op.isStore && e.2.pieces.any Piece.ahead &&
    (!s.heldBehind t e.1 || e.2.pieces.all inLane))

/-- The earlier loads and atomics of the thread's own lane store are fixed; only these order a lane access behind a faulted entry
(R87, R113). -/
def laneFixed (s : State) (t id : Nat) : Bool :=
  !s.older t id (fun a => a.op.isLoad && a.pieces.any (fun p => inLane p && !p.isDone))

/-- An access's turn has come in the order of its thread: every earlier load has fixed its value, or, behind a faulted entry,
those of the lane store where it stands (R87, R113). -/
def inTurn (s : State) (t id : Nat) (p : Piece) : Bool :=
  if s.heldBehind t id then inLane p && s.laneFixed t id else s.loadsFixed t id

/-- The store may leave: its piece is translated, no older access of the thread has faulted, and every earlier load has
fixed its value (R113, R87). -/
def mayLeave (s : State) (t id : Nat) (p : Piece) : Bool :=
  p.st == .queued && !s.gleanerBars t (s.coreOf t) p && s.inTurn t id p

/-- Arrival tags are set, and blocked tag waits are woken (R41, R59). -/
def setTags (s : State) (c : Nat) (m : DWord) : State :=
  ((s.modCtx c (fun x => { x with tags := x.tags ||| m })).settleTags c).wakeCtx c

/-- One store-queue entry's piece leaves (R103): tag operations and local stores are performed, .l1 stores enter L1 and
join a registration, the others go to their home.  regn is the registration of the running merge. -/
def leavePiece (s : State) (t id i : Nat) (a : Access) (p : Piece) (regn : Nat) : State :=
  match a.op with
  | .tset m =>
    (s.setTags (keyCtx t) m).setAcc id (some { a with pieces := setPiece a.pieces i { p with st := .done } })
  | .tclr m =>
    ((s.modCtx (keyCtx t) (fun c => { c with tags := c.tags &&& ~~~m })).settleTags (keyCtx t)).setAcc id
      (some { a with pieces := setPiece a.pieces i { p with st := .done } })
  | _ =>
    match p.pa with
    | none => ((s.putLocal (keyCtx t) p.place p.data).leaveEpoch a.core p.place).setAcc id (some { a with pieces := setPiece a.pieces i { p with st := .done } })
    | some pa =>
      if s.registers a.lv p (wholeWords a) then
        let s1 := s.writeL1 a.core pa p.data p.poisoned
        let r : Regn := (s1.regns.get regn).getD
          { core := a.core, block := pa / 256, words := [], covers := [], epoch := s1.seen.get a.core }
        let vals := (wordsOf pa p.len).foldl (fun m w => m.set w (pieceWord pa p.data w)) r.vals
        { s1 with regns := s1.regns.set regn (some { r with words := r.words ++ wordsOf pa p.len, covers := r.covers ++ [(id, i)],
                                                            vals := vals }),
                  accs := s1.accs.set id (some { a with pieces := setPiece a.pieces i { p with st := .sent regn } }) }
      else
        (s.setAcc id (some { a with pieces := setPiece a.pieces i { p with st := .sent s.nextId }, epoch := s.seen.get a.core })).takeId.2

/-- The head of the thread's store queue leaves; consecutive .l1 stores of one home block leave as one registration. -/
def drainRun : Nat → State → Nat → Nat → Option Nat → State
  | 0, s, _, _, _ => s
  | n + 1, s, t, regn, block =>
    match s.storeHead t with
    | none => s
    | some (id, a) =>
      match firstPiece a.pieces Piece.ahead with
      | none => s
      | some i =>
        match a.pieces[i]? with
        | none => s
        | some p =>
          let joins := s.registers a.lv p (wholeWords a)
          let blk := (p.pa.getD 0) / 256
          if !s.mayLeave t id p then s
          else match (if joins then s.l1Room a.core (p.pa.getD 0) else some s) with
            | none => s
            | some s =>
              match block with
              | none =>
                let s1 := s.leavePiece t id i a p regn
                if joins then drainRun n s1 t regn (some blk) else s1
              | some b => if joins && blk == b then drainRun n (s.leavePiece t id i a p regn) t regn block else s

/-- STORE_DRAIN for a thread. -/
def storeDrain (s : State) (t : Nat) : State := drainRun 17 s.takeId.2 t s.nextId none

/-- The home records the core as owner of each word; a registration of another core is revoked (R103), a watched word is
captured first (R144); a settle may hold it (R146).  A word that lies in a shared range by now is stored there, and no registration
is made for it (R197). -/
def acceptRegn (s : State) (id : Nat) : State :=
  match s.regns.get id with
  | none => s
  | some r =>
    if s.sentBefore r.core r.block id || s.barred id || s.portWaits (coreDie r.core) (r.block * 256) || s.captureHeld r.words then s
    else
      let lost := s.homeLost r.core (r.block * 256)
      let own := (r.covers.head?.bind (fun c => s.accs.get c.1)).map (fun a => s.tenantOf (slotKey a.thr))
      let mine := (wordsOf (r.block * 256) 256).filter (fun w => r.words.contains w && !s.shared (4 * w))
      let s0 := if lost then s else
        ((mine.foldl (fun s w => s.useLine (coreDie r.core) (4 * w) own false true) s).seeEpoch (coreDie r.core) (r.block * 256) r.epoch).tellEpoch
          r.core (coreDie r.core) (r.block * 256)
      let s1 := { (if lost then s0 else s0.capture r.words).takeId.2 with regns := s.regns.set id none }
      let s2 := if lost then
          r.words.foldl (fun s w => s.setL1 r.core w {}) (s1.noteBlocked (coreDie r.core) (r.block * 256))
        else r.words.foldl (fun s w =>
          let s := if s.elsewhere r.core w then s.revoke w else s
          if s.shared (4 * w) then
            { s with mem := s.mem.store (4 * w) (leBytes 4 (r.vals.get w).toNat), poison := s.poison.set w r.bad,
                     l1 := s.l1.set (l1Key r.core w) {} }
          else
          let s := if s.regnPending r.core w then { s with mem := s.mem.store (4 * w) (leBytes 4 (r.vals.get w).toNat) } else s
          { s with owner := s.owner.set w (r.core + 1), poison := s.poison.set w r.bad }) s1
      r.covers.foldl (fun s c => match s.accs.get c.1 with
        | none => s
        | some a => match a.pieces[c.2]? with
          | none => s
          | some p => s.setAcc c.1 (some { a with pieces := setPiece a.pieces c.2 { p with st := .done, reply := s0.nextId } })) s2

/-- The level at which a piece is performed: .sys in a shared range (R197). -/
def levelOf (s : State) (a : Access) (p : Piece) : Level :=
  match p.pa with
  | some pa => if s.shared pa then .sys else a.lv
  | none => a.lv

/-- The bytes of a completed load, piece by piece at their places. -/
def gathered (a : Access) (n : Nat) : List Byte :=
  (List.range n).map (fun j =>
    match a.pieces.find? (fun p => p.pos ≤ j && j < p.pos + p.len) with
    | some p => p.data.getD (j - p.pos) 0
    | none => 0)

/-- Bits per element of a format tag (R232). -/
def tagWidth (t : Nat) : Nat :=
  if t = 0x01 ∨ t = 0x0C then 32
  else if t = 0x02 ∨ t = 0x03 then 16
  else if t = 0x04 ∨ t = 0x05 ∨ t = 0x0A ∨ t = 0x08 ∨ t = 0x09 then 8
  else if t = 0x06 ∨ t = 0x0B ∨ t = 0x07 then 4
  else if 0x10 ≤ t ∧ t ≤ 0x16 then t - 0x0E
  else 0

/-- A block-scaled tag, and one with two blocks in a register (R232). -/
def blockTag (t : Nat) : Bool := (7 ≤ t && t ≤ 9) || (0x10 ≤ t && t ≤ 0x16)
def twoBlocks (t : Nat) : Bool := t == 7 || (0x10 ≤ t && t ≤ 0x12)

/-- Elements of a w register under a tag (R232). -/
def tagElems (t : Nat) : Nat :=
  if blockTag t then (if twoBlocks t then 64 else 32)
  else if tagWidth t = 0 then 0 else 256 / tagWidth t

/-- The footprint of one register in memory (R268). -/
def footprint (t : Nat) : Nat :=
  if blockTag t then (if twoBlocks t then 2 * (4 * tagWidth t + 1) else 4 * tagWidth t + 1) else 32

/-- The packed bytes of a register in a tag's memory order (R231, R308). -/
def packBytes (w : WReg) (t : Nat) : List Byte :=
  let k := tagWidth t
  let d := w.data.toNat
  if blockTag t then
    let b0 := leBytes (4 * k) d ++ [w.s0]
    if twoBlocks t then b0 ++ leBytes (4 * k) (d / 2 ^ (32 * k)) ++ [w.s1] else b0
  else leBytes 32 d

/-- The register that bytes give in a tag: unused bits and scales zero (R233). -/
def unpackBytes (bs : List Byte) (tag : BitVec 6) : WReg :=
  let t := tag.toNat
  let k := tagWidth t
  if blockTag t then
    let lo := leNat (bs.take (4 * k))
    if twoBlocks t then
      let hi := leNat ((bs.drop (4 * k + 1)).take (4 * k))
      { data := BitVec.ofNat 256 (lo + hi * 2 ^ (32 * k)), s0 := bs.getD (4 * k) 0, s1 := bs.getD (8 * k + 1) 0, tag := tag }
    else { data := BitVec.ofNat 256 lo, s0 := bs.getD (4 * k) 0, s1 := 0, tag := tag }
  else { data := BitVec.ofNat 256 (leNat (bs.take 32)), s0 := 0, s1 := 0, tag := tag }

/-- Replace 32-bit element e of a register's data. -/
def setElem (d : BitVec 256) (e : Nat) (v : Word) : BitVec 256 :=
  BitVec.ofNat 256 (d.toNat % 2 ^ (32 * e) + v.toNat * 2 ^ (32 * e) + d.toNat / 2 ^ (32 * e + 32) * 2 ^ (32 * e + 32))

/-- The bits of a register's data in a tag that hold the elements all of whose bytes, by their places in memory order, a test accepts
(R86, R231). -/
def elemMask (t : Nat) (p : Nat → Bool) : BitVec 256 :=
  let k := tagWidth t
  if !blockTag t then (if (List.range 32).all p then BitVec.allOnes 256 else 0)
  else
    let first (e : Nat) : Nat := e / 32 * (4 * k + 1) + e % 32 * k / 8
    let last (e : Nat) : Nat := e / 32 * (4 * k + 1) + (e % 32 * k + k - 1) / 8
    BitVec.ofNat 256 (((List.range (if twoBlocks t then 64 else 32)).filter (fun e => p (first e) && p (last e))).foldl
      (fun m e => m + (2 ^ k - 1) * 2 ^ (k * e)) 0)

/-- A register that takes the elements and scales of memory bytes that a test accepts, and keeps the rest of it (R86). -/
def mergeW (old : WReg) (bs : List Byte) (tag : BitVec 6) (p : Nat → Bool) : WReg :=
  let t := tag.toNat
  let k := tagWidth t
  let m := elemMask t p
  let new := unpackBytes bs tag
  { old with data := (old.data &&& ~~~m) ||| (new.data &&& m), s0 := if blockTag t && p (4 * k) then new.s0 else old.s0,
             s1 := if twoBlocks t && p (8 * k + 1) then new.s1 else old.s1 }

/-- The destination of a completed access is written by its thread (R303, R307–R309). -/
def writeDst (x : Thread) (a : Access) : Thread :=
  let num (n : Nat) : Nat := leNat (gathered a n)
  match a.dst with
  | .none => x
  | .g n ty =>
    let v : Word :=
      if ty = 0 then (BitVec.ofNat 8 (num 1)).signExtend 32
      else if ty = 1 then BitVec.ofNat 32 (num 1)
      else if ty = 2 then (BitVec.ofNat 16 (num 2)).signExtend 32
      else if ty = 3 then BitVec.ofNat 32 (num 2)
      else BitVec.ofNat 32 (num 4)
    x.wrG n v
  | .pair n => (x.wrG n (BitVec.ofNat 32 (num 4))).wrG (n + 1) (BitVec.ofNat 32 (num 8 / 2 ^ 32))
  | .a n => x.wrA n (match a.op with | .value v => v | _ => BitVec.ofNat 64 (num 8))
  | .w n tag =>
    let bs := gathered a (footprint tag.toNat)
    -- the elements and scales committed before stay, all others are taken from the bytes, and bits that hold none are zero (R233)
    let kept := mergeW (unpackBytes bs tag) (packBytes { (x.rdW n) with tag := tag } tag.toNat) tag a.put.contains
    x.wrW n (if a.put.isEmpty then unpackBytes bs tag else kept)
  | .elems n tag es0 =>
    let es := es0.filter (fun e => !a.put.contains (4 * e))
    if a.op = .store then x
    else
      let w := x.rdW n
      let d := es.foldl (fun d e => setElem d e (wordOf ((gathered a 32).drop (4 * e)))) w.data
      x.wrW n { data := d, s0 := 0, s1 := 0, tag := tag }

/-- A packed or gather access that has faulted commits the elements that have completed; they are not executed again (R86), and the tag
and the full bit are written only at completion (R308, R309). -/
def commitPart (s : State) (id : Nat) : State :=
  match s.accs.get id with
  | none => s
  | some a =>
    let got (j : Nat) : Bool := !a.put.contains j &&
      a.pieces.any (fun p => p.isDone && !p.poisoned && p.pos ≤ j && j < p.pos + p.len)
    let live := match (s.thr a.thr).run with | .exited | .free => false | _ => true
    if !faulted a || a.op ≠ .load || a.discarded || !live then s
    else match a.dst with
      | .w n tag =>
        let js := (List.range (footprint tag.toNat)).filter got
        let bs := gathered a (footprint tag.toNat)
        if js.isEmpty then s
        else ((s.modThr a.thr (fun x => { x with w := x.w.set n (mergeW (x.rdW n) bs tag (fun j => js.contains j || a.put.contains j)) })).setAcc id
          (some { a with put := a.put ++ js })).settleSlot a.thr
      | .elems n _ es =>
        let js := (es.map (4 * ·)).filter got
        if js.isEmpty then s
        else ((s.modThr a.thr (fun x =>
          let w := x.rdW n
          { x with w := x.w.set n { w with data := js.foldl (fun d j => setElem d (j / 4) (wordOf ((gathered a 32).drop j))) w.data } })).setAcc
            id (some { a with put := a.put ++ js })).settleSlot a.thr
      | _ => s

/-- An access of a thread performed at the home uses the lines it touches (R99, R107); one at .sys allocates no line and goes to HBM
(R102). -/
def usesLines (s : State) (t core pa n : Nat) (lv : Level) (wr : Bool) : State :=
  if lv = .sys then s.useSys (coreDie core) pa n wr
  else s.useLines (coreDie core) pa n (some (s.tenantOf (slotKey t))) (lv == .st) wr

/-- A piece of an access is performed: what it returns, and the number of the home's reply, 0 for none (R181). -/
def pieceDone (s : State) (id i : Nat) (a : Access) (p : Piece) (bs : List Byte) (bad : Bool) (reply : Nat) : State :=
  s.setAcc id (some { a with pieces := setPiece a.pieces i { p with st := .done, data := bs, poisoned := bad || p.poisoned, reply := reply } })

/-- The same for a piece performed at its home, whose reply sets out now. -/
def pieceHome (s : State) (id i : Nat) (a : Access) (p : Piece) (bs : List Byte) (bad : Bool) : State :=
  s.takeId.2.pieceDone id i a p bs bad s.nextId

/-- A load piece is performed, in the order of the thread's loads (R113), from its own store queue or its place. -/
def performLoad (s : State) (t id i : Nat) (a : Access) (p : Piece) : State :=
  if s.gleanerBars t a.core p || !s.inTurn t id p then s
  else
    match s.ownStores t id p with
    | .wait => s
    | .bytes bs => s.pieceDone id i a p bs false 0
    | .nothing =>
      match p.pa with
      | none => (s.takeEpoch a.core p.place).pieceDone id i a p (s.getLocal (keyCtx t) p.place p.len) (s.localPoison p.place p.len) 0
      | some pa =>
        let lv := s.levelOf a p
        let hit := lv == .l1 && (wordsOf pa p.len).all (fun w => (s.l1Word a.core w).valid)
        match s.loadPhys t a.core pa p.len lv with
        | none => s
        | some (s1, bs, bad) =>
          if hit then s1.pieceDone id i a p bs bad 0
          else (if s.homeLost a.core pa then s1 else s1.usesLines t a.core pa p.len lv false).pieceHome id i a p bs bad

/-- An older store of the thread may still have to supply, or to precede, a piece of an atomic. -/
def ownPending (s : State) (t id : Nat) (p : Piece) : Bool :=
  s.older t id (fun b => b.pieces.any (fun q => (s.supplies b q && overlap p q) || (b.op == .store && q.waits && mayAlias p q)))

/-- An atomic is performed at the word's home or in its level, in one step (R311, R312). -/
def performAtomic (s : State) (t id i : Nat) (a : Access) (p : Piece) : State :=
  if s.gleanerBars t a.core p || !s.inTurn t id p || s.ownPending t id p then s
  else
    match p.pa with
    | none =>
      let bs := s.getLocal (keyCtx t) p.place 4
      let s0 := s.takeEpoch a.core p.place
      if s.localPoison p.place 4 then s0.pieceDone id i a p bs true 0
      else match a.op.writes (wordOf bs) with
        | none => s0.pieceDone id i a p bs false 0
        | some v => ((s0.putLocal (keyCtx t) p.place (leBytes 4 v.toNat)).leaveEpoch a.core p.place).pieceDone id i a p bs false 0
    | some pa =>
      if s.sentBefore a.core (pa / 256) s.nextId || s.elsewhere a.core (pa / 4) then s
      else
        let bs := s.homeLoad pa 4
        let bad := s.poisonedAt pa 4 || s.homeLost a.core pa
        if bad then (s.noteBlocked (coreDie a.core) pa).pieceHome id i a p bs true
        else match a.op.writes (wordOf bs) with
          | none => ((s.usesLines t a.core pa 4 (s.levelOf a p) false).tellEpoch a.core (coreDie a.core) pa).pieceHome id i a p bs false
          | some v =>
            match s.storePhys a.core pa (s.seen.get a.core) (leBytes 4 v.toNat) with
            | none => s
            | some s1 => (s1.usesLines t a.core pa 4 (s.levelOf a p) true).pieceHome id i a p bs false

/-- A part of the access that is on its way to its home waits for a port that retrains (R183). -/
def accWaits (s : State) (id : Nat) : Bool :=
  match s.accs.get id with
  | none => false
  | some a => a.pieces.any (fun p => !p.isDone && (match p.pa with | some pa => s.portWaits (coreDie a.core) pa | none => false))

/-- The next piece of an access is performed at its place. -/
def performNext (s : State) (id : Nat) : State :=
  match (if s.barred id || s.accWaits id then none else s.accs.get id) with
  | none => s
  | some a =>
    match a.op with
    | .store | .tset _ | .tclr _ =>
      match firstPiece a.pieces s.goesHome with
      | none => s
      | some i =>
        match a.pieces[i]? with
        | some p =>
          match p.pa, p.st with
          | some pa, .sent k =>
            if s.sentBefore a.core (pa / 256) k then s
            else match s.storePhys a.core pa a.epoch p.data with
              | none => s
              | some s' =>
                let s0 := if s.homeLost a.core pa then s' else s'.usesLines a.thr a.core pa p.len (s.levelOf a p) true
                let s1 := (wordsOf pa p.len).foldl (fun s w =>
                  if p.poisoned then { s with poison := s.poison.set w true } else s) s0
                s1.pieceHome id i a p p.data p.poisoned
          | _, _ => s
        | none => s
    | .load =>
      match firstPiece a.pieces (fun p => match p.st with | .queued | .walk => true | _ => false) with
      | none => s
      | some i =>
        match a.pieces[i]? with
        | some p => if p.st = .queued then (s.performLoad a.thr id i a p).commitPart id else s
        | none => s
    | .rmw _ _ | .cas _ _ =>
      match a.pieces[0]? with
      | some p => if p.st = .queued then s.performAtomic a.thr id 0 a p else s
      | none => s
    | .fetch | .value _ | .fence _ _ _ => s

/-- HOME_REQUEST: the flit of a piece that has been performed is gone. -/
def homeRequest (s : State) (id : Nat) : State :=
  let t := s.performNext id
  if t.accs.get id == s.accs.get id then t else t.flitTaken id

/-- FORWARD_AT_OWNER: the owner of the words that the next piece of an access waits for sends them to the home (R104). -/
def forwardFor (s : State) (id : Nat) : State :=
  match s.accs.get id with
  | none => s
  | some a =>
    match a.pieces.find? (fun p => match p.st with | .queued | .sent _ => p.pa.isSome | _ => false) with
    | none => s
    | some p =>
      match p.pa with
      | none => s
      | some pa => (wordsOf pa p.len).foldl (fun s w => if s.elsewhere a.core w then s.forward w else s) s

/-- A FENCE that the log holds is performed in its turn (R87, R112, R313); nothing while its predecessors are not. -/
def fenceDone (s : State) (id : Nat) (a : Access) (p u : BitVec 5) (scope : Nat) : State :=
  if s.heldBehind a.thr id || !s.performed a.thr id scope p then s
  else
    let s1 := if u.getLsbD 0 then s.acquire a.core scope else s
    ((s1.modThr a.thr (fun x => { x with seen := x.seen.filter (fun r => (s.regns.get r).isSome) })).setAcc id none).wakeCtx (keyCtx a.thr)

/-- ACCESS_COMPLETE: the completion reaches the thread, writes its register and counts its flag down (R303).  Poisoned data
write no register and trap POISON (R221); nothing is written for a thread that has exited (R48). -/
def completeAccess (s : State) (id : Nat) : State :=
  match s.accs.get id with
  | none => s
  | some a =>
    match a.op with
    | .fence p u scope => s.fenceDone id a p u scope
    | _ =>
    if !a.fixed || a.op == .fetch || s.cycle < a.due || s.replyBehind id a then s
    else
      let t := a.thr
      let bad := a.op.isLoad && a.pieces.any Piece.poisoned
      let live := match (s.thr t).run with | .exited | .free => false | _ => true
      let s1 := (s.modThr t (fun x =>
        let x := if live && !bad && !a.discarded then writeDst x a else x
        x.flagDown a.flag)).setAcc id none
      let s2 := s1.wakeCtx (keyCtx t)
      let s3 := s2.settleSlot t
      if bad then
        let p := a.pieces.find? Piece.poisoned
        s3.trapLate t a.pc { cause := .poison, code := 0x0103, va := p.map (fun p => p.va.toNat), pa := p.bind Piece.pa } a.batch
      else s3

/-- A thread about to place an entry in a full log leaves its troupe and blocks (R37, R87). -/
def logFull (s : State) (t : Nat) : State :=
  let c := keyCtx t
  match (s.ctx c).troupes.find? (fun tr => tr.slots.contains (keySlot t)) with
  | some tr =>
    if (s.thr t).run = .runnable ∧ ghostGroup t = 0 then s.leaveTroupe { core := s.coreOf t, ctx := c, slots := tr.slots } t .log else s
  | none => s

/-- Levels of the table that a walk of an address reads, before the page's own translation or its fault (R134). -/
def walkLevels (s : State) (die : Nat) (asid : BitVec 16) (va : Nat) (n : Need) : Nat :=
  match s.walk die asid va n with
  | .ok (_, e) => 5 - e.level
  | .error _ => 1

/-- A part that has been translated takes its load's latency from now on (R18, R134). -/
def fromNow (s : State) (id : Nat) (ps : List Piece) : State :=
  match s.accs.get id with
  | none => s
  | some a => s.setAcc id (some { a with due := max a.due (s.cycle + s.loadCycles a.thr id a.core a.op a.lv ps) })

/-- PAGE_WALK_DONE: the walk of the access's first waiting piece ends, 130 cycles a level at the earliest; it is translated, or it
faults into the operand log when the log has room (R86, R133, R134).  A miss that found all 96 walkers of its die busy begins its
walk when one is free.  A piece held behind an older fault walks in its turn. -/
def walkDone (s : State) (id : Nat) : State :=
  match s.accs.get id with
  | none => s
  | some a =>
    match firstPiece a.pieces (fun p => p.st == .walk) with
    | none => s
    | some i =>
      match a.pieces[i]?, a.walkAt with
      | none, _ => s
      | some _, none => if s.walksOn (coreDie a.core) < 96 then s.setAcc id (some { a with walkAt := some s.cycle }) else s
      | some p, some t0 =>
        if s.cycle < t0 + 130 * s.walkLevels (coreDie a.core) a.asid p.va.toNat a.op.need then s
        else
          let put (s : State) (p : Piece) : State := s.setAcc id (some { a with pieces := setPiece a.pieces i p, walkAt := none })
          match s.translate a.core a.asid p.va.toNat a.op.need with
          | .ok (s1, pa) =>
            let q := { p with st := .queued, pa := some pa }
            (put s1 q).fromNow id [q]
          | .error f =>
            if 256 ≤ s.logCount (keyCtx a.thr) ∧ !faulted a then s.logFull a.thr
            else (put (s.denied (coreDie a.core) a.asid p.va.toNat f) { p with st := .logged f }).commitPart id

/-- A trap that the attendant can make of a fault of this kind (R88, R133). -/
def fateFits (f : XFault) : FaultFate → Bool
  | .outside => f == .unmapped || f == .control
  | .permission => f == .permission
  | .walkUE => f == .walkUE
  | .resolve | .discard => true

/-- What the attendant can make of a fault, as the context's page table stands (R88, R206): it is resolved once the address translates, and
becomes a trap while it fails in the same way; that no page is there only the Ringmaster says, and what came to wait for it in a
reset goes in turn (R211).  The table may have been read wrongly in a walk that met an error (R181). -/
def fateStands (s : State) (id die : Nat) (asid : BitVec 16) (va : DWord) (needs : List Need) (f : XFault) (fate : FaultFate) : Bool :=
  let fails (n : Need) : Bool := match s.walk die asid va.toNat n with | .error g => g == f | .ok _ => false
  let works (n : Need) : Bool := match s.walk die asid va.toNat n with | .error _ => false | .ok _ => true
  fateFits f fate && match fate with
    | .resolve => needs.any works && s.heldInTurn (.fault id)
    | .outside => needs.any fails && s.rmUp && s.heldInTurn (.fault id)
    | .permission => needs.any fails
    | .walkUE | .discard => true

/-- ATTENDANT_FAULT_HANDLE: the attendant settles a logged fault (R86, R88): it has made the page usable; it turns the entry
into a trap that names the lowest faulting part and its own fault, and the entry stays; or a handler discards the entry, which
completes its flag without a register. -/
def settleFault (s : State) (id : Nat) (fate : FaultFate) : State :=
  match s.accs.get id with
  | none => s
  | some a =>
    match faultOf a with
    | none => s
    | some (f, p) =>
      if !s.fateStands id (coreDie a.core) a.asid p.va [a.op.need] f fate then s
      else match fate with
      | .resolve => s.setAcc id (some { a with resolved := true })
      | .outside | .permission | .walkUE =>
        (s.trapLate a.thr a.pc (xTrap f p.va) a.batch).setAcc id (if a.op = .fetch then none else some a)
      | .discard =>
        let s1 := (s.modThr a.thr (fun x => x.flagDown a.flag)).setAcc id none
        (s1.wakeCtx (keyCtx a.thr)).settleSlot a.thr

/-- The group of a thread is HALTED or runs: replays go on in both (R88). -/
def mayReplay (s : State) (t : Nat) : Bool := (s.ctx (keyCtx t)).state == .active

/-- OPERAND_LOG_REPLAY: the oldest settled entry translates again, and its faulted parts are performed anew (R86, R87); a
fetch that now succeeds lets its thread go on. -/
def replay (s : State) (id : Nat) : State :=
  match s.accs.get id with
  | none => s
  | some a =>
    if !faulted a || !a.resolved || s.heldBehind a.thr id || !s.mayReplay a.thr then s
    else
      let r := a.pieces.foldl (fun (acc : State × List Piece) p =>
        match p.st with
        | .logged _ =>
          match acc.1.translate a.core a.asid p.va.toNat a.op.need with
          | .ok (s1, pa) => (s1, acc.2 ++ [{ p with st := .queued, pa := some pa }])
          | .error f => (acc.1.denied (coreDie a.core) a.asid p.va.toNat f, acc.2 ++ [{ p with st := .logged f }])
        | _ => (acc.1, acc.2 ++ [p])) (s, [])
      let b := { a with pieces := r.2, resolved := false }
      if a.op = .fetch then
        if faulted b then r.1.setAcc id (some b)
        else (r.1.setAcc id none).wakeCtx (keyCtx a.thr)
      else ((r.1.setAcc id (some b)).fromNow id (r.2.filter (fun p => p.st == .queued))).wakeCtx (keyCtx a.thr)

end State

/-- STORE_DRAIN (R103, R113, R304). -/
def execStoreDrain (r : TRef) (s : State) : Host.Outcome State Fault Refusal := .next (s.storeDrain (s.keyOf r))

/-- REGISTRATION_ACCEPT (R103, R144). -/
def execRegistrationAccept (id : Nat) (s : State) : Host.Outcome State Fault Refusal := .next (match s.regns.get id with
    | some r => s.inject (coreDie r.core) 0 (r.core % 56) id (fun t => (t.regns.get id).isNone) (fun s => s.acceptRegn id)
    | none => s)

/-- HOME_REQUEST (R100, R102, R104). -/
def execHomeRequest (id : Nat) (s : State) : Host.Outcome State Fault Refusal := .next (match s.accs.get id with
    | some a => s.inject (coreDie a.core) 0 (a.core % 56) id
        (fun t => t.accs.get id != s.accs.get id && a.pieces.any (fun p => !p.isDone && p.pa.isSome)) (fun s => s.homeRequest id)
    | none => s)

/-- FORWARD_AT_OWNER (R104). -/
def execForwardAtOwner (id : Nat) (s : State) : Host.Outcome State Fault Refusal := .next (s.forwardFor id)

/-- L1_EVICT_WRITEBACK (R105). -/
def execL1EvictWriteback (core line : Nat) (s : State) : Host.Outcome State Fault Refusal :=
  .next (s.evictLine core line)

/-- ACCESS_COMPLETE (R303). -/
def execAccessComplete (id : Nat) (s : State) : Host.Outcome State Fault Refusal := .next (s.completeAccess id)

/-- PAGE_WALK_DONE (R133, R134). -/
def execPageWalkDone (id : Nat) (s : State) : Host.Outcome State Fault Refusal := .next (s.walkDone id)

end Sys2Proof.Machine
end

