-- ==== Sys2Proof/Machine/Queue.lean ====
section
/-! DEFINITION. Reads and writes of translated memory by a unit outside a thread's load pipe, and queues: their counts and
states, a push, a pop, and the entry of a launch into the kernel table (05, R28). -/

namespace Sys2Proof.Machine

namespace State

/-- Bytes of one line, accessed for a tenant by a unit of a die, use the line at its home (R107); an access at .st marks the line
evict-first, and one at .sys takes no line and goes to HBM, where the dirty words that a read meets are written first (R102). -/
def usedBy (s : State) (die pa : Nat) (tenant : Option Nat) (lv : Level) (wr : Bool) : State :=
  if s.shared pa || s.homeGone die pa then s
  else if lv = .sys then
    let s1 := s.countLine die pa
    (if wr then s1 else s1.cleanLine die pa).countBurst pa
  else s.useLine die pa tenant (lv == .st) wr

/-- A translation for a unit of a die (R134): through a cluster's tile walker where one is named, otherwise through the die's
TLB. -/
def translateFor (s : State) (die : Nat) (tile : Option Nat) (asid : BitVec 16) (va : Nat) (n : Need) : Except XFault (State × Nat) :=
  match tile with
  | some cl => s.translateTile cl asid va n
  | none => s.translateDie die asid va n

/-- The home's reply to an agent brings its slice's epoch (R115), where there is one. -/
def heard (s : State) (agent die pa : Nat) : State := if s.homeGone die pa then s else s.tellEpoch agent die pa

/-- One byte of a process's memory as a unit of a die reads it: its value and whether its word is poisoned. -/
def vbyte (s : State) (die : Nat) (asid : BitVec 16) (va : Nat) (tenant tile : Option Nat := none) (lv : Level := .l2)
    (agent : Nat := dieAgent die) : Except XFault (State × Byte × Bool) :=
  match s.translateFor die tile asid va .read with
  | .error f => .error f
  | .ok (s1, pa) =>
    let s2 := ((s1.forward (pa / 4)).usedBy die pa tenant lv false).heard agent die pa
    .ok (if pa % 4 = 0 then s2.noteBlocked die pa else s2, s2.mem.get pa, s2.poison.get (pa / 4) || s2.homeGone die pa)

/-- n bytes upward from a virtual address, and whether any is poisoned; or what a failed walk leaves. -/
def vreadBy (agent : Nat) (s : State) (die : Nat) (asid : BitVec 16) (va : Nat) : Nat → Except State (State × List Byte × Bool)
  | 0 => .ok (s, [], false)
  | n + 1 =>
    match s.vbyte die asid va (s.tenantOfProcess asid) none .l2 agent with
    | .error f => .error (s.denied die asid va f)
    | .ok (s1, b, p) =>
      match vreadBy agent s1 die asid (va + 1) n with
      | .error s2 => .error s2
      | .ok (s2, bs, q) => .ok (s2, b :: bs, p || q)

/-- A store of a unit for a process, which uses the line for the process's tenant (R107). -/
def tenantStore (s : State) (die : Nat) (asid : BitVec 16) (pa : Nat) (bs : List Byte) (agent : Nat) : State :=
  (s.dieStore die pa bs agent).usedBy die pa (s.tenantOfProcess asid) .l2 true

/-- Store bytes upward from a virtual address, whole words where they can be: whether all are stored.  What was stored before a fault
stays. -/
def vwriteBy (agent : Nat) (s : State) (die : Nat) (asid : BitVec 16) : Nat → List Byte → State × Bool
  | _, [] => (s, true)
  | va, b0 :: b1 :: b2 :: b3 :: r =>
    match s.dieAddr die asid va .write with
    | .error s1 => (s1, false)
    | .ok (s1, pa) =>
      if va % 4 = 0 then vwriteBy agent (s1.tenantStore die asid pa [b0, b1, b2, b3] agent) die asid (va + 4) r
      else vwriteBy agent (s1.tenantStore die asid pa [b0] agent) die asid (va + 1) (b1 :: b2 :: b3 :: r)
  | va, b :: r =>
    match s.dieAddr die asid va .write with
    | .error s1 => (s1, false)
    | .ok (s1, pa) => vwriteBy agent (s1.tenantStore die asid pa [b] agent) die asid (va + 1) r

/-- The same for a unit of the die that is no agent of its own. -/
def vread (s : State) (die : Nat) (asid : BitVec 16) (va n : Nat) : Except State (State × List Byte × Bool) :=
  vreadBy (dieAgent die) s die asid va n
def vwrite (s : State) (die : Nat) (asid : BitVec 16) (va : Nat) (bs : List Byte) : State × Bool :=
  vwriteBy (dieAgent die) s die asid va bs

end State

/-- The count of a queue (R63). -/
def Queue.count (q : Queue) : Nat := (q.tail - q.head).toNat

/-- The state that the count gives a queue that is in use (R66, R67). -/
def Queue.settle (q : Queue) : Queue :=
  match q.state with
  | .free => q
  | .closing | .closed => { q with state := if q.count = 0 then .closed else .closing }
  | _ => { q with state := if q.count = 0 then .empty else if q.cap ≤ q.count then .full else .busy }

/-- Whether threads may push to, or pop from, a kind of queue (R62). -/
def kindPushes (k : Nat) : Bool := k == 0 || k == 1 || k == 2 || k == 5
def kindPops (k : Nat) : Bool := k == 0 || k == 1 || k == 3 || k == 4

/-- The die that holds a queue: the one whose stacks hold its descriptor. -/
def queueDie (q : Nat) : Nat := q / 0x3000000000

namespace State

/-- The snapshot of a launch record: 128 bytes of record and 128 bytes of code from ENTRY rounded down to 64 (R28).
Bytes that cannot be read are 0, and such a record is rejected; poison in what is read stays out of the snapshot (DESIGN
CHOICE, log 10). -/
def snapshot (s : State) (die : Nat) (asid : BitVec 16) (va : Nat) : State × Memory × Nat × Memory :=
  let r : State × Memory := match s.vread die asid va 128 with
    | .ok (s1, bs, _) => (s1, Memory.store .empty 0 bs)
    | .error s1 => (s1, .empty)
  let codeVa := Memory.nat r.2 8 8 / 64 * 64
  let c : State × Memory := match r.1.vread die asid codeVa 128 with
    | .ok (s2, bs, _) => (s2, Memory.store .empty 0 bs)
    | .error s2 => (s2, .empty)
  (c.1, r.2, codeVa, c.2)

/-- A kernel table entry for a pushed launch record (R28, R31). -/
def enqueueKernel (s : State) (q : Nat) (ctx tenant : Nat) (asid : BitVec 16) (v : Word) : State × Nat :=
  let qu := s.queue q
  let va := qu.recBase + BitVec.ofNat 64 (64 * v.toNat)
  let (s1, rec, codeVa, code) := s.snapshot (queueDie q) asid va.toNat
  let k : Kernel := { state := .enqueued, recVa := va, record := rec, codeVa := BitVec.ofNat 64 codeVa, code := code,
                      asid := asid, ctx := ctx, tenant := BitVec.ofNat 6 tenant, die := queueDie q,
                      part := s.partOf (queueDie q) }
  ({ s1 with kernels := s1.kernels.set s1.nextId k, nextId := s1.nextId + 1 }, s1.nextId)

/-- A push of an entry by a thread, or by an engine (R62, R63, R65); an entry of a ring that does not translate is not written, and
two descriptors that name one FIFO index of a cluster have each a storage of their own (DESIGN CHOICE, log 9).  What the pusher knows
of settle epochs goes with the entry (R115). -/
def push (s : State) (q : Nat) (die : Nat) (ctx tenant : Nat) (asid : BitVec 16) (v : Word) (agent : Nat := dieAgent die) : State :=
  let qu := s.queue q
  let i := qu.tail.toNat % max 1 qu.cap
  let s1 :=
    if qu.kind = 0 then (s.passEpoch agent (clusterAgent qu.cluster)).modQueue q (fun x => { x with entries := x.entries ++ [v.toNat] })
    else if qu.kind = 2 then
      let (s1, k) := s.enqueueKernel q ctx tenant asid v
      let kr := s1.kernel k
      let s2 := (s1.vwrite die qu.asid (qu.base.toNat + 256 * i) (kr.record.bytes 0 128 ++ kr.code.bytes 0 128)).1
      s2.modQueue q (fun x => { x with entries := x.entries ++ [k] })
    else (vwriteBy agent s die qu.asid (qu.base.toNat + 4 * i) (leBytes 4 v.toNat)).1
  let s2 := s1.updQueue q (fun x => { x with tail := x.tail + 1 }.settle)
  s2.wakeQueue q

/-- The oldest result that an engine holds for a queue (R68). -/
def heldResult (s : State) (q : Nat) : Option (Nat × Word) :=
  s.results.cells.findSome? (fun e => match e.2 with | some r => if r.1 = q then some (e.1, r.2.1) else none | none => none)

/-- A command whose result is held stays outstanding (R68). -/
def resultHeld (s : State) (cmd : Nat) : Bool :=
  s.results.cells.any (fun e => match e.2 with | some r => r.2.2 == cmd | none => false)

/-- The queue takes an engine's result. -/
def takesResult (q : Queue) : Bool := q.kind == 3 && (q.state == .empty || q.state == .busy)

/-- Space has appeared: the oldest held result goes in. -/
def releaseHeld (s : State) (q die : Nat) : State :=
  if !takesResult (s.queue q) then s
  else match s.heldResult q with
    | none => s
    | some (k, v) => ({ s with results := s.results.set k none }).push q die 0 0 0 v

/-- ENGINE_RESULT_PUSH (R67, R68): a result behind held ones, or for a full queue, is held; one for a queue that is CLOSING,
CLOSED or FREE is dropped (DESIGN CHOICE, log 9). -/
def engineResult (s : State) (q : Nat) (v : Word) (cmd : Nat) : State :=
  let qu := s.queue q
  if takesResult qu ∧ (s.heldResult q).isNone then s.push q (queueDie q) 0 0 0 v
  else if qu.kind = 3 ∧ (qu.state = .full ∨ takesResult qu) then
    { s with results := s.results.set s.nextId (some (q, v, cmd)), nextId := s.nextId + 1 }
  else s

/-- A pop of the oldest entry; an entry of a ring that does not translate is 0 (DESIGN CHOICE, log 9). -/
def pop (s : State) (q : Nat) (die : Nat) (agent : Nat := dieAgent die) : State × Word :=
  let qu := s.queue q
  let i := qu.head.toNat % max 1 qu.cap
  let (s1, v) :=
    if qu.kind = 0 ∨ qu.kind = 2 then
      ((if qu.kind = 0 then s.passEpoch (clusterAgent qu.cluster) agent else s).modQueue q (fun x => { x with entries := x.entries.drop 1 }),
        BitVec.ofNat 32 (qu.entries.headD 0))
    else match vreadBy agent s die qu.asid (qu.base.toNat + 4 * i) 4 with
      | .ok (s1, bs, _) => (s1, wordOf bs)
      | .error s1 => (s1, 0)
  let s2 := s1.updQueue q (fun x => { x with head := x.head + 1 }.settle)
  ((s2.wakeQueue q).releaseHeld q die, v)

/-- The k-th entry from the oldest of a ring is poisoned: its address (R221).  An entry of a FIFO never is. -/
def entryPoison (s : State) (q die k : Nat) : Option Nat :=
  let qu := s.queue q
  let va := qu.base.toNat + 4 * ((qu.head.toNat + k) % max 1 qu.cap)
  if qu.kind = 0 ∨ qu.kind = 2 then none
  else match s.vread die qu.asid va 4 with
    | .ok (_, _, true) => some va
    | _ => none

/-- The queue that a port of a thread names. -/
def portQueue (s : State) (t port : Nat) : Nat := ((s.thr t).ports.get port).q

/-- The queue that a binding was made to is still there: not freed, and not configured anew since (R67).  A binding read back
from a save area names the descriptor alone. -/
def names (s : State) (p : Port) (q : Nat) : Bool :=
  (s.queue q).state != .free && (p.gen == 0 || (s.queue q).gen == p.gen)

end State

/-- ENGINE_RESULT_PUSH (R68). -/
def execEngineResultPush (q : Nat) (v : EngineResult) (s : State) : Host.Outcome State Fault Refusal :=
  .next (s.engineResult q v.value v.cmd)

end Sys2Proof.Machine
end

