-- ==== Sys2Proof/Machine/Operands.lean ====
section
/-! DEFINITION. The operand forms of the instructions (R245, R249, R265–R267, R275, R276): a g field names a register, the
constant g0 or a queue port; reading an empty catch register blocks; ports are checked before anything is popped or
pushed, and one port is popped once. -/

namespace Sys2Proof.Machine

/-- A g field that names a queue port (R267). -/
def isPort (n : Nat) : Bool := 60 ≤ n

/-- The ports that an instruction reads, each once. -/
def portsIn (gs : List Nat) : List Nat := ((gs.filter isPort).map (· - 60)).eraseDups

namespace State

/-- A port bound in the direction of its use, to a queue that exists (R65). -/
def portOk (s : State) (t port : Nat) (push : Bool) : Bool :=
  let p := (s.thr t).ports.get port
  p.bound && p.push == push && s.names p (s.portQueue t port)

/-- What hinders the ports of an instruction, before anything is popped or pushed: a wrong binding or a closed queue traps
QUEUE, an empty or a full queue blocks, an entry that is poisoned traps POISON and stays (R221; DEDUCED, log 9), and a push waits until
the thread's earlier operations are performed at the queue's scope (R65). -/
def portHinder (s : State) (t : Nat) (ins : List Nat) (out : Option Nat) : Option TRes :=
  if ins.any (fun p => !s.portOk t p false) || out.any (fun p => !s.portOk t p true) then some (.trap (trapOf .queue))
  else if ins.any (fun p => ((s.thr t).portIn.get p).isNone && (s.queue (s.portQueue t p)).state == .closed) ||
      out.any (fun p => let q := (s.queue (s.portQueue t p)).state; q == .closing || q == .closed) then
    some (.trap (trapOf .queue))
  else match ins.find? (fun p => ((s.thr t).portIn.get p).isNone &&
      (s.queue (s.portQueue t p)).count ≤ (ins.takeWhile (· != p)).countP (fun r =>
        ((s.thr t).portIn.get r).isNone && s.portQueue t r == s.portQueue t p)) with
    | some p => some (.block s (.queue (s.portQueue t p)))
    | none =>
      match ins.findSome? (fun p => if ((s.thr t).portIn.get p).isSome then none
        else s.entryPoison (s.portQueue t p) (coreDie (s.coreOf t)) ((ins.takeWhile (· != p)).countP (fun r =>
          ((s.thr t).portIn.get r).isNone && s.portQueue t r == s.portQueue t p))) with
      | some va => some (.trap { cause := .poison, code := 0x0103, va := some va })
      | none =>
      match out with
      | none => none
      | some p =>
        let q := s.queue (s.portQueue t p)
        if q.cap ≤ q.count then some (.block s (.queue (s.portQueue t p)))
        else if !s.released t q.scope then some .hold
        else none

/-- Pop a port once; the entry stands in the thread until the instruction takes it. -/
def latchPort (s : State) (t port : Nat) : State :=
  if ((s.thr t).portIn.get port).isSome then s
  else
    let q := s.portQueue t port
    let (s1, v) := s.pop q (coreDie (s.coreOf t)) (s.coreOf t)
    let s2 := s1.acquire (s.coreOf t) (s.queue q).scope
    s2.modThr t (fun x => { x with portIn := x.portIn.set port (some v) })

/-- The value of a g field, with ports already popped. -/
def gVal (x : Thread) (n : Nat) : Word := if isPort n then (x.portIn.get (n - 60)).getD 0 else x.rdG n

/-- The instruction has taken its ports' entries. -/
def unlatch (s : State) (t : Nat) (ports : List Nat) : State :=
  if ports.isEmpty then s
  else s.modThr t (fun x => { x with portIn := ports.foldl (fun m p => m.set p none) x.portIn })

/-- A register that an instruction reads has an uncorrectable error: its thread's next use of it traps POISON (R219). -/
def usesLost (x : Thread) (rs : List RegName) : Bool := x.lost.any rs.contains

/-- What holds back an instruction that counts up a flag: an uncorrectable error in it (R219), or its count of 7 (R248). -/
def flagHinder (x : Thread) (f : Option Nat) : Option TRes :=
  if usesLost x (f.toList.map .flag) then some (.trap (trapOf .poison)) else if flagFull x f then some .hold else none

/-- The operands of an instruction: its source g fields, its source w registers, a g field that it writes, and the check of
its format tags.  The rest of its effect is given the state with the ports popped and the values of the g fields. -/
def operands (s : State) (t : Nat) (gs ws : List Nat) (dst : Option Nat) (pre : Thread → Option TrapInfo)
    (k : State → List Word → TRes) : TRes :=
  let x := s.thr t
  if usesLost x (gs.map .g ++ ws.map .w) then .trap (trapOf .poison)
  else if someEmpty x gs ws then .block s (.catchReg gs ws)
  else match pre x with
    | some i => .trap i
    | none =>
      let ins := portsIn gs
      match s.portHinder t ins (dst.bind (fun d => if isPort d then some (d - 60) else none)) with
      | some r => r
      | none =>
        let s1 := ins.foldl (fun s p => s.latchPort t p) s
        match k s1 (gs.map (gVal (s1.thr t))) with
        | .done s2 dst => .done (s2.unlatch t ins) dst
        | .leave s2 => .leave (s2.unlatch t ins)
        | r => r

/-- A destination write of a g field: g0 discards, a port pushes, a register is written and full (R275). -/
def wr (s : State) (t n : Nat) (v : Word) : State :=
  if isPort n then
    let c := s.ctx (keyCtx t)
    s.push (s.portQueue t (n - 60)) (coreDie c.core) (keyCtx t) c.tenant.toNat c.asid v c.core
  else s.modThr t (fun x => x.wrG n v)

end State

/-- No format check. -/
def noCheck (_ : Thread) : Option TrapInfo := none

/-- A register operation d := f(sources). -/
def regOp (d : BitVec 6) (gs : List (BitVec 6)) (f : List Word → Word) (s : State) (t : Nat) : TRes :=
  s.operands t (gs.map BitVec.toNat) [] (some d.toNat) noCheck (fun s vs => .done (s.wr t d.toNat (f vs)) none)

/-- An operation that sets FSTAT bits beside its result (R234). -/
def floatOp (d : BitVec 6) (gs : List (BitVec 6)) (f : RMode → List Word → Res) (s : State) (t : Nat) : TRes :=
  s.operands t (gs.map BitVec.toNat) [] (some d.toNat) noCheck (fun s vs =>
    let r := f (modeOf (s.thr t)) vs
    .done ((s.modThr t (fun x => x.raise r.2)).wr t d.toNat (BitVec.ofNat 32 r.1)) none)

/-- A comparison into a predicate. -/
def predOp (p : Nat) (gs : List (BitVec 6)) (f : List Word → Bool) (s : State) (t : Nat) : TRes :=
  s.operands t (gs.map BitVec.toNat) [] none noCheck (fun s vs => .done (s.modThr t (fun x => x.wrP p (f vs))) none)

/-- Trap ILLEGAL for a thread whose instruction breaks the limits of its operands (check 2 of R273). -/
def illegal : TRes := .trap (trapOf .illegal)

/-- An operation on the thread alone. -/
def threadOp (f : Thread → Thread) (s : State) (t : Nat) : TRes := .done (s.modThr t f) none

end Sys2Proof.Machine
end

