-- ==== Sys2Proof/Machine/Timing.lean ====
section
/-! DEFINITION. Results of fixed latency and the interlock on them (R18, R39, R276): which registers an instruction reads and
writes, when its results may be read, and how long it holds the special unit.  A result stands in its register from the issue
on; what a post or a reader may see of it before its latency has passed is kept in Thread.busy (log 6). -/

namespace Sys2Proof.Machine

/-- A register in the numbering of Thread.busy.  FSTAT stands at 160 (R234, R301); no flag is interlocked. -/
def RegName.code : RegName → Nat
  | .g n => n
  | .a n => 64 + n
  | .p n => 96 + n
  | .w n => 128 + n
  | .flag n => 192 + n

def fstatCode : Nat := 160

/-- The a registers and predicates that an instruction reads (R220). -/
def readsAP (i : Instr) : List RegName :=
  let a (n : BitVec 4) : RegName := .a n.toNat
  let p (n : BitVec 3) : RegName := .p n.toNat
  match i with
  | .pand _ x y | .por _ x y | .pxor _ x y | .pandn _ x y => [p x, p y]
  | .pnot _ x | .pmovp _ x | .sel _ _ _ x | .br x _ _ | .call x _ _ => [p x]
  | .acmp _ x y _ => [a x, a y]
  | .aadd _ x _ _ | .asplit _ x | .amova _ x | .aaddi _ x _ | .jmp x | .jcall _ x | .ret x | .spawn _ x _ | .ld _ x _ _ _ _
  | .wld _ x _ _ _ _ | .wst _ x _ _ _ _ | .gather _ x _ _ _ _ | .scatter _ x _ _ _ _ | .pref x _ _ | .atomAdd _ x _ _ _
  | .atomMinI _ x _ _ _ | .atomMinN _ x _ _ _ | .atomMaxI _ x _ _ _ | .atomMaxN _ x _ _ _ | .atomAnd _ x _ _ _ | .atomOr _ x _ _ _
  | .atomXor _ x _ _ _ | .atomXchg _ x _ _ _ | .atomFadd _ x _ _ _ | .atomBump _ x _ _ _ | .acas _ x _ _ _ | .twaitany x | .twaitall x
  | .tfirst _ x | .tclr x | .tset x | .ttest _ x | .qbind _ x _ | .hpush _ x _ | .rpost _ x _ _ _ | .rpostw _ x _ _ _ | .revoke x _ _
  | .stream x _ _ _ | .streamg x _ _ _ | .scopy x _ _ _ | .binscat x _ _ _ | .sfill x _ _ _ | .mma _ x _ _ _ | .mmas _ x _ _ _
  | .xld _ x _ _ _ | .xst _ x _ _ _ | .xdrain _ x _ _ _ | .bind _ x _ _ | .pxfind _ x _ _ | .pxins _ x _ _ _ | .pxref _ x _ _ _
  | .attn _ x _ _ => [a x]
  | .st t x _ y _ _ => if y.toNat = 7 then [a x, .a (t.toNat % 16)] else [a x]
  | _ => []

/-- The full bits and flags that an instruction reads as such (R219): the full bit of FULL's register, and every flag of MOVS FLAGS. -/
def readsBits (i : Instr) : List RegName :=
  match i with
  | .full _ r k => [if k.toNat = 0 then .g r.toNat else .w r.toNat]
  | .movs _ n => if n.toNat = 0x50 then (List.range 12).map .flag else []
  | _ => []

/-- The g fields that an instruction reads; a port among them is no register. -/
def readsG (x : Thread) (i : Instr) : List Nat :=
  match i with
  | .movC _ c => [c.toNat]
  | .addC d c | .subC d c | .andC d c | .orC d c | .xorC d c | .shlC d c | .shrC d c | .faddC d c | .fmulC d c | .fmaxC d c
  | .fsubC d c => [d.toNat, c.toNat]
  | .addiC d _ | .shriC d _ => [d.toNat]
  | .add _ a b | .sub _ a b | .mul _ a b | .mulhI _ a b | .mulhN _ a b | .divI _ a b | .divN _ a b | .remI _ a b | .remN _ a b
  | .and _ a b | .or _ a b | .xor _ a b | .andn _ a b | .shl _ a b | .shr _ a b | .sar _ a b | .rot _ a b | .minI _ a b | .minN _ a b
  | .maxI _ a b | .maxN _ a b | .fadd _ a b | .fsub _ a b | .fmul _ a b | .fdiv _ a b | .fmin _ a b | .fmax _ a b
  | .fcpsgn _ a b => [a.toNat, b.toNat]
  | .fma d a b | .fms d a b | .fnma d a b | .fnms d a b => [a.toNat, b.toNat, d.toNat]
  | .abs _ a | .neg _ a | .clz _ a | .popc _ a | .brev _ a | .mov _ a | .not _ a | .fabs _ a | .fneg _ a | .fsqrt _ a | .frcp _ a
  | .frsq _ a | .ex2 _ a => [a.toNat]
  | .addi _ a _ | .andi _ a _ | .ori _ a _ | .xori _ a _ => [a.toNat]
  | .shli _ a _ | .shri _ a _ | .sari _ a _ | .roti _ a _ => [a.toNat]
  | .cmp _ a b _ _ => [a.toNat, b.toNat]
  | .fcmp _ a b _ => [a.toNat, b.toNat]
  | .cmpi _ _ a _ => [a.toNat]
  | .pmovg _ a => [a.toNat]
  | .sel _ a b _ => [a.toNat, b.toNat]
  | .fcvtF32I32 _ a _ | .fcvtF32N32 _ a _ | .fcvtI32F32 _ a _ | .fcvtN32F32 _ a _ | .fcvtF32F16 _ a _ | .fcvtF16F32 _ a _
  | .fcvtF32Bf16 _ a _ | .fcvtBf16F32 _ a _ | .frnd _ a _ => [a.toNat]
  | .aadd _ _ b _ => [b.toNat]
  | .amov _ b => [b.toNat, b.toNat + 1]
  | .movsw a _ => [a.toNat]
  | .spawn d _ b => d.toNat :: (List.range 8).map (· + b.toNat)
  | .st t _ _ y _ _ => if y.toNat = 7 then [] else if y.toNat = 5 then [t.toNat, t.toNat + 1] else [t.toNat]
  | .atomAdd _ _ b _ _ | .atomMinI _ _ b _ _ | .atomMinN _ _ b _ _ | .atomMaxI _ _ b _ _ | .atomMaxN _ _ b _ _
  | .atomAnd _ _ b _ _ | .atomOr _ _ b _ _ | .atomXor _ _ b _ _ | .atomXchg _ _ b _ _ | .atomFadd _ _ b _ _
  | .atomBump _ _ b _ _ => [b.toNat]
  | .acas _ _ b _ _ => [b.toNat, b.toNat + 1]
  | .barWait a _ => [a.toNat]
  | .barInit a _ _ => [a.toNat]
  | .qtry _ q b => if (x.ports.get q.toNat).push then [b.toNat] else []
  | .hpush a _ _ => [a.toNat]
  | .mkh _ a _ => [a.toNat]
  | .rpost d _ b _ _ => [b.toNat, d.toNat]
  | .rpostw d _ _ _ _ => [d.toNat]
  | .stream _ b _ _ | .streamg _ b _ _ | .scopy _ b _ _ | .binscat _ b _ _ | .sfill _ b _ _ => [b.toNat]
  | .mma _ _ b _ _ | .mmas _ _ b _ _ => [b.toNat]
  | .xld _ _ b _ _ | .xst _ _ b _ _ => [b.toNat, b.toNat + 1]
  | .xdrain _ a b _ _ => if cut (x.rdA a.toNat).toNat 60 4 == 0xC then [b.toNat] else [b.toNat, b.toNat + 1]
  | .unbind b _ _ => [b.toNat]
  | .settle d b _ _ | .recomp d b _ _ => [b.toNat, d.toNat]
  | .stale _ b _ | .bstat _ b _ => [b.toNat]
  | .pxins _ _ b _ _ => [b.toNat, b.toNat + 1]
  | .pxref _ _ b _ _ => [b.toNat]
  | .pxunref _ b _ _ => [b.toNat]
  | .kvapp _ b _ _ | .kvtrim _ b _ _ => [b.toNat, b.toNat + 1]
  | .kvxlat _ b _ => [b.toNat, b.toNat + 1]
  | .wscl _ _ b => [b.toNat]
  | .wsets _ a _ => [a.toNat]
  | .full _ a k => if k.toNat = 0 then [a.toNat] else []
  | _ => []

/-- The w registers that an instruction reads; the old destination of WFMA, WDOT, WTAG and WSETS counts as read (R319). -/
def readsW (i : Instr) : List Nat :=
  match i with
  | .wadd _ a b | .wsub _ a b | .wmul _ a b | .wmax _ a b | .wmin _ a b | .wpack _ a b | .wshuf _ a b => [a.toNat, b.toNat]
  | .wcmp _ a b _ => [a.toNat, b.toNat]
  | .wfma d a b | .wdot d a b => [a.toNat, b.toNat, d.toNat]
  | .wred _ a _ => [a.toNat]
  | .wcvt _ a _ _ _ => [a.toNat]
  | .wunpk _ a _ => [a.toNat]
  | .wtag d _ => [d.toNat]
  | .wscl _ a _ => [a.toNat]
  | .wsets d _ _ => [d.toNat]
  | .wst t _ _ _ _ _ => [t.toNat]
  | .gather _ _ b _ _ _ => [b.toNat]
  | .scatter d _ b _ _ _ => [b.toNat, d.toNat]
  | .rpostw _ _ b _ _ => [b.toNat]
  | .full _ a k => if k.toNat = 1 then [a.toNat] else []
  | _ => []

/-- FSTAT counts as read by a MOVS of it and by every MOVSW, which wait for the thread's earlier float operations (R234, R301). -/
def readsFstat (i : Instr) : Bool :=
  match i with
  | .movs _ n => n.toNat == 0x40
  | .movsw _ _ => true
  | _ => false

/-- SRSTEP is read or written by a MOVS or MOVSW of it and by every instruction that may round stochastically (R234). -/
def usesStep (i : Instr) : Bool :=
  match i with
  | .movs _ n => n.toNat == 0x42
  | .movsw _ n => n.toNat == 0x42
  | .wcvt _ _ _ _ k => k == 1
  | .xst _ _ _ _ _ | .xdrain _ _ _ _ _ | .stream _ _ _ _ => true
  | _ => false

/-- What an instruction waits for, in the numbering of Thread.busy. -/
def sourceCodes (x : Thread) (i : Instr) : List Nat :=
  (readsAP i).map RegName.code ++ (readsG x i).filter (· < 60) ++ (readsW i).map (128 + ·) ++
    (if readsFstat i then [fstatCode] else [])

/-- The results of fixed latency that an instruction delivers, and the latency (R18, and the entries of 19 to 22).  A load, and
everything else that a flag counts, is not among them. -/
def resultsOf (i : Instr) : List RegName × Nat :=
  let g (d : BitVec 6) (n : Nat) : List RegName × Nat := ([.g d.toNat], n)
  let a (d : BitVec 4) : List RegName × Nat := ([.a d.toNat], 4)
  let p (d : BitVec 3) (n : Nat) : List RegName × Nat := ([.p d.toNat], n)
  let w (d : BitVec 4) (n : Nat) : List RegName × Nat := ([.w d.toNat], n)
  match i with
  | .movC d _ | .addC d _ | .subC d _ | .andC d _ | .orC d _ | .xorC d _ | .shlC d _ | .shrC d _ | .addiC d _ | .moviC d _
  | .shriC d _ => g d 4
  | .faddC d _ | .fmulC d _ | .fmaxC d _ | .fsubC d _ => g d 6
  | .add d _ _ | .sub d _ _ | .mul d _ _ | .mulhI d _ _ | .mulhN d _ _ | .and d _ _ | .or d _ _ | .xor d _ _ | .andn d _ _
  | .shl d _ _ | .shr d _ _ | .sar d _ _ | .rot d _ _ | .minI d _ _ | .minN d _ _ | .maxI d _ _ | .maxN d _ _ => g d 4
  | .divI d _ _ | .divN d _ _ | .remI d _ _ | .remN d _ _ => g d 20
  | .abs d _ | .neg d _ | .clz d _ | .popc d _ | .brev d _ | .mov d _ | .not d _ => g d 4
  | .addi d _ _ | .andi d _ _ | .ori d _ _ | .xori d _ _ => g d 4
  | .shli d _ _ | .shri d _ _ | .sari d _ _ | .roti d _ _ => g d 4
  | .movh d _ => g d 4
  | .cmp d _ _ _ _ => p d 4
  | .cmpi d _ _ _ => p d 4
  | .pand d _ _ | .por d _ _ | .pxor d _ _ | .pandn d _ _ => p d 4
  | .pnot d _ => p d 4
  | .pmovg d _ => p d 4
  | .pmovp d _ => g d 4
  | .sel d _ _ _ => g d 4
  | .fadd d _ _ | .fsub d _ _ | .fmul d _ _ | .fmin d _ _ | .fmax d _ _ | .fcpsgn d _ _ | .fma d _ _ | .fms d _ _ | .fnma d _ _
  | .fnms d _ _ => g d 6
  | .fdiv d _ _ => g d 24
  | .fabs d _ | .fneg d _ => g d 6
  | .fsqrt d _ => g d 24
  | .frcp d _ | .frsq d _ | .ex2 d _ => g d 16
  | .fcmp d _ _ _ => p d 6
  | .fcvtF32I32 d _ _ | .fcvtF32N32 d _ _ | .fcvtI32F32 d _ _ | .fcvtN32F32 d _ _ | .fcvtF32F16 d _ _ | .fcvtF16F32 d _ _
  | .fcvtF32Bf16 d _ _ | .fcvtBf16F32 d _ _ | .frnd d _ _ => g d 6
  | .aadd d _ _ _ => a d
  | .amov d _ => a d
  | .asplit d _ => ([.g d.toNat, .g (d.toNat + 1)], 4)
  | .acmp d _ _ _ => p d 4
  | .amova d _ => a d
  | .aaddi d _ _ => a d
  | .afrom d _ => a d
  | .movs d n => if n.toNat = 0x50 then ([.g d.toNat, .g (d.toNat + 1)], 4) else g d 4
  | .barArrive d _ => g d 4
  | .barTest d _ q => ([.g d.toNat, .p q.toNat], 4)
  | .tfirst d _ => g d 4
  | .ttest d _ => p d 4
  | .full d _ _ => p d 4
  | .xguard d _ _ => g d 4
  | .xtag d _ => g d 4
  | .wadd d _ _ | .wsub d _ _ | .wmul d _ _ | .wmax d _ _ | .wmin d _ _ | .wpack d _ _ | .wshuf d _ _ | .wfma d _ _ => w d 6
  | .wdot d _ _ => w d 8
  | .wred d _ _ => g d 6
  | .wcvt d _ _ _ _ => w d 6
  | .wunpk d _ _ => w d 6
  | .wtag d _ => w d 6
  | .wscl d _ _ => w d 6
  | .wsets d _ _ => w d 6
  | .wcmp d _ _ _ => g d 6
  | _ => ([], 0)

/-- A float operation, which may set FSTAT when its result is delivered (R234). -/
def setsFstat (i : Instr) : Bool :=
  match i with
  | .faddC _ _ | .fmulC _ _ | .fmaxC _ _ | .fsubC _ _ | .fadd _ _ _ | .fsub _ _ _ | .fmul _ _ _ | .fdiv _ _ _ | .fmin _ _ _
  | .fmax _ _ _ | .fma _ _ _ | .fms _ _ _ | .fnma _ _ _ | .fnms _ _ _ | .fsqrt _ _ | .frcp _ _ | .frsq _ _ | .ex2 _ _ | .fcmp _ _ _ _
  | .fcvtF32I32 _ _ _ | .fcvtF32N32 _ _ _ | .fcvtI32F32 _ _ _ | .fcvtN32F32 _ _ _ | .fcvtF32F16 _ _ _ | .fcvtF16F32 _ _ _
  | .fcvtF32Bf16 _ _ _ | .fcvtBf16F32 _ _ _ | .frnd _ _ _ | .wadd _ _ _ | .wsub _ _ _ | .wmul _ _ _ | .wmax _ _ _ | .wmin _ _ _
  | .wfma _ _ _ | .wdot _ _ _ | .wred _ _ _ | .wcvt _ _ _ _ _ | .wunpk _ _ _ | .wscl _ _ _ | .wcmp _ _ _ _ => true
  | _ => false

/-- The instructions of the special unit (R18, R288). -/
def usesSpecial (i : Instr) : Bool :=
  match i with
  | .frcp _ _ | .frsq _ _ | .ex2 _ _ => true
  | _ => false

namespace State

/-- A register that an instruction reads has a result under way (R39, R276). -/
def notYet (s : State) (t : Nat) (i : Instr) : Bool :=
  let x := s.thr t
  (sourceCodes x i).any (fun k => s.cycle < (x.busy.get k).due)

/-- An issued command of the thread may take a step of SRSTEP, and its tensor record, which says whether it does, has not been read yet
(R234, log 68). -/
def stepOpen (s : State) (t : Nat) : Bool :=
  s.cmds.cells.any (fun e => match e.2 with
    | some c => c.thr == t && usesStep c.i && !c.ready && !c.drawn
    | none => false)

/-- The troupe's instruction is not ready: an operand of fixed latency is still to come, or its pipe is taken (R39).  A word that no
instruction is waits for nothing. -/
def interlocked (s : State) (sel : Sel) (i : Instr) : Bool :=
  i.wf && (sel.slots.any (fun k => s.notYet (threadKey sel.ctx k) i ||
      (usesStep i && s.stepOpen (threadKey sel.ctx k))) ||
    (usesSpecial i && s.cycle < ((s.core sel.core).islots.get (sel.slots.headD 0 % 4)).special))

end State

/-- A thread's results of fixed latency are under way; x is the thread before the instruction (R18, R249). -/
def Thread.stamp (x y : Thread) (now : Nat) (i : Instr) : Thread :=
  let r := resultsOf i
  let old := y.busy.drop (fun _ b => b.due ≤ now)
  let one (m : Tab Busy) (n : RegName) : Tab Busy :=
    match n with
    | .g k => if k = 0 ∨ 60 ≤ k then m else m.set k { due := now + r.2, empty := x.gEmpty.get k }
    | .p k => if k = 0 then m else m.set (96 + k) { due := now + r.2 }
    | .w k => m.set (128 + k) { due := now + r.2, empty := x.wEmpty.get k }
    | n => m.set n.code { due := now + r.2 }
  let b := r.1.foldl one old
  { y with busy := if setsFstat i then b.set fstatCode { due := max (b.get fstatCode).due (now + r.2) } else b }

namespace State

/-- The cycles that a FENCE takes when nothing is awaited (R313): 4, and 8 more for the self-invalidation of an acquire. -/
def fenceCycles (i : Instr) : Nat :=
  match i with
  | .fence p u c => if p = 0 ∨ u = 0 then 0 else if u.getLsbD 0 ∧ 2 ≤ c.toNat then 12 else 4
  | _ => 0

/-- After the issue: the threads that have executed the instruction await its results, and the special unit is held for 8 threads
a cycle (R18, R288). -/
def stamped (s s' : State) (sel : Sel) (i : Instr) : State :=
  let ran := sel.slots.filter (fun k =>
    (s'.thr (threadKey sel.ctx k)).run == .runnable && (s'.thr (threadKey sel.ctx k)).pc != (s.thr (threadKey sel.ctx k)).pc)
  if ran.isEmpty then s'
  else if fenceCycles i ≠ 0 then
    s'.modCtx sel.ctx (fun c => { c with troupes := c.troupes.map (fun tr =>
      if tr.slots.any ran.contains then { tr with readyAt := max tr.readyAt (s.cycle + fenceCycles i) } else tr) })
  else if (resultsOf i).1.isEmpty then s'
  else
    let s1 := ran.foldl (fun u k => u.modThr (threadKey sel.ctx k) (fun y => (s.thr (threadKey sel.ctx k)).stamp y s.cycle i)) s'
    if usesSpecial i then s1.modCore sel.core (fun c => { c with islots := c.islots.modify (sel.slots.headD 0 % 4) (fun x =>
      { x with special := s.cycle + (ran.length + 7) / 8 }) })
    else s1

end State

end Sys2Proof.Machine
end

