-- ==== Sys2Proof/Machine/Fetch.lean ====
section
/-! DEFINITION. Clause fetch (R27, R28, R259, R261, R264, R274), the issue of one decoded instruction, and control
transfers. -/

namespace Sys2Proof.Machine

/-- What a fetch gives: the bytes, a translation fault, an uncorrectable line, or nothing yet: the page must be walked and all
walkers of the die are taken (R134). -/
inductive Fetched
  | bytes (s : State) (bs : List Byte)
  | fault (f : XFault)
  | poison (pa : Nat)
  | wait

namespace State

/-- Some thread of a core stands in a code block. -/
def blockHeld (s : State) (core b : Nat) : Bool := s.threads.cells.any (fun e => e.2.block == b + 1 && s.coreOf e.1 == core)

/-- A code block of 64 bytes as the core executes it: the contents in its instruction cache while a thread stands in the block, so that
old and new parcels never mix, and otherwise those that the fetch at .l2 finds now (R274, log 70). -/
def codeBlock (s : State) (t b : Nat) : State × List Byte :=
  let core := s.coreOf t
  let c := (s.core core).icache.get b
  if !c.isEmpty && s.blockHeld core b then (s, c)
  else
    let bs := s.mem.bytes (64 * b) 64
    let s1 := s.useLine (coreDie core) (64 * b) (some (s.tenantOf t)) false false
    (s1.modCore core (fun k =>
      { k with icache := (if 1024 ≤ k.icache.cells.length then k.icache.drop (fun i _ => !s.blockHeld core i) else k.icache).set b bs }), bs)

/-- A clause fetch that must be walked while all 96 walkers of the die are taken (R134). -/
def walkersTaken (s : State) (core : Nat) (asid : BitVec 16) (va : Nat) : Bool :=
  (s.tlbHit core asid va .fetch).isNone && 96 ≤ s.walksOn (coreDie core)

/-- Fetch n bytes of code for a thread, all in one block: from its kernel's snapshot, or at .l2 with the X permission, registrations
ignored (R28, R133, R274). -/
def fetchPart (s : State) (t va n : Nat) : Fetched :=
  let k := s.kernel (s.kernelOf t)
  let asid := (s.ctx (keyCtx t)).asid
  let core := s.coreOf t
  if k.codeVa.toNat ≤ va ∧ va < k.codeVa.toNat + 128 ∧ k.state ≠ .absent then
    .bytes s ((List.range n).map (fun i => k.code.get (va + i - k.codeVa.toNat)))
  else if s.walkersTaken core asid va then .wait
  else
    match s.translate core asid va .fetch with
    | .error f => .fault f
    | .ok (s1, pa) =>
      match (List.range n).find? (fun i => s1.poison.get ((pa + i) / 4) || s1.homeLost core (pa + i)) with
      | some i => .poison (pa + i)
      | none =>
        if (s1.core core).lostBlocks.contains (pa / 64) then .poison pa else
        let r := s1.codeBlock t (pa / 64)
        .bytes r.1 ((r.2.drop (pa % 64)).take n)

/-- Fetch n parcels of code for a thread.  No parcel lies in two blocks. -/
def fetchParcels (s : State) (t va : Nat) : Nat → Fetched
  | 0 => .bytes s []
  | n + 1 =>
    match s.fetchPart t va 2 with
    | .bytes s1 b => (match fetchParcels s1 t (va + 2) n with
      | .bytes s2 bs => .bytes s2 (b ++ bs)
      | r => r)
    | r => r

def fetch (s : State) (t va n : Nat) : Fetched := s.fetchParcels t va (n / 2)

/-- The threads of a troupe stand in the block of a parcel that they execute. -/
def standIn (s : State) (sel : Sel) (va : Nat) : State :=
  let t := threadKey sel.ctx (sel.slots.headD 0)
  let k := s.kernel (s.kernelOf t)
  if k.codeVa.toNat ≤ va ∧ va < k.codeVa.toNat + 128 ∧ k.state ≠ .absent then s
  else match s.translate sel.core (s.ctx sel.ctx).asid va .fetch with
    | .error _ => s
    | .ok (s1, pa) => sel.slots.foldl (fun s k => s.modThr (threadKey sel.ctx k) (fun x => { x with block := pa / 64 + 1 })) s1

/-- A parcel that begins a clause header (R262, R264). -/
def headerParcel (bs : List Byte) : Bool := leNat (bs.take 1) % 128 == 0x7F

/-- The thread waits for a faulted fetch: an entry of the operand log, or a place in it (R37, R264). -/
def logFetch (s : State) (t : Nat) (va : DWord) (f : XFault) : TRes :=
  if 256 ≤ s.logCount (keyCtx t) then .block s .log
  else
    let p : Piece := { place := .virt, va := va, pa := none, len := 4, pos := 0, data := [], poisoned := false,
                       st := .logged f }
    let a : Access := { thr := t, core := s.coreOf t, op := .fetch, lv := .l2, dst := .none, pieces := [p], flag := none,
                        pc := (s.thr t).pc, asid := (s.ctx (keyCtx t)).asid, resolved := false, discarded := false,
                        due := s.cycle + 1, batch := s.issueOf t }
    .block (((s.denied (coreDie a.core) a.asid va.toNat f).setAcc s.nextId (some a)).takeId.2) (.fetch s.nextId)

/-- The target of a control transfer (R264, R295–R297): canonical and even, fetched with X, and a clause header; only then
is the link written. -/
def transfer (s : State) (t : Nat) (target : DWord) (link : Thread → Thread) : TRes :=
  if !canonical target || target.toNat % 2 == 1 then .trap (trapAt .address target)
  else match s.fetch t target.toNat 2 with
    | .wait => .hold
    | .fault f => s.logFetch t target f
    | .poison pa => .trap { cause := .poison, code := 0x0103, va := some target.toNat, pa := some pa }
    | .bytes s1 bs => if headerParcel bs then .done (s1.modThr t link) (some target) else .trap (trapAt .target target)

/-- Where the thread stands allows an instruction of n parcels: past a passed header, and wholly inside the clause
(R261, R272). -/
def insideClause (x : Thread) (n : Nat) : Bool := x.gate && 2 ≤ x.off.toNat && x.off.toNat + n ≤ 2 + x.len

/-- What stands at the thread's PC may not be executed there: TARGET for what is no header at a group's entry (R27), ILLEGAL
otherwise (R261). -/
def notHere (x : Thread) : TRes :=
  if !x.gate && !x.begun then .trap (trapAt .target x.hdr) else illegal

/-- What check 1 of R273 asks of a thread beyond the place in the clause: a control transfer ends its clause (R264), a required flag
field names a flag (R269), and a tile is one of the group's (R327). -/
def mayStand (s : State) (t : Nat) (i : Instr) : Bool :=
  let x := s.thr t
  let tile (d : BitVec 3) : Bool := d.toNat < (s.group x.group).tileCount
  match i with
  | .br _ _ _ | .call _ _ _ => x.lastOf i.parcels
  | .jmp _ | .ret _ => x.lastOf i.parcels
  | .jcall _ _ => x.lastOf i.parcels
  | .ld _ _ _ _ f _ => needFlag x f
  | .wld _ _ _ _ f _ => needFlag x f
  | .gather _ _ _ f _ _ => needFlag x f
  | .atomAdd _ _ _ f _ | .atomMinI _ _ _ f _ | .atomMinN _ _ _ f _ | .atomMaxI _ _ _ f _ | .atomMaxN _ _ _ f _ | .atomAnd _ _ _ f _
  | .atomOr _ _ _ f _ | .atomXor _ _ _ f _ | .atomXchg _ _ _ f _ | .atomFadd _ _ _ f _ | .atomBump _ _ _ f _
  | .acas _ _ _ f _ => needFlag x f
  | .mkh _ _ f => needFlag x f
  | .hpush _ _ f | .hpop _ _ f | .htry _ _ f => needFlag x f
  | .mma d _ _ f _ | .mmas d _ _ f _ | .xld d _ _ f _ => tile d && needFlag x f
  | .xst d _ _ _ _ | .xdrain d _ _ _ _ => tile d
  | .xzero d => tile d
  | .xguard _ d _ => tile d
  | .xtag _ d => tile d
  | .bind _ _ f _ => needFlag x f
  | .stale _ _ f | .bstat _ _ f => needFlag x f
  | .pxfind _ _ f _ | .attn _ _ f _ => needFlag x f
  | .pxins _ _ _ f _ | .pxref _ _ _ f _ => needFlag x f
  | .pxunref _ _ f _ | .kvapp _ _ f _ | .kvtrim _ _ f _ => needFlag x f
  | .kvxlat _ _ f => needFlag x f
  | _ => true

/-- ISSUE of a decoded instruction: an instruction that breaks its operands' limits, or does not lie in the clause, traps
ILLEGAL before any operand is read (R272, R273); one that reads a register with an uncorrectable error traps POISON (R219). -/
def run (s : State) (i : Instr) (yields : Bool) (op : State → Nat → TRes) : Host.Outcome State Fault Refusal :=
  s.issue i.parcels yields (fun s t =>
    if i.wf && insideClause (s.thr t) i.parcels then
      if !s.mayStand t i then illegal
      else if usesLost (s.thr t) (readsAP i ++ readsBits i) then .trap (trapOf .poison) else op s t
    else notHere (s.thr t))

end State

end Sys2Proof.Machine
end

