-- ==== Sys2Proof/Machine/Record.lean ====
section
/-! DEFINITION. The launch record of a kernel (R20, R21), the numbers it gives the scheduler, and its validation (R26). -/

namespace Sys2Proof.Machine

namespace Kernel

/-- A field of n bytes of the snapshot's record. -/
def field (k : Kernel) (off n : Nat) : Nat := Memory.nat k.record off n

def nlevels (k : Kernel) : Nat := k.field 5 1
def portable (k : Kernel) : Bool := k.field 7 1 % 2 == 1
def guarded (k : Kernel) : Bool := k.field 7 1 / 2 % 2 == 1
def entry (k : Kernel) : DWord := BitVec.ofNat 64 (k.field 8 8)
def args (k : Kernel) : DWord := BitVec.ofNat 64 (k.field 0x10 8)
def level (k : Kernel) (i : Nat) : Nat := k.field (0x18 + 4 * i) 4
def size (k : Kernel) (i : Nat) : Nat := k.level i / 2 ^ 16
def domain (k : Kernel) (i : Nat) : Nat := k.level i / 2 ^ 12 % 16
def scope (k : Kernel) (i : Nat) : Nat := k.level i / 2 ^ 8 % 16
def barriers (k : Kernel) : Nat := k.field 0x38 1
def tiles (k : Kernel) : Nat := k.field 0x39 1
def producer (k : Kernel) : Nat := k.field 0x3A 1
def pad (k : Kernel) : Nat := k.field 0x3C 4
def clusterBytes (k : Kernel) : Nat := k.field 0x40 4
def lane (k : Kernel) : Nat := k.field 0x44 4
def srKey (k : Kernel) : DWord := BitVec.ofNat 64 (k.field 0x48 8)
def doneVa (k : Kernel) : DWord := BitVec.ofNat 64 (k.field 0x50 8)
def trapGrp (k : Kernel) : DWord := BitVec.ofNat 64 (k.field 0x58 8)

/-- The levels of the record, from 0 up. -/
def levels (k : Kernel) : List Nat := List.range (min k.nlevels 8)

/-- The highest level of a domain, if any. -/
def highest (k : Kernel) (d : Nat) : Option Nat := (k.levels.filter (fun i => k.domain i == d)).getLast?

/-- The group level g (R21). -/
def groupLevel (k : Kernel) : Nat := (k.highest 1).getD 0

/-- The lowest level of domain 2, whose units are the cluster-domain units (R23). -/
def clusterLevel (k : Kernel) : Option Nat := k.levels.find? (fun i => k.domain i == 2)

/-- The product of SIZE over levels from a up to below b. -/
def sizes (k : Kernel) (a b : Nat) : Nat := (List.range (b - a)).foldl (fun n i => n * k.size (a + i)) 1

/-- Threads per group, groups of the kernel, and groups per cluster-domain unit. -/
def threads (k : Kernel) : Nat := k.sizes 0 k.groupLevel
def groupCount (k : Kernel) : Nat := k.sizes k.groupLevel k.nlevels
def perUnit (k : Kernel) : Nat :=
  match k.clusterLevel with
  | some c => k.sizes k.groupLevel c
  | none => 1

/-- R20 and R21: the fields of a level. -/
def levelOk (k : Kernel) (i : Nat) : Bool :=
  let w := k.level i
  if i < k.nlevels then
    k.size i != 0 && w % 256 == 0 && k.domain i ≤ 4 && k.scope i ≤ 5 && k.domain i ≤ k.scope i &&
    (k.scope i != 5 || i + 1 == k.nlevels) && (i != 0 || (k.domain i == 0 && k.scope i == 0)) &&
    (i == 0 || k.domain (i - 1) ≤ k.domain i) &&
    (i == 0 || k.groupLevel ≤ i || k.scope i == 1)
  else w == 0

/-- An address that is 0 or a canonical multiple of n. -/
def addrOk (v : DWord) (n : Nat) : Bool := v == 0 || (canonical v && v.toNat % n == 0)

/-- DONE passes its check (R26, R33). -/
def doneOk (k : Kernel) : Bool := addrOk k.doneVa 4

/-- The launch record is valid (R26). -/
def valid (k : Kernel) : Bool :=
  k.field 0 4 == 0x4B374C31 && k.field 4 1 == 1 && 2 ≤ k.nlevels && k.nlevels ≤ 8 && k.field 6 1 ≤ 1 &&
  k.field 7 1 < 4 && canonical k.entry && k.entry.toNat % 2 == 0 && (List.range 8).all k.levelOk &&
  (k.highest 1).isSome && k.threads ≤ 1024 &&
  k.barriers ≤ 32 && k.tiles ≤ 8 && k.field 0x3B 1 == 0 && k.pad % 256 == 0 && k.pad ≤ 786432 &&
  k.clusterBytes % 2048 == 0 && k.clusterBytes ≤ 2097152 && k.lane % 16 == 0 && k.lane ≤ 256 &&
  (k.producer == 255 || (k.clusterLevel.isSome && k.producer < k.perUnit)) && k.doneOk &&
  (List.range 4).all (fun i => k.field (0x60 + 8 * i) 8 == 0)

/-- The coordinates of launched group n at level i, lowest varying fastest (R35). -/
def coord (k : Kernel) (n i : Nat) : Nat := n / k.sizes k.groupLevel i % max 1 (k.size i)

end Kernel

end Sys2Proof.Machine
end

