-- ==== Sys2Proof/Machine/Control.lean ====
section
/-! DEFINITION. The instructions of 19: the clause header, the compact forms, integer, predicate, float, address and
control instructions, and the special registers.  EXIT and SPAWN stand with the groups. -/

namespace Sys2Proof.Machine

abbrev Out := Host.Outcome State Fault Refusal

/-- One result from the values of one, two or three sources. -/
def f1 (f : Word → Word) : List Word → Word
  | [x] => f x
  | _ => 0
def f2 (f : Word → Word → Word) : List Word → Word
  | [x, y] => f x y
  | _ => 0
def r1 (f : RMode → Nat → Res) (m : RMode) : List Word → Res
  | [x] => f m x.toNat
  | _ => (0, 0)
def r2 (f : RMode → Nat → Nat → Res) (m : RMode) : List Word → Res
  | [x, y] => f m x.toNat y.toNat
  | _ => (0, 0)
def r3 (f : RMode → Nat → Nat → Nat → Res) (m : RMode) : List Word → Res
  | [x, y, z] => f m x.toNat y.toNat z.toNat
  | _ => (0, 0)

/-- CLAUSE (R261–R263, R277): a troupe passes a header when every flag of WAIT is zero in every thread; a thread whose flag
is held in the operand log leaves and blocks (R37); a flag with an uncorrectable error traps POISON (R219). -/
def passHeader (w : BitVec 12) (a b n : BitVec 4) (y : BitVec 1) (s : State) (t : Nat) : TRes :=
  let x := s.thr t
  if 12 < a.toNat || 12 < b.toNat || x.gate then illegal
  else if x.lost.any (fun r => match r with | .flag k => w.getLsbD k || a.toNat == k || b.toNat == k | _ => false) then
    .trap (trapOf .poison)
  else
    let pending := (List.range 12).filter (fun k => w.getLsbD k && x.flags.get k != 0)
    if pending.isEmpty then
      let name (f : BitVec 4) : Option Nat := if f.toNat = 12 then none else some f.toNat
      .done (s.modThr t (fun x => { x with gate := true, begun := true, off := 2, curA := name a, curB := name b,
                                           len := n.toNat + 1, y := y.toNat == 1 })) none
    else
      match s.loggedWith t pending.contains with
      | [] => .hold
      | ids => .block s (.gate ids)

def execClause (w : BitVec 12) (a b n : BitVec 4) (y : BitVec 1) (s : State) : Out :=
  s.issue 0 false (passHeader w a b n y)

/-! Compact forms (R266, R278). -/

def compact (d : BitVec 6) (k : BitVec 5) (f : Word → Word → Word) (s : State) (t : Nat) : TRes :=
  regOp d [d, k.zeroExtend 6] (f2 f) s t

def compactI (d : BitVec 6) (f : Word → Word) (s : State) (t : Nat) : TRes := regOp d [d] (f1 f) s t

def compactF (d : BitVec 6) (k : BitVec 5) (f : RMode → Nat → Nat → Res) (s : State) (t : Nat) : TRes :=
  floatOp d [d, k.zeroExtend 6] (r2 f) s t

/-- A shift count is bits 4:0 (R266, R279). -/
def shl (x y : Word) : Word := x <<< (y.toNat % 32)
def shr (x y : Word) : Word := x >>> (y.toNat % 32)
def sar (x y : Word) : Word := x.sshiftRight (y.toNat % 32)
def rot (x y : Word) : Word := x.rotateLeft (y.toNat % 32)

def execMovC (d : BitVec 6) (k : BitVec 5) (s : State) : Out :=
  s.run (.movC d k) false (regOp d [k.zeroExtend 6] (f1 id))
def execAddC (d : BitVec 6) (k : BitVec 5) (s : State) : Out := s.run (.addC d k) false (compact d k (· + ·))
def execSubC (d : BitVec 6) (k : BitVec 5) (s : State) : Out := s.run (.subC d k) false (compact d k (· - ·))
def execAndC (d : BitVec 6) (k : BitVec 5) (s : State) : Out := s.run (.andC d k) false (compact d k (· &&& ·))
def execOrC (d : BitVec 6) (k : BitVec 5) (s : State) : Out := s.run (.orC d k) false (compact d k (· ||| ·))
def execXorC (d : BitVec 6) (k : BitVec 5) (s : State) : Out := s.run (.xorC d k) false (compact d k (· ^^^ ·))
def execShlC (d : BitVec 6) (k : BitVec 5) (s : State) : Out := s.run (.shlC d k) false (compact d k shl)
def execShrC (d : BitVec 6) (k : BitVec 5) (s : State) : Out := s.run (.shrC d k) false (compact d k shr)
def execAddiC (d : BitVec 6) (k : BitVec 5) (s : State) : Out :=
  s.run (.addiC d k) false (compactI d (· + k.zeroExtend 32))
def execMoviC (d : BitVec 6) (k : BitVec 5) (s : State) : Out :=
  s.run (.moviC d k) false (regOp d [] (fun _ => k.zeroExtend 32))
def execFaddC (d : BitVec 6) (k : BitVec 5) (s : State) : Out := s.run (.faddC d k) false (compactF d k fadd)
def execFmulC (d : BitVec 6) (k : BitVec 5) (s : State) : Out := s.run (.fmulC d k) false (compactF d k fmul)
def execFmaxC (d : BitVec 6) (k : BitVec 5) (s : State) : Out :=
  s.run (.fmaxC d k) false (compactF d k (fun _ => fminmax true))
def execFsubC (d : BitVec 6) (k : BitVec 5) (s : State) : Out := s.run (.fsubC d k) false (compactF d k fsub)
def execShriC (d : BitVec 6) (k : BitVec 5) (s : State) : Out :=
  s.run (.shriC d k) false (compactI d (· >>> k.toNat))
def execNopC (s : State) : Out := s.run .nopC false (fun s _ => .done s none)

/-! INT (R279, R280). -/

def divI (x y : Word) : Word :=
  if y = 0 then (if x.msb then 0x80000000 else 0x7FFFFFFF) else BitVec.ofInt 32 (x.toInt.tdiv y.toInt)
def divN (x y : Word) : Word := if y = 0 then 0xFFFFFFFF else x / y
def remI (x y : Word) : Word := if y = 0 then x else BitVec.ofInt 32 (x.toInt.tmod y.toInt)
def remN (x y : Word) : Word := if y = 0 then x else x % y
def mulhI (x y : Word) : Word := BitVec.ofInt 32 (x.toInt * y.toInt / 2 ^ 32)
def mulhN (x y : Word) : Word := BitVec.ofNat 32 (x.toNat * y.toNat / 2 ^ 32)
def clz (x : Word) : Word := if x = 0 then 32 else BitVec.ofNat 32 (31 - Nat.log2 x.toNat)
def popc (x : Word) : Word :=
  (List.range 32).foldl (fun acc k => if x.getLsbD k then acc + 1 else acc) 0
def brev (x : Word) : Word :=
  (List.range 32).foldl (fun acc k => if x.getLsbD k then acc ||| ((1 : Word) <<< (31 - k)) else acc) 0
def absI (x : Word) : Word := if x.msb then 0 - x else x

def int2 (i : Instr) (d a b : BitVec 6) (f : Word → Word → Word) (s : State) : Out :=
  s.run i false (regOp d [a, b] (f2 f))
def int1 (i : Instr) (d a : BitVec 6) (f : Word → Word) (s : State) : Out := s.run i false (regOp d [a] (f1 f))

def execAdd (d a b : BitVec 6) (s : State) : Out := int2 (.add d a b) d a b (· + ·) s
def execSub (d a b : BitVec 6) (s : State) : Out := int2 (.sub d a b) d a b (· - ·) s
def execMul (d a b : BitVec 6) (s : State) : Out := int2 (.mul d a b) d a b (· * ·) s
def execMulhI (d a b : BitVec 6) (s : State) : Out := int2 (.mulhI d a b) d a b mulhI s
def execMulhN (d a b : BitVec 6) (s : State) : Out := int2 (.mulhN d a b) d a b mulhN s
def execDivI (d a b : BitVec 6) (s : State) : Out := int2 (.divI d a b) d a b divI s
def execDivN (d a b : BitVec 6) (s : State) : Out := int2 (.divN d a b) d a b divN s
def execRemI (d a b : BitVec 6) (s : State) : Out := int2 (.remI d a b) d a b remI s
def execRemN (d a b : BitVec 6) (s : State) : Out := int2 (.remN d a b) d a b remN s
def execAnd (d a b : BitVec 6) (s : State) : Out := int2 (.and d a b) d a b (· &&& ·) s
def execOr (d a b : BitVec 6) (s : State) : Out := int2 (.or d a b) d a b (· ||| ·) s
def execXor (d a b : BitVec 6) (s : State) : Out := int2 (.xor d a b) d a b (· ^^^ ·) s
def execAndn (d a b : BitVec 6) (s : State) : Out := int2 (.andn d a b) d a b (fun x y => x &&& ~~~y) s
def execShl (d a b : BitVec 6) (s : State) : Out := int2 (.shl d a b) d a b shl s
def execShr (d a b : BitVec 6) (s : State) : Out := int2 (.shr d a b) d a b shr s
def execSar (d a b : BitVec 6) (s : State) : Out := int2 (.sar d a b) d a b sar s
def execRot (d a b : BitVec 6) (s : State) : Out := int2 (.rot d a b) d a b rot s
def execMinI (d a b : BitVec 6) (s : State) : Out :=
  int2 (.minI d a b) d a b (fun x y => if x.toInt ≤ y.toInt then x else y) s
def execMinN (d a b : BitVec 6) (s : State) : Out :=
  int2 (.minN d a b) d a b (fun x y => if x.toNat ≤ y.toNat then x else y) s
def execMaxI (d a b : BitVec 6) (s : State) : Out :=
  int2 (.maxI d a b) d a b (fun x y => if x.toInt ≤ y.toInt then y else x) s
def execMaxN (d a b : BitVec 6) (s : State) : Out :=
  int2 (.maxN d a b) d a b (fun x y => if x.toNat ≤ y.toNat then y else x) s
def execAbs (d a : BitVec 6) (s : State) : Out := int1 (.abs d a) d a absI s
def execNeg (d a : BitVec 6) (s : State) : Out := int1 (.neg d a) d a (fun x => 0 - x) s
def execClz (d a : BitVec 6) (s : State) : Out := int1 (.clz d a) d a clz s
def execPopc (d a : BitVec 6) (s : State) : Out := int1 (.popc d a) d a popc s
def execBrev (d a : BitVec 6) (s : State) : Out := int1 (.brev d a) d a brev s
def execMov (d a : BitVec 6) (s : State) : Out := int1 (.mov d a) d a id s
def execNot (d a : BitVec 6) (s : State) : Out := int1 (.not d a) d a (fun x => ~~~x) s

/-! Immediate forms (R281–R283). -/

def execAddi (d a : BitVec 6) (i : BitVec 13) (s : State) : Out :=
  s.run (.addi d a i) false (regOp d [a] (f1 (· + i.signExtend 32)))
def execAndi (d a : BitVec 6) (i : BitVec 13) (s : State) : Out :=
  s.run (.andi d a i) false (regOp d [a] (f1 (· &&& i.zeroExtend 32)))
def execOri (d a : BitVec 6) (i : BitVec 13) (s : State) : Out :=
  s.run (.ori d a i) false (regOp d [a] (f1 (· ||| i.zeroExtend 32)))
def execXori (d a : BitVec 6) (i : BitVec 13) (s : State) : Out :=
  s.run (.xori d a i) false (regOp d [a] (f1 (· ^^^ i.signExtend 32)))
def execShli (d a : BitVec 6) (n : BitVec 5) (s : State) : Out :=
  s.run (.shli d a n) false (regOp d [a] (f1 (fun x => shl x (n.zeroExtend 32))))
def execShri (d a : BitVec 6) (n : BitVec 5) (s : State) : Out :=
  s.run (.shri d a n) false (regOp d [a] (f1 (fun x => shr x (n.zeroExtend 32))))
def execSari (d a : BitVec 6) (n : BitVec 5) (s : State) : Out :=
  s.run (.sari d a n) false (regOp d [a] (f1 (fun x => sar x (n.zeroExtend 32))))
def execRoti (d a : BitVec 6) (n : BitVec 5) (s : State) : Out :=
  s.run (.roti d a n) false (regOp d [a] (f1 (fun x => rot x (n.zeroExtend 32))))
def execMovh (d : BitVec 6) (i : BitVec 19) (s : State) : Out :=
  s.run (.movh d i) false (regOp d [] (fun _ => i.zeroExtend 32 <<< 13))

/-! Comparisons and predicates (R284–R287). -/

def p2 (f : Word → Word → Bool) : List Word → Bool
  | [x, y] => f x y
  | _ => false
def p1 (f : Word → Bool) : List Word → Bool
  | [x] => f x
  | _ => false

def execCmp (p : BitVec 3) (a b : BitVec 6) (y : BitVec 3) (c : BitVec 4) (s : State) : Out :=
  s.run (.cmp p a b y c) false (predOp p.toNat [a, b] (p2 (icond (y.toNat == 0) c.toNat)))

def execCmpi (p c : BitVec 3) (a : BitVec 6) (i : BitVec 13) (s : State) : Out :=
  s.run (.cmpi p c a i) false (predOp p.toNat [a] (p1 (fun x => cmpiCond c.toNat x (i.signExtend 32))))

def plog (d a b : BitVec 3) (f : Bool → Bool → Bool) (s : State) (t : Nat) : TRes :=
  threadOp (fun x => x.wrP d.toNat (f (x.rdP a.toNat) (x.rdP b.toNat))) s t

def execPand (d a b : BitVec 3) (s : State) : Out := s.run (.pand d a b) false (plog d a b and)
def execPor (d a b : BitVec 3) (s : State) : Out := s.run (.por d a b) false (plog d a b or)
def execPxor (d a b : BitVec 3) (s : State) : Out := s.run (.pxor d a b) false (plog d a b xor)
def execPandn (d a b : BitVec 3) (s : State) : Out := s.run (.pandn d a b) false (plog d a b (fun x y => x && !y))
def execPnot (d a : BitVec 3) (s : State) : Out :=
  s.run (.pnot d a) false (threadOp (fun x => x.wrP d.toNat (!x.rdP a.toNat)))
def execPmovg (d : BitVec 3) (a : BitVec 6) (s : State) : Out :=
  s.run (.pmovg d a) false (predOp d.toNat [a] (p1 (fun x => x != 0)))
def execPmovp (d : BitVec 6) (a : BitVec 3) (s : State) : Out :=
  s.run (.pmovp d a) false (fun s t => regOp d [] (fun _ => if (s.thr t).rdP a.toNat then 1 else 0) s t)
def execSel (d a b : BitVec 6) (p : BitVec 3) (s : State) : Out :=
  s.run (.sel d a b p) false (fun s t => regOp d [a, b] (f2 (fun x y => if (s.thr t).rdP p.toNat then x else y)) s t)

/-! Float operations (R288–R291). -/

def float2 (i : Instr) (d a b : BitVec 6) (f : RMode → Nat → Nat → Res) (s : State) : Out :=
  s.run i false (floatOp d [a, b] (r2 f))
def float1 (i : Instr) (d a : BitVec 6) (f : RMode → Nat → Res) (s : State) : Out :=
  s.run i false (floatOp d [a] (r1 f))

def execFadd (d a b : BitVec 6) (s : State) : Out := float2 (.fadd d a b) d a b fadd s
def execFsub (d a b : BitVec 6) (s : State) : Out := float2 (.fsub d a b) d a b fsub s
def execFmul (d a b : BitVec 6) (s : State) : Out := float2 (.fmul d a b) d a b fmul s
def execFdiv (d a b : BitVec 6) (s : State) : Out := float2 (.fdiv d a b) d a b fdiv s
def execFmin (d a b : BitVec 6) (s : State) : Out := float2 (.fmin d a b) d a b (fun _ => fminmax false) s
def execFmax (d a b : BitVec 6) (s : State) : Out := float2 (.fmax d a b) d a b (fun _ => fminmax true) s
def execFabs (d a : BitVec 6) (s : State) : Out := int1 (.fabs d a) d a (· &&& 0x7FFFFFFF) s
def execFneg (d a : BitVec 6) (s : State) : Out := int1 (.fneg d a) d a (· ^^^ 0x80000000) s
def execFcpsgn (d a b : BitVec 6) (s : State) : Out :=
  int2 (.fcpsgn d a b) d a b (fun x y => (x &&& 0x7FFFFFFF) ||| (y &&& 0x80000000)) s
def execFsqrt (d a : BitVec 6) (s : State) : Out := float1 (.fsqrt d a) d a fsqrt s
def execFrcp (d a : BitVec 6) (s : State) : Out := float1 (.frcp d a) d a frcp s
def execFrsq (d a : BitVec 6) (s : State) : Out := float1 (.frsq d a) d a frsq s
def execEx2 (d a : BitVec 6) (s : State) : Out := float1 (.ex2 d a) d a (fun _ => ex2) s

/-- x·y ± z with z the old destination (R289). -/
def fused (i : Instr) (d a b : BitVec 6) (np na : Bool) (s : State) : Out :=
  s.run i false (floatOp d [a, b, d] (r3 (fun m => fma m np na)))

def execFma (d a b : BitVec 6) (s : State) : Out := fused (.fma d a b) d a b false false s
def execFms (d a b : BitVec 6) (s : State) : Out := fused (.fms d a b) d a b false true s
def execFnma (d a b : BitVec 6) (s : State) : Out := fused (.fnma d a b) d a b true false s
def execFnms (d a b : BitVec 6) (s : State) : Out := fused (.fnms d a b) d a b true true s

def execFcmp (p : BitVec 3) (a b : BitVec 6) (c : BitVec 7) (s : State) : Out :=
  s.run (.fcmp p a b c) false (fun s t => s.operands t [a.toNat, b.toNat] [] none noCheck (fun s vs =>
    let x := f32.decode (vs.headD 0).toNat
    let y := f32.decode ((vs.drop 1).headD 0).toNat
    .done (s.modThr t (fun th =>
      (th.raise (fcmpInv c.toNat x y)).wrP p.toNat (fcond c.toNat x y))) none))

/-- The rounding of an FCVT: RMODE, or the instruction's own (R291). -/
def cvtMode (r : BitVec 3) (m : RMode) : RMode :=
  match r.toNat with | 1 => .rne | 2 => .rtz | 3 => .rdn | 4 => .rup | _ => m

def fcvt (i : Instr) (d a : BitVec 6) (r : BitVec 3) (f : RMode → Nat → Res) (s : State) : Out :=
  s.run i false (floatOp d [a] (fun m => r1 f (cvtMode r m)))

/-- An exact widening: a signalling NaN sets INV (R238). -/
def widen (f : Fmt) (x : Nat) : Res :=
  let v := f.decode (x % 2 ^ f.width)
  ((f32.round .rne v).1, if v.isSnan then fINV else 0)

def toWord (r : Int × BitVec 5) : Res := ((BitVec.ofInt 32 r.1).toNat, r.2)

def toI32 (m : RMode) (x : Nat) : Res := toWord (toIntRange (-0x80000000) 0x7FFFFFFF fINV (roundInt m) (f32.decode x))
def toN32 (m : RMode) (x : Nat) : Res := toWord (toIntRange 0 0xFFFFFFFF fINV (roundInt m) (f32.decode x))

def execFcvtF32I32 (d a : BitVec 6) (r : BitVec 3) (s : State) : Out :=
  fcvt (.fcvtF32I32 d a r) d a r (fun m x => ofInt m (BitVec.ofNat 32 x).toInt) s
def execFcvtF32N32 (d a : BitVec 6) (r : BitVec 3) (s : State) : Out :=
  fcvt (.fcvtF32N32 d a r) d a r (fun m x => ofInt m x) s
def execFcvtI32F32 (d a : BitVec 6) (r : BitVec 3) (s : State) : Out := fcvt (.fcvtI32F32 d a r) d a r toI32 s
def execFcvtN32F32 (d a : BitVec 6) (r : BitVec 3) (s : State) : Out := fcvt (.fcvtN32F32 d a r) d a r toN32 s
def execFcvtF32F16 (d a : BitVec 6) (r : BitVec 3) (s : State) : Out :=
  fcvt (.fcvtF32F16 d a r) d a r (fun _ => widen f16) s
def execFcvtF16F32 (d a : BitVec 6) (r : BitVec 3) (s : State) : Out :=
  fcvt (.fcvtF16F32 d a r) d a r (fun m x => convert f16 m none false (f32.decode x)) s
def execFcvtF32Bf16 (d a : BitVec 6) (r : BitVec 3) (s : State) : Out :=
  fcvt (.fcvtF32Bf16 d a r) d a r (fun _ => widen bf16) s
def execFcvtBf16F32 (d a : BitVec 6) (r : BitVec 3) (s : State) : Out :=
  fcvt (.fcvtBf16F32 d a r) d a r (fun m x => convert bf16 m none false (f32.decode x)) s
def execFrnd (d a : BitVec 6) (r : BitVec 3) (s : State) : Out := fcvt (.frnd d a r) d a r frnd s

/-! Address operations (R292–R294). -/

def execAadd (d a : BitVec 4) (b : BitVec 6) (k : BitVec 3) (s : State) : Out :=
  s.run (.aadd d a b k) false (fun s t => s.operands t [b.toNat] [] none noCheck (fun s vs =>
    .done (s.modThr t (fun x => x.wrA d.toNat (x.rdA a.toNat + ((vs.headD 0).signExtend 64 <<< k.toNat)))) none))
def execAmov (d : BitVec 4) (p : BitVec 6) (s : State) : Out :=
  s.run (.amov d p) false (fun s t => s.operands t [p.toNat, p.toNat + 1] [] none noCheck (fun s vs =>
    .done (s.modThr t (fun x => x.wrA d.toNat (DWord.join (vs.headD 0) ((vs.drop 1).headD 0)))) none))
def execAsplit (d : BitVec 6) (a : BitVec 4) (s : State) : Out :=
  s.run (.asplit d a) false (threadOp (fun x => x.wrPair d.toNat (x.rdA a.toNat)))

/-- EQ NE LTN GEN of address registers (R292). -/
def acond (c : Nat) (x y : DWord) : Bool :=
  match c with
  | 0 => x == y
  | 1 => x != y
  | 2 => x.toNat < y.toNat
  | _ => y.toNat ≤ x.toNat

def execAcmp (p : BitVec 3) (a b : BitVec 4) (c : BitVec 3) (s : State) : Out :=
  s.run (.acmp p a b c) false (threadOp (fun x => x.wrP p.toNat (acond c.toNat (x.rdA a.toNat) (x.rdA b.toNat))))
def execAmova (d a : BitVec 4) (s : State) : Out :=
  s.run (.amova d a) false (threadOp (fun x => x.wrA d.toNat (x.rdA a.toNat)))
def execAaddi (d a : BitVec 4) (i : BitVec 13) (s : State) : Out :=
  s.run (.aaddi d a i) false (threadOp (fun x => x.wrA d.toNat (x.rdA a.toNat + i.signExtend 64)))
def execAfrom (d : BitVec 4) (i : BitVec 19) (s : State) : Out :=
  s.run (.afrom d i) false (threadOp (fun x => x.wrA d.toNat (x.hdr + (i.signExtend 64 <<< 1))))

/-! Control transfers (R264, R295–R297). -/

/-- The target of BR and CALL: PC + 2 × sext(off21, 21). -/
def branchTarget (x : Thread) (o : BitVec 21) : DWord := x.pc + (o.signExtend 64 <<< 1)

def taken (x : Thread) (p : BitVec 3) (n : BitVec 1) : Bool := xor (x.rdP p.toNat) (n.toNat == 1)

def branch (p : BitVec 3) (n : BitVec 1) (o : BitVec 21) (link : Thread → Thread) (s : State) (t : Nat) : TRes :=
  let x := s.thr t
  if taken x p n then s.transfer t (branchTarget x o) link else .done s none

def execBr (p : BitVec 3) (n : BitVec 1) (o : BitVec 21) (s : State) : Out := s.run (.br p n o) false (branch p n o id)
def execCall (p : BitVec 3) (n : BitVec 1) (o : BitVec 21) (s : State) : Out :=
  s.run (.call p n o) false (branch p n o (fun x => x.wrA 15 x.clauseEnd))
def execJmp (a : BitVec 4) (s : State) : Out :=
  s.run (.jmp a) false (fun s t => s.transfer t ((s.thr t).rdA a.toNat) id)
def execJcall (d a : BitVec 4) (s : State) : Out :=
  s.run (.jcall d a) false (fun s t => s.transfer t ((s.thr t).rdA a.toNat) (fun x => x.wrA d.toNat x.clauseEnd))
def execRet (a : BitVec 4) (s : State) : Out :=
  s.run (.ret a) false (fun s t => s.transfer t ((s.thr t).rdA a.toNat) id)

/-! CTRL (R48, R298). -/

def execYield (s : State) : Out := s.run .yield true (fun s _ => .done s none)
def execNop (s : State) : Out := s.run .nop false (fun s _ => .done s none)
def execBrk (s : State) : Out := s.run .brk false (fun _ _ => .trap (trapOf .brk))
def execTrap (c : BitVec 12) (s : State) : Out :=
  s.run (.trap c) false (fun _ _ => .trap { trapOf .soft with detail := c.toNat * 65536 })

/-- RESERVED_ENCODING: a pattern that R272 does not allow traps ILLEGAL for every thread of the troupe. -/
def execReservedEncoding (_w : Word) (s : State) : Out := s.issue 2 false (fun s t => State.notHere (s.thr t))

/-! Special registers (R250, R251, R300, R301). -/

/-- TRAPINFO in a trap service group (R90). -/
def trapInfo (s : State) (t : Nat) : Word :=
  let g := s.group (s.thr t).group
  if g.serves = 0 then 0
  else
    let h := s.group g.serves
    let c := s.ctx h.ctx
    BitVec.ofNat 32 (h.cause.toNat + c.core * 2 ^ 8 + c.bank * 2 ^ 16 + (s.groupSlots g.serves (fun _ => true)).headD 0 * 2 ^ 17 +
      if h.multi then 2 ^ 27 else 0)

/-- The value of a special register, and what reading it changes in the thread: the latches of CYCLO and NOWLO (R251). -/
def special (s : State) (t : Nat) (n : Nat) : Word × (Thread → Thread) :=
  let x := s.thr t
  let c := s.ctx (keyCtx t)
  let g := s.group x.group
  let cyc : DWord := BitVec.ofNat 64 (s.coreCycles (coreDie c.core))
  let now : DWord := BitVec.ofNat 64 s.now
  let lrec := (s.kernel g.kernel).recVa
  let plain (v : Word) : Word × (Thread → Thread) := (v, id)
  if n = 0x00 then plain x.tidx
  else if n = 0x01 then plain g.gnum
  else if n = 0x02 then plain x.gsize
  else if n = 0x03 then plain (BitVec.ofNat 32 c.core)
  else if n = 0x04 then plain (BitVec.ofNat 32 (coreDie c.core))
  else if n = 0x05 then plain (BitVec.ofNat 32 (coreCluster c.core % 7))
  else if 0x08 ≤ n ∧ n ≤ 0x0F then plain (x.lvc.get (n - 0x08))
  else if 0x10 ≤ n ∧ n ≤ 0x17 then plain (x.lvn.get (n - 0x10))
  else if n = 0x20 then (cyc.lo, fun x => { x with cycHi := some cyc.hi })
  else if n = 0x21 then (x.cycHi.getD cyc.hi, id)
  else if n = 0x22 then (now.lo, fun x => { x with nowHi := some now.hi })
  else if n = 0x23 then (x.nowHi.getD now.hi, id)
  else if n = 0x30 then plain (BitVec.ofNat 32 (keyCtx t))
  else if n = 0x31 then plain (c.tenant.zeroExtend 32)
  else if n = 0x32 then plain (BitVec.ofNat 32 (keySlot t))
  else if n = 0x40 then plain (x.fstat.zeroExtend 32)
  else if n = 0x41 then plain (x.rmode.zeroExtend 32)
  else if n = 0x42 then plain x.srstep
  else if n = 0x51 then plain (DWord.lo c.tags)
  else if n = 0x52 then plain (DWord.hi c.tags)
  else if n = 0x60 then plain lrec.lo
  else if n = 0x61 then plain lrec.hi
  else if n = 0x70 then plain (trapInfo s t)
  else plain 0

/-- MOVS: FLAGS goes to a pair; every other register to a g field. -/
def execMovs (d : BitVec 6) (n : BitVec 10) (s : State) : Out :=
  s.run (.movs d n) false (fun s t =>
    if n.toNat = 0x50 then .done (s.modThr t (fun x => x.wrPair d.toNat x.flagsWord)) none
    else s.operands t [] [] (some d.toNat) noCheck (fun s _ =>
      let r := special s t n.toNat
      .done ((s.modThr t r.2).wr t d.toNat r.1) none))

/-- MOVSW: FSTAT, RMODE or SRSTEP; reserved bits of the value are ignored (R234, R301). -/
def execMovsw (a : BitVec 6) (n : BitVec 10) (s : State) : Out :=
  s.run (.movsw a n) false (fun s t => s.operands t [a.toNat] [] none noCheck (fun s vs =>
    let v := vs.headD 0
    .done (s.modThr t (fun x =>
      if n.toNat = 0x40 then { x with fstat := v.truncate 5 }
      else if n.toNat = 0x41 then { x with rmode := v.truncate 2 }
      else { x with srstep := v })) none))

end Sys2Proof.Machine
end

