-- ==== Sys2Proof/Machine/Storage.lean ====
section
/-! DEFINITION. The access instructions of 20: LD, ST, WLD, WST, GATHER, SCATTER, PREF, ATOM, ACAS and FENCE.  Each checks
its address, counts its flag up and puts an access under way; the steps of the memory system complete it. -/

namespace Sys2Proof.Machine

/-- The lv field (R102). -/
def levelCode (l : BitVec 2) : Level :=
  match l.toNat with | 0 => .l1 | 1 => .l2 | 2 => .sys | _ => .st

/-- Bytes of an access type (R307). -/
def tySize (y : Nat) : Nat := if y ≤ 1 then 1 else if y ≤ 3 then 2 else if y = 4 then 4 else 8

/-- The parts of n bytes from an address, cut at 128-byte lines (R308): address, length and position. -/
def lineParts : Nat → DWord → Nat → Nat → List (DWord × Nat × Nat)
  | 0, _, _, _ => []
  | k + 1, va, pos, n =>
    if n = 0 then []
    else
      let m := min n (128 - va.toNat % 128)
      (va, m, pos) :: lineParts k (va + BitVec.ofNat 64 m) (pos + m) (n - m)

namespace State

/-- check(ea, size, lv) of R302: ALIGN, then ADDRESS under R95 and R96; ok says which level a local space accepts. -/
def checkAt (s : State) (t : Nat) (ea : DWord) (size align : Nat) (localOk : Bool) : Except TrapInfo Place :=
  if ea.toNat % align ≠ 0 then .error (trapAt .align ea)
  else match s.locate t ea size with
    | none => .error (trapAt .address ea)
    | some .virt =>
      match s.windowOf t ea size with
      | some n => .ok (.win n)
      | none => if canonical (ea + BitVec.ofNat 64 (size - 1)) then .ok .virt else .error (trapAt .address ea)
    | some pl => if localOk then .ok pl else .error (trapAt .address ea)

/-- What holds back a memory operation at issue: its flag at 7 (R248), too few free store-queue entries (R304), or a full
operand log behind a faulted entry (R87). -/
def memHinder (s : State) (t : Nat) (flag : Option Nat) (entries : Nat) : Option TRes :=
  match flagHinder (s.thr t) flag with
  | some r => some r
  | none =>
    if entries ≠ 0 ∧ 16 < s.queued t + entries then some .hold
    else if s.heldBehind t s.nextId ∧ 256 ≤ s.logCount (keyCtx t) then some (.block s .log)
    else none

/-- An access is issued: its flag counts up, and it is under way. -/
def launch (s : State) (t : Nat) (op : AccOp) (lv : Level) (dst : Dst) (ws : List Want) (flag : Option Nat)
    (entries : Nat) : TRes :=
  if ws.any (fun w => s.gleanerHolds (s.coreOf t) w.place w.len) then .hold
  else match s.memHinder t flag entries with
  | some r => r
  | none =>
    let s1 := s.startAccess t op lv dst ws flag (s.thr t).pc
    .done (s1.modThr t (fun x => x.flagUp flag)) none

/-- The parts of one access: cut at lines on translated memory, whole in a local level. -/
def wants (pl : Place) (ea : DWord) (n : Nat) (data : List Byte) : List Want :=
  match pl with
  | .virt => (lineParts (n / 128 + 2) ea 0 n).map (fun p =>
      { va := p.1, place := .virt, len := p.2.1, pos := p.2.2, data := (data.drop p.2.2).take p.2.1 })
  | _ => [{ va := ea, place := pl, len := n, pos := 0, data := data }]

/-- A tracked instruction whose flag field says none traps ILLEGAL (R269). -/
def tracked (s : State) (t : Nat) (f : BitVec 1) (k : TRes) : TRes :=
  if needFlag (s.thr t) f then k else illegal

end State

/-- Where LD writes (R307). -/
def ldDst (t : Nat) (y : Nat) : Dst := if y = 5 then .pair t else if y = 7 then .a (t % 16) else .g t y

/-- LD (R307). -/
def execLd (t : BitVec 6) (a : BitVec 4) (l : BitVec 2) (y : BitVec 3) (f : BitVec 1) (o : BitVec 9) (s : State) : Out :=
  s.run (.ld t a l y f o) false (fun s th => s.tracked th f (
    let x := s.thr th
    let n := tySize y.toNat
    let ea := x.rdA a.toNat + o.signExtend 64 * BitVec.ofNat 64 n
    match s.checkAt th ea n n (levelCode l == .l1) with
    | .error i => .trap i
    | .ok pl => s.launch th .load (levelCode l) (ldDst t.toNat y.toNat)
        [{ va := ea, place := pl, len := n, pos := 0 }] (x.flagOf f) 0))

/-- The bytes that ST stores from its sources. -/
def stBytes (x : Thread) (t : Nat) (y : Nat) (vs : List Word) : List Byte :=
  if y = 7 then leBytes 8 (x.rdA (t % 16)).toNat
  else if y = 5 then leBytes 4 (vs.headD 0).toNat ++ leBytes 4 ((vs.drop 1).headD 0).toNat
  else leBytes (tySize y) (vs.headD 0).toNat

/-- ST (R307). -/
def execSt (t : BitVec 6) (a : BitVec 4) (l : BitVec 2) (y : BitVec 3) (f : BitVec 1) (o : BitVec 9) (s : State) : Out :=
  let src := if y.toNat = 7 then [] else if y.toNat = 5 then [t.toNat, t.toNat + 1] else [t.toNat]
  s.run (.st t a l y f o) false (fun s th => s.operands th src [] none noCheck (fun s vs =>
    let x := s.thr th
    let n := tySize y.toNat
    let ea := x.rdA a.toNat + o.signExtend 64 * BitVec.ofNat 64 n
    match s.checkAt th ea n n (levelCode l == .l1) with
    | .error i => .trap i
    | .ok pl => s.launch th .store (levelCode l) .none
        [{ va := ea, place := pl, len := n, pos := 0, data := stBytes x t.toNat y.toNat vs }] (x.flagOf f) 1))

/-- The alignment of a packed access in a tag (R308). -/
def tagAlign (t : Nat) : Nat := if State.blockTag t then 1 else 32

/-- WLD (R308). -/
def execWld (t a : BitVec 4) (l : BitVec 2) (o : BitVec 6) (f : BitVec 1) (g : BitVec 6) (s : State) : Out :=
  s.run (.wld t a l o f g) false (fun s th => s.tracked th f (
    let x := s.thr th
    let n := State.footprint g.toNat
    let ea := x.rdA a.toNat + o.signExtend 64 * BitVec.ofNat 64 n
    match s.checkAt th ea n (tagAlign g.toNat) (levelCode l == .l1) with
    | .error i => .trap i
    | .ok pl => s.launch th .load (levelCode l) (.w t.toNat g) (State.wants pl ea n []) (x.flagOf f) 0))

/-- WST stores a register only in its own format (R308). -/
def wstFormat (t : BitVec 4) (g : BitVec 6) (x : Thread) : Option TrapInfo :=
  let tag := (x.rdW t.toNat).tag
  if tag = 0 ∨ (g.toNat ≠ 0x3F ∧ g ≠ tag) then some (trapOf .format) else none

/-- WST (R308). -/
def execWst (t a : BitVec 4) (l : BitVec 2) (o : BitVec 6) (f : BitVec 1) (g : BitVec 6) (s : State) : Out :=
  s.run (.wst t a l o f g) false (fun s th => s.operands th [] [t.toNat] none (wstFormat t g) (fun s _ =>
    let x := s.thr th
    let w := x.rdW t.toNat
    let tag := w.tag.toNat
    let n := State.footprint tag
    let ea := x.rdA a.toNat + o.signExtend 64 * BitVec.ofNat 64 n
    match s.checkAt th ea n (tagAlign tag) (levelCode l == .l1) with
    | .error i => .trap i
    | .ok pl => s.launch th .store (levelCode l) .none (State.wants pl ea n (State.packBytes w tag)) (x.flagOf f) 1))

/-- 32-bit element e of a register's data. -/
def elemOf (w : WReg) (e : Nat) : Word := (w.data >>> (32 * e)).truncate 32

/-- The active elements of an index register with their addresses (R309). -/
def activeElems (base : DWord) (w : WReg) : List (Nat × DWord) :=
  ((List.range 8).filter (fun e => elemOf w e != 0x80000000)).map (fun e =>
    (e, base + ((elemOf w e).signExtend 64 <<< 2)))

/-- The tag of dt (R309): F32 or I32. -/
def dtTag (y : BitVec 1) : BitVec 6 := if y.toNat = 0 then 0x01 else 0x0C

/-- Every active element is checked before any is performed (R309). -/
def checkElems (s : State) (t : Nat) (ok : Bool) : List (Nat × DWord) → Except TrapInfo (List (Nat × DWord × Place))
  | [] => .ok []
  | (e, ea) :: r =>
    match s.checkAt t ea 4 4 ok with
    | .error i => .error i
    | .ok pl => match checkElems s t ok r with
      | .error i => .error i
      | .ok ps => .ok ((e, ea, pl) :: ps)

/-- GATHER (R309). -/
def execGather (d a b : BitVec 4) (f : BitVec 1) (l : BitVec 2) (y : BitVec 1) (s : State) : Out :=
  s.run (.gather d a b f l y) false (fun s th => s.tracked th f (
    let bad (x : Thread) : Option TrapInfo := if (x.rdW b.toNat).tag ≠ 0x0C then some (trapOf .format) else none
    s.operands th [] [b.toNat] none bad (fun s _ =>
      let x := s.thr th
      match checkElems s th (levelCode l == .l1) (activeElems (x.rdA a.toNat) (x.rdW b.toNat)) with
      | .error i => .trap i
      | .ok ps => s.launch th .load (levelCode l) (.elems d.toNat (dtTag y) (ps.map Prod.fst))
          (ps.map (fun p => { va := p.2.1, place := p.2.2, len := 4, pos := 4 * p.1 })) (x.flagOf f) 0)))

/-- SCATTER (R309). -/
def execScatter (d a b : BitVec 4) (f : BitVec 1) (l : BitVec 2) (y : BitVec 1) (s : State) : Out :=
  s.run (.scatter d a b f l y) false (fun s th =>
    let bad (x : Thread) : Option TrapInfo :=
      if (x.rdW b.toNat).tag ≠ 0x0C ∨ (x.rdW d.toNat).tag ≠ dtTag y then some (trapOf .format) else none
    s.operands th [] [b.toNat, d.toNat] none bad (fun s _ =>
      let x := s.thr th
      match checkElems s th (levelCode l == .l1) (activeElems (x.rdA a.toNat) (x.rdW b.toNat)) with
      | .error i => .trap i
      | .ok ps => s.launch th .store (levelCode l) (.elems d.toNat (dtTag y) (ps.map Prod.fst))
          (ps.map (fun p => { va := p.2.1, place := p.2.2, len := 4, pos := 4 * p.1,
                              data := leBytes 4 (elemOf (x.rdW d.toNat) p.1).toNat })) (x.flagOf f) ps.length))

/-- The line is requested; a fault is dropped (R310, R133). -/
def prefLine (s : State) (t : Nat) (l : BitVec 2) (ea : DWord) : State :=
  match s.translate (s.coreOf t) (s.ctx (keyCtx t)).asid ea.toNat .read with
  | .error f => s.denied (coreDie (s.coreOf t)) (s.ctx (keyCtx t)).asid ea.toNat f
  | .ok (s1, pa) =>
    if s1.shared pa || s1.homeLost (s1.coreOf t) pa then s1.noteBlocked (coreDie (s1.coreOf t)) pa
    else
      let s2 := s1.useLine (coreDie (s1.coreOf t)) pa (some (s1.tenantOf t)) (l.toNat == 3) false
      if l.toNat = 0 then (match s2.l1Room (s2.coreOf t) pa with | some s3 => s3.fillLine (s3.coreOf t) pa | none => s2) else s2

/-- PREF (R310). -/
def execPref (a : BitVec 4) (l : BitVec 2) (o : BitVec 9) (s : State) : Out :=
  s.run (.pref a l o) false (fun s th =>
    let ea := (s.thr th).rdA a.toNat + o.signExtend 64
    let sel := cut ea.toNat 60 4
    if sel = 0 ∨ sel = 15 then (if canonical ea then .done (prefLine s th l ea) none else .trap (trapAt .address ea))
    else if 8 ≤ sel ∧ sel ≤ 11 ∧ l.toNat = 0 ∧ cut ea.toNat 32 28 = 0 then .done s none
    else .trap (trapAt .address ea))

/-- ATOM (R311): the operation's code, the level .l2 or .sys; a local space accepts .l2 alone. -/
def atom (i : Instr) (op : Nat) (d : BitVec 6) (a : BitVec 4) (b : BitVec 6) (f : BitVec 1) (l : BitVec 2) (s : State) : Out :=
  s.run i false (fun s th => s.tracked th f (s.operands th [b.toNat] [] none noCheck (fun s vs =>
    let x := s.thr th
    let ea := x.rdA a.toNat
    match s.checkAt th ea 4 4 (l.toNat == 0) with
    | .error i => .trap i
    | .ok pl => s.launch th (.rmw op (vs.headD 0)) (if l.toNat = 0 then .l2 else .sys) (.g d.toNat 4)
        [{ va := ea, place := pl, len := 4, pos := 0 }] (x.flagOf f) 0)))

def execAtomAdd (d : BitVec 6) (a : BitVec 4) (b : BitVec 6) (f : BitVec 1) (l : BitVec 2) (s : State) : Out :=
  atom (.atomAdd d a b f l) 0 d a b f l s
def execAtomMinI (d : BitVec 6) (a : BitVec 4) (b : BitVec 6) (f : BitVec 1) (l : BitVec 2) (s : State) : Out :=
  atom (.atomMinI d a b f l) 1 d a b f l s
def execAtomMinN (d : BitVec 6) (a : BitVec 4) (b : BitVec 6) (f : BitVec 1) (l : BitVec 2) (s : State) : Out :=
  atom (.atomMinN d a b f l) 2 d a b f l s
def execAtomMaxI (d : BitVec 6) (a : BitVec 4) (b : BitVec 6) (f : BitVec 1) (l : BitVec 2) (s : State) : Out :=
  atom (.atomMaxI d a b f l) 3 d a b f l s
def execAtomMaxN (d : BitVec 6) (a : BitVec 4) (b : BitVec 6) (f : BitVec 1) (l : BitVec 2) (s : State) : Out :=
  atom (.atomMaxN d a b f l) 4 d a b f l s
def execAtomAnd (d : BitVec 6) (a : BitVec 4) (b : BitVec 6) (f : BitVec 1) (l : BitVec 2) (s : State) : Out :=
  atom (.atomAnd d a b f l) 5 d a b f l s
def execAtomOr (d : BitVec 6) (a : BitVec 4) (b : BitVec 6) (f : BitVec 1) (l : BitVec 2) (s : State) : Out :=
  atom (.atomOr d a b f l) 6 d a b f l s
def execAtomXor (d : BitVec 6) (a : BitVec 4) (b : BitVec 6) (f : BitVec 1) (l : BitVec 2) (s : State) : Out :=
  atom (.atomXor d a b f l) 7 d a b f l s
def execAtomXchg (d : BitVec 6) (a : BitVec 4) (b : BitVec 6) (f : BitVec 1) (l : BitVec 2) (s : State) : Out :=
  atom (.atomXchg d a b f l) 8 d a b f l s
def execAtomFadd (d : BitVec 6) (a : BitVec 4) (b : BitVec 6) (f : BitVec 1) (l : BitVec 2) (s : State) : Out :=
  atom (.atomFadd d a b f l) 9 d a b f l s
def execAtomBump (d : BitVec 6) (a : BitVec 4) (b : BitVec 6) (f : BitVec 1) (l : BitVec 2) (s : State) : Out :=
  atom (.atomBump d a b f l) 10 d a b f l s

/-- ACAS (R312). -/
def execAcas (d : BitVec 6) (a : BitVec 4) (b : BitVec 6) (f : BitVec 1) (l : BitVec 2) (s : State) : Out :=
  s.run (.acas d a b f l) false (fun s th => s.tracked th f (s.operands th [b.toNat, b.toNat + 1] [] none noCheck (fun s vs =>
    let x := s.thr th
    let ea := x.rdA a.toNat
    match s.checkAt th ea 4 4 (l.toNat == 0) with
    | .error i => .trap i
    | .ok pl => s.launch th (.cas (vs.headD 0) ((vs.drop 1).headD 0)) (if l.toNat = 0 then .l2 else .sys) (.g d.toNat 4)
        [{ va := ea, place := pl, len := 4, pos := 0 }] (x.flagOf f) 0)))

/-- FENCE (R106, R112, R313): nothing issues for the thread until the predecessors are performed at the scope; L in the
successor set invalidates L1 at cluster scope or wider.  Behind a faulted entry it is held in the operand log (R87), and its troupe is
not ready until it has completed (State.fencing). -/
def fence (p u : BitVec 5) (scope : Nat) (s : State) (t : Nat) : TRes :=
  if p = 0 ∨ u = 0 then .done s none
  else if s.heldBehind t s.nextId then s.launch t (.fence p u scope) .l1 .none [] none 0
  else if !s.performed t s.nextId scope p then .hold
  else
    let s1 := if u.getLsbD 0 then s.acquire (s.coreOf t) scope else s
    .done (s1.modThr t (fun x => { x with seen := x.seen.filter (fun r => (s.regns.get r).isSome) })) none

def execFence (p u : BitVec 5) (c : BitVec 3) (s : State) : Out := s.run (.fence p u c) false (fence p u c.toNat)

end Sys2Proof.Machine
end

