-- ==== Sys2Proof/Machine/Sync.lean ====
section
/-! DEFINITION. Barriers (R49–R58, R314), arrival tags (R59–R61, R315), queues (R62–R71, R316, R317) and the task heap
(R72, R73, R318): their instructions and their steps. -/

namespace Sys2Proof.Machine

/-! Barriers. -/

/-- The product of the thread's level sizes from a up to below b (R21, R250). -/
def lvnProduct (x : Thread) (a b : Nat) : Nat := (List.range (b - a)).foldl (fun n i => n * (x.lvn.get (a + i)).toNat) 1

/-- The thread's unit index at level l of its group (R51). -/
def unitIndex (x : Thread) (l : Nat) : Nat := x.tidx.toNat / max 1 (lvnProduct x 0 l)

namespace State

def barrier (s : State) (c p : Nat) : Barrier := (s.ctx c).barriers.get p
def setBarrier (s : State) (c p : Nat) (b : Barrier) : State :=
  s.modCtx c (fun x => { x with barriers := x.barriers.set p b })

/-- Number resolution (R50, R51): the physical barrier, and whether the thread has an arrival bit of its own there; far
says that a number of 32–63 is permitted. -/
def resolve (s : State) (t n : Nat) (far : Bool) : Option (Nat × Bool) :=
  let x := s.thr t
  let c := keyCtx t
  let g := s.group x.group
  if 32 ≤ n then
    let b := s.barrier c (n - 32)
    if far && b.granted && (s.group b.group).kernel == g.kernel then some (n - 32, false) else none
  else if g.barCount ≤ n then none
  else
    let b := s.barrier c (g.barBase + n)
    if b.level = 0 then some (g.barBase + n, true)
    else if b.rbase = n then some (g.barBase + n + unitIndex x b.level, true)
    else none

/-- check_release (R52): the phase flips, and the waiters of the completed phase are to be released. -/
def checkRelease (s : State) (c p : Nat) : State :=
  let b := s.barrier c p
  if 0 < b.expect ∧ b.expect ≤ b.count then
    let taken := b.releasing.flatMap Prod.snd
    let ws := (s.slotsOf c (fun x => x.sync == some p)).filter (fun k => !taken.contains k)
    s.setBarrier c p { b with phase := !b.phase, count := 0, arrived := {}, expect := b.expect - b.drops, drops := 0,
                              releasing := b.releasing ++ [(s.cycle + 6, ws)] }
  else s

/-- ARRIVE (R52) at a resolved barrier. -/
def arrive (s : State) (t p : Nat) (own : Bool) : State :=
  let b := s.barrier (keyCtx t) p
  let b1 := { b with count := b.count + 1, arrived := if own then b.arrived.set (keySlot t) true else b.arrived }
  (s.setBarrier (keyCtx t) p b1).checkRelease (keyCtx t) p

/-- DROP (R52, R54); at EXPECT 0 the implicit DROP of EXIT does nothing. -/
def dropAt (s : State) (t p : Nat) : State :=
  let c := keyCtx t
  let b := s.barrier c p
  if b.expect = 0 then s
  else if b.arrived.get (keySlot t) then s.setBarrier c p { b with drops := b.drops + 1 }
  else
    let s1 := s.setBarrier c p { b with expect := b.expect - 1, dead := b.expect == 1 && b.releasing.isEmpty }
    s1.checkRelease c p

/-- The physical barriers of the thread's group that cover it: its own ones and its sub-group instances (R54). -/
def covering (s : State) (t : Nat) : List Nat :=
  let x := s.thr t
  let g := s.group x.group
  ((List.range g.barCount).map (· + g.barBase)).filter (fun p =>
    let b := s.barrier (keyCtx t) p
    b.level == 0 || p == g.barBase + b.rbase + unitIndex x b.level)

end State

/-- A thread waits on a barrier (R57): its mark and its phase bit stand until it is released.  For a WAIT the bit is that of its
operand (DESIGN CHOICE, log 11). -/
def waitOn (s : State) (t p : Nat) (phase : Bool) : TRes :=
  .block (s.modThr t (fun x => { x with sync := some p, phase := phase })) (.barrier p)

/-- The wait is over: a release under way lets the thread go no more. -/
def waited (s : State) (t : Nat) : TRes :=
  let c := keyCtx t
  let s1 := match (s.thr t).sync with
    | none => s
    | some p =>
      let b := s.barrier c p
      s.setBarrier c p { b with releasing := b.releasing.map (fun (r : Nat × List Nat) => (r.1, r.2.filter (· ≠ keySlot t))) }
  .done (s1.modThr t (fun x => { x with sync := none })) none

/-- A barrier operation on the barrier that a number resolves to, or trap BARRIER. -/
def onBarrier (n : Nat) (far : Bool) (k : State → Nat → Nat → Bool → TRes) (s : State) (t : Nat) : TRes :=
  match s.resolve t n far with
  | none => .trap (trapOf .barrier)
  | some (p, own) => k s t p own

/-- An arrival waits until the thread's earlier loads, stores and posts are performed at core scope (R53); it traps BARRIER
on a DEAD barrier and for a thread that has already arrived. -/
def arriving (k : State → Nat → Nat → Bool → TRes) (s : State) (t p : Nat) (own : Bool) : TRes :=
  let b := s.barrier (keyCtx t) p
  if b.dead || (own && b.arrived.get (keySlot t)) then .trap (trapOf .barrier)
  else if !s.released t 1 then .hold
  else k s t p own

/-- BAR.ARRIVE (R52, R314). -/
def execBarArrive (d b : BitVec 6) (s : State) : Out :=
  s.run (.barArrive d b) false (onBarrier b.toNat true (arriving (fun s t p own =>
    let ph := (s.barrier (keyCtx t) p).phase
    .done ((s.arrive t p own).modThr t (fun x => x.wrG d.toNat (if ph then 1 else 0))) none)))

/-- BAR.WAIT (R52, R57, R314). -/
def execBarWait (a b : BitVec 6) (s : State) : Out :=
  s.run (.barWait a b) false (fun s t => s.operands t [a.toNat] [] none noCheck (fun s vs =>
    onBarrier b.toNat false (fun s t p _ =>
      let bar := s.barrier (keyCtx t) p
      let ph := (vs.headD 0).getLsbD 0
      if (s.thr t).sync == some p then (if bar.phase != ph then waited s t else waitOn s t p ph)
      else if bar.dead then .trap (trapOf .barrier)
      else if bar.phase != ph then waited s t
      else waitOn s t p ph) s t))

/-- BAR.SYNC (R52, R57, R314): on resume it does not arrive again. -/
def execBarSync (b : BitVec 6) (s : State) : Out :=
  s.run (.barSync b) false (onBarrier b.toNat false (fun s t p own =>
    let x := s.thr t
    let ph := (s.barrier (keyCtx t) p).phase
    if x.sync = some p then (if ph != x.phase then waited s t else waitOn s t p x.phase)
    else arriving (fun s t p own =>
      let s1 := s.modThr t (fun x => { x with sync := some p, phase := ph })
      .block (s1.arrive t p own) (.barrier p)) s t p own))

/-- BAR.INIT (R51): level l, expected count k.  An earlier range that began at n is given up: its barriers are named directly
again; the members that an overlapping range leaves behind keep their level and origin (DESIGN CHOICE, log 11). -/
def barInit (n l : Nat) (k : Word) (s : State) (t : Nat) : TRes :=
  let x := s.thr t
  let c := keyCtx t
  let g := s.group x.group
  let top := (s.kernel g.kernel).groupLevel
  let u := if l = top then 1 else lvnProduct x l top
  let range := (List.range u).map (· + (g.barBase + n))
  if n ≥ 32 ∨ l = 0 ∨ top < l ∨ 1024 < k.toNat ∨ g.barCount ≤ n + u - 1 ∨ (s.resolve t n false).isNone ∨
      range.any (fun p => (s.barrier c p).count != 0) then .trap (trapOf .barrier)
  else
    let e := if k = 0 then lvnProduct x 0 l else k.toNat
    let s0 := (List.range g.barCount).foldl (fun s i =>
      let b := s.barrier c (g.barBase + i)
      if b.level ≠ 0 ∧ b.rbase = n then s.setBarrier c (g.barBase + i) { b with level := 0 } else s) s
    .done (range.foldl (fun s p => s.setBarrier c p
      { s.barrier c p with expect := e, count := 0, arrived := {}, drops := 0, dead := false,
                           level := if l = top then 0 else l, rbase := n }) s0) none

def execBarInit (a b : BitVec 6) (l : BitVec 3) (s : State) : Out :=
  s.run (.barInit a b l) false (fun s t => s.operands t [a.toNat] [] none noCheck (fun s vs =>
    barInit b.toNat l.toNat (vs.headD 0) s t))

/-- BAR.TEST (R50, R52). -/
def execBarTest (d b : BitVec 6) (p : BitVec 3) (s : State) : Out :=
  s.run (.barTest d b p) false (onBarrier b.toNat true (fun s t ph _ =>
    let bar := s.barrier (keyCtx t) ph
    .done (s.modThr t (fun x =>
      (x.wrP p.toNat (bar.count == 0)).wrG d.toNat (BitVec.ofNat 32 ((if bar.phase then 32 else 0) + ph)))) none))

/-- BAR.DROP (R52, R54). -/
def execBarDrop (b : BitVec 6) (s : State) : Out :=
  s.run (.barDrop b) false (onBarrier b.toNat false (fun s t p _ =>
    if (s.barrier (keyCtx t) p).expect = 0 then .trap (trapOf .barrier) else .done (s.dropAt t p) none))

namespace State

/-- A released waiter has completed its instruction (two parcels, R314) and taken the entry of a port that WAIT read; a
stopped one completes when it executes again. -/
def releaseWaiter (s : State) (c p k : Nat) : State :=
  s.modThr (threadKey c k) (fun x =>
    if x.run = .blocked (.barrier p) then { x.advance 2 with run := .runnable, sync := none, portIn := {} } else x)

/-- BARRIER_RELEASE: six cycles after the completing arrival (R52) the waiters of the oldest completed phase are released and form troupes; evicted groups that wait on
the barrier are recalled (R58); at the end of the window EXPECT decides (R56). -/
def releaseBarrier (s : State) (c p : Nat) : State :=
  let b := s.barrier c p
  match (if (s.ctx c).state = .loading then [] else b.releasing) with
  | [] => s
  | (due, ws) :: r =>
    if s.cycle < due then s else
    let go := ws.filter (fun k => (s.thr (threadKey c k)).run == .blocked (.barrier p))
    let s1 := s.setBarrier c p { b with releasing := r, dead := b.dead || (r.isEmpty && b.expect == 0) }
    let s2 := go.foldl (fun s k => s.releaseWaiter c p k) s1
    let s3 := if go.isEmpty then s2 else s2.releaseTroupes c go
    { s3 with groups := s3.groups.mapCells (fun _ g =>
        if g.state = .evicted ∧ g.ctx = c ∧ g.wake.contains p then { g with recalled := true } else g) }

end State

/-- BARRIER_RELEASE (R52, R56, R58). -/
def execBarrierRelease (core bank phys : Nat) (s : State) : Out :=
  .next (s.releaseBarrier ((s.core core).ctxIn bank) phys)

/-! Arrival tags. -/

/-- The lowest set bit (R60). -/
def lowestBit (m : DWord) : Word :=
  match (List.range 64).find? (fun i => m.getLsbD i) with
  | some i => BitVec.ofNat 32 i
  | none => 0xFFFFFFFF

def tagsOf (s : State) (t : Nat) : DWord := (s.ctx (keyCtx t)).tags

def execTwaitany (a : BitVec 4) (s : State) : Out :=
  s.run (.twaitany a) false (fun s t =>
    let m := (s.thr t).rdA a.toNat
    if m = 0 then .trap (trapOf .barrier)
    else if tagsOf s t &&& m ≠ 0 then .done s none
    else .block s (.tags m false))
def execTwaitall (a : BitVec 4) (s : State) : Out :=
  s.run (.twaitall a) false (fun s t =>
    let m := (s.thr t).rdA a.toNat
    if tagsOf s t &&& m = m then .done s none else .block s (.tags m true))
def execTfirst (d : BitVec 6) (a : BitVec 4) (s : State) : Out :=
  s.run (.tfirst d a) false (fun s t =>
    .done (s.modThr t (fun x => x.wrG d.toNat (lowestBit (tagsOf s t &&& x.rdA a.toNat)))) none)

/-- TSET and TCLR take a store-queue entry (R315). -/
def tagStore (op : DWord → AccOp) (a : BitVec 4) (s : State) (t : Nat) : TRes :=
  s.launch t (op ((s.thr t).rdA a.toNat)) .l1 .none [{ va := 0, place := .lane 0, len := 0, pos := 0 }] none 1

def execTclr (a : BitVec 4) (s : State) : Out := s.run (.tclr a) false (tagStore .tclr a)
def execTset (a : BitVec 4) (s : State) : Out := s.run (.tset a) false (tagStore .tset a)
def execTtest (d : BitVec 3) (a : BitVec 4) (s : State) : Out :=
  s.run (.ttest d a) false (fun s t =>
    .done (s.modThr t (fun x => x.wrP d.toNat (tagsOf s t &&& x.rdA a.toNat != 0))) none)

/-! Queues. -/

/-- What makes a descriptor unusable (R63): its CAP, a reserved byte that is not zero, and fields outside their ranges: that a KIND
above 5, a SCOPE other than 2, 4 and 5, a TENANT above 63 and a FIFO byte where the rule has none trap QUEUE too is the model's choice
(DESIGN CHOICE, log 9). -/
def Queue.malformed (q : Queue) : Bool :=
  let pow2 := (List.range 20).any (fun i => q.cap == 2 ^ (i + 1))
  5 < q.kind || (q.kind == 0 && q.cap != 32) || (q.kind != 0 && !pow2) || (q.kind == 0 && 64 ≤ q.fifo) ||
  (q.kind != 0 && q.fifo != 0) || !(q.scope == 2 || q.scope == 4 || q.scope == 5) || 64 ≤ q.tenant || q.rsv != 0

/-- QBIND (R62–R65, R74). -/
def qbind (port : Nat) (va : DWord) (push : Bool) (s : State) (t : Nat) : TRes :=
  if !canonical va ∨ va.toNat % 64 ≠ 0 then .trap (trapAt .address va)
  else match s.translate (s.coreOf t) (s.ctx (keyCtx t)).asid va.toNat .read with
    | .error f => .trap (State.xTrap f va)
    | .ok (s1, pa) =>
      let q := s1.queue pa
      if q.state = .free ∨ q.malformed ∨ q.tenant ≠ s.tenantOf t ∨ !(if push then kindPushes q.kind else kindPops q.kind) ∨
          (q.kind = 0 ∧ q.cluster ≠ coreCluster (s.coreOf t)) then .trap (trapOf .queue)
      else .done (s1.modThr t (fun x =>
        { x with ports := x.ports.set port { bound := true, push := push, va := va, q := pa, gen := q.gen },
                 portIn := x.portIn.set port none })) none

def execQbind (q : BitVec 2) (a : BitVec 4) (b : BitVec 1) (s : State) : Out :=
  s.run (.qbind q a b) false (fun s t => qbind q.toNat ((s.thr t).rdA a.toNat) (b.toNat == 1) s t)

/-- The binding of a port that QSTAT, QCLOSE or QTRY names (R74): bound, to a queue that exists. -/
def boundPort (port : Nat) (k : Port → Nat → TRes) (s : State) (t : Nat) : TRes :=
  let p := (s.thr t).ports.get port
  let q := s.portQueue t port
  if !p.bound || !s.names p q then .trap (trapOf .queue) else k p q

/-- QSTAT's word (R316). -/
def qstatWord (p : Port) (q : Queue) : Word :=
  BitVec.ofNat 32 (min q.count 0xFFFFFF * 256 + (if p.push then 8 else 0) + q.state.code)

def execQstat (d : BitVec 6) (q : BitVec 2) (s : State) : Out :=
  s.run (.qstat d q) false (fun s t => boundPort q.toNat (fun p k =>
    .done (s.modThr t (fun x => x.wrG d.toNat (qstatWord p (s.queue k)))) none) s t)

namespace State

/-- The blocked threads of a queue that a test accepts trap QUEUE, troupe by troupe (R65, R67). -/
def trapBlocked (s : State) (q : Nat) (p : Thread → Bool) : State :=
  s.ctxs.keys.foldl (fun s c =>
    let slots := s.slotsOf c (fun x => x.run == .blocked (.queue q) && p x)
    ((classes (s.place c) slots.length slots).flatMap (fun l => chunks32 l.length l)).foldl (fun s l =>
      s.trapTroupe { core := (s.ctx c).core, ctx := c, slots := l } (l.map (fun k => (k, trapOf .queue)))) s) s

/-- The thread's instruction is blocked on a push to the queue: some push binding of it names the queue. -/
def pushesTo (q : Nat) (x : Thread) : Bool :=
  (List.range 4).any (fun i => let p := x.ports.get i; p.bound && p.push && p.q == q)

/-- QCLOSE (R67). -/
def closeQueue (s : State) (q : Nat) : State :=
  match (s.queue q).state with
  | .empty => (s.updQueue q (fun x => { x with state := .closed })).trapBlocked q (fun _ => true)
  | .busy | .full => (s.updQueue q (fun x => { x with state := .closing })).trapBlocked q (pushesTo q)
  | _ => s

end State

def execQclose (q : BitVec 2) (s : State) : Out :=
  s.run (.qclose q) false (fun s t => boundPort q.toNat (fun _ k => .done (s.closeQueue k) none) s t)

/-- QTRY (R74, R317). -/
def qtry (d : Nat) (v : Word) (s : State) (t : Nat) (p : Port) (k : Nat) : TRes :=
  let q := s.queue k
  let c := s.ctx (keyCtx t)
  if p.push then
    if q.state = .closing ∨ q.state = .closed then .trap (trapOf .queue)
    else if q.cap ≤ q.count then .done (s.modThr t (fun x => x.wrP 7 false)) none
    else if !s.released t q.scope then .hold
    else
      let s1 := s.push k (coreDie c.core) (keyCtx t) c.tenant.toNat c.asid v c.core
      .done (s1.modThr t (fun x => x.wrP 7 true)) none
  else if q.state = .closed then .trap (trapOf .queue)
  else if q.count = 0 then .done (s.modThr t (fun x => x.wrP 7 false)) none
  else match s.entryPoison k (coreDie c.core) 0 with
  | some va => .trap { cause := .poison, code := 0x0103, va := some va }
  | none =>
    let r := s.pop k (coreDie c.core) c.core
    .done ((r.1.acquire c.core q.scope).modThr t (fun x => (x.wrG d r.2).wrP 7 true)) none

def execQtry (d : BitVec 6) (q : BitVec 2) (b : BitVec 6) (s : State) : Out :=
  s.run (.qtry d q b) false (fun s t => s.operands t (if ((s.thr t).ports.get q.toNat).push then [b.toNat] else []) [] none noCheck (fun s vs =>
    boundPort q.toNat (qtry d.toNat (vs.headD 0) s t) s t))

namespace State

/-- The queue's side of a port use by a thread of the issuing troupe (R65): a use that traps, one that blocks, one that
waits, or the use itself. -/
def portStep (s : State) (t : Nat) (ins : List Nat) (out : Option Nat) (k : State → State) : State :=
  match s.sel with
  | none => s
  | some sel =>
    if keyCtx t ≠ sel.ctx ∨ !sel.slots.contains (keySlot t) then s
    else match s.portHinder t ins out with
      | some (.trap i) => { s with sel := none }.trapTroupe sel [(keySlot t, i)]
      | some (.block s1 why) => { s1 with sel := none }.leaveTroupe sel t why
      | some _ => s
      | none => k s

end State

/-- QUEUE_PORT_PUSH: the push of a value by a thread of the issuing troupe, as wr performs it (R62, R65). -/
def execQueuePortPush (r : TRef) (port : BitVec 2) (v : Word) (s : State) : Out :=
  let t := s.keyOf r
  .next (s.portStep t [] (some port.toNat) (fun s => s.wr t (60 + port.toNat) v))

/-- QUEUE_PORT_POP: the pop by a thread of the issuing troupe, as operands performs it (R62, R65). -/
def execQueuePortPop (r : TRef) (port : BitVec 2) (s : State) : Out :=
  let t := s.keyOf r
  .next (s.portStep t [port.toNat] none (fun s => s.latchPort t port.toNat))

namespace State

/-- The physical address that a process's page tables give, whatever the permissions: the Ringmaster's own view. -/
def physOf (s : State) (asid : BitVec 16) (va : Nat) : Option Nat :=
  if s.roots.get asid.toNat = 0 then none
  else match s.walkFrom none va 5 (s.roots.get asid.toNat - 1) with
    | .ok (_, pte, level) => some (cut pte 10 44 * 4096 + va % 2 ^ (12 + 9 * level))
    | .error _ => none

/-- QUEUE_CONFIGURE: the Ringmaster writes a FREE descriptor (R63, R67).  The cluster that holds a hardware FIFO is an argument of the
step, as the descriptor has no field for it (DESIGN CHOICE, log 9). -/
def configureQueue (s : State) (asid : BitVec 16) (va : DWord) (c : QueueCfg) : State :=
  match s.physOf asid va.toNat with
  | none => s
  | some q =>
    if va.toNat % 64 ≠ 0 ∨ (s.queue q).state ≠ .free then s
    else
      let x : Queue :=
        { state := .empty, base := c.base, cap := c.cap.toNat, kind := c.kind.toNat, scope := c.scope.toNat,
          tenant := c.tenant.toNat, fifo := c.fifo.toNat, head := 0, tail := 0, session := c.session,
          recBase := c.recBase, asid := asid, va := va, cluster := c.cluster, rsv := c.rsv, gen := s.nextId, entries := [] }
      ({ s with queues := s.queues.set q x, nextId := s.nextId + 1 } : State).putDesc q

/-- QUEUE_REOPEN: a CLOSED queue is reopened or freed (R67). -/
def reopenQueue (s : State) (q : Nat) (free : Bool) : State :=
  if (s.queue q).state ≠ .closed then s
  else if free then ({ s with queues := s.queues.set q {} } : State).putDesc q
  else s.updQueue q (fun x => { x with state := .empty })

/-- The queue that a notify names, by its descriptor's VA. -/
def queueAt (s : State) (va : DWord) (session : Word) : Option Nat :=
  (s.queues.cells.find? (fun e => e.2.va == va && e.2.kind == 4 && e.2.session == session && e.2.state != .free)).map Prod.fst

/-- The record of a refused notify (R70, R214, R219). -/
def notifyAuth (s : State) (q : Option Nat) (session : Word) (va : DWord) : State :=
  let p := match q with | some k => s.partOf (queueDie k) | none => 0xFF
  s.log { code := 0x0506, sev := 0, action := 0, eclass := 13, part := p, einst := session.toNat % 65536, va := some va.toNat }

/-- NOTIFY (R69, R70).  An overrun is a tail above HEAD + CAP in the window of R70, so a stale tail below HEAD is accepted and
ignored (DEDUCED, log 9); so is a valid notify for a queue that is CLOSING or CLOSED (DESIGN CHOICE, log 9). -/
def notify (s : State) (session : Word) (va : DWord) (tail : Word) (seq : DWord) (tag : BitVec 128) : State :=
  let ss := s.sessions.get session.toNat
  match s.queueAt va session with
  | none => s.notifyAuth none session va
  | some k =>
    let q := s.queue k
    if !ss.opened ∨ notifyTag ss.key va tail seq ≠ tag ∨ seq.toNat ≤ ss.highest.toNat then s.notifyAuth (some k) session va
    else
      let s1 := { s with sessions := s.sessions.set session.toNat { ss with highest := seq } }
      let ahead := (tail - q.tail).toNat
      if q.cap < (tail - q.head).toNat ∧ 0 < ahead ∧ ahead < 2 ^ 31 then s1.notifyAuth (some k) session va
      else if ahead = 0 ∨ 2 ^ 31 ≤ ahead ∨ q.state = .closing ∨ q.state = .closed then s1
      else (s1.updQueue k (fun x => { x with tail := tail }.settle)).wakeQueue k

end State

/-- QUEUE_CONFIGURE (R63, R67). -/
def execQueueConfigure (asid : BitVec 16) (va : DWord) (cfg : QueueCfg) (s : State) : Out :=
  .next (s.configureQueue asid va cfg)

/-- QUEUE_REOPEN (R67). -/
def execQueueReopen (q : Nat) (free : Bool) (s : State) : Out := .next (s.reopenQueue q free)

/-- NOTIFY (R70). -/
def execNotify (session : Word) (va : DWord) (tail : Word) (seq : DWord) (tag : BitVec 128) (s : State) : Out :=
  .next (s.notify session va tail seq tag)

/-! The task heap. -/

namespace State

/-- The heap is granted to the thread's process (R72). -/
def heapGranted (s : State) (t : Nat) : Bool :=
  let d := s.die (coreDie (s.coreOf t))
  d.heapValid && d.heapAsid == (s.ctx (keyCtx t)).asid

/-- A heap operation is issued (R73): its flag counts up, and it is on its way to the heap. -/
def heapStart (s : State) (t : Nat) (kind : HeapKind) (key : Word) (payload : DWord) (dg da : Nat) (flag : Option Nat) : TRes :=
  if !s.heapGranted t then .trap (trapOf .queue)
  else match flagHinder (s.thr t) flag with
  | some r => r
  | none =>
  if kind = .push ∧ !s.released t 3 then .hold
  else
    let o : HeapOp := { thr := t, die := coreDie (s.coreOf t), kind := kind, key := key, payload := payload, dstG := dg,
                        dstA := da, flag := flag, pc := (s.thr t).pc, waiting := false, due := s.cycle + 130, batch := s.issueOf t }
    let s1 := { s with heapOps := s.heapOps.set s.nextId (some o), nextId := s.nextId + 1 }
    .done (s1.modThr t (fun x => x.flagUp flag)) none

/-- A heap operation is done: its results are written, unless the thread has exited, and its flag counts down (R48, R73). -/
def heapFinish (s : State) (id : Nat) (o : HeapOp) (f : Thread → Thread) : State :=
  let live := match (s.thr o.thr).run with | .exited | .free => false | _ => true
  let s1 := (s.modThr o.thr (fun x => (if live then f x else x).flagDown o.flag))
  let s2 := { s1 with heapOps := s1.heapOps.set id none }
  (s2.wakeCtx (keyCtx o.thr)).settleSlot o.thr

/-- The entry that a pop returns: one whose key ranks among the 32 smallest (R72); pick is the heap's choice. -/
def heapPick (h : List (Word × DWord)) (pick : Nat) : Option ((Word × DWord) × List (Word × DWord)) :=
  let smaller (x : Word × DWord) : Nat := (h.filter (fun y => y.1.toNat < x.1.toNat)).length
  let ok := (List.range h.length).filter (fun i => match h[i]? with | some x => smaller x < 32 | none => false)
  match ok[pick % max 1 ok.length]? with
  | none => none
  | some i => (h[i]?).map (fun x => (x, h.eraseIdx i))

/-- A pop served from the heap: an acquire at die scope for the thread (R318). -/
def heapServe (s : State) (id : Nat) (o : HeapOp) (pick : Nat) : State :=
  match heapPick (s.heaps.get o.die) pick with
  | none => s
  | some (e, r) =>
    let s1 := (({ s with heaps := s.heaps.set o.die r } : State).passEpoch (dieAgent o.die) (s.coreOf o.thr)).acquire (s.coreOf o.thr) 3
    s1.heapFinish id o (fun x =>
      let x := (x.wrG o.dstG e.1).wrA o.dstA e.2
      if o.kind = .try_ then x.wrP 7 true else x)

/-- The oldest operation on its way to a die's heap, or the oldest that waits there. -/
def heapNext (s : State) (die : Nat) (waiting : Bool) : Option (Nat × HeapOp) :=
  s.heapOps.cells.findSome? (fun e => match e.2 with
    | some o => if o.die == die && o.waiting == waiting then some (e.1, o) else none
    | none => none)

/-- HEAP_ARRIVAL: the next operation reaches the heap (R72, R73, R318); a push is present for the oldest waiting pop. -/
def heapArrival (s : State) (die pick : Nat) : State :=
  match s.heapNext die false with
  | none => s
  | some (id, o) =>
    let h := s.heaps.get die
    if s.cycle < o.due then s else
    match o.kind with
    | .push =>
      if 16384 ≤ h.length then s.heapFinish id o (fun x => x.wrP 7 false)
      else
        let s1 := (({ s with heaps := s.heaps.set die (h ++ [(o.key, o.payload)]) } : State).passEpoch (s.coreOf o.thr) (dieAgent die)).heapFinish id o
          (fun x => x.wrP 7 true)
        match s1.heapNext die true with
        | some (j, w) => s1.heapServe j w pick
        | none => s1
    | .pop =>
      if h.isEmpty then { s with heapOps := s.heapOps.set id (some { o with waiting := true }) } else s.heapServe id o pick
    | .try_ => if h.isEmpty then s.heapFinish id o (fun x => x.wrP 7 false) else s.heapServe id o pick

/-- HEAP_OWNER_WRITE (R72): a change of VALID or ASID discards every entry; a waiting HPOP completes without a value and
traps QUEUE.  Operations that have not reached the heap yet are performed on the new owner's (DESIGN CHOICE, log 9). -/
def writeHeapOwner (s : State) (die : Nat) (v : DWord) : State :=
  let valid := v.getLsbD 32
  let asid : BitVec 16 := v.truncate 16
  let d := s.die die
  let s1 := s.modDie die (fun d => { d with heapValid := valid, heapAsid := asid })
  if d.heapValid = valid ∧ d.heapAsid = asid then s1
  else
    let s2 := { s1 with heaps := s1.heaps.set die [] }
    s2.heapOps.cells.foldl (fun s e => match e.2 with
      | some o => if o.die = die ∧ o.waiting then (s.heapFinish e.1 o id).later o.thr o.pc (trapOf .queue) o.batch else s
      | none => s) s2

end State

def execHpush (a : BitVec 6) (b : BitVec 4) (f : BitVec 1) (s : State) : Out :=
  s.run (.hpush a b f) false (fun s t => s.tracked t f (s.operands t [a.toNat] [] none noCheck (fun s vs =>
    s.heapStart t .push (vs.headD 0) ((s.thr t).rdA b.toNat) 0 0 ((s.thr t).flagOf f))))
def execHpop (d : BitVec 6) (b : BitVec 4) (f : BitVec 1) (s : State) : Out :=
  s.run (.hpop d b f) false (fun s t => s.tracked t f (
    s.heapStart t .pop 0 0 d.toNat b.toNat ((s.thr t).flagOf f)))
def execHtry (d : BitVec 6) (b : BitVec 4) (f : BitVec 1) (s : State) : Out :=
  s.run (.htry d b f) false (fun s t => s.tracked t f (
    s.heapStart t .try_ 0 0 d.toNat b.toNat ((s.thr t).flagOf f)))

/-- HEAP_ARRIVAL (R72, R73). -/
def execHeapArrival (die pick : Nat) (s : State) : Out := .next (s.heapArrival die pick)

/-- HEAP_OWNER_WRITE (R72). -/
def execHeapOwnerWrite (die : Nat) (v : DWord) (s : State) : Out := .next (s.writeHeapOwner die v)

end Sys2Proof.Machine
end

