-- ==== Sys2Proof/Machine/Fabric.lean ====
section
/-! DEFINITION. The register fabric (R344–R353): MKH, ARM, FULL, RPOST, RPOSTW and REVOKE, the handle tables, and the steps
of posts and revokes. -/

namespace Sys2Proof.Machine

/-- An entry's generation ends (R346): the next one, or WITHDRAWN at 0xFFF. -/
def Handle.free (e : Handle) (retired : Bool) : Handle :=
  if 0xFFF ≤ e.gen then { e with state := .withdrawn, ended := retired }
  else { e with state := .free, gen := e.gen + 1, ended := retired }

namespace State

def handle (s : State) (core i : Nat) : Handle := (s.core core).handles.get i
def setHandle (s : State) (core i : Nat) (e : Handle) : State :=
  s.modCore core (fun c => { c with handles := c.handles.set i e })

/-- Change the listed entries of every core's handle table. -/
def mapHandles (s : State) (f : Nat → Handle → Handle) : State :=
  { s with cores := s.cores.mapCells (fun k c => { c with handles := c.handles.mapCells (fun _ e => f k e) }) }

/-- The handles of a thread that EXITs turn RETIRED (R346). -/
def retireHandles (s : State) (t : Nat) : State :=
  s.mapHandles (fun _ e =>
    if e.state = .live ∧ e.ctx = keyCtx t ∧ e.slot = keySlot t ∧ e.group = (s.thr t).group then { e with state := .retired } else e)

/-- The target slot becomes FREE (R46, R346). -/
def freeHandles (s : State) (t : Nat) : State :=
  s.mapHandles (fun _ e =>
    if (e.state = .retired ∨ e.state = .live) ∧ e.ctx = keyCtx t ∧ e.slot = keySlot t ∧ e.group = (s.thr t).group then
      e.free true else e)

/-- A context is DESTROYED, or has been loaded on a core (R346): its handles on other cores end. -/
def endHandles (s : State) (ctx : Nat) (loadedOn : Option Nat) : State :=
  s.mapHandles (fun k e =>
    if e.ctx = ctx then
      match loadedOn with
      | none => if e.state = .live ∨ e.state = .retired then e.free true else e
      | some core => if e.state = .live ∧ k ≠ core then e.free false else e
    else e)

/-- The keyed tag of an entry's current key; no handle has the value 0 (R345). -/
def ktagOf (s : State) (core i gen : Nat) : Word :=
  let k := Config.ktag core (s.core core).keyEpoch i gen
  if core = 0 ∧ i = 0 ∧ gen = 0 ∧ k = 0 then 1 else k

def handleWord (s : State) (core i gen : Nat) : DWord :=
  BitVec.ofNat 64 (core * 2 ^ 56 + i * 2 ^ 44 + gen * 2 ^ 32 + (s.ktagOf core i gen).toNat)

end State

/-- A handle specification that R348 admits. -/
def specOk (v : Word) : Bool :=
  let first := cut v.toNat 0 6
  let cnt := cut v.toNat 6 6
  v.toNat < 2 ^ 14 && 1 ≤ cnt &&
  if v.getLsbD 12 then first + cnt ≤ 16 else 1 ≤ first && first + cnt ≤ 60

namespace State

/-- The lowest FREE entry of a core's table (R346). -/
def freeHandle (s : State) (core : Nat) : Option Nat := (List.range 4096).find? (fun i => (s.handle core i).state == .free)

/-- MKH (R348): a new entry LIVE, and the handle that names it; 0 when the table is full. -/
def mint (s : State) (t : Nat) (v : Word) : State × DWord :=
  let core := s.coreOf t
  match s.freeHandle core with
  | none => (s, 0)
  | some i =>
    let e := s.handle core i
    (s.setHandle core i { e with state := .live, ctx := keyCtx t, slot := keySlot t, group := (s.thr t).group,
                                 kind := cut v.toNat 12 1, first := cut v.toNat 0 6, cnt := cut v.toNat 6 6,
                                 mode := cut v.toNat 13 1 }, s.handleWord core i e.gen)

end State

/-- MKH (R348). -/
def execMkh (d : BitVec 4) (a : BitVec 6) (f : BitVec 1) (s : State) : Out :=
  s.run (.mkh d a f) false (fun s t => s.tracked t f (s.operands t [a.toNat] [] none noCheck (fun s vs =>
    if !specOk (vs.headD 0) then illegal
    else
      match s.memHinder t ((s.thr t).flagOf f) 0 with
      | some h => h
      | none =>
        let r := s.mint t (vs.headD 0)
        r.1.launch t (.value r.2) .l1 (.a d.toNat) [] ((s.thr t).flagOf f) 0)))

/-- The registers d to d + n of ARM become empty (R349). -/
def emptied (m : Tab Bool) (d n : Nat) : Tab Bool := (List.range (n + 1)).foldl (fun m i => m.set (d + i) true) m

/-- ARM (R349): KIND k, b = n − 1. -/
def execArm (d : BitVec 6) (k : BitVec 1) (b : BitVec 6) (s : State) : Out :=
  s.run (.arm d k b) false (threadOp (fun x =>
    if k.toNat = 0 then { x with gEmpty := emptied x.gEmpty d.toNat b.toNat }
    else { x with wEmpty := emptied x.wEmpty d.toNat b.toNat }))

/-- FULL (R350). -/
def execFull (d : BitVec 3) (a : BitVec 6) (k : BitVec 1) (s : State) : Out :=
  s.run (.full d a k) false (threadOp (fun x =>
    x.wrP d.toNat (!(if k.toNat = 0 then x.gEmpty.get a.toNat else x.wEmpty.get a.toNat))))

/-- A route word that R351 admits. -/
def routeOk (k : Word) : Bool := k.toNat < 2 ^ 17 && (k.getLsbD 16 || cut k.toNat 6 10 == 0)

/-- .acq of an order field (R114). -/
def acqBit (o : BitVec 2) : Bool := o.getLsbD 0

namespace State

/-- A post or a revoke sets out (R351, R353): its flag counts up. -/
def sendPost (s : State) (t : Nat) (p : Post) (flag : Option Nat) : TRes :=
  match s.memHinder t flag 0 with
  | some r => r
  | none =>
    let s1 := { s with posts := s.posts.set s.nextId (some { p with flag := flag, epoch := s.seen.get p.core }), nextId := s.nextId + 1 }
    .done (s1.modThr t (fun x => x.flagUp flag)) none

/-- The fewest cycles from the issue of a post to the full bit at its target, inside the module (R18). -/
def postCycles (a b : Nat) : Nat :=
  if a = b then 8 else if coreCluster a = coreCluster b then 20 else if coreDie a = coreDie b then 60 else 180

/-- A post of a thread through a handle, before its operands are filled in. -/
def newPost (s : State) (t : Nat) (h : DWord) (o : BitVec 2) : Post :=
  { thr := t, core := s.coreOf t, handle := h, off := 0, wide := false, value := 0, wvalue := {}, remote := false,
    station := 0, revoke := false, acq := acqBit o, flag := none, pc := (s.thr t).pc, sentAt := s.now, stage := .out,
    due := s.cycle + postCycles (s.coreOf t) (handleCore h), batch := s.issueOf t }

end State

/-- RPOST (R351). -/
def execRpost (d : BitVec 6) (a : BitVec 4) (b : BitVec 6) (f : BitVec 1) (o : BitVec 2) (s : State) : Out :=
  s.run (.rpost d a b f o) false (fun s t => s.operands t [b.toNat, d.toNat] [] none noCheck (fun s vs =>
    let k := (vs.drop 1).headD 0
    if !routeOk k then .trap (trapOf .desc)
    else s.sendPost t { s.newPost t ((s.thr t).rdA a.toNat) o with
      off := cut k.toNat 0 6, value := vs.headD 0, remote := k.getLsbD 16, station := cut k.toNat 6 10 }
      ((s.thr t).flagOf f)))

/-- RPOSTW (R351). -/
def execRpostw (d : BitVec 6) (a b : BitVec 4) (f : BitVec 1) (o : BitVec 2) (s : State) : Out :=
  let bad (x : Thread) : Option TrapInfo := if (x.rdW b.toNat).tag = 0 then some (trapOf .format) else none
  s.run (.rpostw d a b f o) false (fun s t => s.operands t [d.toNat] [b.toNat] none bad (fun s vs =>
    let k := vs.headD 0
    if !routeOk k then .trap (trapOf .desc)
    else s.sendPost t { s.newPost t ((s.thr t).rdA a.toNat) o with
      off := cut k.toNat 0 6, wide := true, wvalue := (s.thr t).rdW b.toNat, remote := k.getLsbD 16,
      station := cut k.toNat 6 10 } ((s.thr t).flagOf f)))

/-- REVOKE (R353). -/
def execRevoke (a : BitVec 4) (f : BitVec 1) (o : BitVec 2) (s : State) : Out :=
  s.run (.revoke a f o) false (fun s t =>
    s.sendPost t { s.newPost t ((s.thr t).rdA a.toNat) o with revoke := true } ((s.thr t).flagOf f))

namespace State

/-- The register that a handle and an offset name at their core. -/
def postTarget (s : State) (h : DWord) (off : Nat) : Nat × Nat × Nat × Nat :=
  let e := s.handle (handleCore h) (handleIdx h)
  (e.ctx, e.slot, e.kind, e.first + off)

/-- Two posts of a thread go to one register: through one handle at one offset, or through two handles that name it; what a handle of
another module names is open (Config.remoteRegister). -/
def sameTarget (s : State) (p q : Post) : Bool :=
  q.remote == p.remote && (if p.remote then q.station == p.station && Config.remoteRegister (BitVec.ofNat 10 q.station) q.handle q.off ==
      Config.remoteRegister (BitVec.ofNat 10 p.station) p.handle p.off
    else handleCore q.handle == handleCore p.handle &&
      ((q.handle == p.handle && q.off == p.off) || q.revoke || p.revoke || s.postTarget q.handle q.off == s.postTarget p.handle p.off))

/-- The die-to-die ports that a post or a revoke passes (R183): to the die of its target, or to the hub die with the UALink ports. -/
def postPorts (p : Post) : List LinkId :=
  if p.remote then portPair (coreDie p.core) 4 516
  else if 224 ≤ handleCore p.handle then [] else portPair (coreDie p.core) (coreDie (handleCore p.handle)) (256 + handleCore p.handle)

/-- The target core of a post of this module lies on a die that the sender's stops may not address (R196), or in another partition,
which no thread reaches by a handle (R193). -/
def postBarred (s : State) (p : Post) : Bool :=
  let d := coreDie p.core
  let e := coreDie (handleCore p.handle)
  !p.remote && handleCore p.handle < 224 && (!(s.die d).peers.getLsbD e || s.partOf d != s.partOf e)

/-- A post or a revoke that is not injected: it completes with LOOP_UE and action A5, and delivers nothing (R193, R196). -/
def postRefused (s : State) (id : Nat) (p : Post) : State :=
  let d := coreDie p.core
  let r := Config.route (512 + d) (256 + handleCore p.handle)
  let s1 := s.log { code := 0x0502, sev := 2, action := 5, eclass := 11, part := s.partOf d,
                    einst := if coreDie (handleCore p.handle) = d then d * 24 + r % 24 else 96 + r % 8 }
  { s1 with posts := s1.posts.set id (some { p with stage := .acked }) }

/-- A post may be presented: its .acq wait is over (R114, R351), no faulted entry of its thread is older (R87), no older post
of the thread to the same register is still on its way (R126, R352), and its flit can pass the ports and be ejected (R181–R183). -/
def mayPresent (s : State) (id : Nat) (p : Post) : Bool :=
  !s.barred id && !(postPorts p).any (fun l => atWork (s.portState l) || cutOff (s.portState l)) &&
  (!p.acq || s.performed p.thr id (if p.remote then 5 else 4) 0b01011) && !s.heldBehind p.thr id &&
  !s.posts.cells.any (fun e => match e.2 with
    | some q => e.1 < id && q.thr == p.thr && q.stage == .out && s.sameTarget p q
    | none => false)

/-- KTAG does not match, or no such core (step 1 of R347). -/
def forged (s : State) (h : DWord) : Bool :=
  224 ≤ handleCore h || s.ktagOf (handleCore h) (handleIdx h) (handleGen h) != h.lo

/-- HANDLE_FORGE (R347): the sender's numbers, none for a sender on another module. -/
def forgeRecord (s : State) (sender : Option (Nat × DWord)) (h : DWord) : State :=
  let at_ := if handleCore h < 224 then handleCore h else match sender with | some (t, _) => s.coreOf t | none => 0
  let e : ErrRec := { code := 0x0903, sev := 2, action := 0, eclass := 0, part := s.partOf (coreDie at_), einst := at_,
                      detail := h.toNat }
  s.log (match sender with
    | some (t, pc) => { e with ctx := keyCtx t, slot := keySlot t, gnum := (s.group (s.thr t).group).gnum.toNat,
                               pc := pc.toNat, thread := true }
    | none => { e with slot := 0 })

/-- The target thread's registers, in its slot or among the evicted (R58, R81, R351). -/
def targetThread (s : State) (e : Handle) : Thread :=
  let t := threadKey e.ctx e.slot
  if (s.thr t).group = e.group then s.thr t else s.evictedThr e.group t

def setTarget (s : State) (e : Handle) (x : Thread) : State :=
  let t := threadKey e.ctx e.slot
  if (s.thr t).group = e.group then ((s.setThr t x).wakeCtx e.ctx).settleSlot t
  else s.setEvicted e.group t x

/-- The check at the target (R347) and the delivery (R81): the cause of a rejection, or none.  A post that lands before a result of
fixed latency meets the full bit of before the issue, and the result replaces its value; one that lands in the cycle of the result
comes after it (R249, R276). -/
def present (s : State) (sender : Option (Nat × DWord)) (h : DWord) (off : Nat) (wide : Bool) (v : Word) (w : WReg) :
    State × Option Cause :=
  if s.forged h then (s.forgeRecord sender h, some .cap)
  else
    let e := s.handle (handleCore h) (handleIdx h)
    let g := handleGen h
    if (g + 1) % 4096 = e.gen ∧ e.ended then (s, some .notarget)
    else if g ≠ e.gen ∨ e.state = .free ∨ e.state = .withdrawn then (s, some .cap)
    else if e.state = .retired then (s, some .notarget)
    else if (e.kind == 1) != wide || e.cnt ≤ off then (s, some .cap)
    else
      let x := s.targetThread e
      let n := e.first + off
      let b := x.busy.get (if wide then 128 + n else n)
      let flying := decide (s.cycle < b.due)
      let empty := if flying then b.empty else if wide then x.wEmpty.get n else x.gEmpty.get n
      if e.mode = 0 ∧ !empty then (s, some .overwrite)
      else if flying then (s.setTarget e { x with busy := x.busy.set (if wide then 128 + n else n) { b with empty := false } }, none)
      else (s.setTarget e (if wide then x.wrW n w else x.wrG n v), none)

/-- The context of a post's target is LOADING (R94). -/
def targetLoads (s : State) (h : DWord) : Bool :=
  (s.ctx (s.handle (handleCore h) (handleIdx h)).ctx).state == .loading

/-- The next place in the order of arrival of the posts held at the Gleaner. -/
def nextHeld (s : State) : Nat :=
  s.posts.cells.foldl (fun n e => match e.2 with
    | some p => match p.stage with | .held m => max n (m + 1) | _ => n
    | none => n) 0

/-- The die-to-die ports that carry a post of another module from the hub die to its target are in service (R183, R188). -/
def peerPostPasses (s : State) (h : DWord) : Bool :=
  224 ≤ handleCore h || !(portPair 4 (coreDie (handleCore h)) (256 + handleCore h)).any (fun l => atWork (s.portState l) || cutOff (s.portState l))

/-- A post of another module as it is held at the Gleaner; it answers to no thread of this one. -/
def peerHeld (s : State) (p : PeerPost) : Post :=
  { thr := 0, core := handleCore p.handle, handle := p.handle, off := p.off, wide := p.wide, value := p.value,
    wvalue := { data := p.data, s0 := p.s0, s1 := p.s1, tag := p.tag }, remote := false, station := 0, revoke := false, acq := false,
    flag := none, pc := 0, sentAt := s.now, stage := .held s.nextHeld, due := 0, peer := true }

/-- POST_ARRIVAL (R347, R351): a post of this module reaches the target core; or a post of another module arrives.  While the
target's context is LOADING the post is held (R94). -/
def postArrival (s : State) (id : Nat) (peer : Option PeerPost) : State :=
  match peer with
  | some p =>
    if !s.peerPostPasses p.handle then s
    else if s.targetLoads p.handle then { s with posts := s.posts.set s.nextId (some (s.peerHeld p)), nextId := s.nextId + 1 }
    else (s.present none p.handle p.off p.wide p.value { data := p.data, s0 := p.s0, s1 := p.s1, tag := p.tag }).1
  | none =>
    match s.posts.get id with
    | none => s
    | some p =>
      if p.revoke || p.remote || p.stage != .out || s.cycle < p.due || !s.mayPresent id p then s
      else if s.postBarred p then s.postRefused id p
      else if s.targetLoads p.handle then { s with posts := s.posts.set id (some { p with stage := .held s.nextHeld }) }
      else
        let r := (s.learn (handleCore p.handle) p.epoch).present (some (p.thr, p.pc)) p.handle p.off p.wide p.value p.wvalue
        let st := match r.2 with | none => PostStage.acked | some c => .rejected c
        { r.1 with posts := r.1.posts.set id (some { p with stage := st, due := s.cycle + postCycles p.core (handleCore p.handle) }) }

/-- REVOKE_ARRIVAL (R353). -/
def revokeArrival (s : State) (id : Nat) : State :=
  match s.posts.get id with
  | none => s
  | some p =>
    if !p.revoke || p.stage != .out || s.cycle < p.due || !s.mayPresent id p then s
    else if s.postBarred p then s.postRefused id p
    else
      let done (s : State) (st : PostStage) : State :=
        { s with posts := s.posts.set id (some { p with stage := st, due := s.cycle + postCycles p.core (handleCore p.handle) }) }
      let core := handleCore p.handle
      if s.forged p.handle then done (s.forgeRecord (some (p.thr, p.pc)) p.handle) (.rejected .cap)
      else
        let e := s.handle core (handleIdx p.handle)
        if e.state ≠ .live ∨ handleGen p.handle ≠ e.gen then done s .acked
        else if e.ctx ≠ keyCtx p.thr then done s (.rejected .cap)
        else done (s.setHandle core (handleIdx p.handle) (e.free false)) .acked

/-- The state of the UALink port that carries a remote post (R189). -/
def postLink (s : State) (p : Post) : LinkState := s.links.get (Config.postPort p.station % 16)

/-- A post's answer can come back: it is a post of this module, or its port is in service. -/
def linked (s : State) (p : Post) : Bool := !p.remote || (s.postLink p == .up || s.postLink p == .degraded)

/-- The cause that another module's answer names. -/
def fateCause (f : PostFate) : Option Cause :=
  match f with | .delivered => none | .cap => some .cap | .noTarget => some .notarget | .overwrite => some .overwrite

/-- POST_REPLY (R344, R351): one further one-way delay after the arrival the flag counts down, and a rejection traps its cause; a remote post that may set out is
answered by its module. -/
def postReply (s : State) (id : Nat) (fate : PostFate) : State :=
  match s.posts.get id with
  | none => s
  | some p =>
    let finish (c : Option Cause) : State :=
      let s1 := { (s.modThr p.thr (fun x => x.flagDown p.flag)) with posts := s.posts.set id none }
      let s2 := (s1.wakeCtx (keyCtx p.thr)).settleSlot p.thr
      match c with
      | none => s2
      | some c => s2.trapLate p.thr p.pc (trapOf c) p.batch
    match p.stage with
    | .acked => if s.cycle < p.due then s else finish none
    | .rejected c => if s.cycle < p.due then s else finish (some c)
    | .held _ => s
    | .out => if p.remote && s.linked p && s.mayPresent id p then finish (fateCause fate) else s

/-- HANDLE_KEY_ROTATE (R346): every outstanding handle is revoked, WITHDRAWN entries are FREE again, and the rotation is in
the context journal (a note with no context). -/
def rotateKey (s : State) (core : Nat) : State :=
  let s1 := s.modCore core (fun c =>
    { c with keyEpoch := c.keyEpoch + 1,
             handles := c.handles.mapCells (fun _ e => match e.state with
               | .live => e.free false
               | _ => e) })
  let s2 := s1.modCore core (fun c => { c with handles := c.handles.mapCells (fun _ e =>
    if e.state = .withdrawn then { e with state := .free, gen := 0 } else e) })
  let note : CtxNote := { cycle := s.cycle, core := core, bank := 0, ctx := 0, state := .absent }
  { s2 with rm := { s2.rm with journal := s2.rm.journal ++ [note] } }

end State

/-- POST_ARRIVAL (R347). -/
def execPostArrival (idx : Nat) (peer : Option PeerPost) (s : State) : Out := .next (match peer, s.posts.get idx with
    | none, some p => s.inject (coreDie p.core) 7 (p.core % 56) idx (fun t => t.posts.get idx != some p) (fun s => s.postArrival idx none)
    | _, _ => s.postArrival idx peer)

/-- REVOKE_ARRIVAL (R353). -/
def execRevokeArrival (idx : Nat) (s : State) : Out := .next (match s.posts.get idx with
    | some p => s.inject (coreDie p.core) 7 (p.core % 56) idx (fun t => t.posts.get idx != some p) (fun s => s.revokeArrival idx)
    | none => s)

/-- POST_REPLY (R351): a post to another module is injected as it sets out. -/
def execPostReply (idx : Nat) (fate : PostFate) (s : State) : Out := .next (match s.posts.get idx with
    | some p => if p.stage == .out then
        s.inject (coreDie p.core) 7 (p.core % 56) idx (fun t => (t.posts.get idx).isNone) (fun s => s.postReply idx fate)
      else s.postReply idx fate
    | none => s)

/-- HANDLE_KEY_ROTATE (R346). -/
def execHandleKeyRotate (core : Nat) (s : State) : Out := .next (s.rotateKey core)

end Sys2Proof.Machine
end

