-- ==== Sys2Proof/Machine/Group.lean ====
section
/-! DEFINITION. Kernels and groups (02, 03): EXIT and SPAWN, the launch path, pending units and donation, formation rounds,
halts and their handlers, resume and termination, eviction at barriers, retirement and cancellation. -/

namespace Sys2Proof.Machine

/-- A place for len bytes that overlaps no range in use, at the lowest aligned address below a limit. -/
def allocate (used : List (Nat × Nat)) (len align limit : Nat) : Option Nat :=
  if len = 0 then some 0
  else
    let up (n : Nat) : Nat := (n + align - 1) / align * align
    let fits (b : Nat) : Bool := b + len ≤ limit && used.all (fun u => b + len ≤ u.1 || u.1 + u.2 ≤ b || u.2 == 0)
    let cands := (0 :: used.map (fun u => up (u.1 + u.2))).filter fits
    cands.foldl (fun r b => match r with | none => some b | some x => some (min x b)) none

/-- The lowest run of n free numbers below a limit. -/
def freeRun (free : Nat → Bool) (n limit : Nat) : Option Nat :=
  if limit < n then none else (List.range (limit + 1 - n)).find? (fun b => (List.range n).all (fun i => free (b + i)))

namespace State

/-- The slots of a context that placements under way have reserved. -/
def reserved (s : State) (c : Nat) : List Nat :=
  s.placements.cells.flatMap (fun e => match e.2 with | some p => if p.ctx = c then p.slots else [] | none => [])

/-- The free slots of a context in ascending order: not occupied, not reserved by a placement, and not awaited by a group
that is to be recalled (R41). -/
def freeSlots (s : State) (c : Nat) : List Nat :=
  let kept := s.reserved c ++ s.evicted.keys.filterMap (fun k =>
      let g := s.group (k / 1024)
      if g.ctx = c ∧ g.recalled then some (k % 1024) else none)
  (List.range 1024).filter (fun k => (s.thr (threadKey c k)).run == .free && !kept.contains k)

/-- Ranges in use in a core's pad by the contexts in its banks, and in a cluster's memory. -/
def padUsed (s : State) (core : Nat) : List (Nat × Nat) :=
  s.groups.cells.filterMap (fun e =>
    if holds e.2 ∧ (s.ctx e.2.ctx).core = core ∧ ((s.core core).ctx0 = e.2.ctx ∨ (s.core core).ctx1 = e.2.ctx) then
      some (e.2.padBase, e.2.padLen) else none)

def clusterUsed (s : State) (cl : Nat) : List (Nat × Nat) :=
  s.groups.cells.filterMap (fun e => if holds e.2 ∧ e.2.cluster = cl then some (e.2.cluBase, e.2.cluLen) else none) ++
  s.pends.cells.filterMap (fun e => match e.2 with
    | some p => if p.begun ∧ p.cluster = some cl then some (p.base, (s.kernel p.kernel).clusterBytes) else none
    | none => none)

/-- A tile of a context that no group has, and that no command of a group gone from it still reads or writes (R34, R333). -/
def tileFree (s : State) (c i : Nat) : Bool :=
  ((s.ctx c).tiles.get i).group == 0 && !s.cmds.cells.any (fun e => match e.2 with
    | some x => (match x.eng with | .matrix _ => true | _ => false) && keyCtx (slotKey x.thr) == c && x.mark == i
    | none => false)

/-- What a group of n threads would be given in a context: slots, pad, barriers and tiles (R29, R47). -/
def room (s : State) (k : Kernel) (c n : Nat) : Option (List Nat × Nat × Nat × Nat) :=
  let slots := s.freeSlots c
  let x := s.ctx c
  if slots.length < n then none
  else match allocate (s.padUsed x.core) k.pad 256 786432, freeRun (fun i => !(x.barriers.get i).granted) k.barriers 32,
      freeRun (s.tileFree c) k.tiles 8 with
    | some p, some b, some t => some (slots.take n, p, b, t)
    | _, _, _ => none

/-- Grant a group its resources in a context (R49, R247, R333). -/
def grant (s : State) (gid c n : Nat) (k : Kernel) (pad bar tile cluBase : Nat) : State :=
  let s1 := s.modGroup gid (fun g =>
    { g with ctx := c, size := n, lane := k.lane, padBase := pad, padLen := k.pad, cluster := coreCluster (s.ctx c).core,
             cluBase := cluBase, cluLen := k.clusterBytes, barBase := bar, barCount := k.barriers, tileBase := tile,
             tileCount := k.tiles, placedAt := s.cycle })
  s1.modCtx c (fun x =>
    { x with barriers := (List.range k.barriers).foldl (fun t i =>
               t.set (bar + i) { granted := true, expect := n, group := gid }) x.barriers,
             tiles := (List.range k.tiles).foldl (fun t i =>
               t.set (tile + i) { (x.tiles.get (tile + i)) with group := gid, reruns := 0, fail := false, sc := 0, sn := 0 }) x.tiles })

/-- The thread that a launched group's slot starts with (R29, R35).  The rules name a0, a15, the flags, the full bits and the
identity, and ports start unbound (R65); that every other register starts at 0 is the model's choice (log 3). -/
def launchThread (k : Kernel) (g : Group) (gid i n : Nat) : Thread :=
  let top := k.groupLevel
  { run := .runnable, group := gid, hdr := k.entry, a := (({} : Tab DWord).set 0 k.args).set 1
      (if g.serves = 0 then 0 else BitVec.ofNat 64 (State.windowVa g.serves)),
    tidx := BitVec.ofNat 32 i, gsize := BitVec.ofNat 32 n,
    lvc := k.levels.foldl (fun t l => t.set l
      (if l < top then BitVec.ofNat 32 (i / k.sizes 0 l % max 1 (k.size l)) else g.lvc.get l)) {},
    lvn := k.levels.foldl (fun t l => t.set l (BitVec.ofNat 32 (k.size l))) {} }

/-- Fill slots with threads, in ascending slot and TIDX order (R35). -/
def fillSlots (s : State) (c : Nat) (slots : List Nat) (f : Nat → Thread) : State :=
  (slots.zip (List.range slots.length)).foldl (fun s e => s.setThr (threadKey c e.1) (f e.2)) s

/-! Ends of kernels. -/

/-- Engine work of a kernel that has not completed (R32). -/
def engineWork (s : State) (k : Nat) : Bool := s.cmds.cells.any (fun e => match e.2 with | some c => c.kernel == k | none => false)

/-- The key stands for a thread of a kernel's group that is gone from its slot. -/
def ghostOf (s : State) (k t : Nat) : Bool := ghostGroup t != 0 && (s.group (ghostGroup t)).kernel == k

/-- What the end of a kernel waits for beside its groups: its engine work, and the stores, atomics, posts, pushes and traps that
its threads have left under way (R32, R33). -/
def kernelWork (s : State) (k : Nat) : Bool :=
  s.engineWork k ||
  s.accs.cells.any (fun e => match e.2 with | some a => s.ghostOf k a.thr | none => false) ||
  s.posts.cells.any (fun e => match e.2 with | some p => s.ghostOf k p.thr | none => false) ||
  s.heapOps.cells.any (fun e => match e.2 with | some o => s.ghostOf k o.thr | none => false) ||
  s.late.cells.any (fun e => match e.2 with | some l => s.ghostOf k l.thr | none => false)

/-- A group that no longer counts for its kernel's end. -/
def ended (g : Group) : Bool := g.state == .retired || g.state == .discarded || g.state == .absent

def allEnded (s : State) (k : Nat) : Bool := (s.kernel k).groups.all (fun g => ended (s.group g))

/-- The completion add (R33): an atomic add performed at the memory side; XL_FAULT when DONE does not translate. -/
def completionAdd (s : State) (k : Nat) (v : Word) : State :=
  let kr := s.kernel k
  if kr.doneVa = 0 ∨ !kr.doneOk then s
  else match s.dieAddr kr.die kr.asid kr.doneVa.toNat .write with
    | .ok (s1, pa) => s1.homeAdd pa v
    | .error s1 => s1.log { code := 0x0201, sev := 2, action := 3, eclass := 2, part := kr.part, einst := 28 + kr.die, ctx := kr.ctx,
                            va := some kr.doneVa.toNat }

/-- A kernel reaches an end state (R31–R33). -/
def endKernel (s : State) (k : Nat) (st : KState) : State :=
  (s.modKernel k (fun x => { x with state := st })).completionAdd k (if st = .retired then 1 else 0x10000)

/-! Freeing what a group holds. -/

/-- A command that still uses its thread's slot: one that the operand log holds, and a matrix command, but for a drain whose
tile has been copied (R335).  Other engine work may outlast its group (R32). -/
def cmdBinds (c : Cmd) : Bool :=
  cmdLogged c || (match c.eng, c.i with
    | .pfx _, .kvxlat _ _ _ => true
    | .matrix _, .xdrain _ _ _ _ _ => !c.started
    | .matrix _, _ => true
    | _, _ => false)

/-- Something of the thread is still in flight (R46). -/
def inFlight (s : State) (t : Nat) : Bool :=
  s.accs.cells.any (fun e => match e.2 with | some a => a.thr == t | none => false) ||
  s.posts.cells.any (fun e => match e.2 with | some p => p.thr == t | none => false) ||
  s.heapOps.cells.any (fun e => match e.2 with | some o => o.thr == t | none => false) ||
  s.cmds.cells.any (fun e => match e.2 with | some c => c.thr == t && cmdBinds c | none => false) ||
  s.late.cells.any (fun e => match e.2 with | some l => l.thr == t | none => false)

/-- What a thread has under way goes on under another key, with its flags or without. -/
def rekey (s : State) (t u : Nat) (flags : Bool) : State :=
  let fl (f : Option Nat) : Option Nat := if flags then f else none
  { s with
    accs := s.accs.mapCells (fun _ o => o.map (fun (a : Access) => if a.thr = t then { a with thr := u, flag := fl a.flag } else a))
    posts := s.posts.mapCells (fun _ o => o.map (fun (p : Post) => if p.thr = t then { p with thr := u, flag := fl p.flag } else p))
    heapOps := s.heapOps.mapCells (fun _ o => o.map (fun (h : HeapOp) => if h.thr = t then { h with thr := u, flag := fl h.flag } else h))
    cmds := s.cmds.mapCells (fun _ o => o.map (fun (c : Cmd) => if c.thr = t then { c with thr := u, flag := fl c.flag } else c))
    late := s.late.mapCells (fun _ o => o.map (fun (l : LateTrap) => if l.thr = t then { l with thr := u, flag := fl l.flag } else l)) }

/-- The thread's slot becomes FREE (R46, R346); what it has left under way goes on without it. -/
def freeSlot (s : State) (t : Nat) : State :=
  ((s.rekey t (ghostKey (s.thr t).group (slotKey t)) false).freeHandles t).setThr t {}

/-- A command has started (R34, log 8): it is marked so, or its descriptor is read, nothing holds it and its turn has come: a streamer
runs up to 8 of its commands at once (R338), and a matrix queue takes the commands on one tile, and those for the array, one after another
(R327). -/
def hasBegun (s : State) (id : Nat) (c : Cmd) : Bool :=
  let mma (x : Cmd) : Bool := match x.i with | .mma _ _ _ _ _ | .mmas _ _ _ _ _ => true | _ => false
  let ahead (p : Cmd → Bool) : Nat := (s.cmds.cells.filter (fun e => e.1 < id && (match e.2 with
    | some x => x.eng == c.eng && x.ready && x.fault.isNone && !s.heldBehind x.thr e.1 && p x
    | none => false))).length
  c.started || (c.ready && c.fault.isNone && !s.heldBehind c.thr id && (match c.eng with
    | .streamer _ => ahead (fun _ => true) < 8
    | .matrix _ => ahead (fun x => (x.mark == c.mark && keyCtx x.thr == keyCtx c.thr && !x.started) || (mma x && mma c)) == 0
    | _ => false))

/-- The thread's queued stores leave. -/
def flushStores : Nat → State → Nat → State
  | 0, s, _ => s
  | n + 1, s, t => if (s.accsOf t).any (fun e => e.2.op.isStore) then flushStores n (s.storeDrain t) t else s

/-- A thread of a discarded group goes: its loads, waiting pops and commands not started are dropped, its stores, atomics,
posts, started commands and traps decided after issue go on without it (R34), and its slot is FREE. -/
def discardThread (s : State) (t : Nat) : State :=
  let keep (a : Access) : Option Access :=
    if a.thr ≠ t then some a
    else if faulted a then none
    else match a.op with
      | .store | .tset _ | .tclr _ | .rmw _ _ | .cas _ _ => some { a with dst := .none }
      | _ => none
  let s0 := { s with accs := s.accs.mapCells (fun _ o => o.bind (fun a =>
    if a.thr = t ∧ (a.op = .load ∨ a.op = .fetch ∨ logFence a) then none else some a)) }
  let s1 := flushStores 40 s0 t
  let s2 := { s1 with
    accs := s1.accs.mapCells (fun _ o => o.bind keep)
    heapOps := s1.heapOps.mapCells (fun _ o => o.bind (fun (h : HeapOp) =>
      if h.thr = t ∧ h.kind ≠ HeapKind.push then none else some h))
    cmds := s1.cmds.mapCells (fun k o => o.bind (fun (c : Cmd) => if c.thr = t ∧ !s.hasBegun k c then none else some c)) }
  s2.freeSlot t

/-! Bank swap (R78). -/

/-- A context reaches a state, and the context journal says so (R94). -/
def ctxTo (s : State) (core bank c : Nat) (st : CtxState) : State :=
  if c = 0 then s
  else
    let s1 := s.modCtx c (fun x => { x with state := st })
    { s1 with rm := { s1.rm with journal := s1.rm.journal ++
      [{ cycle := s.cycle, core := core, bank := bank, ctx := c, state := st }] } }

/-- The banks change places; nothing issues for 48 cycles.  A spill of the incoming context is abandoned (R82). -/
def exchangeBanks (s : State) (core : Nat) : State :=
  let k := s.core core
  let s0 := s.modCtx (k.ctxIn k.shadowBank) (fun x => { x with passed := 0, movedAt := 0, slots := [], ovPad := [], ovShare := [] })
  let s1 := s0.modCore core (fun x => { x with active := !x.active, idleUntil := s.cycle + 48, cmdBusy := some .swap })
  (s1.ctxTo core k.activeBank (k.ctxIn k.activeBank) .shadow).ctxTo core k.shadowBank (k.ctxIn k.shadowBank) .active

/-- Some group of a context is HALTING. -/
def haltingIn (s : State) (c : Nat) : Bool := s.groups.cells.any (fun e => e.2.ctx == c && e.2.state == .halting)

/-- A waiting SWAP takes place once the outgoing context has no group HALTING. -/
def trySwap (s : State) (core : Nat) : State :=
  let k := s.core core
  if k.cmdBusy = some .swapWait ∧ !s.haltingIn (k.ctxIn k.activeBank) then s.exchangeBanks core else s

/-! Ends of groups. -/

/-- A group's pad, tiles and barriers are freed (R45, R56). -/
def freeGroup (s : State) (gid : Nat) (st : GroupState) : State :=
  let g := s.group gid
  let s1 := s.modCtx g.ctx (fun x =>
    { x with barriers := x.barriers.mapCells (fun _ b => if b.group = gid then {} else b),
             tiles := x.tiles.mapCells (fun _ t => if t.group = gid then { t with group := 0 } else t),
             troupes := x.troupes.filter (fun tr => tr.slots.all (fun k => (s.thr (threadKey g.ctx k)).group != gid)) })
  let s2 := { s1 with evicted := s1.evicted.drop (fun k _ => k / 1024 == gid),
                      evLane := s1.evLane.drop (fun k _ => k / (1024 * 256) == gid),
                      threads := s1.threads.drop (fun k _ => 2 ^ 80 ≤ k && ghostGroup k == gid),
                      placements := s1.placements.drop (fun _ o => match o with | some p => p.group == gid | none => false) }
  s2.modGroup gid (fun g => { g with state := st, recalled := false })

/-- A group is DISCARDED (R34, R45); a swap that waited for its halt may take place (R43). -/
def discardGroup (s : State) (gid : Nat) : State :=
  let g := s.group gid
  if ended g then s
  else
    let slots := if g.ctx = 0 then [] else s.slotsOf g.ctx (fun x => x.group == gid)
    let out := (s.evicted.keys.filter (fun k => k / 1024 == gid)).map (fun k => evictedKey gid (threadKey g.ctx (k % 1024)))
    let s1 := (out.foldl State.discardThread s).freeGroup gid .discarded
    let s2 := slots.foldl (fun s k => s.discardThread (threadKey g.ctx k)) s1
    (s2.wakeCtx g.ctx).trySwap (s.ctx g.ctx).core

/-- A group of a kernel that is cancelled (R34, R45): one that has not been placed, has stopped or has been evicted is
discarded; one that runs is halted as at a trap, and discarded when it has stopped; one that is RETIRING retires. -/
def cancelGroup (s : State) (gid : Nat) : State :=
  match (s.group gid).state with
  | .pending | .halted | .evicted => s.discardGroup gid
  | .running => s.startHalt gid 0 0
  | _ => s

/-- A placement under way comes to nothing: the group waits again with its unit, at the cluster and the base that other groups of the
unit hold (R23). -/
def unplace (s : State) (gid : Nat) : State :=
  let g := s.group gid
  let s1 := (s.freeGroup gid .pending).modGroup gid (fun g => { g with ctx := 0 })
  let kr := s.kernel g.kernel
  let die := coreDie (s.ctx g.ctx).core
  let stay := (s.groups.cells.filter (fun e => e.1 != gid && e.2.kernel == g.kernel && e.2.unit == g.unit && !e.2.spawned && holds e.2)).head?
  let p : PendUnit := (s.pends.get g.unit).getD
    { kernel := g.kernel, unit := g.gnum.toNat / max 1 kr.perUnit, groups := [], die := die, cluster := none, begun := false, base := 0 }
  let q : PendUnit := match stay with
    | some e => { p with groups := insertBy (· ≤ ·) gid p.groups, begun := true, base := e.2.cluBase, cluster := some e.2.cluster }
    | none => { p with groups := insertBy (· ≤ ·) gid p.groups, begun := false, base := 0, cluster := none }
  { s1 with pends := s1.pends.set g.unit (some q) }

/-- A kernel's units that wait, and its commands not started, are dropped (R34). -/
def dropWaiting (s : State) (k : Nat) : State :=
  { s with
    pends := s.pends.drop (fun _ o => match o with | some p => p.kernel == k | none => false)
    cmds := s.cmds.mapCells (fun i o => o.bind (fun (c : Cmd) =>
      if c.kernel = k ∧ !s.hasBegun i c then none else some c)) }

/-- Cancellation, or termination after a trap or a die failure (R32, R34). -/
def cancelKernel (s : State) (k : Nat) (faulting : Bool) : State :=
  let cleared := (s.kernel k).groups.foldl State.cancelGroup (s.dropWaiting k)
  match (s.kernel k).state with
  | .enqueued => cleared.endKernel k .cancelled
  | .running | .draining => cleared.modKernel k (fun x => { x with state := .cancelling, faulting := faulting })
  | _ => s

/-! The launch path. -/

/-- A launch record fails validation (R26): REJECTED, with its record and the rejection add.  CTXID alone of the thread's fields
applies, and the record's FLAGS bit for the four stays clear (DESIGN CHOICE, log 58). -/
def reject (s : State) (k : Nat) : State :=
  let kr := s.kernel k
  let s1 := s.log { code := 0x030E, sev := 2, action := 3, eclass := 2, part := kr.part, einst := 28 + kr.die, ctx := kr.ctx,
                    va := some kr.recVa.toNat, detail := Cause.desc.code }
  s1.endKernel k .rejected

/-- The groups of a valid kernel are created, PENDING, and its units wait at a die's scheduler. -/
def createGroups (s : State) (k die : Nat) (cluster : Option Nat) : State :=
  let kr := s.kernel k
  let n := kr.groupCount
  let base := s.nextId
  let s1 := (List.range n).foldl (fun s i =>
    let g : Group := { state := .pending, kernel := k, gnum := BitVec.ofNat 32 i,
                       lvc := kr.levels.foldl (fun t l =>
                         if kr.groupLevel ≤ l then t.set l (BitVec.ofNat 32 (kr.coord i l)) else t) {},
                       producer := kr.clusterLevel.isSome && kr.producer != 0xFF && i % kr.perUnit == kr.producer,
                       unit := base + n + i / kr.perUnit, serves := kr.serves }
    { s with groups := s.groups.set (base + i) g }) s
  let s2 := (List.range (n / max 1 kr.perUnit)).foldl (fun s u =>
    { s with pends := s.pends.set (base + n + u) (some
      { kernel := k, unit := u, groups := (List.range kr.perUnit).map (fun i => base + u * kr.perUnit + i), die := die,
        cluster := cluster, begun := false, base := 0 }) }) s1
  { s2 with nextId := base + 2 * n + 1,
            kernels := s2.kernels.modify k (fun x => { x with groups := (List.range n).map (· + base), nextSpawn := n }) }

/-- The bank of a core may receive groups of a kernel (R383): it holds a context of its process. -/
def bankTakes (s : State) (kr : Kernel) (c core : Nat) : Bool :=
  let x := s.ctx c
  c != 0 && x.core == core && x.asid == kr.asid && (x.state == .active || x.state == .shadow)

/-- The unit's number at the highest level of domain 2, whose units start on one cluster (R23). -/
def clusterMates (kr : Kernel) (u : Nat) : Nat :=
  match kr.clusterLevel, kr.highest 2 with
  | some c, some h => u / max 1 (kr.sizes c h)
  | _, _ => u

/-- The units that one cluster is bound to take with a unit (R23). -/
def bindMates (s : State) (kr : Kernel) (p : PendUnit) (cl : Nat) : State :=
  { s with pends := s.pends.mapCells (fun _ o => o.map (fun (q : PendUnit) =>
      if q.kernel = p.kernel ∧ q.cluster = none ∧ kr.clusterLevel.isSome ∧ clusterMates kr q.unit = clusterMates kr p.unit then
        { q with cluster := some cl } else q)) }

/-- A group's cluster-memory base: the unit's, or a new allocation. -/
def unitBase (s : State) (kr : Kernel) (p : PendUnit) (cl : Nat) : Option Nat :=
  if p.begun then some p.base else allocate (s.clusterUsed cl) kr.clusterBytes 2048 2097152

/-- A core's bank has room for the next group of a unit (R29, R383). -/
def roomAt (s : State) (kr : Kernel) (p : PendUnit) (core b : Nat) : Bool :=
  let c := (s.core core).ctxIn b
  s.bankTakes kr c core && (s.room kr c kr.threads).isSome && (s.unitBase kr p (coreCluster core)).isSome

/-- Some core of a unit's die has room for its next group. -/
def roomOnDie (s : State) (kr : Kernel) (p : PendUnit) : Bool :=
  s.cores.keys.any (fun core => coreDie core == p.die && [0, 1].any (s.roomAt kr p core))

/-- The cores' clusters start one after another, and a die that has failed runs nothing (R224, R226). -/
def coreRuns (s : State) (core : Nat) : Bool :=
  core % 56 / 8 < (s.die (coreDie core)).started && !(s.die (coreDie core)).failed

/-- The first group of a kernel goes to no shadow bank while an active bank that may take it has room (R19). -/
def shadowTooSoon (s : State) (kr : Kernel) (p : PendUnit) (core bank : Nat) : Bool :=
  kr.state == .enqueued && bank != (s.core core).activeBank && s.cores.keys.any (fun k =>
    coreDie k == p.die && s.coreRuns k && p.cluster.all (· == coreCluster k) && s.roomAt kr p k (s.core k).activeBank)

/-- Placement of the first waiting group of a unit at a core and bank (R23, R29, R383): it is reserved and sent on its way.
A unit for which the die has no room waits in the die's list, or with a cluster's scheduler when it may be donated (R75). -/
def placeUnit (s : State) (idx core bank : Nat) : State :=
  match s.pends.get idx with
  | none => s
  | some p =>
    match p.groups with
    | [] => { s with pends := s.pends.set idx none }
    | gid :: rest =>
      let kr := s.kernel p.kernel
      let c := (s.core core).ctxIn bank
      let cl := coreCluster core
      let home := (s.group kr.serves).ctx
      if s.priorWaits ∨ 224 ≤ core ∨ coreDie core ≠ p.die ∨ (s.die p.die).failed ∨ (s.die p.die).started ≤ core % 56 / 8 ∨ p.cluster.any (· != cl) ∨ !(kr.state = .enqueued ∨ kr.state = .running) then s
      else if kr.serves ≠ 0 ∧ c ≠ home ∧ (s.room kr home kr.threads).isSome ∧ s.bankTakes kr home (s.ctx home).core then s
      else if !s.bankTakes kr c core || s.shadowTooSoon kr p core bank then s
      else match s.room kr c kr.threads, s.unitBase kr p cl with
        | some (slots, pad, bar, tile), some base =>
          let s1 := s.grant gid c kr.threads kr pad bar tile base
          let s2 := { s1 with
            placements := s1.placements.set s1.nextId (some { group := gid, ctx := c, slots := slots })
            nextId := s1.nextId + 1
            pends := s1.pends.set idx (if rest.isEmpty then none else
                some { p with groups := rest, cluster := some cl, begun := true, base := base }) }
          s2.bindMates kr p cl
        | _, _ =>
          if kr.portable ∧ !s.roomOnDie kr p then
            ({ s with pends := s.pends.set idx (some { p with cluster := some cl }) }).bindMates kr p cl
          else s

/-- SCHEDULER_TAKE_LAUNCH (R26, R29): the head entry is taken and validated; the first group is placed at the core and bank
that the scheduler chose, or the kernel stays pending. -/
def takeLaunch (s : State) (die q core bank : Nat) : State :=
  match (s.queue q).entries with
  | [] => s
  | k :: r =>
    if (s.queue q).kind ≠ 2 ∨ queueDie q ≠ die ∨ s.priorWaits then s
    else
      let s1 := (s.updQueue q (fun x => { x with entries := r, head := x.head + 1 }.settle)).wakeQueue q
      let kr := s.kernel k
      if kr.state ≠ .enqueued then s1
      else if !kr.valid then s1.reject k
      else
        let s2 := s1.createGroups k die none
        s2.placeUnit (s1.nextId + kr.groupCount) core bank

/-- PLACEMENT_ARRIVAL (R29, R32, R45): the group's slots are initialised and its first troupes form at once, with this cycle as their
age; a placement whose context has left its bank meanwhile fills the slots of that context (DESIGN CHOICE, log 58). -/
def placementArrival (s : State) (idx : Nat) : State :=
  match s.placements.get idx with
  | none => s
  | some p =>
    let g := s.group p.group
    let kr := s.kernel g.kernel
    let s1 := { s with placements := s.placements.set idx none }
    if s.priorWaits then s
    else if g.state ≠ .pending then s1
    else
      let s2 := s1.fillSlots p.ctx p.slots (fun i => launchThread kr g p.group i p.slots.length)
      let s3 := s2.modGroup p.group (fun g => { g with state := .running, placedAt := s.cycle })
      let s4 := s3.modKernel g.kernel (fun x => if x.state = .enqueued then { x with state := .running } else x)
      s4.formTroupes p.ctx p.slots s.cycle s.cycle (some s.cycle)

/-- The groups that R23 binds to the launch die are those numbered below this: the first unit of the top level, or its first
unit at the next level down when its domain is the partition. -/
def boundGroups (kr : Kernel) : Nat :=
  let top := kr.nlevels - 1
  kr.sizes kr.groupLevel (if kr.domain top ≤ 3 then top else top - 1)

/-- UNIT_HANDOFF (R23): a unit that nothing binds to the launch die goes, whole and unstarted, to another die of the
partition. -/
def handoff (s : State) (idx die : Nat) : State :=
  match s.pends.get idx with
  | none => s
  | some p =>
    let kr := s.kernel p.kernel
    let lv := ((kr.levels.filter (fun i => kr.domain i ≤ 3)).getLast?).getD kr.groupLevel
    let per := max 1 (kr.sizes kr.groupLevel (max lv kr.groupLevel))
    let unitOf (g : Nat) : Nat := (s.group g).gnum.toNat / per
    let u := unitOf (p.groups.headD 0)
    let mates := kr.groups.filter (fun g => unitOf g == u)
    if u * per < boundGroups kr ∨ 4 ≤ die ∨ s.partOf die ≠ s.partOf p.die ∨ kr.serves ≠ 0 ∨
        mates.any (fun g => (s.group g).state != .pending || (s.group g).ctx != 0) ∨
        s.pends.cells.any (fun e => match e.2 with
          | some q => q.kernel == p.kernel && q.shipped && unitOf (q.groups.headD 0) == u
          | none => false) then s
    else { s with pends := s.pends.mapCells (fun _ o => o.map (fun (q : PendUnit) =>
      if q.kernel = p.kernel ∧ unitOf (q.groups.headD 0) = u then { q with die := die, cluster := none } else q)) }

/-- The cluster after another one of its die (R75). -/
def nextCluster (c : Nat) : Nat := c / 7 * 7 + (c % 7 + 1) % 7

/-- A cluster scheduler has a group that it could place now: some core of the cluster has room for the next group of a unit that
waits at its die or with it. -/
def placeable (s : State) (cl : Nat) : Bool :=
  s.pends.cells.any (fun e => match e.2 with
    | none => false
    | some p =>
      let kr := s.kernel p.kernel
      p.die == cl / 7 && p.cluster.all (· == cl) && s.cores.keys.any (fun core => coreCluster core == cl && [0, 1].any (fun b =>
        s.roomAt kr p core b)))

/-- STEAL_REQUEST (R75): a cluster scheduler with no placeable group and no pending group asks the next cluster of its die. -/
def stealRequest (s : State) (cl : Nat) : State :=
  if s.placeable cl || s.pends.cells.any (fun e => match e.2 with | some p => p.cluster == some cl | none => false) ||
      s.steals.cells.any (fun e => match e.2 with | some x => x.thief == cl | none => false) || 28 ≤ cl then s
  else { s with steals := s.steals.set s.nextId (some { thief := cl, asked := nextCluster cl }), nextId := s.nextId + 1 }

/-- STEAL_REPLY (R24, R75): the victim ships its oldest unit that may be donated, or refuses and the next one is asked.  A unit
that was shipped stays with its thief. -/
def stealReply (s : State) (idx : Nat) : State :=
  match s.steals.get idx with
  | none => s
  | some x =>
    let give := s.pends.cells.findSome? (fun e => match e.2 with
      | some p => if p.cluster == some x.asked && !p.begun && !p.shipped && (s.kernel p.kernel).portable && (s.kernel p.kernel).serves == 0
          then some (e.1, p) else none
      | none => none)
    match give with
    | some (k, p) => { s with pends := s.pends.set k (some { p with cluster := some x.thief, shipped := true }), steals := s.steals.set idx none }
    | none =>
      let n := nextCluster x.asked
      { s with steals := s.steals.set idx (if n = x.thief then none else some { x with asked := n }) }

/-! Troupe formation. -/

/-- FORMATION_ROUND (R36): the issue slot's runnable threads at headers are taken and troupes are rebuilt by group and PC; a
troupe whose members do not change stays as it is, and the others are selectable from the next cycle on, outside any
not-ready interval of their threads (R37). -/
def formationRound (s : State) (core islot : Nat) : State :=
  if s.cycle % 8 ≠ 0 then s
  else
  let c := (s.core core).ctxIn (s.core core).activeBank
  let atHead (k : Nat) : Bool := k % 4 == islot && !(s.thr (threadKey c k)).gate
  let taken := s.slotsOf c (fun x => x.run == .runnable && !x.gate) |>.filter (fun k => k % 4 == islot)
  let parts := (classes (s.place c) taken.length taken).flatMap (fun l => chunks32 l.length l)
  let old := (s.ctx c).troupes
  let kept := old.filter (fun tr => !tr.slots.all atHead || parts.contains tr.slots)
  let new := parts.filter (fun l => !old.any (fun tr => tr.slots == l))
  let s1 := s.modCtx c (fun x => { x with troupes := kept })
  let ready (l : List Nat) : Nat :=
    old.foldl (fun n tr => if tr.slots.any l.contains then max n tr.readyAt else n) (s.cycle + 1)
  new.foldl (fun s l => s.addTroupe c l s.cycle (ready l) none) s1

/-! Halt and handlers. -/

/-- The route of a cause in a tenant's TRAP_DELEG (R91). -/
def routeOf (s : State) (tenant cause : Nat) : Nat := cut (s.tenants.get tenant).deleg.toNat (2 * (cause - 1)) 2

/-- The trap service group is launched for a halted group (R92), from the record at TRAPGRP; an invalid record sends the trap
to the Ringmaster. -/
def launchService (s : State) (gid : Nat) : State :=
  let g := s.group gid
  let kr := s.kernel g.kernel
  let core := (s.ctx g.ctx).core
  let die := coreDie core
  let snap := s.snapshot die kr.asid kr.trapGrp.toNat
  let k : Kernel := { state := .enqueued, recVa := kr.trapGrp, record := snap.2.1, codeVa := BitVec.ofNat 64 snap.2.2.1,
                      code := snap.2.2.2, asid := kr.asid, ctx := g.ctx, tenant := kr.tenant, die := die,
                      part := s.partOf die, serves := gid }
  let s1 := { snap.1 with kernels := snap.1.kernels.set snap.1.nextId k, nextId := snap.1.nextId + 1 }
  if k.valid then
    (s1.createGroups snap.1.nextId die (some (coreCluster core))).modGroup gid (fun g => { g with handler := some 1, servedAt := s.now, action := 0 })
  else (s1.reject snap.1.nextId).modGroup gid (fun g => { g with handler := some 2 })

/-- The handler of a halted group starts (R45, R91). -/
def startHandler (s : State) (gid : Nat) : State :=
  let g := s.group gid
  let kr := s.kernel g.kernel
  let x := s.ctx g.ctx
  let dst (s : State) (n : Nat) : State := s.modGroup gid (fun g => { g with handler := some n })
  match s.routeOf x.tenant.toNat g.cause.toNat with
  | 0 =>
    if (s.core x.core).attFaulted then
      dst (s.log { code := 0x0604, sev := 2, action := 1, eclass := 1, part := s.partOf (coreDie x.core), einst := x.core }) 2
    else dst s 0
  | 1 => if kr.trapGrp = 0 then dst s 2 else s.launchService gid
  | _ => dst s 2

/-- GROUP_HALTED (R42, R45, R84): every troupe of the group has stopped and dissolves; a thread that has blocked during the
skid stops at the instruction that blocks it, with skid count 0.  The halt takes one cycle of the 16 (DESIGN CHOICE, log 6).  A group of a kernel that is CANCELLING is discarded
and starts no handler (R34). -/
def groupHalted (s : State) (gid : Nat) : State :=
  let g := s.group gid
  if g.state ≠ .halting then s
  else
    let s1 := (s.groupSlots gid (fun x => match x.run with | .runnable | .blocked _ => true | _ => false)).foldl
      (fun s k => s.modThr (threadKey g.ctx k) (fun x =>
        { x with run := .stopped, skid := if x.run = .runnable then x.skid else 0 })) s
    let s2 := s1.modCtx g.ctx (fun x =>
      { x with troupes := x.troupes.filter (fun tr => tr.slots.all (fun k => (s.thr (threadKey g.ctx k)).group != gid)) })
    let s3 := s2.modGroup gid (fun g => { g with state := .halted })
    if (s.kernel g.kernel).state = .cancelling then s3.discardGroup gid
    else (s3.startHandler gid).trySwap (s.ctx g.ctx).core

/-- TRAP_AT_REPLY (R380): a trap decided after issue reaches its core. -/
def trapAtReply (s : State) (idx : Nat) : State :=
  match s.late.get idx with
  | none => s
  | some l =>
    let s1 := ({ s with late := s.late.set idx none }).modThr l.thr (fun x => x.flagDown l.flag)
    let s2 := s1.wakeCtx (keyCtx l.thr)
    (if l.flag.isSome then s2.settleSlot l.thr else s2).trapLate l.thr l.pc
      { cause := l.cause, code := l.code, va := l.va.map BitVec.toNat, pa := l.pa } l.batch

/-- The header word at an address, for the clause's fields (R262). -/
def headerAt (s : State) (t : Nat) (va : DWord) : Option Nat :=
  match s.fetch t va.toNat 4 with
  | .bytes _ bs => if headerParcel bs then some (leNat bs) else none
  | _ => none

/-- OFF names an instruction boundary of a clause of n parcels whose bytes follow (R85). -/
def boundary : Nat → List Byte → Nat → Nat → Bool
  | 0, _, _, _ => false
  | k + 1, bs, at_, off =>
    if at_ = off then true
    else if off < at_ then false
    else
      let w := if (bs.headD 0).toNat % 2 = 0 then 1 else 2
      boundary k (bs.drop (2 * w)) (at_ + w) off

/-- What R85 says of a thread's resumption record: it may be resumed or not; or the clause cannot be read, so that the check waits
for the fetch, at the header or behind it. -/
inductive Resumable
  | yes
  | no
  | fault (f : XFault) (va : DWord)
  | poison (pa : Nat) (va : DWord)
  | wait
  deriving DecidableEq

/-- The check of R85. -/
def resumable (s : State) (t : Nat) : Resumable :=
  let x := s.thr t
  match s.fetch t x.hdr.toNat 4 with
  | .wait => .wait
  | .fault f => .fault f x.hdr
  | .poison pa => .poison pa x.hdr
  | .bytes _ bs =>
    let len := cut (leNat bs) 27 4 + 1
    if !headerParcel bs then .no
    else if !x.gate then .yes
    else if x.off.toNat < 2 ∨ 2 + len ≤ x.off.toNat then .no
    else match s.fetch t (x.hdr.toNat + 4) (2 * len) with
      | .wait => .wait
      | .fault f => .fault f (x.hdr + 4)
      | .poison pa => .poison pa (x.hdr + 4)
      | .bytes _ body => if boundary 40 body 2 x.off.toNat then .yes else .no

/-- The clause fields of a resumed thread come from the header that its record names. -/
def relatch (s : State) (t : Nat) : State :=
  match s.headerAt t (s.thr t).hdr with
  | none => s
  | some w =>
    let name (f : Nat) : Option Nat := if 12 ≤ f then none else some f
    s.modThr t (fun x => if x.gate then
      { x with curA := name (cut w 19 4), curB := name (cut w 23 4), len := cut w 27 4 + 1, y := cut w 31 1 == 1 } else x)

/-- The group is RETIRING when its last thread has exited (R45). -/
def checkRetiring (s : State) (gid : Nat) : State :=
  if (s.group gid).state = .running ∧ (s.groupSlots gid (fun x => x.run != .exited)).isEmpty then
    s.modGroup gid (fun g => { g with state := .retiring })
  else s

/-- A trap routed to the Ringmaster stays HALTED while the complex is not in service, and until those that came before it in a reset have
been handled (R211). -/
def awaitsRm (s : State) (gid : Nat) : Bool := (s.group gid).handler == some 2 && (!s.rmUp || !s.heldInTurn (.trap gid))

/-- The faulted entries of a group that resumes replay (R88). -/
def unholdLog (s : State) (gid : Nat) : State :=
  let of_ (t : Nat) : Bool := (s.thr t).group == gid
  { s with accs := s.accs.mapCells (fun _ o => o.map (fun a => if of_ a.thr && faulted a then { a with resolved := true } else a)),
           cmds := s.cmds.mapCells (fun _ o => o.map (fun c => if of_ c.thr && cmdLogged c then { c with resolved := true } else c)) }

/-- TRAP_RESUME (R45, R85, R92): RETURN FROM A TRAP.  Every stopped thread goes on from its resumption record; a record that
R85 refuses traps ILLEGAL at HDR with GATE 0; where the clause cannot be fetched, the thread's troupe waits for it, and the check is
made before its next instruction issues. -/
def resume (s : State) (gid : Nat) : State :=
  let g := s.group gid
  if g.state ≠ .halted ∨ s.awaitsRm gid then s
  else
    let slots := s.groupSlots gid (fun x => x.run == .stopped)
    let bad := slots.filter (fun k => s.resumable (threadKey g.ctx k) == .no)
    let late := slots.filter (fun k => s.resumable (threadKey g.ctx k) != .no && s.resumable (threadKey g.ctx k) != .yes)
    let s1 := s.modGroup gid (fun g => { g with state := .running, cause := 0, causeSlot := 0, handler := none, late := [] })
    let s2 := slots.foldl (fun s k => (s.resumeThread (threadKey g.ctx k)).relatch (threadKey g.ctx k)) s1
    let s3 := late.foldl (fun s k => s.modThr (threadKey g.ctx k) (fun x => { x with recheck := true }))
      (bad.foldl (fun s k => s.modThr (threadKey g.ctx k) (fun x => x.atHeader x.hdr)) s2)
    let s4 := s3.formTroupes g.ctx (slots.filter (fun k => !bad.contains k)) s.cycle s.cycle none
    let s5 := ((classes (s4.place g.ctx) bad.length bad).flatMap (fun l => chunks32 l.length l)).foldl (fun s l =>
      s.trapTroupe { core := (s.ctx g.ctx).core, ctx := g.ctx, slots := l } (l.map (fun k => (k, trapOf .illegal)))) s4
    (s5.unholdLog gid).checkRetiring gid

/-- TRAP_TERMINATE_GROUP (R45, R92). -/
def terminateGroup (s : State) (gid : Nat) : State :=
  if (s.group gid).state = .halted ∧ !s.awaitsRm gid then s.discardGroup gid else s

/-- TRAP_TERMINATE_KERNEL (R32, R45, R92).  The attendant asks the Ringmaster for it, since a kernel is one of its objects (R205, R206). -/
def terminateKernel (s : State) (gid : Nat) : State :=
  if (s.group gid).state = .halted ∧ !s.awaitsRm gid ∧ ((s.group gid).handler ≠ some 0 ∨ s.rmUp) then s.cancelKernel (s.group gid).kernel true else s

/-- The action word of a trap window (R92). -/
def windowAction (s : State) (gid : Nat) : State :=
  match (s.group gid).action.toNat with
  | 1 => s.resume gid
  | 3 => s.terminateKernel gid
  | _ => s.terminateGroup gid

/-- TRAP_SERVICE_TIMEOUT (R91): the service group was not placed within 1 ms; the trap goes to the Ringmaster. -/
def serviceTimeout (s : State) (gid : Nat) : State :=
  let k := s.kernels.cells.findSome? (fun e => if e.2.serves == gid && e.2.state == .enqueued then some e.1 else none)
  match k with
  | some k =>
    if (s.group gid).state = .halted ∧ (s.group gid).handler = some 1 ∧ (s.group gid).servedAt + 1000000 ≤ s.now ∧
        !(s.kernel k).groups.any (fun g => (s.group g).ctx != 0) then
      (s.cancelKernel k false).modGroup gid (fun g => { g with handler := some 2 })
    else s
  | none => s

/-! Eviction, retirement. -/

/-- Lane-store bytes move between two places of 256 bytes. -/
def copyBytes (src dst : Memory) (a b n : Nat) : Memory := Memory.store dst b (Memory.bytes src a n)

/-- The poison of 64 words moves with them (R221). -/
def movePoison (p : Tab Bool) (a b : Nat) : Tab Bool :=
  (List.range 64).foldl (fun p i => (p.set (b + i) (p.get (a + i))).set (a + i) false) p

/-- A new group needs slots of a context: a unit waits that the context's bank could take, and too few slots are free. -/
def slotsNeeded (s : State) (c : Nat) : Bool :=
  s.pends.cells.any (fun e => match e.2 with
    | some p =>
      let kr := s.kernel p.kernel
      p.die == coreDie (s.ctx c).core && p.cluster.all (· == coreCluster (s.ctx c).core) && s.bankTakes kr c (s.ctx c).core &&
        (s.freeSlots c).length < kr.threads
    | none => false)

/-- A thread of an evicted group leaves its slot: its registers and lane store are spilled, and what it has under way goes on
for the spilled thread. -/
def evictThread (s : State) (gid c k : Nat) : State :=
  let t := threadKey c k
  let e := gid * 1024 + k
  let s1 := { s with evicted := s.evicted.set e (s.thr t), evLane := copyBytes s.lane s.evLane (256 * t) (256 * e) 256,
                     lpoison := movePoison s.lpoison (64 * t) (2 ^ 60 + 64 * e) }
  let s2 := if s.inFlight t then (s1.rekey t (evictedKey gid t) true).setThr (evictedKey gid t) (s.thr t) else s1
  { s2 with threads := s2.threads.set t {} }

/-- GROUP_EVICT (R45, R58): a group all of whose threads that have not exited are blocked at barriers leaves its slots when a
new group waits for slots. -/
def evictGroup (s : State) (gid : Nat) : State :=
  let g := s.group gid
  let slots := s.groupSlots gid (fun x => x.run != .exited)
  let waits (k : Nat) : Bool := match (s.thr (threadKey g.ctx k)).run with | .blocked (.barrier _) => true | _ => false
  if g.state ≠ .running ∨ slots.isEmpty ∨ !slots.all waits ∨ !s.slotsNeeded g.ctx then s
  else
    let wake := slots.filterMap (fun k => match (s.thr (threadKey g.ctx k)).run with | .blocked (.barrier p) => some p | _ => none)
    (slots.foldl (fun s k => s.evictThread gid g.ctx k) s).modGroup gid (fun g =>
      { g with state := .evicted, wake := wake.eraseDups })

/-- A thread of a recalled group is in its slot again, with what its operations have done to it meanwhile. -/
def recallThread (s : State) (gid c k : Nat) : State :=
  let t := threadKey c k
  let e := gid * 1024 + k
  let x := s.evictedThr gid t
  let s1 := (s.rekey (evictedKey gid t) t true).setThr (evictedKey gid t) {}
  { s1 with threads := s1.threads.set t { x with run := .runnable }, evicted := s.evicted.set e {},
            lane := copyBytes s.evLane s.lane (256 * e) (256 * t) 256, evLane := s.evLane.drop (fun a _ => a / 256 == e),
            lpoison := movePoison s.lpoison (2 ^ 60 + 64 * e) (64 * t) }

/-- GROUP_RECALL (R45, R58): a group whose barrier has released is reloaded into its slots; its threads execute their waits
again. -/
def recallGroup (s : State) (gid : Nat) : State :=
  let g := s.group gid
  let slots := (s.evicted.keys.filter (fun k => k / 1024 == gid)).map (fun k => k % 1024)
  let x := s.ctx g.ctx
  if g.state ≠ .evicted ∨ !g.recalled ∨ !(x.state = .active ∨ x.state = .shadow) ∨
      slots.any (fun k => (s.thr (threadKey g.ctx k)).run != .free || (s.reserved g.ctx).contains k) then s
  else
    let s1 := slots.foldl (fun s k => s.recallThread gid g.ctx k) s
    let s2 := s1.modGroup gid (fun g => { g with state := .running, recalled := false, wake := [] })
    s2.formTroupes g.ctx slots s.cycle s.cycle none

/-- THREAD_SLOT_FREE (R46): an EXITED thread with nothing in flight frees its slot. -/
def slotFree (s : State) (t : Nat) : State :=
  if (s.thr t).run = .exited ∧ !s.inFlight t then s.freeSlot t else s

/-- GROUP_RETIRE (R22, R45): nothing of the group is in flight, so its release is performed; its resources are freed, and its
kernel drains when it was the last one with engine work outstanding (R32).  When a trap service group retires, the
action word of its window is acted on: 1 resumes the group it served, 3 terminates the kernel, 2 or none the group (R92); that
every other value terminates the group is the model's choice (log 31). -/
def retireGroup (s : State) (gid : Nat) : State :=
  let g := s.group gid
  if g.state ≠ .retiring ∨ !(s.groupSlots gid (fun _ => true)).isEmpty then s
  else
    let s1 := s.freeGroup gid .retired
    let s2 := if s1.allEnded g.kernel ∧ s1.engineWork g.kernel ∧ (s1.kernel g.kernel).state = .running then
      s1.modKernel g.kernel (fun x => { x with state := .draining }) else s1
    if g.serves ≠ 0 ∧ (s2.group g.serves).handler = some 1 then s2.windowAction g.serves else s2

/-- KERNEL_DRAIN_DONE (R32, R33). -/
def drainDone (s : State) (k : Nat) : State :=
  let st := (s.kernel k).state
  if (st = .running ∨ st = .draining) ∧ !(s.kernel k).groups.isEmpty ∧ s.allEnded k ∧ !s.kernelWork k then s.endKernel k .retired
  else s

/-- KERNEL_CANCEL_DONE (R32, R33). -/
def cancelDone (s : State) (k : Nat) : State :=
  let kr := s.kernel k
  if kr.state = .cancelling ∧ s.allEnded k ∧ !s.kernelWork k then
    s.endKernel k (if kr.faulting then .faulted else .cancelled)
  else s

end State

/-! EXIT and SPAWN (R47, R48). -/

/-- EXIT (R48, R54, R346): the thread drops from its barriers, its handles retire, and the last one moves the group to
RETIRING. -/
def exitThread (s : State) (t : Nat) : TRes :=
  let s1 := (s.covering t).foldl (fun s p => s.dropAt t p) s
  let s2 := (s1.retireHandles t).modThr t (fun x => { x with run := .exited, sync := none })
  .leave (s2.checkRetiring (s.thr t).group)

def execExit (s : State) : Out := s.run .exit false exitThread

/-- The thread that a spawned group's slot starts with (R47).  The rule names g, a0, a15, the flags, the full bits and the
identity; that a1 to a14, the w registers and the predicates start at 0 is the model's choice (log 3).  Ports are unbound (R65). -/
def spawnThread (k : Kernel) (x : Thread) (gid i n : Nat) (entry : DWord) (copied : List Word) : Thread :=
  let top := k.groupLevel
  { run := .runnable, group := gid, hdr := entry, a := ({} : Tab DWord).set 0 k.args,
    g := (copied.zip (List.range 8)).foldl (fun t e => t.set (e.2 + 1) e.1) {},
    tidx := BitVec.ofNat 32 i, gsize := BitVec.ofNat 32 n,
    lvc := (List.range 8).foldl (fun t l =>
      t.set l (if l = 0 then BitVec.ofNat 32 i else if l < top then 0 else x.lvc.get l)) {},
    lvn := (List.range 8).foldl (fun t l =>
      t.set l (if l = 0 then BitVec.ofNat 32 n else if l < top then 1 else x.lvn.get l)) {} }

/-- SPAWN with its operands read (R47).  A group that SPAWN creates in the skid of a cancelled kernel is halted as the others are
(R34, log 8). -/
def spawnGroup (s : State) (t d : Nat) (count : Word) (entry : DWord) (copied : List Word) : TRes :=
  let x := s.thr t
  let g := s.group x.group
  let k := s.kernel g.kernel
  let c := keyCtx t
  let n := count.toNat
  if n = 0 ∨ 1024 < n then illegal
  else if !canonical entry ∨ entry.toNat % 2 = 1 then .trap (trapAt .address entry)
  else if !s.storesPerformed t s.nextId 1 then .hold
  else match s.room k c n with
    | none => .done (s.modThr t (fun x => x.wrG d 0xFFFFFFFF)) none
    | some (slots, pad, bar, tile) =>
      let gid := s.nextId
      let num := BitVec.ofNat 32 k.nextSpawn
      let new : Group := { state := .running, kernel := g.kernel, gnum := num, lvc := g.lvc, spawned := true, unit := g.unit }
      let s1 := { s with groups := s.groups.set gid new, nextId := gid + 1 }
      let s2 := s1.grant gid c n k pad bar tile g.cluBase
      let s3 := s2.fillSlots c slots (fun i => spawnThread k x gid i n entry copied)
      let s4 := s3.modKernel g.kernel (fun k => { k with nextSpawn := k.nextSpawn + 1, groups := k.groups ++ [gid] })
      let s5 := s4.formTroupes c slots s.cycle (s.cycle + 1) (some s.cycle)
      let s6 := if k.state = .cancelling then s5.startHalt gid 0 0 else s5
      .done (s6.modThr t (fun x => x.wrG d num)) none

/-- SPAWN (R47). -/
def execSpawn (d : BitVec 6) (a : BitVec 4) (b : BitVec 6) (s : State) : Out :=
  s.run (.spawn d a b) false (fun s t =>
    s.operands t (d.toNat :: (List.range 8).map (· + b.toNat)) [] none noCheck (fun s vs =>
      spawnGroup s t d.toNat (vs.headD 0) ((s.thr t).rdA a.toNat) (vs.drop 1)))

/-! The steps. -/

def execSchedulerTakeLaunch (die queue core bank : Nat) (s : State) : Out := .next (s.takeLaunch die queue core bank)
def execPlacementArrival (idx : Nat) (s : State) : Out := .next (s.placementArrival idx)
def execPendingGroupPlace (idx core bank : Nat) (s : State) : Out := .next (s.placeUnit idx core bank)
def execUnitHandoff (idx die : Nat) (s : State) : Out := .next (s.handoff idx die)
def execStealRequest (cluster : Nat) (s : State) : Out := .next (s.stealRequest cluster)
def execStealReply (idx : Nat) (s : State) : Out := .next (s.stealReply idx)
def execFormationRound (core islot : Nat) (s : State) : Out := .next (s.formationRound core islot)
def execTrapAtReply (idx : Nat) (s : State) : Out := .next (s.trapAtReply idx)
def execGroupHalted (g : Nat) (s : State) : Out := .next (s.groupHalted g)
def execTrapServiceTimeout (g : Nat) (s : State) : Out := .next (s.serviceTimeout g)
def execTrapResume (g : Nat) (s : State) : Out := .next (s.resume g)
def execTrapTerminateGroup (g : Nat) (s : State) : Out := .next (s.terminateGroup g)
def execTrapTerminateKernel (g : Nat) (s : State) : Out := .next (s.terminateKernel g)
def execGroupEvict (g : Nat) (s : State) : Out := .next (s.evictGroup g)
def execGroupRecall (g : Nat) (s : State) : Out := .next (s.recallGroup g)
def execGroupRetire (g : Nat) (s : State) : Out := .next (s.retireGroup g)
def execKernelDrainDone (k : Nat) (s : State) : Out := .next (s.drainDone k)
def execThreadSlotFree (r : TRef) (s : State) : Out := .next (s.slotFree (s.keyOf r))
def execKernelCancel (k : Nat) (s : State) : Out := .next (s.cancelKernel k false)
def execKernelCancelDone (k : Nat) (s : State) : Out := .next (s.cancelDone k)

end Sys2Proof.Machine
end

