-- ==== Sys2Proof/Machine/Frames.lean ====
section
/-! DEFINITION. Broadcast invalidation (R135, R136) and the frames of physical memory with their transitions (R137–R141). -/

namespace Sys2Proof.Machine

/-- Bytes of a frame, and the frames of the module (R137). -/
def frameBytes : Nat := 0x200000
def frameCount : Nat := 393216

/-- Where a page of a binding that has lost its frame stands: no memory is there. -/
def noFrame : Nat := 2 ^ 60

/-- The frames that a binding pins: those of its regions, but for the C of an adaptation, evicted or not (R143, R161). -/
def pinFrames (b : Binding) : List Nat :=
  ((b.watch.filter (fun w => w.pa < noFrame && !(b.adapt && (w.region == 2 || w.region == 5)))).map (fun w => w.pa / frameBytes)).eraseDups

/-- n bytes from a physical address leave a binding: its pages there have no frame any more, and the journal entries there are lost
(R138, R159). -/
def Binding.loseBytes (b : Binding) (pa n : Nat) : Binding :=
  let lost (e : Capture) : Capture :=
    match e.entry with
    | some (false, a) => if pa < a + 8 ∧ a < pa + n then { e with bad := true } else e
    | _ => e
  { b with watch := b.watch.map (fun w => if w.region ≤ 4 ∧ pa ≤ w.pa ∧ w.pa < pa + n then { w with pa := noFrame + w.va } else w),
           caps := b.caps.mapCells (fun _ c => c.map lost), old := b.old.mapCells (fun _ c => c.map lost) }

/-- n bytes move to another physical address. -/
def Binding.moveBytes (b : Binding) (pa n to_ : Nat) : Binding :=
  { b with watch := b.watch.map (fun w => if w.region ≤ 4 ∧ pa ≤ w.pa ∧ w.pa < pa + n then { w with pa := to_ + (w.pa - pa) } else w) }

/-- n bytes from a virtual address are mapped to a physical one. -/
def Binding.mapBytes (b : Binding) (va n pa : Nat) : Binding :=
  { b with watch := b.watch.map (fun w => if w.region ≤ 4 ∧ va ≤ w.va ∧ w.va < va + n then { w with pa := pa + (w.va - va) } else w) }

/-- A TLB entry that a broadcast names: by process and by address, each or both left open (R135). -/
def TlbEntry.named (e : TlbEntry) (asid : Option (BitVec 16)) (va : Option DWord) : Bool :=
  (match asid with | none => true | some a => e.asid == a) &&
  (match va with | none => true | some v => v.toNat / e.size * e.size == e.va)

namespace State

/-- The parts of an access that a broadcast touches: in the partition, of the process, in the address's 1 GiB where one is
named; a wider net only makes a part translate again. -/
def touched (s : State) (part : Nat) (asid : Option (BitVec 16)) (va : Option DWord) (a : Access) (p : Piece) : Bool :=
  s.partOf (coreDie a.core) == part && p.place == .virt && p.pa.isSome &&
  (match asid with | none => true | some x => a.asid == x) &&
  (match va with | none => true | some v => v.toNat / 2 ^ 30 == p.va.toNat / 2 ^ 30)

/-- The parts of an access that have left with their translation. -/
def leftWith (p : Piece) : Bool := match p.st with | .sent _ => true | _ => false

/-- A broadcast (R135, R136): the entries of the core TLBs, die TLBs and tile walkers are dropped, what has not left its store queue
or load pipe is squashed and translates again, walks in progress start again, and what has left is waited for. -/
def broadcast (s : State) (part : Nat) (asid : Option (BitVec 16)) (va : Option DWord) : State :=
  let waiting := s.accs.cells.filterMap (fun e => match e.2 with
    | some a => if a.pieces.any (fun p => leftWith p && s.touched part asid va a p) then some e.1 else none
    | none => none)
  let hit (a : Access) (p : Piece) : Bool := p.st == .queued && s.touched part asid va a p
  let walking (a : Access) : Bool := s.partOf (coreDie a.core) == part && a.pieces.any (fun p => p.st == .walk)
  let squash (a : Access) : Access :=
    if a.pieces.any (hit a) || walking a then
      { a with pieces := a.pieces.map (fun p => if hit a p then { p with st := .walk, pa := none } else p), walkAt := none }
    else a
  { s with
    cores := s.cores.mapCells (fun k c => if s.partOf (coreDie k) = part then
      { c with tlb := c.tlb.filter (fun e => !e.named asid va) } else c)
    walkers := s.walkers.mapCells (fun k l => if s.partOf (k / 7) = part then l.filter (fun e => !e.named asid va) else l)
    dies := s.dies.mapCells (fun k d => if s.partOf k = part then { d with tlb := d.tlb.filter (fun e => !e.named asid va) } else d)
    accs := s.accs.mapCells (fun _ o => o.map squash)
    shoots := s.shoots.set s.nextId (some { part := part, asid := asid, va := va, warned := false, waiting := waiting, due := s.now })
    nextId := s.nextId + 1 }

/-- SFENCE_VMA (R135): the partition stands in the Ringmaster's control state. -/
def sfence (s : State) (part : Nat) (asid : Option (BitVec 16)) (va : Option DWord) : State :=
  { s with rm := { s.rm with fencePart := part } }.broadcast part asid va

/-- A hart of a running pair of the Ringmaster waits for no broadcast. -/
def hartFree (s : State) : Bool :=
  let busy := (s.shoots.cells.filterMap (fun e => e.2.map (·.hart))).eraseDups.filter (· != 0)
  busy.length < max 1 ((List.range 4).filter (fun i => s.rm.pairs.getLsbD i)).length

/-- A step of a hart of the Ringmaster: the broadcasts that it starts hold the hart until they are acknowledged (R135), so that it waits
while no hart is free. -/
def byHart (s : State) (k : State → State) : State :=
  let t := k s
  let new := t.shoots.keys.filter (fun n => s.nextId ≤ n)
  if new.isEmpty then t
  else if !s.hartFree then s
  else { t with shoots := new.foldl (fun l n => l.modify n (fun o => o.map (fun b => { b with hart := s.nextId }))) t.shoots }

/-- A broadcast in every partition. -/
def broadcastAll (s : State) (asid : Option (BitVec 16)) (va : Option DWord) : State :=
  (List.range 4).foldl (fun s p => if (s.diesOf p).isEmpty then s else s.broadcast p asid va) s

/-- Every access that a broadcast waits for has been performed (R136). -/
def acknowledged (s : State) (b : Shoot) : Bool :=
  b.waiting.all (fun id => match s.accs.get id with | some a => !a.pieces.any leftWith | none => true)

/-- SHOOTDOWN_ACK. -/
def shootAck (s : State) (idx : Nat) : State :=
  match s.shoots.get idx with
  | some b => if s.acknowledged b then { s with shoots := s.shoots.set idx none } else s
  | none => s

/-- The record of a broadcast that is not acknowledged: the unit that has not is the die of the first access waited for that has
not been performed. -/
def shootRecord (s : State) (b : Shoot) (sev action : Nat) : State :=
  let left := b.waiting.findSome? (fun id => match s.accs.get id with
    | some a => if a.pieces.any leftWith then some a else none
    | none => none)
  let die := match left with | some a => coreDie a.core | none => 0
  s.log { code := 0x0204, sev := sev, action := action, eclass := 8, part := b.part, einst := die }

/-- SHOOTDOWN_TIMEOUT_WARN: 8 µs have passed. -/
def shootWarn (s : State) (idx : Nat) : State :=
  match s.shoots.get idx with
  | some b =>
    if s.acknowledged b ∨ b.warned ∨ s.now < b.due + 8000 then s
    else (s.shootRecord b 1 1) |> fun s => { s with shoots := s.shoots.set idx (some { b with warned := true }) }
  | none => s

/-! Frames. -/

def tenant (s : State) (t : Nat) : Tenant := s.tenants.get t
def modTenant (s : State) (t : Nat) (g : Tenant → Tenant) : State := { s with tenants := s.tenants.modify t g }

/-- The first word of a frame, and the words of it that are registered. -/
def frameWord (f : Nat) : Nat := f * (frameBytes / 4)
def inFrame (f w : Nat) : Bool := w / (frameBytes / 4) == f

/-- The frames that share the state of a frame: their number, the first byte and the bytes of all of them, and a word of them
(R137). -/
def spanCount (s : State) (f : Nat) : Nat := (s.frame f).count
def spanBase (s : State) (f : Nat) : Nat := s.firstFrame f * frameBytes
def spanLen (s : State) (f : Nat) : Nat := s.spanCount f * frameBytes
def inSpan (s : State) (f w : Nat) : Bool :=
  s.firstFrame f ≤ w / (frameBytes / 4) && w / (frameBytes / 4) < s.firstFrame f + s.spanCount f

/-- Registered words of a frame are forwarded to their homes. -/
def forwardFrame (s : State) (f : Nat) : State :=
  (s.owner.keys.filter (s.inSpan f)).foldl (fun s w => s.forward w) s

/-- The frame holds a poisoned line (R138). -/
def framePoisoned (s : State) (f : Nat) : Bool := s.poison.cells.any (fun e => e.2 && s.inSpan f e.1)

/-- Bytes of a memory from a range, moved by a distance into another. -/
def moveBytes (src dst : Memory) (a b n : Nat) : Memory :=
  let clear := dst.drop (fun k _ => b ≤ k && k < b + n)
  (src.cells.filter (fun e => a ≤ e.1 && e.1 < a + n)).foldl (fun m e => m.set (b + (e.1 - a)) e.2) clear

/-- Where a process's page lies in backing store. -/
def backKey (x : Frame) : Nat := x.asid.toNat * 2 ^ 64 + x.va.toNat

/-- A frame is written out (R139). -/
def writeOut (s : State) (f : Nat) : State :=
  let s1 := s.forwardFrame f
  { s1 with backing := moveBytes s1.mem s1.backing (s.spanBase f) (backKey (s.frame f)) (s.spanLen f) }

/-- A leaf's eight bytes. -/
def leafVal (s : State) (a : Nat) : Nat := leNat (s.homeLoad a 8)
def putLeaf (s : State) (a v : Nat) : State := s.homeStore a (leBytes 8 v)

/-- Bits of every leaf of a frame changed by the Ringmaster. -/
def mapLeaves (s : State) (f : Nat) (g : Nat → Nat) : State :=
  (s.frame f).leaves.foldl (fun s a => s.putLeaf a (g (s.leafVal a))) s

/-- The leaves of a frame are invalidated, with a broadcast for its process. -/
def unmapLeaves (s : State) (f : Nat) : State :=
  (s.mapLeaves f (fun v => v / 2 * 2)).broadcastAll (some (s.frame f).asid) none

/-- The bindings of every partition change. -/
def eachBinding (s : State) (f : Binding → Binding) : State :=
  { s with parts := s.parts.mapCells (fun _ q => { q with bindings := q.bindings.mapCells (fun _ b => if b.state = .free then b else f b) }) }

/-- A frame leaves its process: to SCRUBBING, or to POISONED when a line of it is poisoned; the tenant's USED counts down
(R138). -/
def releaseFrame (s : State) (f : Nat) : State :=
  let x := s.frame f
  let s1 := s.unmapLeaves f
  let st := if s.framePoisoned f then FState.poisoned else .scrubbing
  let s2 := (s1.modFrame f (fun x => { state := st, asid := x.asid, count := x.count })).modTenant x.tenant (fun t => { t with used := t.used - x.count })
  s2.eachBinding (fun b => b.loseBytes (s.spanBase f) (s.spanLen f))

/-- The page of a frame holds some of the C of an adaptation. -/
def adaptC (s : State) (f : Nat) (which : Binding → Bool) : Bool :=
  s.parts.cells.any (fun p => p.2.bindings.cells.any (fun b =>
    b.2.state != .free && b.2.adapt && which b.2 && b.2.watch.any (fun w => w.region == 2 && s.firstFrame (w.pa / frameBytes) == s.firstFrame f)))

/-- MAPPED or BACKED, and no part of a migration; a C that is being brought back is not yet mapped (R162). -/
def movable (s : State) (f : Nat) : Bool :=
  let x := s.frame f
  (x.state == .mapped || x.state == .backed) && !x.filling && !s.adaptC f (·.back)

/-- A frame that may be evicted: the C of an adaptation leaves only as R162 says. -/
def mayEvict (s : State) (f : Nat) : Bool := s.movable f && !s.adaptC f (fun _ => true)

/-- Of two frames, the first is evicted before the second (R139). -/
def older_ (s : State) (f g : Nat) : Bool :=
  let x := s.frame f
  let y := s.frame g
  y.age < x.age || (x.age == y.age &&
    ((x.state == .backed && y.state != .backed) || ((x.state == .backed) == (y.state == .backed) && f ≤ g)))

/-- Frames present: those of the dies that have not failed. -/
def framesPresent (s : State) : Nat := 98304 * ((List.range 4).filter (fun d => !(s.die d).failed)).length

/-- No frame present is FREE. -/
def noneFree (s : State) : Bool :=
  s.framesPresent ≤ (s.frames.cells.filter (fun e => e.2.state != .free && !(s.die (e.1 * frameBytes / 0x3000000000)).failed)).length

/-- The frame is the victim that R139 names for some requester: its own tenant at or above BURST, or a tenant below its BURST when
no frame is FREE. -/
def victim (s : State) (f : Nat) : Bool :=
  let t := (s.frame f).tenant
  let oldest (p : Nat → Bool) : Bool :=
    (s.frames.keys.filter (fun g => s.firstFrame g == g && s.mayEvict g && p (s.frame g).tenant)).all (s.older_ f)
  let beyond (t : Nat) : Bool := (s.tenant t).guar < (s.tenant t).used
  s.firstFrame f == f && s.mayEvict f && (((s.tenant t).burst ≤ (s.tenant t).used && oldest (· == t)) ||
    (s.noneFree && (List.range 64).any (fun u => (s.tenant u).used < (s.tenant u).burst) && beyond t && oldest beyond))

/-- The frames of a page, all FREE and present, aligned to their number; the stacks of a failed die are absent (R224). -/
def freeSpan (s : State) (f n : Nat) : Bool :=
  f % n == 0 && f + n ≤ frameCount && (List.range n).all (fun i =>
    (s.frames.get (f + i)).state == .free && !(s.die ((f + i) * frameBytes / 0x3000000000)).failed)

/-- A page's frames take its state: the first frame holds the record, and the others name it (R137). -/
def giveSpan (s : State) (f : Nat) (x : Frame) : State :=
  (List.range (x.count - 1)).foldl (fun s i => { s with frames := s.frames.set (f + 1 + i) { x with head := some f } })
    { s with frames := s.frames.set f x }

/-- A binding or the Ringmaster pins a frame, and unpins it (R138). -/
def pinOne (s : State) (f : Nat) : State :=
  s.modFrame f (fun x => match x.state with
    | .mapped | .backed | .pinned => { x with state := .pinned, pins := x.pins + 1 }
    | _ => x)

def unpinOne (s : State) (f : Nat) : State :=
  s.modFrame f (fun x => if x.state = .pinned then
    { x with pins := x.pins - 1, state := if x.pins ≤ 1 ∧ !x.rm then .mapped else .pinned } else x)

def rmPin (s : State) (f : Nat) : State :=
  s.modFrame f (fun x => match x.state with
    | .mapped | .backed | .pinned => if x.filling then x else { x with state := .pinned, rm := true }
    | _ => x)

def rmUnpin (s : State) (f : Nat) : State :=
  s.modFrame f (fun x => if x.state = .pinned ∧ x.rm ∧ !s.inPool x.tenant x.va.toNat x.count then
    { x with rm := false, state := if x.pins = 0 then .mapped else .pinned } else x)

/-- A mapped page of a key-value pool is PINNED (R165). -/
def poolPin (s : State) (f : Nat) : State :=
  let x := s.frame f
  if s.inPool x.tenant x.va.toNat x.count then s.rmPin f else s

/-- A page has got frames: the bindings of its process that have a region in it watch there, and pin it (R143, R144). -/
def rebind (s : State) (asid : BitVec 16) (va n pa : Nat) : State :=
  let mine (b : Binding) : Bool := b.asid == asid
  let pins := s.parts.cells.flatMap (fun p => p.2.bindings.cells.flatMap (fun b =>
    if b.2.state != .free && mine b.2 then
      (pinFrames (b.2.mapBytes va n pa)).filter (fun f => pa ≤ f * frameBytes && f * frameBytes < pa + n)
    else []))
  pins.foldl (fun s f => s.pinOne f) (s.eachBinding (fun b => if mine b then b.mapBytes va n pa else b))

/-- FREE frames are granted to a tenant for one leaf of a level (R138, R139): the leaf is written, and what backing store holds of
the page is read back; a frame of a key-value pool is PINNED (R165), and so is one that a binding's region needs (R143).  perms is X, W, R from the high bit. -/
def grantFrames (s : State) (n t f : Nat) (asid : BitVec 16) (va : DWord) (leaf : Nat) (perms : BitVec 3) : State :=
  let x : Frame := { state := .mapped, tenant := t, asid := asid, va := va, leaves := [leaf], count := n }
  let tn := s.tenant t
  if 64 ≤ t ∨ !s.freeSpan f n ∨ tn.burst < tn.used + n ∨ !canonical va ∨ va.toNat % (n * frameBytes) ≠ 0 ∨
      leaf % 8 ≠ 0 ∨ memTop ≤ leaf ∨ perms = 0 ∨ (perms.getLsbD 1 ∧ !perms.getLsbD 0) then s
  else
    let s1 := { s with mem := moveBytes s.backing s.mem (backKey x) (f * frameBytes) (n * frameBytes),
                       backing := s.backing.drop (fun k _ => backKey x ≤ k && k < backKey x + n * frameBytes) }
    let s2 := s1.putLeaf leaf (f * frameBytes / 4096 * 1024 + 16 + perms.toNat * 2 + 1)
    let s3 := (s2.giveSpan f x).modTenant t (fun t => { t with used := t.used + n })
    (s3.poolPin f).rebind asid va.toNat (n * frameBytes) (f * frameBytes)

/-- FRAME_ALLOCATE (R138, R139): one frame, for a 2 MiB leaf. -/
def allocateFrame (s : State) (t f : Nat) (asid : BitVec 16) (va : DWord) (leaf : Nat) (perms : BitVec 3) : State :=
  s.grantFrames 1 t f asid va leaf perms

/-- The Ringmaster writes a page-table entry at its home (R132).  A leaf of 4 KiB in a frame that a tenant has been granted is one of
the frame's leaves from then on, and one that it replaces is none any more (R137). -/
def writeEntry (s : State) (a : Nat) (v : DWord) : State :=
  if a % 8 ≠ 0 ∨ memTop ≤ a then s
  else
    let old := s.leafVal a
    let leaf (x : Nat) : Bool := cut x 0 1 == 1 && cut x 1 3 != 0
    let frameOf (x : Nat) : Nat := cut x 10 44 * 4096 / frameBytes
    let s1 := if leaf old then s.modFrame (frameOf old) (fun x => { x with leaves := x.leaves.filter (· != a) }) else s
    let s2 := s1.putLeaf a v.toNat
    if leaf v.toNat ∧ (s2.frame (frameOf v.toNat)).state ≠ .free then
      s2.modFrame (frameOf v.toNat) (fun x => { x with leaves := if x.leaves.contains a then x.leaves else x.leaves ++ [a] })
    else s2

/-- The Ringmaster writes a root (R132). -/
def writeRoot (s : State) (asid : BitVec 16) (table : Option Nat) : State :=
  match table with
  | none => { s with roots := s.roots.set asid.toNat 0 }
  | some a => if a % 4096 ≠ 0 ∨ memTop ≤ a then s else { s with roots := s.roots.set asid.toNat (a + 1) }

/-- FRAME_EVICT (R139). -/
def evictFrame (s : State) (f : Nat) : State :=
  if !s.victim f then s
  else (if (s.frame f).state = .backed then s.forwardFrame f else s.writeOut f).releaseFrame f

/-- FRAME_UNMAP (R138): at a process's request, a MAPPED or BACKED frame, and in any mapped state one with a poisoned line; what
backing store holds goes too, and so does a migration with its destination. -/
def unmapFrame (s : State) (f : Nat) : State :=
  let x := s.frame f
  let plain := (x.state == .mapped || x.state == .backed) && !x.filling
  let bad := (x.state == .pinned || x.state == .migrating) && s.framePoisoned f
  if !plain ∧ !bad then s
  else
    let s0 := match x.dest with
      | some d => (s.modFrame d (fun y => { state := .scrubbing, asid := y.asid, count := y.count })).modTenant x.tenant (fun t =>
          { t with used := t.used - x.count })
      | none => s
    let s1 := (s0.forwardFrame f).releaseFrame f
    { s1 with backing := s1.backing.drop (fun k _ => backKey x ≤ k && k < backKey x + s.spanLen f) }

/-- AGE_SWEEP (R139): A is cleared where it is set, and age counts the sweeps since. -/
def sweep (s : State) : State :=
  (s.frames.keys.filter (fun f => s.firstFrame f == f)).foldl (fun s f =>
    let x := s.frame f
    let used := x.leaves.any (fun a => cut (s.leafVal a) 6 1 == 1)
    let s1 := s.mapLeaves f (fun v => if cut v 6 1 = 1 then v - 64 else v)
    s1.modFrame f (fun x => { x with age := if used then 0 else x.age + 1 })) s

/-- No broadcast is unacknowledged. -/
def quiet (s : State) : Bool := s.shoots.cells.all (fun e => e.2.isNone)

/-- FRAME_WRITEBACK_DONE (R138): D is cleared in the leaves, with a broadcast; once that is acknowledged and no store has set D
again, the contents go to backing store and the frame is BACKED. -/
def writebackDone (s : State) (f : Nat) : State :=
  let x := s.frame f
  if x.state ≠ .mapped ∨ x.filling then s
  else if !x.cleared then
    let s1 := s.mapLeaves f (fun v => if cut v 7 1 = 1 then v - 128 else v)
    (s1.modFrame f (fun x => { x with cleared := true })).broadcastAll (some x.asid) none
  else if !s.quiet then s
  else if x.leaves.any (fun a => cut (s.leafVal a) 7 1 == 1) then s.modFrame f (fun x => { x with cleared := false })
  else (s.writeOut f).modFrame f (fun x => { x with state := .backed, cleared := false })

/-- MIGRATION_START (R140): W is withheld, with a broadcast; the destination is charged to the same tenant, whatever its BURST (DESIGN
CHOICE, log 55). -/
def migrate (s : State) (src dst : Nat) : State :=
  let x := s.frame src
  if !s.movable src ∨ s.firstFrame src ≠ src ∨ !s.freeSpan dst x.count then s
  else
    let ws := x.leaves.map (fun a => cut (s.leafVal a) 2 1 == 1)
    let s1 := s.mapLeaves src (fun v => if cut v 2 1 = 1 then v - 4 else v)
    let s2 := s1.modFrame src (fun x => { x with state := .migrating, dest := some dst, withheld := ws })
    let s3 := s2.giveSpan dst { state := .mapped, tenant := x.tenant, asid := x.asid, va := x.va, filling := true, count := x.count }
    (s3.modTenant x.tenant (fun t => { t with used := t.used + x.count })).broadcastAll (some x.asid) none

/-- W is restored in the leaves, which point at a frame, a leaf of 4 KiB at the page in it that it named. -/
def restoreLeaves (s : State) (x : Frame) (f : Nat) : State :=
  (x.leaves.zip x.withheld).foldl (fun s e =>
    let v := s.leafVal e.1
    let small := cut v 10 9 * 1024
    s.putLeaf e.1 (v % 1024 + (if e.2 && cut v 2 1 == 0 then 4 else 0) + small + f * (frameBytes / 4096) * 1024)) s

/-- MIGRATION_COPY_DONE (R140): the copy, made at .sys, begins once the broadcast is acknowledged. -/
def copyDone (s : State) (src : Nat) : State :=
  let x := s.frame src
  match x.dest with
  | none => s
  | some dst =>
    if x.state ≠ .migrating ∨ !s.quiet ∨ s.framePoisoned src then s
    else
      let s1 := s.forwardFrame src
      let s2 := { s1 with mem := moveBytes s1.mem s1.mem (src * frameBytes) (dst * frameBytes) (s.spanLen src) }
      let s3 := s2.restoreLeaves x dst
      let s4 := s3.modFrame dst (fun y => { y with filling := false, leaves := x.leaves, age := x.age })
      let s5 := s4.modFrame src (fun x => { state := .scrubbing, asid := x.asid, count := x.count })
      let s6 := (s5.modTenant x.tenant (fun t => { t with used := t.used - x.count })).eachBinding (fun b =>
        b.moveBytes (src * frameBytes) (s.spanLen src) (dst * frameBytes))
      (s6.poolPin dst).broadcastAll (some x.asid) none

/-- MIGRATION_ABANDON (R140): the copy faulted, or it read an uncorrectable error of the source. -/
def abandon (s : State) (src : Nat) (ue : Bool) : State :=
  let x := s.frame src
  match x.dest with
  | none => s
  | some dst =>
    if x.state ≠ .migrating ∨ (ue ∧ !s.framePoisoned src) then s
    else
      let s1 := s.restoreLeaves x src
      let s2 := s1.modFrame src (fun y => { y with state := .mapped, dest := none, withheld := [] })
      let s3 := (s2.modFrame dst (fun y => { state := .scrubbing, asid := y.asid, count := y.count })).modTenant x.tenant
        (fun t => { t with used := t.used - x.count })
      let die := src * frameBytes / 0x3000000000
      let e : ErrRec := { code := if ue then 0x0205 else 0x0206, sev := if ue then 2 else 0, action := if ue then 4 else 1,
                          eclass := 3, part := s.partOf die, einst := die * 7, pa := some (src * frameBytes) }
      ((s3.poolPin src).log e).broadcastAll (some x.asid) none

/-- SCRUB_DONE (R141): the frame is zero-filled, and every line of it is invalidated in every cache, with its registrations; then a
broadcast follows, and once that is acknowledged the frame is FREE.  The scrub starts when the broadcasts that took the frame out
of use are acknowledged. -/
def scrubbed (s : State) (f : Nat) : State :=
  let x := s.frame f
  if x.state ≠ .scrubbing ∨ !s.quiet then s
  else if x.cleared then
    { s with frames := s.frames.drop (fun k _ => s.firstFrame f ≤ k && k < s.firstFrame f + x.count) }
  else
    let flush (d : Die) : Die :=
      let out : List L2Line := d.l2.cells.flatMap (fun e => e.2.filter (fun y => s.inSpan f (y.line * 32)))
      out.foldl (fun d y => charge d y.tenant false)
        { d with l2 := d.l2.mapCells (fun _ ls => ls.filter (fun y => !s.inSpan f (y.line * 32))) }
    let s1 := { s with
      mem := s.mem.drop (fun k _ => s.inSpan f (k / 4))
      owner := s.owner.drop (fun w _ => s.inSpan f w)
      poison := s.poison.drop (fun w _ => s.inSpan f w)
      l1 := s.l1.drop (fun k _ => s.inSpan f (k % 2 ^ 38))
      dies := s.dies.mapCells (fun _ d => flush d) }
    (s1.modFrame f (fun x => { x with cleared := true })).broadcastAll (some x.asid) none

/-- SCRUB_FAIL (R141). -/
def scrubFailed (s : State) (f : Nat) : State :=
  if (s.frame f).state ≠ .scrubbing then s
  else
    let die := f * frameBytes / 0x3000000000
    (s.modFrame f (fun x => { state := .poisoned, asid := x.asid, count := x.count })).log
      { code := 0x0207, sev := 1, action := 1, eclass := 3, part := s.partOf die, einst := die * 7, pa := some (f * frameBytes) }

/-- A record of power and thermal: a die, or 4 for the hub die (R214). -/
def powerRecord (s : State) (die code sev action detail : Nat) : State :=
  s.log { code := code, sev := sev, action := action, eclass := 15, part := if die < 4 then s.partOf die else 0xFF, einst := die,
          detail := detail }

/-- A bank of a die's stacks has used a spare row: the last one brings WEAR_WARN (R225). -/
def bankUsed (s : State) (die left : Nat) : State :=
  if left = 0 then s.powerRecord die 0x0704 0 7 (s.die die).wear.toNat else s

/-- ROW_SPARE_REPAIR (R138, R219): every poisoned line is repaired; left is the number of spare rows left. -/
def rowSpared (s : State) (f left : Nat) : State :=
  if (s.frame f).state ≠ .poisoned then s
  else
    let s1 := { s with poison := s.poison.drop (fun w _ => s.inSpan f w) }
    ((s1.modFrame f (fun x => { state := .scrubbing, asid := x.asid, count := x.count })).log
      { code := 0x0104, sev := 1, action := 1, eclass := 10, part := s.partOf (f * frameBytes / 0x3000000000),
        einst := f * frameBytes / 0x1000000000, pa := some (f * frameBytes), detail := left }).bankUsed (f * frameBytes / 0x3000000000) left

/-- TEN_FR_WRITE (R139). -/
def writeTenFr (s : State) (t : Nat) (v : DWord) : State :=
  let guar := cut v.toNat 0 20
  let burst := cut v.toNat 20 20
  let others := ((List.range 64).filter (· != t)).foldl (fun n u => n + (s.tenant u).guar) 0
  if 64 ≤ t ∨ burst < guar ∨ s.framesPresent < others + guar then s
  else s.modTenant t (fun x => { x with guar := guar, burst := burst })

end State

def execSfenceVma (part : Nat) (asid : Option (BitVec 16)) (va : Option DWord) (s : State) : Out :=
  .next (s.byHart (fun s => s.sfence part asid va))
def execShootdownAck (idx : Nat) (s : State) : Out := .next (s.shootAck idx)
def execShootdownTimeoutWarn (idx : Nat) (s : State) : Out := .next (s.shootWarn idx)
def execFrameAllocate (tenant frame : Nat) (asid : BitVec 16) (va : DWord) (leaf : Nat) (perms : BitVec 3) (s : State) : Out :=
  .next (s.allocateFrame tenant frame asid va leaf perms)
def execFrameEvict (frame : Nat) (s : State) : Out := .next (s.byHart (fun s => s.evictFrame frame))
def execFrameUnmap (frame : Nat) (s : State) : Out := .next (s.byHart (fun s => s.unmapFrame frame))
def execAgeSweep (s : State) : Out := .next s.sweep
def execFrameWritebackDone (frame : Nat) (s : State) : Out :=
  .next (s.inject (frame * frameBytes / 0x3000000000) 6 62 (2 ^ 64 + frame) (fun t => t.frame frame != s.frame frame) (fun s => s.byHart (fun s => s.writebackDone frame)))
def execFramePin (frame : Nat) (s : State) : Out := .next (s.rmPin frame)
def execFrameUnpin (frame : Nat) (s : State) : Out := .next (s.rmUnpin frame)
def execMigrationStart (src dst : Nat) (s : State) : Out := .next (s.byHart (fun s => s.migrate src dst))
def execMigrationCopyDone (src : Nat) (s : State) : Out :=
  .next (s.inject (src * frameBytes / 0x3000000000) 6 62 (2 ^ 64 + src) (fun t => t.frame src != s.frame src) (fun s => s.byHart (fun s => s.copyDone src)))
def execMigrationAbandon (src : Nat) (ue : Bool) (s : State) : Out := .next (s.byHart (fun s => s.abandon src ue))
def execScrubDone (frame : Nat) (s : State) : Out := 
  .next (s.inject (frame * frameBytes / 0x3000000000) 5 63 (2 ^ 64 + frame) (fun t => t.frame frame != s.frame frame)
    (fun s => s.byHart (fun s => s.scrubbed frame)))
def execScrubFail (frame : Nat) (s : State) : Out := .next (s.scrubFailed frame)
def execRowSpareRepair (frame left : Nat) (s : State) : Out := .next (s.rowSpared frame left)
def execTenFrWrite (tenant : Nat) (v : DWord) (s : State) : Out := .next (s.writeTenFr tenant v)

end Sys2Proof.Machine
end

