-- ==== Sys2Proof/Machine/Elements.lean ====
section
/-! DEFINITION. Elements of every format tag (R227–R233): their exact values with the block scale applied, the arithmetic
of the float formats other than F32, and the conversions to narrow and block formats (R238–R240). -/

namespace Sys2Proof.Machine

/-- The float format of a tag's elements; none for integers and mantissas. -/
def tagFmt (t : Nat) : Option Fmt :=
  if t = 1 then some f32
  else if t = 2 then some f16
  else if t = 3 then some bf16
  else if t = 4 ∨ t = 8 then some e4m3
  else if t = 5 ∨ t = 9 then some e5m2
  else if t = 6 ∨ t = 7 then some e2m1
  else none

/-- A field of w bits in two's complement (R229, R230). -/
def signedField (w x : Nat) : Int := if x / 2 ^ (w - 1) % 2 = 1 then ((x % 2 ^ w : Nat) : Int) - ((2 ^ w : Nat) : Int) else ((x % 2 ^ w : Nat) : Int)

/-- v × 2^k. -/
def Val.shift (k : Int) : Val → Val
  | .fin n m e => .fin n m (e + k)
  | v => v

/-- exact(x) of an element's bits, with the scale or exponent byte of its block (R227–R230). -/
def elemExact (t bits scale : Nat) : Val :=
  let w := State.tagWidth t
  let v : Val := match tagFmt t with
    | some f => f.decode (bits % 2 ^ w)
    | none => ofSigned (signedField w bits) 0
  if !State.blockTag t then v
  else if scale = 255 then .nan false
  else v.shift ((scale : Int) - 127 - (if 0x10 ≤ t then (w : Int) - 1 else 0))

/-- Element e of a w register: its bits, its block's scale byte and its exact value (R233). -/
def regBits (r : WReg) (e : Nat) : Nat := let w := State.tagWidth r.tag.toNat; r.data.toNat / 2 ^ (w * e) % 2 ^ w
def regScale (r : WReg) (e : Nat) : Nat := if e < 32 then r.s0.toNat else r.s1.toNat
def regVal (r : WReg) (e : Nat) : Val := elemExact r.tag.toNat (regBits r e) (regScale r e)

/-- The number of elements of a w register. -/
def regElems (r : WReg) : Nat := State.tagElems r.tag.toNat

/-- The format uses scale byte s0, or s1 (R232). -/
def usesS0 (t : Nat) : Bool := State.blockTag t
def usesS1 (t : Nat) : Bool := State.blockTag t && State.twoBlocks t

/-- A register in its tag: unused data bits and scale bytes are zero (R233). -/
def WReg.clean (r : WReg) : WReg :=
  let t := r.tag.toNat
  { data := BitVec.ofNat 256 (r.data.toNat % 2 ^ (State.tagElems t * State.tagWidth t)),
    s0 := if usesS0 t then r.s0 else 0, s1 := if usesS1 t then r.s1 else 0, tag := r.tag }

/-- A number from n fields of w bits, lowest first. -/
def packFields (w : Nat) : List Nat → Nat
  | [] => 0
  | x :: r => x % 2 ^ w + 2 ^ w * packFields w r

/-- A register of an unscaled tag from its elements. -/
def regOf (t : Nat) (es : List Nat) : WReg :=
  { data := BitVec.ofNat 256 (packFields (State.tagWidth t) es), s0 := 0, s1 := 0, tag := BitVec.ofNat 6 t }

/-! Arithmetic in a float format (R236, R237). -/

def fmtDone (f : Fmt) (mode : RMode) (ops : List Val) (r : Val) : Res :=
  let c := f.deliver mode r
  (c.1, c.2 ||| invFlag ops r)

def fmtAdd (f : Fmt) (mode : RMode) (x y : Nat) : Res :=
  let a := f.decode x; let b := f.decode y
  fmtDone f mode [a, b] (a.add mode b)

def fmtSub (f : Fmt) (mode : RMode) (x y : Nat) : Res :=
  let a := f.decode x; let b := f.decode y
  fmtDone f mode [a, b] (a.add mode b.neg)

def fmtMul (f : Fmt) (mode : RMode) (x y : Nat) : Res :=
  let a := f.decode x; let b := f.decode y
  fmtDone f mode [a, b] (a.mul b)

/-- A product of operands that are no NaN and yet has none: 0 times infinity. -/
def badProduct (a b : Val) : Bool := (a.mul b).isNan && !a.isNan && !b.isNan

def fmtFma (f : Fmt) (mode : RMode) (x y z : Nat) : Res :=
  let a := f.decode x; let b := f.decode y; let c := f.decode z
  let r := fmtDone f mode [a, b, c] ((a.mul b).add mode c)
  (r.1, if badProduct a b then r.2 ||| fINV else r.2)

def fmtMinMax (f : Fmt) (max : Bool) (x y : Nat) : Res :=
  let a := f.decode x; let b := f.decode y
  let inv := if a.isSnan || b.isSnan then fINV else 0
  if a.isNan || b.isNan then (f.nan, inv)
  else
    let xFirst := a.lt b || (a.eq b && a.isNeg && !b.isNeg)
    ((if xFirst != max then x else y), inv)

/-! Conversions of an F32 value (R238–R240). -/

/-- Bits of a two's-complement result. -/
def intBits (w : Nat) (r : Int × BitVec 5) : Res := ((BitVec.ofInt w r.1).toNat, r.2)

/-- Rounding to an integer, by mode or by random bits. -/
def rndInt (mode : RMode) (sr : Option Nat) : Bool → Nat → Int → Int × Bool :=
  match sr with
  | none => roundInt mode
  | some u => roundIntSr u

/-- An F32 value into an unscaled tag (R238): F16 and BF16 and I32 round in the mode given, the narrow formats RNE, all
stochastically with random bits. -/
def toTag (t : Nat) (mode : RMode) (sr : Option Nat) (sat : Bool) (v : Val) : Res :=
  if t = 0x0C then intBits 32 (toIntRange (-0x80000000) 0x7FFFFFFF fINV (rndInt mode sr) v)
  else if t = 0x0A then intBits 8 (toIntRange (-128) 127 (fOVF ||| fINX) (rndInt .rne sr) v)
  else if t = 0x0B then intBits 4 (toIntRange (-8) 7 (fOVF ||| fINX) (rndInt .rne sr) v)
  else match tagFmt t with
    | some f => convert f (if t ≤ 3 then mode else .rne) sr sat v
    | none => (0, 0)

/-- The largest floor(log2 |x|) of the non-zero elements. -/
def blockLog (vs : List Val) : Option Int :=
  vs.foldl (fun (m : Option Int) v => if v.isZero then m else match m with | none => some v.log2 | some k => some (max k v.log2)) none

def isInf : Val → Bool
  | .inf _ => true
  | _ => false

/-- clamp(x, 0, 254). -/
def clampScale (x : Int) : Nat := (min 254 (max 0 x)).toNat

/-- The largest exponent of an MX element format (R239). -/
def mxTop (t : Nat) : Int := if t = 7 then 2 else if t = 8 then 8 else 15

/-- 32 F32 values into a block (R239): the element bits and the scale or exponent byte; sr gives each element's random
bits. -/
def toBlock (t : Nat) (sr : Nat → Option Nat) (sat : Bool) (vs : List Val) : List Nat × Nat :=
  if vs.any (fun v => v.isNan || isInf v) then (vs.map (fun _ => 0), 255)
  else
    let w := State.tagWidth t
    match blockLog vs with
    | none => (vs.map (fun v => if 0x10 ≤ t then 0 else (if v.isNeg then 2 ^ (w - 1) else 0)), 0)
    | some q =>
      if 0x10 ≤ t then
        let e := clampScale (q + 128)
        let one (x : Nat × Val) : Nat :=
          (intBits w (toIntRange (-((2 ^ (w - 1) : Nat) : Int)) (((2 ^ (w - 1) : Nat) : Int) - 1) fOVF (rndInt .rne (sr x.1))
            (x.2.shift ((w : Int) - 1 - ((e : Int) - 127))))).1
        (((List.range vs.length).zip vs).map one, e)
      else
        let s := clampScale (q - mxTop t + 127)
        let one (x : Nat × Val) : Nat := match tagFmt t with
          | some f => (convert f .rne (sr x.1) sat (x.2.shift (127 - (s : Int)))).1
          | none => 0
        (((List.range vs.length).zip vs).map one, s)

namespace State

/-- The random bits of element i for an instruction of a thread (R240). -/
def draws (s : State) (t : Nat) (step : Word) (i : Nat) : Nat :=
  let g := s.group (s.thr t).group
  (srBits (s.kernel g.kernel).srKey g.gnum (s.thr t).tidx (BitVec.ofNat 32 i) step).toNat % 65536

end State

/-- RMODE (R234). -/
def Thread.mode (x : Thread) : RMode := match x.rmode.toNat with | 0 => .rne | 1 => .rtz | 2 => .rdn | _ => .rup

end Sys2Proof.Machine
end

