-- ==== Sys2Proof/Machine/Tensor.lean ====
section
/-! DEFINITION. What the engines share: accesses to any space for an accepted command, tensor records (R325, R326) and their
elements in memory (R231), and the acceptance of commands (R86, R114, R143, R269, R326, R338). -/

namespace Sys2Proof.Machine

/-- How an engine's access fails: in translation, or at an address outside every space (R95, R96). -/
inductive EFault
  | page (f : XFault) (va : DWord)
  | space (va : DWord)
  /-- a record that the engine must read is uncorrectable -/
  | poison
  /-- the home holds a write until a settle has read its operands (R146): the command waits -/
  | held
  deriving DecidableEq, Repr

/-- The trap that names such a failure (R88, R95). -/
def EFault.trap : EFault → TrapInfo
  | .page f va => State.xTrap f va
  | .space va => trapAt .address va
  | .poison | .held => trapOf .poison

/-- Run a reader over a list, in order, stopping at a failure. -/
def eachE {β γ : Type} (f : State → β → Except EFault (State × γ)) : State → List β → Except EFault (State × List γ)
  | s, [] => .ok (s, [])
  | s, x :: r =>
    match f s x with
    | .error e => .error e
    | .ok (s1, y) =>
      match eachE f s1 r with
      | .error e => .error e
      | .ok (s2, ys) => .ok (s2, y :: ys)

namespace State

/-- The space of one byte for a command's thread: translated memory, or a local place. -/
def engPlace (s : State) (t : Nat) (va : DWord) : Option Place :=
  let sel := cut va.toNat 60 4
  if sel = 0 ∨ sel = 15 then (if canonical va then some .virt else none) else s.locate t va 1

/-- The tile walker through which a command translates (R134): that of its cluster for the tiles of STREAM, STREAMG, MMA, MMAS,
XLD and XST. -/
def tileWalker (c : Cmd) : Option Nat :=
  match c.i with
  | .stream _ _ _ _ | .streamg _ _ _ _ | .mma _ _ _ _ _ | .mmas _ _ _ _ _ | .xld _ _ _ _ _ | .xst _ _ _ _ _ => some (coreCluster c.core)
  | _ => none

/-- The level of a command's translated accesses (R339): that of the streamer's descriptor; .l2 for the other engines, but for what the
prefix engine writes into a map (R171). -/
def cmdLevel (c : Cmd) : Level :=
  match c.eng with
  | .streamer _ => if !c.ready then .l2 else match c.fields.getD 12 0 % 4 with | 1 => .sys | 2 => .st | _ => .l2
  | .pfx _ => if c.fields.getD 12 0 = 1 then .sys else .l2
  | _ => .l2

/-- A command of the active context waits at a byte of core pad or cluster memory that the Gleaner has still to pass (R80). -/
def gleanerStops (s : State) (c : Cmd) (pl : Place) : Bool := (s.ctx (keyCtx c.thr)).state == .active && s.gleanerHolds c.core pl 1

/-- One byte as the command's engine reads it, and whether its word is poisoned. -/
def engByte (s : State) (c : Cmd) (va : DWord) : Except EFault (State × Byte × Bool) :=
  match s.engPlace c.thr va with
  | none => .error (.space va)
  | some .virt =>
    match s.vbyte (coreDie c.core) c.asid va.toNat (some c.tenant) (tileWalker c) (cmdLevel c) (engAgent c.eng) with
    | .error f => .error (.page f va)
    | .ok (s1, b, p) => .ok (s1, b, p || c.lost.contains (va.toNat / 128))
  | some pl =>
    if s.gleanerStops c pl then .error .held
    else .ok (s.takeEpoch (engAgent c.eng) pl, (s.getLocal (keyCtx c.thr) pl 1).headD 0, s.localPoison pl 1)

/-- n bytes upward, and whether any is poisoned. -/
def engRead (s : State) (c : Cmd) (va : DWord) (n : Nat) : Except EFault (State × List Byte × Bool) :=
  match eachE (fun s i => match s.engByte c (va + BitVec.ofNat 64 i) with
      | .error e => .error e
      | .ok (s1, b, p) => .ok (s1, (b, p))) s (List.range n) with
  | .error e => .error e
  | .ok (s1, bs) => .ok (s1, bs.map Prod.fst, bs.any Prod.snd)

/-- Mark or leave the poison of a word that an engine has written from poisoned data (R221). -/
def markPoison (s : State) (w : Nat) (bad : Bool) : State := if bad then { s with poison := s.poison.set w true } else s

/-- Bytes within one word, written by an engine, with the settle epoch that it has seen (R115); a line whose flit failed its retries
arrives as poison (R181). -/
def engPut (s : State) (c : Cmd) (va : DWord) (bs : List Byte) (bad0 : Bool) : Except EFault State :=
  let bad := bad0 || c.lost.contains (va.toNat / 128)
  match s.engPlace c.thr va with
  | none => .error (.space va)
  | some .virt =>
    match s.translateFor (coreDie c.core) (tileWalker c) c.asid va.toNat .write with
    | .error f => .error (.page f va)
    | .ok (s1, pa) =>
      if s1.homeGone (coreDie c.core) pa then .ok (s1.noteBlocked (coreDie c.core) pa)
      else if s1.captureHeld (wordsOf pa bs.length) then .error .held
      else .ok ((((s1.meetEpoch (engAgent c.eng) (coreDie c.core) pa).homeStore pa bs).markPoison (pa / 4) bad).usedBy (coreDie c.core) pa (some c.tenant) (cmdLevel c) true)
  | some pl =>
    if s.gleanerStops c pl then .error .held
    else
    let s1 := (s.putLocal (keyCtx c.thr) pl bs).leaveEpoch (engAgent c.eng) pl
    .ok (if bad then { s1 with lpoison := s1.lpoison.set (localByte pl / 4) true } else s1)

/-- Bytes upward, word by word where they can be; what was written before a failure stays. -/
def engWrite (s : State) (c : Cmd) : Nat → DWord → List Byte → Bool → State × Option EFault
  | 0, _, _, _ => (s, none)
  | k + 1, va, bs, bad =>
    if bs.isEmpty then (s, none)
    else
      let n := 4 - va.toNat % 4
      match s.engPut c va (bs.take n) bad with
      | .error e => (s, some e)
      | .ok s1 => engWrite s1 c k (va + BitVec.ofNat 64 n) (bs.drop n) bad

end State

/-! Tensor records. -/

/-- A little-endian field of bytes read. -/
def fieldAt (b : List Byte) (o n : Nat) : Nat := leNat ((b.drop o).take n)

/-- The record that 64 bytes spell (R325). -/
def parseTsr (b : List Byte) : Tsr :=
  { base := BitVec.ofNat 64 (fieldAt b 0 8), tag := fieldAt b 8 1, rank := fieldAt b 9 1, scope := fieldAt b 10 1,
    tflags := fieldAt b 11 1, rsvOk := fieldAt b 12 4 == 0,
    ext := (List.range 4).map (fun d => fieldAt b (0x10 + 4 * d) 4),
    stride := 0 :: (List.range 3).map (fun d => fieldAt b (0x20 + 8 * d) 8),
    tile := (List.range 4).map (fun d => fieldAt b (0x38 + 2 * d) 2) }

namespace Tsr

def extent (t : Tsr) (d : Nat) : Nat := t.ext.getD d 0
def tileAt (t : Tsr) (d : Nat) : Nat := t.tile.getD d 0

/-- The byte alignment of BASE: the element's size, 1 for block and 4-bit tags. -/
def align (t : Tsr) : Nat := if State.blockTag t.tag then 1 else max 1 (State.tagWidth t.tag / 8)

/-- The record keeps the table of R325 and the rules of R326, its tile shape left aside (R143). -/
def okWithout (t : Tsr) : Bool :=
  isFormatTag t.tag && 1 ≤ t.rank && t.rank ≤ 4 && 1 ≤ t.scope && t.scope ≤ 5 && t.tflags < 4 && t.rsvOk &&
  (List.range 4).all (fun d =>
    if d < t.rank then 1 ≤ t.extent d && t.extent d ≤ 2 ^ 31 else t.extent d == 0 && t.stride.getD d 0 == 0) &&
  t.base.toNat % t.align == 0 && (!State.blockTag t.tag || t.extent 0 % 32 == 0)

/-- The same with the tile shape. -/
def ok (t : Tsr) : Bool :=
  t.okWithout && (List.range 4).all (fun d => if d < t.rank then 1 ≤ t.tileAt d else t.tileAt d == 0) &&
  (!State.blockTag t.tag || t.tileAt 0 % 32 == 0)

def sr (t : Tsr) : Bool := t.tflags % 2 == 1
def sat (t : Tsr) : Bool := t.tflags / 2 == 1

/-- Bytes of a block with its scale (R231). -/
def blockBytes (t : Tsr) : Nat := 4 * State.tagWidth t.tag + 1

/-- The address of the row of dimension 0 at indices of dimensions 1 up. -/
def rowAt (t : Tsr) (ix : List Nat) : DWord :=
  (List.range 3).foldl (fun a d => a + BitVec.ofNat 64 (ix.getD (d + 1) 0 * t.stride.getD (d + 1) 0)) t.base

/-- The bit of element i0 from its row's address (R231, R325). -/
def bitAt (t : Tsr) (i0 : Nat) : Nat :=
  let w := State.tagWidth t.tag
  if State.blockTag t.tag then 8 * (i0 / 32 * t.blockBytes) + w * (i0 % 32) else w * i0

/-- Bytes of n elements of a row, n a multiple of 32 for block tags (R231). -/
def rowBytes (t : Tsr) (n : Nat) : Nat :=
  if State.blockTag t.tag then n / 32 * t.blockBytes else (n * State.tagWidth t.tag + 7) / 8

end Tsr

namespace State

/-- The bits of an element, and whether a word that holds them is poisoned. -/
def elemBits (s : State) (c : Cmd) (t : Tsr) (ix : List Nat) : Except EFault (State × Nat × Bool) :=
  let bit := t.bitAt (ix.headD 0)
  let w := State.tagWidth t.tag
  match s.engRead c (t.rowAt ix + BitVec.ofNat 64 (bit / 8)) ((bit % 8 + w + 7) / 8) with
  | .error e => .error e
  | .ok (s1, bs, p) => .ok (s1, leNat bs / 2 ^ (bit % 8) % 2 ^ w, p)

/-- The scale byte of an element's block; 127 without one. -/
def elemScale (s : State) (c : Cmd) (t : Tsr) (ix : List Nat) : Except EFault (State × Nat × Bool) :=
  if !State.blockTag t.tag then .ok (s, 127, false)
  else
    match s.engRead c (t.rowAt ix + BitVec.ofNat 64 ((ix.headD 0) / 32 * t.blockBytes + 4 * State.tagWidth t.tag)) 1 with
    | .error e => .error e
    | .ok (s1, bs, p) => .ok (s1, leNat bs, p)

/-- An element's exact value, its scale applied, and whether it is poisoned. -/
def elemVal (s : State) (c : Cmd) (t : Tsr) (ix : List Nat) : Except EFault (State × Val × Bool) :=
  match s.elemBits c t ix with
  | .error e => .error e
  | .ok (s1, b, p) =>
    match s1.elemScale c t ix with
    | .error e => .error e
    | .ok (s2, sc, q) => .ok (s2, elemExact t.tag b sc, p || q)

/-- The write of one element of an unscaled tag; a 4-bit one shares its byte. -/
def elemPut (t : Tsr) (ix : List Nat) (bits : Nat) (bad : Bool) : Put :=
  let bit := t.bitAt (ix.headD 0)
  let w := State.tagWidth t.tag
  { va := t.rowAt ix + BitVec.ofNat 64 (bit / 8), bs := leBytes (max 1 (w / 8)) bits, bad := bad,
    half := if 8 ≤ w then none else some (bit % 8 != 0) }

/-- The write of a block of 32 elements and its scale byte (R231). -/
def blockPut (t : Tsr) (ix : List Nat) (es : List Nat) (scale : Nat) (bad : Bool) : Put :=
  let w := State.tagWidth t.tag
  { va := t.rowAt ix + BitVec.ofNat 64 ((ix.headD 0) / 32 * t.blockBytes), bs := leBytes (4 * w) (packFields w es) ++ leBytes 1 scale,
    bad := bad }

/-- A write is made. -/
def doPut (s : State) (c : Cmd) (p : Put) : State × Option EFault :=
  match p.half with
  | none => s.engWrite c (p.bs.length + 1) p.va p.bs p.bad
  | some high =>
    match s.engRead c p.va 1 with
    | .error e => (s, some e)
    | .ok (s1, bs, q) =>
      let old := leNat bs
      let new := leNat p.bs % 16
      s1.engWrite c 2 p.va (leBytes 1 (if high then old % 16 + 16 * new else old / 16 * 16 + new)) (p.bad || q)

/-- Writes one after another, up to the first failure. -/
def writeAll {β : Type} (f : State → β → State × Option EFault) : State → List β → State × Option EFault
  | s, [] => (s, none)
  | s, x :: r =>
    match f s x with
    | (s1, some e) => (s1, some e)
    | (s1, none) => writeAll f s1 r

/-- A 64-byte record at an address: none if it is misaligned. -/
def engRecord (s : State) (c : Cmd) (va : DWord) : Except EFault (State × Option (List Byte)) :=
  if va.toNat % 64 ≠ 0 then .ok (s, none)
  else match s.engRead c va 64 with
    | .error e => .error e
    | .ok (s1, bs, p) => if p then .error .poison else .ok (s1, some bs)

/-- Several tensor records (R326): none if one is misaligned or invalid. -/
def engTsrs (s : State) (c : Cmd) (vas : List DWord) : Except EFault (State × Option (List Tsr)) :=
  match eachE (fun s va => s.engRecord c va) s vas with
  | .error e => .error e
  | .ok (s1, rs) =>
    let ts := rs.filterMap (fun r => r.map parseTsr)
    .ok (s1, if ts.length = vas.length ∧ ts.all Tsr.ok then some ts else none)

end State

/-! Acceptance. -/

namespace State

/-- The commands of an engine that are accepted and not complete: number and command, oldest first. -/
def cmdsOf (s : State) (e : Eng) : List (Nat × Cmd) :=
  s.cmds.cells.filterMap (fun x => match x.2 with | some c => if c.eng = e then some (x.1, c) else none | none => none)

/-- Queue entries of an engine in use by other issues than a running one. -/
def entriesOf (s : State) (e : Eng) (issue : Nat) : Nat :=
  ((((s.cmdsOf e).filter (fun x => !cmdLogged x.2)).map (fun x => x.2.batch)).filter (· != issue)).eraseDups.length

def setCmd (s : State) (id : Nat) (c : Option Cmd) : State := { s with cmds := s.cmds.set id c }

/-- A command takes its number, its flag counts up, and its engine hears of the core's settle epoch (R115). -/
def enter (s : State) (c : Cmd) : State :=
  ((({ s with nextId := s.nextId + 1 } : State).modThr c.thr (fun x => x.flagUp c.flag)).setCmd s.nextId (some c)).passEpoch c.core (engAgent c.eng)

/-- A command of a thread before its descriptor is read. -/
def newCmd (s : State) (t : Nat) (e : Eng) (i : Instr) (vals : List Nat) (flag : Option Nat) (o : BitVec 2) : Cmd :=
  let x := s.thr t
  let c := s.ctx (keyCtx t)
  { thr := t, eng := e, i := i, vals := vals, flag := flag, pc := x.pc, kernel := s.kernelOf t, acq := o.getLsbD 0,
    rel := o.getLsbD 1, scope := 1, tag := 0, started := false, mark := 0, asid := c.asid, tenant := c.tenant.toNat,
    core := c.core, group := x.group, step := x.srstep, batch := s.issueOf t,
    seed := ((s.kernel (s.kernelOf t)).srKey, (s.group x.group).gnum, x.tidx) }

/-- What holds back an engine command at issue (R87, R248, R327, R338). -/
def cmdHinder (s : State) (t : Nat) (e : Eng) (cap : Nat) (flag : Option Nat) : Option TRes :=
  match s.memHinder t flag 0 with
  | some r => some r
  | none => if cap ≤ s.entriesOf e (s.issueOf t) then some .hold else none

/-- A command waits with a translation fault (R133); where the operand log would hold it and is full, its thread blocks first (R37,
R87). -/
def cmdPageFault (s : State) (id : Nat) (c : Cmd) (f : XFault) (va : DWord) : State :=
  if cmdLogged { c with fault := some (f, va) } ∧ !cmdLogged c ∧ 256 ≤ s.logCount (keyCtx c.thr) then s.logFull c.thr
  else (s.denied (coreDie c.core) c.asid va.toNat f).setCmd id (some { c with fault := some (f, va), resolved := false })

/-- A reader of a command's descriptor: its fields and tensor records, or none for a descriptor that is invalid. -/
abbrev Describe := State → Cmd → Except EFault (State × Option Cmd)

/-- Read a command's descriptor (R326, R328, R338): the command is ready, it waits with a fault, or it ends at its reply with
a trap and no effect. -/
def describe (s : State) (id : Nat) (c : Cmd) (d : Describe) : State :=
  match d s c with
  | .error (.page f va) => s.cmdPageFault id c f va
  | .error .held => s
  | .error e => (s.setCmd id none).laterFlag c.thr c.pc e.trap c.flag c.batch
  | .ok (s1, none) => (s1.setCmd id none).laterFlag c.thr c.pc (trapOf .desc) c.flag c.batch
  | .ok (s1, some c1) => s1.setCmd id (some { c1 with ready := true, fault := none, resolved := false })

/-- ACCEPTANCE: the command takes its number and its flag counts up; its descriptor is read, unless a faulted entry of the
thread holds the command back (R87). -/
def accept (s : State) (c : Cmd) (d : Describe) : State :=
  let s2 := s.enter c
  if s.heldBehind c.thr s.nextId then
    match d s2 c with
    | .ok (s3, some c1) =>
      (s2.modThr c.thr (fun x => { x with srstep := (s3.thr c.thr).srstep })).setCmd s.nextId (some { c with step := c1.step, drawn := true })
    | _ => s2
  else s2.describe s.nextId c d

/-- A command whose destination record asks for stochastic rounding takes SRSTEP at its issue and advances it (R234).  A command that is
held back took its step when it issued; where its record could not be read then, nothing reads or writes SRSTEP before it can (log
68), so that the step is the one of its issue. -/
def takeStep (s : State) (c : Cmd) (sr : Bool) : State × Cmd :=
  if sr ∧ !c.drawn then (s.modThr c.thr (fun x => { x with srstep := x.srstep + 1 }), { c with step := (s.thr c.thr).srstep })
  else (s, c)

/-- An address that R95 and R96 refuse at issue. -/
def badAddress (s : State) (t : Nat) (va : DWord) : Bool := (s.engPlace t va).isNone

/-- A command's end: its flag counts down, and the threads that wait for it go on. -/
def endCmd (s : State) (id : Nat) (c : Cmd) : State :=
  let s1 := ((s.passEpoch (engAgent c.eng) c.core).setCmd id none).modThr c.thr (fun x => x.flagDown c.flag)
  (s1.wakeCtx (keyCtx c.thr)).settleSlot c.thr

/-- A command's end with a trap at its reply: the flag counts down with the trap. -/
def endTrap (s : State) (id : Nat) (c : Cmd) (i : TrapInfo) : State := (s.setCmd id none).laterFlag c.thr c.pc i c.flag c.batch

/-- .acq (R114): the thread's earlier loads, stores and posts, and the stores that its loads observed, are performed at the scope;
and no older faulted entry of the thread (R87) and no result that a full queue refuses (R68) holds the command back. -/
def cmdMayRead (s : State) (id : Nat) (c : Cmd) : Bool :=
  !s.resultHeld id && !s.heldBehind c.thr id && (!c.acq || s.performed c.thr id c.scope 0b01011)

end State

/-- The random bits of element i of a command (R240). -/
def Cmd.draw (c : Cmd) (i : Nat) : Nat := (srBits c.seed.1 c.seed.2.1 c.seed.2.2 (BitVec.ofNat 32 i) c.step).toNat % 65536

/-- The random bits that a destination record asks for, by element. -/
def Cmd.random (c : Cmd) (t : Tsr) (i : Nat) : Option Nat := if t.sr then some (c.draw i) else none

/-- The same command with its accesses at .l2, or at .sys. -/
def Cmd.atL2 (c : Cmd) : Cmd := { c with fields := c.fields.set 12 0 }
def Cmd.atSys (c : Cmd) : Cmd := { c with fields := c.fields.set 12 1 }

/-- Does a flag-required command name one; where the flag is optional any header serves (R269). -/
def flagOk (required : Bool) (x : Thread) (f : BitVec 1) : Bool := !required || needFlag x f

end Sys2Proof.Machine
end

