-- ==== Sys2Proof/Machine/Matrix.lean ====
section
/-! DEFINITION. The matrix instructions (R327–R337): acceptance of their commands, the array's accumulation with its guard,
the tile commands, and drains into memory and into peer tiles. -/

namespace Sys2Proof.Machine

/-- The key of a tile's element. -/
def tileKey (row col : Nat) : Nat := row * 64 + col

namespace State

/-- The physical tile that a thread names, within its group's grant (R247). -/
def tileOf (s : State) (t d : Nat) : Option Nat :=
  let g := s.group (s.thr t).group
  if d < g.tileCount then some (g.tileBase + d) else none

def tile (s : State) (ctx k : Nat) : Tile := (s.ctx ctx).tiles.get k

/-- The tile parts of the save area of a context that is no longer in a bank follow its tiles (R81, R336, R381, R382). -/
def settleTile (s : State) (ctx k : Nat) : State :=
  let c := s.ctx ctx
  if !inArea c then s
  else
    let x := c.tiles.get k
    let s1 := (List.range 4096).foldl (fun s e =>
      (s.homeStore (c.save + 0x170000 + 16384 * k + 4 * e) (leBytes 4 (x.elems.get e).toNat)).markPoison
        ((c.save + 0x170000 + 16384 * k) / 4 + e) (x.bad.get e)) s
    (s1.homeStore (c.save + 0x340 + 8 * k) (leBytes 2 x.sc.toNat ++ leBytes 2 x.sn.toNat ++ leBytes 4 0)).homeStore
      (c.save + 0x18 + 8 * k) (leBytes 4 (x.reruns.toNat * 256 + if x.fail then 1 else 0))

def setTile (s : State) (ctx k : Nat) (x : Tile) : State :=
  (s.modCtx ctx (fun c => { c with tiles := c.tiles.set k x })).settleTile ctx k

/-- The context of a command's group. -/
def cmdCtx (s : State) (c : Cmd) : Nat := (s.group c.group).ctx

/-- Some command on a tile, accepted before a number, that has not completed (R327, R333); a drain that has left its tile is
`started`. -/
def tileWaits (s : State) (ctx k id : Nat) (counts : Cmd → Bool) : Bool :=
  s.cmds.cells.any (fun e => match e.2 with
    | some c => e.1 < id && (match c.eng with | .matrix _ => true | _ => false) && counts c && s.cmdCtx c == ctx && c.mark == k
    | none => false)

/-- Commands on a tile whose step of tile order is still to come, accepted before a number (R327). -/
def tileBusy (s : State) (ctx k id : Nat) : Bool := s.tileWaits ctx k id (fun c => !c.started)

end State

/-- An engine command of a matrix instruction (R327): its tile, its flag, a place in the queue, and its operands. -/
def mtx (i : Instr) (d : BitVec 3) (required : Bool) (f : Option (BitVec 1)) (o : BitVec 2) (vals : Thread → List Word → List Nat)
    (gs : List Nat) (va : Option Nat) (dsc : State.Describe) (s : State) (t : Nat) : TRes :=
  match s.tileOf t d.toNat with
  | none => illegal
  | some k =>
    if required && (f.bind (s.thr t).flagOf).isNone then illegal
    else s.operands t gs [] none noCheck (fun s vs =>
      let x := s.thr t
      if va.any (fun a => s.badAddress t (x.rdA a)) then .trap (trapAt .address (x.rdA (va.getD 0)))
      else match s.cmdHinder t (.matrix (s.coreOf t)) 16 (f.bind x.flagOf) with
        | some r => r
        | none => .done (s.accept { s.newCmd t (.matrix (s.coreOf t)) i (vals x vs) (f.bind x.flagOf) o with mark := k } dsc) none)

/-! MMA and MMAS. -/

/-- A tag that A and B may carry (R328). -/
def operandTag (t : Nat) : Bool := (1 ≤ t && t ≤ 0x0B) || (0x10 ≤ t && t ≤ 0x16)

/-- The descriptor's fields with k0 in the place of K0: ROW0, COL0, k0, KLEN, MROWS, NCOLS, META (R328). -/
def mopdFields (b : List Byte) (off : Nat) : List Nat :=
  [fieldAt b 0x10 4, fieldAt b 0x14 4, (fieldAt b 0x18 4 + off) % 2 ^ 32, fieldAt b 0x1C 4, fieldAt b 0x20 1, fieldAt b 0x21 1,
   fieldAt b 0x28 8]

/-- The rules of R328 and R326 for a descriptor and its two records. -/
def mopdOk (b : List Byte) (f : List Nat) (ts : List Tsr) (sparse : Bool) : Bool :=
  match f, ts with
  | [row0, col0, k0, klen, mr, nc, meta_], [a, t] =>
    let blocks := sparse || State.blockTag a.tag || State.blockTag t.tag
    fieldAt b 0x22 6 == 0 && fieldAt b 0x30 16 == 0 && a.rank == 2 && t.rank == 2 &&
    1 ≤ klen && klen ≤ 65536 && 1 ≤ mr && mr ≤ 64 && 1 ≤ nc && nc ≤ 64 &&
    row0 + mr ≤ a.extent 1 && col0 + nc ≤ t.extent 1 && k0 + klen ≤ a.extent 0 && a.extent 0 == t.extent 0 &&
    operandTag a.tag && operandTag t.tag && (!blocks || (k0 % 32 == 0 && klen % 32 == 0)) && (sparse || meta_ == 0)
  | _, _ => false

/-- Reading the descriptor of an MMA or MMAS, values [descriptor VA, K offset] (R328). -/
def describeMma (sparse : Bool) : State.Describe := fun s c =>
  match s.engRecord c (BitVec.ofNat 64 (c.vals.headD 0)) with
  | .error e => .error e
  | .ok (s1, none) => .ok (s1, none)
  | .ok (s1, some b) =>
    match s1.engTsrs c [BitVec.ofNat 64 (fieldAt b 0 8), BitVec.ofNat 64 (fieldAt b 8 8)] with
    | .error e => .error e
    | .ok (s2, none) => .ok (s2, none)
    | .ok (s2, some ts) =>
      let f := mopdFields b ((c.vals.drop 1).headD 0)
      .ok (s2, if mopdOk b f ts sparse then some { c with fields := f, tsrs := ts, scope := (ts.headD default).scope } else none)

/-- MMA (R329). -/
def execMma (d : BitVec 3) (a : BitVec 4) (b : BitVec 6) (f : BitVec 1) (o : BitVec 2) (s : State) : Out :=
  s.run (.mma d a b f o) false (mtx (.mma d a b f o) d true (some f) o
    (fun x vs => [(x.rdA a.toNat).toNat, (vs.headD 0).toNat]) [b.toNat] (some a.toNat) (describeMma false))

/-- MMAS (R329, R331). -/
def execMmas (d : BitVec 3) (a : BitVec 4) (b : BitVec 6) (f : BitVec 1) (o : BitVec 2) (s : State) : Out :=
  s.run (.mmas d a b f o) false (mtx (.mmas d a b f o) d true (some f) o
    (fun x vs => [(x.rdA a.toNat).toNat, (vs.headD 0).toNat]) [b.toNat] (some a.toNat) (describeMma true))

/-- An operand element, and whether it is poisoned. -/
abbrev Opnd := Val × Bool

/-- Rows of K values of an operand: from a row of dimension 1 on. -/
def operandRows (s : State) (c : Cmd) (t : Tsr) (row n k0 klen : Nat) : Except EFault (State × List (List Opnd)) :=
  eachE (fun s i => eachE (fun s k => match s.elemVal c t [k0 + k, row + i] with
    | .error e => .error e
    | .ok (s1, v, p) => .ok (s1, (v, p))) s (List.range klen)) s (List.range n)

/-- The masks of R331, one number per row from its 32-bit words, with their poison. -/
def sparseMasks (s : State) (c : Cmd) (a : Tsr) (meta_ row n k0 klen : Nat) :
    Except EFault (State × List (List (Nat × Bool))) :=
  eachE (fun s i => eachE (fun s q =>
    match s.engRead c (BitVec.ofNat 64 (meta_ + 4 * ((row + i) * (a.extent 0 / 32) + (k0 / 32 + q)))) 4 with
    | .error e => .error e
    | .ok (s1, bs, p) => .ok (s1, (leNat bs, p))) s (List.range (klen / 32))) s (List.range n)

/-- Set bits of a mask. -/
def popcount (m : Nat) : Nat := ((List.range 32).filter (fun i => m.testBit i)).length

/-- One element of the accumulation (R241): the products of the kept k, in chunks of 16, or one by one when A and B are both
F32. -/
def accumulate (single : Bool) (acc klen : Nat) (kept : Nat → Bool) (a b : List Opnd) : Nat :=
  let prod (k : Nat) : Val := ((a.getD k (.nan false, false)).1).mul ((b.getD k (.nan false, false)).1)
  if single then ((List.range klen).filter kept).foldl (fun acc k => fmaStep acc (prod k)) acc
  else (List.range ((klen + 15) / 16)).foldl (fun acc q =>
    chunk acc ((((List.range 16).map (· + 16 * q)).filter (fun k => k < klen && kept k)).map prod)) acc

/-- The staged tile (R329): each position inside the edge masks, poisoned where an operand that it depends on is. -/
def stageTile (x : Tile) (single : Bool) (klen mr nc : Nat) (kept : Nat → Nat → Bool) (badMask : Nat → Bool)
    (as bs : List (List Opnd)) : Tile :=
  (List.range mr).foldl (fun x i => (List.range nc).foldl (fun x j =>
    let a := as.getD i []
    let b := bs.getD j []
    let key := tileKey i j
    let bad := badMask i || (List.range klen).any (fun k =>
      kept i k && ((a.getD k (.nan false, false)).2 || (b.getD k (.nan false, false)).2))
    { x with elems := x.elems.set key (BitVec.ofNat 32 (accumulate single (x.elems.get key).toNat klen (kept i) a b)),
             bad := x.bad.set key (bad || x.bad.get key) }) x) x

namespace State

/-- The operands of an MMA read and the tile staged; none when a mask has more than 16 bits set (R331). -/
def mmaTile (s : State) (c : Cmd) (sparse : Bool) : Except EFault (State × Option Tile) :=
  match c.fields, c.tsrs with
  | [row0, col0, k0, klen, mr, nc, meta_], [a, b] =>
    match operandRows s c a row0 mr k0 klen with
    | .error e => .error e
    | .ok (s1, as) =>
      match operandRows s1 c b col0 nc k0 klen with
      | .error e => .error e
      | .ok (s2, bs) =>
        match (if sparse then sparseMasks s2 c a meta_ row0 mr k0 klen else .ok (s2, [])) with
        | .error e => .error e
        | .ok (s3, ms) =>
          let kept (i k : Nat) : Bool := !sparse || (((ms.getD i []).getD (k / 32) (0, false)).1).testBit (k % 32)
          let badMask (i : Nat) : Bool := (ms.getD i []).any Prod.snd
          if ms.any (fun r => r.any (fun m => 16 < popcount m.1)) then .ok (s3, none)
          else .ok (s3, some (stageTile (s3.tile (s.cmdCtx c) c.mark) (a.tag == 1 && b.tag == 1) klen mr nc kept badMask as bs))
  | _, _ => .ok (s, none)

/-- A record of a core's matrix array. -/
def guardRecord (s : State) (core code sev action : Nat) : State :=
  s.log { code := code, sev := sev, action := action, eclass := 4, part := s.partOf (coreDie core), einst := core }

/-- The guard's verdict on a staged tile (R332): no mismatch commits it; one rerun commits it too; a second mismatch leaves the
tile unchanged, sets FAIL, and traps GUARD where the launch record asks for it. -/
def commitTile (s : State) (id : Nat) (c : Cmd) (x : Tile) (mismatches : Nat) : State :=
  let ctx := s.cmdCtx c
  let old := s.tile ctx c.mark
  let runs : Byte := if old.reruns = 255 then 255 else old.reruns + 1
  if mismatches = 0 then (s.setTile ctx c.mark { x with fail := false }).endCmd id c
  else if mismatches = 1 then
    ((s.guardRecord c.core 0x0401 1 1).setTile ctx c.mark { x with fail := false, reruns := runs }).endCmd id c
  else
    let s1 := (s.guardRecord c.core 0x0401 1 1).setTile ctx c.mark { old with fail := true, reruns := runs }
    if (s.kernel c.kernel).guarded then s1.endTrap id c (trapOf .guard)
    else (s1.guardRecord c.core 0x0402 2 2).endCmd id c

/-- A fault sends the whole command to the operand log (R329); an address outside every space ends it with its trap. -/
def cmdFaults (s : State) (id : Nat) (c : Cmd) (e : EFault) : State :=
  match e with
  | .page f va => s.cmdPageFault id c f va
  | .held => s
  | e => s.endTrap id c e.trap

/-- An MMA or MMAS is performed (R329–R332). -/
def mmaDone (s : State) (id : Nat) (c : Cmd) (sparse : Bool) (mismatches : Nat) : State :=
  match s.mmaTile c sparse with
  | .error e => s.cmdFaults id c e
  | .ok (s1, none) => s1.endTrap id c (trapOf .desc)
  | .ok (s1, some x) =>
    (s1.modCore c.core (fun k => { k with arrayUsed := s.cycle })).commitTile id c x mismatches

end State

/-! XZERO, XLD, XST, XGUARD, XTAG. -/

/-- XZERO has no descriptor. -/
def describeNone : State.Describe := fun s c => .ok (s, some c)

/-- XZERO (R333). -/
def execXzero (d : BitVec 3) (s : State) : Out :=
  s.run (.xzero d) false (mtx (.xzero d) d false none 0 (fun _ _ => []) [] none describeNone)

/-- Reading the record of XLD, XST or the memory form of XDRAIN, values [TSR VA, col0, row0] (R334). -/
def describeTile (load : Bool) : State.Describe := fun s c =>
  match s.engTsrs c [BitVec.ofNat 64 (c.vals.headD 0)] with
  | .error e => .error e
  | .ok (s1, none) => .ok (s1, none)
  | .ok (s1, some ts) =>
    let t := ts.headD default
    let col0 := (c.vals.drop 1).headD 0
    if t.rank = 2 ∧ t.tileAt 0 ≤ 64 ∧ t.tileAt 1 ≤ 64 ∧ (!load || t.tag ≤ 3) ∧
        (load || !State.blockTag t.tag || col0 % 32 == 0) then
      let r := s1.takeStep c (!load && t.sr)
      .ok (r.1, some { r.2 with tsrs := ts, scope := t.scope })
    else .ok (s1, none)

/-- A pair of origin registers with the TSR's address. -/
def tileVals (a : BitVec 4) (x : Thread) (vs : List Word) : List Nat :=
  [(x.rdA a.toNat).toNat, (vs.headD 0).toNat, ((vs.drop 1).headD 0).toNat]

/-- XLD (R334). -/
def execXld (d : BitVec 3) (a : BitVec 4) (b : BitVec 6) (f : BitVec 1) (o : BitVec 2) (s : State) : Out :=
  s.run (.xld d a b f o) false (mtx (.xld d a b f o) d true (some f) o (tileVals a) [b.toNat, b.toNat + 1] (some a.toNat)
    (describeTile true))

/-- XST (R334). -/
def execXst (d : BitVec 3) (a : BitVec 4) (b : BitVec 6) (f : BitVec 1) (o : BitVec 2) (s : State) : Out :=
  s.run (.xst d a b f o) false (mtx (.xst d a b f o) d false (some f) o (tileVals a) [b.toNat, b.toNat + 1] (some a.toNat)
    (describeTile false))

namespace State

/-- The elements that XLD gives the tile-shape positions: key, value and poison (R334). -/
def xldElems (s : State) (c : Cmd) (t : Tsr) (col0 row0 : Nat) : Except EFault (State × List (List (Nat × Word × Bool))) :=
  eachE (fun s i => eachE (fun s j =>
    if t.extent 0 ≤ col0 + j ∨ t.extent 1 ≤ row0 + i then .ok (s, (tileKey i j, 0, false))
    else match s.elemBits c t [col0 + j, row0 + i] with
      | .error e => .error e
      | .ok (s1, b, p) =>
        let v := if t.tag = 1 then b else (f32.round .rne (elemExact t.tag b 127)).1
        .ok (s1, (tileKey i j, BitVec.ofNat 32 v, p))) s (List.range (t.tileAt 0))) s (List.range (t.tileAt 1))

/-- XLD is performed. -/
def xldDone (s : State) (id : Nat) (c : Cmd) : State :=
  let t := c.tsrs.headD default
  match s.xldElems c t ((c.vals.drop 1).headD 0) ((c.vals.drop 2).headD 0) with
  | .error e => s.cmdFaults id c e
  | .ok (s1, rows) =>
    let ctx := s.cmdCtx c
    let x := (rows.flatMap id_).foldl (fun (x : Tile) e =>
      { x with elems := x.elems.set e.1 e.2.1, bad := x.bad.set e.1 e.2.2 }) (s1.tile ctx c.mark)
    (s1.setTile ctx c.mark x).endCmd id c
where id_ (l : List (Nat × Word × Bool)) : List (Nat × Word × Bool) := l

/-- One row of a tile stored through a record from origin (col0, row0): the positions within the extent, converted under R238 or by blocks
under R239; I32 always rounds RNE (R334). -/
def rowPuts (c : Cmd) (t : Tsr) (el : Tab Word) (bad : Tab Bool) (col0 row0 i : Nat) : List Put :=
  if t.extent 1 ≤ row0 + i then []
  else
    let n := min (t.tileAt 0) (t.extent 0 - col0)
    let val (j : Nat) : Val := f32.decode (el.get (tileKey i j)).toNat
    if State.blockTag t.tag then
      (List.range (n / 32)).map (fun q =>
        let js := (List.range 32).map (· + 32 * q)
        let r := toBlock t.tag (fun e => c.random t (tileKey i (32 * q + e))) t.sat (js.map val)
        blockPut t [col0 + 32 * q, row0 + i] r.1 r.2 (js.any (fun j => bad.get (tileKey i j))))
    else
      (List.range n).map (fun j =>
        let bits := if t.tag = 1 then (el.get (tileKey i j)).toNat
          else (toTag t.tag .rne (if t.tag = 0x0C then none else c.random t (tileKey i j)) t.sat (val j)).1
        elemPut t [col0 + j, row0 + i] bits (bad.get (tileKey i j)))

/-- A tile's elements stored through the command's record: the writes still to be made. -/
def tilePuts (c : Cmd) (el : Tab Word) (bad : Tab Bool) : List Put :=
  let t := c.tsrs.headD default
  if c.rows ≠ 0 then c.todo
  else (List.range (t.tileAt 1)).flatMap (fun i => rowPuts c t el bad ((c.vals.drop 1).headD 0) ((c.vals.drop 2).headD 0) i)

/-- XST, or the second step of a drain to memory, is performed; a fault leaves memory as it was, for the replay (log 14). -/
def xstDone (s : State) (id : Nat) (c : Cmd) (el : Tab Word) (bad : Tab Bool) : State :=
  match writeAll (fun s p => s.doPut c p) s (tilePuts c el bad) with
  | (s1, none) => s1.endCmd id c
  | (_, some e) => s.cmdFaults id c e

/-- The first of the writes still to be made is made ahead of the others (R109); nothing where it fails. -/
def putAhead (s : State) (id : Nat) (c : Cmd) (ps : List Put) : State :=
  match ps with
  | [] => s
  | p :: r => match s.doPut c p with
    | (s1, none) => s1.setCmd id (some { c with rows := max 1 c.rows, todo := r })
    | (_, some _) => s

end State

/-- The tile guard status word (R333). -/
def Tile.status (x : Tile) : Word := BitVec.ofNat 32 (x.reruns.toNat * 256 + if x.fail then 1 else 0)

/-- XGUARD (R333): it waits until the tile's earlier commands have completed, a drain's writes or its add with them. -/
def execXguard (d : BitVec 6) (a : BitVec 3) (c : BitVec 1) (s : State) : Out :=
  s.run (.xguard d a c) false (fun s t =>
    match s.tileOf t a.toNat with
    | none => illegal
    | some k =>
      if s.tileWaits (keyCtx t) k s.nextId (fun _ => true) then .hold
      else
        let x := s.tile (keyCtx t) k
        let s1 := if c.toNat = 1 then s.setTile (keyCtx t) k { x with reruns := 0, fail := false } else s
        .done (s1.modThr t (fun y => y.wrG d.toNat x.status)) none)

/-- XTAG (R333). -/
def execXtag (d : BitVec 6) (a : BitVec 3) (s : State) : Out :=
  s.run (.xtag d a) false (fun s t =>
    if (s.tileOf t a.toNat).isNone then illegal else .done (s.modThr t (fun x => x.wrG d.toNat 1)) none)

/-! XDRAIN. -/

/-- The value in a[a] selects the peer form (R335). -/
def peerForm (v : Nat) : Bool := cut v 60 4 == 0xC

/-- The peer form has no descriptor; its order scope is partition without a TSR (R335). -/
def describeDrain : State.Describe := fun s c =>
  if peerForm (c.vals.headD 0) then .ok (s, some { c with scope := 4 }) else describeTile false s c

namespace State

/-- Drain buffers in use on a core (R335). -/
def drainBuffers (s : State) (core : Nat) : Nat :=
  ((s.cmdsOf (.matrix core)).filter (fun e => e.2.started && !(e.2.fields.headD 0 == 1 && peerForm (e.2.vals.headD 0)))).length

end State

/-- XDRAIN (R335). -/
def execXdrain (d : BitVec 3) (a : BitVec 4) (b : BitVec 6) (f : BitVec 1) (o : BitVec 2) (s : State) : Out :=
  s.run (.xdrain d a b f o) false (fun s t =>
    let peer := peerForm ((s.thr t).rdA a.toNat).toNat
    if (!peer && !isPair b) || (s.tileOf t d.toNat).isNone then illegal
    else if 4 ≤ s.drainBuffers (s.coreOf t) then .hold
    else mtx (.xdrain d a b f o) d false (some f) o (tileVals a) (if peer then [b.toNat] else [b.toNat, b.toNat + 1])
      (if peer then none else some a.toNat) describeDrain s t)

namespace State

/-- The first step of a drain (R335): the tile is copied into a drain buffer and set to +0. -/
def drainCopy (s : State) (id : Nat) (c : Cmd) : State :=
  if 4 ≤ s.drainBuffers c.core then s
  else
    let ctx := s.cmdCtx c
    let x := s.tile ctx c.mark
    (s.setTile ctx c.mark { x with elems := {}, bad := {} }).setCmd id
      (some { c with started := true, buf := x.elems, bufBad := x.bad })

/-- The fields of a peer-target word and of a sequence word (R335). -/
def drainTarget (s : State) (c : Cmd) : Nat × Nat × Nat × Option Nat :=
  let v := c.vals.headD 0
  let core := cut v 0 8
  let gnum := cut v 16 32
  (core, gnum, cut v 8 3, (s.kernel c.kernel).groups.find? (fun g =>
    let x := s.group g
    x.gnum.toNat == gnum && holds x && x.state != .pending && (s.ctx x.ctx).core == core))

/-- The element-wise add of a drain into a tile (R335). -/
def addDrain (x : Tile) (buf : Tab Word) (bufBad : Tab Bool) : Tile :=
  (List.range 4096).foldl (fun x k =>
    { x with elems := x.elems.set k (BitVec.ofNat 32 (fadd .rne (x.elems.get k).toNat (buf.get k).toNat).1),
             bad := x.bad.set k (x.bad.get k || bufBad.get k) }) x

/-- The drains held for a tile: number, command and N (R337). -/
def heldDrains (s : State) (ctx k : Nat) : List (Nat × Cmd × Nat) :=
  s.cmds.cells.filterMap (fun e => match e.2 with
    | some c => if c.fields = [1, ctx, k] then some (e.1, c, (c.vals.drop 1).headD 0 % 65536) else none
    | none => none)

/-- Receive buffers in use on a core: drains held for its tiles. -/
def heldOn (s : State) (core : Nat) : Nat :=
  (s.cmds.cells.filter (fun e => match e.2 with
    | some c => c.fields.headD 0 == 1 && c.started && (s.drainTarget c).1 == core && peerForm (c.vals.headD 0)
    | none => false)).length

/-- The drain numbered SN is added, and then each held one in turn; at SN = SC the sequence is over (R337).  One whose result a full
queue refuses (R68) is added when that has been pushed. -/
def addSequence : Nat → State → Nat → Nat → Nat → Cmd → State
  | 0, s, _, _, _, _ => s
  | n + 1, s, ctx, k, id, c =>
    let x := addDrain (s.tile ctx k) c.buf c.bufBad
    let sn := x.sn + 1
    let x1 := if sn = x.sc then { x with sc := 0, sn := sn } else { x with sn := sn }
    let s1 := (s.setTile ctx k x1).endCmd id c
    if sn = x.sc then s1
    else match (s1.heldDrains ctx k).find? (fun e => e.2.2 == sn.toNat && !s1.resultHeld e.1) with
      | none => s1
      | some (j, d, _) => addSequence n s1 ctx k j d

/-- A drain reaches its target (R336, R337). -/
def drainArrives (s : State) (id : Nat) (c : Cmd) : State :=
  let v := c.vals.headD 0
  let (core, _, tile, target) := s.drainTarget c
  let w := (c.vals.drop 1).headD 0
  let count := w / 65536
  let num := w % 65536
  if cut v 48 12 ≠ 0 ∨ cut v 11 5 ≠ 0 ∨ 224 ≤ core then s.endTrap id c (trapOf .desc)
  else match target with
    | none => s.endTrap id c (trapOf .notarget)
    | some g =>
      let gr := s.group g
      let ctx := gr.ctx
      let k := gr.tileBase + tile
      if gr.tileCount ≤ tile then s.endTrap id c (trapOf .desc)
      else if (s.ctx ctx).state = .loading ∨ s.resultHeld id then s
      else if c.fields.headD 0 = 1 then
        (if count = (s.tile ctx k).sc.toNat ∧ num = (s.tile ctx k).sn.toNat then s.addSequence 65536 ctx k id c else s)
      else if count = 0 then
        (s.setTile ctx k (addDrain (s.tile ctx k) c.buf c.bufBad)).endCmd id c
      else
        let x := s.tile ctx k
        let x1 := if x.sc = 0 then { x with sc := BitVec.ofNat 16 count, sn := 0 } else x
        if count ≠ x1.sc.toNat ∨ count ≤ num ∨ num < x1.sn.toNat ∨ (s.heldDrains ctx k).any (fun e => e.2.2 == num) then
          (s.setTile ctx k x1).endTrap id c (trapOf .desc)
        else if num = x1.sn.toNat then (s.setTile ctx k x1).addSequence 65536 ctx k id c
        else if 8 ≤ s.heldOn core then s.setTile ctx k x1
        else (s.setTile ctx k x1).setCmd id (some { c with fields := [1, ctx, k] })

/-- DRAIN_ARRIVAL: a drain in the peer form that has left its tile. -/
def drainArrival (s : State) (id : Nat) : State :=
  match s.cmds.get id with
  | none => s
  | some c =>
    match c.i with
    | .xdrain _ _ _ _ _ => if c.started && peerForm (c.vals.headD 0) then s.drainArrives id c else s
    | _ => s

/-- How a matrix command's descriptor is read. -/
def matrixDescribe (c : Cmd) : Describe :=
  match c.i with
  | .mma _ _ _ _ _ => describeMma false
  | .mmas _ _ _ _ _ => describeMma true
  | .xld _ _ _ _ _ => describeTile true
  | .xst _ _ _ _ _ => describeTile false
  | .xdrain _ _ _ _ _ => describeDrain
  | _ => describeNone

/-- An MMA or MMAS. -/
def isMma (c : Cmd) : Bool :=
  match c.i with
  | .mma _ _ _ _ _ | .mmas _ _ _ _ _ => true
  | _ => false

/-- The array is free for a command: it has power, and no older MMA of the core is still to be performed (R226, R327). -/
def arrayFree (s : State) (id core : Nat) : Bool :=
  !(s.core core).arrayOff && !(s.cmdsOf (.matrix core)).any (fun e =>
    e.1 < id && isMma e.2 && e.2.fault.isNone && !s.heldBehind e.2.thr e.1)

/-- A matrix command is performed in its tile's order (R327). -/
def performMatrix (s : State) (id mismatches : Nat) (c : Cmd) : State :=
  match c.i with
  | .mma _ _ _ _ _ => if s.arrayFree id c.core then s.mmaDone id c false mismatches else s
  | .mmas _ _ _ _ _ => if s.arrayFree id c.core then s.mmaDone id c true mismatches else s
  | .xzero _ =>
    let ctx := s.cmdCtx c
    let x := s.tile ctx c.mark
    (s.setTile ctx c.mark { x with elems := {}, bad := {}, fail := false }).endCmd id c
  | .xld _ _ _ _ _ => s.xldDone id c
  | .xst _ _ _ _ _ =>
    let x := s.tile (s.cmdCtx c) c.mark
    s.xstDone id c x.elems x.bad
  | .xdrain _ _ _ _ _ =>
    if !c.started then s.drainCopy id c
    else if peerForm (c.vals.headD 0) then s
    else s.xstDone id c c.buf c.bufBad
  | _ => s

/-- MATRIX_COMMAND_DONE: a command of a matrix queue is performed, or its descriptor is read once nothing holds it back. -/
def matrixDone (s : State) (id mismatches : Nat) : State :=
  match s.cmds.get id with
  | none => s
  | some c =>
    match c.eng with
    | .matrix _ =>
      if c.fault.isSome ∨ s.resultHeld id then s
      else if !c.ready then (if s.heldBehind c.thr id then s else s.describe id c (matrixDescribe c))
      else if !c.started && (s.tileBusy (s.cmdCtx c) c.mark id || !s.cmdMayRead id c) then s
      else s.performMatrix id mismatches c
    | _ => s

/-- A tile that is stored to memory is written step by step. -/
def matrixAhead (s : State) (id : Nat) : State :=
  match s.cmds.get id with
  | none => s
  | some c =>
    let x := s.tile (s.cmdCtx c) c.mark
    if c.fault.isSome ∨ s.resultHeld id ∨ !c.ready then s
    else match c.i with
      | .xst _ _ _ _ _ =>
        if s.tileBusy (s.cmdCtx c) c.mark id || !s.cmdMayRead id c then s else s.putAhead id c (tilePuts c x.elems x.bad)
      | .xdrain _ _ _ _ _ =>
        if !c.started || peerForm (c.vals.headD 0) then s else s.putAhead id c (tilePuts c c.buf c.bufBad)
      | _ => s

/-- ARRAY_POWER_DOWN and ARRAY_WAKE (R226). -/
def arrayDown (s : State) (core : Nat) : State :=
  if (s.core core).arrayUsed + 65536 ≤ s.cycle ∧ !(s.cmdsOf (.matrix core)).any (fun e => isMma e.2) then
    s.modCore core (fun c => { c with arrayOff := true })
  else s

/-- An array that has powered down wakes for a command; at most 8 of a die's begin to within 64 cycles. -/
def arrayUp (s : State) (core : Nat) : State :=
  let recent := (s.die (coreDie core)).wakes.filter (fun c => s.cycle < c + 64)
  if !(s.cmdsOf (.matrix core)).any (fun e => isMma e.2) ∨ ((s.core core).arrayOff ∧ 8 ≤ recent.length) then s
  else
    let s1 := if (s.core core).arrayOff then s.modDie (coreDie core) (fun d => { d with wakes := recent ++ [s.cycle] }) else s
    s1.modCore core (fun c => { c with arrayOff := false, arrayUsed := s.cycle })

end State

/-- DRAIN_ARRIVAL (R335–R337). -/
def execDrainArrival (idx : Nat) (s : State) : Out := .next (s.drainArrival idx)

/-- MATRIX_COMMAND_DONE (R327, R329, R332, R334). -/
def execMatrixCommandDone (idx mismatches : Nat) (s : State) : Out :=
  .next (match s.cmds.get idx with
    | some c => s.walking (coreDie c.core) idx (fun s => s.matrixDone idx mismatches)
    | none => s)

def execArrayPowerDown (core : Nat) (s : State) : Out := .next (s.arrayDown core)
def execArrayWake (core : Nat) (s : State) : Out := .next (s.arrayUp core)

end Sys2Proof.Machine
end

