-- ==== Sys2Proof/Machine/Streamer.lean ====
section
/-! DEFINITION. The streamer commands (R338–R343): their checks at issue, their descriptors, the copies, and completion with
STATUS, tag and flag. -/

namespace Sys2Proof.Machine

/-- A tag word's reserved bits are zero and its core is accepted by a test (R338, R354). -/
def tagWordOk (w : Word) (ok : Nat → Bool) : Bool := w.toNat < 2 ^ 15 && ok (cut w.toNat 7 8)

namespace State

/-- The context whose tags a command of a kernel sets on a core (R59, R338).  Where several contexts of the process lie on the
core, those that hold a group of the kernel come first, resident ones before others (DESIGN CHOICE, log 11). -/
def kernelCtx (s : State) (k core : Nat) : Option Nat :=
  let kr := s.kernel k
  let mine := s.ctxs.cells.filter (fun e => e.2.core == core && e.2.asid == kr.asid && e.2.tenant == kr.tenant &&
    (match e.2.state with | .absent | .destroyed => false | _ => true))
  let here (c : Nat) : Bool := (s.core core).ctx0 == c || (s.core core).ctx1 == c
  let has (c : Nat) : Bool := kr.groups.any (fun g => (s.group g).ctx == c && holds (s.group g))
  let pick (p : Nat → Bool) : Option Nat := (mine.find? (fun e => p e.1)).map Prod.fst
  match pick (fun c => has c && here c) with
  | some c => some c
  | none => match pick has with
    | some c => some c
    | none => match pick here with
      | some c => some c
      | none => pick (fun _ => true)

/-- A tag is set in a context, through the Gleaner when it is not in a bank (R59, R61, R81, R382). -/
def setTagIn (s : State) (c n : Nat) : State := s.setTags c (BitVec.ofNat 64 (2 ^ n))

/-- The context in which a command's tag is to be set: none when no tag is asked for, or no context holds it. -/
def tagPlace (s : State) (c : Cmd) : Option Nat :=
  if c.tag.getLsbD 6 then none else s.kernelCtx c.kernel (cut c.tag.toNat 7 8)

/-- The command's tag is set. -/
def setCmdTag (s : State) (c : Cmd) : State :=
  match s.tagPlace c with
  | none => s
  | some x => (s.passEpoch (engAgent c.eng) (cut c.tag.toNat 7 8)).setTagIn x (cut c.tag.toNat 0 6)

end State

/-! Descriptors (R339). -/

/-- The fields of every descriptor that its command reads: 8-byte fields at 0, 8 and 0x10, 4-byte fields from 0x10 to 0x2C,
STATUS's address and SFLAGS. -/
def strmFields (va : Nat) (b : List Byte) : List Nat :=
  [fieldAt b 0 8, fieldAt b 8 8, fieldAt b 0x10 8] ++ (List.range 8).map (fun i => fieldAt b (0x10 + 4 * i) 4) ++
  [va + 0x38, fieldAt b 0x3C 4]

namespace Cmd

def f8 (c : Cmd) (i : Nat) : Nat := c.fields.getD i 0
/-- The 4-byte field at 0x10 + 4i. -/
def f4 (c : Cmd) (i : Nat) : Nat := c.fields.getD (3 + i) 0
def statusVa (c : Cmd) : Nat := c.fields.getD 11 0
def sflags (c : Cmd) : Nat := c.fields.getD 12 0

end Cmd

/-- SFLAGS: LEVEL not 3, SCOPE 1–5 for SCOPY and SFILL and 0 otherwise, the rest zero (R339). -/
def sflagsOk (w : Nat) (hasScope : Bool) : Bool :=
  w % 4 != 3 && w < 32 && (if hasScope then 1 ≤ w / 4 && w / 4 ≤ 5 else w / 4 == 0)

/-- The bytes from an offset up to STATUS are zero. -/
def restZero (b : List Byte) (o : Nat) : Bool := ((b.drop o).take (0x38 - o)).all (· == 0)

/-- The pairs of tags that STREAM converts (R340). -/
def streamPair (a b : Nat) : Bool :=
  a == b || a == 1 || (b == 1 && ((2 ≤ a && a ≤ 6) || a == 0x0A || a == 0x0B))

/-- An origin of a record in whole blocks (log 15). -/
def wholeBlock (t : Tsr) (o : Nat) : Bool := !State.blockTag t.tag || o % 32 == 0

/-- The rules of R339–R341 for each command. -/
def strmOk (i : Instr) (b : List Byte) (c : Cmd) (ts : List Tsr) : Bool :=
  let s := ts.headD default
  let d := (ts.drop 1).headD default
  match i with
  | .stream _ _ _ _ =>
    sflagsOk c.sflags false && restZero b 0x30 && s.rank == d.rank && s.tile == d.tile && streamPair s.tag d.tag &&
    wholeBlock s (c.f4 0) && wholeBlock d (c.f4 4)
  | .streamg _ _ _ _ =>
    sflagsOk c.sflags false && restZero b 0x20 && s.rank == 2 && d.rank == 2 && s.tag == d.tag && s.extent 0 == d.extent 0 &&
    (c.f4 2 == 0 || c.f4 3 + c.f4 2 ≤ d.extent 1)
  | .scopy _ _ _ _ => sflagsOk c.sflags true && restZero b 0x18 && c.f8 2 ≤ 2 ^ 40
  | .binscat _ _ _ _ => sflagsOk c.sflags false && restZero b 0x24 && c.f4 4 < c.f4 3
  | .sfill _ _ _ _ => sflagsOk c.sflags true && restZero b 0x18
  | _ => false

/-- How many tensor records a command's descriptor names. -/
def strmTsrs (i : Instr) : Nat :=
  match i with
  | .stream _ _ _ _ | .streamg _ _ _ _ => 2
  | .binscat _ _ _ _ => 1
  | _ => 0

/-- Reading a streamer descriptor, values [VA].  What lies outside every space ends the command at its completion, as a fault
that cannot be resolved does (R342). -/
def describeStrm : State.Describe := fun s c =>
  let va := c.vals.headD 0
  let lost (c : Cmd) : Except EFault (State × Option Cmd) := .ok (s, some { c with mark := 1 })
  match s.engRecord c (BitVec.ofNat 64 va) with
  | .error (.page f v) => .error (.page f v)
  | .error _ => lost c
  | .ok (s1, none) => .ok (s1, none)
  | .ok (s1, some b) =>
    let c1 := { c with fields := strmFields va b }
    match s1.engTsrs c1 (((c1.fields.take (strmTsrs c.i))).map (BitVec.ofNat 64)) with
    | .error (.page f v) => .error (.page f v)
    | .error _ => lost c1
    | .ok (s2, none) => .ok (s2, none)
    | .ok (s2, some ts) =>
      if !strmOk c.i b c1 ts then .ok (s2, none)
      else
        let sc := match ts with | [] => c1.sflags / 4 | t :: _ => t.scope
        let sr := match c.i with | .stream _ _ _ _ => ((ts.drop 1).headD default).sr | _ => false
        let r := s2.takeStep { c1 with tsrs := ts, scope := sc } sr
        .ok (r.1, some r.2)

/-- A STRM command at issue (R338). -/
def strm (i : Instr) (a : BitVec 4) (b : BitVec 6) (f : BitVec 1) (o : BitVec 2) (s : State) (t : Nat) : TRes :=
  s.operands t [b.toNat] [] none noCheck (fun s vs =>
    let x := s.thr t
    let cl := coreCluster (s.coreOf t)
    let w := vs.headD 0
    if !(s.group x.group).producer then .trap (trapOf .rights)
    else if !tagWordOk w (fun c => coreCluster c == cl) then .trap (trapOf .desc)
    else if s.badAddress t (x.rdA a.toNat) then .trap (trapAt .address (x.rdA a.toNat))
    else match s.cmdHinder t (.streamer cl) 64 (x.flagOf f) with
      | some r => r
      | none =>
        .done (s.accept { s.newCmd t (.streamer cl) i [(x.rdA a.toNat).toNat] (x.flagOf f) o with tag := w } describeStrm) none)

def execStream (a : BitVec 4) (b : BitVec 6) (f : BitVec 1) (o : BitVec 2) (s : State) : Out :=
  s.run (.stream a b f o) false (strm (.stream a b f o) a b f o)
def execStreamg (a : BitVec 4) (b : BitVec 6) (f : BitVec 1) (o : BitVec 2) (s : State) : Out :=
  s.run (.streamg a b f o) false (strm (.streamg a b f o) a b f o)
def execScopy (a : BitVec 4) (b : BitVec 6) (f : BitVec 1) (o : BitVec 2) (s : State) : Out :=
  s.run (.scopy a b f o) false (strm (.scopy a b f o) a b f o)
def execBinscat (a : BitVec 4) (b : BitVec 6) (f : BitVec 1) (o : BitVec 2) (s : State) : Out :=
  s.run (.binscat a b f o) false (strm (.binscat a b f o) a b f o)
def execSfill (a : BitVec 4) (b : BitVec 6) (f : BitVec 1) (o : BitVec 2) (s : State) : Out :=
  s.run (.sfill a b f o) false (strm (.sfill a b f o) a b f o)

/-! The copies.  A command's rows are begun one after another; each gives the writes that it makes. -/

/-- A copy under way: the state after the writes that were performed, the command with those still to be made, and a failure if one
stopped it. -/
structure Copied where
  st : State
  cmd : Cmd
  stop : Option EFault := none

/-- A row is begun: what it writes, and what was met in its source. -/
def Copied.begin_ (a : Copied) (s : State) (ps : List Put) (bad range : Bool) : Copied :=
  { st := s, cmd := { a.cmd with rows := a.cmd.rows + 1, todo := ps, sawBad := a.cmd.sawBad || bad, sawRange := a.cmd.sawRange || range } }

def Copied.fail (a : Copied) (s : State) (e : EFault) : Copied := { a with st := s, stop := some e }

/-- The higher indices of a tile's rows, in ascending linear order (R326). -/
def rowIndices (t : Tsr) : List (List Nat) :=
  let n (d : Nat) : List Nat := if d < t.rank then List.range (t.tileAt d) else [0]
  (n 3).flatMap (fun i3 => (n 2).flatMap (fun i2 => (n 1).map (fun i1 => [i1, i2, i3])))

/-- A position lies within a record's extents. -/
def inExtent (t : Tsr) (ix : List Nat) : Bool := (List.range t.rank).all (fun d => ix.getD d 0 < t.extent d)

/-- A source element: its bits, its block's scale and its poison; beyond the extent it reads as zero (R340). -/
def sourceElem (s : State) (c : Cmd) (t : Tsr) (ix : List Nat) : Except EFault (State × Nat × Nat × Bool) :=
  if !inExtent t ix then .ok (s, 0, 0, false)
  else match s.elemBits c t ix with
    | .error e => .error e
    | .ok (s1, b, p) =>
      match s1.elemScale c t ix with
      | .error e => .error e
      | .ok (s2, sc, q) => .ok (s2, b, if State.blockTag t.tag then sc else 0, p || q)

/-- One row of a tile converted: es are the source elements, base the linear index of its first one. -/
def convertRow (c : Cmd) (src dst : Tsr) (es : List (Nat × Nat × Bool)) (base i0 : Nat) (ix : List Nat) : List Put :=
  let el (j : Nat) : Nat × Nat × Bool := es.getD j (0, 0, false)
  let val (j : Nat) : Val := elemExact src.tag (el j).1 127
  if State.blockTag dst.tag then
    (List.range (es.length / 32)).filterMap (fun q =>
      let js := (List.range 32).map (· + 32 * q)
      if !inExtent dst ((i0 + 32 * q) :: ix) then none
      else
        let r := if src.tag = dst.tag then (js.map (fun j => (el j).1), (el (32 * q)).2.1)
          else toBlock dst.tag (fun e => c.random dst (base + 32 * q + e)) dst.sat (js.map val)
        some (State.blockPut dst ((i0 + 32 * q) :: ix) r.1 r.2 (js.any (fun j => (el j).2.2))))
  else
    (List.range es.length).filterMap (fun j =>
      if !inExtent dst ((i0 + j) :: ix) then none
      else
        let bits := if src.tag = dst.tag then (el j).1
          else if dst.tag = 1 then (f32.round .rne (val j)).1
          else (toTag dst.tag .rne (c.random dst (base + j)) dst.sat (val j)).1
        some (State.elemPut dst ((i0 + j) :: ix) bits (el j).2.2))

/-- STREAM (R340), all rows at once: the source tile is read before the destination is written (log 16). -/
def streamRows (a : Copied) : Copied :=
  let c := a.cmd
  let src := c.tsrs.headD default
  let dst := (c.tsrs.drop 1).headD default
  let w := src.tileAt 0
  let rows := rowIndices src
  let shift (o : Nat) (ix : List Nat) : List Nat :=
    (List.range 3).map (fun d => ix.getD d 0 + (if d + 1 < src.rank then c.f4 (o + d + 1) else 0))
  match eachE (fun s ix => eachE (fun s j => match sourceElem s c src ((c.f4 0 + j) :: shift 0 ix) with
      | .error e => .error e
      | .ok (s1, b, sc, p) => .ok (s1, (b, sc, p))) s (List.range w)) a.st rows with
  | .error e => a.fail a.st e
  | .ok (s1, es) =>
    a.begin_ s1 (((List.range rows.length).zip rows).flatMap (fun x =>
      convertRow c src dst (es.getD x.1 []) (x.1 * w) (c.f4 4) (shift 4 x.2))) (es.any (fun row => row.any (fun e => e.2.2))) false

/-- A row of STREAMG (R340). -/
def streamgRow (a : Copied) : Copied :=
  let c := a.cmd
  let r := c.rows
  let src := c.tsrs.headD default
  let dst := (c.tsrs.drop 1).headD default
  let w := src.extent 0
  match a.st.engRead c (BitVec.ofNat 64 (c.f8 2 + 4 * r)) 4 with
  | .error e => a.fail a.st e
  | .ok (s1, bs, p0) =>
    let i := leNat bs
    if i ≠ 0xFFFFFFFF ∧ src.extent 1 ≤ i then a.begin_ s1 [] p0 true
    else
      let read := if i = 0xFFFFFFFF then .ok (s1, (List.range w).map (fun _ => (0, 0, p0)))
        else eachE (fun s j => match sourceElem s c src [j, i] with
          | .error e => .error e
          | .ok (s1, b, sc, p) => .ok (s1, (b, sc, p || p0))) s1 (List.range w)
      match read with
      | .error e => a.fail s1 e
      | .ok (s2, es) => a.begin_ s2 (convertRow c src dst es 0 0 [c.f4 3 + r]) (es.any (fun e => e.2.2)) false

/-- Bytes with their poison as writes upward, word by word. -/
def wordPuts : Nat → DWord → List (Byte × Bool) → List Put
  | 0, _, _ => []
  | k + 1, va, bs =>
    if bs.isEmpty then []
    else
      let n := 4 - va.toNat % 4
      { va := va, bs := (bs.take n).map Prod.fst, bad := (bs.take n).any Prod.snd } :: wordPuts k (va + BitVec.ofNat 64 n) (bs.drop n)

/-- Source bytes with their poison. -/
def readBytes (s : State) (c : Cmd) (va n : Nat) : Except EFault (State × List (Byte × Bool)) :=
  eachE (fun s i => match s.engByte c (BitVec.ofNat 64 (va + i)) with
    | .error e => .error e
    | .ok (s1, b, p) => .ok (s1, (b, p))) s (List.range n)

/-- SCOPY (R340): every destination byte receives the source byte as it was before the command. -/
def scopyRows (a : Copied) : Copied :=
  match readBytes a.st a.cmd (a.cmd.f8 0) (a.cmd.f8 2) with
  | .error e => a.fail a.st e
  | .ok (s1, bs) => a.begin_ s1 (wordPuts (bs.length + 1) (BitVec.ofNat 64 (a.cmd.f8 1)) bs) (bs.any Prod.snd) false

/-- SFILL (R340). -/
def sfillRows (a : Copied) : Copied :=
  let c := a.cmd
  let pat := leBytes 8 (c.f8 2)
  let bs := (List.range (c.f8 1)).map (fun i => (pat.getD ((c.f8 0 + i) % 8) 0, false))
  a.begin_ a.st (wordPuts (bs.length + 1) (BitVec.ofNat 64 (c.f8 0)) bs) false false

/-- An atomic add of 1 to a counter at .l2 (R341): the old value. -/
def countUp (s : State) (c : Cmd) (va : Nat) : Except EFault (State × Nat) :=
  match s.engRead c.atL2 (BitVec.ofNat 64 va) 4 with
  | .error e => .error e
  | .ok (s1, bs, p) =>
    match s1.engWrite c.atL2 4 (BitVec.ofNat 64 va) (leBytes 4 (leNat bs + 1)) p with
    | (_, some e) => .error e
    | (s2, none) => .ok (s2, leNat bs)

/-- n free bytes: what a row beyond the source's extent gives, which the manual does not state (log 4). -/
def freeBytes : Nat → State → State × List (Byte × Bool)
  | 0, s => (s, [])
  | n + 1, s =>
    let r := s.draw
    let q := freeBytes n r.2
    (q.1, (r.1.truncate 8, false) :: q.2)

/-- A row's bytes of BINSCAT's source. -/
def rowOf (s : State) (c : Cmd) (t : Tsr) (r n : Nat) : Except EFault (State × List (Byte × Bool)) :=
  if (if t.rank = 1 then 1 else t.extent 1) ≤ r then .ok (freeBytes n s) else readBytes s c (t.rowAt [0, r]).toNat n

/-- A row copied to slot k of a bin. -/
def toBin (a : Copied) (s : State) (bin k : Nat) (bad : Bool) : Copied :=
  let c := a.cmd
  let t := c.tsrs.headD default
  let n := t.rowBytes (t.extent 0)
  match s.engRead c (BitVec.ofNat 64 (c.f8 2 + 16 + 16 * bin)) 8 with
  | .error e => a.fail s e
  | .ok (s1, bs, _) =>
    match rowOf s1 c t c.rows n with
    | .error e => a.fail s1 e
    | .ok (s2, row) => a.begin_ s2 (wordPuts (n + 1) (BitVec.ofNat 64 (leNat bs + k * n)) row) (bad || row.any Prod.snd) false

/-- The capacity of a bin. -/
def binCap (s : State) (c : Cmd) (bin : Nat) : Except EFault (State × Nat) :=
  match s.engRead c (BitVec.ofNat 64 (c.f8 2 + 16 + 16 * bin + 8)) 4 with
  | .error e => .error e
  | .ok (s1, bs, _) => .ok (s1, leNat bs)

/-- A row offered to a bin: the bin counts up, and the row goes there, or to what follows. -/
def offer (a : Copied) (s : State) (bin : Nat) (bad : Bool) (next : State → Copied) : Copied :=
  match countUp s a.cmd (a.cmd.f8 2 + 16 + 16 * bin + 12) with
  | .error e => a.fail s e
  | .ok (s1, old) =>
    match binCap s1 a.cmd bin with
    | .error e => a.fail s1 e
    | .ok (s2, cap) => if old < cap then toBin a s2 bin old bad else next s2

/-- A row of BINSCAT (R341). -/
def binscatRow (a : Copied) : Copied :=
  let c := a.cmd
  let obin := c.f4 4
  match a.st.engRead c (BitVec.ofNat 64 (c.f8 1 + 4 * c.rows)) 4 with
  | .error e => a.fail a.st e
  | .ok (s1, bs, p) =>
    offer a s1 (if c.f4 3 ≤ leNat bs then obin else leNat bs) p (fun s => offer a s obin p (fun s =>
      match countUp s c (c.f8 2) with
      | .error e => a.fail s e
      | .ok (s2, _) => a.begin_ s2 [] p false))

/-- How many rows a command begins, one by one or, where it reads its source as it was before the command, all at once. -/
def copyRows (c : Cmd) : Nat :=
  match c.i with
  | .streamg _ _ _ _ | .binscat _ _ _ _ => c.f4 2
  | .stream _ _ _ _ | .scopy _ _ _ _ | .sfill _ _ _ _ => 1
  | _ => 0

/-- The next row of a copy. -/
def nextRow (a : Copied) : Copied :=
  match a.cmd.i with
  | .stream _ _ _ _ => streamRows a
  | .streamg _ _ _ _ => streamgRow a
  | .scopy _ _ _ _ => scopyRows a
  | .binscat _ _ _ _ => binscatRow a
  | .sfill _ _ _ _ => sfillRows a
  | _ => a

/-- The writes still to be made are made. -/
def writeOut (a : Copied) : Copied :=
  if a.stop.isSome then a
  else
    let r := State.writeAll (fun s p => s.doPut a.cmd p) a.st a.cmd.todo
    { st := r.1, cmd := { a.cmd with todo := [] }, stop := r.2 }

/-- The copy of a command, from where it stands to its end. -/
def runStrm (s : State) (c : Cmd) : Copied :=
  (List.range (copyRows c - c.rows)).foldl (fun a _ => if a.stop.isSome then a else writeOut (nextRow a)) (writeOut { st := s, cmd := c })

namespace State

/-- STATUS is written at .sys, where the descriptor can be read. -/
def putStatus (s : State) (c : Cmd) (n : Nat) : State × Option EFault :=
  let va := BitVec.ofNat 64 (c.vals.headD 0)
  let readable : Bool := !c.fields.isEmpty || (match s.engRecord c va with | .ok (_, some _) => true | _ => false)
  if readable then s.engWrite { c with fields := (List.replicate 13 0) }.atSys 3 (va + 0x38) (leBytes 4 n) false else (s, none)

/-- The code of a copy that has run to its end: the first that applies, in the order of their numbers (log 17). -/
def statusOf (s : State) (a : Copied) : Nat :=
  if a.cmd.sawBad then 2 else if a.cmd.sawRange then 3
  else if !a.cmd.tag.getLsbD 6 ∧ (s.tagPlace a.cmd).isNone then 4 else 0

/-- STRM_FAULT (R342): the command ends with STATUS 1, its tag set and its flag down; what was written stays. -/
def strmFail (s : State) (id : Nat) (c : Cmd) (va : Option DWord) : State :=
  let s1 := if c.ready ∧ c.mark = 0 then (runStrm s c).st else s
  let s2 := s1.log { code := 0x0403, sev := 2, action := 3, eclass := 3, part := s.partOf (coreDie c.core),
                     einst := coreCluster c.core, va := va.map BitVec.toNat }
  (((s2.putStatus c 1).1).setCmdTag c).endCmd id c

/-- A streamer command is performed (R338–R342): STATUS, then the tag, then the flag; a fault leaves it waiting for the
attendant. -/
def strmDone (s : State) (id : Nat) (c : Cmd) : State :=
  let a := runStrm s c
  let stop := match a.stop with
    | some e => some e
    | none => (a.st.putStatus c (a.st.statusOf a)).2
  match stop with
  | some (.page f va) => s.cmdPageFault id c f va
  | some (.space va) => s.strmFail id c (some va)
  | some .poison => s.strmFail id c none
  | some .held => s
  | none => (((a.st.putStatus c (a.st.statusOf a)).1).setCmdTag c).endCmd id c

/-- STREAMER_COMMAND_DONE: one of the 8 commands that run completes. -/
def streamerDone (s : State) (cluster id : Nat) : State :=
  match s.cmds.get id with
  | none => s
  | some c =>
    if c.eng ≠ .streamer cluster ∨ c.fault.isSome then s
    else if !c.ready then (if s.heldBehind c.thr id then s else s.describe id c describeStrm)
    else if !(((s.cmdsOf c.eng).take 8).any (fun e => e.1 == id)) ∨ !s.cmdMayRead id c then s
    else if c.mark = 1 then s.strmFail id c none
    else s.strmDone id c

/-- The next write of a running copy is made ahead of the others, or its next row is begun, so that other accesses fall between them
(R109, R341); nothing where it fails. -/
def strmAhead (s : State) (id : Nat) (c : Cmd) : State :=
  match c.todo with
  | p :: r => match s.doPut c p with
    | (s1, none) => s1.setCmd id (some { c with todo := r })
    | (_, some _) => s
  | [] =>
    if copyRows c ≤ c.rows then s
    else
      let a := nextRow { st := s, cmd := c }
      if a.stop.isSome then s else a.st.setCmd id (some a.cmd)

/-- The same of an engine's command that may be performed now. -/
def copyAhead (s : State) (id : Nat) : State :=
  match s.cmds.get id with
  | none => s
  | some c =>
    match c.eng with
    | .streamer _ =>
      if c.fault.isSome ∨ !c.ready ∨ c.mark = 1 ∨ !(((s.cmdsOf c.eng).take 8).any (fun e => e.1 == id)) ∨ !s.cmdMayRead id c then s
      else s.inject (coreDie c.core) 1 (56 + coreCluster c.core % 7) id (fun t => t.cmds.get id != s.cmds.get id) (fun s => s.strmAhead id c)
    | .matrix _ => s.matrixAhead id
    | _ => s

end State

/-! Translation ahead (R134). -/

/-- A tile as its record's dimensions take it: where it begins and what it spans. -/
abbrev Box := List Nat × List Nat

/-- The tile that a command has in progress under its r-th record (R329, R334, R340); a gather's source is a row at a time. -/
def tileBox (c : Cmd) (r : Nat) (t : Tsr) : Box :=
  let f (i : Nat) : Nat := c.fields.getD i 0
  match c.i with
  | .stream _ _ _ _ => ((List.range t.rank).map (fun d => c.f4 (4 * r + d)), (c.tsrs.headD default).tile)
  | .streamg _ _ _ _ => if r = 0 then ([0, 0], [t.extent 0, 1]) else ([0, c.f4 3], [t.extent 0, c.f4 2])
  | .mma _ _ _ _ _ | .mmas _ _ _ _ _ => ([f 2, f r], [f 3, f (4 + r)])
  | _ => ((c.vals.drop 1).take 2, t.tile)

/-- The pages of 4 KiB that a tile's rows lie in, as far as the extents go. -/
def boxPages (t : Tsr) (b : Box) : List Nat :=
  let o (d : Nat) : Nat := b.1.getD d 0
  let n (d : Nat) : Nat := if d < t.rank then min (b.2.getD d 1) (t.extent d - o d) else 1
  (List.range (n 3)).flatMap (fun i3 => (List.range (n 2)).flatMap (fun i2 => (List.range (n 1)).flatMap (fun i1 =>
    let row := (t.rowAt [0, o 1 + i1, o 2 + i2, o 3 + i3]).toNat
    let lo := row + t.bitAt (o 0) / 8
    let hi := row + (t.bitAt (o 0 + n 0) + 7) / 8
    if n 0 = 0 then [] else (List.range ((hi - 1) / 4096 + 1 - lo / 4096)).map (· + lo / 4096))))

/-- The next tile in the order of the dimensions: dimension 0 moves on, and one that is past its extent starts again while the one
above it moves on. -/
def nextBox (t : Tsr) (b : Box) : Option Box :=
  let go (a : List Nat × Bool) (d : Nat) : List Nat × Bool :=
    let o := b.1.getD d 0 + (if a.2 then max 1 (b.2.getD d 1) else 0)
    if t.extent d ≤ o then (a.1 ++ [0], true) else (a.1 ++ [o], false)
  let r := (List.range t.rank).foldl go ([], true)
  if r.2 then none else some (r.1, b.2)

/-- The pages of up to n further tiles, until there are 16 of them. -/
def pagesOn (t : Tsr) (held : List Nat) : Nat → Box → List Nat → List Nat
  | 0, _, acc => acc
  | n + 1, b, acc =>
    if 16 ≤ acc.length then acc
    else match nextBox t b with
      | none => acc
      | some b1 => pagesOn t held n b1 (acc ++ ((boxPages t b1).filter (fun p => !held.contains p && !acc.contains p)).eraseDups)

/-- The pages beyond the tile in progress, at most 16 of them (R134); a record has fewer elements than 2^124, and so fewer tiles. -/
def aheadPages (t : Tsr) (b : Box) : List Nat := (pagesOn t (boxPages t b) (2 ^ 124) b []).take 16

namespace State

/-- The tile walker translates a page ahead: the walk sets A and never D, and one that faults leaves nothing (R134). -/
def tileAhead (s : State) (id r k : Nat) : State :=
  match s.cmds.get id with
  | none => s
  | some c =>
    match tileWalker c, c.tsrs[r]?, c.ready with
    | some cl, some t, true =>
      match (aheadPages t (tileBox c r t))[k]? with
      | none => s
      | some p =>
        let va := BitVec.ofNat 64 (4096 * p)
        if s.engPlace c.thr va != some .virt then s
        else match s.translateTile cl c.asid va.toNat .read with
          | .ok (s1, _) => s1
          | .error f => s.denied (cl / 7) c.asid va.toNat f
    | _, _, _ => s

end State

/-- STREAMER_COMMAND_DONE (R338). -/
def execStreamerCommandDone (cluster idx : Nat) (s : State) : Out := 
  .next (s.inject (cluster / 7) 1 (56 + cluster % 7) idx (fun t => t.cmds.get idx != s.cmds.get idx)
    (fun s => s.walking (cluster / 7) idx (fun s => s.streamerDone cluster idx)))

end Sys2Proof.Machine
end

