-- ==== Sys2Proof/Machine/Spe.lean ====
section
/-! DEFINITION. Standing products (10, R354–R358): BIND and its checks, the cut, ordinary settles and full computations of C,
status, failure, and the eviction of adaptations. -/

namespace Sys2Proof.Machine

namespace State

/-- The partition of a command. -/
def cmdPart (s : State) (c : Cmd) : Nat := s.partOf (coreDie c.core)

def binding (s : State) (p n : Nat) : Binding := (s.part p).bindings.get n

def setBinding (s : State) (p n : Nat) (b : Binding) : State :=
  s.modPart p (fun q => { q with bindings := q.bindings.set n b })

/-- The die whose SPE serves a binding number (R163). -/
def speDie (s : State) (p n : Nat) : Nat := let ds := s.diesOf p; ds.getD (n % max 1 ds.length) 0

/-- A command's result is written to its thread, unless the thread has exited (R48). -/
def cmdResult (s : State) (c : Cmd) (f : Thread → Thread) : State :=
  match (s.thr c.thr).run with
  | .exited | .free => s
  | _ => s.modThr c.thr f

end State

/-! The descriptor (R142, R143). -/

/-- The fields of a binding descriptor other than its four addresses of records. -/
def bindFields (b : List Byte) : Bool :=
  let j := fieldAt b 0x20 8
  let jdsp := fieldAt b 0x30 4 % 2 == 1
  canonical (BitVec.ofNat 64 j) && j % 8 == 0 && (!jdsp || j == 0) && fieldAt b 0x28 4 ≤ 16777216 &&
  fieldAt b 0x2C 4 ≤ 1048576 && fieldAt b 0x30 4 < 4 && fieldAt b 0x34 12 == 0

/-- The addresses of the records: C, A, B, and the base if there is one. -/
def bindVas (b : List Byte) : List DWord :=
  ([fieldAt b 0 8, fieldAt b 8 8, fieldAt b 0x10 8] ++ (if fieldAt b 0x18 8 = 0 then [] else [fieldAt b 0x18 8])).map (BitVec.ofNat 64)

/-- The rows of dimension 0 of a record of rank 2: first byte and length. -/
def tsrRows (t : Tsr) : List (Nat × Nat) :=
  (List.range (t.extent 1)).map (fun i => ((t.rowAt [0, i]).toNat, t.rowBytes (t.extent 0)))

/-- The storage spans at most 8 GiB from the word that holds BASE. -/
def spanOk (t : Tsr) : Bool :=
  let w0 := BitVec.ofNat 64 (t.base.toNat / 4 * 4)
  (List.range (t.extent 1)).all (fun i => (t.rowAt [0, i] - w0).toNat + t.rowBytes (t.extent 0) ≤ 2 ^ 33)

/-- The shape of the product: C, A, B and perhaps the base. -/
def bindTsrs (ts : List Tsr) : Bool :=
  match ts with
  | c :: a :: b :: r =>
    ts.all (fun t => t.okWithout && t.rank == 2 && canonical t.base && t.extent 0 ≤ 65536 && t.extent 1 ≤ 65536) &&
    a.extent 0 == b.extent 0 && c.extent 0 == b.extent 1 && c.extent 1 == a.extent 1 && c.tag == 1 &&
    r.all (fun t => t.tag == 1 && t.extent 0 == c.extent 0 && t.extent 1 == c.extent 1) &&
    a.tag != 0x0C && b.tag != 0x0C && spanOk a && spanOk b
  | _ => false

/-- n bytes cut at boundaries of 4 KiB. -/
def pageParts : Nat → Nat → Nat → List (Nat × Nat)
  | 0, _, _ => []
  | k + 1, va, n =>
    if n = 0 then []
    else let m := min n (4096 - va % 4096); (va, m) :: pageParts k ((va + m) % 2 ^ 64) (n - m)

/-- Two lists of pinned pages touch common bytes. -/
def meets (xs ys : List Watch) : Bool := xs.any (fun x => ys.any (fun y => x.pa < y.pa + y.len && y.pa < x.pa + x.len))

/-- The pages of a region of a binding. -/
def Binding.region (b : Binding) (r : Nat) : List Watch := b.watch.filter (fun w => w.region == r)

/-- The regions of one binding do not overlap one another (R143). -/
def apart (b : Binding) : Bool :=
  (List.range 5).all (fun i => (List.range i).all (fun j => !meets (b.region i) (b.region j)))

namespace State

/-- The pages of rows of a region, translated with what the region needs; what a failed walk leaves where a page is not mapped so. -/
def mapRows (s : State) (c : Cmd) (region : Nat) (need : Need) (rows : List (Nat × Nat)) : Except State (State × List Watch) :=
  (rows.flatMap (fun r => pageParts (r.2 / 4096 + 2) r.1 r.2)).foldl (fun acc p =>
    match acc with
    | .error s => .error s
    | .ok (s, ws) =>
      if !canonical (BitVec.ofNat 64 p.1) then .error s
      else match s.dieAddr (coreDie c.core) c.asid p.1 need with
        | .error s1 => .error s1
        | .ok (s1, pa) => .ok (s1, ws ++ [{ region := region, pa := pa, va := p.1, len := p.2 }])) (.ok (s, []))

/-- The regions one after another. -/
def mapAll (s : State) (c : Cmd) : List (Nat × Need × List (Nat × Nat)) → Except State (State × List Watch)
  | [] => .ok (s, [])
  | (r, n, rows) :: rest =>
    match s.mapRows c r n rows with
    | .error s1 => .error s1
    | .ok (s1, ws) =>
      match mapAll s1 c rest with
      | .error s2 => .error s2
      | .ok (s2, vs) => .ok (s2, ws ++ vs)

/-- C overlaps no operand of another binding of the partition, and A and B the C of none (R143). -/
def clearOf (s : State) (p : Nat) (b : Binding) : Bool :=
  (s.part p).bindings.cells.all (fun e =>
    e.2.state == .free || (!meets (b.region 2) (e.2.region 0 ++ e.2.region 1) &&
      !meets (e.2.region 2) (b.region 0 ++ b.region 1)))

/-- The binding that a descriptor's fields and records describe, with its pages (R142, R143). -/
def bindMake (s : State) (c : Cmd) (d : List Byte) (ts : List Tsr) : State × Option Binding :=
  let cT := ts.headD default
  let aT := ts.getD 1 default
  let bT := ts.getD 2 default
  let base := ts[3]?
  let flags := fieldAt d 0x30 4
  let jcap := fieldAt d 0x28 4
  let journal := fieldAt d 0x20 8
  let recon := fieldAt d 0x2C 4
  let jrows := if flags % 2 = 1 ∨ jcap = 0 then [] else [(journal, 8 * jcap)]
  let brows := match base with | some t => tsrRows t | none => []
  match s.mapAll c [(0, .read, tsrRows aT), (1, .read, tsrRows bT), (2, .both, tsrRows cT), (3, .both, brows), (4, .write, jrows)] with
  | .error s1 => (s1, none)
  | .ok (s1, ws) =>
    let b : Binding := { asid := c.asid, cT := cT, aT := aT, bT := bT, baseT := base, journal := BitVec.ofNat 64 journal,
                         jdsp := flags % 2 == 1, jcap := jcap, recon := if recon = 0 then 64 else recon, adapt := flags / 2 == 1,
                         watch := ws }
    (s1, if apart b && s1.clearOf (s.cmdPart c) b && !ws.any (fun w => w.region != 4 && s1.shared w.pa) then some b else none)

/-- Reading a binding descriptor and its records: the binding, or none where a rule is broken. -/
def bindRead (s : State) (c : Cmd) : Except EFault (State × Option Binding) :=
  match s.engRecord c (BitVec.ofNat 64 (c.vals.headD 0)) with
  | .error e => .error e
  | .ok (s1, none) => .ok (s1, none)
  | .ok (s1, some d) =>
    if !bindFields d || !(bindVas d).all canonical then .ok (s1, none)
    else match eachE (fun s va => s.engRecord c va) s1 (bindVas d) with
      | .error e => .error e
      | .ok (s2, rs) =>
        let ts := rs.filterMap (fun r => r.map parseTsr)
        if ts.length ≠ (bindVas d).length ∨ !bindTsrs ts then .ok (s2, none) else .ok (s2.bindMake c d ts)

/-- A frame of the regions takes part in a migration. -/
def unsettled (s : State) (b : Binding) : Bool :=
  b.watch.any (fun w => let f := s.frame (w.pa / frameBytes); f.state == .migrating || f.filling)

/-- A binding's number, its slot and the pinning of its frames are free (R158).  The C of an EVICTED adaptation stays unmapped, and its
value is gone with its frames (DESIGN CHOICE, log 34). -/
def freeBinding (s : State) (p n : Nat) : State :=
  ((pinFrames (s.binding p n)).foldl (fun s f => s.unpinOne f) s).setBinding p n {}

/-- Adaptation slots in use (R161). -/
def slotsUsed (s : State) (p : Nat) : Nat :=
  ((s.part p).bindings.cells.filter (fun e => e.2.adapt && e.2.state != .free && e.2.state != .admitting)).length

/-- An ADAPT BIND waits in ADMITTING (R157): no slot is free, or an older BIND waits for one. -/
def mustWait (s : State) (p : Nat) : Bool :=
  256 ≤ s.slotsUsed p || (s.part p).bindings.cells.any (fun e => e.2.state == .admitting)

/-- THE CUT (R115, R147): the captures so far are the settling epoch.  Cut markers are on their way to the home slices; until a slice
makes the cut, writes there still come before it. -/
def cutBinding (s : State) (p n : Nat) (st : BState) (full : Bool) : State :=
  let b := s.binding p n
  let e := ((s.part p).cuts + 1) % 65536
  let s2 := s.setBinding p n { b with state := st, full := full, old := b.caps, caps := {}, oldOvf := b.ovf, ovf := false,
                                       consuming := b.outstanding, wrote := [], cutAt := e }
  (s2.modPart p (fun q => { q with cuts := q.cuts + 1 })).learn (engAgent (.spe (s.speDie p n))) e

/-- BIND is accepted by the SPE (R143, R157, R355). -/
def bindAccept (s : State) (id : Nat) (c : Cmd) : State :=
  let p := s.cmdPart c
  match s.bindRead c with
  | .error (.page f va) => s.cmdPageFault id c f va
  | .error e => s.endTrap id c e.trap
  | .ok (s1, none) => s1.endTrap id c (trapOf .desc)
  | .ok (s1, some b) =>
    if s1.unsettled b then s
    else match (List.range 4096).find? (fun n => (s1.binding p n).state == .free) with
      | none => (s1.cmdResult c (fun x => x.wrG (match c.i with | .bind d _ _ _ => d.toNat | _ => 0) 0xFFFFFFFF)).endCmd id c
      | some n =>
        let wait := b.adapt && s1.mustWait p
        let s2 := (pinFrames b).foldl (fun s f => s.pinOne f) s1
        let s3 := s2.setBinding p n { b with state := .admitting, since := id }
        let s4 := s3.setCmd id (some { c with started := true, mark := n + 1, eng := .spe (s.speDie p n), ready := true })
        if wait then s4 else s4.cutBinding p n .computing true

/-- BIND is taken when nothing holds it back. -/
def bindTry (s : State) (id : Nat) : State :=
  match s.cmds.get id with
  | some c => if c.started ∨ c.fault.isSome ∨ !s.cmdMayRead id c then s else s.bindAccept id c
  | none => s

end State

/-- BIND (R355). -/
def execBind (d : BitVec 6) (a : BitVec 4) (f : BitVec 1) (o : BitVec 2) (s : State) : Out :=
  s.run (.bind d a f o) false (fun s t =>
    let va := (s.thr t).rdA a.toNat
    let e : Eng := .spe (coreDie (s.coreOf t))
    if !needFlag (s.thr t) f then illegal
    else if !canonical va || va.toNat % 64 != 0 then .trap (trapAt .address va)
    else match s.cmdHinder t e 64 ((s.thr t).flagOf f) with
      | some r => r
      | none =>
        let c := { s.newCmd t e (.bind d a f o) [va.toNat] ((s.thr t).flagOf f) o with scope := 4, tag := 64 }
        .done ((s.enter c).bindTry s.nextId) none)

/-- A command that names its binding by number, with the g field of its tag word, 0 for none (R354). -/
def speCmd (i : Instr) (required : Bool) (f : BitVec 1) (o : BitVec 2) (b tagG : BitVec 6) (s : State) (t : Nat) : TRes :=
  if required && !needFlag (s.thr t) f then illegal
  else s.operands t [b.toNat, tagG.toNat] [] none noCheck (fun s vs =>
    let n := (vs.headD 0).toNat
    let p := s.partOf (coreDie (s.coreOf t))
    let w := if tagG = 0 then 64 else (vs.drop 1).headD 0
    let e : Eng := .spe (s.speDie p n)
    if tagG ≠ 0 ∧ !tagWordOk w (fun k => k < 224 && s.partOf (coreDie k) == p) then .trap (trapOf .desc)
    else match s.cmdHinder t e 64 ((s.thr t).flagOf f) with
      | some r => r
      | none =>
        let c := { s.newCmd t e i [n] ((s.thr t).flagOf f) o with scope := 4, tag := w, mark := n + 1 }
        .done (s.enter c) none)

/-- UNBIND (R356). -/
def execUnbind (b : BitVec 6) (f : BitVec 1) (o : BitVec 2) (s : State) : Out :=
  s.run (.unbind b f o) false (speCmd (.unbind b f o) false f o b 0)
/-- SETTLE (R357). -/
def execSettle (d b : BitVec 6) (f : BitVec 1) (o : BitVec 2) (s : State) : Out :=
  s.run (.settle d b f o) false (speCmd (.settle d b f o) false f o b d)
/-- RECOMP (R357). -/
def execRecomp (d b : BitVec 6) (f : BitVec 1) (o : BitVec 2) (s : State) : Out :=
  s.run (.recomp d b f o) false (speCmd (.recomp d b f o) false f o b d)
/-- STALE (R358). -/
def execStale (d b : BitVec 6) (f : BitVec 1) (s : State) : Out :=
  s.run (.stale d b f) false (speCmd (.stale d b f) true f 0 b 0)
/-- BSTAT (R358). -/
def execBstat (d b : BitVec 6) (f : BitVec 1) (s : State) : Out :=
  s.run (.bstat d b f) false (speCmd (.bstat d b f) true f 0 b 0)

/-! The elements of a binding. -/

/-- The rows of an operand that captured words touch (R144): with an element or a block scale in the word. -/
def dirtyRows (t : Tsr) (caps : Tab (Option Capture)) (r : Nat) : List Nat :=
  let w0 := BitVec.ofNat 64 (t.base.toNat / 4 * 4)
  let ks := (caps.keys.filter (fun k => k / 2 ^ 31 == r)).map (fun k => 4 * (k % 2 ^ 31))
  (List.range (t.extent 1)).filter (fun i =>
    let a := (t.rowAt [0, i] - w0).toNat
    ks.any (fun k => a < k + 4 && k < a + t.rowBytes (t.extent 0)))

/-- An SPE command that changes C. -/
def computes (c : Cmd) : Bool :=
  match c.i with
  | .bind _ _ _ _ | .settle _ _ _ _ | .recomp _ _ _ _ => true
  | _ => false

namespace State

/-- A physical word as the SPE reads it: poisoned when it is marked, or when its home is lost (R221, R224). -/
def homeBad (s : State) (die pa : Nat) : Bool := s.poison.get (pa / 4) || s.homeGone die pa

/-- A byte of an operand at the cut, or with its old value for the settling epoch (R148). -/
def opndByte (s : State) (die : Nat) (b : Binding) (r : Nat) (old : Bool) (va : Nat) : Byte × Bool :=
  let key := r * 2 ^ 31 + wordIndex (b.opnd r).base va
  let after := b.caps.get key
  match (if old && (b.old.get key).isSome then b.old.get key else after) with
  | some c => (byteOf c.old (va % 4), c.bad || s.entryBad c.entry)
  | none =>
    match pinnedPa b r va with
    | some pa => (byteOf (s.wordVal (pa / 4)) (pa % 4), s.homeBad die pa || b.lost.contains (va / 128))
    | none => (0, true)

/-- A field of n bits at a bit of an operand's row. -/
def opndBits (s : State) (die : Nat) (b : Binding) (r : Nat) (old : Bool) (row : DWord) (bit n : Nat) : Nat × Bool :=
  let bs := (List.range ((bit % 8 + n + 7) / 8)).map (fun i =>
    s.opndByte die b r old ((row + BitVec.ofNat 64 (bit / 8 + i)).toNat))
  (leNat (bs.map Prod.fst) / 2 ^ (bit % 8) % 2 ^ n, bs.any Prod.snd)

/-- Element k of row i of an operand, its scale applied exactly. -/
def opndVal (s : State) (die : Nat) (b : Binding) (r : Nat) (old : Bool) (k i : Nat) : Val × Bool :=
  let t := b.opnd r
  let row := t.rowAt [0, i]
  let e := s.opndBits die b r old row (t.bitAt k) (tagWidth t.tag)
  let sc := if blockTag t.tag then s.opndBits die b r old row (8 * (k / 32 * t.blockBytes + 4 * tagWidth t.tag)) 8 else (127, false)
  (elemExact t.tag e.1 sc.1, e.2 || sc.2)

/-- The physical address of element j of row i of C (region 2) or of the base (region 3). -/
def elemPa (b : Binding) (region : Nat) (t : Tsr) (j i : Nat) : Nat :=
  (pinnedPa b region ((t.rowAt [0, i] + BitVec.ofNat 64 (4 * j)).toNat)).getD 0

/-- Element j of row i of C or of the base at its home. -/
def homeElem (s : State) (die : Nat) (b : Binding) (region : Nat) (t : Tsr) (j i : Nat) : Val × Bool :=
  let pa := elemPa b region t j i
  (f32.decode (wordOf (s.homeLoad pa 4)).toNat,
    s.homeBad die pa || b.lost.contains ((t.rowAt [0, i] + BitVec.ofNat 64 (4 * j)).toNat / 128))

/-- An exact sum, rounded once; zero is +0 (R149, R150). -/
def roundOnce (v : Val) : Word := if v.isZero then 0 else BitVec.ofNat 32 (f32.round .rne v).1

/-- Element (i, j) of C in full: base + Σ A·B at the cut (R150). -/
def fullElem (s : State) (die : Nat) (b : Binding) (i j : Nat) : Word × Bool :=
  let base : Val × Bool := match b.baseT with
    | some t => s.homeElem die b 3 t j i
    | none => (.fin false 0 0, false)
  let r := (List.range (b.aT.extent 0)).foldl (fun acc k =>
    let x := s.opndVal die b 0 false k i
    let y := s.opndVal die b 1 false k j
    (acc.1.add .rne (x.1.mul y.1), acc.2 || x.2 || y.2)) base
  (roundOnce r.1, r.2)

/-- Element (i, j) of C corrected by a settle (R149); in full where an infinity or a NaN is met (R150). -/
def settleElem (s : State) (die : Nat) (b : Binding) (i j : Nat) : Word × Bool :=
  let c := s.homeElem die b 2 b.cT j i
  let fin (v : Val) : Bool := match v with | .fin _ _ _ => true | _ => false
  let r := (List.range (b.aT.extent 0)).foldl (fun (acc : Val × Bool × Bool) k =>
    let x := s.opndVal die b 0 false k i
    let y := s.opndVal die b 1 false k j
    let x0 := s.opndVal die b 0 true k i
    let y0 := s.opndVal die b 1 true k j
    let dx := x.1.add .rne x0.1.neg
    let dy := y.1.add .rne y0.1.neg
    let v := ((acc.1.add .rne (dx.mul y.1)).add .rne (x.1.mul dy)).add .rne (dx.mul dy).neg
    (v, acc.2.1 || x.2 || y.2 || x0.2 || y0.2, acc.2.2 && fin x.1 && fin y.1 && fin x0.1 && fin y0.1)) (c.1, c.2, fin c.1)
  if r.2.2 then (roundOnce r.1, r.2.1) else let q := s.fullElem die b i j; (q.1, q.2 || r.2.1)

/-- The elements that the running command of a binding writes, row and column, with what it writes. -/
def speElems (s : State) (p n : Nat) : List (Nat × Nat × Word × Bool) :=
  let b := s.binding p n
  let die := s.speDie p n
  let rows := if b.full then [] else dirtyRows b.aT b.old 0
  let cols := if b.full then [] else dirtyRows b.bT b.old 1
  (List.range (b.cT.extent 1)).flatMap (fun i => (List.range (b.cT.extent 0)).filterMap (fun j =>
    if b.wrote.contains (i * 65536 + j) then none
    else if b.full then (let q := s.fullElem die b i j; some (i, j, q.1, q.2))
    else if rows.contains i || cols.contains j then (let q := s.settleElem die b i j; some (i, j, q.1, q.2))
    else none))

/-- The bytes that the running command of a binding reads and writes in a region: the rows of operands that its products take, the
elements of C, the base for a full computation, and the journal entries of the settling epoch (R148–R150). -/
def speRows (b : Binding) (region : Nat) : List (Nat × Nat) :=
  let rows := dirtyRows b.aT b.old 0
  let cols := dirtyRows b.bT b.old 1
  let row (t : Tsr) (i : Nat) : Nat × Nat := ((t.rowAt [0, i]).toNat, t.rowBytes (t.extent 0))
  match region with
  | 0 => if b.full || !cols.isEmpty then tsrRows b.aT else rows.map (row b.aT)
  | 1 => if b.full || !rows.isEmpty then tsrRows b.bT else cols.map (row b.bT)
  | 2 => if b.full then tsrRows b.cT
    else (List.range (b.cT.extent 1)).flatMap (fun i =>
      if rows.contains i then [row b.cT i] else cols.map (fun j => ((b.cT.rowAt [0, i]).toNat + 4 * j, 4)))
  | 3 => match b.baseT with | some t => if b.full then tsrRows t else [] | none => []
  | _ => []

/-- The running command needs some byte of a word of a region. -/
def speTakes (b : Binding) (r va : Nat) : Bool := (speRows b r).any (fun x => va < x.1 + x.2 && x.1 < va + 4)

/-- The journal entries in memory that the running command reads, by their addresses: those of the captured words that it needs, the
ones after the cut, and for a settle those of its epoch too (R148). -/
def speEntries (b : Binding) : List Nat :=
  (b.caps.cells ++ (if b.full then [] else b.old.cells)).filterMap (fun e =>
    let r := e.1 / 2 ^ 31
    match e.2.bind (·.entry) with
    | some (false, a) => if speTakes b r ((b.opnd r).base.toNat / 4 * 4 + 4 * (e.1 % 2 ^ 31)) then some a else none
    | _ => none)

/-- The running command needs some byte of a page of the regions. -/
def speNeeds (b : Binding) (w : Watch) : Bool :=
  if w.region = 4 then (speEntries b).any (fun a => w.pa < a + 8 && a < w.pa + w.len)
  else (speRows b w.region).any (fun r => w.va < r.1 + r.2 && r.1 < w.va + w.len)

/-- A binding's pages stand elsewhere; the frames that it has left are unpinned, and those that it has come to are pinned. -/
def setWatch (s : State) (p n : Nat) (ws : List Watch) : State :=
  let b := s.binding p n
  let b1 := { b with watch := ws }
  let s1 := ((pinFrames b).filter (fun f => !(pinFrames b1).contains f)).foldl (fun s f => s.unpinOne f) s
  (((pinFrames b1).filter (fun f => !(pinFrames b).contains f)).foldl (fun s f => s.pinOne f) s1).setBinding p n b1

/-- The pages that the running command needs translate through the die TLB, C for writing too (R159), and stand where they are mapped
now; the leaves of a C that is being brought back are not there yet.  Where one does not translate, what the failed walk leaves. -/
def speTranslate (s : State) (p n : Nat) : Except State State :=
  let b := s.binding p n
  let r := b.watch.foldl (fun (acc : Except State (State × List Watch)) w =>
    match acc with
    | .error s => .error s
    | .ok (s, ws) =>
      if !speNeeds b w || (b.back && w.region == 2) then .ok (s, ws ++ [w])
      else match s.dieAddr (s.speDie p n) b.asid w.va (if w.region = 2 then .both else .read) with
        | .ok (s1, pa) => .ok (s1, ws ++ [{ w with pa := pa }])
        | .error s1 => .error s1) (.ok (s, []))
  match r with
  | .error s1 => .error s1
  | .ok (s1, ws) => .ok (if ws = b.watch then s1 else s1.setWatch p n ws)

/-- The state in which the running command reads its operands: its pages translated, and the registered words that it needs forwarded. -/
def speReads (s : State) (p n : Nat) : State := match s.speTranslate p n with | .ok s1 => s1 | .error s1 => s1

/-- The SPE reads what it needs at the homes: registered words are forwarded, and the next write of one is captured again (R104, R148,
R149). -/
def speForward (s : State) (p n : Nat) : State :=
  let b := s.binding p n
  let needed (w : Nat) : Bool := (regionsOf b w).any (fun r => r.1 ≤ 3 && speTakes b r.1 r.2)
  (s.owner.keys.filter needed).foldl (fun s w => s.forward w) s

/-- The command that computes C of a binding now. -/
def speRunning (s : State) (p n : Nat) : Option (Nat × Cmd) :=
  s.cmds.cells.findSome? (fun e => match e.2 with
    | some c => match c.eng with
      | .spe _ => if c.started && computes c && c.mark == n + 1 && s.cmdPart c == p then some (e.1, c) else none
      | _ => none
    | none => none)

/-- The lines of the operands, the base and C that the running command reads and writes are used for the tenant that issued it
(R107). -/
def speUses (s : State) (p n : Nat) : State :=
  let b := s.binding p n
  let die := s.speDie p n
  let tenant := (s.speRunning p n).map (fun e => e.2.tenant)
  (List.range 4).foldl (fun s r => (speRows b r).foldl (fun s x => (linesAt x.1 x.2).foldl (fun s a =>
    match pinnedPa b r (max a x.1) with
    | some pa => s.usedBy die pa tenant .l2 (r == 2)
    | none => s) s) s) s

/-- The SPE writes a word of C: it is not captured, and it changes the base of whatever binding has it as base (R144,
R154). -/
def speWrite (s : State) (die pa : Nat) (v : Word) (bad : Bool) : State :=
  if s.homeGone die pa then s.noteBlocked die pa
  else
    let s1 := (s.homeStoreRaw pa (leBytes 4 v.toNat)).markPoison (pa / 4) bad
    s1.parts.cells.foldl (fun s q => q.2.bindings.cells.foldl (fun s e =>
      if watching e.2 && (regionsOf e.2 (pa / 4)).any (fun r => r.1 == 3) then
        s.setBinding q.1 e.1 { (s.binding q.1 e.1) with cmod := true } else s) s) s1

/-- All elements of the running command are read and written. -/
def speWriteAll (s0 : State) (p n : Nat) : State :=
  let s := ((s0.speReads p n).speForward p n).speUses p n
  let b := s.binding p n
  (s.speElems p n).foldl (fun s e => s.speWrite (s.speDie p n) (elemPa b 2 b.cT e.2.1 e.1) e.2.2.1 e.2.2.2) s

/-- Some element of the running command depends on poisoned data (R159). -/
def spePoisoned (s : State) (p n : Nat) : Bool := ((s.speReads p n).speElems p n).any (fun e => e.2.2.2)

/-- A page that the running command needs does not translate. -/
def speUnmapped (s : State) (p n : Nat) : Bool := match s.speTranslate p n with | .ok _ => false | .error _ => true

/-- A full result queue keeps the running command outstanding (R68). -/
def speHeld (s : State) (p n : Nat) : Bool := (s.speRunning p n).any (fun e => s.resultHeld e.1)

/-- The command that computes C can go on to its elements: every slice has made its cut, no page takes part in a migration, which the
attendant of a writer waits for (R140), and its result queue has room (R68). -/
def speGoes (s : State) (p n : Nat) : Bool :=
  let b := s.binding p n
  computing b && s.allCut p b && !s.unsettled b && !s.speHeld p n

/-- The first poisoned word of the operands, the base, the journal or C that the running command needs, by its physical address. -/
def spePoison (s : State) (p n : Nat) : Option Nat :=
  let b := s.binding p n
  s.poison.cells.findSome? (fun e =>
    if e.2 && ((speEntries b).any (fun a => a / 4 == e.1 || a / 4 + 1 == e.1) ||
        (regionsOf b e.1).any (fun r => r.1 ≤ 3 && speTakes b r.1 r.2)) then some (4 * e.1) else none)

/-- The record of a read of the running command that NBND blocks (R196). -/
def speBlocked (s : State) (p n : Nat) : State :=
  let b := s.binding p n
  let at_ (w : Watch) : List Nat := (List.range (w.len / 256 + 2)).map (fun i => min (w.pa + 256 * i) (w.pa + w.len - 1))
  match ((b.watch.filter (speNeeds b)).flatMap at_).find? (s.blocked (s.speDie p n)) with
  | some pa => s.noteBlocked (s.speDie p n) pa
  | none => s

/-- A command that computes C ends: the tag is set, then the result is there and the flag counts down (R354). -/
def speComplete (s : State) (p n : Nat) : State :=
  match s.speRunning p n with
  | none => s
  | some (id, c) =>
    let s1 := s.setCmdTag c
    let s2 := match c.i with
      | .bind d _ _ _ => s1.cmdResult c (fun x => x.wrG d.toNat (BitVec.ofNat 32 n))
      | _ => s1
    s2.endCmd id c

/-- The leaves of a C that has been brought back point at its frames, with A and D set by the SPE's writes (R138, R162). -/
def restoreC (s : State) (p n : Nat) : State :=
  let b := s.binding p n
  if !b.back then s
  else b.cSaved.foldl (fun s e => (e.2.1.leaves.zip e.2.2).foldl (fun s l =>
    let off := cut l.2 10 44 * 4096 % frameBytes
    s.putLeaf l.1 (cut l.2 0 6 + 192 + cut l.2 8 2 * 256 + (e.1 * frameBytes + off) / 4096 * 1024)) s) s

/-- The binding rests, or is free when its process has ended (R157, R158); g records what the command did.  What held a C that comes
back until it was computed goes on (R162, log 34). -/
def speRest (s0 : State) (p n : Nat) (g : Binding → Binding) : State :=
  let s := s0.restoreC p n
  let b := s.binding p n
  if b.leaving then s.freeBinding p n
  else
    let b1 := g { b with old := {}, oldOvf := false, outstanding := b.outstanding - b.consuming, consuming := 0, back := false, lost := [],
                         full := false, cSaved := if b.back then [] else b.cSaved }
    s.setBinding p n { b1 with state := if b1.state = .failed then .failed else if b1.caps.cells.isEmpty then .clean else .dirty }

/-- SPE_FULL_COMPUTE_DONE (R150, R151). -/
def fullDone (s : State) (p n : Nat) : State :=
  let b := s.binding p n
  if !b.full ∨ !s.speGoes p n ∨ s.spePoisoned p n ∨ s.speUnmapped p n then s
  else
    let last := if b.back then 5 else if b.state = .settling then 3 else 1
    ((s.speWriteAll p n).speRest p n (fun b => { b with count := 0, cmod := false, last := last })).speComplete p n

/-- SPE_SETTLE_DONE (R149, R151). -/
def settleDone (s : State) (p n : Nat) : State :=
  let b := s.binding p n
  if b.state ≠ .settling ∨ b.full ∨ !s.speGoes p n ∨ s.spePoisoned p n ∨ s.speUnmapped p n then s
  else ((s.speWriteAll p n).speRest p n (fun b => { b with count := b.count + 1, last := 2 })).speComplete p n

/-- An element of C is written ahead of the others (R154). -/
def speElement (s : State) (p n i j : Nat) : State :=
  let b := s.binding p n
  if !s.speGoes p n ∨ s.spePoisoned p n ∨ s.speUnmapped p n then s
  else match ((s.speReads p n).speElems p n).find? (fun e => e.1 == i && e.2.1 == j) with
    | none => s
    | some e =>
      let s1 := (s.speReads p n).speForward p n
      (s1.speWrite (s.speDie p n) (elemPa (s1.binding p n) 2 b.cT j i) e.2.2.1 e.2.2.2).setBinding p n
        { (s1.binding p n) with wrote := (i * 65536 + j) :: b.wrote }

/-- SPE_FAIL (R159): the running command met an uncorrectable error, with MEM_UE for one in memory, or a page that it needs cannot be
translated, with XL_FAULT; then it writes nothing. -/
def speFailed (s : State) (p n : Nat) : State :=
  let die := s.speDie p n
  let lost := s.speUnmapped p n
  if !s.speGoes p n ∨ !(lost ∨ s.spePoisoned p n) then s
  else
    let e : ErrRec := { code := 0x0405, sev := 2, action := 4, eclass := 5, part := p, einst := die, detail := n }
    let r := s.speReads p n
    let s0 := if lost then r.log { e with code := 0x0201, action := 3 }
      else match r.spePoison p n with
        | some pa => (r.log { code := 0x0102, sev := 2, action := 4, eclass := 10, part := p, einst := pa / 0x1000000000, pa := some pa }).speWriteAll p n
        | none => r.speWriteAll p n
    let s1 := (s0.speBlocked p n).log e
    (s1.speRest p n (fun b => { b with state := .failed, last := 4 })).speComplete p n

/-! Starting commands. -/

/-- The number names a binding of the command's process (R354). -/
def speValid (s : State) (c : Cmd) : Bool :=
  let b := s.binding (s.cmdPart c) (c.mark - 1)
  c.mark ≤ 4096 && b.state != .free && b.asid == c.asid && !b.leaving

/-- A command of the same binding accepted before a number that must come first; an UNBIND passes a BIND that waits for a
slot (R147, R356). -/
def speAhead (s : State) (id : Nat) (c : Cmd) (unbind : Bool) : Bool :=
  s.cmds.cells.any (fun e => match e.2 with
    | some d => e.1 < id && (match d.eng with | .spe _ => true | _ => false) && d.mark == c.mark && s.cmdPart d == s.cmdPart c &&
        (match d.i with
         | .stale _ _ _ => false
         | .bind _ _ _ _ => !(unbind && (s.binding (s.cmdPart c) (c.mark - 1)).state == .admitting)
         | _ => !s.heldBehind d.thr e.1)
    | none => false)

/-- The command may start. -/
def speReady (s : State) (id : Nat) (c : Cmd) : Bool :=
  !c.started && c.fault.isNone && s.cmdMayRead id c &&
  (match c.i with
   | .bind _ _ _ _ | .stale _ _ _ => true
   | .unbind _ _ _ => !s.speAhead id c true &&
       !(s.speValid c && (match (s.binding (s.cmdPart c) (c.mark - 1)).state with | .computing | .settling => true | _ => false))
   | .bstat _ _ _ => !s.speAhead id c false
   | _ => !s.speAhead id c false &&
       (!s.speValid c || (match (s.binding (s.cmdPart c) (c.mark - 1)).state with
         | .clean | .dirty | .failed => true
         | _ => false)))

/-- The status word of R155. -/
def staleWord (s : State) (c : Cmd) : Word :=
  let b := s.binding (s.cmdPart c) (c.mark - 1)
  if !s.speValid c then 2 ^ 27
  else
    let due := b.recon ≤ b.count || b.ovf || b.state == .failed || b.state == .evicted
    let busy := b.state == .computing || b.state == .settling
    let bit (x : Bool) (k : Nat) : Nat := if x then 2 ^ k else 0
    BitVec.ofNat 32 (bit due 26 + bit busy 25 + bit b.ovf 24 + min 4095 (dirtyRows b.bT b.caps 1).length * 4096 +
      min 4095 (dirtyRows b.aT b.caps 0).length)

/-- State codes (R156); 8 with an UNBIND behind. -/
def bstatCode (s : State) (id : Nat) (c : Cmd) : Nat :=
  if s.cmds.cells.any (fun e => match e.2 with
      | some d => id < e.1 && d.mark == c.mark && s.cmdPart d == s.cmdPart c && d.eng == c.eng && s.speValid d &&
          (match d.i with | .unbind _ _ _ => true | _ => false)
      | none => false) then 8
  else match (s.binding (s.cmdPart c) (c.mark - 1)).state with
    | .free => 0 | .admitting => 1 | .computing => 2 | .clean => 3 | .dirty => 4 | .settling => 5 | .evicted => 6 | .failed => 7

/-- A BIND that waits for a slot ends when its binding is unbound: the manual states no result for it (log 4). -/
def dropAdmitting (s : State) (p n : Nat) : State :=
  match s.speRunning p n with
  | none => s
  | some (id, c) =>
    let r := s.draw
    (r.2.cmdResult c (fun x => x.wrG (match c.i with | .bind d _ _ _ => d.toNat | _ => 0) r.1)).endCmd id c

/-- The SPE starts a command: it is performed at once, or its cut is made. -/
def speStart (s : State) (id : Nat) (c : Cmd) : State :=
  let p := s.cmdPart c
  let n := c.mark - 1
  let b := s.binding p n
  match c.i with
  | .bind _ _ _ _ => s.bindTry id
  | .stale d _ _ => (s.cmdResult c (fun x => x.wrG d.toNat (s.staleWord c))).endCmd id c
  | .bstat d _ _ =>
    if !s.speValid c then s.endTrap id c (trapOf .desc)
    else (s.cmdResult c (fun x => (x.wrG d.toNat (BitVec.ofNat 32 (b.last * 256 + s.bstatCode id c))).wrG (d.toNat + 1)
      (BitVec.ofNat 32 b.count))).endCmd id c
  | .unbind _ _ _ =>
    if !s.speValid c then s.endTrap id c (trapOf .desc)
    else
      let s1 := if b.state = .admitting then s.dropAdmitting p n else s
      (s1.freeBinding p n).endCmd id c
  | .settle _ _ _ _ =>
    if !s.speValid c then s.endTrap id c (trapOf .desc)
    else (s.setCmd id (some { c with started := true })).cutBinding p n .settling (b.state == .failed || b.recon ≤ b.count || b.ovf)
  | .recomp _ _ _ _ =>
    if !s.speValid c then s.endTrap id c (trapOf .desc)
    else (s.setCmd id (some { c with started := true })).cutBinding p n .computing true
  | _ => s

/-- SPE_COMMAND_START: the oldest command of a die's SPE that may start. -/
def speNext (s : State) (die : Nat) : State :=
  match (s.cmdsOf (.spe die)).find? (fun e => s.speReady e.1 e.2) with
  | none => s
  | some (id, c) => s.walking (coreDie c.core) id (fun s => s.speStart id c)

/-- A step of the command that computes C of a binding, with its walks. -/
def speWalking (s : State) (p n : Nat) (k : State → State) : State :=
  match s.speRunning p n with
  | some (id, _) => s.walking (s.speDie p n) id k
  | none => k s

/-! Adaptations (R161, R162). -/

/-- ADAPT_ADMIT: the oldest waiting BIND takes a free slot. -/
def adaptIn (s : State) (p : Nat) : State :=
  let waiting := (s.part p).bindings.cells.filter (fun e => e.2.state == .admitting)
  if 256 ≤ s.slotsUsed p then s
  else match waiting.find? (fun e => waiting.all (fun f => e.2.since ≤ f.2.since)) with
    | none => s
    | some e => s.cutBinding p e.1 .computing true

/-- The frames of a binding's C, each by the first one of its page. -/
def cFrames (s : State) (b : Binding) : List Nat := ((b.region 2).map (fun w => s.firstFrame (w.pa / frameBytes))).eraseDups

/-- A command of a binding is accepted and not complete. -/
def speQueued (s : State) (p n : Nat) : Bool :=
  s.cmds.cells.any (fun e => match e.2 with
    | some c => (match c.eng with | .spe _ => true | _ => false) && c.mark == n + 1 && s.cmdPart c == p
    | none => false)

/-- ADAPT_EVICT. -/
def adaptOut (s : State) (p n : Nat) : State :=
  let b := s.binding p n
  if b.state ≠ .clean ∨ !b.adapt ∨ b.count ≠ 0 ∨ b.cmod ∨ s.speQueued p n ∨
      (s.cFrames b).any (fun f => (s.frame f).state != .mapped && (s.frame f).state != .backed) then s
  else
    let saved := (s.cFrames b).map (fun f => (f, s.frame f, (s.frame f).leaves.map s.leafVal))
    let s1 := (s.cFrames b).foldl (fun s f => (s.forwardFrame f).releaseFrame f) s
    s1.setBinding p n { (s1.binding p n) with state := .evicted, cSaved := saved,
                                              watch := b.watch.map (fun w => if w.region = 2 then { w with region := 5 } else w) }

/-- Somebody needs an evicted C: a faulted access or command of its process in it, or a command of the binding. -/
def adaptWanted (s : State) (p n : Nat) : Bool :=
  let b := s.binding p n
  let hits (va : Nat) : Bool := (b.region 5).any (fun w => w.va ≤ va && va < w.va + w.len)
  s.accs.cells.any (fun e => match e.2 with
    | some a => a.asid == b.asid && a.pieces.any (fun q => (match q.st with | .logged _ => true | _ => false) &&
        (List.range (max 1 q.len)).any (fun i => hits (q.va.toNat + i)))
    | none => false) ||
  s.cmds.cells.any (fun e => match e.2 with
    | some c => (c.asid == b.asid && (match c.fault with | some f => hits f.2.toNat | none => false)) ||
        (computes c && c.mark == n + 1 && s.cmdPart c == p)
    | none => false)

/-- The oldest SETTLE or RECOMP of a binding that may be performed: it is what brings an evicted C back (R357). -/
def adaptCmd (s : State) (p n : Nat) : Option (Nat × Cmd) :=
  s.cmds.cells.findSome? (fun e => match e.2 with
    | some c => if computes c && c.mark == n + 1 && s.cmdPart c == p && s.speValid c && s.cmdMayRead e.1 c && !s.speAhead e.1 c false then some (e.1, c) else none
    | none => none)

/-- A page of an evicted C gets FREE frames within its tenant's BURST (R139); its leaves come back with the values. -/
def adaptFrame (s : State) (p n old new : Nat) (x : Frame) : State :=
  let s1 := s.giveSpan new { x with state := .mapped, pins := 0, rm := false, dest := none, filling := false, withheld := [] }
  let s2 := s1.modTenant x.tenant (fun t => { t with used := t.used + x.count })
  s2.setBinding p n { (s2.binding p n) with
    watch := (s2.binding p n).watch.map (fun w => if w.region = 5 ∧ old ≤ w.pa / frameBytes ∧ w.pa / frameBytes < old + x.count then
      { w with region := 2, pa := new * frameBytes + (w.pa - old * frameBytes) } else w) }

/-- The frames may be granted for the pages of an evicted C. -/
def mayGrant (s : State) (b : Binding) (frames : List Nat) : Bool :=
  let ps := b.cSaved.zip frames
  let all := ps.flatMap (fun e => (List.range e.1.2.1.count).map (· + e.2))
  frames.length == b.cSaved.length && all.eraseDups.length == all.length && ps.all (fun e => s.freeSpan e.2 e.1.2.1.count) &&
  (List.range 64).all (fun t =>
    let n := (ps.filter (fun e => e.1.2.1.tenant == t)).foldl (fun n e => n + e.1.2.1.count) 0
    n == 0 || (s.tenant t).used + n ≤ (s.tenant t).burst)

/-- ADAPT_RECREATE. -/
def adaptBack (s : State) (p n : Nat) (frames : List Nat) : State :=
  let b := s.binding p n
  if b.state ≠ .evicted ∨ !s.adaptWanted p n ∨ !s.mayGrant b frames then s
  else
    let s1 := (b.cSaved.zip frames).foldl (fun s e => s.adaptFrame p n e.1.1 e.2 e.1.2.1) s
    let s2 := match s1.adaptCmd p n with
      | some (id, c) => s1.setCmd id (some { c with started := true })
      | none => s1
    let s3 := s2.setBinding p n { (s2.binding p n) with
      back := true, cSaved := (b.cSaved.zip frames).map (fun e => (e.2, e.1.2.1, e.1.2.2)) }
    s3.cutBinding p n .computing true

/-- SETTLE_CUT_MARKER (R115): a slice's epoch advances as the partition's cuts have. -/
def cutMarker (s : State) (die slice : Nat) : State :=
  let e := (s.die die).epochs.get slice
  if 4 ≤ die ∨ 32 ≤ slice ∨ e = (s.part (s.partOf die)).cuts % 65536 then s
  else s.modDie die (fun d => { d with epochs := d.epochs.set slice ((e + 1) % 65536) })

end State

def execSpeCommandStart (die : Nat) (s : State) : Out := 
  .next (s.inject die 2 63 (2 ^ 64) (fun t => t.cmds != s.cmds) (fun s => s.speNext die))
def execSpeFullComputeDone (part n : Nat) (s : State) : Out :=
  .next (s.inject (s.speDie part n) 2 63 (2 ^ 65 + part * 4096 + n) (fun t => (t.binding part n).state != (s.binding part n).state) (fun s => s.speWalking part n (fun s => s.fullDone part n)))
def execSpeSettleDone (part n : Nat) (s : State) : Out :=
  .next (s.inject (s.speDie part n) 2 63 (2 ^ 65 + part * 4096 + n) (fun t => (t.binding part n).state != (s.binding part n).state) (fun s => s.speWalking part n (fun s => s.settleDone part n)))
def execSpeFail (part n : Nat) (s : State) : Out := .next (s.speWalking part n (fun s => s.speFailed part n))
def execAdaptAdmit (part : Nat) (s : State) : Out := .next (s.adaptIn part)
def execAdaptEvict (part n : Nat) (s : State) : Out := .next (s.byHart (fun s => s.adaptOut part n))
def execAdaptRecreate (part n : Nat) (frames : List Nat) (s : State) : Out := .next (s.adaptBack part n frames)
def execSettleCutMarker (die slice : Nat) (s : State) : Out := .next (s.cutMarker die slice)

end Sys2Proof.Machine
end

