-- ==== Sys2Proof/Machine/Pfx.lean ====
section
/-! DEFINITION. The prefix index (11, R359–R365): the pool and its page sets, the tree, sequences and their maps, and the
prefix commands; attention stands in Attn. -/

namespace Sys2Proof.Machine

/-- A map entry that names nothing, and one that names a remote node (R171). -/
def noEntry : Nat := 0xFFFFFFFF
def isRemote (e : Nat) : Bool := e != noEntry && 0x80000000 ≤ e

/-- What has come of a prefix command: it writes its result; it traps DESC; nothing could supply it; it met an
uncorrectable error; or a copy goes on, with what the copy needs. -/
inductive PfxEnd
  | done (f : Thread → Thread)
  | desc
  | full
  | lost
  | copying (fields : List Nat)

/-- The answer of a step of a prefix command. -/
abbrev PfxRes := Except EFault (State × PfxEnd)

namespace State

def pool (s : State) (p : Nat) : Pool := (s.part p).pool
def modPool (s : State) (p : Nat) (f : Pool → Pool) : State := s.modPart p (fun q => { q with pool := f q.pool })

/-- The present time in the units of STAMP and LEASE (R169). -/
def stampNow (s : State) : Nat := s.now / 2 ^ 20 % 2 ^ 32

/-! Page sets (R166–R168). -/

/-- The count of a page set, in its one place. -/
def pageRef (s : State) (p n : Nat) : Nat :=
  let e := (s.pool p).pages.get n
  if e.state = .indexed then ((s.pool p).nodes.get e.node).ref else e.ref

def setPage (s : State) (p n : Nat) (e : PageSet) : State := s.modPool p (fun q => { q with pages := q.pages.set n e })

/-- A page set becomes FREE: it goes to the head of the list. -/
def freePage (s : State) (p n : Nat) : State :=
  s.modPool p (fun q => { q with pages := q.pages.set n {}, freed := n :: q.freed })

/-- One reference more, and one less, which frees a page set at 0. -/
def pageUp (s : State) (p n : Nat) : State :=
  let e := (s.pool p).pages.get n
  if e.state = .indexed then s.modPool p (fun q => { q with nodes := q.nodes.modify e.node (fun x => { x with ref := x.ref + 1 }) })
  else s.setPage p n { e with ref := e.ref + 1 }

def pageDown (s : State) (p n : Nat) : State :=
  let e := (s.pool p).pages.get n
  if e.state = .indexed then s.modPool p (fun q => { q with nodes := q.nodes.modify e.node (fun x => { x with ref := x.ref - 1 }) })
  else if e.state = .priv then (if e.ref ≤ 1 then s.freePage p n else s.setPage p n { e with ref := e.ref - 1 })
  else s

/-- The FREE page sets that can be taken. -/
def pagesFree (s : State) (p : Nat) : Nat := (s.pool p).freed.length + ((s.pool p).count - (s.pool p).fresh)

/-- The page set at the head of the list is taken. -/
def takePage (s : State) (p : Nat) : Nat × State :=
  match (s.pool p).freed with
  | n :: r => (n, s.modPool p (fun q => { q with freed := r }))
  | [] => ((s.pool p).fresh, s.modPool p (fun q => { q with fresh := q.fresh + 1 }))

/-- k page sets are taken, in order. -/
def takePages : Nat → State → Nat → List Nat × State
  | 0, s, _ => ([], s)
  | k + 1, s, p =>
    let r := s.takePage p
    let q := takePages k r.2 p
    (r.1 :: q.1, q.2)

/-! The tree (R169, R170). -/

/-- The tokens from the root to the end of a node's block. -/
def pathTokens : Nat → State → Nat → Nat → List Word
  | 0, _, _, _ => []
  | k + 1, s, p, n =>
    let x := (s.pool p).nodes.get n
    if !x.valid then [] else pathTokens k s p x.parent ++ x.tokens

/-- HASH over a prefix: the path to a node, and one more block (R169). -/
def hashOf (s : State) (p parent : Nat) (ts : List Word) : DWord :=
  Config.nodeHash (s.pathTokens ((s.pool p).nodes.cells.length + 1) p parent ++ ts)

/-- The child of a node along a block of tokens: the entries of its child table whose hash fits, confirmed by all tokens (R169). -/
def childOf (s : State) (p parent : Nat) (ts : List Word) : Option Nat :=
  let h := (s.hashOf p parent ts).lo
  (((s.pool p).tables.get parent).find? (fun e =>
    e.2 == h && ((s.pool p).nodes.get e.1).valid && ((s.pool p).nodes.get e.1).tokens == ts)).map Prod.fst

def hasChild (s : State) (p n : Nat) : Bool := !((s.pool p).tables.get n).isEmpty

/-- A child table has room for one more: 2^16 entries, and the root's as many as it was configured with (R169). -/
def tableRoom (s : State) (p n : Nat) : Bool :=
  ((s.pool p).tables.get n).length < (if n = 0 then 2 ^ (2 + Config.rootTable % 15) else 65536)

/-- The k of a child table of 2^k entries: the least from 2 to 16 that holds its entries; the root's is fixed (R169, log 35). -/
def tableLog (s : State) (p n : Nat) : Nat :=
  if n = 0 then 2 + Config.rootTable % 15
  else ((List.range 15).map (· + 2)).find? (fun k => ((s.pool p).tables.get n).length ≤ 2 ^ k) |>.getD 16

/-- The 128 bytes of a node (R169). -/
def nodeBytes (s : State) (p n : Nat) : List Byte :=
  let x := (s.pool p).nodes.get n
  x.tokens.flatMap (fun w => leBytes 4 w.toNat) ++
  recBytes [(8, x.hash.toNat), (4, x.psn), (2, x.ref), (2, (if x.valid then 1 else 0) + (if x.station.isSome then 2 else 0)),
    (8, if s.hasChild p n then Config.childPlace p n else 0), (8, (x.station.map (fun h => h.toNat * 2 ^ 54)).getD 0),
    (4, x.parent), (4, x.stamp), (4, x.lease), (20, 0)]

/-- A node goes, from its parent's child table too: its page set is held by its sequences alone, or FREE (R168). -/
def dropNode (s : State) (p n : Nat) : State :=
  let x := (s.pool p).nodes.get n
  let s1 := s.modPool p (fun q => { q with
    nodes := q.nodes.set n {}, tables := (q.tables.modify x.parent (fun l => l.filter (fun e => e.1 != n))).set n [] })
  if x.station.isSome then s1
  else if x.ref ≤ 1 then s1.freePage p x.psn
  else s1.setPage p x.psn { state := .priv, ref := x.ref - 1 }

/-- A node goes with its subtree (R180). -/
def dropTree : Nat → State → Nat → Nat → State
  | 0, s, _, _ => s
  | k + 1, s, p, n =>
    let kids := ((s.pool p).tables.get n).map Prod.fst
    kids.foldl (fun s c => dropTree k s p c) (s.dropNode p n)

def dropSubtree (s : State) (p n : Nat) : State := s.dropTree ((s.pool p).nodes.cells.length + 1) p n

/-- A node and those below it. -/
def subtree : Nat → State → Nat → Nat → List Nat
  | 0, _, _, _ => []
  | k + 1, s, p, n => n :: ((s.pool p).tables.get n).flatMap (fun e => subtree k s p e.1)

/-- A remote node is removed (R179), with the remote nodes below it.  Local nodes below it stay nodes, of no parent, until they are
evicted: no other event ends INDEXED (R168; DEDUCED, log 35). -/
def dropRemote (s : State) (p n : Nat) : State :=
  ((s.subtree ((s.pool p).nodes.cells.length + 1) p n).filter (fun m => ((s.pool p).nodes.get m).station.isSome)).foldl (fun s m =>
    (((s.pool p).tables.get m).foldl (fun s e =>
      s.modPool p (fun q => { q with nodes := q.nodes.modify e.1 (fun x => { x with parent := 0xFFFFFFFF }) })) s).dropNode p m) s

/-- NODE_EVICT (R173): of the leaf nodes with REF 1 and an expired lease, outside a path that a command needs, the one with
the oldest STAMP. -/
def evictable (s : State) (p : Nat) (kept : List Nat) : Option Nat :=
  let ok := (s.pool p).nodes.cells.filter (fun e =>
    e.2.valid && e.2.station.isNone && e.2.ref == 1 && e.2.lease ≤ s.stampNow && !s.hasChild p e.1 && !kept.contains e.1)
  (ok.find? (fun e => ok.all (fun f => e.2.stamp ≤ f.2.stamp))).map Prod.fst

/-- Room for so many page sets and nodes below the last of a path, by eviction where needed; none when nothing more can be evicted. -/
def supply : Nat → State → Nat → Nat → Nat → List Nat → Option State
  | 0, _, _, _, _, _ => none
  | k + 1, s, p, pages, nodes, kept =>
    if pages ≤ s.pagesFree p ∧ (nodes = 0 ∨ ((s.pool p).nodes.cells.length + nodes ≤ Config.nodeStore + 1 ∧ s.tableRoom p (kept.getLast?.getD 0))) then some s
    else match s.evictable p kept with
      | none => none
      | some n => supply k (s.dropNode p n) p pages nodes kept

def supplied (s : State) (p pages nodes : Nat) (kept : List Nat) : Option State :=
  s.supply ((s.pool p).nodes.cells.length + 1) p pages nodes kept

/-- The lowest node index not in use. -/
def freeNode (s : State) (p : Nat) : Nat :=
  ((List.range ((s.pool p).nodes.cells.length + 1)).find? (fun i => !((s.pool p).nodes.get (i + 1)).valid)).getD 0 + 1

/-- A node is made, and its entry in its parent's child table. -/
def addNode (s : State) (p : Nat) (parent : Nat) (ts : List Word) (psn ref : Nat) (station : Option (BitVec 10)) : Nat × State :=
  let n := s.freeNode p
  let h := s.hashOf p parent ts
  let x : Node := { valid := true, tokens := ts, hash := h, psn := psn, ref := ref, station := station, parent := parent,
                    stamp := s.stampNow }
  (n, s.modPool p (fun q => { q with nodes := q.nodes.set n x, tables := q.tables.modify parent (fun l => l ++ [(n, h.lo)]) }))

/-! Sequences (R171, R172). -/

def handleOf (q : Seq) (i : Nat) : Nat := q.gen * 2 ^ 20 + i

/-- The sequence that a handle names, for a command of a number: its index and record. -/
def seqOf (s : State) (p h id : Nat) : Option (Nat × Seq) :=
  let i := h % 2 ^ 20
  let q := (s.pool p).seqs.get i
  if q.gen ≠ h / 2 ^ 20 then none
  else match q.state with
    | .free => none
    | .live => some (i, q)
    | .releasing => if id < q.last then some (i, q) else none

def setSeq (s : State) (p i : Nat) (q : Seq) : State := s.modPool p (fun x => { x with seqs := x.seqs.set i q })

/-- The lowest FREE index. -/
def freeSeq (s : State) (p : Nat) : Option Nat :=
  (List.range (min (2 ^ 20) ((s.pool p).seqs.cells.length + 1))).find? (fun i => ((s.pool p).seqs.get i).state == .free)

/-- The command that reads and writes a sequence's map: at the address as its creator named it. -/
def mapCmd (c : Cmd) (q : Seq) : Cmd := { c with thr := q.thr, core := q.core, asid := q.asid, fields := [] }

/-- An entry of a map, and whether its word is poisoned. -/
def mapEntry (s : State) (c : Cmd) (q : Seq) (i : Nat) : Except EFault (State × Nat) :=
  match s.engRead (mapCmd c q) (q.map + BitVec.ofNat 64 (4 * i)) 4 with
  | .error e => .error e
  | .ok (s1, bs, p) => if p then .error .poison else .ok (s1, leNat bs)

/-- Entries of a map, from one number on. -/
def mapEntries (s : State) (c : Cmd) (q : Seq) (i n : Nat) : Except EFault (State × List Nat) :=
  eachE (fun s k => s.mapEntry c q (i + k)) s (List.range n)

/-- Entries written at .sys. -/
def writeMap (s : State) (c : Cmd) (q : Seq) : List (Nat × Nat) → Except EFault State
  | [] => .ok s
  | (i, v) :: r =>
    match s.engWrite { mapCmd c q with fields := List.replicate 13 1 } 2 (q.map + BitVec.ofNat 64 (4 * i)) (leBytes 4 v) false with
    | (_, some e) => .error e
    | (s1, none) => writeMap s1 c q r

/-- A reference to what an entry names goes; remote entries hold none (R179). -/
def dropEntry (s : State) (p e : Nat) : State := if e = noEntry ∨ isRemote e then s else s.pageDown p e

/-- A page set whose table entry, or whose node, is lost (R180). -/
def pageLost (s : State) (p e : Nat) : Bool :=
  let x := (s.pool p).pages.get e
  e != noEntry && !isRemote e && (x.bad || (x.state == .indexed && ((s.pool p).nodes.get x.node).bad))

/-- The nodes of page sets that are lost leave the tree with their subtrees (R168, R180). -/
def loseNodes (s : State) (p : Nat) (es : List Nat) : State :=
  es.foldl (fun s e =>
    let x := (s.pool p).pages.get e
    if e ≠ noEntry ∧ !isRemote e ∧ x.state = .indexed ∧ ((s.pool p).nodes.get x.node).bad then s.dropSubtree p x.node else s) s

/-! Tokens and the walk. -/

/-- A block of 16 tokens. -/
def tokenBlock (s : State) (c : Cmd) (tokens i : Nat) : Except EFault (State × List Word) :=
  match s.engRead c (BitVec.ofNat 64 (tokens + 64 * i)) 64 with
  | .error e => .error e
  | .ok (s1, bs, p) =>
    if p then .error .poison
    else .ok (s1, (List.range 16).map (fun k => BitVec.ofNat 32 (leNat ((bs.drop (4 * k)).take 4))))

/-- The match of PXFIND: the nodes along the tokens, and a lost node that ended it. -/
def matchTree (p : Nat) (c : Cmd) (tokens : Nat) : Nat → State → Nat → Nat → Except EFault (State × List Nat × Option Nat)
  | 0, s, _, _ => .ok (s, [], none)
  | k + 1, s, i, node =>
    match s.tokenBlock c tokens i with
    | .error e => .error e
    | .ok (s1, ts) =>
      match s1.childOf p node ts with
      | none => .ok (s1, [], none)
      | some n =>
        let x := (s1.pool p).nodes.get n
        if x.bad then .ok (s1, [], some n)
        else if x.station.isNone ∧ 65535 ≤ x.ref then .ok (s1, [], none)
        else match matchTree p c tokens k s1 (i + 1) n with
          | .error e => .error e
          | .ok (s2, ns, b) => .ok (s2, n :: ns, b)

/-- An address that a prefix command may not use (R359). -/
def pfxBad (va : DWord) (align : Nat) : Bool := cut va.toNat 60 4 == 8 || va.toNat % align != 0

/-- PXFIND (R173, R360), values [block]. -/
def pxfindStep (s : State) (p : Nat) (c : Cmd) (d : Nat) : PfxRes :=
  let va := BitVec.ofNat 64 (c.vals.headD 0)
  if pfxBad va 32 then .ok (s, .desc)
  else match s.engRead c va 32 with
    | .error e => .error e
    | .ok (s1, b, bad) =>
      let tokens := fieldAt b 0 8
      let map := BitVec.ofNat 64 (fieldAt b 8 8)
      let ntok := fieldAt b 0x10 4
      let capb := fieldAt b 0x14 4
      if bad then .error .poison
      else if fieldAt b 0x18 8 ≠ 0 ∨ pfxBad (BitVec.ofNat 64 tokens) 4 ∨ pfxBad map 4 ∨ 2 ^ 24 < ntok ∨ capb = 0 ∨ 65536 < capb then
        .ok (s1, .desc)
      else match s1.freeSeq p with
        | none => .ok (s1, .full)
        | some i =>
          match matchTree p c tokens (min (ntok / 16) capb) s1 0 0 with
          | .error e => .error e
          | .ok (s2, _, some n) => .ok (s2.dropSubtree p n, .lost)
          | .ok (s2, ns, none) =>
            let q : Seq := { state := .live, gen := ((s2.pool p).seqs.get i).gen, len := 16 * ns.length, capb := capb, map := map,
                             asid := c.asid, core := c.core, thr := c.thr }
            let entry (k : Nat) : Nat := match ns[k]? with
              | some n => let x := (s2.pool p).nodes.get n; if x.station.isSome then 0x80000000 + n else x.psn
              | none => noEntry
            match s2.writeMap c q ((List.range capb).map (fun k => (k, entry k))) with
            | .error e => .error e
            | .ok s3 =>
              let s4 := ns.foldl (fun s n => s.modPool p (fun q => { q with nodes := q.nodes.modify n (fun x =>
                { x with stamp := s.stampNow, ref := if x.station.isSome then x.ref else x.ref + 1 }) })) s3
              .ok (s4.setSeq p i q, .done (fun x => (x.wrG d (BitVec.ofNat 32 (handleOf q i))).wrG (d + 1) (BitVec.ofNat 32 q.len)))

/-- The walk of PXINS: the nodes kept so far, and the blocks with their PRIVATE page sets for which nodes are to be made.
Below a block that is skipped there is no parent, so all further blocks are skipped (log 22). -/
def insertWalk (p : Nat) (c : Cmd) (q : Seq) (tokens : Nat) :
    Nat → State → Nat → Nat → Bool → Except EFault (State × List Nat × List (List Word × Nat) × Option Nat)
  | 0, s, _, _, _ => .ok (s, [], [], none)
  | k + 1, s, i, node, fresh =>
    match s.tokenBlock c tokens i with
    | .error e => .error e
    | .ok (s1, ts) =>
      match (if fresh then none else s1.childOf p node ts) with
      | some n =>
        if ((s1.pool p).nodes.get n).bad then .ok (s1, [], [], some n)
        else match insertWalk p c q tokens k s1 (i + 1) n false with
          | .error e => .error e
          | .ok (s2, ns, new, b) => .ok (s2, n :: ns, new, b)
      | none =>
        match s1.mapEntry c q i with
        | .error e => .error e
        | .ok (s2, e) =>
          let x := (s2.pool p).pages.get e
          if e = noEntry ∨ isRemote e then .ok (s2, [], [], none)
          else if x.bad then .ok (s2, [], [], some 0)
          else if x.state ≠ .priv ∨ 65535 ≤ x.ref then .ok (s2, [], [], none)
          else match insertWalk p c q tokens k s2 (i + 1) 0 true with
            | .error e => .error e
            | .ok (s3, ns, new, b) => .ok (s3, ns, (ts, e) :: new, b)

/-- PXINS (R173, R361), values [tokens, handle, count]. -/
def pxinsStep (s : State) (p id : Nat) (c : Cmd) (d : Nat) : PfxRes :=
  let tokens := c.vals.headD 0
  let n := c.vals.getD 2 0
  match s.seqOf p (c.vals.getD 1 0) id with
  | none => .ok (s, .desc)
  | some (_, q) =>
    if pfxBad (BitVec.ofNat 64 tokens) 4 ∨ q.len / 16 < n then .ok (s, .desc)
    else match insertWalk p c q tokens n s 0 0 false with
      | .error e => .error e
      | .ok (s1, _, _, some b) => .ok (if b = 0 then s1 else s1.dropSubtree p b, .lost)
      | .ok (s1, kept, new, none) =>
        match s1.supplied p 0 new.length kept with
        | none => .ok (s1, .full)
        | some s2 =>
          let r := new.foldl (fun (acc : Nat × State) e =>
            let x := (acc.2.pool p).pages.get e.2
            let m := acc.2.addNode p acc.1 e.1 e.2 (x.ref + 1) none
            (m.1, m.2.setPage p e.2 { state := .indexed, node := m.1 })) (kept.getLast?.getD 0, s2)
          .ok (r.2, .done (fun x => x.wrG d (BitVec.ofNat 32 new.length)))

/-- PXUNREF and the release of a sequence (R173, R172): nothing of it is left but its generation. -/
def release (s : State) (p i : Nat) (q : Seq) (es : List Nat) : State :=
  (es.foldl (fun s e => s.dropEntry p e) s).setSeq p i { gen := (q.gen + 1) % 4096 }

def pxunrefStep (s : State) (p id : Nat) (c : Cmd) (d : Nat) : PfxRes :=
  match s.seqOf p (c.vals.headD 0) id with
  | none => .ok (s, .desc)
  | some (i, q) =>
    match s.mapEntries c q 0 q.capb with
    | .error e => .error e
    | .ok (s1, es) =>
      if es.any (s1.pageLost p) then .ok (s1.loseNodes p es, .lost)
      else match s1.writeMap c q ((List.range q.capb).map (fun k => (k, noEntry))) with
        | .error e => .error e
        | .ok s2 => .ok (s2.release p i q es, .done (fun x => x.wrG d 0))

/-- PXREF (R173, R362), values [map, handle]: shared page sets count up; those whose count is full are copied, for which the
command goes on, with fields [index, then for each the number of its block, the page set and its copy].  The map names a copy once it
is complete (R168). -/
def pxrefStep (s : State) (p id : Nat) (c : Cmd) (d : Nat) : PfxRes :=
  let map := BitVec.ofNat 64 (c.vals.headD 0)
  match s.seqOf p (c.vals.getD 1 0) id with
  | none => .ok (s, .desc)
  | some (_, q) =>
    if pfxBad map 4 then .ok (s, .desc)
    else match s.freeSeq p with
      | none => .ok (s, .full)
      | some i =>
        match s.mapEntries c q 0 q.capb with
        | .error e => .error e
        | .ok (s1, es) =>
          let blocks := (List.range es.length).zip es
          let named := blocks.filter (fun e => e.2 != noEntry && !isRemote e.2)
          let fulls := named.filter (fun e => 65535 ≤ s1.pageRef p e.2)
          let q1 : Seq := { state := .live, gen := ((s1.pool p).seqs.get i).gen, len := q.len, capb := q.capb, map := map,
                            asid := c.asid, core := c.core, thr := c.thr }
          if es.any (s1.pageLost p) then .ok (s1.loseNodes p es, .lost)
          else match s1.supplied p fulls.length 0 [] with
            | none => .ok (s1, .full)
            | some s2 =>
              let t := takePages fulls.length s2 p
              let s3 := t.1.foldl (fun s n => s.setPage p n { state := .copying }) t.2
              match s3.writeMap c q1 (blocks.map (fun e => if fulls.contains e then (e.1, noEntry) else e)) with
              | .error e => .error e
              | .ok s4 =>
                let s5 := (named.filter (fun e => !fulls.contains e)).foldl (fun s e => s.pageUp p e.2) s4
                let s6 := s5.setSeq p i q1
                let out : Thread → Thread := fun x => x.wrG d (BitVec.ofNat 32 (handleOf q1 i))
                if fulls.isEmpty then .ok (s6, .done out)
                else .ok (s6, .copying (i :: (fulls.zip t.1).flatMap (fun z => [z.1.1, z.1.2, z.2])))

/-- Where a page set lies for a command: its physical address for a read or a write. -/
def pagePa (s : State) (p : Nat) (c : Cmd) (n : Nat) (need : Need) : Except EFault (State × Nat) :=
  let va := (s.pool p).base + BitVec.ofNat 64 (n * frameBytes)
  match s.translateDie (coreDie c.core) c.asid va.toNat need with
  | .error f => .error (.page f va)
  | .ok (s1, pa) => .ok (s1, pa)

/-- Words of a frame that some binding watches. -/
def watchedIn (s : State) (f : Nat) : List Nat :=
  (s.parts.cells.flatMap (fun q => q.2.bindings.cells.flatMap (fun b => b.2.watch.flatMap (fun w => wordsOf w.pa w.len)))).filter
    (inFrame f) |>.eraseDups

/-- 2 MiB copied at .sys, poison with them. -/
def copyPage (s : State) (src dst : Nat) : State :=
  let f := src / frameBytes
  let g := dst / frameBytes
  let s1 := (s.forwardFrame f).forwardFrame g
  let s2 := s1.capture (s1.watchedIn g)
  let k := frameBytes / 4
  let bad := (s2.poison.cells.filter (fun e => e.2 && inFrame f e.1)).map Prod.fst
  let p0 := s2.poison.drop (fun w _ => inFrame g w)
  { s2 with mem := moveBytes s2.mem s2.mem src dst frameBytes, poison := bad.foldl (fun p w => p.set (g * k + w % k) true) p0 }

/-- The words of a page set that a holder has sent. -/
def fillPage (s : State) (dst : Nat) (ws : List Word) : State :=
  s.homeStore dst ((ws.take (frameBytes / 4)).flatMap (fun w => leBytes 4 w.toNat))

/-- The new blocks of an append after the partial one: their numbers, from one on. -/
def appBlocks (len n first : Nat) : List Nat := (List.range ((len + n - 1) / 16 + 1 - first)).map (· + first)

/-- KVAPP (R174, R175), values [handle, n].  A copy goes on with fields [index, old LEN, block, its entry, copy, new ones]; a remote block
with [index, old LEN, block, its entry], and takes its page sets when its holder answers. -/
def kvappStep (s : State) (p id : Nat) (c : Cmd) (d : Nat) : PfxRes :=
  let n := c.vals.getD 1 0
  match s.seqOf p (c.vals.headD 0) id with
  | none => .ok (s, .desc)
  | some (i, q) =>
    if n = 0 ∨ 16 < n ∨ 16 * q.capb < q.len + n then .ok (s, .desc)
    else
      let b := q.len / 16
      let part_ := q.len % 16 != 0
      match (if part_ then s.mapEntry c q b else .ok (s, 0)) with
      | .error e => .error e
      | .ok (s1, e) =>
        let none_ := part_ && e == noEntry
        let copy := part_ && !none_ && !isRemote e && 1 < s1.pageRef p e
        let news := appBlocks q.len n (if part_ && !none_ then b + 1 else b)
        let need := (if copy then 1 else 0) + news.length
        if part_ && s1.pageLost p e then .ok (s1.loseNodes p [e], .lost)
        else if part_ && isRemote e then .ok (s1, .copying [i, q.len, b, e])
        else match s1.supplied p need 0 [] with
          | none => .ok (s1, .full)
          | some s2 =>
            let t := takePages need s2 p
            let blocks := if copy then t.1.drop 1 else t.1
            match t.2.writeMap c q (news.zip blocks) with
            | .error e => .error e
            | .ok s3 =>
              let s4 := blocks.foldl (fun s m => s.setPage p m { state := .priv, ref := 1 }) s3
              if !copy then
                .ok (s4.setSeq p i { q with len := q.len + n }, .done (fun x => x.wrG d (BitVec.ofNat 32 q.len)))
              else
                let m := t.1.headD 0
                .ok (((s4.pageDown p e).setPage p m { state := .copying }), .copying ([i, q.len, b, e, m] ++ blocks))

/-- KVTRIM (R173, R363), values [handle, len]. -/
def kvtrimStep (s : State) (p id : Nat) (c : Cmd) (d : Nat) : PfxRes :=
  let len := c.vals.getD 1 0
  match s.seqOf p (c.vals.headD 0) id with
  | none => .ok (s, .desc)
  | some (i, q) =>
    let k := (len + 15) / 16
    let out : Thread → Thread := fun x => x.wrG d (BitVec.ofNat 32 q.len)
    if q.len < len then .ok (s, .desc)
    else if len = q.len then .ok (s, .done out)
    else match s.mapEntries c q k (q.capb - k) with
      | .error e => .error e
      | .ok (s1, es) =>
        if es.any (s1.pageLost p) then .ok (s1.loseNodes p es, .lost)
        else match s1.writeMap c q ((List.range (q.capb - k)).map (fun j => (k + j, noEntry))) with
          | .error e => .error e
          | .ok s2 => .ok ((es.foldl (fun s e => s.dropEntry p e) s2).setSeq p i { q with len := len }, .done out)

/-- The K slot of a position in a layer of a page set (R176). -/
def slotVa (q : Pool) (psn layer pos : Nat) : DWord :=
  q.base + BitVec.ofNat 64 (psn * frameBytes + (layer * 16 + pos % 16) * q.slot * 64)

/-- The position and the layer that a KVXLAT's values [handle, layer and position] name. -/
def xlatPos (c : Cmd) : Nat := c.vals.getD 1 0 % 2 ^ 20
def xlatLayer (c : Cmd) : Nat := cut (c.vals.getD 1 0) 20 10

/-- What a KVXLAT comes to with the map entry of its block (R176, R364). -/
def kvxlatEnd (s : State) (p : Nat) (q : Seq) (c : Cmd) (d e : Nat) : PfxEnd :=
  if c.vals.getD 1 0 / 2 ^ 30 ≠ 0 ∨ q.len ≤ xlatPos c ∨ (s.pool p).layers ≤ xlatLayer c ∨ e = noEntry ∨ isRemote e then .desc
  else .done (fun x => x.wrA d (slotVa (s.pool p) e (xlatLayer c) (xlatPos c)))

/-- KVXLAT (R176, R364): an entry out of the map is not read for a position that traps. -/
def kvxlatStep (s : State) (p id : Nat) (c : Cmd) (d : Nat) : PfxRes :=
  match s.seqOf p (c.vals.headD 0) id with
  | none => .ok (s, .desc)
  | some (_, q) =>
    match s.kvxlatEnd p q c d 0 with
    | .desc => .ok (s, .desc)
    | _ =>
      match s.mapEntry c q (xlatPos c / 16) with
      | .error e => .error e
      | .ok (s1, e) => .ok (s1, s1.kvxlatEnd p q c d e)

/-! Ends of prefix commands. -/

/-- The sequence that a command names, plus 1, 0 for none.  That of an ATTN stands in its descriptor, and is not known while that cannot
be read (R171). -/
def attnSeq (s : State) (id : Nat) (c : Cmd) : Option Nat :=
  match c.i with
  | .attn _ _ _ _ =>
    if !s.cmdMayRead id c then none
    else match s.engRead c (BitVec.ofNat 64 (c.vals.headD 0)) 64 with
      | .ok (_, b, _) => some (fieldAt b 0x10 4 % 2 ^ 20 + 1)
      | .error _ => none
  | _ => some c.mark

/-- A sequence whose process has ended is released after the last command that was ahead, and not before the copies of a PXREF that
makes it are there (R172). -/
def releaseEnded (s : State) (p i : Nat) : State :=
  let q := (s.pool p).seqs.get i
  let busy := s.cmds.cells.any (fun e => match e.2 with
    | some c => (match c.eng with | .pfx _ => true | _ => false) && s.cmdPart c == p &&
        ((match c.i with | .pxref _ _ _ _ _ => c.started && c.fields.head? == some i | _ => false) ||
          (match s.attnSeq e.1 c with | some m => m == i + 1 | none => true))
    | none => false)
  if q.state ≠ .releasing ∨ busy then s
  else
    let c : Cmd := { thr := q.thr, eng := .pfx (coreDie q.core), i := .pxunref 0 0 0 0, vals := [], flag := none, pc := 0, kernel := 0,
                     acq := false, rel := false, scope := 4, tag := 64, started := true, mark := i + 1, asid := q.asid, tenant := 0,
                     core := q.core, group := 0 }
    match s.mapEntries c q 0 q.capb with
    | .error _ => s.release p i q []
    | .ok (s1, es) =>
      match s1.writeMap c q ((List.range q.capb).map (fun k => (k, noEntry))) with
      | .error _ => s1.release p i q es
      | .ok s2 => s2.release p i q es

/-- All result words of a command are 0xFFFF_FFFF (R359). -/
def pfxOnes (c : Cmd) (x : Thread) : Thread :=
  match c.i with
  | .pxfind d _ _ _ => (x.wrG d.toNat 0xFFFFFFFF).wrG (d.toNat + 1) 0xFFFFFFFF
  | .pxins d _ _ _ _ | .pxref d _ _ _ _ | .pxunref d _ _ _ | .kvapp d _ _ _ | .kvtrim d _ _ _ | .attn d _ _ _ =>
    x.wrG d.toNat 0xFFFFFFFF
  | .kvxlat d _ _ => x.wrA d.toNat 0xFFFFFFFFFFFFFFFF
  | _ => x

/-- The sequences of a partition that wait to be released, and can be. -/
def releaseAll (s : State) (p : Nat) : State :=
  (((s.pool p).seqs.cells.filter (fun e => e.2.state == .releasing)).map Prod.fst).foldl (fun s i => s.releaseEnded p i) s

/-- The command ends, and a sequence that waits for it is released. -/
def pfxEndCmd (s : State) (id : Nat) (c : Cmd) : State := (s.endCmd id c).releaseAll (s.cmdPart c)
def pfxEndTrap (s : State) (id : Nat) (c : Cmd) (i : TrapInfo) : State := (s.endTrap id c i).releaseAll (s.cmdPart c)

/-- PFX_FULL and PFX_UE (R173, R180, R219). -/
def pfxRecord (s : State) (c : Cmd) (code : Nat) : State :=
  s.log { code := code, sev := if code = 0x0406 then 0 else 2, action := 1, eclass := 6, part := s.cmdPart c, einst := coreDie c.core }

/-- What a step of a command has come to. -/
def pfxFinish (s : State) (id : Nat) (c : Cmd) (r : PfxRes) : State :=
  match r with
  | .error (.page f va) => s.cmdPageFault id c f va
  | .error .held => s
  | .error e => s.pfxEndTrap id c e.trap
  | .ok (s1, .done f) => (s1.cmdResult c f).pfxEndCmd id c
  | .ok (s1, .desc) => s1.pfxEndTrap id c (trapOf .desc)
  | .ok (_, .full) => ((s.pfxRecord c 0x0406).cmdResult c (pfxOnes c)).pfxEndCmd id c
  | .ok (s1, .lost) => ((s1.pfxRecord c 0x0407).cmdResult c (pfxOnes c)).pfxEndCmd id c
  | .ok (s1, .copying fs) => s1.setCmd id (some { c with started := true, fields := fs })

/-- The sequence record that a command names is lost: the index is FREE, and the Ringmaster releases what its map names
(R172, R180). -/
def seqLost (s : State) (p id : Nat) (c : Cmd) (h : Nat) : Option PfxRes :=
  match s.seqOf p h id with
  | some (i, q) =>
    if !q.bad then none
    else match s.mapEntries c q 0 q.capb with
      | .error _ => some (.ok (s.release p i q [], .lost))
      | .ok (s1, es) => some (.ok (s1.release p i q es, .lost))
  | none => none

/-- The handle that a command names. -/
def pfxHandle (c : Cmd) : Nat :=
  match c.i with
  | .pxins _ _ _ _ _ | .pxref _ _ _ _ _ => c.vals.getD 1 0
  | _ => c.vals.headD 0

end State

end Sys2Proof.Machine
end

