-- ==== Sys2Proof/Machine/Attn.lean ====
section
/-! DEFINITION. Attention over page sets (R177, R178, R365), the issue of the prefix commands, and the events of the prefix
engine, of its pool and of its peers (R164, R179). -/

namespace Sys2Proof.Machine

/-- A triple (m, l, o) of F32 values, with the poison of each. -/
structure Triple where
  m : Nat
  l : Nat
  o : List Nat
  bad : Bool := false
  obad : List Bool := []

def minusInf : Nat := 0xFF800000
def nanWord : Nat := 0x7FC00000

def emptyTriple (dim : Nat) : Triple :=
  { m := minusInf, l := 0, o := List.replicate dim 0, obad := List.replicate dim false }

/-- The merge of R177, each step in F32 with RNE. -/
def merge (a b : Triple) : Triple :=
  if a.m = minusInf then { b with bad := a.bad || b.bad } else if b.m = minusInf then { a with bad := a.bad || b.bad }
  else
    let m := (fminmax true a.m b.m).1
    let e (x : Nat) : Nat := (ex2 ((fsub .rne x m).1)).1
    let mix (x y : Nat) : Nat := (fadd .rne (fmul .rne x (e a.m)).1 (fmul .rne y (e b.m)).1).1
    { m := m, l := mix a.l b.l, o := (a.o.zip b.o).map (fun z => mix z.1 z.2), bad := a.bad || b.bad,
      obad := (a.obad.zip b.obad).map (fun z => z.1 || z.2) }

/-- One level of the fixed tree: neighbours are merged, an unpaired last one passes. -/
def mergeLevel : List Triple → List Triple
  | a :: b :: r => merge a b :: mergeLevel r
  | l => l

/-- The tree over block index (R177): the list begins with a block of a number; an odd one has no partner below it and passes. -/
def mergeTree : Nat → Nat → List Triple → List Triple
  | 0, _, l => l
  | k + 1, first, l =>
    if l.length ≤ 1 then l
    else mergeTree k (first / 2) (if first % 2 = 1 then l.take 1 ++ mergeLevel (l.drop 1) else mergeLevel l)

/-- What a block, or the whole range, has come to: its triple, +inf or NaN among its scores, and a score other than -inf. -/
structure Scored where
  tri : Triple
  inf : Bool := false
  nan : Bool := false
  some_ : Bool := false
  /-- unreachable: it is treated as NaN -/
  lost : Bool := false

/-- The fields of an ATTN descriptor. -/
structure AttnD where
  qva : Nat
  out : Nat
  seq : Nat
  p0 : Nat
  p1 : Nat
  sigma : Nat
  layer : Nat
  hoff : Nat
  dim : Nat
  qtag : Nat
  ktag : Nat
  vtag : Nat
  rsv : Bool

def parseAttn (b : List Byte) : AttnD :=
  { qva := fieldAt b 0 8, out := fieldAt b 8 8, seq := fieldAt b 0x10 4, p0 := fieldAt b 0x14 4, p1 := fieldAt b 0x18 4,
    sigma := fieldAt b 0x1C 4, layer := fieldAt b 0x20 4, hoff := fieldAt b 0x24 4, dim := fieldAt b 0x28 2,
    qtag := fieldAt b 0x2A 1, ktag := fieldAt b 0x2B 1, vtag := fieldAt b 0x2C 1, rsv := (b.drop 0x2D).all (· == 0) }

/-- Bytes of an element of a tag. -/
def tagBytes (t : Nat) : Nat := State.tagWidth t / 8

/-- The descriptor is valid for a pool (R365, R359). -/
def attnOk (q : Pool) (d : AttnD) : Bool :=
  let slot (t : Nat) : Bool := 1 ≤ t && t ≤ 5 && d.hoff + d.dim * tagBytes t ≤ q.slot * 64 && d.hoff % max 1 (tagBytes t) == 0
  d.rsv && 1 ≤ d.dim && d.dim ≤ 1024 && (d.qtag == 1 || d.qtag == 3) && slot d.ktag && slot d.vtag && d.layer < q.layers &&
  !State.pfxBad (BitVec.ofNat 64 d.qva) (tagBytes d.qtag) && !State.pfxBad (BitVec.ofNat 64 d.out) 4

namespace State

/-- n elements of a tag from an address, each with its poison. -/
def vecRead (s : State) (c : Cmd) (va : DWord) (tag n : Nat) : Except EFault (State × List (Val × Bool)) :=
  eachE (fun s i => match s.engRead c (va + BitVec.ofNat 64 (i * tagBytes tag)) (tagBytes tag) with
    | .error e => .error e
    | .ok (s1, bs, p) => .ok (s1, (elemExact tag (leNat bs) 127, p))) s (List.range n)

/-- A reader of n elements of a tag from an address. -/
abbrev VecReader := State → DWord → Nat → Nat → Except EFault (State × List (Val × Bool))

/-- One position is merged into a block's triple (R177). -/
def scorePos (rd : VecReader) (pl : Pool) (s : State) (d : AttnD) (q : List (Val × Bool)) (psn pos : Nat) (a : Scored) :
    Except EFault (State × Scored) :=
  let kva := slotVa pl psn d.layer pos + BitVec.ofNat 64 d.hoff
  match rd s kva d.ktag d.dim with
  | .error e => .error e
  | .ok (s1, ks) =>
    let dot := accumulate (d.qtag == 1 && d.ktag == 1) 0 d.dim (fun _ => true) q ks
    let sc := (fmul .rne d.sigma dot).1
    let bad := q.any Prod.snd || ks.any Prod.snd
    match f32.decode sc with
    | .inf true => .ok (s1, { a with tri := { a.tri with bad := a.tri.bad || bad } })
    | v =>
      match rd s1 (kva + 0x100000) d.vtag d.dim with
      | .error e => .error e
      | .ok (s2, vs) =>
        let t : Triple := { m := sc, l := 0x3F800000, o := vs.map (fun x => (f32.round .rne x.1).1), bad := bad,
                            obad := vs.map Prod.snd }
        .ok (s2, { a with tri := merge a.tri t, inf := a.inf || v == .inf false, nan := a.nan || v.isNan, some_ := true })

/-- The positions of a block, in ascending order. -/
def scoreBlock (rd : VecReader) (pl : Pool) (s : State) (d : AttnD) (q : List (Val × Bool)) (psn : Nat) :
    List Nat → Scored → Except EFault (State × Scored)
  | [], a => .ok (s, a)
  | pos :: r, a =>
    match scorePos rd pl s d q psn pos a with
    | .error e => .error e
    | .ok (s1, b) => scoreBlock rd pl s1 d q psn r b

/-- What a holder answers for a remote block: status bits, m, l and o (R179). -/
def peerBlock (dim : Nat) (r : PeerBlock) : Scored :=
  match r with
  | .served (st :: m :: l :: o) =>
    { tri := { m := m.toNat, l := l.toNat, o := (o.take dim).map BitVec.toNat, obad := List.replicate dim false },
      inf := st.getLsbD 0, nan := st.getLsbD 1, some_ := m.toNat != minusInf }
  | _ => { tri := emptyTriple dim, lost := true }

/-- The remote node of an entry, while it stands. -/
def remoteNode (s : State) (p e : Nat) : Bool := let x := (s.pool p).nodes.get (e - 0x80000000); x.valid && x.station.isSome

/-- The state of the UALink port to the holder of a remote entry: the fixed function of R189 (log 36). -/
def holderPort (s : State) (p e : Nat) : Nat :=
  match ((s.pool p).nodes.get (e - 0x80000000)).station with
  | some h => Config.postPort h.toNat % 16
  | none => 0

/-- LINK_DOWN for a remote block that cannot be reached (R178, R219). -/
def noteUnreached (s : State) (p e : Nat) : State :=
  s.log { code := 0x0504, sev := 2, action := 1, eclass := 12, part := 0xFF, einst := s.holderPort p e }

/-- What comes back about a remote block (R178, R179, R188): unreachable without a node, from a holder that has evicted the page set, or
with its port DOWN or DISABLED; an answer while the port is in service; nothing yet while it trains.  LINK_DOWN is recorded where the
port's own record does not stand already (log 36). -/
def askHolder (s : State) (p e : Nat) (r : PeerBlock) : Option (State × PeerBlock) :=
  let l := s.links.get (s.holderPort p e)
  if l = .down then some (s, .unreachable)
  else if !s.remoteNode p e ∨ l = .disabled then some (s.noteUnreached p e, .unreachable)
  else if (l = .up ∨ l = .degraded) ∧ r ≠ .unreachable then
    some (if r = .gone then (s.noteUnreached p e).dropRemote p (e - 0x80000000) else s, r)
  else none

/-- The blocks of the range one after another; the holders' answers are used in the order of the remote blocks, and the command waits
for one that is not there. -/
def scoreBlocks (c : Cmd) (d : AttnD) (q : List (Val × Bool)) :
    List (Nat × Nat) → List PeerBlock → State → Except EFault (State × List Scored)
  | [], _, s => .ok (s, [])
  | (i, e) :: r, peers, s =>
    let p := s.cmdPart c
    let lo := max d.p0 (16 * i)
    let hi := min d.p1 (16 * i + 16)
    let here : Except EFault (State × Scored) := if isRemote e then
        (match s.askHolder p e (peers.headD .unreachable) with
        | none => .error .held
        | some (s1, ans) => .ok (s1, peerBlock d.dim ans))
      else scoreBlock (fun s va tag n => s.vecRead c va tag n) (s.pool p) s d q e ((List.range (hi - lo)).map (· + lo)) { tri := emptyTriple d.dim }
    match here with
    | .error e => .error e
    | .ok (s1, a) =>
      match scoreBlocks c d q r (if isRemote e then peers.drop 1 else peers) s1 with
      | .error e => .error e
      | .ok (s2, as) => .ok (s2, a :: as)

/-- Words written to an ATTN result, each with its poison. -/
def writeWords (s : State) (c : Cmd) (va : DWord) : List (Nat × Bool) → Except EFault State
  | [] => .ok s
  | (v, bad) :: r =>
    match s.engWrite c 2 va (leBytes 4 v) bad with
    | (_, some e) => .error e
    | (s1, none) => writeWords s1 c (va + 4) r

/-- ATTN (R177, R178, R365), values [descriptor]. -/
def attnStep (s : State) (p id : Nat) (c : Cmd) (g : Nat) (peers : List PeerBlock) : PfxRes :=
  let va := BitVec.ofNat 64 (c.vals.headD 0)
  if pfxBad va 64 then .ok (s, .desc)
  else match s.engRead c va 64 with
    | .error e => .error e
    | .ok (s1, b, bad) =>
      let d := parseAttn b
      let status (n : Nat) : PfxEnd := .done (fun x => x.wrG g (BitVec.ofNat 32 n))
      if bad then .error .poison
      else match s1.seqLost p id c d.seq, s1.seqOf p d.seq id with
        | some r, _ => r
        | none, none => .ok (s1, .desc)
        | none, some (_, q) =>
          if !attnOk (s1.pool p) d then .ok (s1, .desc)
          else if q.len < d.p1 ∨ d.p1 < d.p0 then .ok (s1, status 16)
          else
            let first := d.p0 / 16
            let n := if d.p0 = d.p1 then 0 else (d.p1 - 1) / 16 + 1 - first
            match s1.mapEntries c q first n with
            | .error e => .error e
            | .ok (s2, es) =>
              if es.contains noEntry then .ok (s2, status 16)
              else if es.any (s2.pageLost p) then .ok (s2.loseNodes p es, .lost)
              else match s2.vecRead c (BitVec.ofNat 64 d.qva) d.qtag d.dim with
                | .error e => .error e
                | .ok (s3, qs) =>
                  match scoreBlocks c d qs (((List.range n).map (· + first)).zip es) peers s3 with
                  | .error e => .error e
                  | .ok (s4, as) =>
                    let t := (mergeTree 17 first (as.map Scored.tri)).headD (emptyTriple d.dim)
                    let inf := as.any Scored.inf
                    let nan := as.any Scored.nan
                    let lost := as.any Scored.lost
                    let none_ := !as.any Scored.some_ && !lost
                    let st := (if inf then 1 else 0) + (if nan then 2 else 0) + (if none_ then 4 else 0) + (if lost then 8 else 0)
                    let all := inf || nan || lost
                    let w (v : Nat) : Nat := if all then nanWord else v
                    let outs := [(w t.m, t.bad), (w t.l, t.bad)] ++ (t.o.zip t.obad).map (fun z => (w z.1, z.2 || t.bad))
                    match s4.writeWords c (BitVec.ofNat 64 d.out) outs with
                    | .error e => .error e
                    | .ok s5 => .ok (s5, status st)

/-! Issue and start. -/

/-- A prefix command is performed (R164, R171, R359). -/
def pfxPerform (s : State) (p id : Nat) (c : Cmd) (peers : List PeerBlock) : PfxRes :=
  let q := s.pool p
  if q.count = 0 ∨ q.tenant ≠ c.tenant then .ok (s, .desc)
  else match (match c.i with | .pxfind _ _ _ _ | .attn _ _ _ _ => none | _ => s.seqLost p id c (pfxHandle c)) with
    | some r => r
    | none =>
      match c.i with
      | .pxfind d _ _ _ => s.pxfindStep p c d.toNat
      | .pxins d _ _ _ _ => s.pxinsStep p id c d.toNat
      | .pxref d _ _ _ _ => s.pxrefStep p id c d.toNat
      | .pxunref d _ _ _ => s.pxunrefStep p id c d.toNat
      | .kvapp d _ _ _ => s.kvappStep p id c d.toNat
      | .kvtrim d _ _ _ => s.kvtrimStep p id c d.toNat
      | .kvxlat d _ _ => s.kvxlatStep p id c d.toNat
      | .attn d _ _ _ => s.attnStep p id c d.toNat peers
      | _ => .ok (s, .desc)

/-- Commands of one issue of a troupe's KVXLAT, which the coalescer takes together (R176). -/
def sameIssue (c d : Cmd) : Bool :=
  (match c.i, d.i with | .kvxlat _ _ _, .kvxlat _ _ _ => true | _, _ => false) && c.batch == d.batch && c.pc == d.pc && c.core == d.core

/-- A command of the same sequence accepted before a number comes first (R171); one held back in the operand log is not
accepted yet, and the threads of one KVXLAT do not wait for each other. -/
def pfxAhead (s : State) (id : Nat) (c : Cmd) (mark : Nat) : Bool :=
  mark != 0 && s.cmds.cells.any (fun e => match e.2 with
    | some d => e.1 < id && (match d.eng with | .pfx _ => true | _ => false) && s.cmdPart d == s.cmdPart c && !sameIssue c d &&
        !s.heldBehind d.thr e.1 && (match s.attnSeq e.1 d with | some m => m == mark | none => true)
    | none => false)

def pfxReady (s : State) (id : Nat) (c : Cmd) : Bool :=
  !c.started && c.fault.isNone && s.cmdMayRead id c && (match s.attnSeq id c with | some m => !s.pfxAhead id c m | none => true)

/-- The threads of a KVXLAT's troupe that name the same map entry: the entry is read once for all of them, and a miss is logged for
all (R176). -/
def xlatMates (s : State) (id : Nat) (c : Cmd) : List (Nat × Cmd) :=
  s.cmds.cells.filterMap (fun e => match e.2 with
    | some d => if e.1 ≠ id ∧ sameIssue c d ∧ d.vals.headD 0 = c.vals.headD 0 ∧ xlatPos d / 16 = xlatPos c / 16 ∧ s.pfxReady e.1 d then
        some (e.1, d) else none
    | none => none)

/-- A troupe's threads that name one map entry get their addresses, their traps, or the fault of its read. -/
def xlatAll (s : State) (id : Nat) (c : Cmd) : State :=
  let p := s.cmdPart c
  let r := s.pfxPerform p id c []
  let mates := s.xlatMates id c
  match r, s.seqOf p (c.vals.headD 0) id with
  | .error (.page f va), _ => (mates.foldl (fun s m => s.cmdPageFault m.1 m.2 f va) (s.cmdPageFault id c f va))
  | .ok (s1, .done f), some (_, q) =>
    let e := match s.mapEntry c q (xlatPos c / 16) with | .ok (_, e) => e | .error _ => noEntry
    mates.foldl (fun s m => match m.2.i with
      | .kvxlat d _ _ => s.pfxFinish m.1 m.2 (.ok (s, s.kvxlatEnd p q m.2 d.toNat e))
      | _ => s) (s.pfxFinish id c (.ok (s1, .done f)))
  | r, _ => s.pfxFinish id c r

/-- PFX_COMMAND_START: the oldest command of a die's prefix engine that may start. -/
def pfxNext (s : State) (die : Nat) (peers : List PeerBlock) : State :=
  match (s.cmdsOf (.pfx die)).find? (fun e => s.pfxReady e.1 e.2) with
  | none => s
  | some (id, c) =>
    s.walking die id (fun s => match c.i with
      | .kvxlat _ _ _ => s.xlatAll id c
      | _ => s.pfxFinish id c (s.pfxPerform (s.cmdPart c) id c peers))

/-- The copies of a PXREF are made; the map of the new sequence names each from then on, with its one reference (R168). -/
def refCopies (s : State) (p : Nat) (c : Cmd) (q : Seq) : List (Nat × Nat × Nat) → Except EFault State
  | [] => .ok s
  | (k, src, dst) :: r =>
    match s.pagePa p c src .read with
    | .error e => .error e
    | .ok (s1, a) =>
      match s1.pagePa p c dst .write with
      | .error e => .error e
      | .ok (s2, b) =>
        match (s2.copyPage a b).writeMap c q [(k, dst)] with
        | .error e => .error e
        | .ok s3 => refCopies (s3.setPage p dst { state := .priv, ref := 1 }) p c q r

def triples : List Nat → List (Nat × Nat × Nat)
  | a :: b :: c :: r => (a, b, c) :: triples r
  | _ => []

/-- A KVAPP's copy of a page set here (R174). -/
def appCopy (s : State) (p : Nat) (c : Cmd) (e m : Nat) : Except EFault State :=
  match s.pagePa p c m .write with
  | .error f => .error f
  | .ok (s1, b) =>
    match s1.pagePa p c e .read with
    | .error f => .error f
    | .ok (s2, a) => .ok (s2.copyPage a b)

/-- A KVAPP that cannot end: the page sets that it took go back, the copy as one whose count has reached 0, and its decremented count
comes back. -/
def appUndo (s : State) (p : Nat) (c : Cmd) : State :=
  match c.fields with
  | i :: _ :: b :: e :: m :: blocks =>
    let unmap := (List.range blocks.length).map (fun k => (b + 1 + k, noEntry))
    let s1 := match s.writeMap c ((s.pool p).seqs.get i) unmap with | .ok s1 => s1 | .error _ => s
    ((m :: blocks).reverse.foldl (fun s n => (s.setPage p n { state := .priv, ref := 1 }).pageDown p n) s1).pageUp p e
  | _ => s

/-- A KVAPP's fetch of a remote block (R174, R179): it takes its page sets and fills the first with what the holder sends.  A block
that its holder cannot serve leaves the sequence as it was, with 0xFFFF_FFFF as the result (log 19). -/
def appFetch (s : State) (p : Nat) (c : Cmd) (d : Nat) (i len b e : Nat) (peer : PeerBlock) : PfxRes :=
  let q := (s.pool p).seqs.get i
  let n := c.vals.getD 1 0
  match s.askHolder p e peer with
  | none => .error .held
  | some (s1, .served ws) =>
    let news := appBlocks len n (b + 1)
    match s1.supplied p (1 + news.length) 0 [] with
    | none => .ok (s1, .full)
    | some s2 =>
      let t := takePages (1 + news.length) s2 p
      match t.2.pagePa p c (t.1.headD 0) .write with
      | .error f => .error f
      | .ok (s3, a) =>
        match (s3.fillPage a ws).writeMap c q ((b :: news).zip t.1) with
        | .error f => .error f
        | .ok s4 =>
          let s5 := t.1.foldl (fun s m => s.setPage p m { state := .priv, ref := 1 }) s4
          .ok (s5.setSeq p i { q with len := len + n }, .done (fun x => x.wrG d (BitVec.ofNat 32 len)))
  | some (s1, _) => .ok (s1, .done (pfxOnes c))

/-- A KVAPP's copy is complete: its map entry is released, and LEN advances. -/
def appDone (s : State) (p : Nat) (c : Cmd) (d : Nat) (peer : PeerBlock) : PfxRes :=
  match c.fields with
  | [i, len, b, e] => s.appFetch p c d i len b e peer
  | i :: len :: b :: e :: m :: _ =>
    let q := (s.pool p).seqs.get i
    match s.appCopy p c e m with
    | .error f => .error f
    | .ok s1 =>
      match s1.writeMap c q [(b, m)] with
      | .error f => .error f
      | .ok s2 =>
        let s3 := s2.setPage p m { state := .priv, ref := 1 }
        .ok (s3.setSeq p i { q with len := len + c.vals.getD 1 0 }, .done (fun x => x.wrG d (BitVec.ofNat 32 len)))
  | _ => .error .held

/-- PFX_COPY_DONE (R168, R174). -/
def pfxCopied (s : State) (id : Nat) (peer : PeerBlock) : State :=
  match s.cmds.get id with
  | none => s
  | some c =>
    let p := s.cmdPart c
    if !c.started ∨ c.fault.isSome ∨ s.resultHeld id then s
    else match c.i with
      | .kvapp d _ _ _ => s.pfxFinish id c (s.appDone p c d.toNat peer)
      | .pxref d _ _ _ _ =>
        let i := c.fields.headD 0
        let q := (s.pool p).seqs.get i
        match s.refCopies p c q (triples (c.fields.drop 1)) with
        | .error f => s.pfxFinish id c (.error f)
        | .ok s1 => (s1.cmdResult c (fun x => x.wrG d.toNat (BitVec.ofNat 32 (handleOf q i)))).pfxEndCmd id c
      | _ => s

/-! The pool's registers and the peers. -/

def anySeq (s : State) (p : Nat) : Bool := (s.pool p).seqs.cells.any (fun e => e.2.state != .free)

/-- The frames of a pool are PINNED, and those that are none of a pool any more are not (R165). -/
def repin (s before : State) : State :=
  (s.frames.cells.filter (fun e => s.firstFrame e.1 == e.1)).foldl (fun s e =>
    if s.inPool e.2.tenant e.2.va.toNat e.2.count then s.rmPin e.1
    else if before.inPool e.2.tenant e.2.va.toNat e.2.count then s.rmUnpin e.1 else s) s

/-- PFX_BASE_WRITE (R164): bits [20:0] read 0, and a VA that is not canonical is none. -/
def writePfxBase (s : State) (p : Nat) (v : DWord) : State :=
  if s.anySeq p ∨ !canonical v then s
  else (s.modPool p (fun q => { q with base := BitVec.ofNat 64 (v.toNat / frameBytes * frameBytes) })).repin s

/-- PFX_CFG_WRITE (R164, R168, R172). -/
def writePfxCfg (s : State) (p : Nat) (v : DWord) : State :=
  let tenant := cut v.toNat 58 6
  let layers := cut v.toNat 36 12
  let slot := cut v.toNat 24 12
  let count := cut v.toNat 0 19
  if s.anySeq p ∨ 1024 < layers ∨ 1024 < slot ∨ 393216 < count ∨ (count ≠ 0 ∧ (1024 < layers * slot ∨ layers = 0 ∨ slot = 0)) then s
  else (s.modPool p (fun q => { base := q.base, tenant := tenant, layers := layers, slot := slot, count := count })).repin s

/-- A peer uses a page set that this module holds: the lease of its node runs 1 ms from now (R179). -/
def leaseUse (s : State) (p n : Nat) : State :=
  let e := (s.pool p).pages.get n
  if e.state ≠ .indexed then s
  else s.modPool p (fun q => { q with nodes := q.nodes.modify e.node (fun x => { x with lease := s.stampNow + 1 }) })

/-- The frame of the pool that holds a page set, for a peer's use: by the page's address, whatever process maps it. -/
def poolPa (s : State) (p n : Nat) : Option Nat :=
  let va := (s.pool p).base + BitVec.ofNat 64 (n * frameBytes)
  (s.frames.cells.find? (fun e => e.2.state == .pinned && e.2.head.isNone && e.2.tenant == (s.pool p).tenant && e.2.va == va)).map
    (fun e => e.1 * frameBytes)

def send (s : State) (r : PeerReply) : State := { s with outbox := s.outbox ++ [r] }

/-- The page set that a peer asks for: where it lies, unless it is no node's any more (R179). -/
def held (s : State) (p n : Nat) : Option Nat :=
  if ((s.pool p).pages.get n).state = .indexed then s.poolPa p n else none

/-- REMOTE_FETCH (R174, R179): the holder sends the page set, read at .sys, and its lease runs; or it answers that it has evicted
it. -/
def remoteFetch (s : State) (p n : Nat) : State :=
  match s.held p n with
  | none => s.send .unreachable
  | some pa =>
    let s1 := (s.leaseUse p n).forwardFrame (pa / frameBytes)
    let ws := List.range (frameBytes / 4)
    s1.send (.page (ws.map (fun i => s1.memWord (pa / 4 + i))) (ws.filter (fun i => s1.poison.get (pa / 4 + i))))

/-- Elements of a page set at their home. -/
def homeVec (base pa : Nat) : VecReader := fun s va tag n =>
  let a := pa + (va.toNat - base)
  let k := tagBytes tag
  let s1 := (wordsOf a (n * k)).foldl State.forward s
  .ok (s1, (List.range n).map (fun i => (elemExact tag (leNat (s1.homeLoad (a + i * k) k)) 127, s1.poisonedAt (a + i * k) k)))

/-- REMOTE_ATTN_QUERY (R177, R179): the slice that homes the page set computes the block's triple. -/
def remoteQuery (s : State) (p n : Nat) (x : PeerQuery) : State :=
  match s.held p n with
  | none => s.send .unreachable
  | some pa =>
    let d : AttnD := { qva := 0, out := 0, seq := 0, p0 := x.lo, p1 := x.hi, sigma := x.sigma.toNat, layer := x.layer, hoff := x.hoff,
                       dim := x.dim, qtag := x.qtag, ktag := x.ktag, vtag := x.vtag, rsv := true }
    let q := x.q.map (fun w => (elemExact x.qtag w.toNat 127, false))
    let base := ((s.pool p).base + BitVec.ofNat 64 (n * frameBytes)).toNat
    match scoreBlock (homeVec base pa) (s.pool p) (s.leaseUse p n) d q n ((List.range (x.hi - x.lo)).map (· + x.lo))
        { tri := emptyTriple x.dim } with
    | .error _ => s
    | .ok (s1, a) => s1.send (.triple (BitVec.ofNat 32 ((if a.inf then 1 else 0) + (if a.nan then 2 else 0))) (BitVec.ofNat 32 a.tri.m)
        (BitVec.ofNat 32 a.tri.l) (a.tri.o.map (BitVec.ofNat 32)) (a.tri.bad :: a.tri.obad))

/-- Uncorrectable errors in what the prefix engine keeps (R180). -/
def nodeFails (s : State) (p n : Nat) : State :=
  if ((s.pool p).nodes.get n).valid then s.modPool p (fun q => { q with nodes := q.nodes.modify n (fun x => { x with bad := true }) }) else s
def pageFails (s : State) (p n : Nat) : State :=
  if n < (s.pool p).count then s.modPool p (fun q => { q with pages := q.pages.modify n (fun x => { x with bad := true }) }) else s
def seqFails (s : State) (p n : Nat) : State :=
  if ((s.pool p).seqs.get n).state ≠ .free then s.modPool p (fun q => { q with seqs := q.seqs.modify n (fun x => { x with bad := true }) })
  else s

/-- DIRECTORY_EXCHANGE (R179): a remote node is inserted under a node that exists, or removed. -/
def exchange (s : State) (p : Nat) (op : NodeOp) : State :=
  match op with
  | .insert parent tokens psn station =>
    if tokens.length ≠ 16 ∨ (parent ≠ 0 ∧ !((s.pool p).nodes.get parent).valid) ∨ (s.childOf p parent tokens).isSome ∨ !s.tableRoom p parent ∨
        Config.nodeStore < (s.pool p).nodes.cells.length then s
    else (s.addNode p parent tokens psn.toNat 0 (some station)).2
  | .remove n => if s.remoteNode p (n + 0x80000000) then s.dropRemote p n else s

/-- PROCESS_END (R158, R172): the process's bindings are unbound, and its sequences released. -/
def endProcess (s : State) (asid : BitVec 16) : State :=
  let s1 := s.parts.cells.foldl (fun s q => q.2.bindings.cells.foldl (fun s b =>
    if b.2.asid ≠ asid ∨ b.2.state = .free then s
    else match b.2.state with
      | .computing | .settling => s.setBinding q.1 b.1 { b.2 with leaving := true }
      | .admitting => (s.dropAdmitting q.1 b.1).freeBinding q.1 b.1
      | _ => s.freeBinding q.1 b.1) s) s
  s1.parts.cells.foldl (fun s q => q.2.pool.seqs.cells.foldl (fun s e =>
    if e.2.asid ≠ asid ∨ e.2.state = .free then s
    else (s.setSeq q.1 e.1 { e.2 with state := .releasing, last := if e.2.state = .live then s.nextId else e.2.last }).releaseEnded q.1 e.1) s) s1

end State

/-- A PXUNREF is accepted: behind earlier commands of its sequence, the sequence is RELEASING (R172). -/
def State.unrefWaits (s : State) (id : Nat) : State :=
  match s.cmds.get id with
  | none => s
  | some c =>
    let p := s.cmdPart c
    match c.i, s.seqOf p (c.vals.headD 0) id with
    | .pxunref _ _ _ _, some (i, q) =>
      if q.state = .live ∧ !s.heldBehind c.thr id ∧ s.pfxAhead id c c.mark then s.setSeq p i { q with state := .releasing, last := id + 1 } else s
    | _, _ => s

/-- A prefix command at issue (R359): a flag is required, an address outside every space traps ADDRESS, and the engine has
room for 64. -/
def pfx (i : Instr) (f : BitVec 1) (o : BitVec 2) (a : Option Nat) (gs : List Nat) (handle : Option Nat) (s : State) (t : Nat) : TRes :=
  let x := s.thr t
  let e : Eng := .pfx (coreDie (s.coreOf t))
  if !needFlag x f then illegal
  else s.operands t gs [] none noCheck (fun s vs =>
    if a.any (fun n => s.badAddress t (x.rdA n)) then .trap (trapAt .address (x.rdA (a.getD 0)))
    else match s.cmdHinder t e 64 (x.flagOf f) with
      | some r => r
      | none =>
        let vals := (match a with | some n => [(x.rdA n).toNat] | none => []) ++ vs.map BitVec.toNat
        let mark := match handle with | some k => (vs.getD k 0).toNat % 2 ^ 20 + 1 | none => 0
        let c := { s.newCmd t e i vals (x.flagOf f) o with scope := 4, tag := 64, mark := mark }
        .done ((s.enter c).unrefWaits s.nextId) none)

/-- PXFIND (R360). -/
def execPxfind (d : BitVec 6) (a : BitVec 4) (f : BitVec 1) (o : BitVec 2) (s : State) : Out :=
  s.run (.pxfind d a f o) false (pfx (.pxfind d a f o) f o (some a.toNat) [] none)
/-- PXINS (R361). -/
def execPxins (d : BitVec 6) (a : BitVec 4) (b : BitVec 6) (f : BitVec 1) (o : BitVec 2) (s : State) : Out :=
  s.run (.pxins d a b f o) false (pfx (.pxins d a b f o) f o (some a.toNat) [b.toNat, b.toNat + 1] (some 0))
/-- PXREF (R362). -/
def execPxref (d : BitVec 6) (a : BitVec 4) (b : BitVec 6) (f : BitVec 1) (o : BitVec 2) (s : State) : Out :=
  s.run (.pxref d a b f o) false (pfx (.pxref d a b f o) f o (some a.toNat) [b.toNat] (some 0))
/-- PXUNREF (R362). -/
def execPxunref (d b : BitVec 6) (f : BitVec 1) (o : BitVec 2) (s : State) : Out :=
  s.run (.pxunref d b f o) false (pfx (.pxunref d b f o) f o none [b.toNat] (some 0))
/-- KVAPP (R363). -/
def execKvapp (d b : BitVec 6) (f : BitVec 1) (o : BitVec 2) (s : State) : Out :=
  s.run (.kvapp d b f o) false (pfx (.kvapp d b f o) f o none [b.toNat, b.toNat + 1] (some 0))
/-- KVTRIM (R363). -/
def execKvtrim (d b : BitVec 6) (f : BitVec 1) (o : BitVec 2) (s : State) : Out :=
  s.run (.kvtrim d b f o) false (pfx (.kvtrim d b f o) f o none [b.toNat, b.toNat + 1] (some 0))
/-- KVXLAT (R364). -/
def execKvxlat (d : BitVec 4) (b : BitVec 6) (f : BitVec 1) (s : State) : Out :=
  s.run (.kvxlat d b f) false (pfx (.kvxlat d b f) f 0 none [b.toNat, b.toNat + 1] (some 0))
/-- ATTN (R365). -/
def execAttn (d : BitVec 6) (a : BitVec 4) (f : BitVec 1) (o : BitVec 2) (s : State) : Out :=
  s.run (.attn d a f o) false (pfx (.attn d a f o) f o (some a.toNat) [] none)

def execPfxBaseWrite (part : Nat) (v : DWord) (s : State) : Out := .next (s.writePfxBase part v)
def execPfxCfgWrite (part : Nat) (v : DWord) (s : State) : Out := .next (s.writePfxCfg part v)
def execPfxCommandStart (die : Nat) (peers : List PeerBlock) (s : State) : Out := 
  .next (s.inject die 3 63 (2 ^ 64) (fun t => t.cmds != s.cmds) (fun s => s.pfxNext die peers))
def execPfxCopyDone (idx : Nat) (peer : PeerBlock) (s : State) : Out := .next (match s.cmds.get idx with
    | some c => s.inject (coreDie c.core) 3 63 idx (fun t => t.cmds.get idx != some c) (fun s => s.walking (coreDie c.core) idx (fun s => s.pfxCopied idx peer))
    | none => s)
def execRemoteFetch (part psn : Nat) (s : State) : Out := .next (s.remoteFetch part psn)
def execRemoteAttnQuery (part : Nat) (q : PeerQuery) (s : State) : Out := .next (s.remoteQuery part q.psn q)
def execDirectoryExchange (part : Nat) (op : NodeOp) (s : State) : Out := .next (s.exchange part op)
def execProcessEnd (asid : BitVec 16) (s : State) : Out := .next (s.endProcess asid)

end Sys2Proof.Machine
end

