-- ==== Sys2Proof/Machine/Context.lean ====
section
/-! DEFINITION. The context commands (R77–R83, R381, R382): swap, spill, load and discard, the save area, and the end of a
context (R94). -/

namespace Sys2Proof.Machine

/-- State codes of a barrier in the save area (R382). -/
def Barrier.code (b : Barrier) : Nat :=
  if !b.granted then 0 else if b.dead then 4 else if !b.releasing.isEmpty then 3 else if b.count ≠ 0 then 2 else 1

/-- A bitmap of n bits, lowest first, as bytes. -/
def bitmap (n : Nat) (p : Nat → Bool) : List Byte :=
  leBytes (n / 8) ((List.range n).foldl (fun acc i => if p i then acc + 2 ^ i else acc) 0)

namespace State

/-- The command field STATUS takes a value. -/
def setStatus (s : State) (core n : Nat) : State := s.modCore core (fun c => { c with cmdStatus := BitVec.ofNat 4 n })

/-- The context in the shadow bank. -/
def shadowCtx (s : State) (core : Nat) : Nat := let k := s.core core; k.ctxIn k.shadowBank

/-- CTX_SWAP (R77, R78, R82). -/
def ctxSwapWrite (s : State) (core : Nat) : State :=
  let k := s.core core
  if k.cmdBusy.any (· != .spill) then s.setStatus core 4
  else (s.modCore core (fun c => { c with cmdBusy := some .swapWait })).trySwap core

/-- SWAP_END: cycle 48. -/
def swapEnds (s : State) (core : Nat) : State :=
  let k := s.core core
  if k.cmdBusy = some .swap ∧ k.idleUntil ≤ s.cycle then
    s.modCore core (fun c => { c with cmdBusy := none, cmdStatus := 0 })
  else s

/-- The occupied slots of a context. -/
def occupied (s : State) (c : Nat) : List Nat := s.slotsOf c (fun x => x.run != .free)

/-- CTX_SPILL (R77, R79). -/
def ctxSpillWrite (s : State) (core : Nat) (save : BitVec 26) : State :=
  let k := s.core core
  let c := s.shadowCtx core
  if k.cmdBusy.isSome then s.setStatus core 4
  else
    let s1 := s.modCore core (fun x => { x with cmdSave := save })
    if c = 0 then s1.setStatus core 2
    else
      let s2 := s1.modCore core (fun x => { x with cmdBusy := some .spill })
      let ac := k.ctxIn k.activeBank
      (s2.ctxTo core k.shadowBank c .spilling).modCtx c (fun x =>
        { x with save := save.toNat * 2 ^ 22, passed := 0, movedAt := 0, slots := s.occupied c,
                 ovPad := common (s.padSpans ac) (s.padSpans c), ovShare := common (s.shareSpans ac) (s.shareSpans c) })

/-- The physical place of byte q of a core's share of cluster memory (R97). -/
def shareAt (core q : Nat) : Nat := coreCluster core * 2 ^ 21 + q / 256 * 2048 + core % 8 * 256 + q % 256

/-- The lane bytes of a slot (R374). -/
def laneBytes (s : State) (c k : Nat) : Nat := (s.group (s.thr (threadKey c k)).group).lane

/-- The groups of a context. -/
def groupsIn (s : State) (c : Nat) : Nat := (s.groups.cells.filter (fun e => e.2.ctx == c && holds e.2)).length

/-- The bytes of the parts that the Gleaner writes of a context, and a LOAD reads: in the order of R79 and R374 the pad and cluster
bytes, the thread records, lanes, tiles, barriers, tags, troupe words, log entries and groups, and the header. -/
def spillSize (s : State) (c : Nat) : Nat :=
  below (s.padSpans c) (2 ^ 20) + below (s.shareSpans c) (2 ^ 20) +
  (s.occupied c).foldl (fun n k => n + 1152 + s.laneBytes c k + 4) 0 +
  ((s.ctx c).tiles.cells.filter (fun e => e.2.group != 0)).length * 16392 +
  ((s.ctx c).barriers.cells.filter (fun e => e.2.granted)).length * 144 + 8 + 128 * s.logCount c + 32 * s.groupsIn c + 256

/-- A byte of a core's pad or share of cluster memory goes to the save area, with its word's poison when it is the last. -/
def areaPad (s : State) (c p : Nat) : State :=
  let x := s.ctx c
  let a := c * 2 ^ 20 + p
  let w := s.homeStore (x.save + 0x190000 + p) [s.pad.get a]
  if p % 4 = 3 then w.markPoison ((x.save + 0x190000 + p) / 4) (s.localPoison (.pad (a - 3)) 4) else w

def areaShare (s : State) (c q : Nat) : State :=
  let x := s.ctx c
  let a := shareAt x.core q
  let w := s.homeStore (x.save + 0x250000 + q) [s.clus.get a]
  if q % 4 = 3 then w.markPoison ((x.save + 0x250000 + q) / 4) (s.localPoison (.clus (a - 3)) 4) else w

/-- GLEANER_TRANSFER: 128 bytes more of the spill under way, one transfer a cycle (R79, R80, R374): of the bytes that both contexts'
allocations hold, core pad before cluster memory and each in ascending order, the next ones are written as they stand now; then the
slots whose records begin in the transfer are read. -/
def gleanerMoves (s : State) (core : Nat) : State :=
  let c := s.shadowCtx core
  let x := s.ctx c
  if x.state ≠ .spilling ∨ s.cycle < x.movedAt then s
  else
    let todo := ((spanBytes x.ovPad).map (fun p => (false, p)) ++ (spanBytes x.ovShare).map (fun q => (true, q))).drop (128 * x.passed)
    let s1 := (todo.take 128).foldl (fun s e => if e.1 then s.areaShare c e.2 else s.areaPad c e.2) s
    let now := (List.range x.slots.length).filterMap (fun i => if recordTransfer x i = x.passed then x.slots[i]? else none)
    let s2 := now.foldl (fun s k => s.homeStore (s.recordAt (threadKey c k)) (s.threadRecord (threadKey c k))) s1
    s2.modCtx c (fun x => { x with passed := x.passed + 1, movedAt := s.cycle + 1 })

/-- A local word's bytes are written to the save area, with its poison. -/
def areaWord (s : State) (at_ : Nat) (v : List Byte) (bad : Bool) : State := (s.homeStore at_ v).markPoison (at_ / 4) bad

/-- Bytes of a save area whose contents are private to the implementation (R382, log 4). -/
def areaPrivate (s : State) (at_ words : Nat) : State :=
  (List.range words).foldl (fun s i =>
    let d := s.draw
    d.2.homeStore (at_ + 4 * i) (leBytes 4 d.1.toNat)) s

/-- The lowest and the end of the spans. -/
def spanLo (rs : List (Nat × Nat)) : Nat := (rs.map Prod.fst).foldl min (if rs.isEmpty then 0 else 2 ^ 20)
def spanHi (rs : List (Nat × Nat)) : Nat := (rs.map (fun r => r.1 + r.2)).foldl max 0

/-- The header (R381); SPILLPOS is private to the implementation. -/
def areaHeader (s : State) (c : Nat) : List Byte :=
  let x := s.ctx c
  let tile (i : Nat) : Nat :=
    let t := x.tiles.get i
    if t.group = 0 then 0 else (BitVec.ofNat 32 (t.reruns.toNat * 256 + if t.fail then 1 else 0)).toNat + 2 ^ 32 + 2 ^ 40
  recBytes [(4, 0x4B375341), (2, c), (1, x.tenant.toNat), (1, 1), (4, spanLo (s.padSpans c)), (4, spanHi (s.padSpans c)),
    (4, spanLo (s.shareSpans c)), (4, spanHi (s.shareSpans c))] ++
  (List.range 8).flatMap (fun i => leBytes 8 (tile i)) ++ leBytes 8 0 ++
  bitmap 32 (fun i => (x.barriers.get i).granted) ++
  recBytes [(4, s.groupsIn c), (4, s.logCount c), (20, 0)] ++
  bitmap 1024 (fun i => (s.thr (threadKey c i)).run != .free)

/-- One barrier (R382). -/
def areaBarrier (s : State) (c i : Nat) : List Byte :=
  let b := (s.ctx c).barriers.get i
  let idx := (s.groups.cells.filter (fun e => e.2.ctx == c && holds e.2 && e.1 < b.group)).length
  recBytes [(2, b.expect), (2, b.count), (2, b.drops), (1, if b.phase then 1 else 0), (1, b.code), (2, idx), (1, b.level),
    (1, b.rbase), (4, 0)]

/-- The parts of the save area are written in which the context holds state (R79, R374, R381, R382), the header last; the bytes that
the Gleaner has passed first stand there already.  The group table, the troupe words, the operand-log entries and SPILLPOS are private to the implementation: what they
say stands in the machine's tables, and their bytes are free. -/
def writeArea (s : State) (c : Nat) : State :=
  let x := s.ctx c
  let s1 := (s.occupied c).foldl (fun s k =>
    let t := threadKey c k
    let s := s.homeStore (s.recordAt t) (s.threadRecord t)
    (List.range ((s.laneBytes c k + 3) / 4)).foldl (fun s j =>
      s.areaWord (x.save + 0x130000 + 256 * k + 4 * j) (s.lane.bytes (t * 256 + 4 * j) 4) (s.localPoison (.lane (t * 256 + 4 * j)) 4)) s) s
  let s2 := (List.range 8).foldl (fun s i =>
    let t := x.tiles.get i
    if t.group = 0 then s
    else (List.range 4096).foldl (fun s e =>
      s.areaWord (x.save + 0x170000 + 16384 * i + 4 * e) (leBytes 4 (t.elems.get e).toNat) (t.bad.get e))
      (s.homeStore (x.save + 0x340 + 8 * i) (leBytes 2 t.sc.toNat ++ leBytes 2 t.sn.toNat ++ leBytes 4 0))) s1
  let s3 := ((List.range 32).filter (fun i => (x.barriers.get i).granted)).foldl (fun s i =>
    let s := s.homeStore (x.save + 0x100 + 16 * i) (s.areaBarrier c i)
    s.homeStore (x.save + 0x1000 + 128 * i) (bitmap 1024 (fun k => ((x.barriers.get i).arrived.get k)))) s2
  let s4 := s3.homeStore (x.save + 0x300) (leBytes 8 x.tags.toNat)
  let s5 := ((spanBytes (s4.padSpans c)).filter (fun p => below x.ovPad (p + 1) == below x.ovPad p)).foldl
    (fun s p => s.areaPad c p) s4
  let s6 := ((spanBytes (s5.shareSpans c)).filter (fun q => below x.ovShare (q + 1) == below x.ovShare q)).foldl
    (fun s q => s.areaShare c q) s5
  let s7 := (s6.areaPrivate (x.save + 0x2000) (8 * s.groupsIn c)).areaPrivate (x.save + 0x290000) (32 * s.logCount c)
  let s8 := (s.occupied c).foldl (fun s k => s.areaPrivate (x.save + 0xA000 + 4 * k) 1) s7
  ((s8.homeStore x.save (s8.areaHeader c)).areaPrivate (x.save + 0x58) 2).modCtx c (fun x => { x with passed := 0, movedAt := 0, slots := [], ovPad := [], ovShare := [] })

/-- A command of a context that is still to write one of its tiles (R327); one that waits for its fault, or behind one that does,
is saved with the operand log. -/
def writesTile (s : State) (c : Nat) : Bool :=
  s.cmds.cells.any (fun e => match e.2 with
    | some x => (match x.eng with | .matrix _ => true | _ => false) && (s.group x.group).ctx == c && !x.started &&
        (match x.i with | .xst _ _ _ _ _ => false | _ => true) && x.fault.isNone && !s.heldBehind x.thr e.1
    | none => false)

/-- SPILL_DONE (R79, R374), in the cycle after the last transfer: the last byte is written, the tiles once every accepted command that writes one has completed (R327); the
bank is free. -/
def spillEnds (s : State) (core : Nat) : State :=
  let k := s.core core
  let c := s.shadowCtx core
  if (s.ctx c).state ≠ .spilling ∨ k.cmdBusy ≠ some .spill ∨ s.cycle < (s.ctx c).movedAt ∨ 128 * (s.ctx c).passed < s.spillSize c ∨
      s.writesTile c then s
  else
    let s1 := (s.writeArea c).ctxTo core k.shadowBank c .spilled
    s1.modCore core (fun x => { (x.setCtx x.shadowBank 0) with cmdBusy := none, cmdStatus := 0 })

/-- Bytes of a save area as the Gleaner reads them. -/
def areaNat (s : State) (save off n : Nat) : Nat := leNat (s.homeLoad (save + off) n)

/-- CTX_LOAD (R77, R82, R83, R381): a context that comes into being takes the address space that the Ringmaster gives it. -/
def ctxLoadWrite (s : State) (core : Nat) (save : BitVec 26) (ctx asid : BitVec 16) : State :=
  let k := s.core core
  let c := ctx.toNat
  let a := save.toNat * 2 ^ 22
  if k.cmdBusy.isSome then s.setStatus core 4
  else
    let s1 := s.modCore core (fun x => { x with cmdSave := save, cmdCtx := ctx })
    if s.shadowCtx core ≠ 0 then s1.setStatus core 1
    else if c = 0 ∨ s.areaNat a 0 4 ≠ 0x4B375341 ∨ s.areaNat a 4 2 ≠ c ∨ s.areaNat a 7 1 ≠ 1 then s1.setStatus core 3
    else
      let fresh := (s.ctx c).state == .absent || (s.ctx c).state == .destroyed
      let s2 := s1.modCtx c (fun x =>
        let y := if fresh then { asid := asid } else x
        { y with core := core, bank := k.shadowBank, tenant := BitVec.ofNat 6 (s.areaNat a 6 1), save := a })
      let s2 := if fresh then s2 else s2.passEpoch (s.ctx c).core core
      let s3 := (s2.endHandles c (some core)).modCore core (fun x =>
        { (x.setCtx x.shadowBank c) with cmdBusy := some .load, loadDue := s.cycle + (s2.spillSize c + 127) / 128 + 520 })
      s3.ctxTo core k.shadowBank c .loading

/-- A barrier as its bytes give it, over what is private of it. -/
def readBarrier (s : State) (a i : Nat) (b : Barrier) : Barrier :=
  let n (o k : Nat) : Nat := s.areaNat (a + 0x100 + 16 * i) o k
  { b with granted := true, expect := n 0 2, count := n 2 2, drops := n 4 2, phase := n 6 1 % 2 == 1, dead := n 7 1 == 4,
           level := n 10 1, rbase := n 11 1,
           arrived := (List.range 1024).foldl (fun t k =>
             t.set k (s.areaNat (a + 0x1000 + 128 * i + k / 8) 0 1 / 2 ^ (k % 8) % 2 == 1)) {} }

/-- A tile as its bytes give it. -/
def readTile (s : State) (a i : Nat) (t : Tile) : Tile :=
  let h := s.areaNat a (0x18 + 8 * i) 8
  { t with reruns := BitVec.ofNat 8 (h / 256), fail := h % 2 == 1,
           sc := BitVec.ofNat 16 (s.areaNat a (0x340 + 8 * i) 2), sn := BitVec.ofNat 16 (s.areaNat a (0x342 + 8 * i) 2),
           elems := (List.range 4096).foldl (fun m e => m.set e (BitVec.ofNat 32 (s.areaNat a (0x170000 + 16384 * i + 4 * e) 4))) {},
           bad := (List.range 4096).foldl (fun m e => m.set e (s.poison.get ((a + 0x170000 + 16384 * i) / 4 + e))) {} }

/-- A word of the area goes back to a local place, with its poison. -/
def localWord (s : State) (pl : Place) (at_ : Nat) : State :=
  let s1 := s.localStore pl (s.homeLoad at_ 4)
  if s.poison.get (at_ / 4) then { s1 with lpoison := s1.lpoison.set (localByte pl / 4) true } else s1

/-- The save area is read back (R82, R381): what SLOTMAP, BARMAP, the granted tiles and the spans name. -/
def readArea (s : State) (c : Nat) : State :=
  let x := s.ctx c
  let a := x.save
  let slots := (List.range 1024).filter (fun k => s.areaNat a (0x80 + k / 8) 1 / 2 ^ (k % 8) % 2 == 1)
  let s1 := slots.foldl (fun s k =>
    let t := threadKey c k
    let s := (s.setThr t (readRecord (s.thr t) (s.homeLoad (a + 0x10000 + 1152 * k) 1152))).findPorts t
    (List.range ((s.laneBytes c k + 3) / 4)).foldl (fun s j => s.localWord (.lane (t * 256 + 4 * j)) (a + 0x130000 + 256 * k + 4 * j)) s) s
  let s2 := (List.range 32).foldl (fun s i =>
    if s.areaNat a 0x60 4 / 2 ^ i % 2 = 1 then
      s.modCtx c (fun x => { x with barriers := x.barriers.modify i (s.readBarrier a i) }) else s) s1
  let s3 := (List.range 8).foldl (fun s i =>
    if s.areaNat a (0x18 + 8 * i) 8 / 2 ^ 40 % 2 = 1 then
      s.modCtx c (fun x => { x with tiles := x.tiles.modify i (s.readTile a i) }) else s) s2
  let s4 := s3.modCtx c (fun x => { x with tags := BitVec.ofNat 64 (s.areaNat a 0x300 8) })
  let words (rs : List (Nat × Nat)) (lo hi : Nat) : List Nat := (spanBytes rs).filter (fun p => p % 4 == 0 && lo ≤ p && p < hi)
  let s5 := (words (s4.padSpans c) (s.areaNat a 8 4) (s.areaNat a 0xC 4)).foldl (fun s p =>
    s.localWord (.pad (c * 2 ^ 20 + p)) (a + 0x190000 + p)) s4
  (words (s5.shareSpans c) (s.areaNat a 0x10 4) (s.areaNat a 0x14 4)).foldl (fun s q =>
    s.localWord (.clus (shareAt x.core q)) (a + 0x250000 + q)) s5

/-- The place of an access's part in the cluster memory of another cluster. -/
def moveCluster (cl : Nat) (p : Piece) : Piece :=
  match p.place with
  | .clus a => { p with place := .clus (cl * 2 ^ 21 + a % 2 ^ 21) }
  | _ => p

/-- A post held at the Gleaner is applied (R94). -/
def applyHeld (s : State) (id : Nat) : State :=
  match s.posts.get id with
  | none => s
  | some p =>
    let r := (s.learn (handleCore p.handle) p.epoch).present (if p.peer then none else some (p.thr, p.pc)) p.handle p.off p.wide p.value p.wvalue
    let st := match r.2 with | none => PostStage.acked | some c => .rejected c
    { r.1 with posts := r.1.posts.set id (if p.peer then none else some { p with stage := st }) }

/-- The posts held for a context, in the order in which they arrived. -/
def heldPosts (s : State) (c : Nat) : List Nat :=
  (sortBy lexLe (s.posts.cells.filterMap (fun e => match e.2 with
    | some p => match p.stage with
      | .held n => if (s.handle (handleCore p.handle) (handleIdx p.handle)).ctx = c then some (n, e.1) else none
      | _ => none
    | none => none))).map Prod.snd

/-- LOAD_DONE (R82, R94, R374, R381): the posts held meanwhile are applied, the context is SHADOW, and its save area serves no second
load.  Groups that used cluster memory use that of the new core's cluster. -/
def loadEnds (s : State) (core : Nat) : State :=
  let k := s.core core
  let c := s.shadowCtx core
  if (s.ctx c).state ≠ .loading ∨ s.cycle < k.loadDue then s
  else
    let s1 := s.readArea c
    let s2 := s1.homeStore ((s.ctx c).save + 7) [0]
    let s3 := { s2 with
      groups := s2.groups.mapCells (fun _ g => if g.ctx = c ∧ g.cluLen ≠ 0 then { g with cluster := coreCluster core } else g)
      accs := s2.accs.mapCells (fun _ o => o.map (fun (a : Access) =>
        if keyCtx (slotKey a.thr) = c then { a with core := core, pieces := a.pieces.map (moveCluster (coreCluster core)) } else a)) }
    let s4 := (s3.heldPosts c).foldl State.applyHeld s3
    (s4.ctxTo core k.shadowBank c .shadow).modCore core (fun x => { x with cmdBusy := none, cmdStatus := 0 })

/-- A context is DESTROYED (R77, R94, R346): its groups are discarded, every kernel with a group there is cancelled, and
handles to its registers end. -/
def destroyCtx (s : State) (core bank c : Nat) : State :=
  let gs := s.groups.keys.filter (fun g => (s.group g).ctx == c && holds (s.group g))
  let ks := (gs.map (fun g => (s.group g).kernel)).eraseDups
  let s1 := gs.foldl (fun s g => s.discardGroup g) s
  let s2 := ks.foldl (fun s k => s.cancelKernel k false) s1
  let s3 := s2.endHandles c none
  (s3.modCtx c (fun x => { state := x.state, core := x.core, bank := x.bank, tenant := x.tenant, asid := x.asid })).ctxTo core bank c
    .destroyed

/-- CTX_DISCARD (R77). -/
def ctxDiscardWrite (s : State) (core : Nat) : State :=
  let k := s.core core
  let c := s.shadowCtx core
  if k.cmdBusy.isSome then s.setStatus core 4
  else if c = 0 then s.setStatus core 2
  else
    let s1 := s.destroyCtx core k.shadowBank c
    s1.modCore core (fun x => { (x.setCtx x.shadowBank 0) with cmdStatus := 0 })

/-- CTX_CMD_BAD (R77). -/
def ctxBadWrite (s : State) (core : Nat) (cmd : BitVec 3) : State :=
  if 1 ≤ cmd.toNat ∧ cmd.toNat ≤ 4 then s
  else s.setStatus core (if (s.core core).cmdBusy.isSome then 4 else 5)

/-- CONTEXT_DESTROY (R94): of a SPILLED context. -/
def destroySpilled (s : State) (c : Nat) : State :=
  if (s.ctx c).state = .spilled then s.destroyCtx (s.ctx c).core (s.ctx c).bank c else s

/-- The whole word at CTX_CMD (R77). -/
def ctxCmdWord (s : State) (core : Nat) : DWord :=
  let k := s.core core
  BitVec.ofNat 64 (k.cmdCtx.toNat * 2 ^ 48 + k.cmdSave.toNat * 2 ^ 22 + k.cmdStatus.toNat * 2 ^ 16 +
    (if k.cmdBusy.isSome then 2 ^ 15 else 0))

end State

def execCtxSwap (core : Nat) (s : State) : Out := .next (s.ctxSwapWrite core)
def execCtxSpill (core : Nat) (save : BitVec 26) (s : State) : Out := .next (s.ctxSpillWrite core save)
def execCtxLoad (core : Nat) (save : BitVec 26) (ctx asid : BitVec 16) (s : State) : Out := .next (s.ctxLoadWrite core save ctx asid)
def execCtxDiscard (core : Nat) (s : State) : Out := .next (s.ctxDiscardWrite core)
def execCtxCmdBad (core : Nat) (cmd : BitVec 3) (s : State) : Out := .next (s.ctxBadWrite core cmd)
def execSwapEnd (core : Nat) (s : State) : Out := .next (s.swapEnds core)
def execSpillDone (core : Nat) (s : State) : Out := .next (s.spillEnds core)
def execLoadDone (core : Nat) (s : State) : Out := .next (s.loadEnds core)
def execGleanerTransfer (core : Nat) (s : State) : Out := 
  .next (s.inject (coreDie core) 4 (core % 56) (2 ^ 64) (fun t => (t.ctx (s.shadowCtx core)).passed != (s.ctx (s.shadowCtx core)).passed)
    (fun s => s.gleanerMoves core))
def execContextDestroy (ctx : BitVec 16) (s : State) : Out := .next (s.destroySpilled ctx.toNat)

end Sys2Proof.Machine
end

