-- ==== Sys2Proof/Machine/Faults.lean ====
section
/-! DEFINITION. What becomes of faults (R86–R88, R140, R142, R176, R206, R329, R342): the attendant settles a logged fault of
an access or of an engine's command, and what the operand log holds is replayed. -/

namespace Sys2Proof.Machine

namespace State

/-- The page of an address is being moved: a write to it is held in the operand log until the migration ends, and then replays
(R140). -/
def inMigration (s : State) (asid : BitVec 16) (va : DWord) : Bool :=
  match s.physOf asid va.toNat with
  | some pa => (s.frame (pa / frameBytes)).state == .migrating
  | none => false

/-- A PXREF that ends while its copies go on leaves nothing: its index is released with all that its map names. -/
def refUndo (s : State) (p : Nat) (c : Cmd) : State :=
  let i := c.fields.headD 0
  let q := (s.pool p).seqs.get i
  let s1 := (triples (c.fields.drop 1)).foldl (fun s e => (s.setPage p e.2.2 { state := .priv, ref := 1 }).pageDown p e.2.2) s
  match s1.mapEntries c q 0 q.capb with
  | .ok (s2, es) => s2.release p i q es
  | .error _ => s1.release p i q []

/-- A prefix command that cannot go on has no effect. -/
def pfxUndo (s : State) (p : Nat) (c : Cmd) : State :=
  if !c.started then s
  else match c.i with
    | .kvapp _ _ _ _ => s.appUndo p c
    | .pxref _ _ _ _ _ => s.refUndo p c
    | _ => s

/-- A command that waits with a fault is tried again. -/
def retryCmd (s : State) (id : Nat) (c : Cmd) : State :=
  let s1 := s.setCmd id (some { c with fault := none, resolved := false })
  match c.i with
  | .bind _ _ _ _ => s1.bindTry id
  | _ => s1

/-- A fault that the attendant cannot resolve, of a command at an address (R88, R176, R329, R342, R355, log 20). -/
def failCmd (s : State) (id : Nat) (c : Cmd) (f : XFault) (va : DWord) : State :=
  if cmdLogged c then s.trapLate c.thr c.pc (xTrap f va) c.batch
  else match c.eng with
    | .streamer _ => s.strmFail id { c with fault := none } (some va)
    | .pfx _ => (s.pfxUndo (s.cmdPart c) c).pfxEndTrap id c (xTrap f va)
    | _ => s.endTrap id c (xTrap f va)

/-- A handler discards a command's entry: its flag completes, and no register is written (R88). -/
def dropCmd (s : State) (id : Nat) (c : Cmd) : State :=
  match c.eng with
  | .pfx _ => (s.pfxUndo (s.cmdPart c) c).pfxEndCmd id c
  | _ => s.endCmd id c

/-- The attendant settles the fault of a command. -/
def settleCmd (s : State) (id : Nat) (c : Cmd) (fate : FaultFate) : State :=
  match c.fault with
  | none => s
  | some (f, va) =>
    if !s.fateStands id (coreDie c.core) c.asid va [.read, .write] f fate then s
    else match fate with
    | .resolve => if cmdLogged c then s.setCmd id (some { c with resolved := true }) else s.retryCmd id c
    | .outside | .permission | .walkUE => if s.inMigration c.asid va then s else s.failCmd id c f va
    | .discard => if cmdLogged c ∧ !s.inMigration c.asid va then s.dropCmd id c else s

/-- The address that an access's fault names. -/
def faultVa (a : Access) : Option DWord := (faultOf a).map (fun f => f.2.va)

/-- ATTENDANT_FAULT_HANDLE. -/
def settle (s : State) (id : Nat) (fate : FaultFate) : State :=
  match s.accs.get id, s.cmds.get id with
  | some a, _ =>
    let moving : Bool := match faultVa a with | some va => s.inMigration a.asid va | none => false
    if fate ≠ .resolve ∧ moving then s else s.settleFault id fate
  | none, some c => s.settleCmd id c fate
  | none, none => s

/-- OPERAND_LOG_REPLAY: a settled entry whose turn it is goes on. -/
def replayEntry (s : State) (id : Nat) : State :=
  match s.accs.get id, s.cmds.get id with
  | some _, _ => s.replay id
  | none, some c =>
    if !cmdLogged c || !c.resolved || s.heldBehind c.thr id || !s.mayReplay c.thr then s
    else
      let s1 := s.retryCmd id c
      s1.wakeCtx (keyCtx c.thr)
  | none, none => s

end State

/-- ATTENDANT_FAULT_HANDLE (R86, R88, R206). -/
def execAttendantFaultHandle (id : Nat) (fate : FaultFate) (s : State) : Out := .next (s.settle id fate)

/-- OPERAND_LOG_REPLAY (R86, R87). -/
def execOperandLogReplay (id : Nat) (s : State) : Out := .next (s.replayEntry id)

end Sys2Proof.Machine
end

