-- ==== Sys2Proof/Machine/Flits.lean ====
section
/-! DEFINITION. Flits at their destinations (R181, R182): ejection, refusal and circulation, and parity with resend. -/

namespace Sys2Proof.Machine

namespace State

/-- A w register of values that the manual does not state. -/
def drawW (s : State) : WReg × State :=
  let r := (List.range 8).foldl (fun (a : Nat × State) i => let d := a.2.draw; (a.1 + d.1.toNat * 2 ^ (32 * i), d.2)) (0, s)
  let d := r.2.draw
  ({ data := BitVec.ofNat 256 r.1, s0 := d.1.truncate 8, s1 := (d.1 >>> 8).truncate 8, tag := (d.1 >>> 16).truncate 6 }, d.2)

/-- The payload is delivered as poison (R181, R221): what a load returns and what a store or a registration writes is
poisoned; a post delivers a value that the manual does not state (log 24). -/
def spoil (s : State) (id : Nat) : State :=
  match s.accs.get id, s.regns.get id, s.posts.get id with
  | some a, _, _ =>
    let i := a.pieces.findIdx (fun p => p.pa.isSome && p.st != .done)
    s.setAcc id (some { a with pieces := a.pieces.mapIdx (fun j p => if j = i then { p with poisoned := true } else p) })
  | none, some r, _ => { s with regns := s.regns.set id (some { r with bad := true }) }
  | none, none, some p =>
    let (v, s1) := s.draw
    let (w, s2) := s1.drawW
    { s2 with posts := s2.posts.set id (some { p with value := v, wvalue := w }) }
  | none, none, none => s

/-- The home's die of a stop. -/
def stopDie (stop : Nat) : Nat := if stop < 128 then stop / 32 else if stop < 140 then (stop - 128) / 3 else (stop - 256) / 56

/-- The loop that carries the flits of a pair, as the instance of a record (R181, R183, R214). -/
def loopOfPair (pair : Nat × Nat) : Nat :=
  let d := coreDie pair.1
  if stopDie pair.2 = d then d * 24 + Config.route (256 + pair.1) pair.2 % 24 else 96 + Config.route (512 + d) pair.2 % 8

/-- The loop of one leg of the way of a pair of different dies: from the core to its die's port, between the ports (R183), or from
the port to the destination. -/
def loopOfLeg (pair : Nat × Nat) (leg : Nat) : Nat :=
  let d := coreDie pair.1
  let h := stopDie pair.2
  if h = d ∨ leg = 1 then loopOfPair pair
  else if leg = 0 then d * 24 + Config.route (256 + pair.1) (512 + d) % 24
  else h * 24 + Config.route (512 + h) pair.2 % 24

/-- What becomes of an operation's flit on its way; it takes its place among those of its pair when it is first met there. -/
def setFlit (s : State) (id : Nat) (f : Flit) : State :=
  if f.seq = 0 then { s.takeId.2 with flits := s.flits.set id { f with seq := s.nextId } } else { s with flits := s.flits.set id f }

/-- LOOP_CE of a loop, for a die whose flit it carries. -/
def loopError (die loop : Nat) (s : State) : ErrRec :=
  { code := 0x0501, sev := 1, action := 1, eclass := 11, part := s.partOf die, einst := loop }

/-- A flit fails its parity check on a loop: it is resent, and after three failed retries delivered as poison (R181). -/
def flitFails (s : State) (id die loop : Nat) : State :=
  let f := s.flits.get id
  if f.ejected then s
  else if f.retries < 3 then (s.log (loopError die loop s)).setFlit id { f with retries := f.retries + 1 }
  else ((s.log { loopError die loop s with code := 0x0502, sev := 2, action := 4 }).spoil id).setFlit id { f with ejected := true }

/-- FLIT_ARRIVAL: an operation's flit passes its destination.  A flit with bad parity is resent, and after three failed
retries delivered as poison; a flit that the destination cannot take circulates, at most twice; one that has been ejected stands there
until its operation is performed. -/
def flitArrives (s : State) (id : Nat) (full bad : Bool) : State :=
  match s.flitOf id with
  | none => { s with flits := s.flits.set id {} }
  | some pair =>
    let f := s.flits.get id
    if bad then s.flitFails id (coreDie pair.1) (loopOfPair pair)
    else if f.ejected then s
    else if (full && f.refused < 2) || s.behind id pair then s.setFlit id { f with refused := min 2 (f.refused + 1) }
    else s.setFlit id { f with ejected := true }

/-- A flit of an operation fails its check on another leg of its way between two dies (R181, R183). -/
def legFails (s : State) (id leg : Nat) : State :=
  match s.flitOf id with
  | none => s
  | some pair => s.flitFails id (coreDie pair.1) (loopOfLeg pair leg)

/-- The number of a loop that carries the flits of a die: one of its own, or one of the package (R9, R214). -/
def loopOn (die loop : Nat) : Nat := if loop < 96 then die * 24 + loop % 24 else 96 + loop % 8

/-- A flit of any other kind fails its check on a loop and is resent (R181): nothing but the record shows it. -/
def flitResent (s : State) (die loop : Nat) : State := if 4 ≤ die then s else s.log (loopError die (loopOn die loop) s)

/-- The records of a flit that fails its three retries (R181). -/
def flitLost (s : State) (die loop : Nat) : State :=
  let s1 := (List.range 3).foldl (fun s _ => s.flitResent die loop) s
  s1.log { loopError die loop s with code := 0x0502, sev := 2, action := 4 }

/-- The reply of a performed load or atomic fails three retries: what it brings back is poison (R181). -/
def replyLost (s : State) (id : Nat) : State :=
  match s.accs.get id with
  | none => s
  | some a =>
    if !a.fixed || !a.op.isLoad then s
    else match a.pieces.find? (fun p => p.pa.isSome) with
      | none => s
      | some p =>
        let die := coreDie a.core
        ((s.flitLost die (s.loopOf die (p.pa.getD 0))).setAcc id
          (some { a with pieces := a.pieces.map (fun q => if q.pa == p.pa then { q with poisoned := true } else q) }))

/-- The flit with a word that its owner forwards fails three retries: the home receives poison (R104, R181). -/
def forwardLost (s : State) (w : Nat) : State :=
  match s.ownerOf w with
  | none => s
  | some c =>
    if s.regnPending c w then s
    else
      let s1 := (s.flitLost (coreDie c) (s.loopOf (coreDie c) (4 * w))).forward w
      { s1 with poison := s1.poison.set w true }

/-- The flit with a line, by its virtual address / 128, that an engine's command reads or writes fails three retries on a loop: what the
command reads there, or what it writes, is poison (R181); of a drain to a peer it is the line-th one of its elements. -/
def cmdLost (s : State) (id line loop0 : Nat) : State :=
  match s.cmds.get id with
  | none => s
  | some c =>
    let loop := loopOn (coreDie c.core) loop0
    let s1 := (s.flitLost (coreDie c.core) loop).setCmd id (some { c with lost := line :: c.lost })
    match c.i with
    | .xdrain _ _ _ _ _ =>
      if c.started then s1.setCmd id (some { c with bufBad := (List.range 32).foldl (fun m i => m.set (32 * line + i) true) c.bufBad }) else s1
    | .bind _ _ _ _ | .settle _ _ _ _ | .recomp _ _ _ _ =>
      if c.started then s1.setBinding (s.cmdPart c) (c.mark - 1)
        { (s1.binding (s.cmdPart c) (c.mark - 1)) with lost := line :: (s1.binding (s.cmdPart c) (c.mark - 1)).lost } else s1
    | _ => s1

/-- The flit that brings a core a code block fails three retries: the next fetch of the block meets poison (R181). -/
def fetchLost (s : State) (core block loop0 : Nat) : State :=
  let loop := loopOn (coreDie core) loop0
  if 224 ≤ core ∨ s.blockHeld core block then s
  else (s.flitLost (coreDie core) loop).modCore core (fun c => { c with icache := c.icache.set block [], lostBlocks := block :: c.lostBlocks })

/-- The flit that brings a walker an entry of the table fails three retries: the walk of an access ends so (R133, R181). -/
def walkLost (s : State) (id loop0 : Nat) : State :=
  match s.accs.get id with
  | none => s
  | some a =>
    match firstPiece a.pieces (fun p => p.st == .walk), a.walkAt with
    | some i, some _ =>
      if 256 ≤ s.logCount (keyCtx a.thr) ∧ !faulted a then s
      else
        let ps := a.pieces.mapIdx (fun j p => if j = i then { p with st := .logged .walkUE } else p)
        ((s.flitLost (coreDie a.core) (loopOn (coreDie a.core) loop0)).setAcc id (some { a with pieces := ps, walkAt := none })).commitPart id
    | _, _ => s

/-- The flit with a line of contributions to a collective fails three retries: 32 of its elements are poisoned (R181, R191). -/
def collLost (s : State) (k line loop0 : Nat) : State :=
  match s.colls.get k with
  | none => s
  | some c =>
    let d := c.descs.head?.elim 0 CollDesc.die
    let n := c.descs.head?.elim 0 CollDesc.count
    let els := (List.range 32).filterMap (fun i => if 32 * line + i < n then some (32 * line + i) else none)
    { (s.flitLost d (loopOn d loop0)) with colls := s.colls.set k (some { c with lost := c.lost ++ els }) }

/-- A registration has reached its home, and the capture of one of its words is made there ahead of those of its others, and of those of
messages that arrived before it (R144): journal entries come in any order (R145).  It takes its place in the word's home order when it
is accepted. -/
def captureEarly (s : State) (id w : Nat) : State :=
  match s.regns.get id with
  | none => s
  | some r =>
    let die := coreDie r.core
    let pa := 256 * r.block
    let passes (e : Nat × Option Regn) : Bool := match e.2 with
      | some q => !(e.1 < id && q.core == r.core && s.sameStop die q.block r.block) || (!q.words.any r.words.contains && !s.barred e.1)
      | none => true
    let stores : Bool := s.accs.cells.any (fun e => match e.2 with
      | some a => a.core == r.core && a.pieces.any (fun p => match p.st, p.pa with
          | .sent k, some a => k < id && s.sameStop die (a / 256) r.block && s.goesHome p
          | _, _ => false)
      | none => false)
    if !r.words.contains w ∨ s.shared (4 * w) ∨ s.homeLost r.core pa ∨ s.barred id ∨ s.portWaits die pa ∨ stores ∨
        !s.regns.cells.all passes ∨ s.captureHeld [w] then s
    else (s.capture [w]).setFlit id { (s.flits.get id) with ejected := true }

/-- A line enters a core's L1 though no load of the core has missed it (R154, R367; log 33). -/
def l1Fill (s : State) (core pa : Nat) : State :=
  if 224 ≤ core ∨ memTop ≤ pa ∨ s.shared pa ∨ s.homeLost core pa then s
  else ((s.l1Room core pa).map (fun s => s.fillLine core pa)).getD s

end State

/-- FLIT_ARRIVAL (R181, R182). -/
def execFlitArrival (idx : Nat) (full parityBad : Bool) (s : State) : Out := .next (s.flitArrives idx full parityBad)

end Sys2Proof.Machine
end

