-- ==== Sys2Proof/Machine/Partition.lean ====
section
/-! DEFINITION. Partitions (13): the division and its registers, merge, split and mode change, partition reset, and the failure
of a die (R192–R203, R224). -/

namespace Sys2Proof.Machine

/-- The divisions that R192 lists, as OWNER bytes. -/
def divisions : List Nat := [0xE4, 0xE0, 0xA4, 0xA0, 0x00]

/-- The partition that an OWNER byte gives a quarter, and an OWNER byte from a function. -/
def ownerAt (o : Byte) (q : Nat) : Nat := o.toNat / 4 ^ q % 4
def ownerOf4 (f : Nat → Nat) : Byte := BitVec.ofNat 8 (f 0 + 4 * f 1 + 16 * f 2 + 64 * f 3)

/-- OWNER is a listed division, and the DLOCAL bits agree within each partition (R194). -/
def divisionOk (o : Byte) (dl : BitVec 4) : Bool :=
  divisions.contains o.toNat && (List.range 4).all (fun q => dl.getLsbD q == dl.getLsbD (ownerAt o q))

/-- A set of dies as a bit mask. -/
def dieMask (ds : List Nat) : BitVec 4 := BitVec.ofNat 4 ((ds.map (fun d => 2 ^ d)).sum)

/-- Bytes of an HBM stack, and the stacks of a die (R101, R214). -/
def stackBytes : Nat := 0x1000000000
def stacksOf (die : Nat) : List Nat := [3 * die, 3 * die + 1, 3 * die + 2]

namespace State

/-! The registers. -/

/-- PART_CFG (R194). -/
def partCfgWord (s : State) : DWord := BitVec.ofNat 64 (s.dlocal.toNat * 2 ^ 16 + s.owners.toNat * 2 ^ 8)

/-- The division stands: every partition of it that is RECONFIGURING is in service (R199). -/
def setDivision (s : State) (o : Byte) (dl : BitVec 4) (fresh : Bool) : State :=
  let moved := (List.range 4).filter (fun q => (s.part (s.partOf q)).state == .reconfiguring)
  let s1 := { (if fresh then s.forgetEpochs moved else s) with owners := o, dlocal := dl }
  let s2 := (moved.map s.partOf).eraseDups.foldl (fun s p => if fresh then s.modPart p (fun _ => {}) else s) s1
  (moved.map s1.partOf).eraseDups.foldl (fun s p => s.modPart p (fun x => { x with state := .running })) s2

/-- A reconfiguration whose quarters are all in service again is over. -/
def closeReconf (s : State) : State :=
  match s.reconf with
  | some r => if r.dies.any (fun d => match (s.part (s.partOf d)).state with | .quiescing | .reconfiguring => true | _ => false) then s
      else { s with reconf := none }
  | none => s

/-- PART_CFG_WRITE (R194, R199): discarded whole unless it is a listed division that touches RECONFIGURING quarters alone; the boot
write comes before any partition exists. -/
def writePartCfg (s : State) (v : DWord) : State :=
  let o : Byte := (v >>> 8).truncate 8
  let dl : BitVec 4 := (v >>> 16).truncate 4
  let boot := s.rm.state == .booting && (List.range 4).all (fun p => (s.part p).state == .absent)
  let may (q : Nat) : Bool := boot || (s.part (s.partOf q)).state == .reconfiguring
  if !divisionOk o dl ∨
      (List.range 4).any (fun q => (ownerAt o q != s.partOf q || dl.getLsbD q != s.dlocal.getLsbD q) && !may q) then s
  else (s.setDivision o dl (s.reconf.any (fun r => !r.modeOnly))).closeReconf

/-- IVL_MAP_WRITE (R195). -/
def writeIvl (s : State) (die : Nat) (v : DWord) : State :=
  if 4 ≤ die ∨ !v.getLsbD (4 + die) then s
  else s.modDie die (fun d => { d with ivlDies := (v >>> 4).truncate 4, ivlMode := v.getLsbD 0 })

/-- NBND_WRITE (R196). -/
def writeNbnd (s : State) (die : Nat) (v : DWord) : State :=
  if 4 ≤ die then s else s.modDie die (fun d => { d with peers := v.truncate 4 })

/-- The words of a range of frames, as numbers of words. -/
def inFrames (base len w : Nat) : Bool := base ≤ w / (frameBytes / 4) && w / (frameBytes / 4) < base + len

/-- XSHR_WRITE (R197): no L1 or L2 keeps a copy of an enabled range, and no registration is left of it. -/
def writeXshr (s : State) (n : Nat) (v : DWord) : State :=
  let len := cut v.toNat 32 20
  let base := cut v.toNat 0 19
  if 16 ≤ n ∨ frameCount < base + len then s
  else
    let s1 := (s.owner.keys.filter (inFrames base len)).foldl (fun s w => s.forward w) s
    let s1 := s1.dies.cells.foldl (fun s d => d.2.l2.cells.foldl (fun s c => (c.2.filter (fun x => inFrames base len (32 * x.line))).foldl
      (fun s x => s.dropLine d.1 c.1 x) s) s) s1
    { s1 with xshr := s1.xshr.set n (base, len), l1 := s1.l1.drop (fun k _ => inFrames base len (k % 2 ^ 38)) }

/-! Partition reset. -/

/-- What is in flight for the cores of dies goes. -/
def dropFlight (s : State) (ds : List Nat) : State :=
  let here (core : Nat) : Bool := ds.contains (coreDie core)
  { s with
    accs := s.accs.drop (fun _ o => match o with | some a => here a.core | none => false)
    regns := s.regns.drop (fun _ o => match o with | some r => here r.core | none => false)
    posts := s.posts.drop (fun _ o => match o with | some p => here p.core | none => false)
    cmds := s.cmds.drop (fun _ o => match o with | some c => here c.core | none => false)
    heapOps := s.heapOps.drop (fun _ o => match o with | some h => ds.contains h.die | none => false)
    late := s.late.drop (fun _ o => match o with | some l => here (s.coreOf l.thr) | none => false)
    steals := s.steals.drop (fun _ o => match o with | some x => ds.contains (x.thief / 7) | none => false)
    placements := s.placements.drop (fun _ o => match o with | some p => here (s.ctx p.ctx).core | none => false)
    results := s.results.drop (fun _ o => match o with | some r => ds.contains (queueDie r.1) | none => false) }

/-- The contexts, groups, kernels, queues and local stores of dies go (log 26). -/
def clearDies (s : State) (ds : List Nat) : State :=
  let here (core : Nat) : Bool := ds.contains (coreDie core)
  let cs := s.ctxs.keys.filter (fun c => here (s.ctx c).core)
  let mine (c : Nat) : Bool := cs.contains c
  let s0 := (s.dropFlight ds).forgetEpochs ds
  let s0 : State := { s0 with pends := s0.pends.drop (fun _ o => match o with | some p => ds.contains p.die | none => false) }
  let s1 := s0.mapHandles (fun _ e =>
    if mine e.ctx ∧ (e.state = .live ∨ e.state = .retired) then e.free true else e)
  { s1 with
    threads := s1.threads.drop (fun t _ => mine (keyCtx t))
    lane := s1.lane.drop (fun a _ => mine (keyCtx (a / 256)))
    pad := s1.pad.drop (fun a _ => mine (a / 2 ^ 20))
    clus := s1.clus.drop (fun a _ => ds.contains (a / 2 ^ 21 / 7))
    dsp := s1.dsp.drop (fun a _ => ds.contains (a / 2 ^ 25))
    lpoison := s1.lpoison.drop (fun k _ =>
      let a := 4 * k % 2 ^ 60
      let sp := 4 * k / 2 ^ 60
      if sp = 0 then mine (keyCtx (a / 256)) else if sp = 1 then mine (a / 2 ^ 20)
      else if sp = 2 then ds.contains (a / 2 ^ 21 / 7) else if sp = 3 then ds.contains (a / 2 ^ 25)
      else mine (s.group (4 * k % 2 ^ 60 / 2 ^ 18)).ctx)
    evicted := s1.evicted.drop (fun k _ => mine (s.group (k / 1024)).ctx)
    evLane := s1.evLane.drop (fun k _ => mine (s.group (k / 2 ^ 18)).ctx)
    groups := s1.groups.drop (fun _ g => mine g.ctx || ds.contains (s.kernel g.kernel).die)
    kernels := s1.kernels.drop (fun _ k => ds.contains k.die)
    ctxs := s1.ctxs.drop (fun c _ => mine c)
    cores := s1.cores.mapCells (fun k c => if here k then
      { keyEpoch := c.keyEpoch + 1, islots := c.islots.mapCells (fun _ i => { held := i.held }) } else c)
    queues := s1.queues.drop (fun q _ => ds.contains (queueDie q))
    heaps := s1.heaps.drop (fun d _ => ds.contains d)
    l1 := s1.l1.drop (fun k _ => here (k / 2 ^ 38))
    owner := s1.owner.drop (fun _ o => o != 0 && here (o - 1))
    dies := s1.dies.mapCells (fun n d => if ds.contains n then
      { d with tlb := [], heapValid := false, heapAsid := 0, used := {}, queue := {}, granted := {}, stall := {}, stallAt := {}, l2 := {}, tqOcc := {} } else d)
    walkers := s1.walkers.drop (fun cl _ => ds.contains (cl / 7)) }

/-- The bindings of a partition are free, and their frames no longer pinned. -/
def freeBindings (s : State) (p : Nat) : State := (s.part p).bindings.keys.foldl (fun s n => s.freeBinding p n) s

/-- A reconfiguration that a partition leaves in its handshake ends; the other quarters are RUNNING again (R199, log 26). -/
def dropReconf (s : State) (p : Nat) : State :=
  match s.reconf with
  | none => s
  | some r =>
    if !r.dies.any (fun d => s.partOf d == p) then s
    else
      let s1 := (r.dies.map s.partOf).eraseDups.foldl (fun s q =>
        s.modPart q (fun x => if x.state = .quiescing then { x with state := .running } else x)) s
      { s1 with reconf := none }

/-- IVL_MAP and NBND of dies as the division that stands has them (R194–R196). -/
def restoreMaps (s : State) (ds : List Nat) : State :=
  ds.foldl (fun s d => s.modDie d (fun x =>
    { x with ivlDies := dieMask (s.diesOf (s.partOf d)), ivlMode := s.dlocal.getLsbD d, peers := dieMask (s.diesOf (s.partOf d)) })) s

/-- A partition is RESETTING: its queue and records are discarded, and RSTC says so (R222, R223). -/
def resetOne (s : State) (p : Nat) (sideband : Bool) : State :=
  let ds := s.diesOf p
  if ds.isEmpty ∨ (s.part p).state = .absent then s
  else
    let s1 := (s.freeBindings p).clearDies ds
    let s2 := { s1 with
      shoots := s1.shoots.drop (fun _ o => match o with | some b => b.part == p | none => false)
      colls := s1.colls.drop (fun _ o => match o with | some c => c.part == p | none => false)
      pending := s1.pending.drop (fun _ o => match o with | some e => e.err.part == p | none => false)
      rm := { s1.rm with rstc := (s1.rm.rstc % 2 ^ 16 ||| BitVec.ofNat 20 (if sideband then 2 ^ 8 else 2 ^ 9)) |||
                                 ((dieMask ds).zeroExtend 20 <<< 16) } }
    let s2 := (s.queues.keys.filter (fun q => ds.contains (queueDie q))).foldl State.putDesc s2
    s2.modPart p (fun _ => { state := .resetting })

/-- The partitions that are past the handshake of one reconfiguration with a partition. -/
def together (s : State) (p : Nat) : List Nat :=
  match s.reconf with
  | some r =>
    let ps := (r.dies.map s.partOf).eraseDups
    if (s.part p).state = .reconfiguring ∧ ps.contains p then ps else []
  | none => []

/-- PARTITION RESET (R199, R222, R223).  Past the handshake of a reconfiguration it resets every partition that takes part, under the
old division. -/
def resetPart (s : State) (p : Nat) (sideband : Bool) : State :=
  match s.together p with
  | [] => (s.dropReconf p).resetOne p sideband
  | ps =>
    let s1 := s.restoreMaps (match s.reconf with | some r => r.dies | none => [])
    ps.foldl (fun s q => s.resetOne q sideband) { s1 with reconf := none }

/-- PARTITION_RESET_DONE (R199, R224): RUNNING, or DEGRADED without its failed dies. -/
def resetDone (s : State) (p : Nat) : State :=
  if (s.part p).state ≠ .resetting then s
  else
    let good := (s.diesOf p).filter (fun d => !(s.die d).failed)
    if good.length = (s.diesOf p).length then s.modPart p (fun x => { x with state := .running })
    else
      let s1 := good.foldl (fun s d => s.modDie d (fun x => { x with ivlDies := dieMask good, peers := dieMask good })) s
      s1.modPart p (fun x => { x with state := .degraded })

/-- SHOOTDOWN_TIMEOUT_RESET (R136): 1 ms has passed; the record, and the reset of the partition. -/
def shootReset (s : State) (idx : Nat) : State :=
  match s.shoots.get idx with
  | some b =>
    if s.acknowledged b ∨ !b.warned ∨ s.now < b.due + 1000000 then s
    else ({ (s.shootRecord b 3 5) with shoots := s.shoots.set idx none }).resetPart b.part false
  | none => s

/-! A die or a port fails. -/

/-- The pair that a record of the Ringmaster itself names, 0 to 3 (R214). -/
def rmPair (code : Nat) : Nat := Config.rmUnit code % 4

/-- PART_DEGRADED (R219). -/
def degradedRecord (s : State) (p : Nat) : State :=
  s.log { code := 0x0802, sev := 3, action := 7, eclass := 14, part := p, einst := rmPair 0x0802 }

/-- The partition becomes DEGRADED (R199); a reconfiguration past its handshake ends in a reset under the old division. -/
def degrade (s : State) (p : Nat) : State :=
  match (s.part p).state with
  | .running => (s.modPart p (fun x => { x with state := .degraded })).degradedRecord p
  | .quiescing => ((s.dropReconf p).modPart p (fun x => { x with state := .degraded })).degradedRecord p
  | .reconfiguring => (s.degradedRecord p).resetPart p false
  | _ => s

/-- Units that wait at a failed die, or for one of its clusters, wait at another die of the partition instead (log 60). -/
def leaveDie (s : State) (die : Nat) : State :=
  let other := ((s.diesOf (s.partOf die)).find? (fun d => d != die && !(s.die d).failed)).getD die
  { s with pends := s.pends.mapCells (fun _ o => o.map (fun (q : PendUnit) =>
      { q with die := if q.die = die then other else q.die, cluster := if q.cluster.any (fun c => c / 7 == die) then none else q.cluster })) }

/-- DIE_FAILURE (R224). -/
def dieFails (s : State) (die : Nat) : State :=
  if 4 ≤ die ∨ (s.die die).failed then s
  else
    let p := s.partOf die
    let s1 := (s.modDie die (fun d => { d with failed := true })).dropFlight [die]
    let lost := s1.owner.cells.filter (fun e => s1.homeDie (coreDie (e.2 - 1)) (4 * e.1) == die)
    let gone := s1.owner.cells.filter (fun e => coreDie (e.2 - 1) == die)
    let s2 := lost.foldl (fun s e => { s with owner := s.owner.set e.1 0, l1 := s.l1.set (l1Key (e.2 - 1) e.1) {} }) s1
    let s3 := gone.foldl (fun s e => { s with owner := s.owner.set e.1 0, poison := s.poison.set e.1 true }) s2
    let hbmStacks := if s.dlocal.getLsbD die then stacksOf die else (s.diesOf p).flatMap stacksOf
    let s4 := hbmStacks.foldl (fun s k =>
      s.log { code := 0x0108, sev := 3, action := 4, eclass := 10, part := p, einst := k, pa := some (k * stackBytes),
              detail := die + stackBytes * 256 }) s3
    let there (g : Nat) : Bool := holds (s4.group g) && coreDie (s4.ctx (s4.group g).ctx).core == die
    let ks := s4.kernels.keys.filter (fun k => (s4.kernel k).groups.any there)
    let s5 := ks.foldl (fun s k =>
      if (s.kernel k).state = .enqueued then ((s.kernel k).groups.filter there).foldl State.unplace s
      else (((s.kernel k).groups.filter there).foldl State.discardGroup s).cancelKernel k true) s4
    let s5 := s5.leaveDie die
    match (s5.part p).state with
    | .running | .quiescing | .reconfiguring => s5.degrade p
    | _ => s5.degradedRecord p

/-! Reconfiguration. -/

/-- What a request asks for: the quarters, the division and modes, and whether only the mode changes or a partition splits. -/
def askedFor (s : State) (r : ReconfReq) : Reconf :=
  let local_ (ds : List Nat) (dl : Bool) : BitVec 4 := if dl then s.dlocal ||| dieMask ds else s.dlocal &&& ~~~(dieMask ds)
  match r with
  | .merge a b dl =>
    let ds := (List.range 4).filter (fun q => s.partOf q == a || s.partOf q == b)
    { dies := if (s.diesOf a).isEmpty ∨ (s.diesOf b).isEmpty ∨ a = b then [] else ds,
      owner := ownerOf4 (fun q => if ds.contains q then min a b else s.partOf q),
      dlocal := local_ ds dl, modeOnly := false, split := false, since := s.now }
  | .split p =>
    let ds := s.diesOf p
    { dies := if ds.length ≤ 1 then [] else ds,
      owner := ownerOf4 (fun q => if ds.contains q then (if ds.length = 4 then q / 2 * 2 else q) else s.partOf q),
      dlocal := s.dlocal, modeOnly := false, split := true, since := s.now }
  | .mode p dl =>
    { dies := s.diesOf p, owner := s.owners, dlocal := local_ (s.diesOf p) dl, modeOnly := true, split := false, since := s.now }

/-- The handshake starts (R200): the quarters are QUIESCING. -/
def openReconf (s : State) (r : ReconfReq) : State :=
  let a := s.askedFor r
  let ps := (a.dies.map s.partOf).eraseDups
  if a.dies.isEmpty ∨ !divisionOk a.owner a.dlocal ∨ ps.any (fun p => (s.part p).state != .running) then s
  else { (ps.foldl (fun s p => s.modPart p (fun x => { x with state := .quiescing })) s) with reconf := some a }

/-- A request is made; one that meets another reconfiguration waits (R203). -/
def request (s : State) (r : ReconfReq) : State :=
  if s.reconf.isSome then { s with rm := { s.rm with requests := s.rm.requests ++ [r] } } else s.openReconf r

/-- The waiting requests go on when a reconfiguration has ended. -/
def nextRequest : List ReconfReq → State → State
  | [], s => s
  | r :: rest, s =>
    let s1 := s.openReconf r
    if s1.reconf.isSome then { s1 with rm := { s1.rm with requests := rest } } else nextRequest rest s1

/-- The frames mapped by a process whose contexts lie on another quarter of a split (R202). -/
def foreignFrames (s : State) (r : Reconf) : List Nat :=
  if !r.split then []
  else (s.frames.cells.filter (fun e =>
    let d := e.1 * frameBytes / 0x3000000000
    let mapped := match e.2.state with | .mapped | .backed | .pinned | .migrating => true | _ => false
    mapped && !e.2.leaves.isEmpty && r.dies.contains d && !s.shared (e.1 * frameBytes) && s.ctxs.cells.any (fun c =>
      c.2.asid == e.2.asid && c.2.state != .destroyed && c.2.state != .absent && r.dies.contains (coreDie c.2.core) &&
        ownerAt r.owner (coreDie c.2.core) != ownerAt r.owner d))).map Prod.fst

/-- The objects that refuse the handshake (R201, R202), in the order of the search: queues and kernels once 1 ms has passed, by the
addresses of their descriptors and records; bindings and sequences that are not FREE, by their numbers; and frames that cannot be
migrated, by their physical addresses (log 39). -/
def hurdles (s : State) (r : Reconf) (late : Bool) : List Nat :=
  let ps := (r.dies.map s.partOf).eraseDups
  let queues := (s.queues.cells.filter (fun e => r.dies.contains (queueDie e.1) && match e.2.state with
    | .busy | .full | .closing => true
    | _ => false)).map (fun e => e.2.va.toNat)
  let kernels := (s.kernels.cells.filter (fun e => r.dies.contains e.2.die && match e.2.state with
    | .enqueued | .running | .draining | .cancelling => true
    | _ => false)).map (fun e => e.2.recVa.toNat)
  let stuck (f : Nat) : Bool := late || (s.frame f).state == .pinned
  (if late then queues ++ kernels else []) ++
  ps.flatMap (fun p => ((s.part p).bindings.cells.filter (fun e => e.2.state != .free)).map Prod.fst ++
    ((s.part p).pool.seqs.cells.filter (fun e => e.2.state != .free)).map Prod.fst) ++
  ((s.foreignFrames r).filter stuck).map (· * frameBytes)

/-- The handshake succeeds (R200–R202): every queue is EMPTY or CLOSED, every kernel has ended, and nothing refuses it; the frames of
a split have been migrated. -/
def quiesced (s : State) (r : Reconf) : Bool := (s.hurdles r true).isEmpty

/-- Every context of the quarters is spilled, by the commands that the Ringmaster has written to the cores (R77, R79, R94, R200): no
bank holds one. -/
def allSpilled (s : State) (r : Reconf) : Bool :=
  s.cores.cells.all (fun e => !r.dies.contains (coreDie e.1) || (e.2.cmdBusy.isNone && e.2.ctx0 == 0 && e.2.ctx1 == 0))

/-- Registered words go home, the L2s' dirty lines to HBM, L1s and L2s are empty, and the die scratchpads have gone to their save
areas, whose place the manual does not state (step 2 of R200). -/
def flushDies (s : State) (ds : List Nat) : State :=
  let here (core : Nat) : Bool := ds.contains (coreDie core)
  let s1 := ((s.owner.cells.filter (fun e => here (e.2 - 1))).map Prod.fst).foldl (fun s w => s.forward w) s
  let s2 := ds.foldl (fun s d =>
    ((s.die d).l2.cells.flatMap Prod.snd).foldl (fun s x => if x.dirty then s.burst (128 * x.line) 2 else s) s) s1
  { s2 with
    l1 := s2.l1.drop (fun k _ => here (k / 2 ^ 38))
    dspSave := (s2.dsp.cells.filter (fun e => ds.contains (e.1 / 2 ^ 25))).foldl (fun m e => m.set e.1 e.2)
      (s2.dspSave.drop (fun a _ => ds.contains (a / 2 ^ 25)))
    dsp := s2.dsp.drop (fun a _ => ds.contains (a / 2 ^ 25))
    lpoison := s2.lpoison.drop (fun k _ => 4 * k / 2 ^ 60 == 3 && ds.contains (4 * k % 2 ^ 60 / 2 ^ 25))
    dies := s2.dies.mapCells (fun n d => if ds.contains n then { d with l2 := {}, tqOcc := {} } else d) }

/-- IVL_MAP and NBND of the quarters are rewritten (step 3 of R200, R202, R203). -/
def rewriteMaps (s : State) (r : Reconf) : State :=
  r.dies.foldl (fun s d =>
    let own := dieMask ((List.range 4).filter (fun q => ownerAt r.owner q == ownerAt r.owner d))
    s.modDie d (fun x => { x with ivlDies := if r.modeOnly then x.ivlDies else own, ivlMode := r.dlocal.getLsbD d,
                                  peers := if r.modeOnly then x.peers else own })) s

/-- Steps 2 to 4 of R200, after the spills: the quarters are RECONFIGURING. -/
def reconfigure (s : State) (r : Reconf) : State :=
  let ps := (r.dies.map s.partOf).eraseDups
  let s1 := (s.flushDies r.dies).rewriteMaps r
  let s2 := if r.modeOnly then s1 else ps.foldl (fun s p => s.broadcast p none none) s1
  ps.foldl (fun s p => s.modPart p (fun x => { x with state := .reconfiguring })) s2

/-- Step 5 of R200: once the shoot-down is acknowledged, PART_CFG is written and the new division is in service. -/
def configure (s : State) : State :=
  match s.reconf with
  | none => s
  | some r =>
    let ps := (r.dies.map s.partOf).eraseDups
    if ps.any (fun p => (s.part p).state != .reconfiguring) ∨
        s.shoots.cells.any (fun e => match e.2 with | some b => ps.contains b.part | none => false) then s
    else { (s.setDivision r.owner r.dlocal (!r.modeOnly)) with reconf := none }

/-- The response to a reset request comes before the action (R186). -/
def answerReset (s : State) (m : ResetMsg) (code : Nat) : State :=
  { s with rm := { s.rm with replies := s.rm.replies ++ [.reset code m.tag Config.enterprise] } }

/-- The partition whose quarters PMASK names, exactly (R186). -/
def partOfMask (s : State) (pmask : Byte) : Option Nat :=
  (List.range 4).find? (fun p => !(s.diesOf p).isEmpty && (s.part p).state != .absent && pmask.toNat == (dieMask (s.diesOf p)).toNat)

/-- A reset request of partition scope is answered and acted on. -/
def resetByMask (s : State) (m : ResetMsg) : State :=
  match s.partOfMask m.pmask with
  | some p => (s.answerReset m 0).resetPart p true
  | none => s.answerReset m 2

/-- A reconfiguration has completed or been refused: held reset requests are served (R186), and the next request starts. -/
def afterReconf (s : State) : State :=
  let s1 := s.rm.held.foldl (fun s m => s.resetByMask m) { s with rm := { s.rm with held := [] } }
  if s1.reconf.isSome then s1 else nextRequest s1.rm.requests { s1 with rm := { s1.rm with requests := [] } }

/-- The quarters of a reconfiguration are in its handshake. -/
def shaking (s : State) (r : Reconf) : Bool := r.dies.all (fun d => (s.part (s.partOf d)).state == .quiescing)

/-- QUIESCE_DONE (R200, R202, R203): the handshake has succeeded, and every context is spilled. -/
def quiesceDone (s : State) : State :=
  match s.reconf with
  | none => s
  | some r => if s.shaking r ∧ s.quiesced r ∧ s.allSpilled r then s.reconfigure r else s

/-- QUIESCE_TIMEOUT (R201, R202): the handshake is refused for an object that it has found; the record names it, the first of the
search where the Ringmaster names none that refuses. -/
def quiesceRefused (s : State) (found : DWord) : State :=
  match s.reconf with
  | none => s
  | some r =>
    let os := s.hurdles r (r.since + 1000000 ≤ s.now)
    if !s.shaking r ∨ os.isEmpty then s
    else
      let p := s.partOf (r.dies.headD 0)
      let s1 := s.log { code := 0x0801, sev := 0, action := 0, eclass := 14, part := p, einst := rmPair 0x0801,
                        va := some (if os.contains found.toNat then found.toNat else os.headD 0) }
      (s1.dropReconf p).afterReconf

/-- A step that may end a reconfiguration: what waited for its end goes on. -/
def thenReconf (s : State) (k : State → State) : State :=
  let s1 := k s
  if s.reconf.isSome ∧ s1.reconf.isNone then s1.afterReconf else s1

end State

def execPartCfgWrite (v : DWord) (s : State) : Out := .next (s.thenReconf (fun s => s.writePartCfg v))
def execIvlMapWrite (die : Nat) (v : DWord) (s : State) : Out := .next (s.writeIvl die v)
def execNbndWrite (die : Nat) (v : DWord) (s : State) : Out := .next (s.writeNbnd die v)
def execXshrWrite (n : Nat) (v : DWord) (s : State) : Out := .next (s.writeXshr n v)
def execPartitionMerge (a b : Nat) (dlocal : Bool) (s : State) : Out := .next (s.request (.merge a b dlocal))
def execPartitionSplit (p : Nat) (s : State) : Out := .next (s.request (.split p))
def execL2ModeChange (p : Nat) (dlocal : Bool) (s : State) : Out := .next (s.request (.mode p dlocal))
def execQuiesceDone (s : State) : Out := .next s.quiesceDone
def execQuiesceTimeout (found : DWord) (s : State) : Out := .next (s.quiesceRefused found)
def execPartitionReset (p : Nat) (sideband : Bool) (s : State) : Out := .next (s.thenReconf (fun s => s.resetPart p sideband))
def execPartitionResetDone (p : Nat) (s : State) : Out := .next (s.resetDone p)
def execShootdownTimeoutReset (idx : Nat) (s : State) : Out := .next (s.thenReconf (fun s => s.shootReset idx))
def execDieFailure (die : Nat) (s : State) : Out := .next (s.thenReconf (fun s => s.dieFails die))

end Sys2Proof.Machine
end

