-- ==== Sys2Proof/Machine/Agenda.lean ====
section
/-! DEFINITION. The clock, and the agenda of a cycle: the steps of the module's own units that may be due, then the
formation rounds, then the issue slots (log 5).  A step that is not enabled changes nothing, so the agenda may name it. -/

namespace Sys2Proof.Machine

/-- A step of the opcode table that is no instruction with an encoding. -/
def isEvent (i : Instr) : Bool :=
  i.parcels == 0 && (match i with | .reservedEncoding _ => false | _ => true)

namespace State

/-- The slot that an event names. -/
def refOf (s : State) (t : Nat) : TRef := { core := s.coreOf t, bank := (s.ctx (keyCtx t)).bank, slot := keySlot t }

/-- Steps for every entry under way in a table. -/
def each {β γ : Type} (t : Tab (Option β)) (f : Nat → β → List γ) : List γ :=
  t.cells.flatMap (fun e => match e.2 with | some x => f e.1 x | none => [])

/-- Memory: page walks, the store queues, registrations, homes, owners, circling flits, completions and replays (08). -/
def memoryAgenda (s : State) : List Instr :=
  each s.accs (fun id a => [.pageWalkDone id, .operandLogReplay id, .storeDrain (s.refOf a.thr)]) ++
  (s.regns.keys.map Instr.registrationAccept) ++
  each s.accs (fun id _ => [.homeRequest id, .forwardAtOwner id]) ++
  (s.flits.keys.map (fun id => .flitArrival id false false)) ++
  each s.accs (fun id _ => [.accessComplete id])

/-- No node of the partition's tree is another module's: no peer need be asked (R179). -/
def noPeers (s : State) (p : Nat) : Bool := (s.part p).pool.nodes.cells.all (fun e => e.2.station.isNone)

/-- Engines, in the order their commands were accepted (21, 22). -/
def engineAgenda (s : State) : List Instr :=
  each s.cmds (fun id c => match c.eng with
    | .matrix core => [.arrayWake core, .matrixCommandDone id 0, .drainArrival id]
    | .streamer cl => [.streamerCommandDone cl id]
    | .spe d => [.speCommandStart d]
    | .pfx d => if s.noPeers (s.partOf d) then [.pfxCommandStart d [], .pfxCopyDone id .unreachable] else []) ++
  s.parts.cells.flatMap (fun e =>
    e.2.bindings.keys.flatMap (fun n => [.speFullComputeDone e.1 n, .speSettleDone e.1 n]) ++ [.adaptAdmit e.1]) ++
  (List.range 4).flatMap (fun d => (List.range 32).flatMap (fun k =>
    if (s.die d).epochs.get k = (s.part (s.partOf d)).cuts % 65536 then [] else [.settleCutMarker d k]))

/-- Posts, revokes and heap operations inside the module (22). -/
def fabricAgenda (s : State) : List Instr :=
  each s.heapOps (fun _ h => [.heapArrival h.die 0]) ++
  each s.posts (fun id p =>
    if p.remote then [] else [.postArrival id none, .revokeArrival id, .postReply id .delivered])

/-- Groups, kernels and their placement (02, 03). -/
def groupAgenda (s : State) : List Instr :=
  each s.late (fun id _ => [.trapAtReply id]) ++
  s.groups.cells.flatMap (fun e => match e.2.state with
    | .halting => [.groupHalted e.1]
    | .retiring => [.groupRetire e.1]
    | .evicted => [.groupRecall e.1]
    | _ => []) ++
  (s.threads.cells.filter (fun e => e.2.run == .exited)).map (fun e => .threadSlotFree (s.refOf e.1)) ++
  s.kernels.cells.flatMap (fun e => match e.2.state with
    | .running | .draining => [.kernelDrainDone e.1]
    | .cancelling => [.kernelCancelDone e.1]
    | _ => []) ++
  each s.placements (fun id _ => [.placementArrival id]) ++
  each s.pends (fun id p =>
    let cs := s.cores.keys.filter (fun c => coreDie c == p.die)
    cs.map (fun c => .pendingGroupPlace id c (s.core c).activeBank) ++ cs.map (fun c => .pendingGroupPlace id c (s.core c).shadowBank)) ++
  s.queues.cells.flatMap (fun e =>
    if e.2.kind = 2 ∧ e.2.entries ≠ [] then
      let core := queueDie e.1 * 56
      [.schedulerTakeLaunch (queueDie e.1) e.1 core (s.core core).activeBank]
    else if e.2.kind = 5 ∧ e.2.count ≠ 0 then [.collectiveTake e.1]
    else [])

/-- Barriers and bank swaps (04, 06). -/
def contextAgenda (s : State) : List Instr :=
  s.ctxs.cells.flatMap (fun e => e.2.barriers.cells.flatMap (fun b =>
    (b.2.releasing.filter (fun r => r.1 ≤ s.cycle)).map (fun _ => .barrierRelease e.2.core e.2.bank b.1))) ++
  s.cores.cells.flatMap (fun e =>
    if e.2.cmdBusy.isSome then [.swapEnd e.1, .gleanerTransfer e.1, .spillDone e.1, .loadDone e.1] else [])

/-- Translation broadcasts, frames, partitions, collectives, records, and what the clock alone begins (09, 12-15). -/
def moduleAgenda (s : State) : List Instr :=
  each s.shoots (fun id _ => [.shootdownAck id]) ++
  s.frames.cells.flatMap (fun e => match e.2.state with
    | .scrubbing => [.scrubDone e.1]
    | .migrating => [.migrationCopyDone e.1]
    | _ => []) ++
  s.parts.cells.flatMap (fun e => if e.2.state = .resetting then [.partitionResetDone e.1] else []) ++
  (if s.reconf.isSome then [.quiesceDone] else []) ++
  each s.colls (fun k _ => [.collectiveReduce (k / 2 ^ 32 % 1024) (k % 2 ^ 32)]) ++
  each s.pending (fun id _ => [.ceFoldFlush id]) ++
  (if s.cycle % 1024 = 0 then (List.range 4).map Instr.budgetPeriod else []) ++
  (if s.cycle % 4096 = 0 then (List.range 4).map Instr.clusterStart else []) ++
  s.cores.cells.flatMap (fun e =>
    if !e.2.arrayOff && e.2.arrayUsed + 65536 ≤ s.cycle then [.arrayPowerDown e.1] else []) ++
  (if s.rm.passed.isSome then [.reattachDone] else []) ++ [.watchdogExpiry]

/-- The steps that have no row of their own. -/
def outerAgenda (s : State) : List Outer :=
  s.groups.cells.flatMap (fun e =>
    if e.2.state = .halted ∧ e.2.handler = some 1 ∧ e.2.servedAt + 1000000 ≤ s.now then [.serviceTimeout e.1] else []) ++
  (s.links.cells.filter (fun e => atWork e.2 && (s.linkTries.get e.1).since + 10000000 ≤ s.now)).map (fun e => .linkOut e.1) ++
  (if s.reconf.isSome then [.handshakeOut, .configure] else []) ++
  each s.posts (fun id p => if p.stage.onWay && p.sentAt + 100000 ≤ s.now then [.postLost id] else []) ++
  each s.accs (fun _ a => if ghostGroup a.thr ≠ 0 ∧ a.op.isStore then [.drain a.thr] else [])

/-- The agenda of the cycle that has begun. -/
def agenda (s : State) : List Turn :=
  s.outerAgenda.map Turn.outer ++
  (s.contextAgenda ++ s.memoryAgenda ++ s.engineAgenda ++ s.fabricAgenda ++ s.groupAgenda ++ s.moduleAgenda).map Turn.event ++
  (if s.cycle % 8 = 0 then
    s.cores.keys.flatMap (fun c => (List.range 4).map (fun k => .event (.formationRound c k))) else []) ++
  (s.cores.keys.filter (fun c => !(s.die (coreDie c)).skips s.cycle)).flatMap (fun c => (List.range 4).map (fun k => .issue c k))

/-- A cycle of the 1.75 GHz clock: four nanoseconds in seven cycles (R6, log 6).  A throttled die leaves out one of eight cycles for each
step of 218.75 MHz (R226). -/
def clock (s : State) : State :=
  { s with cycle := s.cycle + 1, now := s.now + ((s.cycle + 1) * 4 / 7 - s.cycle * 4 / 7),
           dies := s.dies.mapCells (fun _ d => if d.skips (s.cycle + 1) then { d with skipped := d.skipped + 1 } else d) }

/-- The next cycle begins: its agenda comes before the turns already listed; the Ringmaster's sweep falls on every
millisecond (R139). -/
def tick (s : State) : State :=
  let s1 := s.clock
  let s1 := if s.rm.state = .recovering then s1.queueHeld else s1
  let sweep : List Turn := if s1.now / 1000000 = s.now / 1000000 then [] else [.event .ageSweep]
  { s1 with turns := sweep ++ s1.agenda ++ s1.turns }

end State

end Sys2Proof.Machine
end

