-- ==== Sys2Proof/Machine/Journal.lean ====
section
/-! DEFINITION. The Ringmaster's journal (R205): what S level's steps do to frames, contexts, kernels, bindings, sessions and
partitions, and what recovery makes of it (R211). -/

namespace Sys2Proof.Machine

/-- A state that an action passes through: its completion is still to come. -/
def JState.passing : JState → Bool
  | .frame x => x == .migrating || x == .scrubbing
  | .context x => x == .spilling || x == .loading
  | .kernel x => x == .cancelling
  | .partition x => x == .quiescing || x == .reconfiguring || x == .resetting
  | .binding _ | .session _ => false

/-- The entries of a table whose state has changed, as actions. -/
def tableActions {β : Type} [Inhabited β] [DecidableEq β] (t u : Tab β) (obj : Nat → JObject) (st : β → JState) : List JAction :=
  ((t.keys ++ u.keys).eraseDups.filter (fun k => st (t.get k) != st (u.get k))).map (fun k =>
    { obj := obj k, old := st (t.get k), new := st (u.get k), done := false })

namespace State

/-- The actions of a step from s to t. -/
def actionsOf (s t : State) : List JAction :=
  tableActions s.frames t.frames .frame (fun x => .frame x.state) ++
  tableActions s.ctxs t.ctxs .context (fun x => .context x.state) ++
  tableActions s.kernels t.kernels .kernel (fun x => .kernel x.state) ++
  (s.parts.keys ++ t.parts.keys).eraseDups.flatMap (fun p =>
    tableActions (s.part p).bindings (t.part p).bindings (.binding p) (fun x => .binding x.state)) ++
  tableActions s.sessions t.sessions .session (fun x => .session x.opened) ++
  tableActions s.parts t.parts .partition (fun x => .partition x.state)

/-- The running pairs of the Ringmaster, and the one that a piece of work runs on, which the manual leaves open. -/
def runningPairs (s : State) : List Nat := (List.range 4).filter (fun i => s.rm.pairs.getLsbD i)
def pairFor (s : State) (n : Nat) : Nat :=
  (s.runningPairs[Config.workPair n % max 1 s.runningPairs.length]?).getD 0

/-- Before S level acts, each action is recorded, with its old and its new state (R205). -/
def record (s : State) (as : List JAction) : State :=
  let n := s.rm.actions.length
  { s with rm := { s.rm with actions := s.rm.actions ++ as.mapIdx (fun i a => { a with done := false, pair := s.pairFor (n + i) }) } }

/-- After it has acted, completion is recorded: of each action but one whose object passes through a state that other steps end, and of
the action that such a step has ended. -/
def complete (s : State) (as : List JAction) : State :=
  { s with rm := { s.rm with actions := s.rm.actions.map (fun a =>
      match as.find? (fun b => b.obj == a.obj) with
      | some b => if a.done then a else { a with done := !(a.new == b.new && b.new.passing) }
      | none => a) } }

end State

/-- The steps that S level of the Ringmaster takes on objects (R204, R205). -/
def supervises (i : Instr) : Bool :=
  match i with
  | .migrationCopyDone _ | .scrubDone _ | .partitionResetDone _ | .trapTerminateKernel _ | .kernelCancel _ | .ctxSwap _
  | .ctxSpill _ _ | .ctxLoad _ _ _ _ | .ctxDiscard _ | .contextDestroy _ | .shootdownTimeoutReset _ | .frameAllocate _ _ _ _ _ _
  | .frameEvict _ | .frameUnmap _ | .frameWritebackDone _ | .framePin _ | .frameUnpin _ | .migrationStart _ _ | .migrationAbandon _ _
  | .scrubFail _ | .rowSpareRepair _ _ | .speFail _ _ | .adaptEvict _ _ | .adaptRecreate _ _ _ | .processEnd _
  | .partCfgWrite _ | .partitionMerge _ _ _ | .partitionSplit _ | .l2ModeChange _ _ | .quiesceDone | .quiesceTimeout _
  | .partitionReset _ _ | .sessionOpen _ _ _ | .sessionClose _ | .spillDone _ | .loadDone _ | .kernelCancelDone _ => true
  | _ => false

/-- The steps that only S level begins or ends: while the complex is not in service none is taken (R211). -/
def begins (i : Instr) : Bool :=
  match i with
  | .ctxSwap _ | .ctxSpill _ _ | .ctxLoad _ _ _ _ | .ctxDiscard _ | .contextDestroy _ | .frameAllocate _ _ _ _ _ _ | .frameEvict _
  | .frameUnmap _ | .frameWritebackDone _ | .framePin _ | .frameUnpin _ | .migrationStart _ _ | .adaptEvict _ _ | .adaptRecreate _ _ _
  | .processEnd _ | .partCfgWrite _ | .partitionMerge _ _ _ | .partitionSplit _ | .l2ModeChange _ _ | .quiesceTimeout _
  | .sessionOpen _ _ _ | .sessionClose _ | .sfenceVma _ _ _ | .ageSweep | .kernelCancel _ | .directoryExchange _ _ => true
  | _ => false

/-- The steps by which S level completes what it has begun: they go on once the pairs that pass their self-test re-attach (R211). -/
def ends (i : Instr) : Bool :=
  match i with
  | .scrubDone _ | .migrationCopyDone _ | .migrationAbandon _ _ | .scrubFail _ | .rowSpareRepair _ _ | .quiesceDone => true
  | _ => false

namespace State

/-- The complex is reset, has failed, or stands in recovery mode: S level does not run. -/
def rmStopped (s : State) : Bool :=
  s.rm.state == .recovering || s.rm.state == .failed || s.rm.state == .recoveryMode

/-- A step of S level is not taken now. -/
def rmKeeps (s : State) (first last : Bool) : Bool :=
  s.rmStopped && (first || (last && s.rm.passed.isNone))

end State

end Sys2Proof.Machine
end

