-- ==== Sys2Proof/Machine/Boot.lean ====
section
/-! DEFINITION. Resets, boot, the sideband port and the supervisor complex (12, 14, R222, R223, R226). -/

namespace Sys2Proof.Machine

/-- The rows of the opcode table that read or write a control-space register (R7). -/
def controlSpace (i : Instr) : Bool :=
  match i with
  | .dspWinWrite _ _ _ | .tenFrWrite _ _ | .pfxBaseWrite _ _ | .pfxCfgWrite _ _ | .bgtClassWrite _ _ _ | .bgtClassRead _ _
  | .partCfgWrite _ | .ivlMapWrite _ _ | .nbndWrite _ _ | .xshrWrite _ _ | .rmWdogPet | .rmWdogTimeoutWrite _ | .parkCtlWrite _ _
  | .parkWindowWrite _ _ _ _ | .erqCfgWrite _ _ | .erqCfgRead _ | .rstcWrite _ | .registerWrite _ _ | .heapOwnerWrite _ _
  | .ctxSwap _ | .ctxSpill _ _ | .ctxLoad _ _ _ _ | .ctxDiscard _ | .ctxCmdBad _ _ => true
  | _ => false

/-- The bit of RSTC that a device reset sets (R222). -/
def resetBit : ResetCause → Nat
  | .powerOn => 0 | .sideband => 1 | .ringmaster => 2 | .thermal => 3 | .brownout => 4 | .fatal => 10

/-- Exactly 8 of a cluster's sites are enabled; clusters 4–6 of a die have 8 sites (R10). -/
def mapOk (m : BitVec 252) : Bool :=
  (List.range 28).all (fun c =>
    ((List.range 9).filter (fun i => m.getLsbD (9 * c + i))).length == 8 && !(4 ≤ c % 7 && m.getLsbD (9 * c + 8)))

/-- The site, 0 to 8 in its cluster, of a core by its logical position: the enabled sites take positions 0 to 7 in ascending
order (R10, R11). -/
def siteOf (m : BitVec 252) (core : Nat) : Option Nat :=
  ((List.range 9).filter (fun i => m.getLsbD (9 * coreCluster core + i)))[core % 8]?

/-- Every link and port of the module (R185, R183). -/
def allLinks : List LinkId :=
  (List.range 16).map .uaLink ++ (List.range 4).map .ultraEthernet ++ (List.range 4).map .pciExpress ++
  (List.range 5).flatMap (fun d => (List.range 8).map (.dieToDie d))

/-- A link's key in the table of links; none for a link that the module does not have. -/
def linkKey : LinkId → Option Nat
  | .uaLink n => if n < 16 then some n else none
  | .ultraEthernet n => if n < 4 then some (16 + n) else none
  | .pciExpress n => if n < 4 then some (20 + n) else none
  | .dieToDie d n => if d < 5 ∧ n < 8 then some (32 + 8 * d + n) else none

namespace State

def setRm (s : State) (f : Ringmaster → Ringmaster) : State := { s with rm := f s.rm }

/-- A record of boot and security (R214, R219). -/
def bootRecord (s : State) (code sev action : Nat) : State :=
  s.log { code := code, sev := sev, action := action, eclass := 16, part := 0xFF, einst := 4 }

/-- What a device reset leaves (R222, R223): the state after reset, with the turns to come, what the sideband has been told,
the severe records and RSTC; at a power-on the records are gone too. -/
def afterReset (s : State) (cause : ResetCause) : State :=
  let keep := cause != .powerOn
  let severe := if keep then s.rm.severe else []
  { State.reset with
    turns := s.turns, nextId := s.nextId, fresh := s.fresh
    cores := ⟨s.cores.cells.map (fun e => (e.1, { keyEpoch := e.2.keyEpoch + 1 }))⟩
    dies := (List.range 5).foldl (fun t n =>
      t.modify n (fun d => { d with wear := (s.die n).wear, wearMark := (s.die n).wearMark })) State.reset.dies
    rm := { rstc := if keep then (s.rm.rstc / 2 ^ 11 * 2 ^ 11) ||| BitVec.ofNat 20 (2 ^ resetBit cause) else 1
            severe := severe, prior := severe, replies := s.rm.replies } }

/-- Step 5 of the boot (R208): the division of the configuration record, IVL_MAP and NBND; links train. -/
def bootDivision (s : State) (b : BootRecord) : State :=
  let o := b.owner
  let dl := b.dlocal
  let s1 := (List.range 4).foldl (fun s d =>
    let own := dieMask ((List.range 4).filter (fun q => ownerAt o q == ownerAt o d))
    s.modDie d (fun x => { x with ivlDies := own, ivlMode := dl.getLsbD d, peers := own })) { s with owners := o, dlocal := dl }
  let s2 := (((List.range 4).map (ownerAt o)).eraseDups).foldl (fun s p => s.modPart p (fun x => { x with state := .running })) s1
  { s2 with links := allLinks.foldl (fun t l => match linkKey l with | some k => t.set k .training | none => t) s2.links
            rm := { s2.rm with booted := true, coreMap := b.coreMap } }

/-- The step of the boot that fails, or 6 (R208): the second is the first with which the boot can end. -/
def failingStep (b : BootRecord) : Nat :=
  if !(b.imageAOk || b.imageBOk) then 2
  else if !(b.recordOk && mapOk b.coreMap) then 3
  else if !b.firmwareOk then 4
  else if !(divisionOk b.owner b.dlocal && b.startOk) then 5
  else 6

/-- The boot up to step 5 (R208, R212): each step that is reached extends the measurement log.  A failed signature leads to recovery mode;
a failure of step 5 leaves a module-level record with action A6, and the module BOOTING. -/
def boot (s : State) (b : BootRecord) : State :=
  let n := failingStep b
  let s1 := s.setRm (fun r => { r with
    attests := b.identityOk, log := (b.digests.take (min n 5)).foldl extendLog r.log, toMeasure := b.digests.drop 5 })
  let s2 := if b.identityOk then s1 else s1.bootRecord 0x0902 4 7
  if n = 6 then s2.bootDivision b
  else if n = 5 then s2.bootRecord Config.bootCode 4 6
  else (s2.bootRecord 0x0901 4 7).setRm (fun r => { r with state := .recoveryMode })

/-- DEVICE_RESET. -/
def deviceReset (s : State) (cause : ResetCause) (b : BootRecord) : State := (s.afterReset cause).boot b

/-- Every die that works has started its clusters. -/
def allStarted (s : State) : Bool := (List.range 4).all (fun d => (s.die d).failed || 7 ≤ (s.die d).started)

/-- The next boot step extends the measurement log (R208). -/
def measure (s : State) : State :=
  s.setRm (fun r => { r with log := (r.toMeasure.take 1).foldl extendLog r.log, toMeasure := r.toMeasure.drop 1 })

/-- The frame of the journal, PINNED by the Ringmaster for no tenant (R205). -/
def buildJournal (s : State) : State :=
  let f := Config.journalFrame % frameCount
  if s.freeSpan f 1 then { s with frames := s.frames.set f { state := .pinned, tenant := 64, rm := true } } else s

/-- Step 7 of the boot (R208): once every cluster has started and the error record queue of every partition is open, the journal is built
and the complex is RUNNING. -/
def bootEnds (s : State) : State :=
  let ps := ((List.range 4).map s.partOf).eraseDups
  if s.rm.state ≠ .booting ∨ !s.rm.booted ∨ !s.allStarted ∨ ps.any (fun p => (s.part p).erq.log2cap == 0) then s
  else s.measure.buildJournal.setRm (fun r => { r with state := .running, pairs := 15, petAt := s.now })

/-- CLUSTER_START (R208, R226): a cluster each 4,096 cycles from power-up; the last one ends step 6. -/
def startCluster (s : State) (die : Nat) : State :=
  let d := s.die die
  if 4 ≤ die ∨ s.rm.state ≠ .booting ∨ !s.rm.booted ∨ 7 ≤ d.started ∨ s.cycle < 4096 * d.started then s
  else
    let s1 := s.modDie die (fun d => { d with started := d.started + 1 })
    if s1.allStarted then s1.measure.bootEnds else s1

/-! The supervisor complex (R211, R212). -/

/-- The Ringmaster alone is reset, with its bit in RSTC (R186, R222): RECOVERING, where a reset under way begins its self-test anew.
While it boots or has FAILED no other state follows (R212, log 37). -/
def rmReset (s : State) (bit : Nat) : State :=
  let s1 := s.setRm (fun r => { r with rstc := r.rstc ||| BitVec.ofNat 20 (2 ^ bit) })
  if s.rmUp then (s1.setRm (fun r => { r with state := .recovering, pairs := 0, excluded := 0, passed := none, harts := {} })).queueHeld
  else if s.rm.state = .recovering then s1.setRm (fun r => { r with passed := none })
  else s1

/-- A record of the complex (R214, R219). -/
def rmRecord (s : State) (code sev action einst detail : Nat) : State :=
  s.log { code := code, sev := sev, action := action, eclass := 14, part := 0xFF, einst := einst, detail := detail }

/-- What ran on a pair restarts on another one, from the last completed record of the journal (R211): every action of the pair that is
not complete is the other's. -/
def moveWork (s : State) (pair : Nat) : State :=
  s.setRm (fun r => { r with actions := r.actions.mapIdx (fun i a => if a.pair = pair ∧ !a.done then { a with pair := s.pairFor i } else a) })

/-- LOCKSTEP_MISMATCH: the pair halts, and its work moves; the last one leads to a reset; during a reset it does not pass. -/
def mismatch (s : State) (pair : Nat) : State :=
  let bit : BitVec 4 := BitVec.ofNat 4 (2 ^ pair)
  if 4 ≤ pair then s
  else if s.rmUp ∧ s.rm.pairs.getLsbD pair then
    let s1 := (s.rmRecord 0x0601 1 1 pair 0).setRm (fun r => { r with pairs := r.pairs &&& ~~~bit, state := .reduced })
    if s1.rm.pairs = 0 then s1.rmReset 7 else s1.moveWork pair
  else if s.rm.state = .recovering then
    (s.rmRecord 0x0601 1 1 pair 0).setRm (fun r =>
      { r with excluded := r.excluded ||| bit, passed := r.passed.map (fun p => p &&& ~~~bit) })
  else s

/-- WATCHDOG_EXPIRY: no pair has written RM_WDOG within TIMEOUT. -/
def watchdog (s : State) : State :=
  if !s.rmUp ∨ s.now < s.rm.petAt + s.rm.timeout.toNat * 1000 then s
  else (s.rmRecord 0x0602 1 1 (rmPair 0x0602) 0).rmReset 6

/-- A write of RM_WDOG: it is discarded whole when its TIMEOUT is 0 or above 10,000,000; PET restarts the interval, which a write that
carries the TIMEOUT that stands does alone. -/
def writeWdog (s : State) (v : DWord) : State :=
  if v.lo = 0 ∨ 10000000 < v.lo.toNat then s
  else s.setRm (fun r => { r with timeout := v.lo, petAt := if v.getLsbD 32 then s.now else r.petAt })
def pet (s : State) : State := s.setRm (fun r => { r with petAt := s.now })
def writeTimeout (s : State) (v : Word) : State :=
  if v = 0 ∨ 10000000 < v.toNat then s else s.setRm (fun r => { r with timeout := v })

/-- The number of running pairs. -/
def pairCount (p : BitVec 4) : Nat := ((List.range 4).filter (fun i => p.getLsbD i)).length

/-- RINGMASTER_RESET, by cause. -/
def ringmasterReset (s : State) (cause : RmCause) : State :=
  match cause with
  | .sideband => if s.rm.state = .recoveryMode then s else s.rmReset 5
  | .watchdog => s.watchdog
  | .lastPair =>
    if pairCount s.rm.pairs = 1 then s.mismatch ((List.range 4).findIdx (fun i => s.rm.pairs.getLsbD i)) else s

/-- No pair passes: FAILED. -/
def rmFailed (s : State) : State :=
  (s.rmRecord 0x0602 1 6 (rmPair 0x0602) 0).setRm (fun r => { r with state := .failed, passed := none })

/-- SELF_TEST_DONE. -/
def selfTest (s : State) (passing : BitVec 4) : State :=
  if s.rm.state ≠ .recovering ∨ s.rm.passed.isSome then s
  else
    let p := passing &&& ~~~s.rm.excluded
    if p = 0 then s.rmFailed else s.setRm (fun r => { r with passed := some p })

/-- An action without a completion record is completed or undone (R211): a migration is abandoned and a handshake ends with its quarters
unchanged; every other one is completed by the steps that are its own (log 38). -/
def recover (s : State) (a : JAction) : State :=
  match a.obj, a.new with
  | .frame f, .frame .migrating => s.abandon f false
  | .partition p, .partition .quiescing => s.dropReconf p
  | _, _ => s

/-- The replay of the journal: what it undoes is recorded as every action is. -/
def replayJournal (s : State) : State :=
  let t := (s.rm.actions.filter (fun a => !a.done)).foldl recover s
  (t.record (s.actionsOf t)).complete (s.actionsOf t)

/-- An object of an open action stands in the state that the action is to lead out of. -/
def unfinished (s : State) : Bool :=
  s.rm.actions.any (fun a => !a.done && a.new.passing && (match a.obj with
    | .frame f => a.new == .frame (s.frame f).state
    | .context c => a.new == .context (s.ctx c).state
    | .kernel k => a.new == .kernel (s.kernel k).state
    | .partition p => a.new == .partition (s.part p).state
    | .binding _ _ | .session _ => false))

/-- REATTACH_DONE: the journal is replayed, and once no action of it is open the pairs that passed are in service again, and faulted
attendants are reset. -/
def reattach (s : State) : State :=
  match s.rm.state, s.rm.passed with
  | .recovering, some p =>
    if p = 0 then s.rmFailed
    else
      let s0 := s.replayJournal
      if s0.unfinished then s0
      else
      let s1 := s0.setRm (fun r => { r with
        state := if p = 15 then .running else .reduced, pairs := p, passed := none, excluded := 0, petAt := s.now, mirrorDue := 0 })
      let s2 := { s1 with cores := s1.cores.mapCells (fun _ c => { c with attFaulted := false }) }
      s2.rmRecord 0x0603 0 0 (rmPair 0x0603) (pairCount p)
  | _, _ => s

/-- Rhollilia grants a peer command queue to the peer whose handshake is under way (R210). -/
def grantQueue (s : State) (q : Nat) : State :=
  if (s.queue q).kind ≠ 4 ∨ (s.queue q).state = .free then s else s.setRm (fun r => { r with grants := r.grants ++ [q] })

/-- SESSION_OPEN (R210): the outcome of the checks is the environment's; without an identity key none succeeds.  SESSION is written into
the queues granted to the peer. -/
def openSession (s : State) (n : Word) (key : BitVec 512) (ok : Bool) : State :=
  let close (s : State) : State := s.setRm (fun r => { r with grants := [] })
  if !s.rmUp then s
  else if !ok ∨ !s.rm.attests then close (s.bootRecord 0x0902 0 0)
  else if n = 0 ∨ (s.sessions.get n.toNat).opened then s
  else
    let s1 := { s with sessions := s.sessions.set n.toNat { opened := true, key := key, highest := 0 } }
    close (s.rm.grants.foldl (fun s q => s.updQueue q (fun x => { x with session := n })) s1)

/-- A peer's key exchange (R210): the chain is checked against the roots that the operator installed, and the signature over the key and
the chain; the key of the session is derived from the shared secret, with the peer's ephemeral key and the module's as salt. -/
def handshake (s : State) (n : Word) (secret peerKey ownKey : BitVec 256) (chainOk sigOk : Bool) : State :=
  s.openSession n (sessionKey secret peerKey ownKey) (chainOk && sigOk)

def closeSession (s : State) (n : Word) : State := { s with sessions := s.sessions.set n.toNat {} }

/-- ATTENDANT_FAULT (R91, R207): its traps go to the Ringmaster, which resets it. -/
def attendantFails (s : State) (core : Nat) : State :=
  if 224 ≤ core then s
  else
    let s1 := s.log { code := 0x0604, sev := 2, action := 1, eclass := 1, part := s.partOf (coreDie core), einst := core }
    let s2 := s1.modCore core (fun c => { c with attFaulted := !s.rmUp, attLevel := .m, attData := [] })
    { s2 with groups := s2.groups.mapCells (fun _ g =>
        if g.handler = some 0 ∧ (s.ctx g.ctx).core = core then { g with handler := some 2 } else g) }

/-! Harts (R204, R206).  What their instructions are is no part of the manual: a hart acts on the module by the steps of the opcode
table, by accesses to control-space registers, and as an attendant by loads and stores. -/

/-- The pair runs, or the module boots. -/
def pairRuns (s : State) (pair : Nat) : Bool := pair < 4 && (s.rm.pairs.getLsbD pair || s.rm.state == .booting)

/-- A pair's harts change their level. -/
def setLevel (s : State) (pair : Nat) (l : HartLevel) : State :=
  if s.pairRuns pair then s.setRm (fun r => { r with harts := r.harts.set pair l }) else s

/-- A U-level access to a control-space register faults in the hart and reaches no register (R204); its supervisor takes the fault
(DESIGN CHOICE, log 37). -/
def hartFault (s : State) (pair : Nat) : State := s.setLevel pair .s

/-- An attendant changes between its two levels. -/
def attendantLevel (s : State) (core : Nat) (l : HartLevel) : State :=
  if 224 ≤ core ∨ l = .u then s else s.modCore core (fun c => { c with attLevel := l })

/-- The key under which an attendant's loads see registrations in flight. -/
def attKey (core : Nat) : Nat := 2 ^ 121 + core

/-- An attendant reads or writes bytes of a context of its core, through the context's page table and the core's L1 (R206); a translation
that fails, and poison, fault in the attendant. -/
def attendantRead (s : State) (core va n : Nat) : State :=
  let c := (s.core core).ctxIn (s.core core).activeBank
  if 224 ≤ core ∨ n = 0 ∨ 256 < va % 256 + n then s
  else match s.translate core (s.ctx c).asid va .read with
    | .error _ => s.attendantFails core
    | .ok (s1, pa) => match s1.loadPhys (attKey core) core pa n .l1 with
      | none => s
      | some (s2, bs, bad) => if bad then s2.attendantFails core else s2.modCore core (fun k => { k with attData := bs })

def attendantWrite (s : State) (core va : Nat) (bs : List Byte) : State :=
  let c := (s.core core).ctxIn (s.core core).activeBank
  if 224 ≤ core ∨ bs.isEmpty ∨ 256 < va % 256 + bs.length then s
  else match s.translate core (s.ctx c).asid va .write with
    | .error _ => s.attendantFails core
    | .ok (s1, pa) => (s1.storePhys core pa (s1.seen.get core) bs).getD s

/-! The sideband port (R185, R186, R209). -/

def answer (s : State) (r : Reply) : State := s.setRm (fun m => { m with replies := m.replies ++ [r] })

/-- What refuses a reset request before its PMASK is compared with the division (R186, log 25). -/
def badRequest (s : State) (m : ResetMsg) : Nat :=
  if m.cmd ≠ 1 ∨ 2 < m.scope.toNat then 1
  else if m.scope ≠ 1 ∧ m.pmask ≠ 0 then 2
  else if m.scope ≠ 0 ∧ s.rm.state = .recoveryMode then 3
  else if m.rsv ≠ 0 ∨ m.bytes ≠ 8 then 4
  else 0

/-- RESET_REQ_DEVICE; a message whose scope is none of the three is answered here. -/
def requestDevice (s : State) (m : ResetMsg) (b : BootRecord) : State :=
  let code := s.badRequest m
  if m.scope = 1 ∨ m.scope = 2 then s
  else if code ≠ 0 then s.answerReset m code
  else (s.answerReset m 0).deviceReset .sideband b

/-- RESET_REQ_PARTITION; during a reconfiguration it waits. -/
def requestPart (s : State) (m : ResetMsg) : State :=
  let code := s.badRequest m
  if m.scope ≠ 1 then s
  else if code ≠ 0 then s.answerReset m code
  else if s.reconf.isSome then s.setRm (fun r => { r with held := r.held ++ [m] })
  else s.resetByMask m

/-- RESET_REQ_RINGMASTER. -/
def requestRm (s : State) (m : ResetMsg) : State :=
  let code := s.badRequest m
  if m.scope ≠ 2 then s
  else if code ≠ 0 then s.answerReset m code
  else (s.answerReset m 0).rmReset 5

/-- An SPDM request; in recovery mode only GET_VERSION and GET_MEASUREMENTS are answered (R208), and without an identity key
every signed response is refused (R209). -/
def spdm (s : State) (inRecovery signed : Bool) (r : Reply) : State :=
  if s.rm.state = .recoveryMode ∧ !inRecovery then s
  else if signed ∧ !s.rm.attests then s.answer .refused
  else s.answer r

end State

def execDeviceReset (cause : ResetCause) (boot : BootRecord) (s : State) : Out := .next (s.deviceReset cause boot)
def execClusterStart (die : Nat) (s : State) : Out := .next (s.startCluster die)
def execLockstepMismatch (pair : Nat) (s : State) : Out := .next (s.mismatch pair)
def execWatchdogExpiry (s : State) : Out := .next s.watchdog
def execRmWdogPet (s : State) : Out := .next s.pet
def execRmWdogTimeoutWrite (v : Word) (s : State) : Out := .next (s.writeTimeout v)
def execRingmasterReset (cause : RmCause) (s : State) : Out := .next (s.ringmasterReset cause)
def execSelfTestDone (passing : BitVec 4) (s : State) : Out := .next (s.selfTest passing)
def execReattachDone (s : State) : Out := .next (s.thenReconf State.reattach)
def execSessionOpen (session : Word) (key : BitVec 512) (ok : Bool) (s : State) : Out := .next (s.openSession session key ok)
def execSessionClose (session : Word) (s : State) : Out := .next (s.closeSession session)
def execAttendantFault (core : Nat) (s : State) : Out := .next (s.attendantFails core)
def execResetReqDevice (m : ResetMsg) (boot : BootRecord) (s : State) : Out := .next (s.requestDevice m boot)
def execResetReqPartition (m : ResetMsg) (s : State) : Out := .next (s.thenReconf (fun s => s.requestPart m))
def execResetReqRingmaster (m : ResetMsg) (s : State) : Out := .next (s.requestRm m)
def execGetVersion (s : State) : Out := .next (s.spdm true false .version)
def execGetCapabilities (s : State) : Out := .next (s.spdm false false .capabilities)
def execNegotiateAlgorithms (s : State) : Out := .next (s.spdm false false .algorithms)
def execGetDigests (s : State) : Out := .next (s.spdm false false (.digests Config.certificateDigests))
def execGetCertificate (s : State) : Out := .next (s.spdm false false (.certificate Config.certificateChain))
def execChallenge (nonce : BitVec 256) (s : State) : Out :=
  .next (s.spdm false true (.challenge s.rm.log (Config.signature nonce s.rm.log)))

/-- GET_MEASUREMENTS (R209): the nonce of the request is a free value. -/
def execGetMeasurements (s : State) : Out :=
  .next ({ s with fresh := s.fresh + 1 }.spdm true true (.measurements s.rm.log (Config.signature (Config.requestNonce s.fresh) s.rm.log)))

/-- MCTP_UNSUPPORTED (R185): dropped without a reply. -/
def execMctpUnsupported (_ : Byte) (s : State) : Out := .next s

end Sys2Proof.Machine
end

