-- ==== Sys2Proof/Machine/Collective.lean ====
section
/-! DEFINITION. The collective service (R190, R191). -/

namespace Sys2Proof.Machine

/-- The tags that a collective takes: F32, F16, BF16, E4M3, E5M2. -/
def collTag (t : Nat) : Bool := 1 ≤ t && t ≤ 5

/-- The fields of a collective descriptor, as a unit of a die read it for a process. -/
def parseColl (die : Nat) (va : DWord) (asid : BitVec 16) (b : List Byte) : CollDesc :=
  { die := die, va := va, asid := asid, src := BitVec.ofNat 64 (fieldAt b 0 8), dst := BitVec.ofNat 64 (fieldAt b 8 8),
    key := BitVec.ofNat 64 (fieldAt b 0x10 8), count := fieldAt b 0x18 4, stag := fieldAt b 0x1C 1, dtag := fieldAt b 0x1D 1,
    wtag := fieldAt b 0x1E 1, op := fieldAt b 0x1F 1, nloc := fieldAt b 0x22 2, done := BitVec.ofNat 64 (fieldAt b 0x28 8) }

/-- The descriptor keeps its rules (R191). -/
def collOk (d : CollDesc) (b : List Byte) : Bool :=
  1 ≤ d.count && d.count ≤ 2 ^ 28 && collTag d.stag && collTag d.dtag && collTag d.wtag && d.op ≤ 1 && fieldAt b 0x20 2 ≤ 1023 &&
  1 ≤ d.nloc && d.done.toNat % 4 == 0 && canonical d.done && fieldAt b 0x34 8 == 0 && fieldAt b 0x3C 4 == 0

/-- Two descriptors of one collective agree (step 1 of R191). -/
def collAgree (x y : CollDesc) : Bool :=
  x.count == y.count && x.stag == y.stag && x.dtag == y.dtag && x.wtag == y.wtag && x.op == y.op && x.key == y.key && x.nloc == y.nloc

/-- Bytes of an element of a tag. -/
def elemSize (t : Nat) : Nat := State.tagWidth t / 8

/-- An exact sum or maximum of contributions (steps 2 and 3 of R191); the sum's zero is +0, as a fixed-point zero is. -/
def collMax (x y : Val) : Val :=
  if x.isNan || y.isNan then .nan false
  else if x.lt y || (x.eq y && x.isNeg && !y.isNeg) then y else x

def collCombine (op : Nat) : List Val → Val
  | [] => .fin false 0 0
  | x :: r =>
    let v := if op = 1 then r.foldl collMax x else r.foldl (fun a y => a.add .rne y) x
    if op = 0 ∧ v.isZero then .fin false 0 0 else v

/-- A value in a tag, RNE or with random bits. -/
def collRound (t : Nat) (u : Option Nat) (v : Val) : Word := BitVec.ofNat 32 (toTag t .rne u false v).1

/-- The ranks of a module's children in the tree of R191. -/
def kids (r ranks : Nat) : List Nat := [2 * r + 1, 2 * r + 2].filter (· < ranks)

/-- A die-to-die port. -/
def isD2d : LinkId → Bool
  | .dieToDie _ _ => true
  | _ => false

namespace State

/-- The state of a link (R187). -/
def linkState (s : State) (l : LinkId) : LinkState :=
  match linkKey l with
  | some k => s.links.get k
  | none => .disabled

/-- A link carries traffic. -/
def inService (s : State) (l : LinkId) : Bool := s.linkState l == .up || s.linkState l == .degraded

/-- A record of a link: external links are class 12, die-to-die ports class 11 from 96 up (R214). -/
def linkRecord (s : State) (l : LinkId) (code sev action : Nat) (pa : Option Nat) : State :=
  let e : ErrRec := { code := code, sev := sev, action := action, eclass := 12, part := 0xFF, einst := (linkKey l).getD 0, pa := pa }
  s.log (match l with
    | .dieToDie d n => { e with eclass := 11, einst := 96 + n, part := if d < 4 then s.partOf d else 0xFF }
    | _ => e)

/-- The number of a collective of a partition. -/
def collKey (part comm step : Nat) : Nat := (part * 1024 + comm) * 2 ^ 32 + step

/-- The first partition in which a test holds of a collective. -/
def collFind (s : State) (comm step : Nat) (p : Coll → Bool) : Option (Nat × Coll) :=
  (List.range 4).findSome? (fun q => match s.colls.get (collKey q comm step) with
    | some c => if p c then some (collKey q comm step, c) else none
    | none => none)

/-- The die at whose stop the traffic of a collective is counted (R191): that of its first descriptor. -/
def collDie (s : State) (comm step : Nat) : Nat :=
  match s.collFind comm step (fun _ => true) with
  | some (_, c) => (match c.descs with | d :: _ => d.die | [] => 0)
  | none => 0

def setColl (s : State) (k : Nat) (c : Option Coll) : State := { s with colls := s.colls.set k c }

/-- A descriptor ends: STATUS is written, and DONE added (step 4 of R191). -/
def endDesc (s : State) (d : CollDesc) (status : Nat) : State :=
  let s1 := (s.vwrite d.die d.asid (d.va.toNat + 0x30) (leBytes 4 status)).1
  if d.done = 0 ∨ d.done.toNat % 4 ≠ 0 then s1
  else match s1.dieAddr d.die d.asid d.done.toNat .write with
    | .ok (s2, pa) => s2.homeAdd pa (if status = 0 then 1 else 0x10000)
    | .error s2 => s2

/-- A collective ends with a STATUS other than 0 for all its descriptors. -/
def failColl (s : State) (k : Nat) (c : Coll) (status : Nat) : State :=
  c.descs.foldl (fun s d => s.endDesc d status) (s.setColl k none)

/-- COLLECTIVE_TAKE: the service takes an entry and reads its descriptor once (log 27 for one that it cannot read). -/
def collTake (s : State) (q : Nat) : State :=
  let qu := s.queue q
  if qu.kind ≠ 5 ∨ qu.state = .free ∨ qu.count = 0 then s
  else
    let die := queueDie q
    let lost := (s.entryPoison q die 0).isSome
    let (s1, v) := s.pop q die
    let va := qu.recBase + BitVec.ofNat 64 (64 * v.toNat)
    if lost then s1
    else match s1.vread die qu.asid va.toNat 64 with
    | .error s2 => s2
    | .ok (s2, b, bad) =>
      let d := parseColl die va qu.asid b
      let comm := fieldAt b 0x20 2
      let part := s.partOf die
      let k := collKey part comm (fieldAt b 0x24 4)
      if bad || !collOk d b || !(s2.comms.get comm).configured then s2.endDesc d 1
      else match s2.colls.get k with
        | none => s2.setColl k (some { part := part, descs := [d] })
        | some c =>
          if c.descs.length = d.nloc ∧ c.descs.all (collAgree d) then s
          else if c.descs.all (collAgree d) then s2.setColl k (some { c with descs := c.descs ++ [d] })
          else s2.failColl k { c with descs := c.descs ++ [d] } 2

/-- The elements of a contribution with their poison. -/
def readElems (s : State) (d : CollDesc) : Except State (State × List (Val × Bool)) :=
  (List.range d.count).foldl (fun r i =>
    match r with
    | .error e => .error e
    | .ok (s, vs) =>
      match s.vread d.die d.asid (d.src.toNat + elemSize d.stag * i) (elemSize d.stag) with
      | .error e => .error e
      | .ok (s1, bs, p) => .ok (s1, vs ++ [(elemExact d.stag (leNat bs) 127, p)])) (.ok (s, []))

/-- Every contribution of a partition, in order. -/
def readAll (s : State) : List CollDesc → Except State (State × List (List (Val × Bool)))
  | [] => .ok (s, [])
  | d :: r =>
    match s.readElems d with
    | .error e => .error e
    | .ok (s1, vs) =>
      match readAll s1 r with
      | .error e => .error e
      | .ok (s2, rest) => .ok (s2, vs :: rest)

/-- What a module has after its own reduction and its children's partials: what it sends up in WTAG, requantised for a sum, or
the result in DTAG at rank 0 (step 3 of R191).  None until all is there. -/
def collSend (s : State) (c : Coll) (comm step : Nat) : Option (List Word × List Nat) :=
  match c.descs with
  | [] => none
  | d :: _ =>
    let m := s.comms.get comm
    let below := kids m.rank m.ranks
    if !c.reduced || !below.all (fun r => c.children.any (fun e => e.1 == r)) then none
    else if m.ranks ≤ 1 then some (c.own, c.bad)
    else
      let parts := below.filterMap (fun r => (c.children.find? (fun e => e.1 == r)).map Prod.snd)
      let bad := (List.range d.count).filter (fun i => c.bad.contains i || parts.any (fun p => p.2.contains i))
      let val (w : Word) : Val := elemExact d.wtag w.toNat 127
      let sums := (List.range d.count).map (fun i => collCombine d.op (val (c.own.getD i 0) :: parts.map (fun p => val (p.1.getD i 0))))
      let outs := (sums.zip (List.range d.count)).map (fun e =>
        if m.rank = 0 then collRound d.dtag none e.1
        else if d.op = 1 then collRound d.wtag none e.1
        else collRound d.wtag (some ((srBits d.key (BitVec.ofNat 32 m.rank) (BitVec.ofNat 32 step) (BitVec.ofNat 32 e.2) 0).toNat % 65536)) e.1)
      some (outs, bad)

/-- A link of a communicator of several modules is DOWN or DISABLED. -/
def commCut (s : State) (comm : Nat) : Option LinkId :=
  if (s.comms.get comm).ranks ≤ 1 then none else (s.comms.get comm).links.find? (fun l => cutOff (s.linkState l))

/-- Every link of a communicator carries traffic. -/
def commServes (s : State) (comm : Nat) : Bool := (s.comms.get comm).links.all s.inService

/-- A collective after a change: it sends what it can; where a module cannot be reached it ends with STATUS 3. -/
def collAdvance (s : State) (k comm step : Nat) (c : Coll) : State :=
  match s.commCut comm with
  | some l => (s.linkRecord l 0x0504 2 1 none).failColl k c 3
  | none =>
  match s.collSend c comm step with
  | some (v, bad) => s.setColl k (some { c with sent := some v, bad := bad })
  | none => s.setColl k (some c)

/-- COLLECTIVE_REDUCE: NLOC descriptors are there; every element is combined exactly and rounded once, RNE (step 2). -/
def collReduce (s : State) (comm step : Nat) : State :=
  match s.collFind comm step (fun c => !c.reduced && (match c.descs with | d :: _ => c.descs.length == d.nloc | [] => false)) with
  | none => s
  | some (k, c) =>
    let d := c.descs.head?
    match d, s.readAll c.descs with
    | none, _ => s
    | some _, .error s1 => s1.failColl k c 1
    | some d, .ok (s1, rows) =>
      let at_ (i : Nat) : List (Val × Bool) := rows.map (fun r => r.getD i (.fin false 0 0, false))
      let tag := if (s.comms.get comm).ranks ≤ 1 then d.dtag else d.wtag
      let own := (List.range d.count).map (fun i => collRound tag none (collCombine d.op ((at_ i).map Prod.fst)))
      let bad := (List.range d.count).filter (fun i => c.lost.contains i || (at_ i).any Prod.snd)
      s1.collAdvance k comm step { c with reduced := true, own := own, bad := bad }

/-- COLLECTIVE_CHILD_PARTIAL: a child module's partial arrives, with the elements that are poisoned. -/
def collChild (s : State) (comm step rank : Nat) (vals : List Word) (bad : List Nat) : State :=
  let m := s.comms.get comm
  match s.collFind comm step (fun c => c.sent.isNone && !c.children.any (fun e => e.1 == rank) &&
      (match c.descs with | d :: _ => vals.length == d.count | [] => false)) with
  | none => s
  | some (k, c) =>
    if !(kids m.rank m.ranks).contains rank ∨ !s.commServes comm then s
    else s.collAdvance k comm step { c with children := c.children ++ [(rank, vals, bad)] }

/-- The poison of an element that has been written (R221). -/
def poisonElem (s : State) (d : CollDesc) (va : Nat) : State :=
  match s.dieAddr d.die d.asid va .write with
  | .ok (s1, pa) => { s1 with poison := s1.poison.set (pa / 4) true }
  | .error s1 => s1

/-- The result is written to a descriptor's DST, then STATUS and DONE. -/
def collWrite (s : State) (d : CollDesc) (vals : List Word) (bad : List Nat) : State :=
  let n := elemSize d.dtag
  match s.vwrite d.die d.asid d.dst.toNat (vals.flatMap (fun w => leBytes n w.toNat)) with
  | (s1, false) => s1.endDesc d 1
  | (s1, true) =>
    let s2 := bad.foldl (fun s i => s.poisonElem d (d.dst.toNat + n * i)) s1
    s2.endDesc d (if bad.isEmpty then 0 else 4)

/-- COLLECTIVE_RESULT: rank 0 has the result; another rank receives it unchanged from its parent. -/
def collResult (s : State) (comm step : Nat) (vals : List Word) (bad : List Nat) : State :=
  match s.collFind comm step (fun c => c.sent.isSome) with
  | none => s
  | some (k, c) =>
    let top := (s.comms.get comm).rank = 0 ∨ (s.comms.get comm).ranks ≤ 1
    let r := if top then c.sent.getD [] else vals
    let b := if top then c.bad else bad
    if !top ∧ !s.commServes comm then s
    else if r.length ≠ (match c.descs with | d :: _ => d.count | [] => 0) then s
    else c.descs.foldl (fun s d => s.collWrite d r b) (s.setColl k none)

/-- COLLECTIVE_CANCEL: STATUS 5. -/
def collCancel (s : State) (comm step : Nat) : State :=
  match s.collFind comm step (fun _ => true) with
  | none => s
  | some (k, c) => s.failColl k c 5

/-- A link is DOWN or DISABLED: the collectives whose communicator uses it end with STATUS 3. -/
def collCut (s : State) (l : LinkId) : State :=
  s.colls.cells.foldl (fun s e => match e.2 with
    | some c => if (s.comms.get (e.1 / 2 ^ 32 % 1024)).links.contains l then s.failColl e.1 c 3 else s
    | none => s) s

end State

def execCollectiveTake (queue : Nat) (s : State) : Out :=
  .next (s.inject (queueDie queue) 1 62 (2 ^ 66 + queue) (fun t => (t.queue queue).head != (s.queue queue).head) (fun s => s.collTake queue))
def execCollectiveReduce (comm step : Nat) (s : State) : Out :=
  .next (s.inject (s.collDie comm step) 1 62 (2 ^ 64 + step) (fun t => t.colls != s.colls) (fun s => s.collReduce comm step))
def execCollectiveChildPartial (comm step rank : Nat) (vals : List Word) (bad : List Nat) (s : State) : Out :=
  .next (s.inject (s.collDie comm step) 1 62 (2 ^ 64 + step) (fun t => t.colls != s.colls) (fun s => s.collChild comm step rank vals bad))
def execCollectiveResult (comm step : Nat) (vals : List Word) (bad : List Nat) (s : State) : Out :=
  .next (s.inject (s.collDie comm step) 1 62 (2 ^ 64 + step) (fun t => t.colls != s.colls) (fun s => s.collResult comm step vals bad))
def execCollectiveCancel (comm step : Nat) (s : State) : Out :=
  .next (s.inject (s.collDie comm step) 1 62 (2 ^ 64 + step) (fun t => t.colls != s.colls) (fun s => s.collCancel comm step))

end Sys2Proof.Machine
end

