-- ==== Sys2Proof/Machine/Links.lean ====
section
/-! DEFINITION. The external links and the die-to-die ports (R183, R185, R187, R188). -/

namespace Sys2Proof.Machine

namespace State

/-- A link enters a state; training and retraining begin with no failure counted. -/
def setLink (s : State) (l : LinkId) (x : LinkState) : State :=
  match linkKey l with
  | some k => { s with links := s.links.set k x, linkTries := s.linkTries.set k { since := if atWork x then s.now else 0 } }
  | none => s

/-- How far the training of a link has come. -/
def linkTry (s : State) (l : LinkId) : LinkTry :=
  match linkKey l with
  | some k => s.linkTries.get k
  | none => {}

/-- Training has failed three times, or has run for 10 ms (R187). -/
def triedOut (s : State) (l : LinkId) : Bool := 3 ≤ (s.linkTry l).failures || (s.linkTry l).since + 10000000 ≤ s.now

/-- LINK_ENABLE: DISABLED or DOWN to TRAINING. -/
def enable (s : State) (l : LinkId) : State :=
  if (linkKey l).isSome ∧ (s.linkState l = .disabled ∨ s.linkState l = .down) then s.setLink l .training else s

/-- LINK_TRAINED: at full width UP, at reduced width DEGRADED with its record; not after a request for an unsupported option, which
leaves the link in TRAINING (R185). -/
def trained (s : State) (l : LinkId) (wide : Bool) : State :=
  if s.linkState l ≠ .training ∨ (s.linkTry l).refused ∨ s.triedOut l then s
  else if wide then s.setLink l .up
  else (s.setLink l .degraded).linkRecord l 0x0505 0 1 none

/-- LINK_ERROR_THRESHOLD. -/
def overThreshold (s : State) (l : LinkId) : State :=
  if s.linkState l = .up ∨ s.linkState l = .degraded then
    let s1 := s.setLink l .retraining
    if isD2d l then s1.linkRecord l 0x0503 1 1 none else s1
  else s

/-- LINK_RETRAIN_DONE. -/
def retrained (s : State) (l : LinkId) (wide : Bool) : State :=
  if s.linkState l = .retraining ∧ !s.triedOut l then s.setLink l (if wide then .up else .degraded) else s

/-- The peer asks for an option that is not supported: it is refused (R185). -/
def refuseOption (s : State) (l : LinkId) : State :=
  match linkKey l with
  | some k => if s.linkState l = .training then { s with linkTries := s.linkTries.modify k (fun x => { x with refused := true }) } else s
  | none => s

/-! A link is DOWN or DISABLED: what it holds (R188). -/

/-- Traffic of a die to an address goes over a die-to-die port. -/
def goesOver (s : State) (l : LinkId) (die pa : Nat) : Bool := (portPair die (s.homeDie die pa) (s.stopOf die pa)).contains l

/-- A part of a load or of an atomic is on its way to its home: its turn has come, and neither its thread's stores nor L1 serve it. -/
def asksHome (s : State) (id : Nat) (a : Access) (p : Piece) (pa : Nat) : Bool :=
  s.inTurn a.thr id p && !s.sentBefore a.core (pa / 256) s.nextId &&
  (if a.op = .load then
    s.ownStores a.thr id p == .nothing && !(s.levelOf a p == .l1 && (wordsOf pa p.len).all (fun w => (s.l1Word a.core w).valid))
  else !s.ownPending a.thr id p)

/-- A part of an access that is on its way over the port. -/
def heldPiece (s : State) (l : LinkId) (id : Nat) (a : Access) (p : Piece) : Bool :=
  match p.pa, p.st with
  | some pa, .sent _ => s.goesOver l (coreDie a.core) pa && s.goesHome p
  | some pa, .queued => !a.op.isStore && s.goesOver l (coreDie a.core) pa && s.asksHome id a p pa
  | _, _ => false

/-- The addresses of the stores and registrations that the port holds, in order. -/
def heldStores (s : State) (l : LinkId) : List Nat :=
  s.accs.cells.flatMap (fun e => match e.2 with
    | some a => if a.op.isStore then (a.pieces.filter (s.heldPiece l e.1 a)).filterMap Piece.pa else []
    | none => []) ++
  s.regns.cells.flatMap (fun e => match e.2 with
    | some r => if s.goesOver l (coreDie r.core) (256 * r.block) then [4 * r.words.headD (64 * r.block)] else []
    | none => [])

/-- What the port holds ends: a load with poison, a store without effect, a registration with its words. -/
def cutTraffic (s : State) (l : LinkId) : State :=
  let lostRegn (r : Regn) : Bool := s.goesOver l (coreDie r.core) (256 * r.block)
  let gone : List Regn := s.regns.cells.filterMap (fun e => match e.2 with | some r => if lostRegn r then some r else none | none => none)
  let covered (id i : Nat) : Bool := gone.any (fun r => r.covers.contains (id, i))
  let s1 := gone.foldl (fun s r => r.words.foldl (fun s w => s.setL1 r.core w {}) s) s
  { s1 with
    accs := s1.accs.mapCells (fun id o => o.map (fun a => { a with pieces := a.pieces.mapIdx (fun i p =>
      if s.heldPiece l id a p then { p with st := .done, poisoned := a.op.isLoad || p.poisoned }
      else if covered id i then { p with st := .done } else p) }))
    regns := s1.regns.drop (fun _ o => match o with | some r => lostRegn r | none => false) }

/-- A link goes DOWN or DISABLED: LINK_DOWN carries the address of each store that it held. -/
def cutLink (s : State) (l : LinkId) (action : Nat) : State :=
  let s1 := (s.heldStores l).foldl (fun s pa => s.linkRecord l 0x0504 2 action (some pa)) s
  (s1.cutTraffic l).collCut l

/-- All die-to-die ports of a compute die are DOWN: it has failed (R224). -/
def isolated (s : State) (die : Nat) : Bool := (List.range 8).all (fun n => s.linkState (.dieToDie die n) == .down)

/-- LINK_FAIL: three failures or 10 ms; a die-to-die port takes its partition to DEGRADED (R188, R199). -/
def linkFails (s : State) (l : LinkId) : State :=
  if atWork (s.linkState l) ∧ s.triedOut l then
    let act := if isD2d l then 7 else 1
    let s0 := s.setLink l .down
    let s1 := (if (s.heldStores l).isEmpty then s0.linkRecord l 0x0504 2 act none else s0).cutLink l act
    match l with
    | .dieToDie d _ => if 4 ≤ d then s1 else if s1.isolated d then s1.dieFails d else s1.degrade (s1.partOf d)
    | _ => s1
  else s

/-- A try of training fails; the third takes the link DOWN (R187). -/
def tryFails (s : State) (l : LinkId) : State :=
  match linkKey l with
  | some k =>
    if atWork (s.linkState l) then
      { s with linkTries := s.linkTries.modify k (fun x => { x with failures := x.failures + 1 }) }.linkFails l
    else s
  | none => s

/-- LINK_DISABLE. -/
def disable (s : State) (l : LinkId) : State := if (linkKey l).isSome then (s.setLink l .disabled).cutLink l 1 else s

/-- A post sent over a link that is now DOWN or DISABLED, and unacknowledged; the link. -/
def deadLink (s : State) (p : Post) : Option LinkId :=
  if p.peer || !p.stage.onWay then none
  else if p.remote ∧ cutOff (s.postLink p) then some (.uaLink (Config.postPort p.station % 16))
  else (postPorts p).find? (fun l => cutOff (s.portState l))

/-- POST_LOST_TIMEOUT: a post unacknowledged for 100 µs on a link that is DOWN or DISABLED: it counts as performed, and the sender's
group traps NOTARGET (R188). -/
def postLost (s : State) (id : Nat) : State :=
  match s.posts.get id with
  | none => s
  | some p =>
    match s.deadLink p with
    | none => s
    | some l =>
      if s.now < p.sentAt + 100000 then s
      else
        let s1 := s.linkRecord l 0x0507 2 3 none
        let s2 := { (s1.modThr p.thr (fun x => x.flagDown p.flag)) with posts := s1.posts.set id none }
        let s3 := (s2.wakeCtx (keyCtx p.thr)).settleSlot p.thr
        s3.trapLate p.thr p.pc (trapOf .notarget) p.batch

end State

def execLinkEnable (l : LinkId) (s : State) : Out := .next (s.enable l)
def execLinkTrained (l : LinkId) (wide : Bool) (s : State) : Out := .next (s.trained l wide)
def execLinkErrorThreshold (l : LinkId) (s : State) : Out := .next (s.overThreshold l)
def execLinkRetrainDone (l : LinkId) (wide : Bool) (s : State) : Out := .next (s.retrained l wide)
def execLinkFail (l : LinkId) (s : State) : Out := .next (s.thenReconf (fun s => s.linkFails l))
def execLinkDisable (l : LinkId) (s : State) : Out := .next (s.disable l)
def execPostLostTimeout (idx : Nat) (s : State) : Out := .next (s.postLost idx)

end Sys2Proof.Machine
end

