-- ==== Sys2Proof/Machine/Peers.lean ====
section
/-! DEFINITION. What reaches the module's memory over the external links (R69, R100, R144, R185): reads, writes and atomics of peers
over UALink, and the DMA of PCI Express devices through the I/O tables; and the communicators that the Ringmaster configures (R191). -/

namespace Sys2Proof.Machine

namespace State

/-- The die-to-die ports between the hub die and the home of an address, and their states (R183). -/
def hubPorts (s : State) (pa : Nat) : List LinkState :=
  let d := pa / 0x3000000000
  (portPair 4 (s.homeDie d pa) (s.stopOf d pa)).map s.portState

/-- The traffic of the hub die with some bytes waits for a port that retrains (R183), or is cut off from a home by its die's failure or by
a port that is DOWN (R188, R224). -/
def hubCut (s : State) (pa n : Nat) : Bool :=
  (wordsOf pa n).any (fun w => (s.die (s.homeDie (4 * w / 0x3000000000) (4 * w))).failed || (s.hubPorts (4 * w)).any cutOff)
def hubWaits (s : State) (pa n : Nat) : Bool := !s.hubCut pa n && (wordsOf pa n).any (fun w => (s.hubPorts (4 * w)).any atWork)

/-- Bytes at their homes as an agent of the hub die reads them at .sys: their owners forward first (R100, R104); a home that is lost
gives poison. -/
def hubRead (s : State) (pa n : Nat) : State × List Byte × Bool :=
  if s.hubCut pa n then (s, s.homeLoad pa n, true)
  else
    let r := s.homeRead pa n
    (r.1, r.2, s.poisonedAt pa n)

/-- A store at the home by an agent of the hub die, captured where it is watched (R144); none while a settle holds it (R146). -/
def hubWrite (s : State) (pa : Nat) (bs : List Byte) : Option State :=
  if s.captureHeld (wordsOf pa bs.length) then none
  else if s.hubCut pa bs.length then some s
  else some (s.homeStore pa bs)

/-- A peer reads n bytes over UALink. -/
def peerRead (s : State) (port pa n : Nat) : State :=
  if !s.inService (.uaLink port) ∨ s.hubWaits pa n then s
  else if memTop < pa + n then s.send .unreachable
  else
    let r := s.hubRead pa n
    r.1.send (.data r.2.1 r.2.2)

/-- A link over which peers write (R69, R185). -/
def peerLink : LinkId → Bool
  | .uaLink _ | .ultraEthernet _ => true
  | _ => false

/-- A peer writes bytes over UALink or Ultra Ethernet: the entries of a peer command queue's ring among them (R69). -/
def peerWrite (s : State) (l : LinkId) (pa : Nat) (bs : List Byte) : State :=
  if !peerLink l ∨ !s.inService l ∨ s.hubWaits pa bs.length then s
  else if memTop < pa + bs.length then s.send .unreachable
  else match s.hubWrite pa bs with
    | some s1 => s1.send .written
    | none => s

/-- A peer performs an atomic on a word over UALink: an operation of ATOM, or an exchange where the word equals a value. -/
def peerAtomic (s : State) (port pa : Nat) (op : Nat) (y : Word) (cmp : Option Word) : State :=
  let kind : AccOp := match cmp with | some c => .cas c y | none => .rmw op y
  if !s.inService (.uaLink port) ∨ pa % 4 ≠ 0 ∨ s.hubWaits pa 4 then s
  else if memTop < pa + 4 then s.send .unreachable
  else
    let r := s.hubRead pa 4
    if r.2.2 then r.1.send (.data r.2.1 true)
    else match kind.writes (wordOf r.2.1) with
      | none => r.1.send (.data r.2.1 false)
      | some v => match r.1.hubWrite pa (leBytes 4 v.toNat) with
        | some s1 => s1.send (.data r.2.1 false)
        | none => s

/-! DMA (R185). -/

/-- The Ringmaster writes the root of a root port's I/O tables. -/
def writeIoRoot (s : State) (port : Nat) (table : Option Nat) : State :=
  if 4 ≤ port then s else { s with ioRoots := s.ioRoots.set port (table.elim 0 (· + 1)) }

/-- A device's address through the Sv57 I/O tables of its root port. -/
def ioTranslate (s : State) (port iova : Nat) (n : Need) : Except XFault (State × Nat) :=
  match s.walkRoot (s.ioRoots.get port) none 0 iova n with
  | .error f => .error f
  | .ok (s1, e) => .ok (s1, TlbEntry.at e iova)

/-- What a walk of a root port's tables that fails leaves (R133). -/
def ioDenied (s : State) (port iova : Nat) (f : XFault) : State := s.deniedRoot (s.ioRoots.get port) none iova f

/-- A device reads n bytes upward; what a walk leaves where one of them does not translate; none while a port retrains. -/
def dmaBytes (s : State) (port iova : Nat) : Nat → Option (Except State (State × List Byte × Bool))
  | 0 => some (.ok (s, [], false))
  | n + 1 =>
    match s.ioTranslate port iova .read with
    | .error f => some (.error (s.ioDenied port iova f))
    | .ok (s1, pa) =>
      if s1.hubWaits pa 1 then none
      else
        let r := s1.hubRead pa 1
        match dmaBytes r.1 port (iova + 1) n with
        | some (.ok (s2, bs, bad)) => some (.ok (s2, r.2.1 ++ bs, r.2.2 || bad))
        | x => x

def dmaRead (s : State) (port iova n : Nat) : State :=
  if !s.inService (.pciExpress port) then s
  else match s.dmaBytes port iova n with
    | some (.ok (s1, bs, bad)) => s1.send (.data bs bad)
    | some (.error s1) => s1.send .unreachable
    | none => s

/-- A device writes bytes upward, and whether all are written: what stands before one that does not translate is; none while a settle
holds one of them (R146), or a port retrains. -/
def dmaStore (s : State) (port : Nat) : Nat → List Byte → Option (State × Bool)
  | _, [] => some (s, true)
  | iova, b :: r =>
    match s.ioTranslate port iova .write with
    | .error f => some (s.ioDenied port iova f, false)
    | .ok (s1, pa) =>
      if s1.hubWaits pa 1 then none
      else (s1.hubWrite pa [b]).bind (fun s2 => dmaStore s2 port (iova + 1) r)

def dmaWrite (s : State) (port iova : Nat) (bs : List Byte) : State :=
  if !s.inService (.pciExpress port) then s
  else match s.dmaStore port iova bs with
    | some (s1, ok) => s1.send (if ok then .written else .unreachable)
    | none => s

/-- The Ringmaster configures a communicator, or takes it away (R191): its modules by rank, this module's rank, and the links that
lead to them. -/
def writeComm (s : State) (comm : Nat) (members : List PeerAddr) (rank : Nat) (links : List LinkId) : State :=
  if 1024 ≤ comm ∨ (!members.isEmpty ∧ members.length ≤ rank) then s
  else { s with comms := s.comms.set comm (if members.isEmpty then {}
      else { configured := true, ranks := members.length, rank := rank, links := links, members := members }) }

end State

end Sys2Proof.Machine
end

