-- ==== Sys2Proof/Machine/Logger.lean ====
section
/-! DEFINITION. Error records, scrub, wear, power and cooling (15), the park window (R207) and the control registers without a
chapter of their own (R7, R91, R98, R107, R215). -/

namespace Sys2Proof.Machine

namespace State

/-! The error record queue. -/

/-- ERQ_CFG_WRITE (R215); the records from before a device reset go into partition 0's queue once it is open (R223). -/
def writeErqCfg (s : State) (p : Nat) (v : DWord) : State :=
  let cap := cut v.toNat 0 5
  let base := cut v.toNat 12 28
  if (s.diesOf p).isEmpty ∨ cap < 6 ∨ 20 < cap ∨ base * 4096 % 2 ^ (cap + 6) ≠ 0 then s
  else
    let s1 := s.modPart p (fun x => { x with erq := { x.erq with base := base, log2cap := cap } })
    (if p = 0 then
      (s1.rm.prior.foldl (fun s e => s.queueTo 0 { e with prior := true }) s1).setRm (fun r => { r with prior := [] })
    else s1).bootEnds

/-- ERQ_CFG as a read returns it, and ERQ_PTR (R215). -/
def erqCfgWord (s : State) (p : Nat) : DWord :=
  let q := (s.part p).erq
  BitVec.ofNat 64 (q.lost * 2 ^ 48 + q.base * 2 ^ 12 + q.log2cap)
def erqPtrWord (s : State) (p : Nat) : DWord := DWord.join (s.part p).erq.tail (s.part p).erq.head

/-- ERQ_CFG_READ clears LOST. -/
def readErqCfg (s : State) (p : Nat) : State := s.modPart p (fun x => { x with erq := { x.erq with lost := 0 } })

/-- CE_FOLD_FLUSH (R218): 1 ms has passed since the first occurrence. -/
def flushPending (s : State) (k : Nat) : State :=
  match s.pending.get k with
  | some p => if p.due ≤ s.now then (s.emit p.err).setPending k none else s
  | none => s

/-! Soft errors (R220). -/

/-- The engine class, the instance and the partition of an SRAM's records (R214), and its physical address where it has one. -/
def sramUnit (s : State) (at_ : SramAt) : Nat × Nat × Nat × Option Nat :=
  let core (c : Nat) (pa : Option Nat) : Nat × Nat × Nat × Option Nat := (0, c, s.partOf (coreDie c), pa)
  let die (e n d : Nat) (pa : Option Nat) : Nat × Nat × Nat × Option Nat := (e, n, s.partOf d, pa)
  match at_ with
  | .l1 c w => core c (some (4 * w))
  | .icache c => core c none
  | .l2 d k line => die 9 (d * 32 + k / 2048 % 32) d (some (line * 128))
  | .coreTlb c _ => die 8 (coreDie c) (coreDie c) none
  | .dieTlb d _ => die 8 d d none
  | .walkerTlb cl _ => die 8 (cl / 7) (cl / 7) none
  | .loc (.lane n) => core (s.ctx (n / 262144)).core none
  | .loc (.pad n) => core (s.ctx (n / 2 ^ 20)).core none
  | .loc (.clus n) => core (8 * (n / 2 ^ 21) + n / 256 % 8) none
  | .loc (.dsp n) => die 9 (n / 2 ^ 25 * 32 + n / 256 % 32) (n / 2 ^ 25) none
  | .loc _ => core 0 none
  | .tile c _ _ => let k := (s.ctx c).core; (4, k, s.partOf (coreDie k), none)
  | .log id => core ((s.accs.get id).elim 0 Access.core) none
  | .reg t _ => core (s.coreOf t) none
  | .node d _ => die 6 d d none

def sramRecord (s : State) (code sev action : Nat) (at_ : SramAt) : State :=
  let u := s.sramUnit at_
  s.log { code := code, sev := sev, action := action, eclass := u.1, einst := u.2.1, part := u.2.2.1, pa := u.2.2.2 }

/-- What the bits that failed held is a clean copy, which is fetched again (R219): the state without it.  None where the failed bits
are the only copy. -/
def refetched (s : State) (at_ : SramAt) : Option State :=
  match at_ with
  | .l1 c w => if (s.l1Word c w).reg then none else some { s with l1 := s.l1.set (l1Key c w) {} }
  | .icache _ => some s
  | .l2 d k line =>
    match ((s.die d).l2.get k).find? (fun x => x.line == line) with
    | some x => if x.dirty then none else some (s.burst (line * 128) 2)
    | none => some s
  | .coreTlb c n => some (s.modCore c (fun k => { k with tlb := k.tlb.eraseIdx n }))
  | .dieTlb d n => some (s.modDie d (fun k => { k with tlb := k.tlb.eraseIdx n }))
  | .walkerTlb cl n => some { s with walkers := s.walkers.modify cl (fun l => l.eraseIdx n) }
  | .loc _ | .tile _ _ _ | .log _ | .reg _ _ | .node _ _ => none

/-- What was the only copy is poisoned: a registered word and a dirty line at their home, a local word, a tile's element, an entry
of the operand log; a node is lost when the prefix engine meets it (R180). -/
def sramPoison (s : State) (at_ : SramAt) : State :=
  match at_ with
  | .l1 c w =>
    if s.ownerOf w = some c then { (s.forward w) with poison := (s.forward w).poison.set w true, l1 := (s.forward w).l1.set (l1Key c w) {} }
    else { s with regns := s.regns.mapCells (fun _ o => o.map (fun (r : Regn) =>
      if r.core = c ∧ r.words.contains w then { r with bad := true } else r)) }
  | .l2 _ _ line => ((List.range 32).map (· + line * 32)).foldl (fun s w =>
      if (s.ownerOf w).isSome then s else { s with poison := s.poison.set w true }) s
  | .loc pl => { s with lpoison := s.lpoison.set (localByte pl / 4) true }
  | .tile c n e => s.modCtx c (fun x => { x with tiles := x.tiles.modify n (fun t => { t with bad := t.bad.set e true }) })
  | .log id => { s with accs := s.accs.modify id (fun o => o.map (fun a => { a with pieces := a.pieces.map (fun p => { p with poisoned := true }) })) }
  | .node d n => s.nodeFails (s.partOf d) n
  | _ => s

/-- REG_UE (R219, R220): an uncorrectable error in a register, its full bit or a flag of a thread. -/
def regFails (s : State) (t : Nat) (r : RegName) : State :=
  let x := s.thr t
  let core := s.coreOf t
  if x.run = .free ∨ r = .g 0 ∨ r = .p 0 then s
  else (s.modThr t (fun x => { x with lost := r :: x.clearLost r })).log
    { code := 0x0107, sev := 2, action := 2, eclass := 0, part := s.partOf (coreDie core), einst := core, ctx := keyCtx t,
      slot := keySlot t, gnum := (s.group x.group).gnum.toNat, pc := x.pc.toNat, thread := true }

/-- An uncorrectable error: REG_UE of a register file, SRAM_UE of any other (R219, R220). -/
def sramFails (s : State) (at_ : SramAt) : State :=
  match at_ with
  | .reg t r => s.regFails t r
  | _ => match s.refetched at_ with
    | some t => t.sramRecord 0x0106 2 1 at_
    | none => (s.sramPoison at_).sramRecord 0x0106 2 4 at_

/-! Scrub, wear, power. -/

/-- A record of an HBM controller for a line (R214). -/
def hbmRecord (s : State) (pa code sev action detail : Nat) : State :=
  s.log { code := code, sev := sev, action := action, eclass := 10, part := s.partOf (pa / 0x3000000000), einst := pa / stackBytes,
          pa := some pa, detail := detail }

/-- 24 hours in ns. -/
def dayNs : Nat := 86400000000000

/-- A correction in a row counts; the sixteenth within any 24 h spares the row (R220), and left spare rows are left in the bank. -/
def countRow (s : State) (pa left : Nat) : State :=
  let row := Config.hbmRow pa
  let recent := (s.rows.get row).filter (fun t => s.now < t + dayNs) ++ [s.now]
  if 16 ≤ recent.length then
    (({ s with rows := s.rows.set row [] }).hbmRecord pa 0x0104 1 1 left).bankUsed (pa / 0x3000000000) left
  else { s with rows := s.rows.set row recent }

/-- PATROL_SCRUB (R220, R221): a line is clean, corrected in place, or uncorrectable: the words whose value it holds are poisoned. -/
def patrol (s : State) (pa : Nat) (fate : ScrubFate) (left : Nat) : State :=
  let line := pa / 128 * 128
  if memTop ≤ pa then s
  else match fate with
    | .clean => s
    | .corrected => (s.hbmRecord line 0x0101 1 1 0).countRow line left
    | .uncorrectable =>
      ((List.range 32).map (· + line / 4)).foldl (fun s w =>
        if (s.ownerOf w).isSome then s else { s with poison := s.poison.set w true }) (s.hbmRecord line 0x0102 2 4 0)

/-- RSTC_WRITE (R222): bits [10:0] are write-one-to-clear. -/
def writeRstc (s : State) (v : DWord) : State :=
  s.setRm (fun r => { r with rstc := r.rstc &&& ~~~(BitVec.ofNat 20 (v.toNat % 2 ^ 11)) })

/-- WEAR_UPDATE (R225): a warning when HOURS first falls below 8,760, again each time it halves, and for a bank that has been found
without a spare row. -/
def updateWear (s : State) (die : Nat) (hours : Word) (bankSpent : Bool) : State :=
  if 5 ≤ die then s
  else
    let d := s.die die
    let due := hours.toNat < d.wearMark.toNat
    let s1 := s.modDie die (fun d => { d with wear := hours, wearMark := if due then BitVec.ofNat 32 (hours.toNat / 2 + 1) else d.wearMark })
    let s2 := if due then s1.powerRecord die 0x0704 0 7 hours.toNat else s1
    if bankSpent then s2.powerRecord die 0x0704 0 7 hours.toNat else s2

/-- THERMAL_WARN (R226): the first step down. -/
def thermalFirst (s : State) (die : Nat) : State :=
  if 4 ≤ die ∨ (s.die die).slow ≠ 0 then s
  else (s.modDie die (fun d => { d with slow := 1, slowAt := s.now })).powerRecord die 0x0701 1 8 0

/-- THROTTLE_STEP (R226): one step of 218.75 MHz per ms, down to 875 MHz, or back up. -/
def throttle (s : State) (die : Nat) (cool : Bool) : State :=
  let d := s.die die
  if 4 ≤ die ∨ d.slow = 0 ∨ s.now < d.slowAt + 1000000 then s
  else s.modDie die (fun d => { d with slow := if cool then d.slow - 1 else min 4 (d.slow + 1), slowAt := s.now })

/-- THERMAL_TRIP (R226): the record, and the device resets. -/
def thermalTrips (s : State) (die : Nat) (b : BootRecord) : State := (s.powerRecord die 0x0702 4 8 0).deviceReset .thermal b

/-- VDROOP (R219). -/
def droop (s : State) (die : Nat) : State :=
  if 5 ≤ die then s
  else (s.modDie die (fun d => { d with stretched := d.stretched + 1 })).powerRecord die 0x0703 1 1 0

/-! The park window (R84, R207). -/

/-- The context that the park window shows. -/
def parkCtx (s : State) (core : Nat) : Nat :=
  let k := s.core core
  k.ctxIn (if k.parkBank then k.shadowBank else k.activeBank)

/-- PARK_WINDOW_WRITE: 8 bytes at an offset of a slot's record; it lands only when the slot is STOPPED.  SKID and LOGF keep
their values; a thread that is moved to another instruction waits for no barrier there. -/
def parkWrite (s : State) (core slot off : Nat) (v : DWord) : State :=
  let c := s.parkCtx core
  let t := threadKey c slot
  let x := s.thr t
  if 224 ≤ core ∨ 1024 ≤ slot ∨ off % 8 ≠ 0 ∨ 1152 ≤ off then s
  else if c = 0 ∨ x.run ≠ .stopped then s.modCore core (fun k => { k with parkWerr := true })
  else
    s.parkBytes t off (leBytes 8 v.toNat)

/-- PARK_CTL_WRITE: BANK is written, WERR is write-one-to-clear. -/
def writeParkCtl (s : State) (core : Nat) (v : DWord) : State :=
  s.modCore core (fun k => { k with parkBank := v.getLsbD 0, parkWerr := k.parkWerr && !v.getLsbD 1 })

/-! Other registers. -/

/-- DSP_WIN_WRITE (R98). -/
def writeDspWin (s : State) (die tenant : Nat) (v : DWord) : State :=
  let len := cut v.toNat 32 10
  let base := cut v.toNat 0 9
  if 4 ≤ die ∨ 64 ≤ tenant ∨ 512 < base + len then s
  else s.modDie die (fun d => { d with winLen := d.winLen.set tenant len, winBase := d.winBase.set tenant base })

/-- REGISTER_WRITE: TRAP_DELEG (R91), L2_TQ (R107), ERQ_PTR (R215); read-only fields keep their values (R7). -/
def writeReg (s : State) (r : CtlReg) (v : DWord) : State :=
  match r with
  | .trapDeleg t => if 64 ≤ t then s else s.modTenant t (fun x => { x with deleg := v.lo })
  | .l2Target d t => if 4 ≤ d ∨ 64 ≤ t then s else s.modDie d (fun x => { x with tqTarget := x.tqTarget.set t (cut v.toNat 0 21) })
  | .erqPtr p => if (s.diesOf p).isEmpty then s else s.modPart p (fun x => { x with erq := { x.erq with head := v.hi } })

end State

def execErqCfgWrite (part : Nat) (v : DWord) (s : State) : Out := .next (s.writeErqCfg part v)
def execErqCfgRead (part : Nat) (s : State) : Out := .next (s.readErqCfg part)
def execCeFoldFlush (idx : Nat) (s : State) : Out := .next (s.flushPending idx)
def execPatrolScrub (pa : Nat) (fate : ScrubFate) (left : Nat) (s : State) : Out := .next (s.patrol pa fate left)
def execRstcWrite (v : DWord) (s : State) : Out := .next (s.writeRstc v)
def execWearUpdate (die : Nat) (hours : Word) (bankSpent : Bool) (s : State) : Out := .next (s.updateWear die hours bankSpent)
def execThermalWarn (die : Nat) (s : State) : Out := .next (s.thermalFirst die)
def execThrottleStep (die : Nat) (cool : Bool) (s : State) : Out := .next (s.throttle die cool)
def execThermalTrip (die : Nat) (boot : BootRecord) (s : State) : Out := .next (s.thermalTrips die boot)
def execVdroop (die : Nat) (s : State) : Out := .next (s.droop die)
def execBrownout (boot : BootRecord) (s : State) : Out := .next (s.deviceReset .brownout boot)
def execParkWindowWrite (core slot off : Nat) (v : DWord) (s : State) : Out := .next (s.parkWrite core slot off v)
def execParkCtlWrite (core : Nat) (v : DWord) (s : State) : Out := .next (s.writeParkCtl core v)
def execDspWinWrite (die tenant : Nat) (v : DWord) (s : State) : Out := .next (s.writeDspWin die tenant v)
def execRegisterWrite (r : CtlReg) (v : DWord) (s : State) : Out := .next (s.writeReg r v)

end Sys2Proof.Machine
end

