-- ==== Sys2Proof/Machine/Packed.lean ====
section
/-! DEFINITION. The packed instructions (R319–R324): each checks the tags of its sources, works element by element, writes
a register in its tag with unused bits zero, and sets FSTAT where it rounds. -/

namespace Sys2Proof.Machine

/-- Every named register carries a tag that a test accepts, and all the same one (R320). -/
def sameTag (ws : List (BitVec 4)) (ok : Nat → Bool) (x : Thread) : Option TrapInfo :=
  let tags := ws.map (fun n => (x.rdW n.toNat).tag.toNat)
  if tags.all ok && tags.all (fun t => t == tags.headD 0) then none else some (trapOf .format)

/-- F32, F16, BF16 and I32. -/
def arithTag (t : Nat) : Bool := (1 ≤ t && t ≤ 3) || t == 0x0C

/-- A register and FSTAT bits are written. -/
def putW (s : State) (t : Nat) (d : BitVec 4) (r : WReg) (fl : BitVec 5) : TRes :=
  .done (s.modThr t (fun x => (x.raise fl).wrW d.toNat r.clean)) none

/-- The FSTAT bits of several results. -/
def allFlags (rs : List Res) : BitVec 5 := rs.foldl (fun f r => f ||| r.2) 0

/-- The elements of a register of n results in an unscaled tag. -/
def putElems (s : State) (t : Nat) (d : BitVec 4) (tag : Nat) (rs : List Res) : TRes :=
  putW s t d (regOf tag (rs.map Prod.fst)) (allFlags rs)

/-- An element operation on two registers of one tag: the float operation in the tag's format, or the I32 one. -/
def zip2 (i : Instr) (d a b : BitVec 4) (f : Fmt → RMode → Nat → Nat → Res) (g : Word → Word → Word) (s : State) : Out :=
  s.run i false (fun s t => s.operands t [] [a.toNat, b.toNat] none (sameTag [a, b] arithTag) (fun s _ =>
    let x := s.thr t
    let u := x.rdW a.toNat
    let v := x.rdW b.toNat
    putElems s t d u.tag.toNat ((List.range (regElems u)).map (fun e =>
      match tagFmt u.tag.toNat with
      | some fm => f fm x.mode (regBits u e) (regBits v e)
      | none => ((g (BitVec.ofNat 32 (regBits u e)) (BitVec.ofNat 32 (regBits v e))).toNat, 0)))))

def execWadd (d a b : BitVec 4) (s : State) : Out := zip2 (.wadd d a b) d a b fmtAdd (· + ·) s
def execWsub (d a b : BitVec 4) (s : State) : Out := zip2 (.wsub d a b) d a b fmtSub (· - ·) s
def execWmul (d a b : BitVec 4) (s : State) : Out := zip2 (.wmul d a b) d a b fmtMul (· * ·) s
def execWmax (d a b : BitVec 4) (s : State) : Out :=
  zip2 (.wmax d a b) d a b (fun f _ => fmtMinMax f true) (fun x y => if x.toInt ≤ y.toInt then y else x) s
def execWmin (d a b : BitVec 4) (s : State) : Out :=
  zip2 (.wmin d a b) d a b (fun f _ => fmtMinMax f false) (fun x y => if x.toInt ≤ y.toInt then x else y) s

/-- WFMA (R320): the old destination is the addend. -/
def execWfma (d a b : BitVec 4) (s : State) : Out :=
  s.run (.wfma d a b) false (fun s t =>
    s.operands t [] [a.toNat, b.toNat, d.toNat] none (sameTag [a, b, d] arithTag) (fun s _ =>
      let x := s.thr t
      let u := x.rdW a.toNat
      let v := x.rdW b.toNat
      let z := x.rdW d.toNat
      putElems s t d u.tag.toNat ((List.range (regElems u)).map (fun e =>
        match tagFmt u.tag.toNat with
        | some f => fmtFma f x.mode (regBits u e) (regBits v e) (regBits z e)
        | none => ((BitVec.ofNat 32 (regBits u e) * BitVec.ofNat 32 (regBits v e) +
                    BitVec.ofNat 32 (regBits z e)).toNat, 0)))))

/-- The tags that WDOT accepts in a and b (R321). -/
def dotTag (t : Nat) : Bool := (2 ≤ t && t ≤ 0x0B) || (0x10 ≤ t && t ≤ 0x16)

def dotFormat (d a b : BitVec 4) (x : Thread) : Option TrapInfo :=
  let u := x.rdW a.toNat
  let v := x.rdW b.toNat
  if dotTag u.tag.toNat && dotTag v.tag.toNat && regElems u == regElems v && (x.rdW d.toNat).tag.toNat == 1 then none
  else some (trapOf .format)

/-- One lane of WDOT (R321): the exact sum, rounded once. -/
def dotLane (z : Nat) (ps : List (Val × Val)) : Res :=
  let c := f32.decode z
  let sum := ps.foldl (fun (v : Val) p => v.add .rne (p.1.mul p.2)) c
  let r := fmtDone f32 .rne (c :: ps.flatMap (fun p => [p.1, p.2])) sum
  (r.1, if ps.any (fun p => badProduct p.1 p.2) then r.2 ||| fINV else r.2)

/-- WDOT (R321). -/
def execWdot (d a b : BitVec 4) (s : State) : Out :=
  s.run (.wdot d a b) false (fun s t =>
    s.operands t [] [a.toNat, b.toNat, d.toNat] none (dotFormat d a b) (fun s _ =>
      let x := s.thr t
      let u := x.rdW a.toNat
      let v := x.rdW b.toNat
      let z := x.rdW d.toNat
      let g := regElems u / 8
      putElems s t d 1 ((List.range 8).map (fun k =>
        dotLane (regBits z k) ((List.range g).map (fun j => (regVal u (g * k + j), regVal v (g * k + j))))))))

/-- The fixed tree of WRED (R324), its FSTAT bits gathered. -/
def tree8 (f : Nat → Nat → Res) : List Nat → Res
  | [e0, e1, e2, e3, e4, e5, e6, e7] =>
    let a := f e0 e1; let b := f e2 e3; let c := f e4 e5; let d := f e6 e7
    let l := f a.1 b.1; let r := f c.1 d.1
    let z := f l.1 r.1
    (z.1, allFlags [a, b, c, d, l, r, z])
  | _ => (0, 0)

/-- The I32 operation of WRED. -/
def redInt (m : Nat) (x y : Word) : Word :=
  if m = 0 then x + y else if m = 1 then (if x.toInt ≤ y.toInt then y else x) else (if x.toInt ≤ y.toInt then x else y)

/-- WRED (R324): 0 add, 1 max, 2 min. -/
def execWred (d : BitVec 6) (a : BitVec 4) (m : BitVec 3) (s : State) : Out :=
  s.run (.wred d a m) false (fun s t =>
    s.operands t [] [a.toNat] (some d.toNat) (sameTag [a] (fun t => t == 1 || t == 0x0C)) (fun s _ =>
      let x := s.thr t
      let u := x.rdW a.toNat
      let es := (List.range 8).map (regBits u)
      let r := if u.tag.toNat = 1 then
          tree8 (if m.toNat = 0 then fadd x.mode else fminmax (m.toNat == 1)) es
        else tree8 (fun p q => ((redInt m.toNat (BitVec.ofNat 32 p) (BitVec.ofNat 32 q)).toNat, 0)) es
      .done ((s.modThr t (fun x => x.raise r.2)).wr t d.toNat (BitVec.ofNat 32 r.1)) none))

/-- The source tags of WCVT for a target (R322). -/
def cvtSource (target source : Nat) : Bool :=
  if target = 1 then (2 ≤ source && source ≤ 6) || (0x0A ≤ source && source ≤ 0x0C) else source == 1

/-- One element of WCVT (R322, R238). -/
def cvtElem (target source : Nat) (mode : RMode) (sr : Option Nat) (sat : Bool) (bits : Nat) : Res :=
  let v := elemExact source bits 0
  if target ≠ 1 then toTag target mode sr sat v
  else if source = 0x0C then
    (match sr, v with
     | some u, .fin n m e => f32.roundSr u false n m e
     | _, _ => f32.round mode v)
  else ((f32.round .rne v).1, if v.isSnan then fINV else 0)

/-- WCVT (R322): .sr takes SRSTEP and advances it (R234). -/
def execWcvt (d a : BitVec 4) (t : BitVec 6) (r k : BitVec 1) (s : State) : Out :=
  let bad (x : Thread) : Option TrapInfo :=
    if cvtSource t.toNat (x.rdW a.toNat).tag.toNat then none else some (trapOf .format)
  s.run (.wcvt d a t r k) false (fun s th => s.operands th [] [a.toNat] none bad (fun s _ =>
    let x := s.thr th
    let u := x.rdW a.toNat
    let sr (i : Nat) : Option Nat := if r.toNat = 1 then some (s.draws th x.srstep i) else none
    let rs := (List.range 8).map (fun i => cvtElem t.toNat u.tag.toNat x.mode (sr i) (k.toNat == 1) (regBits u i))
    putElems (s.modThr th (fun x => if r.toNat = 1 then { x with srstep := x.srstep + 1 } else x)) th d t.toNat rs))

/-- WPACK (R320). -/
def execWpack (d a b : BitVec 4) (s : State) : Out :=
  s.run (.wpack d a b) false (fun s t =>
    s.operands t [] [a.toNat, b.toNat] none (sameTag [a, b] (· != 0)) (fun s _ =>
      let u := (s.thr t).rdW a.toNat
      let v := (s.thr t).rdW b.toNat
      putW s t d { data := u.data ||| v.data, s0 := u.s0 ||| v.s0, s1 := u.s1 ||| v.s1, tag := u.tag } 0))

/-- WUNPK's formats, and a part within the register (R320, R323). -/
def unpkFormat (a : BitVec 4) (p : BitVec 2) (x : Thread) : Option TrapInfo :=
  let u := x.rdW a.toNat
  let t := u.tag.toNat
  if t = 0 ∨ t = 1 ∨ t = 0x0C ∨ regElems u ≤ 8 * p.toNat then some (trapOf .format) else none

/-- WUNPK (R323): integers widen to I32, floats to F32 with the scale applied; a value beyond F32's range rounds in mode
(log 13). -/
def execWunpk (d a : BitVec 4) (p : BitVec 2) (s : State) : Out :=
  s.run (.wunpk d a p) false (fun s t => s.operands t [] [a.toNat] none (unpkFormat a p) (fun s _ =>
    let x := s.thr t
    let u := x.rdW a.toNat
    let tag := u.tag.toNat
    let es := (List.range 8).map (· + 8 * p.toNat)
    if tag = 0x0A ∨ tag = 0x0B then
      putElems s t d 0x0C (es.map (fun e => ((BitVec.ofInt 32 (signedField (State.tagWidth tag) (regBits u e))).toNat, 0)))
    else putElems s t d 1 (es.map (fun e => fmtDone f32 x.mode [regVal u e] (regVal u e)))))

/-- Control byte i of WSHUF. -/
def ctlByte (c : WReg) (i : Nat) : Byte := (c.data >>> (8 * i)).truncate 8

/-- WSHUF's tags and its control bytes (R323): bits 6:5 zero, but for bit 6 of byte 31. -/
def shufFormat (a b : BitVec 4) (x : Thread) : Option TrapInfo :=
  let c := x.rdW b.toNat
  if (x.rdW a.toNat).tag.toNat = 0 ∨ c.tag.toNat ≠ 0x0A ∨
      (List.range 32).any (fun i => (ctlByte c i).getLsbD 5 || (i != 31 && (ctlByte c i).getLsbD 6)) then some (trapOf .format)
  else none

/-- WSHUF (R323). -/
def execWshuf (d a b : BitVec 4) (s : State) : Out :=
  s.run (.wshuf d a b) false (fun s t => s.operands t [] [a.toNat, b.toNat] none (shufFormat a b) (fun s _ =>
    let u := (s.thr t).rdW a.toNat
    let c := (s.thr t).rdW b.toNat
    let bytes := (List.range 32).map (fun i =>
      let k := (ctlByte c i).toNat
      if 128 ≤ k then 0 else (ctlByte u (k % 32)).toNat)
    let swap := (ctlByte c 31).getLsbD 6
    putW s t d { data := BitVec.ofNat 256 (packFields 8 bytes), s0 := if swap then u.s1 else u.s0,
                 s1 := if swap then u.s0 else u.s1, tag := u.tag } 0))

/-- WTAG (R320). -/
def execWtag (d : BitVec 4) (t : BitVec 6) (s : State) : Out :=
  s.run (.wtag d t) false (fun s th => s.operands th [] [d.toNat] none noCheck (fun s _ =>
    putW s th d { (s.thr th).rdW d.toNat with tag := t } 0))

/-- A scale byte moved by k (R324), with its FSTAT bits. -/
def scaleByte (v : Byte) (k : Int) : Byte × BitVec 5 :=
  if v = 0xFF then (v, 0)
  else
    let n := (v.toNat : Int) + k
    if 254 < n then (254, fOVF) else if n < 0 then (0, fUNF ||| fINX) else (BitVec.ofNat 8 n.toNat, 0)

/-- WSCL (R324). -/
def execWscl (d a : BitVec 4) (b : BitVec 6) (s : State) : Out :=
  s.run (.wscl d a b) false (fun s t =>
    s.operands t [b.toNat] [a.toNat] none (sameTag [a] (fun t => t == 1 || State.blockTag t)) (fun s vs =>
      let x := s.thr t
      let u := x.rdW a.toNat
      let k : Int := min 511 (max (-512) (vs.headD 0).toInt)
      if u.tag.toNat = 1 then
        putElems s t d 1 ((List.range 8).map (fun e => fmtDone f32 x.mode [regVal u e] ((regVal u e).shift k)))
      else
        let p := scaleByte u.s0 k
        let q := if usesS1 u.tag.toNat then scaleByte u.s1 k else (0, 0)
        putW s t d { u with s0 := p.1, s1 := q.1 } (p.2 ||| q.2)))

/-- WSETS accepts a block tag that uses the scale named (R320). -/
def setsFormat (d : BitVec 4) (m : BitVec 1) (x : Thread) : Option TrapInfo :=
  let t := (x.rdW d.toNat).tag.toNat
  if (if m.toNat = 0 then usesS0 t else usesS1 t) then none else some (trapOf .format)

/-- WSETS (R320). -/
def execWsets (d : BitVec 4) (a : BitVec 6) (m : BitVec 1) (s : State) : Out :=
  s.run (.wsets d a m) false (fun s t => s.operands t [a.toNat] [d.toNat] none (setsFormat d m) (fun s vs =>
    let u := (s.thr t).rdW d.toNat
    let v : Byte := (vs.headD 0).truncate 8
    putW s t d (if m.toNat = 0 then { u with s0 := v } else { u with s1 := v }) 0))

/-- A signed comparison: UN gives false, OR true (R324). -/
def wcond (c : Nat) (x y : Int) : Bool :=
  if c = 0 then x == y else if c = 1 then x != y else if c = 2 then x < y else if c = 3 then x ≤ y
  else if c = 4 then x > y else if c = 5 then x ≥ y else c == 7

/-- WCMP (R324). -/
def execWcmp (d : BitVec 6) (a b : BitVec 4) (c : BitVec 3) (s : State) : Out :=
  s.run (.wcmp d a b c) false (fun s t =>
    s.operands t [] [a.toNat, b.toNat] (some d.toNat) (sameTag [a, b] arithTag) (fun s _ =>
      let x := s.thr t
      let u := x.rdW a.toNat
      let v := x.rdW b.toNat
      let rs : List (Bool × BitVec 5) := (List.range (regElems u)).map (fun e =>
        match tagFmt u.tag.toNat with
        | some f =>
          let p := f.decode (regBits u e); let q := f.decode (regBits v e)
          (fcond c.toNat p q, fcmpInv c.toNat p q)
        | none => (wcond c.toNat (signedField 32 (regBits u e)) (signedField 32 (regBits v e)), 0))
      let mask := packFields 1 (rs.map (fun r => if r.1 then 1 else 0))
      let fl := rs.foldl (fun f r => f ||| r.2) 0
      .done ((s.modThr t (fun x => x.raise fl)).wr t d.toNat (BitVec.ofNat 32 mask)) none))

end Sys2Proof.Machine
end

