-- ==== Sys2Proof/Machine/Dispatch.lean ====
section
/-! DEFINITION. The meaning of every step, one arm per constructor of Instr. -/

namespace Sys2Proof.Machine

def exec (i : Instr) (s : State) : Host.Outcome State Fault Refusal :=
  match i with
  | .clause w a b n y => Sys2Proof.Machine.execClause w a b n y s
  | .movC d s1 => Sys2Proof.Machine.execMovC d s1 s
  | .addC d s1 => Sys2Proof.Machine.execAddC d s1 s
  | .subC d s1 => Sys2Proof.Machine.execSubC d s1 s
  | .andC d s1 => Sys2Proof.Machine.execAndC d s1 s
  | .orC d s1 => Sys2Proof.Machine.execOrC d s1 s
  | .xorC d s1 => Sys2Proof.Machine.execXorC d s1 s
  | .shlC d s1 => Sys2Proof.Machine.execShlC d s1 s
  | .shrC d s1 => Sys2Proof.Machine.execShrC d s1 s
  | .addiC d s1 => Sys2Proof.Machine.execAddiC d s1 s
  | .moviC d s1 => Sys2Proof.Machine.execMoviC d s1 s
  | .faddC d s1 => Sys2Proof.Machine.execFaddC d s1 s
  | .fmulC d s1 => Sys2Proof.Machine.execFmulC d s1 s
  | .fmaxC d s1 => Sys2Proof.Machine.execFmaxC d s1 s
  | .fsubC d s1 => Sys2Proof.Machine.execFsubC d s1 s
  | .shriC d s1 => Sys2Proof.Machine.execShriC d s1 s
  | .nopC => Sys2Proof.Machine.execNopC s
  | .add d a b => Sys2Proof.Machine.execAdd d a b s
  | .sub d a b => Sys2Proof.Machine.execSub d a b s
  | .mul d a b => Sys2Proof.Machine.execMul d a b s
  | .mulhI d a b => Sys2Proof.Machine.execMulhI d a b s
  | .mulhN d a b => Sys2Proof.Machine.execMulhN d a b s
  | .divI d a b => Sys2Proof.Machine.execDivI d a b s
  | .divN d a b => Sys2Proof.Machine.execDivN d a b s
  | .remI d a b => Sys2Proof.Machine.execRemI d a b s
  | .remN d a b => Sys2Proof.Machine.execRemN d a b s
  | .and d a b => Sys2Proof.Machine.execAnd d a b s
  | .or d a b => Sys2Proof.Machine.execOr d a b s
  | .xor d a b => Sys2Proof.Machine.execXor d a b s
  | .andn d a b => Sys2Proof.Machine.execAndn d a b s
  | .shl d a b => Sys2Proof.Machine.execShl d a b s
  | .shr d a b => Sys2Proof.Machine.execShr d a b s
  | .sar d a b => Sys2Proof.Machine.execSar d a b s
  | .rot d a b => Sys2Proof.Machine.execRot d a b s
  | .minI d a b => Sys2Proof.Machine.execMinI d a b s
  | .minN d a b => Sys2Proof.Machine.execMinN d a b s
  | .maxI d a b => Sys2Proof.Machine.execMaxI d a b s
  | .maxN d a b => Sys2Proof.Machine.execMaxN d a b s
  | .abs d a => Sys2Proof.Machine.execAbs d a s
  | .neg d a => Sys2Proof.Machine.execNeg d a s
  | .clz d a => Sys2Proof.Machine.execClz d a s
  | .popc d a => Sys2Proof.Machine.execPopc d a s
  | .brev d a => Sys2Proof.Machine.execBrev d a s
  | .mov d a => Sys2Proof.Machine.execMov d a s
  | .not d a => Sys2Proof.Machine.execNot d a s
  | .addi d a imm => Sys2Proof.Machine.execAddi d a imm s
  | .andi d a imm => Sys2Proof.Machine.execAndi d a imm s
  | .ori d a imm => Sys2Proof.Machine.execOri d a imm s
  | .xori d a imm => Sys2Proof.Machine.execXori d a imm s
  | .shli d a n => Sys2Proof.Machine.execShli d a n s
  | .shri d a n => Sys2Proof.Machine.execShri d a n s
  | .sari d a n => Sys2Proof.Machine.execSari d a n s
  | .roti d a n => Sys2Proof.Machine.execRoti d a n s
  | .movh d imm => Sys2Proof.Machine.execMovh d imm s
  | .cmp p a b y c => Sys2Proof.Machine.execCmp p a b y c s
  | .cmpi p c a imm => Sys2Proof.Machine.execCmpi p c a imm s
  | .pand d a b => Sys2Proof.Machine.execPand d a b s
  | .por d a b => Sys2Proof.Machine.execPor d a b s
  | .pxor d a b => Sys2Proof.Machine.execPxor d a b s
  | .pandn d a b => Sys2Proof.Machine.execPandn d a b s
  | .pnot d a => Sys2Proof.Machine.execPnot d a s
  | .pmovg d a => Sys2Proof.Machine.execPmovg d a s
  | .pmovp d a => Sys2Proof.Machine.execPmovp d a s
  | .sel d a b p => Sys2Proof.Machine.execSel d a b p s
  | .fadd d a b => Sys2Proof.Machine.execFadd d a b s
  | .fsub d a b => Sys2Proof.Machine.execFsub d a b s
  | .fmul d a b => Sys2Proof.Machine.execFmul d a b s
  | .fdiv d a b => Sys2Proof.Machine.execFdiv d a b s
  | .fmin d a b => Sys2Proof.Machine.execFmin d a b s
  | .fmax d a b => Sys2Proof.Machine.execFmax d a b s
  | .fabs d a => Sys2Proof.Machine.execFabs d a s
  | .fneg d a => Sys2Proof.Machine.execFneg d a s
  | .fcpsgn d a b => Sys2Proof.Machine.execFcpsgn d a b s
  | .fsqrt d a => Sys2Proof.Machine.execFsqrt d a s
  | .frcp d a => Sys2Proof.Machine.execFrcp d a s
  | .frsq d a => Sys2Proof.Machine.execFrsq d a s
  | .ex2 d a => Sys2Proof.Machine.execEx2 d a s
  | .fma d a b => Sys2Proof.Machine.execFma d a b s
  | .fms d a b => Sys2Proof.Machine.execFms d a b s
  | .fnma d a b => Sys2Proof.Machine.execFnma d a b s
  | .fnms d a b => Sys2Proof.Machine.execFnms d a b s
  | .fcmp p a b c => Sys2Proof.Machine.execFcmp p a b c s
  | .fcvtF32I32 d a r => Sys2Proof.Machine.execFcvtF32I32 d a r s
  | .fcvtF32N32 d a r => Sys2Proof.Machine.execFcvtF32N32 d a r s
  | .fcvtI32F32 d a r => Sys2Proof.Machine.execFcvtI32F32 d a r s
  | .fcvtN32F32 d a r => Sys2Proof.Machine.execFcvtN32F32 d a r s
  | .fcvtF32F16 d a r => Sys2Proof.Machine.execFcvtF32F16 d a r s
  | .fcvtF16F32 d a r => Sys2Proof.Machine.execFcvtF16F32 d a r s
  | .fcvtF32Bf16 d a r => Sys2Proof.Machine.execFcvtF32Bf16 d a r s
  | .fcvtBf16F32 d a r => Sys2Proof.Machine.execFcvtBf16F32 d a r s
  | .frnd d a r => Sys2Proof.Machine.execFrnd d a r s
  | .aadd d a b s1 => Sys2Proof.Machine.execAadd d a b s1 s
  | .amov d s1 => Sys2Proof.Machine.execAmov d s1 s
  | .asplit d a => Sys2Proof.Machine.execAsplit d a s
  | .acmp d a b c => Sys2Proof.Machine.execAcmp d a b c s
  | .amova d a => Sys2Proof.Machine.execAmova d a s
  | .aaddi d a imm => Sys2Proof.Machine.execAaddi d a imm s
  | .afrom d imm => Sys2Proof.Machine.execAfrom d imm s
  | .br p n o => Sys2Proof.Machine.execBr p n o s
  | .call p n o => Sys2Proof.Machine.execCall p n o s
  | .jmp a => Sys2Proof.Machine.execJmp a s
  | .jcall d a => Sys2Proof.Machine.execJcall d a s
  | .ret a => Sys2Proof.Machine.execRet a s
  | .exit => Sys2Proof.Machine.execExit s
  | .yield => Sys2Proof.Machine.execYield s
  | .nop => Sys2Proof.Machine.execNop s
  | .brk => Sys2Proof.Machine.execBrk s
  | .trap c => Sys2Proof.Machine.execTrap c s
  | .spawn d a b => Sys2Proof.Machine.execSpawn d a b s
  | .ld t a l y f o => Sys2Proof.Machine.execLd t a l y f o s
  | .st t a l y f o => Sys2Proof.Machine.execSt t a l y f o s
  | .wld t a l o f g => Sys2Proof.Machine.execWld t a l o f g s
  | .wst t a l o f g => Sys2Proof.Machine.execWst t a l o f g s
  | .gather d a b f l y => Sys2Proof.Machine.execGather d a b f l y s
  | .scatter d a b f l y => Sys2Proof.Machine.execScatter d a b f l y s
  | .pref a l o => Sys2Proof.Machine.execPref a l o s
  | .atomAdd d a b f l => Sys2Proof.Machine.execAtomAdd d a b f l s
  | .atomMinI d a b f l => Sys2Proof.Machine.execAtomMinI d a b f l s
  | .atomMinN d a b f l => Sys2Proof.Machine.execAtomMinN d a b f l s
  | .atomMaxI d a b f l => Sys2Proof.Machine.execAtomMaxI d a b f l s
  | .atomMaxN d a b f l => Sys2Proof.Machine.execAtomMaxN d a b f l s
  | .atomAnd d a b f l => Sys2Proof.Machine.execAtomAnd d a b f l s
  | .atomOr d a b f l => Sys2Proof.Machine.execAtomOr d a b f l s
  | .atomXor d a b f l => Sys2Proof.Machine.execAtomXor d a b f l s
  | .atomXchg d a b f l => Sys2Proof.Machine.execAtomXchg d a b f l s
  | .atomFadd d a b f l => Sys2Proof.Machine.execAtomFadd d a b f l s
  | .atomBump d a b f l => Sys2Proof.Machine.execAtomBump d a b f l s
  | .acas d a b f l => Sys2Proof.Machine.execAcas d a b f l s
  | .fence p u s1 => Sys2Proof.Machine.execFence p u s1 s
  | .barArrive d b => Sys2Proof.Machine.execBarArrive d b s
  | .barWait a b => Sys2Proof.Machine.execBarWait a b s
  | .barSync b => Sys2Proof.Machine.execBarSync b s
  | .barInit a b l => Sys2Proof.Machine.execBarInit a b l s
  | .barTest d b p => Sys2Proof.Machine.execBarTest d b p s
  | .barDrop b => Sys2Proof.Machine.execBarDrop b s
  | .twaitany a => Sys2Proof.Machine.execTwaitany a s
  | .twaitall a => Sys2Proof.Machine.execTwaitall a s
  | .tfirst d a => Sys2Proof.Machine.execTfirst d a s
  | .tclr a => Sys2Proof.Machine.execTclr a s
  | .tset a => Sys2Proof.Machine.execTset a s
  | .ttest d a => Sys2Proof.Machine.execTtest d a s
  | .qbind q a b => Sys2Proof.Machine.execQbind q a b s
  | .qstat d q => Sys2Proof.Machine.execQstat d q s
  | .qclose q => Sys2Proof.Machine.execQclose q s
  | .qtry d q b => Sys2Proof.Machine.execQtry d q b s
  | .hpush a b f => Sys2Proof.Machine.execHpush a b f s
  | .hpop d b f => Sys2Proof.Machine.execHpop d b f s
  | .htry d b f => Sys2Proof.Machine.execHtry d b f s
  | .movs d n => Sys2Proof.Machine.execMovs d n s
  | .movsw a n => Sys2Proof.Machine.execMovsw a n s
  | .mkh d a f => Sys2Proof.Machine.execMkh d a f s
  | .arm d k b => Sys2Proof.Machine.execArm d k b s
  | .rpost d a b f o => Sys2Proof.Machine.execRpost d a b f o s
  | .rpostw d a b f o => Sys2Proof.Machine.execRpostw d a b f o s
  | .full d a k => Sys2Proof.Machine.execFull d a k s
  | .revoke a f o => Sys2Proof.Machine.execRevoke a f o s
  | .stream a b f o => Sys2Proof.Machine.execStream a b f o s
  | .streamg a b f o => Sys2Proof.Machine.execStreamg a b f o s
  | .scopy a b f o => Sys2Proof.Machine.execScopy a b f o s
  | .binscat a b f o => Sys2Proof.Machine.execBinscat a b f o s
  | .sfill a b f o => Sys2Proof.Machine.execSfill a b f o s
  | .mma d a b f o => Sys2Proof.Machine.execMma d a b f o s
  | .mmas d a b f o => Sys2Proof.Machine.execMmas d a b f o s
  | .xzero d => Sys2Proof.Machine.execXzero d s
  | .xld d a b f o => Sys2Proof.Machine.execXld d a b f o s
  | .xst d a b f o => Sys2Proof.Machine.execXst d a b f o s
  | .xdrain d a b f o => Sys2Proof.Machine.execXdrain d a b f o s
  | .xguard d a c => Sys2Proof.Machine.execXguard d a c s
  | .xtag d a => Sys2Proof.Machine.execXtag d a s
  | .bind d a f o => Sys2Proof.Machine.execBind d a f o s
  | .unbind b f o => Sys2Proof.Machine.execUnbind b f o s
  | .settle d b f o => Sys2Proof.Machine.execSettle d b f o s
  | .stale d b f => Sys2Proof.Machine.execStale d b f s
  | .recomp d b f o => Sys2Proof.Machine.execRecomp d b f o s
  | .bstat d b f => Sys2Proof.Machine.execBstat d b f s
  | .pxfind d a f o => Sys2Proof.Machine.execPxfind d a f o s
  | .pxins d a b f o => Sys2Proof.Machine.execPxins d a b f o s
  | .pxref d a b f o => Sys2Proof.Machine.execPxref d a b f o s
  | .pxunref d b f o => Sys2Proof.Machine.execPxunref d b f o s
  | .kvapp d b f o => Sys2Proof.Machine.execKvapp d b f o s
  | .kvtrim d b f o => Sys2Proof.Machine.execKvtrim d b f o s
  | .kvxlat d b f => Sys2Proof.Machine.execKvxlat d b f s
  | .attn d a f o => Sys2Proof.Machine.execAttn d a f o s
  | .wadd d a b => Sys2Proof.Machine.execWadd d a b s
  | .wsub d a b => Sys2Proof.Machine.execWsub d a b s
  | .wmul d a b => Sys2Proof.Machine.execWmul d a b s
  | .wfma d a b => Sys2Proof.Machine.execWfma d a b s
  | .wmax d a b => Sys2Proof.Machine.execWmax d a b s
  | .wmin d a b => Sys2Proof.Machine.execWmin d a b s
  | .wdot d a b => Sys2Proof.Machine.execWdot d a b s
  | .wred d a m => Sys2Proof.Machine.execWred d a m s
  | .wcvt d a t r k => Sys2Proof.Machine.execWcvt d a t r k s
  | .wpack d a b => Sys2Proof.Machine.execWpack d a b s
  | .wunpk d a p => Sys2Proof.Machine.execWunpk d a p s
  | .wshuf d a b => Sys2Proof.Machine.execWshuf d a b s
  | .wtag d t => Sys2Proof.Machine.execWtag d t s
  | .wscl d a b => Sys2Proof.Machine.execWscl d a b s
  | .wsets d a m => Sys2Proof.Machine.execWsets d a m s
  | .wcmp d a b c => Sys2Proof.Machine.execWcmp d a b c s
  | .queuePortPush t port v => Sys2Proof.Machine.execQueuePortPush t port v s
  | .queuePortPop t port => Sys2Proof.Machine.execQueuePortPop t port s
  | .schedulerTakeLaunch die queue core bank => Sys2Proof.Machine.execSchedulerTakeLaunch die queue core bank s
  | .placementArrival idx => Sys2Proof.Machine.execPlacementArrival idx s
  | .pendingGroupPlace idx core bank => Sys2Proof.Machine.execPendingGroupPlace idx core bank s
  | .unitHandoff idx die => Sys2Proof.Machine.execUnitHandoff idx die s
  | .stealRequest cluster => Sys2Proof.Machine.execStealRequest cluster s
  | .stealReply idx => Sys2Proof.Machine.execStealReply idx s
  | .formationRound core islot => Sys2Proof.Machine.execFormationRound core islot s
  | .trapAtReply idx => Sys2Proof.Machine.execTrapAtReply idx s
  | .groupHalted g => Sys2Proof.Machine.execGroupHalted g s
  | .trapServiceTimeout g => Sys2Proof.Machine.execTrapServiceTimeout g s
  | .trapResume g => Sys2Proof.Machine.execTrapResume g s
  | .trapTerminateGroup g => Sys2Proof.Machine.execTrapTerminateGroup g s
  | .trapTerminateKernel g => Sys2Proof.Machine.execTrapTerminateKernel g s
  | .groupEvict g => Sys2Proof.Machine.execGroupEvict g s
  | .groupRecall g => Sys2Proof.Machine.execGroupRecall g s
  | .groupRetire g => Sys2Proof.Machine.execGroupRetire g s
  | .kernelDrainDone k => Sys2Proof.Machine.execKernelDrainDone k s
  | .threadSlotFree t => Sys2Proof.Machine.execThreadSlotFree t s
  | .kernelCancel k => Sys2Proof.Machine.execKernelCancel k s
  | .kernelCancelDone k => Sys2Proof.Machine.execKernelCancelDone k s
  | .barrierRelease core bank phys => Sys2Proof.Machine.execBarrierRelease core bank phys s
  | .queueConfigure asid va cfg => Sys2Proof.Machine.execQueueConfigure asid va cfg s
  | .queueReopen q free => Sys2Proof.Machine.execQueueReopen q free s
  | .engineResultPush q v => Sys2Proof.Machine.execEngineResultPush q v s
  | .notify session va tail seq tag => Sys2Proof.Machine.execNotify session va tail seq tag s
  | .heapArrival die pick => Sys2Proof.Machine.execHeapArrival die pick s
  | .heapOwnerWrite die v => Sys2Proof.Machine.execHeapOwnerWrite die v s
  | .ctxSwap core => Sys2Proof.Machine.execCtxSwap core s
  | .ctxSpill core save => Sys2Proof.Machine.execCtxSpill core save s
  | .ctxLoad core save ctx asid => Sys2Proof.Machine.execCtxLoad core save ctx asid s
  | .ctxDiscard core => Sys2Proof.Machine.execCtxDiscard core s
  | .ctxCmdBad core cmd => Sys2Proof.Machine.execCtxCmdBad core cmd s
  | .swapEnd core => Sys2Proof.Machine.execSwapEnd core s
  | .spillDone core => Sys2Proof.Machine.execSpillDone core s
  | .loadDone core => Sys2Proof.Machine.execLoadDone core s
  | .attendantFaultHandle id fate => Sys2Proof.Machine.execAttendantFaultHandle id fate s
  | .operandLogReplay id => Sys2Proof.Machine.execOperandLogReplay id s
  | .pageWalkDone id => Sys2Proof.Machine.execPageWalkDone id s
  | .storeDrain t => Sys2Proof.Machine.execStoreDrain t s
  | .registrationAccept id => Sys2Proof.Machine.execRegistrationAccept id s
  | .homeRequest id => Sys2Proof.Machine.execHomeRequest id s
  | .forwardAtOwner id => Sys2Proof.Machine.execForwardAtOwner id s
  | .l1EvictWriteback core line => Sys2Proof.Machine.execL1EvictWriteback core line s
  | .accessComplete id => Sys2Proof.Machine.execAccessComplete id s
  | .dspWinWrite die tenant v => Sys2Proof.Machine.execDspWinWrite die tenant v s
  | .settleCutMarker die slice => Sys2Proof.Machine.execSettleCutMarker die slice s
  | .sfenceVma part asid va => Sys2Proof.Machine.execSfenceVma part asid va s
  | .shootdownAck idx => Sys2Proof.Machine.execShootdownAck idx s
  | .shootdownTimeoutWarn idx => Sys2Proof.Machine.execShootdownTimeoutWarn idx s
  | .shootdownTimeoutReset idx => Sys2Proof.Machine.execShootdownTimeoutReset idx s
  | .frameAllocate tenant frame asid va leaf perms => Sys2Proof.Machine.execFrameAllocate tenant frame asid va leaf perms s
  | .frameEvict frame => Sys2Proof.Machine.execFrameEvict frame s
  | .ageSweep => Sys2Proof.Machine.execAgeSweep s
  | .frameWritebackDone frame => Sys2Proof.Machine.execFrameWritebackDone frame s
  | .framePin frame => Sys2Proof.Machine.execFramePin frame s
  | .frameUnpin frame => Sys2Proof.Machine.execFrameUnpin frame s
  | .migrationStart src dst => Sys2Proof.Machine.execMigrationStart src dst s
  | .migrationCopyDone src => Sys2Proof.Machine.execMigrationCopyDone src s
  | .migrationAbandon src ue => Sys2Proof.Machine.execMigrationAbandon src ue s
  | .scrubDone frame => Sys2Proof.Machine.execScrubDone frame s
  | .scrubFail frame => Sys2Proof.Machine.execScrubFail frame s
  | .rowSpareRepair frame left => Sys2Proof.Machine.execRowSpareRepair frame left s
  | .tenFrWrite tenant v => Sys2Proof.Machine.execTenFrWrite tenant v s
  | .speCommandStart die => Sys2Proof.Machine.execSpeCommandStart die s
  | .speFullComputeDone part n => Sys2Proof.Machine.execSpeFullComputeDone part n s
  | .speSettleDone part n => Sys2Proof.Machine.execSpeSettleDone part n s
  | .speFail part n => Sys2Proof.Machine.execSpeFail part n s
  | .adaptAdmit part => Sys2Proof.Machine.execAdaptAdmit part s
  | .adaptEvict part n => Sys2Proof.Machine.execAdaptEvict part n s
  | .adaptRecreate part n frames => Sys2Proof.Machine.execAdaptRecreate part n frames s
  | .pfxBaseWrite part v => Sys2Proof.Machine.execPfxBaseWrite part v s
  | .pfxCfgWrite part v => Sys2Proof.Machine.execPfxCfgWrite part v s
  | .pfxCommandStart die peers => Sys2Proof.Machine.execPfxCommandStart die peers s
  | .pfxCopyDone idx peer => Sys2Proof.Machine.execPfxCopyDone idx peer s
  | .remoteFetch part psn => Sys2Proof.Machine.execRemoteFetch part psn s
  | .remoteAttnQuery part q => Sys2Proof.Machine.execRemoteAttnQuery part q s
  | .flitArrival idx full parityBad => Sys2Proof.Machine.execFlitArrival idx full parityBad s
  | .budgetPeriod die => Sys2Proof.Machine.execBudgetPeriod die s
  | .bgtClassWrite die cls v => Sys2Proof.Machine.execBgtClassWrite die cls v s
  | .bgtClassRead die cls => Sys2Proof.Machine.execBgtClassRead die cls s
  | .resetReqDevice m boot => Sys2Proof.Machine.execResetReqDevice m boot s
  | .resetReqPartition m => Sys2Proof.Machine.execResetReqPartition m s
  | .resetReqRingmaster m => Sys2Proof.Machine.execResetReqRingmaster m s
  | .getVersion => Sys2Proof.Machine.execGetVersion s
  | .getCapabilities => Sys2Proof.Machine.execGetCapabilities s
  | .negotiateAlgorithms => Sys2Proof.Machine.execNegotiateAlgorithms s
  | .getDigests => Sys2Proof.Machine.execGetDigests s
  | .getCertificate => Sys2Proof.Machine.execGetCertificate s
  | .challenge nonce => Sys2Proof.Machine.execChallenge nonce s
  | .getMeasurements => Sys2Proof.Machine.execGetMeasurements s
  | .mctpUnsupported ty => Sys2Proof.Machine.execMctpUnsupported ty s
  | .linkEnable l => Sys2Proof.Machine.execLinkEnable l s
  | .linkTrained l wide => Sys2Proof.Machine.execLinkTrained l wide s
  | .linkErrorThreshold l => Sys2Proof.Machine.execLinkErrorThreshold l s
  | .linkRetrainDone l wide => Sys2Proof.Machine.execLinkRetrainDone l wide s
  | .linkFail l => Sys2Proof.Machine.execLinkFail l s
  | .linkDisable l => Sys2Proof.Machine.execLinkDisable l s
  | .postLostTimeout idx => Sys2Proof.Machine.execPostLostTimeout idx s
  | .collectiveTake queue => Sys2Proof.Machine.execCollectiveTake queue s
  | .collectiveReduce comm step => Sys2Proof.Machine.execCollectiveReduce comm step s
  | .collectiveChildPartial comm step rank vals bad => Sys2Proof.Machine.execCollectiveChildPartial comm step rank vals bad s
  | .collectiveResult comm step vals bad => Sys2Proof.Machine.execCollectiveResult comm step vals bad s
  | .collectiveCancel comm step => Sys2Proof.Machine.execCollectiveCancel comm step s
  | .partCfgWrite v => Sys2Proof.Machine.execPartCfgWrite v s
  | .ivlMapWrite die v => Sys2Proof.Machine.execIvlMapWrite die v s
  | .nbndWrite die v => Sys2Proof.Machine.execNbndWrite die v s
  | .xshrWrite n v => Sys2Proof.Machine.execXshrWrite n v s
  | .partitionMerge a b dlocal => Sys2Proof.Machine.execPartitionMerge a b dlocal s
  | .partitionSplit p => Sys2Proof.Machine.execPartitionSplit p s
  | .l2ModeChange p dlocal => Sys2Proof.Machine.execL2ModeChange p dlocal s
  | .quiesceDone => Sys2Proof.Machine.execQuiesceDone s
  | .quiesceTimeout found => Sys2Proof.Machine.execQuiesceTimeout found s
  | .partitionReset p sideband => Sys2Proof.Machine.execPartitionReset p sideband s
  | .partitionResetDone p => Sys2Proof.Machine.execPartitionResetDone p s
  | .deviceReset cause boot => Sys2Proof.Machine.execDeviceReset cause boot s
  | .clusterStart die => Sys2Proof.Machine.execClusterStart die s
  | .lockstepMismatch pair => Sys2Proof.Machine.execLockstepMismatch pair s
  | .watchdogExpiry => Sys2Proof.Machine.execWatchdogExpiry s
  | .rmWdogPet => Sys2Proof.Machine.execRmWdogPet s
  | .rmWdogTimeoutWrite v => Sys2Proof.Machine.execRmWdogTimeoutWrite v s
  | .ringmasterReset cause => Sys2Proof.Machine.execRingmasterReset cause s
  | .selfTestDone passing => Sys2Proof.Machine.execSelfTestDone passing s
  | .reattachDone => Sys2Proof.Machine.execReattachDone s
  | .sessionOpen session key ok => Sys2Proof.Machine.execSessionOpen session key ok s
  | .sessionClose session => Sys2Proof.Machine.execSessionClose session s
  | .attendantFault core => Sys2Proof.Machine.execAttendantFault core s
  | .parkWindowWrite core slot off v => Sys2Proof.Machine.execParkWindowWrite core slot off v s
  | .parkCtlWrite core v => Sys2Proof.Machine.execParkCtlWrite core v s
  | .handleKeyRotate core => Sys2Proof.Machine.execHandleKeyRotate core s
  | .postArrival idx peer => Sys2Proof.Machine.execPostArrival idx peer s
  | .revokeArrival idx => Sys2Proof.Machine.execRevokeArrival idx s
  | .postReply idx fate => Sys2Proof.Machine.execPostReply idx fate s
  | .drainArrival idx => Sys2Proof.Machine.execDrainArrival idx s
  | .matrixCommandDone idx mismatches => Sys2Proof.Machine.execMatrixCommandDone idx mismatches s
  | .streamerCommandDone cluster idx => Sys2Proof.Machine.execStreamerCommandDone cluster idx s
  | .erqCfgWrite part v => Sys2Proof.Machine.execErqCfgWrite part v s
  | .erqCfgRead part => Sys2Proof.Machine.execErqCfgRead part s
  | .ceFoldFlush idx => Sys2Proof.Machine.execCeFoldFlush idx s
  | .patrolScrub pa fate left => Sys2Proof.Machine.execPatrolScrub pa fate left s
  | .rstcWrite v => Sys2Proof.Machine.execRstcWrite v s
  | .dieFailure die => Sys2Proof.Machine.execDieFailure die s
  | .wearUpdate die hours bankSpent => Sys2Proof.Machine.execWearUpdate die hours bankSpent s
  | .thermalWarn die => Sys2Proof.Machine.execThermalWarn die s
  | .throttleStep die cool => Sys2Proof.Machine.execThrottleStep die cool s
  | .thermalTrip die boot => Sys2Proof.Machine.execThermalTrip die boot s
  | .vdroop die => Sys2Proof.Machine.execVdroop die s
  | .brownout boot => Sys2Proof.Machine.execBrownout boot s
  | .arrayPowerDown core => Sys2Proof.Machine.execArrayPowerDown core s
  | .arrayWake core => Sys2Proof.Machine.execArrayWake core s
  | .registerWrite r v => Sys2Proof.Machine.execRegisterWrite r v s
  | .reservedEncoding w => Sys2Proof.Machine.execReservedEncoding w s
  | .gleanerTransfer core => Sys2Proof.Machine.execGleanerTransfer core s
  | .contextDestroy ctx => Sys2Proof.Machine.execContextDestroy ctx s
  | .processEnd asid => Sys2Proof.Machine.execProcessEnd asid s
  | .frameUnmap frame => Sys2Proof.Machine.execFrameUnmap frame s
  | .directoryExchange part op => Sys2Proof.Machine.execDirectoryExchange part op s

end Sys2Proof.Machine
end

