-- ==== Sys2Proof/Machine/Select.lean ====
section
/-! DEFINITION. Which troupe an issue slot chooses (R39, R40), and which instruction it finds there (R259, R274). -/

namespace Sys2Proof.Machine

/-- The slot that orders a troupe: its lowest (R36). -/
def Troupe.lead (tr : Troupe) : Nat := tr.slots.headD 0

/-- What the selected troupe finds at its PC: an instruction with the state that fetching leaves, a translation fault, or a
poisoned line, or nothing yet. -/
inductive Found
  | instr (s : State) (i : Instr)
  | fault (f : XFault)
  | poison (pa : Nat)
  | wait

namespace State

/-- A FENCE of a thread of the troupe stands in the operand log: nothing issues after it until it has completed (R313). -/
def fencing (s : State) (c : Nat) (tr : Troupe) : Bool :=
  s.accs.cells.any (fun e => match e.2 with
    | some a => logFence a && keyCtx a.thr == c && tr.slots.contains (keySlot a.thr)
    | none => false)

/-- What R39 asks of a troupe before its instruction is looked at: it is past its not-ready interval, its threads run, and its
group has not stopped (R42). -/
def mayIssue (s : State) (c islot : Nat) (tr : Troupe) : Bool :=
  let x := s.thr (threadKey c tr.lead)
  let g := s.group x.group
  tr.lead % 4 == islot && tr.readyAt ≤ s.cycle && x.run == .runnable && !s.fencing c tr &&
    (g.state == .running || (g.state == .halting && x.skid.toNat < 16))

/-- The position of the lap pointer (R40). -/
def lapPointer (s : State) (core islot : Nat) : Nat := (s.cycle - ((s.core core).islots.get islot).held) % 256

/-- The troupes that the issue slot would issue, the first choice first (R40). -/
def candidates (s : State) (core islot : Nat) : List Troupe :=
  let k := s.core core
  let c := k.ctxIn k.activeBank
  let i := k.islots.get islot
  if !s.coreRuns core || s.cycle < k.idleUntil || (s.ctx c).state != .active then []
  else
    let all := (s.ctx c).troupes.filter (s.mayIssue c islot)
    let firsts := sortBy (fun a b => lexLe (a.first.getD 0, a.lead) (b.first.getD 0, b.lead)) (all.filter (fun tr => tr.first.isSome))
    let lap := all.filter (fun tr => tr.lead / 4 == s.lapPointer core islot)
    let byPolicy :=
      if i.robin then
        sortBy (fun a b => lexLe ((a.lead + 1023 - i.lastFirst) % 1024, 0) ((b.lead + 1023 - i.lastFirst) % 1024, 0)) all
      else all.filter (fun tr => tr.id == i.greedy) ++ sortBy (fun a b => lexLe (a.age, a.lead) (b.age, b.lead)) all
    firsts ++ lap ++ byPolicy

/-- The instruction at the troupe's PC: one parcel, and a second one when bit 0 of the first says so (R259).  Where the troupe stands at
no header, or a second parcel would lie outside the clause, nothing more is fetched, and the parcel stands for no instruction there
(R261, R264, R273). -/
def find (s : State) (sel : Sel) : Found :=
  let t := threadKey sel.ctx (sel.slots.headD 0)
  let x := s.thr t
  let pc := x.pc.toNat
  let parsed (s : State) (bs : List Byte) : Found :=
    match decode bs with
    | .ok (i, _) => .instr s i
    | .error _ => .instr s (.reservedEncoding (BitVec.ofNat 32 (leNat bs)))
  match s.fetch t pc 2 with
  | .wait => .wait
  | .fault f => .fault f
  | .poison pa => .poison pa
  | .bytes s1 bs =>
    if lengthOf (leNat bs) = 1 then parsed (s1.standIn sel pc) bs
    else if (if x.gate then !insideClause x 2 else !headerParcel bs) then .instr s1 (.reservedEncoding (BitVec.ofNat 32 (leNat bs)))
    else match s1.fetch t (pc + 2) 2 with
      | .wait => .wait
      | .fault f => .fault f
      | .poison pa => .poison pa
      | .bytes s2 bs2 => parsed ((s2.standIn sel pc).standIn sel (pc + 2)) (bs ++ bs2)

/-- A clause fetch that faults: the troupe's threads wait for it (R37, R264). -/
def fetchFaults (s : State) (sel : Sel) (f : XFault) : Host.Outcome State Fault Refusal :=
  { s with sel := some sel }.issue 0 false (fun s t => s.logFetch t (s.thr t).pc f)

/-- A clause fetch of a poisoned line, or of one out of reach, traps (R196, R221, R274). -/
def fetchPoison (s : State) (sel : Sel) (pa : Nat) : Host.Outcome State Fault Refusal :=
  { s with sel := some sel }.issue 0 false (fun s t =>
    .trap { cause := .poison, code := 0x0103, va := some (s.thr t).pc.toNat, pa := some pa })

/-- The check of R85 that a resumed troupe's fetch has held up: the record is good and the troupe goes on, it is not and the troupe
traps ILLEGAL at HDR with GATE 0, or the clause still cannot be read. -/
def recheckTroupe (s : State) (sel : Sel) : Host.Outcome State Fault Refusal :=
  let each (f : Thread → Thread) : State := sel.slots.foldl (fun s k => s.modThr (threadKey sel.ctx k) f) s
  match s.resumable (threadKey sel.ctx (sel.slots.headD 0)) with
  | .yes => .next (sel.slots.foldl (fun s k => s.relatch (threadKey sel.ctx k)) (each (fun x => { x with recheck := false })))
  | .no => { each (fun x => { x.atHeader x.hdr with recheck := false }) with sel := some sel }.issue 0 false (fun _ _ => illegal)
  | .wait => .next s
  | .fault f va => { s with sel := some sel }.issue 0 false (fun s t => s.logFetch t va f)
  | .poison pa va =>
    { s with sel := some sel }.issue 0 false (fun _ _ =>
      .trap { cause := .poison, code := 0x0103, va := some va.toNat, pa := some pa })

/-- Whether the troupe has done anything: an instruction that must wait leaves its troupe as it was. -/
def hasIssued (s s' : State) (c : Nat) (tr : Troupe) : Bool :=
  (s'.ctx c).troupes != (s.ctx c).troupes ||
  tr.slots.any (fun k => (s'.thr (threadKey c k)).gate != (s.thr (threadKey c k)).gate ||
    (s'.thr (threadKey c k)).recheck != (s.thr (threadKey c k)).recheck)

/-- The troupe has passed a header, or the check of its resumption. -/
def hasPassed (s s' : State) (c : Nat) (tr : Troupe) : Bool :=
  tr.slots.any (fun k => ((s'.thr (threadKey c k)).gate && !(s.thr (threadKey c k)).gate) ||
    ((s.thr (threadKey c k)).recheck && !(s'.thr (threadKey c k)).recheck && (s'.thr (threadKey c k)).run == .runnable))

/-- Every thread of the troupe that has left it blocks at a header or for a fetch, and none has executed an instruction (R37, R41). -/
def hasLeft (s s' : State) (c : Nat) (tr : Troupe) : Bool :=
  tr.slots.any (fun k => match (s'.thr (threadKey c k)).run with
    | .blocked (.gate _) | .blocked (.fetch _) => true
    | _ => false) &&
  !tr.slots.any (fun k => (s'.thr (threadKey c k)).run == .runnable && (s'.thr (threadKey c k)).pc != (s.thr (threadKey c k)).pc)

/-- After the issue: a header takes no issue cycle, and neither does a thread that blocks at one, so the slot goes on in the
same cycle (R39, R41); the lap pointer stands still in the cycle of a new group's first troupe (rule 1 of R40). -/
def afterIssue (s s' : State) (core islot c : Nat) (tr : Troupe) : State :=
  if s.hasPassed s' c tr || s.hasLeft s' c tr then { s' with turns := .issue core islot :: s'.turns }
  else if tr.first.isSome then
    s'.modCore core (fun k => { k with islots := k.islots.modify islot (fun i => { i with held := i.held + 1 }) })
  else s'

end State

end Sys2Proof.Machine
end

