-- ==== Sys2Proof/Machine/Step.lean ====
section
/-! DEFINITION. One step of the module. -/

namespace Sys2Proof.Machine

/-- The selected troupe's instruction is fetched, decoded and performed. -/
def attempt (s : State) (sel : Sel) : Host.Outcome State Fault Refusal :=
  if (s.thr (threadKey sel.ctx (sel.slots.headD 0))).recheck then s.recheckTroupe sel
  else match s.find sel with
  | .wait => .next s
  | .instr s1 i =>
    if s1.interlocked sel i then .next s
    else match exec i { s1 with sel := some sel } with
      | .next t => if s.mustHold t then .next s else .next (s1.stamped t sel i)
      | r => r
  | .fault f => s.fetchFaults sel f
  | .poison pa => s.fetchPoison sel pa

/-- The first of the listed troupes that is ready issues (R40); if none is, the cycle of the issue slot stays empty. -/
def issueFrom (s : State) (core islot c : Nat) : List Troupe → Host.Outcome State Fault Refusal
  | [] => .next s
  | tr :: rest =>
    match attempt s ⟨core, c, tr.slots⟩ with
    | .next s' => if s.hasIssued s' c tr then .next (s.afterIssue s' core islot c tr) else issueFrom s core islot c rest
    | .fault f => .fault f
    | .refused r => .refused r

/-- The turn of an issue slot. -/
def issueSlot (s : State) (core islot : Nat) : Host.Outcome State Fault Refusal :=
  issueFrom s core islot ((s.core core).ctxIn (s.core core).activeBank) (s.candidates core islot)

/-- A step that stands in no row of the opcode table. -/
def outerStep (s : State) (o : Outer) : State :=
  match o with
  | .serviceTimeout g => s.serviceTimeout g
  | .drain t => s.storeDrain t
  | .copyAhead id => s.copyAhead id
  | .speElement p n i j => s.speElement p n i j
  | .captureWord id w => s.captureEarly id w
  | .l1Fill core pa => s.l1Fill core pa
  | .tileAhead id r k => s.tileAhead id r k
  | .flitError id leg => s.legFails id leg
  | .replyError id => s.replyLost id
  | .forwardError w => s.forwardLost w
  | .engineError id line loop => s.cmdLost id line loop
  | .fetchError core block loop => s.fetchLost core block loop
  | .walkError id loop => s.walkLost id loop
  | .collectiveError k line loop => s.collLost k line loop
  | .flitResent die loop => s.flitResent die loop
  | .optionRefused l => s.refuseOption l
  | .linkTryFails l => s.thenReconf (fun s => s.tryFails l)
  | .linkOut k => match allLinks.find? (fun l => linkKey l == some k) with
    | some l => s.thenReconf (fun s => s.linkFails l)
    | none => s
  | .postLost id => s.postLost id
  | .peerRead port pa n => s.peerRead port pa n
  | .peerWrite l pa bs => s.peerWrite l pa bs
  | .peerAtomic port pa op y cmp => s.peerAtomic port pa op y cmp
  | .ioRoot port table => s.writeIoRoot port table
  | .dmaRead port iova n => s.dmaRead port iova n
  | .dmaWrite port iova bs => s.dmaWrite port iova bs
  | .commWrite comm members rank links => s.writeComm comm members rank links
  | .handshakeOut => s.quiesceRefused 0
  | .configure => s.thenReconf State.configure
  | .sramCorrected a => s.sramRecord 0x0105 1 1 a
  | .sramFails a => s.sramFails a
  | .pageError p n => s.pageFails p n
  | .seqError p n => s.seqFails p n
  | .hartLevel pair l => s.setLevel pair l
  | .hartAccess pair i =>
    if !s.pairRuns pair ∨ !controlSpace i then s
    else if s.rm.harts.get pair = .u then s.hartFault pair
    else match exec i s with
      | .next t => t
      | _ => s
  | .attendantLevel core l => s.attendantLevel core l
  | .attendantRead core va n => s.attendantRead core va n
  | .attendantWrite core va bs => s.attendantWrite core va bs
  | .wdogWrite v => s.writeWdog v
  | .grantQueue q => s.grantQueue q
  | .handshake n secret peerKey ownKey chainOk sigOk => s.handshake n secret peerKey ownKey chainOk sigOk
  | .rootWrite asid table => s.writeRoot asid table
  | .entryWrite pa v => s.writeEntry pa v
  | .giantAllocate t f asid va leaf perms => s.grantFrames 512 t f asid va leaf perms

/-- S level records what it is about to do, does it, and records completion (R205). -/
def journaled (k : State → Host.Outcome State Fault Refusal) (s : State) : Host.Outcome State Fault Refusal :=
  match k s with
  | .next t =>
    let as := s.actionsOf t
    if as.isEmpty then .next t
    else match k (s.record as) with
      | .next u => .next (u.complete as)
      | r => r
  | r => r

/-- A step that walks while no walker is free, or whose write a settle holds, is not taken (R134, R146). -/
def orHeld (s : State) : Host.Outcome State Fault Refusal → Host.Outcome State Fault Refusal
  | .next t => .next (s.orHold t)
  | r => r

/-- A step of S level that stands in no row of the opcode table. -/
def supervisesOuter : Outer → Bool
  | .giantAllocate _ _ _ _ _ _ | .configure | .handshakeOut | .handshake _ _ _ _ _ _ => true
  | .hartAccess _ i => supervises i
  | _ => false

/-- Of these, and of the others that no row has, those that S level begins; PART_CFG at the end of a reconfiguration is what it has begun. -/
def beginsOuter : Outer → Bool
  | .giantAllocate _ _ _ _ _ _ | .handshakeOut | .handshake _ _ _ _ _ _ | .grantQueue _ | .rootWrite _ _ | .entryWrite _ _ | .ioRoot _ _
  | .commWrite _ _ _ _ => true
  | .hartAccess _ i => begins i
  | _ => false
def endsOuter : Outer → Bool
  | .configure => true
  | _ => false

/-- A step of the opcode table that is no instruction with an encoding. -/
def eventStep (s : State) (i : Instr) : Host.Outcome State Fault Refusal :=
  let k (s : State) : Host.Outcome State Fault Refusal := orHeld s (exec i s)
  if !isEvent i || s.rmKeeps (begins i) (ends i) then .next s else if supervises i then journaled k s else k s

/-- A step that stands in no row of it. -/
def outerTurn (s : State) (o : Outer) : Host.Outcome State Fault Refusal :=
  let k (s : State) : Host.Outcome State Fault Refusal := .next (s.orHold (outerStep s o))
  if s.rmKeeps (beginsOuter o) (endsOuter o) then .next s else if supervisesOuter o then journaled k s else k s

/-- One step: the turn that stands first is taken; when none stands, the next cycle begins. -/
def step (s : State) : Host.Outcome State Fault Refusal :=
  match s.turns with
  | [] => .next s.tick
  | .tick :: r => .next { s with turns := r }.tick
  | .event i :: r => eventStep { s with turns := r } i
  | .outer o :: r => outerTurn { s with turns := r } o
  | .issue core islot :: r => issueSlot { s with turns := r } core islot

/-- A group of one thread that stands at an instruction of core 0: its clause, and a header when the word is none, stands in
the code of its kernel's snapshot (R28).  It is the very next to issue (log 7). -/
def State.withFetchWord (s : State) (nbits w : Nat) : State :=
  let v := w % 2 ^ nbits
  let header : Bool := v % 128 == 127
  let base : DWord := 0x10000
  let k : Kernel := { state := .running, asid := 1, ctx := 1, groups := [1], codeVa := base,
                      code := Memory.store {} (if header then 0 else 4) (leBytes 4 v) }
  let g : Group := { state := .running, kernel := 1, ctx := 1, size := 1 }
  let x : Thread := { run := .runnable, group := 1, hdr := base, off := if header then 0 else 2, gate := !header,
                      len := nbits / 16, curA := some 0, curB := some 1, tidx := 0, gsize := 1, begun := true }
  let tr : Troupe := { id := s.nextId, slots := [0], age := s.cycle, first := none, readyAt := s.cycle }
  let c : Ctx := { state := .active, core := 0, bank := 0, asid := 1, troupes := [tr] }
  let s1 := (s.modCore 0 (fun c => { c with active := false, ctx0 := 1, idleUntil := 0 })).modDie 0 (fun d =>
    { d with started := max 1 d.started, failed := false })
  { s1 with ctxs := s1.ctxs.set 1 c, groups := s1.groups.set 1 g, kernels := s1.kernels.set 1 k,
            threads := s1.threads.set 1024 x, nextId := s.nextId + 1, sel := none, turns := .issue 0 0 :: s.turns }

end Sys2Proof.Machine
end

