-- ==== Sys2Proof/Safety.lean ====
section
/-! DEFINITION. What claims mean by a safe run and by the issue of an instruction: the machine goes on, its memories keep
their canonical form, a troupe issues, and what stays as it was. -/

namespace Sys2Proof.Machine

/-- The machine goes on from a state. -/
def State.Runs (s : State) : Prop := ∃ t, step s = .next t

/-- Every memory, the thread slots and the accesses under way are in their canonical form: keys strictly rising, and no entry
that an unlisted key reads as. -/
def State.Canonical (s : State) : Prop :=
  Memory.wf s.mem ∧ Memory.wf s.lane ∧ Memory.wf s.pad ∧ Memory.wf s.clus ∧ Memory.wf s.dsp ∧ Memory.wf s.evLane ∧
    Memory.wf s.backing ∧ Memory.wf s.dspSave ∧ s.threads.wf ∧ s.accs.wf

/-- The key of a slot of the troupe that issues. -/
def Sel.key (sel : Sel) (k : Nat) : Nat := threadKey sel.ctx k

/-- A troupe of distinct slots is selected, and each of its threads stands at an instruction of n parcels inside its
clause, no register of it in error (R220). -/
def Issues (s : State) (sel : Sel) (n : Nat) : Prop :=
  s.sel = some sel ∧ sel.slots ≠ [] ∧ sel.slots.Nodup ∧ ∀ k ∈ sel.slots, State.insideClause (s.thr (sel.key k)) n = true ∧
    (s.thr (sel.key k)).lost = []

/-- No source register of the instruction waits for a post (R249). -/
def Filled (s : State) (sel : Sel) (gs ws : List Nat) : Prop := ∀ k ∈ sel.slots, someEmpty (s.thr (sel.key k)) gs ws = false

/-- A thread past an instruction of n parcels: at the next one or at the header behind the clause (R261), with its skid
counted while its group halts, from the cycle after the broadcast on (R42). -/
def stepPast (s : State) (x : Thread) (n : Nat) : Thread :=
  (if (s.group x.group).state = .halting ∧ (s.group x.group).haltAt < s.cycle then { x with skid := x.skid + 1 } else x).advance n

/-- What the issue of an instruction leaves, when the threads' operations have made s1 of the state: the threads of the
troupe go on behind the instruction, the troupe lists and the issue slots change, and nothing else does. -/
def GoesOn (s1 t : State) (sel : Sel) (n : Nat) : Prop :=
  t = { s1 with threads := t.threads, ctxs := t.ctxs, cores := t.cores } ∧
  (∀ k ∈ sel.slots, t.thr (sel.key k) = stepPast s1 (s1.thr (sel.key k)) n) ∧
  (∀ j, (∀ k ∈ sel.slots, j ≠ sel.key k) → t.thr j = s1.thr j) ∧
  (∀ c, t.ctx c = { s1.ctx c with troupes := (t.ctx c).troupes }) ∧
  (∀ c, t.core c = { s1.core c with islots := (t.core c).islots })

/-- The instruction answers a next state in which each thread of the troupe has performed an operation, in ascending slot
order (R38), and has gone on. -/
def Performs (i : Instr) (s : State) (sel : Sel) (f : State → Nat → State) : Prop :=
  ∃ t, exec i s = .next t ∧
    GoesOn (sel.slots.foldl (fun u k => f u (sel.key k)) { s with sel := none }) t sel i.parcels

/-- The instruction answers a next state in which each thread of the troupe has changed by a function of itself and has gone
on; every other thread, every register of another kind and every byte of memory is as it was. -/
def Changes (i : Instr) (s : State) (sel : Sel) (f : Thread → Thread) : Prop :=
  ∃ t, exec i s = .next t ∧
    (∀ k ∈ sel.slots, t.thr (sel.key k) = stepPast s (f (s.thr (sel.key k))) i.parcels) ∧
    (∀ j, (∀ k ∈ sel.slots, j ≠ sel.key k) → t.thr j = s.thr j) ∧
    (∀ a, t.mem.get a = s.mem.get a) ∧
    t = { s with threads := t.threads, ctxs := t.ctxs, cores := t.cores, sel := none } ∧
    (∀ c, t.ctx c = { s.ctx c with troupes := (t.ctx c).troupes }) ∧
    (∀ c, t.core c = { s.core c with islots := (t.core c).islots })

/-- The state in which the thread behind the slots pre of the troupe has its turn, when each thread before it has performed
f, in ascending slot order (R38). -/
def turnOf (s : State) (sel : Sel) (f : State → Nat → State) (pre : List Nat) : State :=
  pre.foldl (fun u k => f u (sel.key k)) { s with sel := none }

/-- A troupe is selected, and each of its threads, when its turn comes, stands at an instruction of n parcels inside its
clause, no register of it in error (R220), and meets a condition. -/
def EachTurn (s : State) (sel : Sel) (n : Nat) (f : State → Nat → State) (p : State → Nat → Prop) : Prop :=
  s.sel = some sel ∧ sel.slots ≠ [] ∧ sel.slots.Nodup ∧ ∀ pre k post, sel.slots = pre ++ k :: post →
    State.insideClause ((turnOf s sel f pre).thr (sel.key k)) n = true ∧ ((turnOf s sel f pre).thr (sel.key k)).lost = [] ∧ p (turnOf s sel f pre) (sel.key k)

/-- WHERE AN INSTRUCTION COMPLETES: wherever each thread of the troupe meets the condition p when its turn comes, the
instruction answers a next state, in which each of them has performed f and gone on. -/
def CompletesAs (i : Instr) (p : State → Nat → Prop) (f : State → Nat → State) : Prop :=
  ∀ s sel, EachTurn s sel i.parcels f p → Performs i s sel f

/-- The same for a control transfer: a thread for which target names an address goes on at the header there, the others
behind the instruction; the troupe may split (R37). -/
def TransfersAs (i : Instr) (p : State → Nat → Prop) (f : State → Nat → State) (target : State → Nat → Option DWord) : Prop :=
  ∀ s sel, EachTurn s sel i.parcels f p → ∃ t, exec i s = .next t ∧
    (let s1 := turnOf s sel f sel.slots
     t = { s1 with threads := t.threads, ctxs := t.ctxs, cores := t.cores, nextId := t.nextId } ∧
     (∀ pre k post, sel.slots = pre ++ k :: post →
       let x := s1.thr (sel.key k)
       let y := if (s1.group x.group).state = .halting ∧ (s1.group x.group).haltAt < s1.cycle then { x with skid := x.skid + 1 } else x
       t.thr (sel.key k) = (match target (turnOf s sel f pre) (sel.key k) with
         | none => y.advance i.parcels
         | some h => y.atHeader h)) ∧
     (∀ j, (∀ k ∈ sel.slots, j ≠ sel.key k) → t.thr j = s1.thr j))

/-- A troupe of one thread is selected, and the thread stands at an instruction of n parcels inside its clause, no register
of it in error (R220). -/
def Alone (s : State) (sel : Sel) (k n : Nat) : Prop :=
  s.sel = some sel ∧ sel.slots = [k] ∧ State.insideClause (s.thr (sel.key k)) n = true ∧ (s.thr (sel.key k)).lost = []

/-- The thread of a troupe of one leaves it and blocks at the instruction (R37): of the thread only the run state changes
beside what f does, and the troupe is gone. -/
def BlocksAs (i : Instr) (s : State) (sel : Sel) (k : Nat) (f : State → Nat → State) (why : BlockWhy) : Prop :=
  ∃ t, exec i s = .next t ∧
    (let s1 := f { s with sel := none } (sel.key k)
     t = { s1 with threads := t.threads, ctxs := t.ctxs, cores := t.cores } ∧
     t.thr (sel.key k) = { s1.thr (sel.key k) with run := .blocked why } ∧
     (∀ j, j ≠ sel.key k → t.thr j = s1.thr j) ∧
     (∀ c, t.ctx c = { s1.ctx c with troupes := (t.ctx c).troupes }) ∧
     ∀ tr ∈ (t.ctx sel.ctx).troupes, tr.slots ≠ [k])

/-- A thread of a troupe of one traps at the instruction: the trap is taken for it (R42). -/
def TrapsAs (i : Instr) (s : State) (sel : Sel) (k : Nat) (info : TrapInfo) : Prop :=
  exec i s = .next ({ s with sel := none }.trapTroupe sel [(k, info)])

end Sys2Proof.Machine
end

