-- ==== Sys2Proof/Certificates/Slice0/Obligations.lean ====
section
/-! DEFINITION. The statements about the machine that the provers are asked for, each made from numbered rules of the spec. -/

namespace Sys2Proof.Machine

/-! ## Shapes of statements about instructions with an encoding -/

/-- The queue port that a g field names as a destination. -/
def outPort (d : BitVec 6) : Option Nat := if 60 ≤ d.toNat then some (d.toNat - 60) else none

/-- No source register is empty, and no port of the instruction hinders it (R65, R249). -/
def Unhindered (gs : List (BitVec 6)) (ws : List Nat) (out : Option Nat) (u : State) (t : Nat) : Prop :=
  someEmpty (u.thr t) (gs.map BitVec.toNat) ws = false ∧ u.portHinder t (portsIn (gs.map BitVec.toNat)) out = none

/-- The state with each port among the source fields popped once, and the values of the fields (R245, R275). -/
def popped (u : State) (t : Nat) (gs : List (BitVec 6)) : State × List Word :=
  let u1 := (portsIn (gs.map BitVec.toNat)).foldl (fun s p => s.latchPort t p) u
  (u1, gs.map (fun g => if 60 ≤ g.toNat then ((u1.thr t).portIn.get (g.toNat - 60)).getD 0 else (u1.thr t).rdG g.toNat))

/-- Registers alone: no field names a port. -/
def NoPorts (gs : List (BitVec 6)) : Prop := ∀ g ∈ gs, g.toNat < 60

/-- The instruction writes a g field with a value of its source fields.  With registers alone it changes the destination and
nothing else; with ports it pops each source port once and pushes the value to a destination port. -/
def Result (i : Instr) (d : BitVec 6) (gs : List (BitVec 6)) (v : Thread → List Word → Word) : Prop :=
  i.wf = true →
    (NoPorts (d :: gs) → ∀ s sel, Issues s sel i.parcels → Filled s sel (gs.map BitVec.toNat) [] →
      Changes i s sel (fun x => x.wrG d.toNat (v x (gs.map (fun g => x.rdG g.toNat))))) ∧
    CompletesAs i (Unhindered gs [] (outPort d)) (fun u t =>
      let r := popped u t gs
      (r.1.wr t d.toNat (v (u.thr t) r.2)).unlatch t (portsIn (gs.map BitVec.toNat)))

/-- The same with FSTAT bits: they are or-ed into FSTAT, and nothing traps (R234). -/
def FloatResult (i : Instr) (d : BitVec 6) (gs : List (BitVec 6)) (v : RMode → List Word → Res) : Prop :=
  i.wf = true →
    (NoPorts (d :: gs) → ∀ s sel, Issues s sel i.parcels → Filled s sel (gs.map BitVec.toNat) [] →
      Changes i s sel (fun x =>
        let r := v (modeOf x) (gs.map (fun g => x.rdG g.toNat))
        { x with fstat := x.fstat ||| r.2 }.wrG d.toNat (BitVec.ofNat 32 r.1))) ∧
    CompletesAs i (Unhindered gs [] (outPort d)) (fun u t =>
      let q := popped u t gs
      let r := v (modeOf (q.1.thr t)) q.2
      ((q.1.modThr t (fun x => { x with fstat := x.fstat ||| r.2 })).wr t d.toNat (BitVec.ofNat 32 r.1)).unlatch t
        (portsIn (gs.map BitVec.toNat)))

/-- The instruction changes its thread by a function of its source fields, and writes no g field. -/
def Updates (i : Instr) (gs : List (BitVec 6)) (f : Thread → List Word → Thread) : Prop :=
  i.wf = true →
    (NoPorts gs → ∀ s sel, Issues s sel i.parcels → Filled s sel (gs.map BitVec.toNat) [] →
      Changes i s sel (fun x => f x (gs.map (fun g => x.rdG g.toNat)))) ∧
    CompletesAs i (Unhindered gs [] none) (fun u t =>
      let r := popped u t gs
      (r.1.modThr t (fun x => f x r.2)).unlatch t (portsIn (gs.map BitVec.toNat)))

/-- The instruction has no g field as a source: it changes its thread and nothing else. -/
def Alters (i : Instr) (f : Thread → Thread) : Prop :=
  i.wf = true → ∀ s sel, Issues s sel i.parcels → Changes i s sel f

/-- Values of one and of two sources. -/
def one (f : Word → Word) (_ : Thread) (l : List Word) : Word := f (l.getD 0 0)
def two (f : Word → Word → Word) (_ : Thread) (l : List Word) : Word := f (l.getD 0 0) (l.getD 1 0)
def float1of (f : RMode → Nat → Res) (m : RMode) (l : List Word) : Res := f m (l.getD 0 0).toNat
def float2of (f : RMode → Nat → Nat → Res) (m : RMode) (l : List Word) : Res := f m (l.getD 0 0).toNat (l.getD 1 0).toNat
def float3of (f : RMode → Nat → Nat → Nat → Res) (m : RMode) (l : List Word) : Res :=
  f m (l.getD 0 0).toNat (l.getD 1 0).toNat (l.getD 2 0).toNat

end Sys2Proof.Machine

open Sys2Proof Sys2Proof.Machine

/-! ## Integer instructions -/

/-- R266, R278: the compact forms; d is the destination and the first source, s a register or a 5-bit immediate. -/
def Parts.CompactResults : Prop := ∀ (d : BitVec 6) (k : BitVec 5),
  let s : BitVec 6 := k.zeroExtend 6
  let n : Word := k.zeroExtend 32
  Result (.movC d k) d [s] (one fun x => x) ∧
  Result (.addC d k) d [d, s] (two fun x y => x + y) ∧
  Result (.subC d k) d [d, s] (two fun x y => x - y) ∧
  Result (.andC d k) d [d, s] (two fun x y => x &&& y) ∧
  Result (.orC d k) d [d, s] (two fun x y => x ||| y) ∧
  Result (.xorC d k) d [d, s] (two fun x y => x ^^^ y) ∧
  Result (.shlC d k) d [d, s] (two fun x y => x <<< (y &&& 31)) ∧
  Result (.shrC d k) d [d, s] (two fun x y => x >>> (y &&& 31)) ∧
  Result (.addiC d k) d [d] (one fun x => x + n) ∧
  Result (.moviC d k) d [] (fun _ _ => n) ∧
  FloatResult (.faddC d k) d [d, s] (float2of fadd) ∧
  FloatResult (.fmulC d k) d [d, s] (float2of fmul) ∧
  FloatResult (.fmaxC d k) d [d, s] (float2of fun _ => fminmax true) ∧
  FloatResult (.fsubC d k) d [d, s] (float2of fsub) ∧
  Result (.shriC d k) d [d] (one fun x => x >>> n)

/-- R279, R280: the instructions of the INT group with two sources. -/
def Parts.IntegerResults : Prop := ∀ (d a b : BitVec 6),
  Result (.add d a b) d [a, b] (two fun x y => x + y) ∧
  Result (.sub d a b) d [a, b] (two fun x y => x - y) ∧
  Result (.mul d a b) d [a, b] (two fun x y => x * y) ∧
  Result (.mulhI d a b) d [a, b] (two fun x y => ((x.signExtend 64 * y.signExtend 64) >>> 32).truncate 32) ∧
  Result (.mulhN d a b) d [a, b] (two fun x y => ((x.zeroExtend 64 * y.zeroExtend 64) >>> 32).truncate 32) ∧
  Result (.divI d a b) d [a, b] (two fun x y =>
    if y = 0 then (if x.slt 0 then 0x80000000 else 0x7FFFFFFF) else x.sdiv y) ∧
  Result (.divN d a b) d [a, b] (two fun x y => if y = 0 then 0xFFFFFFFF else x.udiv y) ∧
  Result (.remI d a b) d [a, b] (two fun x y => if y = 0 then x else x.srem y) ∧
  Result (.remN d a b) d [a, b] (two fun x y => if y = 0 then x else x.umod y) ∧
  Result (.and d a b) d [a, b] (two fun x y => x &&& y) ∧
  Result (.or d a b) d [a, b] (two fun x y => x ||| y) ∧
  Result (.xor d a b) d [a, b] (two fun x y => x ^^^ y) ∧
  Result (.andn d a b) d [a, b] (two fun x y => x &&& ~~~y) ∧
  Result (.shl d a b) d [a, b] (two fun x y => x <<< (y &&& 31)) ∧
  Result (.shr d a b) d [a, b] (two fun x y => x >>> (y &&& 31)) ∧
  Result (.sar d a b) d [a, b] (two fun x y => x.sshiftRight' (y &&& 31)) ∧
  Result (.rot d a b) d [a, b] (two fun x y => x.rotateLeft (y.toNat % 32)) ∧
  Result (.minI d a b) d [a, b] (two fun x y => if x.sle y then x else y) ∧
  Result (.minN d a b) d [a, b] (two fun x y => if x.ule y then x else y) ∧
  Result (.maxI d a b) d [a, b] (two fun x y => if x.sle y then y else x) ∧
  Result (.maxN d a b) d [a, b] (two fun x y => if x.ule y then y else x)

/-- R279, R281–R283, R286, R287, R288: one source, an immediate, or a predicate that selects. -/
def Parts.UnaryAndImmediateResults : Prop :=
  (∀ (d a b : BitVec 6),
    Result (.abs d a) d [a] (one fun x => if x.slt 0 then -x else x) ∧
    Result (.neg d a) d [a] (one fun x => -x) ∧
    Result (.clz d a) d [a] (one fun x => x.clz) ∧
    Result (.popc d a) d [a] (one fun x => BitVec.ofNat 32 ((List.range 32).countP fun k => x.getLsbD k)) ∧
    Result (.brev d a) d [a] (one fun x => x.reverse) ∧
    Result (.mov d a) d [a] (one fun x => x) ∧
    Result (.not d a) d [a] (one fun x => ~~~x) ∧
    Result (.fabs d a) d [a] (one fun x => x &&& 0x7FFFFFFF) ∧
    Result (.fneg d a) d [a] (one fun x => x ^^^ 0x80000000) ∧
    Result (.fcpsgn d a b) d [a, b] (two fun x y => (x &&& 0x7FFFFFFF) ||| (y &&& 0x80000000))) ∧
  (∀ (d a : BitVec 6) (i : BitVec 13),
    Result (.addi d a i) d [a] (one fun x => x + i.signExtend 32) ∧
    Result (.andi d a i) d [a] (one fun x => x &&& i.zeroExtend 32) ∧
    Result (.ori d a i) d [a] (one fun x => x ||| i.zeroExtend 32) ∧
    Result (.xori d a i) d [a] (one fun x => x ^^^ i.signExtend 32)) ∧
  (∀ (d a : BitVec 6) (n : BitVec 5),
    Result (.shli d a n) d [a] (one fun x => x <<< n.toNat) ∧
    Result (.shri d a n) d [a] (one fun x => x >>> n.toNat) ∧
    Result (.sari d a n) d [a] (one fun x => x.sshiftRight n.toNat) ∧
    Result (.roti d a n) d [a] (one fun x => x.rotateLeft n.toNat)) ∧
  (∀ (d : BitVec 6) (i : BitVec 19), Result (.movh d i) d [] (fun _ _ => i.zeroExtend 32 <<< 13)) ∧
  (∀ (d : BitVec 6) (a : BitVec 3), Result (.pmovp d a) d [] (fun x _ => if x.rdP a.toNat then 1 else 0)) ∧
  (∀ (d a b : BitVec 6) (p : BitVec 3),
    Result (.sel d a b p) d [a, b] (fun x l => if x.rdP p.toNat then l.getD 0 0 else l.getD 1 0))

/-- R278–R283, R285–R288: what the integer instructions write, in the compact and the 4-byte forms, with registers and with ports. -/
def Obligations.IntegerInstructions : Prop := Parts.CompactResults ∧ Parts.IntegerResults ∧ Parts.UnaryAndImmediateResults

/-! ## Float instructions -/

/-- The mode of an FCVT or FRND: its rounding field, or RMODE for code 0 (R291). -/
def roundingOf (r : BitVec 3) (m : RMode) : RMode := [m, .rne, .rtz, .rdn, .rup].getD r.toNat m

/-- R288, R289, R291: the F32 results and the FSTAT bits they or into FSTAT; no value traps. -/
def Parts.FloatResults : Prop :=
  (∀ (d a b : BitVec 6),
    FloatResult (.fadd d a b) d [a, b] (float2of fadd) ∧
    FloatResult (.fsub d a b) d [a, b] (float2of fsub) ∧
    FloatResult (.fmul d a b) d [a, b] (float2of fmul) ∧
    FloatResult (.fdiv d a b) d [a, b] (float2of fdiv) ∧
    FloatResult (.fmin d a b) d [a, b] (float2of fun _ => fminmax false) ∧
    FloatResult (.fmax d a b) d [a, b] (float2of fun _ => fminmax true) ∧
    FloatResult (.fsqrt d a) d [a] (float1of fsqrt) ∧
    FloatResult (.frcp d a) d [a] (float1of fun m x => fdiv m 0x3F800000 x) ∧
    FloatResult (.frsq d a) d [a] (float1of frsq) ∧
    FloatResult (.ex2 d a) d [a] (float1of fun _ => ex2) ∧
    FloatResult (.fma d a b) d [a, b, d] (float3of fun m => fma m false false) ∧
    FloatResult (.fms d a b) d [a, b, d] (float3of fun m => fma m false true) ∧
    FloatResult (.fnma d a b) d [a, b, d] (float3of fun m => fma m true false) ∧
    FloatResult (.fnms d a b) d [a, b, d] (float3of fun m => fma m true true)) ∧
  (∀ (d a : BitVec 6) (r : BitVec 3),
    FloatResult (.fcvtF32I32 d a r) d [a] (fun m l => ofInt (roundingOf r m) (l.getD 0 0).toInt) ∧
    FloatResult (.fcvtF32N32 d a r) d [a] (fun m l => ofInt (roundingOf r m) (l.getD 0 0).toNat) ∧
    FloatResult (.fcvtI32F32 d a r) d [a] (fun m l => toI32 (roundingOf r m) (l.getD 0 0).toNat) ∧
    FloatResult (.fcvtN32F32 d a r) d [a] (fun m l => toN32 (roundingOf r m) (l.getD 0 0).toNat) ∧
    FloatResult (.fcvtF32F16 d a r) d [a] (fun _ l => widen f16 (l.getD 0 0).toNat) ∧
    FloatResult (.fcvtF16F32 d a r) d [a] (fun m l => convert f16 (roundingOf r m) none false (f32.decode (l.getD 0 0).toNat)) ∧
    FloatResult (.fcvtF32Bf16 d a r) d [a] (fun _ l => widen bf16 (l.getD 0 0).toNat) ∧
    FloatResult (.fcvtBf16F32 d a r) d [a] (fun m l => convert bf16 (roundingOf r m) none false (f32.decode (l.getD 0 0).toNat)) ∧
    FloatResult (.frnd d a r) d [a] (fun m l => frnd (roundingOf r m) (l.getD 0 0).toNat))

/-- R235, R236: an arithmetic F32 result that is a NaN is the one NaN 0x7FC00000, whatever the operands and the mode. -/
def Parts.NanResultsAreCanonical : Prop := ∀ (m : RMode) (x y z : Word) (p q : Bool),
  let nan (r : Res) : Prop := (f32.decode r.1).isNan = true → r.1 = 0x7FC00000
  nan (fadd m x.toNat y.toNat) ∧ nan (fsub m x.toNat y.toNat) ∧ nan (fmul m x.toNat y.toNat) ∧ nan (fdiv m x.toNat y.toNat) ∧
  nan (fsqrt m x.toNat) ∧ nan (fma m p q x.toNat y.toNat z.toNat)

/-- R235, R236, R288, R289, R291: the F32 results with their FSTAT bits, and their one NaN. -/
def Obligations.FloatInstructions : Prop := Parts.FloatResults ∧ Parts.NanResultsAreCanonical

/-! ## Predicates, addresses and special registers -/

/-- R284–R286, R290, R292, R350: what writes a predicate register; p0 stays true (R245). -/
def Parts.PredicateResults : Prop :=
  (∀ (p : BitVec 3) (a b : BitVec 6) (y : BitVec 3) (c : BitVec 4),
    Updates (.cmp p a b y c) [a, b] (fun x l =>
      let u := l.getD 0 0
      let v := l.getD 1 0
      let lt := if y = 0 then u.slt v else u.ult v
      x.wrP p.toNat ([u == v, u != v, lt, lt || u == v, !(lt || u == v), !lt].getD c.toNat false))) ∧
  (∀ (p c : BitVec 3) (a : BitVec 6) (i : BitVec 13),
    Updates (.cmpi p c a i) [a] (fun x l =>
      let u := l.getD 0 0
      let v : Word := i.signExtend 32
      x.wrP p.toNat ([u == v, u != v, u.slt v, u.sle v, v.slt u, v.sle u, u.ult v, v.ule u].getD c.toNat false))) ∧
  (∀ (p : BitVec 3) (a b : BitVec 6) (c : BitVec 7),
    Updates (.fcmp p a b c) [a, b] (fun x l =>
      let u := f32.decode (l.getD 0 0).toNat
      let v := f32.decode (l.getD 1 0).toNat
      { x with fstat := x.fstat ||| fcmpInv c.toNat u v }.wrP p.toNat (fcond c.toNat u v))) ∧
  (∀ d a b : BitVec 3,
    Alters (.pand d a b) (fun x => x.wrP d.toNat (x.rdP a.toNat && x.rdP b.toNat)) ∧
    Alters (.por d a b) (fun x => x.wrP d.toNat (x.rdP a.toNat || x.rdP b.toNat)) ∧
    Alters (.pxor d a b) (fun x => x.wrP d.toNat (x.rdP a.toNat != x.rdP b.toNat)) ∧
    Alters (.pandn d a b) (fun x => x.wrP d.toNat (x.rdP a.toNat && !x.rdP b.toNat)) ∧
    Alters (.pnot d a) (fun x => x.wrP d.toNat (!x.rdP a.toNat))) ∧
  (∀ (d : BitVec 3) (a : BitVec 6), Updates (.pmovg d a) [a] (fun x l => x.wrP d.toNat (l.getD 0 0 != 0))) ∧
  (∀ (p : BitVec 3) (a b : BitVec 4) (c : BitVec 3),
    Alters (.acmp p a b c) (fun x =>
      let u := x.rdA a.toNat
      let v := x.rdA b.toNat
      x.wrP p.toNat ([u == v, u != v, u.ult v, v.ule u].getD c.toNat false))) ∧
  (∀ (d : BitVec 3) (a : BitVec 6) (k : BitVec 1),
    Alters (.full d a k) (fun x =>
      x.wrP d.toNat (if k = 0 then !x.gEmpty.get a.toNat else !x.wEmpty.get a.toNat)))

/-- R292–R294: address registers and their transfers. -/
def Parts.AddressResults : Prop :=
  (∀ (d a : BitVec 4) (b : BitVec 6) (k : BitVec 3),
    Updates (.aadd d a b k) [b] (fun x l => x.wrA d.toNat (x.rdA a.toNat + (l.getD 0 0).signExtend 64 * BitVec.ofNat 64 (2 ^ k.toNat)))) ∧
  (∀ (d : BitVec 4) (p : BitVec 6),
    Updates (.amov d p) [p, p + 1] (fun x l => x.wrA d.toNat (l.getD 1 0 ++ l.getD 0 0))) ∧
  (∀ (d : BitVec 6) (a : BitVec 4),
    Alters (.asplit d a) (fun x =>
      (x.wrG d.toNat ((x.rdA a.toNat).extractLsb' 0 32)).wrG (d.toNat + 1) ((x.rdA a.toNat).extractLsb' 32 32))) ∧
  (∀ d a : BitVec 4, Alters (.amova d a) (fun x => x.wrA d.toNat (x.rdA a.toNat))) ∧
  (∀ (d a : BitVec 4) (i : BitVec 13), Alters (.aaddi d a i) (fun x => x.wrA d.toNat (x.rdA a.toNat + i.signExtend 64))) ∧
  (∀ (d : BitVec 4) (i : BitVec 19), Alters (.afrom d i) (fun x => x.wrA d.toNat (x.hdr + 2 * i.signExtend 64)))

/-- R284–R286, R290, R292–R294, R350: what the predicate and the address instructions write. -/
def Obligations.PredicatesAndAddresses : Prop := Parts.PredicateResults ∧ Parts.AddressResults

/-- What MOVS reads, by register number (R250): the value, for a thread of a state. -/
def specialValue (s : State) (t n : Nat) : Word :=
  let x := s.thr t
  let c := s.ctx (keyCtx t)
  let g := s.group x.group
  if n < 8 then
    [x.tidx, g.gnum, x.gsize, BitVec.ofNat 32 c.core, BitVec.ofNat 32 (c.core / 56), BitVec.ofNat 32 (c.core % 56 / 8)].getD n 0
  else if n < 0x10 then x.lvc.get (n - 8)
  else if n < 0x18 then x.lvn.get (n - 0x10)
  else match n with
    | 0x20 => BitVec.ofNat 32 (s.coreCycles (coreDie c.core))
    | 0x21 => x.cycHi.getD (BitVec.ofNat 32 (s.coreCycles (coreDie c.core) / 2 ^ 32))
    | 0x22 => BitVec.ofNat 32 s.now
    | 0x23 => x.nowHi.getD (BitVec.ofNat 32 (s.now / 2 ^ 32))
    | 0x30 => BitVec.ofNat 32 (keyCtx t)
    | 0x31 => BitVec.ofNat 32 c.tenant.toNat
    | 0x32 => BitVec.ofNat 32 (keySlot t)
    | 0x40 => BitVec.ofNat 32 x.fstat.toNat
    | 0x41 => BitVec.ofNat 32 x.rmode.toNat
    | 0x42 => x.srstep
    | 0x51 => c.tags.extractLsb' 0 32
    | 0x52 => c.tags.extractLsb' 32 32
    | 0x60 => (s.kernel g.kernel).recVa.extractLsb' 0 32
    | 0x61 => (s.kernel g.kernel).recVa.extractLsb' 32 32
    | _ => trapInfo s t

/-- What reading CYCLO or NOWLO latches for the thread's next read of the high half (R251). -/
def latched (s : State) (t n : Nat) (x : Thread) : Thread :=
  if n = 0x20 then { x with cycHi := some (BitVec.ofNat 32 (s.coreCycles (coreDie (s.coreOf t)) / 2 ^ 32)) }
  else if n = 0x22 then { x with nowHi := some (BitVec.ofNat 32 (s.now / 2 ^ 32)) }
  else x

/-- R250, R251, R300, R301: MOVS reads every special register, FLAGS into a pair; MOVSW writes the three that are writable and
ignores the other bits of the value. -/
def Obligations.SpecialRegisters : Prop :=
  (∀ (d : BitVec 6) (n : BitVec 10), (Instr.movs d n).wf = true → n ≠ 0x50 →
    CompletesAs (.movs d n) (Unhindered [] [] (outPort d)) (fun u t =>
      (u.modThr t (latched u t n.toNat)).wr t d.toNat (specialValue u t n.toNat))) ∧
  (∀ d : BitVec 6, Alters (.movs d 0x50) (fun x =>
    let v : DWord := (List.range 12).foldl (fun w k => w + (x.flags.get k).zeroExtend 64 <<< (3 * k)) 0
    (x.wrG d.toNat (v.extractLsb' 0 32)).wrG (d.toNat + 1) (v.extractLsb' 32 32))) ∧
  (∀ a : BitVec 6,
    Updates (.movsw a 0x40) [a] (fun x l => { x with fstat := (l.getD 0 0).extractLsb' 0 5 }) ∧
    Updates (.movsw a 0x41) [a] (fun x l => { x with rmode := (l.getD 0 0).extractLsb' 0 2 }) ∧
    Updates (.movsw a 0x42) [a] (fun x l => { x with srstep := l.getD 0 0 }))

/-! ## Control transfers, headers and the ends of threads -/

/-- A clause header can be fetched at the address (R264, R274). -/
def HeaderAt (u : State) (t : Nat) (a : DWord) : Prop :=
  canonical a = true ∧ a.toNat % 2 = 0 ∧ ∃ v bs, u.fetch t a.toNat 2 = .bytes v bs ∧ State.headerParcel bs = true

/-- The state that a fetch at the address leaves. -/
def fetchedAt (u : State) (t : Nat) (a : DWord) : State :=
  match u.fetch t a.toNat 2 with
  | .bytes v _ => v
  | _ => u

/-- R264, R295–R297: the transfers, at the end of their clause.  A thread whose condition fails goes on behind; the others go to
the header at the target, CALL and JCALL with the address behind the clause in their link register. -/
def Parts.ControlTransfers : Prop :=
  (∀ (p : BitVec 3) (n : BitVec 1) (o : BitVec 21),
    let taken (x : Thread) : Prop := x.rdP p.toNat ≠ decide (n = 1)
    let target (x : Thread) : DWord := x.pc + 2 * o.signExtend 64
    let may (u : State) (t : Nat) : Prop :=
      (u.thr t).lastOf 2 = true ∧ (taken (u.thr t) → HeaderAt u t (target (u.thr t)))
    let goes (u : State) (t : Nat) : Option DWord := if taken (u.thr t) then some (target (u.thr t)) else none
    TransfersAs (.br p n o) may (fun u t => if taken (u.thr t) then fetchedAt u t (target (u.thr t)) else u) goes ∧
    TransfersAs (.call p n o) may (fun u t =>
      if taken (u.thr t) then (fetchedAt u t (target (u.thr t))).modThr t (fun x => x.wrA 15 x.clauseEnd) else u) goes) ∧
  (∀ d a : BitVec 4,
    let may (u : State) (t : Nat) : Prop := (u.thr t).lastOf 2 = true ∧ HeaderAt u t ((u.thr t).rdA a.toNat)
    let goes (u : State) (t : Nat) : Option DWord := some ((u.thr t).rdA a.toNat)
    TransfersAs (.jmp a) may (fun u t => fetchedAt u t ((u.thr t).rdA a.toNat)) goes ∧
    TransfersAs (.ret a) may (fun u t => fetchedAt u t ((u.thr t).rdA a.toNat)) goes ∧
    TransfersAs (.jcall d a) may (fun u t =>
      (fetchedAt u t ((u.thr t).rdA a.toNat)).modThr t (fun x => x.wrA d.toNat x.clauseEnd)) goes)

/-- R264: a transfer that is not the last instruction of its clause traps ILLEGAL, whatever its condition; a target that is not
canonical or odd traps ADDRESS, and one that holds no header traps TARGET. -/
def Parts.TransferTraps : Prop :=
  (∀ (i : Instr), (∃ p n o, i = .br p n o ∨ i = .call p n o) ∨ (∃ d a, i = .jmp a ∨ i = .ret a ∨ i = .jcall d a) →
    ∀ s sel k, Alone s sel k 2 → (s.thr (sel.key k)).lastOf 2 = false → TrapsAs i s sel k (trapOf .illegal)) ∧
  (∀ (i : Instr) (a : BitVec 4), (i = .jmp a ∨ i = .ret a ∨ ∃ d, i = .jcall d a) →
    ∀ s sel k, Alone s sel k 2 → (s.thr (sel.key k)).lastOf 2 = true →
      let v := (s.thr (sel.key k)).rdA a.toNat
      ((canonical v = false ∨ v.toNat % 2 = 1) → TrapsAs i s sel k (trapAt .address v)) ∧
      (canonical v = true → v.toNat % 2 = 0 →
        (∃ w bs, { s with sel := none }.fetch (sel.key k) v.toNat 2 = .bytes w bs ∧ State.headerParcel bs = false) →
        TrapsAs i s sel k (trapAt .target v)))

/-- R264, R295–R297: where the control transfers go, and where they trap. -/
def Obligations.Transfers : Prop := Parts.ControlTransfers ∧ Parts.TransferTraps

/-- R39, R261–R263, R277: a troupe passes a header when every flag of WAIT is zero in every thread; its A and B fields, its length
and its Y bit are the clause's, and no register changes. -/
def Parts.HeaderPasses : Prop := ∀ (w : BitVec 12) (a b n : BitVec 4) (y : BitVec 1) (s : State) (sel : Sel),
  a.toNat ≤ 12 → b.toNat ≤ 12 → s.sel = some sel → sel.slots ≠ [] → sel.slots.Nodup →
  (∀ k ∈ sel.slots, (s.thr (sel.key k)).gate = false ∧ (s.thr (sel.key k)).lost = [] ∧
    ∀ f, f < 12 → w.getLsbD f = true → (s.thr (sel.key k)).flags.get f = 0) →
  ∃ t, exec (.clause w a b n y) s = .next t ∧
    (∀ k ∈ sel.slots, t.thr (sel.key k) = { s.thr (sel.key k) with
      gate := true, begun := true, off := 2, len := n.toNat + 1, y := decide (y = 1),
      curA := if a = 12 then none else some a.toNat, curB := if b = 12 then none else some b.toNat }) ∧
    (∀ j, (∀ k ∈ sel.slots, j ≠ sel.key k) → t.thr j = s.thr j) ∧
    t = { s with threads := t.threads, ctxs := t.ctxs, sel := none } ∧
    ∀ c, t.ctx c = { s.ctx c with troupes := (t.ctx c).troupes }

/-- R263, R277: a troupe with a thread whose awaited flag is not zero, held by no entry of the operand log, does not pass: nothing
changes. -/
def Parts.HeaderWaits : Prop := ∀ (w : BitVec 12) (a b n : BitVec 4) (y : BitVec 1) (s : State) (sel : Sel) (k f : Nat),
  a.toNat ≤ 12 → b.toNat ≤ 12 → s.sel = some sel → sel.slots = [k] → (s.thr (sel.key k)).gate = false →
  (s.thr (sel.key k)).lost = [] → f < 12 → w.getLsbD f = true → (s.thr (sel.key k)).flags.get f ≠ 0 → s.logFlags (sel.key k) = 0 →
  exec (.clause w a b n y) s = .next { s with sel := none }

/-- R48, R298, R299: NOP, NOP.c and YIELD change no register and no memory. -/
def Parts.NoOperations : Prop := Alters .nop id ∧ Alters .nopC id ∧ Alters .yield id

/-- R39, R261–R263, R277, R298, R299: clause headers, and the instructions without an effect. -/
def Obligations.HeadersAndNoOperations : Prop := Parts.HeaderPasses ∧ Parts.HeaderWaits ∧ Parts.NoOperations

/-- R48, R54, R346: EXIT.  The thread is EXITED and keeps its registers; its live handles are RETIRED; no other thread, no
byte of memory and nothing of another group's changes; the group of which it was the last thread is RETIRING. -/
def Parts.Exits : Prop := ∀ (s : State) (sel : Sel) (k : Nat), s.threads.wf = true → Alone s sel k 2 →
  let x := s.thr (sel.key k)
  ∃ t, exec .exit s = .next t ∧
    t.thr (sel.key k) = { x with run := .exited, sync := none } ∧
    (∀ j, j ≠ sel.key k → t.thr j = s.thr j) ∧
    (∀ a, t.mem.get a = s.mem.get a) ∧
    (∀ c i, let h := (s.core c).handles.get i
      (t.core c).handles.get i =
        if h.state = .live ∧ h.ctx = keyCtx (sel.key k) ∧ h.slot = keySlot (sel.key k) ∧ h.group = x.group then
          { h with state := .retired } else h) ∧
    (∀ g, g ≠ x.group → t.group g = s.group g) ∧
    ((s.group x.group).state = .running → (∀ j, (t.thr j).group = x.group → (t.thr j).run = .exited) →
      (t.group x.group).state = .retiring)

/-- R47: SPAWN of n threads where its context has room for them: the new group runs under the kernel's next number, the
spawning thread's g field d holds that number, and no other thread that ran changes. -/
def Parts.Spawns : Prop := ∀ (d : BitVec 6) (a : BitVec 4) (b : BitVec 6) (s : State) (sel : Sel) (k : Nat),
  (Instr.spawn d a b).wf = true → Alone s sel k 2 →
  let key := sel.key k
  let x := s.thr key
  let kr := s.kernel (s.group x.group).kernel
  let n := (x.rdG d.toNat).toNat
  let entry := x.rdA a.toNat
  (∀ g, 1 ≤ g → g < 60 → x.gEmpty.get g = false) → 1 ≤ n → n ≤ 1024 → canonical entry = true → entry.toNat % 2 = 0 →
  s.storesPerformed key s.nextId 1 = true → kr.state ≠ .cancelling →
  (s.room kr (keyCtx key) n = none →
    Changes (.spawn d a b) s sel (fun x => x.wrG d.toNat 0xFFFFFFFF)) ∧
  (∀ slots pad bar tile, s.room kr (keyCtx key) n = some (slots, pad, bar, tile) →
    ∃ t, exec (.spawn d a b) s = .next t ∧
      (t.group s.nextId).state = .running ∧ (t.group s.nextId).kernel = (s.group x.group).kernel ∧
      (t.group s.nextId).gnum = BitVec.ofNat 32 kr.nextSpawn ∧ (t.group s.nextId).ctx = keyCtx key ∧
      (t.group s.nextId).size = n ∧ (t.group s.nextId).padBase = pad ∧ (t.group s.nextId).spawned = true ∧
      (t.kernel (s.group x.group).kernel).nextSpawn = kr.nextSpawn + 1 ∧
      (t.thr key).rdG d.toNat = BitVec.ofNat 32 kr.nextSpawn ∧
      (∀ a, t.mem.get a = s.mem.get a) ∧
      (∀ j, j ≠ key → (∀ q ∈ slots, j ≠ threadKey (keyCtx key) q) → t.thr j = s.thr j) ∧
      (∀ i q, slots[i]? = some q → threadKey (keyCtx key) q ≠ key →
        let y := t.thr (threadKey (keyCtx key) q)
        y.run = .runnable ∧ y.group = s.nextId ∧ y.hdr = entry ∧ y.gate = false ∧ y.tidx = BitVec.ofNat 32 i ∧
        y.gsize = BitVec.ofNat 32 n ∧ y.rdA 0 = kr.args ∧ ∀ m, m < 8 → y.rdG (m + 1) = x.rdG (b.toNat + m)))

/-- R47, R48: EXIT and SPAWN. -/
def Obligations.ExitsAndSpawns : Prop := Parts.Exits ∧ Parts.Spawns

/-! ## Traps -/

/-- R48, R298, RESERVED_ENCODING: the instructions whose own effect is a trap take it for every thread of the troupe. -/
def Parts.TrapInstructions : Prop := ∀ (s : State) (sel : Sel), Issues s sel 2 →
  let all (info : TrapInfo) := Host.Outcome.next ({ s with sel := none }.trapTroupe sel (sel.slots.map (fun k => (k, info))))
  exec .brk s = all (trapOf .brk) ∧
  (∀ c : BitVec 12, exec (.trap c) s = all { trapOf .soft with detail := c.toNat * 2 ^ 16 }) ∧
  (∀ w : Word, exec (.reservedEncoding w) s = all (trapOf .illegal))

/-- The thread is blocked. -/
def isBlocked (x : Thread) : Bool :=
  match x.run with
  | .blocked _ => true
  | _ => false

/-- R42, R43, R84, R90, R213: TAKING A TRAP in a running group.  Every thread of the troupe stops with its PC at the instruction,
its registers as they were and skid count 0; the trapping ones record their cause and address; the blocked threads of the
group stop; the group halts with its cause; one record of severity 2 is written, with the number of threads that trapped, behind
those that its own writing brings about (a ring in a watched page, R144). -/
def Obligations.TakingATrap : Prop :=
  ∀ (s : State) (sel : Sel) (k0 : Nat) (i0 : TrapInfo) (rest : List (Nat × TrapInfo)),
  let traps := (k0, i0) :: rest
  let g := (s.thr (sel.key k0)).group
  s.threads.wf = true → sel.slots.Nodup → (traps.map Prod.fst).Nodup → (∀ e ∈ traps, e.1 ∈ sel.slots) → (∀ k ∈ sel.slots, k < 1024) →
  (∀ k ∈ sel.slots, (s.thr (sel.key k)).group = g ∧ (s.thr (sel.key k)).run = .runnable) →
  (s.group g).state = .running → (s.group g).ctx = sel.ctx → sel.ctx < 2 ^ 30 →
  let t := s.trapTroupe sel traps
  (∀ k ∈ sel.slots, let x := s.thr (sel.key k)
    t.thr (sel.key k) = { x with
      run := .stopped, skid := 0, tpc := 0
      cause := match traps.find? (fun e => e.1 == k) with
        | some e => BitVec.ofNat 8 e.2.cause.code
        | none => 0
      fva := match traps.find? (fun e => e.1 == k) with
        | some e => BitVec.ofNat 64 (e.2.va.getD 0)
        | none => x.fva }) ∧
  (∀ j, (∀ k ∈ sel.slots, j ≠ sel.key k) → t.thr j =
    (if keyCtx j = sel.ctx ∧ (s.thr j).group = g ∧ isBlocked (s.thr j) then
      { s.thr j with run := .stopped, skid := 0 } else s.thr j)) ∧
  (t.group g).state = .halting ∧ (t.group g).cause = BitVec.ofNat 8 i0.cause.code ∧
  (t.group g).causeSlot = sel.slots.headD k0 ∧ (t.group g).haltAt = s.cycle ∧
  ∃ pre e, t.rm.mirror = s.rm.mirror ++ pre ++ [e] ∧ e.code = i0.code ∧ e.sev = 2 ∧ e.ctx = sel.ctx ∧ e.slot = k0 ∧
    e.pc = (s.thr (sel.key k0)).pc.toNat ∧ e.va = i0.va ∧ e.thread = true ∧ e.count = traps.length ∧ e.time = s.now ∧
    e.detail = i0.cause.code + i0.detail

/-- R246, R267, R273: an instruction that breaks its operands' limits traps ILLEGAL for every thread of its troupe, before it
reads an operand. -/
def Parts.IllegalOperandsTrap : Prop := ∀ (i : Instr) (s : State) (sel : Sel),
  i.parcels ≠ 0 → (∀ w a b n y, i ≠ .clause w a b n y) → i.wf = false → Issues s sel i.parcels →
  exec i s = .next ({ s with sel := none }.trapTroupe sel (sel.slots.map (fun k => (k, trapOf .illegal))))

/-- R48, R267, R273, R298: the instructions that trap of themselves, and illegal operands. -/
def Obligations.TrapsAtIssue : Prop := Parts.TrapInstructions ∧ Parts.IllegalOperandsTrap

/-- R249: an instruction that would read an empty catch register does not execute; its thread leaves the troupe and blocks. -/
def Parts.EmptyRegistersBlock : Prop := ∀ (d a b : BitVec 6) (s : State) (sel : Sel) (k : Nat), Alone s sel k 2 →
  1 ≤ a.toNat → a.toNat < 60 → (s.thr (sel.key k)).gEmpty.get a.toNat = true →
  let waits (gs : List (BitVec 6)) : BlockWhy := .catchReg (gs.map BitVec.toNat) []
  BlocksAs (.add d a b) s sel k (fun u _ => u) (waits [a, b]) ∧ BlocksAs (.fadd d b a) s sel k (fun u _ => u) (waits [b, a]) ∧
  BlocksAs (.fma d b a) s sel k (fun u _ => u) (waits [b, a, d]) ∧ BlocksAs (.movsw a 0x40) s sel k (fun u _ => u) (waits [a]) ∧
  (∀ (f : BitVec 1) (l : BitVec 2) (o : BitVec 9) (e : BitVec 4), BlocksAs (.st a e l 4 f o) s sel k (fun u _ => u) (waits [a]))

/-- R65, R276: a port that is not bound in the direction of its use traps QUEUE before anything is popped or pushed; a pop of
an empty queue blocks. -/
def Parts.PortsAreCheckedFirst : Prop := ∀ (d a b : BitVec 6) (s : State) (sel : Sel) (k : Nat), Alone s sel k 2 →
  let x := s.thr (sel.key k)
  let u := { s with sel := none }
  60 ≤ a.toNat → NoPorts [d, b] → someEmpty x [a.toNat, b.toNat] [] = false →
  let q := u.portQueue (sel.key k) (a.toNat - 60)
  ((x.ports.get (a.toNat - 60)).bound = false ∨ (x.ports.get (a.toNat - 60)).push = true →
    TrapsAs (.add d a b) s sel k (trapOf .queue)) ∧
  ((x.ports.get (a.toNat - 60)).bound = true → (x.ports.get (a.toNat - 60)).push = false → (s.queue q).state = .empty →
    s.names (x.ports.get (a.toNat - 60)) q = true →
    (s.queue q).tail = (s.queue q).head → x.portIn.get (a.toNat - 60) = none →
    BlocksAs (.add d a b) s sel k (fun u _ => u) (.queue q))

/-- R65, R249, R276: an empty catch register blocks, and ports are checked before anything is popped. -/
def Obligations.EmptyRegistersAndPorts : Prop := Parts.EmptyRegistersBlock ∧ Parts.PortsAreCheckedFirst

/-! ## Accesses to memory -/

/-- Nothing holds back a memory operation at issue: its flag is not at 7 (R248), the store queue has room for its entries
(R304), the operand log is not full behind a faulted entry of the thread (R87), and the Gleaner holds no byte of it (R80). -/
def MayAccess (u : State) (t : Nat) (flag : Option Nat) (entries : Nat) (ws : List Want) : Prop :=
  (∀ n, flag = some n → (u.thr t).flags.get n ≠ 7) ∧ (entries ≠ 0 → u.queued t + entries ≤ 16) ∧
  (u.heldBehind t u.nextId = true → u.logCount (keyCtx t) < 256) ∧
  ∀ w ∈ ws, u.gleanerHolds (u.coreOf t) w.place w.len = false

/-- The access is under way under the next number, and its flag has counted up by one (R303). -/
def accessed (u : State) (t : Nat) (op : AccOp) (lv : Level) (dst : Dst) (flag : Option Nat) (ws : List Want) : State :=
  (u.startAccess t op lv dst ws flag (u.thr t).pc).modThr t (fun x => match flag with
    | none => x
    | some n => { x with flags := x.flags.set n (x.flags.get n + 1) })

/-- The flag that a header's A or B field names, for fs 0 or 1 (R269). -/
def flagNamed (x : Thread) (f : BitVec 1) : Option Nat := if f = 0 then x.curA else x.curB

/-- The level of an lv field (R102). -/
def levelNamed (l : BitVec 2) : Level := [.l1, .l2, .sys].getD l.toNat .st

/-- Bytes of an access type (R307). -/
def typeBytes (y : BitVec 3) : Nat := [1, 1, 2, 2, 4, 8, 8, 8].getD y.toNat 8

/-- The place of n bytes at an address that passes the checks of R302 (aligned to al, inside one space). -/
def placeOf (u : State) (t : Nat) (ea : DWord) (n al : Nat) (anyLevel : Bool) : Option Place :=
  match u.checkAt t ea n al anyLevel with
  | .ok p => some p
  | .error _ => none

/-- R302, R303, R307: LD and ST issue wherever their address passes its checks: one access of the type's bytes is under way,
for a destination of the type, with the bytes of the source register, pair or a register; a load needs a flag (R269). -/
def Obligations.LoadsAndStoresIssue : Prop := ∀ (r : BitVec 6) (a : BitVec 4) (l : BitVec 2) (y : BitVec 3) (f : BitVec 1)
    (o : BitVec 9),
  let n := typeBytes y
  let ea (u : State) (t : Nat) : DWord := (u.thr t).rdA a.toNat + o.signExtend 64 * BitVec.ofNat 64 n
  let place (u : State) (t : Nat) := placeOf u t (ea u t) n n (l == 0)
  ((Instr.ld r a l y f o).wf = true →
    let want (u : State) (t : Nat) : List Want := [{ va := ea u t, place := (place u t).getD .virt, len := n, pos := 0 }]
    CompletesAs (.ld r a l y f o)
      (fun u t => (flagNamed (u.thr t) f).isSome ∧ (place u t).isSome ∧ MayAccess u t (flagNamed (u.thr t) f) 0 (want u t))
      (fun u t => accessed u t .load (levelNamed l)
        (if y = 5 then .pair r.toNat else if y = 7 then .a r.toNat else .g r.toNat y.toNat)
        (flagNamed (u.thr t) f) (want u t))) ∧
  ((Instr.st r a l y f o).wf = true →
    let src : List (BitVec 6) := if y = 7 then [] else if y = 5 then [r, r + 1] else [r]
    let bytes (x : Thread) (vs : List Word) : List Byte :=
      if y = 7 then leBytes 8 (x.rdA r.toNat).toNat
      else if y = 5 then leBytes 4 (vs.getD 0 0).toNat ++ leBytes 4 (vs.getD 1 0).toNat
      else leBytes n (vs.getD 0 0).toNat
    let want (u : State) (t : Nat) (vs : List Word) : List Want :=
      [{ va := ea u t, place := (place u t).getD .virt, len := n, pos := 0, data := bytes (u.thr t) vs }]
    CompletesAs (.st r a l y f o)
      (fun u t => Unhindered src [] none u t ∧ (let q := popped u t src
        (place q.1 t).isSome ∧ MayAccess q.1 t (flagNamed (q.1.thr t) f) 1 (want q.1 t q.2)))
      (fun u t => let q := popped u t src
        (accessed q.1 t .store (levelNamed l) .none (flagNamed (q.1.thr t) f) (want q.1 t q.2)).unlatch t
          (portsIn (src.map BitVec.toNat))))

/-- The elements of a GATHER or SCATTER that are active, with their addresses (R309): index 0x80000000 is inactive. -/
def activeAt (base : DWord) (w : WReg) : List (Nat × DWord) :=
  ((List.range 8).filter (fun e => w.data.extractLsb' (32 * e) 32 != (0x80000000 : Word))).map (fun e =>
    (e, base + 4 * (w.data.extractLsb' (32 * e) 32).signExtend 64))

/-- R268, R308, R309: the packed and the indexed accesses issue: the bytes of one register in a tag, cut at lines, or four bytes
for each active element. -/
def Obligations.PackedAccessesIssue : Prop := ∀ (r a : BitVec 4) (l : BitVec 2) (o g : BitVec 6) (f : BitVec 1),
  let full (u : State) (t : Nat) : Prop := ∀ n, (u.thr t).wEmpty.get n = false
  let fl (u : State) (t : Nat) := flagNamed (u.thr t) f
  let ea (u : State) (t n : Nat) : DWord := (u.thr t).rdA a.toNat + o.signExtend 64 * BitVec.ofNat 64 n
  let al (tag : Nat) : Nat := if State.blockTag tag then 1 else 32
  ((Instr.wld r a l o f g).wf = true →
    let n := State.footprint g.toNat
    let place (u : State) (t : Nat) := placeOf u t (ea u t n) n (al g.toNat) (l == 0)
    let want (u : State) (t : Nat) := State.wants ((place u t).getD .virt) (ea u t n) n []
    CompletesAs (.wld r a l o f g)
      (fun u t => (fl u t).isSome ∧ (place u t).isSome ∧ MayAccess u t (fl u t) 0 (want u t))
      (fun u t => accessed u t .load (levelNamed l) (.w r.toNat g) (fl u t) (want u t))) ∧
  ((Instr.wst r a l o f g).wf = true →
    let tag (u : State) (t : Nat) := ((u.thr t).rdW r.toNat).tag
    let n (u : State) (t : Nat) := State.footprint (tag u t).toNat
    let place (u : State) (t : Nat) := placeOf u t (ea u t (n u t)) (n u t) (al (tag u t).toNat) (l == 0)
    let want (u : State) (t : Nat) :=
      State.wants ((place u t).getD .virt) (ea u t (n u t)) (n u t) (State.packBytes ((u.thr t).rdW r.toNat) (tag u t).toNat)
    CompletesAs (.wst r a l o f g)
      (fun u t => full u t ∧ tag u t ≠ 0 ∧ (g = 0x3F ∨ g = tag u t) ∧ (place u t).isSome ∧ MayAccess u t (fl u t) 1 (want u t))
      (fun u t => accessed u t .store (levelNamed l) .none (fl u t) (want u t))) ∧
  (∀ (d : BitVec 4) (y : BitVec 1),
    let tag : BitVec 6 := if y = 0 then 0x01 else 0x0C
    let els (u : State) (t : Nat) := activeAt ((u.thr t).rdA a.toNat) ((u.thr t).rdW d.toNat)
    let place (u : State) (t : Nat) (e : Nat × DWord) := placeOf u t e.2 4 4 (l == 0)
    let placed (u : State) (t : Nat) : Prop := ∀ e ∈ els u t, (place u t e).isSome
    let want (u : State) (t : Nat) (data : Nat → List Byte) : List Want := (els u t).map (fun e =>
      { va := e.2, place := (place u t e).getD .virt, len := 4, pos := 4 * e.1, data := data e.1 })
    let out (u : State) (t : Nat) (e : Nat) : List Byte :=
      leBytes 4 (((u.thr t).rdW r.toNat).data.extractLsb' (32 * e) 32).toNat
    CompletesAs (.gather r a d f l y)
      (fun u t => (fl u t).isSome ∧ full u t ∧ ((u.thr t).rdW d.toNat).tag = 0x0C ∧ placed u t ∧
        MayAccess u t (fl u t) 0 (want u t (fun _ => [])))
      (fun u t => accessed u t .load (levelNamed l) (.elems r.toNat tag ((els u t).map Prod.fst)) (fl u t)
        (want u t (fun _ => []))) ∧
    CompletesAs (.scatter r a d f l y)
      (fun u t => full u t ∧ ((u.thr t).rdW d.toNat).tag = 0x0C ∧ ((u.thr t).rdW r.toNat).tag = tag ∧ placed u t ∧
        MayAccess u t (fl u t) (els u t).length (want u t (out u t)))
      (fun u t => accessed u t .store (levelNamed l) (.elems r.toNat tag ((els u t).map Prod.fst)) (fl u t)
        (want u t (out u t))))

/-- R311, R312: the atomics issue with an aligned word address, a flag, and a level .l2 or .sys; the operand may come from a queue
port. -/
def Parts.AtomicsIssue : Prop := ∀ (d b : BitVec 6) (a : BitVec 4) (f : BitVec 1) (l : BitVec 2),
  let ea (u : State) (t : Nat) : DWord := (u.thr t).rdA a.toNat
  let place (u : State) (t : Nat) := placeOf u t (ea u t) 4 4 (l == 0)
  let want (u : State) (t : Nat) : List Want := [{ va := ea u t, place := (place u t).getD .virt, len := 4, pos := 0 }]
  let may (src : List (BitVec 6)) (u : State) (t : Nat) : Prop := (flagNamed (u.thr t) f).isSome ∧
    Unhindered src [] none u t ∧ (let q := (popped u t src).1
      (place q t).isSome ∧ MayAccess q t (flagNamed (q.thr t) f) 0 (want q t))
  let go (src : List (BitVec 6)) (op : List Word → AccOp) (u : State) (t : Nat) : State :=
    let q := popped u t src
    (accessed q.1 t (op q.2) (if l = 0 then .l2 else .sys) (.g d.toNat 4) (flagNamed (q.1.thr t) f) (want q.1 t)).unlatch t
      (portsIn (src.map BitVec.toNat))
  (∀ e ∈ [(Instr.atomAdd d a b f l, 0), (.atomMinI d a b f l, 1), (.atomMinN d a b f l, 2), (.atomMaxI d a b f l, 3),
      (.atomMaxN d a b f l, 4), (.atomAnd d a b f l, 5), (.atomOr d a b f l, 6), (.atomXor d a b f l, 7),
      (.atomXchg d a b f l, 8), (.atomFadd d a b f l, 9), (.atomBump d a b f l, 10)],
    e.1.wf = true → CompletesAs e.1 (may [b]) (go [b] (fun vs => .rmw e.2 (vs.getD 0 0)))) ∧
  ((Instr.acas d a b f l).wf = true →
    CompletesAs (.acas d a b f l) (may [b, b + 1]) (go [b, b + 1] (fun vs => .cas (vs.getD 0 0) (vs.getD 1 0))))

/-- R311, R312: the word that an atomic leaves of the old word w and the operand y: a sum, a minimum or maximum (signed and
unsigned), bitwise operations, an exchange, an F32 sum in round to nearest even, a bounded increment; a compare and swap
writes only on a match. -/
def Parts.AtomicFunctions : Prop := ∀ w y n : Word,
  (∀ e ∈ [(0, w + y), (1, if w.sle y then w else y), (2, if w.ule y then w else y), (3, if w.sle y then y else w),
      (4, if w.ule y then y else w), (5, w &&& y), (6, w ||| y), (7, w ^^^ y), (8, y),
      (9, BitVec.ofNat 32 (fadd .rne w.toNat y.toNat).1), (10, if w.ult y then w + 1 else w)],
    AccOp.writes (.rmw e.1 y) w = some e.2) ∧
  AccOp.writes (.cas y n) y = some n ∧ (w ≠ y → AccOp.writes (.cas y n) w = none)

/-- R311, R312: the atomics, at issue and at the home. -/
def Obligations.Atomics : Prop := Parts.AtomicsIssue ∧ Parts.AtomicFunctions

/-- R303: what the issue of an access does and does not do.  One access is under way under the next number, for its thread, at
its PC, with the bytes it will store; the flag is the only register that changes; no byte of any memory changes. -/
def Parts.AccessIssueFrame : Prop := ∀ (u : State) (t : Nat) (op : AccOp) (lv : Level) (dst : Dst) (flag : Option Nat)
    (ws : List Want),
  let v := accessed u t op lv dst flag ws
  (∃ a, v.accs.get u.nextId = some a ∧ a.thr = t ∧ a.core = u.coreOf t ∧ a.op = op ∧ a.lv = lv ∧ a.dst = dst ∧
    a.flag = flag ∧ a.pc = (u.thr t).pc ∧
    a.pieces.map (fun p => (p.va, p.place, p.len, p.pos, p.data)) = ws.map (fun w => (w.va, w.place, w.len, w.pos, w.data)) ∧
    (∀ p ∈ a.pieces, p.st = .queued ∨ (p.st = .walk ∧ p.place = .virt))) ∧
  v.nextId = u.nextId + 1 ∧ (∀ j, j ≠ u.nextId → v.accs.get j = u.accs.get j) ∧
  (∀ j, j ≠ t → v.thr j = u.thr j) ∧ v.thr t = { u.thr t with flags := (v.thr t).flags } ∧
  (∀ n, flag = some n → (v.thr t).flags.get n = (u.thr t).flags.get n + 1) ∧
  (∀ n, flag ≠ some n → (v.thr t).flags.get n = (u.thr t).flags.get n) ∧
  v.mem = u.mem ∧ v.lane = u.lane ∧ v.pad = u.pad ∧ v.clus = u.clus ∧ v.dsp = u.dsp ∧ v.l1 = u.l1 ∧ v.owner = u.owner

/-- R302: an address that the size does not divide traps ALIGN, and one outside every space traps ADDRESS, before the flag counts
and before anything is under way. -/
def Parts.AccessTraps : Prop := ∀ (r : BitVec 6) (a : BitVec 4) (l : BitVec 2) (y : BitVec 3) (f : BitVec 1) (o : BitVec 9)
    (s : State) (sel : Sel) (k : Nat), Alone s sel k 2 → NoPorts [r] →
  (∀ g, 1 ≤ g → g < 60 → (s.thr (sel.key k)).gEmpty.get g = false) → (flagNamed (s.thr (sel.key k)) f).isSome →
  let n := typeBytes y
  let ea : DWord := (s.thr (sel.key k)).rdA a.toNat + o.signExtend 64 * BitVec.ofNat 64 n
  let both (i : TrapInfo) : Prop :=
    ((Instr.ld r a l y f o).wf = true → TrapsAs (.ld r a l y f o) s sel k i) ∧
    ((Instr.st r a l y f o).wf = true → TrapsAs (.st r a l y f o) s sel k i)
  (ea.toNat % n ≠ 0 → both (trapAt .align ea)) ∧
  (ea.toNat % n = 0 → s.locate (sel.key k) ea n = none → both (trapAt .address ea))

/-- R95, R96: the space that the top four bits of an address select: translated memory for canonical addresses, the four local
spaces inside the group's allocation, and nothing else. -/
def Parts.AddressSpaces : Prop := ∀ (s : State) (t : Nat) (ea : DWord) (n : Nat),
  let sel := ea.toNat / 2 ^ 60
  let off := ea.toNat % 2 ^ 32
  let g := s.group (s.thr t).group
  ((sel = 0 ∨ sel = 15) → s.locate t ea n = if canonical ea then some .virt else none) ∧
  ((sel = 8 ∨ sel = 9 ∨ sel = 10 ∨ sel = 11) → ea.toNat / 2 ^ 32 % 2 ^ 28 ≠ 0 → s.locate t ea n = none) ∧
  (1 ≤ sel ∧ sel ≤ 7 ∨ 12 ≤ sel ∧ sel ≤ 14 → s.locate t ea n = none) ∧
  (ea.toNat / 2 ^ 32 % 2 ^ 28 = 0 →
    (sel = 8 → (s.locate t ea n).isSome = decide (off + n ≤ g.lane)) ∧
    (sel = 9 → (s.locate t ea n).isSome = decide (off + n ≤ g.padLen)) ∧
    (sel = 10 → (s.locate t ea n).isSome = decide (off + n ≤ g.cluLen)) ∧
    (sel = 11 → (s.locate t ea n).isSome = decide (off + n ≤ (s.window (coreDie (s.coreOf t)) (s.tenantOf t)).2)))

/-- R95, R96, R302, R303: what the issue of an access changes and what it leaves, and where it traps. -/
def Obligations.AccessesAtIssue : Prop := Parts.AccessIssueFrame ∧ Parts.AccessTraps ∧ Parts.AddressSpaces

/-- R87, R106, R110–R112, R310, R313: PREF requests its line and drops a fault; FENCE goes on once its
predecessors are performed at its scope, and with loads behind it at cluster scope or wider invalidates what the core's L1
does not have registered; until then it holds its troupe.  Behind a faulted entry of its thread it becomes an entry itself. -/
def Obligations.PrefetchAndFence : Prop :=
  (∀ (a : BitVec 4) (l : BitVec 2) (o : BitVec 9), (Instr.pref a l o).wf = true →
    let ea (u : State) (t : Nat) : DWord := (u.thr t).rdA a.toNat + o.signExtend 64
    CompletesAs (.pref a l o)
      (fun u t => ((ea u t).toNat / 2 ^ 60 = 0 ∨ (ea u t).toNat / 2 ^ 60 = 15) ∧ canonical (ea u t) = true)
      (fun u t => prefLine u t l (ea u t))) ∧
  (∀ (a : BitVec 4) (o : BitVec 9),
    CompletesAs (.pref a 0 o)
      (fun u t => let e := ((u.thr t).rdA a.toNat + o.signExtend 64).toNat
        8 ≤ e / 2 ^ 60 ∧ e / 2 ^ 60 ≤ 11 ∧ e / 2 ^ 32 % 2 ^ 28 = 0) (fun u _ => u)) ∧
  (∀ (p q : BitVec 5) (c : BitVec 3), (Instr.fence p q c).wf = true → p ≠ 0 → q ≠ 0 →
    CompletesAs (.fence p q c)
      (fun u t => u.heldBehind t u.nextId = false ∧ u.performed t u.nextId c.toNat p = true)
      (fun u t =>
        let v := if q.getLsbD 0 ∧ 2 ≤ c.toNat then
            { u with l1 := u.l1.drop (fun k x => k / 2 ^ 38 == u.coreOf t && !x.reg) } else u
        v.modThr t (fun x => { x with seen := x.seen.filter (fun r => (u.regns.get r).isSome) })) ∧
    CompletesAs (.fence p q c)
      (fun u t => u.heldBehind t u.nextId = true ∧ MayAccess u t none 0 [])
      (fun u t => accessed u t (.fence p q c.toNat) .l1 .none none []) ∧
    (∀ s sel k, Alone s sel k 2 → s.heldBehind (sel.key k) s.nextId = false → s.performed (sel.key k) s.nextId c.toNat p = false →
      exec (.fence p q c) s = .next { s with sel := none })) ∧
  (∀ (p q : BitVec 5) (c : BitVec 3), p = 0 ∨ q = 0 → Alters (.fence p q c) id)

/-! ## Barriers, arrival tags, queues and the heap -/

/-- Where a barrier number leads a thread (R50, R51). -/
def barrierOf (u : State) (t : Nat) (b : BitVec 6) (far : Bool) : Option (Nat × Bool) := u.resolve t b.toNat far

/-- The thread may arrive (R52, R53): the barrier is not DEAD, the thread has no arrival standing there, and its earlier loads,
stores and posts are performed at core scope. -/
def MayArrive (u : State) (t p : Nat) (own : Bool) : Prop :=
  (u.barrier (keyCtx t) p).dead = false ∧ (own = true → (u.barrier (keyCtx t) p).arrived.get (keySlot t) = false) ∧
  u.released t 1 = true

/-- The thread's wait on a barrier is over: its mark is gone, and a release under way lets it go no more (R52, R57). -/
def waitOver (u : State) (t : Nat) : State :=
  let v := match (u.thr t).sync with
    | none => u
    | some p =>
      let b := u.barrier (keyCtx t) p
      u.setBarrier (keyCtx t) p { b with releasing := b.releasing.map (fun (r : Nat × List Nat) => (r.1, r.2.filter (fun k => k ≠ keySlot t))) }
  v.modThr t (fun x => { x with sync := none })

/-- R51–R57, R314: the barrier instructions.  An arrival counts and gives the old phase; a wait whose phase is over goes on, and
a SYNC goes on in the new phase; INIT gives the barriers of its range their count and keeps PHASE; TEST gives the phase and the number.
That INIT also resets the level of an older sub-group range with the same base is the model's choice (log 11). -/
def Obligations.BarrierInstructions : Prop :=
  (∀ d b : BitVec 6, (Instr.barArrive d b).wf = true →
    CompletesAs (.barArrive d b)
      (fun u t => ∃ p own, barrierOf u t b true = some (p, own) ∧ MayArrive u t p own)
      (fun u t => match barrierOf u t b true with
        | none => u
        | some (p, own) => (u.arrive t p own).modThr t (fun x =>
            x.wrG d.toNat (if (u.barrier (keyCtx t) p).phase then 1 else 0)))) ∧
  (∀ a b : BitVec 6,
    CompletesAs (.barWait a b)
      (fun u t => Unhindered [a] [] none u t ∧ (let q := popped u t [a]
        ∃ p own, barrierOf q.1 t b false = some (p, own) ∧
          (q.1.barrier (keyCtx t) p).phase ≠ (q.2.getD 0 0).getLsbD 0 ∧
          ((q.1.barrier (keyCtx t) p).dead = false ∨ (q.1.thr t).sync = some p)))
      (fun u t => (waitOver (popped u t [a]).1 t).unlatch t (portsIn [a.toNat]))) ∧
  (∀ b : BitVec 6,
    CompletesAs (.barSync b)
      (fun u t => ∃ p own, barrierOf u t b false = some (p, own) ∧ (u.thr t).sync = some p ∧
        (u.barrier (keyCtx t) p).phase ≠ (u.thr t).phase) waitOver ∧
    ∀ s sel k p own, Alone s sel k 2 → barrierOf s (sel.key k) b false = some (p, own) → (s.thr (sel.key k)).sync ≠ some p →
      MayArrive s (sel.key k) p own →
      BlocksAs (.barSync b) s sel k (fun u t =>
        (u.modThr t (fun x => { x with sync := some p, phase := (u.barrier (keyCtx t) p).phase })).arrive t p own)
        (.barrier p)) ∧
  (∀ (a b : BitVec 6) (l : BitVec 3), NoPorts [a] →
    ∀ s sel k, Alone s sel k 2 → someEmpty (s.thr (sel.key k)) [a.toNat] [] = false →
      let t := sel.key k
      let x := s.thr t
      let g := s.group x.group
      let top := (s.kernel g.kernel).groupLevel
      let n : Word := x.rdG a.toNat
      let u := if l.toNat = top then 1 else lvnProduct x l.toNat top
      let base := g.barBase + b.toNat
      let c := keyCtx t
      1 ≤ l.toNat → l.toNat ≤ top → b.toNat < 32 → n.toNat ≤ 1024 → b.toNat + u < g.barCount + 1 → 1 ≤ u →
      (barrierOf s t b false).isSome → (∀ i, i < u → (s.barrier c (base + i)).count = 0) →
      ∃ v, exec (.barInit a b l) s = .next v ∧
        (∀ i, i < u → let y := v.barrier c (base + i)
          y.expect = (if n = 0 then lvnProduct x 0 l.toNat else n.toNat) ∧ y.count = 0 ∧ y.drops = 0 ∧ y.dead = false ∧
          y.phase = (s.barrier c (base + i)).phase ∧ y.level = (if l.toNat = top then 0 else l.toNat) ∧ y.rbase = b.toNat ∧ ∀ j, y.arrived.get j = false) ∧
        (∀ p, ¬ (base ≤ p ∧ p < base + u) →
          v.barrier c p = (let y := s.barrier c p
            if g.barBase ≤ p ∧ p < g.barBase + g.barCount ∧ y.level ≠ 0 ∧ y.rbase = b.toNat then { y with level := 0 } else y)) ∧
        v.thr t = stepPast s x 2 ∧ (∀ j, j ≠ t → v.thr j = s.thr j) ∧ v.mem = s.mem) ∧
  (∀ (d b : BitVec 6) (p : BitVec 3), (Instr.barTest d b p).wf = true →
    CompletesAs (.barTest d b p) (fun u t => (barrierOf u t b true).isSome)
      (fun u t => match barrierOf u t b true with
        | none => u
        | some (q, _) => u.modThr t (fun x => (x.wrP p.toNat ((u.barrier (keyCtx t) q).count == 0)).wrG d.toNat
            (BitVec.ofNat 32 ((if (u.barrier (keyCtx t) q).phase then 32 else 0) + q))))) ∧
  (∀ b : BitVec 6,
    CompletesAs (.barDrop b)
      (fun u t => ∃ p own, barrierOf u t b false = some (p, own) ∧ (u.barrier (keyCtx t) p).expect ≠ 0)
      (fun u t => match barrierOf u t b false with
        | none => u
        | some (p, _) => u.dropAt t p))

/-- R52: an arrival that completes the count flips the phase and clears count, arrivals and drops; one that does not only
counts, and marks the thread. -/
def Parts.ArrivalsCount : Prop := ∀ (u : State) (t p : Nat) (own : Bool),
  let b := u.barrier (keyCtx t) p
  let v := u.arrive t p own
  let c := v.barrier (keyCtx t) p
  (0 < b.expect → b.expect ≤ b.count + 1 →
    c.phase = !b.phase ∧ c.count = 0 ∧ c.drops = 0 ∧ c.expect = b.expect - b.drops ∧ (∀ j, c.arrived.get j = false) ∧
    c.releasing.length = b.releasing.length + 1) ∧
  (b.count + 1 < b.expect →
    c.phase = b.phase ∧ c.count = b.count + 1 ∧ c.expect = b.expect ∧ c.drops = b.drops ∧ c.releasing = b.releasing ∧
    c.arrived.get (keySlot t) = (own || b.arrived.get (keySlot t))) ∧
  (∀ q, q ≠ p → v.barrier (keyCtx t) q = u.barrier (keyCtx t) q) ∧ v.threads = u.threads ∧ v.mem = u.mem

/-- R50, R52, R54: a number that names no barrier of the thread's group traps BARRIER, and so does an arrival at a DEAD barrier. -/
def Parts.BarrierTraps : Prop := ∀ (d b : BitVec 6) (s : State) (sel : Sel) (k : Nat), Alone s sel k 2 →
  (barrierOf s (sel.key k) b false = none →
    TrapsAs (.barSync b) s sel k (trapOf .barrier) ∧ TrapsAs (.barDrop b) s sel k (trapOf .barrier)) ∧
  ((Instr.barArrive d b).wf = true → (barrierOf s (sel.key k) b true = none ∨
      ∃ p own, barrierOf s (sel.key k) b true = some (p, own) ∧ (s.barrier (keyCtx (sel.key k)) p).dead = true) →
    TrapsAs (.barArrive d b) s sel k (trapOf .barrier))

/-- R50, R52, R54: arrivals, and the traps of barriers. -/
def Obligations.BarrierCounts : Prop := Parts.ArrivalsCount ∧ Parts.BarrierTraps

/-- R59–R61, R315: the arrival tags of the thread's context.  TWAITANY goes on with any of its tags, TWAITALL with all, and
until then their thread blocks; TFIRST gives the lowest number or 0xFFFFFFFF; TTEST a predicate; TSET and TCLR take a
place in the store queue. -/
def Obligations.TagInstructions : Prop :=
  let tags (u : State) (t : Nat) : DWord := (u.ctx (keyCtx t)).tags
  (∀ a : BitVec 4,
    let m (u : State) (t : Nat) : DWord := (u.thr t).rdA a.toNat
    CompletesAs (.twaitany a) (fun u t => tags u t &&& m u t ≠ 0) (fun u _ => u) ∧
    CompletesAs (.twaitall a) (fun u t => tags u t &&& m u t = m u t) (fun u _ => u) ∧
    (∀ s sel k, Alone s sel k 2 → m s (sel.key k) ≠ 0 → tags s (sel.key k) &&& m s (sel.key k) = 0 →
      BlocksAs (.twaitany a) s sel k (fun u _ => u) (.tags (m s (sel.key k)) false) ∧
      BlocksAs (.twaitall a) s sel k (fun u _ => u) (.tags (m s (sel.key k)) true)) ∧
    (∀ s sel k, Alone s sel k 2 → m s (sel.key k) = 0 → TrapsAs (.twaitany a) s sel k (trapOf .barrier)) ∧
    (∀ d : BitVec 6, (Instr.tfirst d a).wf = true →
      CompletesAs (.tfirst d a) (fun _ _ => True) (fun u t => u.modThr t (fun x => x.wrG d.toNat
        (if tags u t &&& m u t = 0 then 0xFFFFFFFF else BitVec.ofNat 32 (tags u t &&& m u t).ctz.toNat)))) ∧
    (∀ d : BitVec 3, CompletesAs (.ttest d a) (fun _ _ => True)
      (fun u t => u.modThr t (fun x => x.wrP d.toNat (tags u t &&& m u t != 0)))) ∧
    (let want : List Want := [{ va := 0, place := .lane 0, len := 0, pos := 0 }]
     CompletesAs (.tset a) (fun u t => MayAccess u t none 1 want) (fun u t => accessed u t (.tset (m u t)) .l1 .none none want) ∧
     CompletesAs (.tclr a) (fun u t => MayAccess u t none 1 want) (fun u t => accessed u t (.tclr (m u t)) .l1 .none none want)))

/-- R62–R67, R74, R316, R317: QBIND binds a port to a queue that its thread may use; QSTAT gives count, direction and state;
QCLOSE closes; QTRY pushes or pops without blocking and says in p7 whether it did. -/
def Parts.QueueInstructions : Prop :=
  (∀ (q : BitVec 2) (a : BitVec 4) (b : BitVec 1),
    let va (u : State) (t : Nat) : DWord := (u.thr t).rdA a.toNat
    CompletesAs (.qbind q a b)
      (fun u t => canonical (va u t) = true ∧ (va u t).toNat % 64 = 0 ∧ ∃ v pa,
        u.translate (u.coreOf t) (u.ctx (keyCtx t)).asid (va u t).toNat .read = .ok (v, pa) ∧
        (let x := v.queue pa
         x.state ≠ .free ∧ x.malformed = false ∧ x.tenant = u.tenantOf t ∧
         (x.kind = 0 → x.cluster = coreCluster (u.coreOf t)) ∧
         (if b = 1 then x.kind = 0 ∨ x.kind = 1 ∨ x.kind = 2 ∨ x.kind = 5 else x.kind = 0 ∨ x.kind = 1 ∨ x.kind = 3 ∨ x.kind = 4)))
      (fun u t => match u.translate (u.coreOf t) (u.ctx (keyCtx t)).asid (va u t).toNat .read with
        | .ok (v, pa) => v.modThr t (fun x =>
            { x with ports := x.ports.set q.toNat { bound := true, push := decide (b = 1), va := va u t, q := pa, gen := (v.queue pa).gen }
                     portIn := x.portIn.set q.toNat none })
        | .error _ => u)) ∧
  (∀ (d : BitVec 6) (q : BitVec 2),
    let bound (u : State) (t : Nat) : Prop :=
      ((u.thr t).ports.get q.toNat).bound = true ∧ u.names ((u.thr t).ports.get q.toNat) (u.portQueue t q.toNat) = true
    ((Instr.qstat d q).wf = true → CompletesAs (.qstat d q) bound (fun u t =>
      let x := u.queue (u.portQueue t q.toNat)
      u.modThr t (fun y => y.wrG d.toNat (BitVec.ofNat 32
        (min (x.tail - x.head).toNat 0xFFFFFF * 256 + (if ((u.thr t).ports.get q.toNat).push then 8 else 0) + x.state.code))))) ∧
    CompletesAs (.qclose q) bound (fun u t => u.closeQueue (u.portQueue t q.toNat)) ∧
    (∀ s sel k, Alone s sel k 2 → ((s.thr (sel.key k)).ports.get q.toNat).bound = false →
      TrapsAs (.qclose q) s sel k (trapOf .queue) ∧
      ((Instr.qstat d q).wf = true → TrapsAs (.qstat d q) s sel k (trapOf .queue)))) ∧
  (∀ (d : BitVec 6) (q : BitVec 2) (b : BitVec 6), (Instr.qtry d q b).wf = true →
    let qu (u : State) (t : Nat) := u.portQueue t q.toNat
    let port (u : State) (t : Nat) := (u.thr t).ports.get q.toNat
    let full (u : State) (t : Nat) : Prop :=
      ((port u t).push = true → someEmpty (u.thr t) [b.toNat] [] = false) ∧ (port u t).bound = true ∧ u.names (port u t) (qu u t) = true
    let c (u : State) (t : Nat) := u.ctx (keyCtx t)
    CompletesAs (.qtry d q b)
      (fun u t => full u t ∧ (port u t).push = true ∧ (u.queue (qu u t)).state ≠ .closing ∧ (u.queue (qu u t)).state ≠ .closed ∧
        (u.queue (qu u t)).count < (u.queue (qu u t)).cap ∧ u.released t (u.queue (qu u t)).scope = true)
      (fun u t => (u.push (qu u t) (coreDie (c u t).core) (keyCtx t) (c u t).tenant.toNat (c u t).asid
        ((u.thr t).rdG b.toNat) (c u t).core).modThr t (fun x => x.wrP 7 true)) ∧
    CompletesAs (.qtry d q b)
      (fun u t => full u t ∧ (port u t).push = false ∧ (u.queue (qu u t)).state ≠ .closed ∧ (u.queue (qu u t)).count ≠ 0 ∧
        u.entryPoison (qu u t) (coreDie (c u t).core) 0 = none)
      (fun u t =>
        let r := u.pop (qu u t) (coreDie (c u t).core) (c u t).core
        (r.1.acquire (c u t).core (u.queue (qu u t)).scope).modThr t (fun x => (x.wrG d.toNat r.2).wrP 7 true)) ∧
    CompletesAs (.qtry d q b)
      (fun u t => full u t ∧ (if (port u t).push then (u.queue (qu u t)).state ≠ .closing ∧ (u.queue (qu u t)).state ≠ .closed ∧
          (u.queue (qu u t)).cap ≤ (u.queue (qu u t)).count
        else (u.queue (qu u t)).state ≠ .closed ∧ (u.queue (qu u t)).count = 0))
      (fun u t => u.modThr t (fun x => x.wrP 7 false)))

/-- No binding watches a word of n bytes from an address (R144). -/
def Unwatched (s : State) (pa n : Nat) : Prop :=
  ∀ p k, ∀ w ∈ wordsOf pa n, State.regionsOf ((s.part p).bindings.get k) w = []

/-- R62–R66: a hardware FIFO.  A push appends the value and a pop takes the oldest one; the count moves by one, the state
follows it, the descriptor in device memory follows both, and no byte of memory outside it changes. -/
def Parts.FifoOrder : Prop := ∀ (s : State) (q die ctx tenant : Nat) (asid : BitVec 16) (v : Word),
  let x := s.queue q
  let kept (t : State) : Prop := t.mem.bytes q 64 = (t.queue q).bytes ∧ ∀ a, a < q ∨ q + 64 ≤ a → t.mem.get a = s.mem.get a
  q % 64 = 0 → Unwatched s q 64 → x.kind = 0 → x.cap = 32 → (x.state = .empty ∨ x.state = .busy ∨ x.state = .full) →
  ((x.tail - x.head).toNat < 32 →
    let y := (s.push q die ctx tenant asid v).queue q
    y.entries = x.entries ++ [v.toNat] ∧ y.tail = x.tail + 1 ∧ y.head = x.head ∧
    y.state = (if (x.tail - x.head).toNat = 31 then .full else .busy) ∧ kept (s.push q die ctx tenant asid v)) ∧
  (1 ≤ (x.tail - x.head).toNat → (x.tail - x.head).toNat ≤ 32 →
    let r := s.pop q die
    let y := r.1.queue q
    r.2 = BitVec.ofNat 32 (x.entries.headD 0) ∧ y.entries = x.entries.tail ∧ y.head = x.head + 1 ∧ y.tail = x.tail ∧
    y.state = (if (x.tail - x.head).toNat = 1 then .empty else .busy) ∧ kept r.1)

/-- R62–R67, R74, R316, R317: the queue instructions, and the order of a hardware FIFO. -/
def Obligations.Queues : Prop := Parts.QueueInstructions ∧ Parts.FifoOrder

/-- R72, R73, R318: HPUSH, HPOP and HTRY send an operation to the die's heap, for a process that holds the heap; without it they
trap QUEUE. -/
def Obligations.HeapInstructions : Prop := ∀ (g : BitVec 6) (a : BitVec 4) (f : BitVec 1),
  let flag (u : State) (t : Nat) := flagNamed (u.thr t) f
  let granted (u : State) (t : Nat) : Prop :=
    let d := u.die (coreDie (u.coreOf t))
    d.heapValid = true ∧ d.heapAsid = (u.ctx (keyCtx t)).asid
  let free (u : State) (t : Nat) : Prop := ∀ n, flag u t = some n → (u.thr t).flags.get n ≠ 7
  let sent (u : State) (t : Nat) (kind : HeapKind) (key : Word) (payload : DWord) (dg da : Nat) : State :=
    let o : HeapOp := { thr := t, die := coreDie (u.coreOf t), kind := kind, key := key, payload := payload, dstG := dg,
                        dstA := da, flag := flag u t, pc := (u.thr t).pc, waiting := false, due := u.cycle + 130,
                        batch := u.issueOf t }
    ({ u with heapOps := u.heapOps.set u.nextId (some o), nextId := u.nextId + 1 } : State).modThr t (fun x => x.flagUp (flag u t))
  CompletesAs (.hpush g a f)
    (fun u t => (flag u t).isSome ∧ Unhindered [g] [] none u t ∧ (let q := (popped u t [g]).1
      granted q t ∧ free q t ∧ q.released t 3 = true))
    (fun u t => let q := popped u t [g]
      (sent q.1 t .push (q.2.getD 0 0) ((q.1.thr t).rdA a.toNat) 0 0).unlatch t (portsIn [g.toNat])) ∧
  ((Instr.hpop g a f).wf = true →
    CompletesAs (.hpop g a f) (fun u t => (flag u t).isSome ∧ granted u t ∧ free u t)
      (fun u t => sent u t .pop 0 0 g.toNat a.toNat)) ∧
  ((Instr.htry g a f).wf = true →
    CompletesAs (.htry g a f) (fun u t => (flag u t).isSome ∧ granted u t ∧ free u t)
      (fun u t => sent u t .try_ 0 0 g.toNat a.toNat)) ∧
  (∀ s sel k, Alone s sel k 2 → (Instr.hpop g a f).wf = true → (flag s (sel.key k)).isSome → ¬ granted s (sel.key k) →
    TrapsAs (.hpop g a f) s sel k (trapOf .queue))

/-! ## The register fabric -/

/-- R344–R349, R351, R353: MKH asks for a handle to registers of its thread; ARM empties registers; RPOST, RPOSTW and REVOKE send
out; each of them but ARM counts its flag, and a value or a register leaves as it stood at issue. -/
def Obligations.FabricInstructions : Prop :=
  (∀ (d : BitVec 4) (a : BitVec 6) (f : BitVec 1),
    CompletesAs (.mkh d a f)
      (fun u t => (flagNamed (u.thr t) f).isSome ∧ Unhindered [a] [] none u t ∧ (let q := popped u t [a]
        specOk (q.2.getD 0 0) = true ∧ MayAccess q.1 t (flagNamed (q.1.thr t) f) 0 [] ∧
        MayAccess (q.1.mint t (q.2.getD 0 0)).1 t (flagNamed (q.1.thr t) f) 0 []))
      (fun u t => let q := popped u t [a]
        let r := q.1.mint t (q.2.getD 0 0)
        (accessed r.1 t (.value r.2) .l1 (.a d.toNat) (flagNamed (q.1.thr t) f) []).unlatch t (portsIn [a.toNat]))) ∧
  (∀ (d : BitVec 6) (k : BitVec 1) (b : BitVec 6),
    (Instr.arm d k b).wf = true → ∀ s sel, Issues s sel 2 → ∃ t, exec (.arm d k b) s = .next t ∧ t.mem = s.mem ∧
      ∀ j ∈ sel.slots, let x := s.thr (sel.key j)
        let y := t.thr (sel.key j)
        (∀ n, y.gEmpty.get n = (if k = 0 ∧ d.toNat ≤ n ∧ n ≤ d.toNat + b.toNat then true else x.gEmpty.get n)) ∧
        (∀ n, y.wEmpty.get n = (if k = 1 ∧ d.toNat ≤ n ∧ n ≤ d.toNat + b.toNat then true else x.wEmpty.get n)) ∧
        (∀ n, y.rdG n = x.rdG n) ∧ ∀ n, y.rdW n = x.rdW n) ∧
  (∀ (d b : BitVec 6) (a : BitVec 4) (f : BitVec 1) (o : BitVec 2),
    let sent (u : State) (t : Nat) (p : Post) : State :=
      ({ u with posts := u.posts.set u.nextId (some { p with flag := flagNamed (u.thr t) f }), nextId := u.nextId + 1 } :
        State).modThr t (fun x => x.flagUp (flagNamed (u.thr t) f))
    let post (u : State) (t : Nat) (k : Word) : Post :=
      let h := (u.thr t).rdA a.toNat
      { thr := t, core := u.coreOf t, handle := h, off := (k.extractLsb' 0 6).toNat, wide := false, value := 0, wvalue := {},
        remote := k.getLsbD 16, station := (k.extractLsb' 6 10).toNat, revoke := false, acq := o.getLsbD 0, flag := none,
        pc := (u.thr t).pc, sentAt := u.now, stage := .out,
        due := u.cycle + State.postCycles (u.coreOf t) (h.extractLsb' 56 8).toNat, epoch := u.seen.get (u.coreOf t),
        batch := u.issueOf t }
    let may (u : State) (t : Nat) : Prop := MayAccess u t (flagNamed (u.thr t) f) 0 []
    CompletesAs (.rpost d a b f o)
      (fun u t => Unhindered [b, d] [] none u t ∧ (let q := popped u t [b, d]
        routeOk (q.2.getD 1 0) = true ∧ may q.1 t))
      (fun u t => let q := popped u t [b, d]
        (sent q.1 t { post q.1 t (q.2.getD 1 0) with value := q.2.getD 0 0 }).unlatch t (portsIn [b.toNat, d.toNat])) ∧
    (∀ w : BitVec 4,
      CompletesAs (.rpostw d a w f o)
        (fun u t => Unhindered [d] [w.toNat] none u t ∧ ((u.thr t).rdW w.toNat).tag ≠ 0 ∧ (let q := popped u t [d]
          routeOk (q.2.getD 0 0) = true ∧ may q.1 t))
        (fun u t => let q := popped u t [d]
          (sent q.1 t { post q.1 t (q.2.getD 0 0) with wide := true, wvalue := (q.1.thr t).rdW w.toNat }).unlatch t
            (portsIn [d.toNat]))) ∧
    CompletesAs (.revoke a f o) may (fun u t => sent u t { post u t 0 with revoke := true }))

/-! ## The engines' commands -/

/-- The next number is taken, and the flag has counted up by one. -/
def counted (u : State) (t : Nat) (flag : Option Nat) : State :=
  ({ u with nextId := u.nextId + 1 } : State).modThr t (fun x => match flag with
    | none => x
    | some n => { x with flags := x.flags.set n (x.flags.get n + 1) })

/-- The command stands in its engine's queue under the next number, and its engine knows of the settle epoch that its core has
seen (R115). -/
def enqueued (u : State) (t : Nat) (c : Cmd) : State :=
  let v := counted u t c.flag
  ({ v with cmds := v.cmds.set u.nextId (some c) } : State).passEpoch c.core (State.engAgent c.eng)

/-- The command has been accepted, and its descriptor read (R326, R328, R338): it is ready; it waits with its translation fault; or
it has ended with a trap that comes at its reply, DESC for an invalid descriptor.  Behind a faulted entry of its thread, or
while the Gleaner holds bytes that it names, it waits unread (R80, R87); the step of SRSTEP that its record asks for is taken at its
issue all the same (R234).  A matrix command whose fault finds the operand log full blocks its thread (R37, R87). -/
def accepted (u : State) (t : Nat) (c : Cmd) (d : State.Describe) : State :=
  let v := enqueued u t c
  if u.heldBehind t u.nextId then
    match d v c with
    | .ok (w, some e) =>
      let x := v.modThr t (fun x => { x with srstep := (w.thr t).srstep })
      { x with cmds := x.cmds.set u.nextId (some { c with step := e.step, drawn := true }) }
    | _ => v
  else match d v c with
    | .ok (w, some e) => { w with cmds := w.cmds.set u.nextId (some { e with ready := true, fault := none, resolved := false }) }
    | .ok (w, none) => ({ w with cmds := w.cmds.set u.nextId none } : State).laterFlag t c.pc (trapOf .desc) c.flag c.batch
    | .error (.page f va) =>
      let faulted : Cmd := { c with fault := some (f, va), resolved := false }
      let w := v.denied (coreDie c.core) c.asid va.toNat f
      if State.cmdLogged faulted ∧ 256 ≤ v.logCount (keyCtx t) then v.logFull t
      else { w with cmds := w.cmds.set u.nextId (some faulted) }
    | .error .held => v
    | .error e => ({ v with cmds := v.cmds.set u.nextId none } : State).laterFlag t c.pc e.trap c.flag c.batch

/-- Nothing holds back a command at issue: its flag, the thread's faulted entries, and its engine's queue (R87, R248, R327,
R338). -/
def MayQueue (u : State) (t : Nat) (e : Eng) (cap : Nat) (flag : Option Nat) : Prop :=
  MayAccess u t flag 0 [] ∧ u.entriesOf e (u.issueOf t) < cap

/-- R269, R327–R329, R333–R335: the matrix commands are accepted with a tile of the group's grant, the operand values read at
issue, a flag where one is required, and one of 16 queue entries of the core's array. -/
def Parts.MatrixCommandsIssue : Prop := ∀ (d : BitVec 3) (a : BitVec 4) (b : BitVec 6) (f : BitVec 1) (o : BitVec 2),
  let e (u : State) (t : Nat) : Eng := .matrix (u.coreOf t)
  let fl (u : State) (t : Nat) := flagNamed (u.thr t) f
  let goes (i : Instr) (needs : Bool) (src : List (BitVec 6)) (dsc : State.Describe) : Prop := i.wf = true →
    CompletesAs i
      (fun u t => (u.tileOf t d.toNat).isSome ∧ (needs = true → (fl u t).isSome) ∧ Unhindered src [] none u t ∧
        (let q := popped u t src
         (q.1.engPlace t ((q.1.thr t).rdA a.toNat)).isSome ∧ MayQueue q.1 t (e q.1 t) 16 (fl q.1 t)))
      (fun u t => let q := popped u t src
        let c := { q.1.newCmd t (e q.1 t) i (((q.1.thr t).rdA a.toNat).toNat :: q.2.map BitVec.toNat) (fl q.1 t) o with
          mark := (u.tileOf t d.toNat).getD 0 }
        (accepted q.1 t c dsc).unlatch t (portsIn (src.map BitVec.toNat)))
  goes (.mma d a b f o) true [b] (describeMma false) ∧
  goes (.mmas d a b f o) true [b] (describeMma true) ∧
  goes (.xld d a b f o) true [b, b + 1] (describeTile true) ∧
  goes (.xst d a b f o) false [b, b + 1] (describeTile false) ∧
  CompletesAs (.xzero d)
    (fun u t => (u.tileOf t d.toNat).isSome ∧ MayQueue u t (e u t) 16 none)
    (fun u t => accepted u t { u.newCmd t (e u t) (.xzero d) [] none 0 with mark := (u.tileOf t d.toNat).getD 0 } describeNone) ∧
  (let peer (u : State) (t : Nat) : Prop := ((u.thr t).rdA a.toNat).toNat / 2 ^ 60 = 0xC
   let src (u : State) (t : Nat) : List (BitVec 6) := if peer u t then [b] else [b, b + 1]
   CompletesAs (.xdrain d a b f o)
    (fun u t => (¬ peer u t → isPair b = true) ∧ u.drainBuffers (u.coreOf t) < 4 ∧ (u.tileOf t d.toNat).isSome ∧
      Unhindered (src u t) [] none u t ∧ (let q := popped u t (src u t)
        (¬ peer u t → (q.1.engPlace t ((q.1.thr t).rdA a.toNat)).isSome) ∧ MayQueue q.1 t (e q.1 t) 16 (fl q.1 t)))
    (fun u t => let q := popped u t (src u t)
      let v0 := ((q.1.thr t).rdA a.toNat).toNat
      let v1 := (q.2.getD 0 0).toNat
      let c := { q.1.newCmd t (e q.1 t) (.xdrain d a b f o) [v0, v1, (q.2.getD 1 0).toNat] (fl q.1 t) o with
        mark := (u.tileOf t d.toNat).getD 0 }
      (accepted q.1 t c describeDrain).unlatch t (portsIn ((src u t).map BitVec.toNat))))

/-- R247, R333: XGUARD gives a tile's FAIL bit and rerun count once no earlier command of the tile is outstanding, and clears
them when asked to; XTAG gives the tile's tag, 1.  A tile outside the grant traps ILLEGAL. -/
def Parts.TileStatus : Prop := ∀ (d : BitVec 6) (a : BitVec 3) (c : BitVec 1),
  ((Instr.xguard d a c).wf = true →
    CompletesAs (.xguard d a c)
      (fun u t => ∃ k, u.tileOf t a.toNat = some k ∧ u.tileWaits (keyCtx t) k u.nextId (fun _ => true) = false)
      (fun u t =>
        let k := (u.tileOf t a.toNat).getD 0
        let x := u.tile (keyCtx t) k
        let v := if c = 1 then u.setTile (keyCtx t) k { x with reruns := 0, fail := false } else u
        v.modThr t (fun y => y.wrG d.toNat (BitVec.ofNat 32 (256 * x.reruns.toNat + (if x.fail then 1 else 0)))))) ∧
  ((Instr.xtag d a).wf = true →
    CompletesAs (.xtag d a) (fun u t => (u.tileOf t a.toNat).isSome) (fun u t => u.modThr t (fun y => y.wrG d.toNat 1))) ∧
  (∀ s sel k, Alone s sel k 2 → s.tileOf (sel.key k) a.toNat = none →
    TrapsAs (.xzero a) s sel k (trapOf .illegal) ∧
    ((Instr.xguard d a c).wf = true → TrapsAs (.xguard d a c) s sel k (trapOf .illegal)) ∧
    ((Instr.xtag d a).wf = true → TrapsAs (.xtag d a) s sel k (trapOf .illegal)))

/-- R247, R327–R329, R333–R335: the instructions of the matrix array at issue. -/
def Obligations.MatrixCommands : Prop := Parts.MatrixCommandsIssue ∧ Parts.TileStatus

/-- R338: the streamer commands are accepted from a producer group, with a valid tag word of the cluster and one of 64 queue
entries; another group's traps RIGHTS, and a tag word with reserved bits or of another cluster traps DESC. -/
def Obligations.StreamerCommandsIssue : Prop := ∀ (a : BitVec 4) (b : BitVec 6) (f : BitVec 1) (o : BitVec 2),
  let fl (u : State) (t : Nat) := flagNamed (u.thr t) f
  let cl (u : State) (t : Nat) := coreCluster (u.coreOf t)
  let tagOk (u : State) (t : Nat) (w : Word) : Prop := w.toNat < 2 ^ 15 ∧ w.toNat / 2 ^ 7 / 8 = cl u t
  ∀ i ∈ [Instr.stream a b f o, .streamg a b f o, .scopy a b f o, .binscat a b f o, .sfill a b f o], i.wf = true →
    CompletesAs i
      (fun u t => Unhindered [b] [] none u t ∧ (let q := popped u t [b]
        (q.1.group (q.1.thr t).group).producer = true ∧ tagOk q.1 t (q.2.getD 0 0) ∧
        (q.1.engPlace t ((q.1.thr t).rdA a.toNat)).isSome ∧ MayQueue q.1 t (.streamer (cl q.1 t)) 64 (fl q.1 t)))
      (fun u t => let q := popped u t [b]
        let c := { q.1.newCmd t (.streamer (cl q.1 t)) i [((q.1.thr t).rdA a.toNat).toNat] (fl q.1 t) o with tag := q.2.getD 0 0 }
        (accepted q.1 t c describeStrm).unlatch t (portsIn [b.toNat])) ∧
    (∀ s sel k, Alone s sel k 2 → NoPorts [b] → someEmpty (s.thr (sel.key k)) [b.toNat] [] = false →
      ((s.group (s.thr (sel.key k)).group).producer = false → TrapsAs i s sel k (trapOf .rights)) ∧
      ((s.group (s.thr (sel.key k)).group).producer = true → ¬ tagOk s (sel.key k) ((s.thr (sel.key k)).rdG b.toNat) →
        TrapsAs i s sel k (trapOf .desc)))

/-- R354–R358: the commands of standing products.  BIND needs a flag and a 64-byte aligned address; the others name their
binding by number and, where they have one, their tag by a tag word of the partition; STALE and BSTAT need a flag; the
die's engine has room for 64. -/
def Obligations.StandingProductsIssue : Prop := ∀ (d b : BitVec 6) (a : BitVec 4) (f : BitVec 1) (o : BitVec 2),
  let fl (u : State) (t : Nat) := flagNamed (u.thr t) f
  let p (u : State) (t : Nat) := u.partOf (coreDie (u.coreOf t))
  let tagOk (u : State) (t : Nat) (w : Word) : Prop :=
    w.toNat < 2 ^ 15 ∧ w.toNat / 2 ^ 7 < 224 ∧ u.partOf (coreDie (w.toNat / 2 ^ 7)) = p u t
  let named (i : Instr) (needs : Bool) (tagG : BitVec 6) (o : BitVec 2) : Prop := i.wf = true →
    let src := [b, tagG]
    let tag (q : State × List Word) : Word := if tagG = 0 then 64 else q.2.getD 1 0
    let eng (q : State × List Word) (t : Nat) : Eng := .spe (q.1.speDie (p q.1 t) (q.2.getD 0 0).toNat)
    CompletesAs i
      (fun u t => (needs = true → (fl u t).isSome) ∧ Unhindered src [] none u t ∧ (let q := popped u t src
        (tagG ≠ 0 → tagOk q.1 t (tag q)) ∧ MayQueue q.1 t (eng q t) 64 (fl q.1 t)))
      (fun u t => let q := popped u t src
        let n := (q.2.getD 0 0).toNat
        (enqueued q.1 t { q.1.newCmd t (eng q t) i [n] (fl q.1 t) o with scope := 4, tag := tag q, mark := n + 1 }).unlatch t
          (portsIn (src.map BitVec.toNat)))
  ((Instr.bind d a f o).wf = true →
    let e (u : State) (t : Nat) : Eng := .spe (coreDie (u.coreOf t))
    let va (u : State) (t : Nat) : DWord := (u.thr t).rdA a.toNat
    CompletesAs (.bind d a f o)
      (fun u t => (fl u t).isSome ∧ canonical (va u t) = true ∧ (va u t).toNat % 64 = 0 ∧ MayQueue u t (e u t) 64 (fl u t))
      (fun u t => (enqueued u t { u.newCmd t (e u t) (.bind d a f o) [(va u t).toNat] (fl u t) o with
        scope := 4, tag := 64 }).bindTry u.nextId) ∧
    ∀ s sel k, Alone s sel k 2 → (fl s (sel.key k)).isSome → canonical (va s (sel.key k)) = false ∨ (va s (sel.key k)).toNat % 64 ≠ 0 →
      TrapsAs (.bind d a f o) s sel k (trapAt .address (va s (sel.key k)))) ∧
  named (.unbind b f o) false 0 o ∧ named (.settle d b f o) false d o ∧ named (.recomp d b f o) false d o ∧
  named (.stale d b f) true 0 0 ∧ named (.bstat d b f) true 0 0

/-- R269, R359–R365: the prefix commands are accepted with a flag, an address inside some space where they have one, and the
operand values read at issue; commands that name a sequence are kept in order by its index, and a PXUNREF that waits behind
earlier ones makes it RELEASING (R172). -/
def Obligations.PrefixCommandsIssue : Prop := ∀ (d b : BitVec 6) (da a : BitVec 4) (f : BitVec 1) (o : BitVec 2),
  let fl (u : State) (t : Nat) := flagNamed (u.thr t) f
  let e (u : State) (t : Nat) : Eng := .pfx (coreDie (u.coreOf t))
  let goes (i : Instr) (o : BitVec 2) (addr : Bool) (src : List (BitVec 6)) (ordered : Bool) : Prop := i.wf = true →
    CompletesAs i
      (fun u t => (fl u t).isSome ∧ Unhindered src [] none u t ∧ (let q := popped u t src
        (addr = true → (q.1.engPlace t ((q.1.thr t).rdA a.toNat)).isSome) ∧ MayQueue q.1 t (e q.1 t) 64 (fl q.1 t)))
      (fun u t => let q := popped u t src
        let vals := (if addr then [((q.1.thr t).rdA a.toNat).toNat] else []) ++ q.2.map BitVec.toNat
        let mark := if ordered then (q.2.getD 0 0).toNat % 2 ^ 20 + 1 else 0
        let v := enqueued q.1 t { q.1.newCmd t (e q.1 t) i vals (fl q.1 t) o with scope := 4, tag := 64, mark := mark }
        (match i with
          | .pxunref _ _ _ _ => v.unrefWaits q.1.nextId
          | _ => v).unlatch t (portsIn (src.map BitVec.toNat)))
  goes (.pxfind d a f o) o true [] false ∧ goes (.pxins d a b f o) o true [b, b + 1] true ∧
  goes (.pxref d a b f o) o true [b] true ∧ goes (.pxunref d b f o) o false [b] true ∧
  goes (.kvapp d b f o) o false [b, b + 1] true ∧ goes (.kvtrim d b f o) o false [b, b + 1] true ∧
  goes (.kvxlat da b f) 0 false [b, b + 1] true ∧ goes (.attn d a f o) o true [] false

/-! ## Packed instructions -/

/-- A packed instruction: for sources in accepted tags it writes a w register, unused bits zero, and ors its FSTAT bits; other
tags trap FORMAT (R233, R320). -/
def PackedResult (i : Instr) (d : BitVec 4) (ws : List (BitVec 4)) (ok : List WReg → Prop)
    (v : RMode → List WReg → WReg × BitVec 5) : Prop :=
  i.wf = true →
    (∀ s sel, Issues s sel i.parcels → Filled s sel [] (ws.map BitVec.toNat) →
      (∀ k ∈ sel.slots, ok (ws.map (fun w => (s.thr (sel.key k)).rdW w.toNat))) →
      Changes i s sel (fun x =>
        let r := v (modeOf x) (ws.map (fun w => x.rdW w.toNat))
        { x with fstat := x.fstat ||| r.2 }.wrW d.toNat r.1)) ∧
    (∀ s sel k, Alone s sel k i.parcels → Filled s sel [] (ws.map BitVec.toNat) →
      ¬ ok (ws.map (fun w => (s.thr (sel.key k)).rdW w.toNat)) → TrapsAs i s sel k (trapOf .format))

/-- All registers are in one of the tags. -/
def tagsIn (ts : List Nat) (l : List WReg) : Prop := ∃ t ∈ ts, ∀ r ∈ l, r.tag.toNat = t

/-- The FSTAT bits of several results. -/
def orFlags (rs : List Res) : BitVec 5 := rs.foldl (fun f r => f ||| r.2) 0

/-- A register of results in an unscaled tag, with their FSTAT bits. -/
def packedOf (tag : Nat) (rs : List Res) : WReg × BitVec 5 := ((regOf tag (rs.map Prod.fst)).clean, orFlags rs)

/-- Element by element over registers of one of the tags F32, F16, BF16 and I32: an operation of a float format, or one of I32. -/
def elementwise (f : Fmt → RMode → List Nat → Res) (g : List Word → Word) (m : RMode) (l : List WReg) : WReg × BitVec 5 :=
  let tag := ((l.map (fun r => r.tag.toNat)).headD 0)
  let n := if tag = 2 ∨ tag = 3 then 16 else 8
  packedOf tag ((List.range n).map (fun e =>
    let bits := l.map (fun r => regBits r e)
    if tag = 1 then f f32 m bits else if tag = 2 then f f16 m bits else if tag = 3 then f bf16 m bits
    else ((g (bits.map (BitVec.ofNat 32))).toNat, 0)))

/-- R236, R237, R320, R324: the packed arithmetic. -/
def Parts.PackedArithmetic : Prop := ∀ d a b : BitVec 4,
  let ok := tagsIn [1, 2, 3, 0x0C]
  let x (l : List Nat) (k : Nat) : Nat := l.getD k 0
  let w (l : List Word) (k : Nat) : Word := l.getD k 0
  PackedResult (.wadd d a b) d [a, b] ok (elementwise (fun f m l => fmtAdd f m (x l 0) (x l 1)) (fun l => w l 0 + w l 1)) ∧
  PackedResult (.wsub d a b) d [a, b] ok (elementwise (fun f m l => fmtSub f m (x l 0) (x l 1)) (fun l => w l 0 - w l 1)) ∧
  PackedResult (.wmul d a b) d [a, b] ok (elementwise (fun f m l => fmtMul f m (x l 0) (x l 1)) (fun l => w l 0 * w l 1)) ∧
  PackedResult (.wmax d a b) d [a, b] ok (elementwise (fun f _ l => fmtMinMax f true (x l 0) (x l 1))
    (fun l => if (w l 0).sle (w l 1) then w l 1 else w l 0)) ∧
  PackedResult (.wmin d a b) d [a, b] ok (elementwise (fun f _ l => fmtMinMax f false (x l 0) (x l 1))
    (fun l => if (w l 0).sle (w l 1) then w l 0 else w l 1)) ∧
  PackedResult (.wfma d a b) d [a, b, d] ok (elementwise (fun f m l => fmtFma f m (x l 0) (x l 1) (x l 2))
    (fun l => w l 0 * w l 1 + w l 2))

/-- R320, R323: packing, tagging, unpacking, byte shuffles and scale bytes.  That WUNPK rounds an element that F32 cannot hold in RMODE,
with OVF and INX, is read from R323 and R238 (DEDUCED, log 13). -/
def Parts.PackedMoves : Prop :=
  let at_ (l : List WReg) (k : Nat) : WReg := l.getD k {}
  (∀ d a b : BitVec 4,
    PackedResult (.wpack d a b) d [a, b] (fun l => (at_ l 0).tag ≠ 0 ∧ (at_ l 1).tag = (at_ l 0).tag) (fun _ l =>
      (({ data := (at_ l 0).data ||| (at_ l 1).data, s0 := (at_ l 0).s0 ||| (at_ l 1).s0, s1 := (at_ l 0).s1 ||| (at_ l 1).s1,
          tag := (at_ l 0).tag } : WReg).clean, 0)) ∧
    PackedResult (.wshuf d a b) d [a, b]
      (fun l => (at_ l 0).tag ≠ 0 ∧ (at_ l 1).tag = 0x0A ∧ ∀ i, i < 32 →
        ((at_ l 1).data.getLsbD (8 * i + 5) = false ∧ (i ≠ 31 → (at_ l 1).data.getLsbD (8 * i + 6) = false)))
      (fun _ l =>
        let u := at_ l 0
        let c := (at_ l 1).data
        let byte (i : Nat) : Nat :=
          if c.getLsbD (8 * i + 7) then 0 else (u.data.extractLsb' (8 * (c.extractLsb' (8 * i) 5).toNat) 8).toNat
        let swap := c.getLsbD 254
        (({ data := BitVec.ofNat 256 (packFields 8 ((List.range 32).map byte)), s0 := if swap then u.s1 else u.s0,
            s1 := if swap then u.s0 else u.s1, tag := u.tag } : WReg).clean, 0))) ∧
  (∀ (d : BitVec 4) (t : BitVec 6),
    PackedResult (.wtag d t) d [d] (fun _ => True) (fun _ l => (({ at_ l 0 with tag := t } : WReg).clean, 0))) ∧
  (∀ (d a : BitVec 4) (p : BitVec 2),
    PackedResult (.wunpk d a p) d [a]
      (fun l => let r := at_ l 0; ¬ (r.tag = 0 ∨ r.tag = 1 ∨ r.tag = 0x0C) ∧ 8 * p.toNat < regElems r)
      (fun m l =>
        let r := at_ l 0
        let es := (List.range 8).map (fun e => e + 8 * p.toNat)
        if r.tag = 0x0A ∨ r.tag = 0x0B then
          packedOf 0x0C (es.map (fun e => ((BitVec.ofInt 32 (signedField (if r.tag = 0x0A then 8 else 4) (regBits r e))).toNat, 0)))
        else packedOf 1 (es.map (fun e => fmtDone f32 m [regVal r e] (regVal r e))))) ∧
  (∀ (d : BitVec 4) (a : BitVec 6) (k : BitVec 1), (Instr.wsets d a k).wf = true →
    let ok (x : Thread) : Prop := (if k = 0 then usesS0 (x.rdW d.toNat).tag.toNat else usesS1 (x.rdW d.toNat).tag.toNat) = true
    CompletesAs (.wsets d a k) (fun u t => Unhindered [a] [d.toNat] none u t ∧ ok (u.thr t))
      (fun u t => let q := popped u t [a]
        (q.1.modThr t (fun x =>
          let r := x.rdW d.toNat
          let v : Byte := (q.2.getD 0 0).truncate 8
          x.wrW d.toNat (if k = 0 then { r with s0 := v } else { r with s1 := v } : WReg).clean)).unlatch t (portsIn [a.toNat])))

/-- R321, R322, R324, R238: the dot product, the conversions, reductions, scalings and comparisons. -/
def Parts.PackedReductions : Prop :=
  let at_ (l : List WReg) (k : Nat) : WReg := l.getD k {}
  (∀ d a b : BitVec 4,
    PackedResult (.wdot d a b) d [a, b, d]
      (fun l => let t (k : Nat) := (at_ l k).tag.toNat
        (2 ≤ t 0 ∧ t 0 ≤ 0x0B ∨ 0x10 ≤ t 0 ∧ t 0 ≤ 0x16) ∧ (2 ≤ t 1 ∧ t 1 ≤ 0x0B ∨ 0x10 ≤ t 1 ∧ t 1 ≤ 0x16) ∧
        regElems (at_ l 0) = regElems (at_ l 1) ∧ t 2 = 1)
      (fun _ l =>
        let g := regElems (at_ l 0) / 8
        packedOf 1 ((List.range 8).map (fun k => dotLane (regBits (at_ l 2) k)
          ((List.range g).map (fun j => (regVal (at_ l 0) (g * k + j), regVal (at_ l 1) (g * k + j)))))))) ∧
  (∀ (d a : BitVec 4) (t : BitVec 6) (r k : BitVec 1), (Instr.wcvt d a t r k).wf = true →
    let ok (x : Thread) : Prop := let g := (x.rdW a.toNat).tag.toNat
      if t = 1 then 2 ≤ g ∧ g ≤ 6 ∨ 0x0A ≤ g ∧ g ≤ 0x0C else g = 1
    CompletesAs (.wcvt d a t r k) (fun u th => (u.thr th).wEmpty.get a.toNat = false ∧ ok (u.thr th))
      (fun u th =>
        let x := u.thr th
        let w := x.rdW a.toNat
        let sr (i : Nat) : Option Nat := if r = 1 then some (u.draws th x.srstep i) else none
        let v := packedOf t.toNat ((List.range 8).map (fun i =>
          cvtElem t.toNat w.tag.toNat (modeOf x) (sr i) (decide (k = 1)) (regBits w i)))
        u.modThr th (fun y => { y with
          srstep := if r = 1 then y.srstep + 1 else y.srstep
          fstat := y.fstat ||| v.2 }.wrW d.toNat v.1))) ∧
  (∀ (d : BitVec 6) (a : BitVec 4) (m : BitVec 3), (Instr.wred d a m).wf = true →
    CompletesAs (.wred d a m)
      (fun u t => Unhindered [] [a.toNat] (outPort d) u t ∧ tagsIn [1, 0x0C] [(u.thr t).rdW a.toNat])
      (fun u t =>
        let x := u.thr t
        let w := x.rdW a.toNat
        let es := (List.range 8).map (regBits w)
        let f (p q : Nat) : Res := if m = 0 then fadd (modeOf x) p q else fminmax (decide (m = 1)) p q
        let g (p q : Word) : Word := if m = 0 then p + q else if m = 1 then (if p.sle q then q else p) else (if p.sle q then p else q)
        let r := if w.tag = 1 then tree8 f es
          else tree8 (fun p q => ((g (BitVec.ofNat 32 p) (BitVec.ofNat 32 q)).toNat, 0)) es
        (u.modThr t (fun y => { y with fstat := y.fstat ||| r.2 })).wr t d.toNat (BitVec.ofNat 32 r.1))) ∧
  (∀ (d a : BitVec 4) (b : BitVec 6), (Instr.wscl d a b).wf = true →
    let ok (x : Thread) : Prop := (x.rdW a.toNat).tag = 1 ∨ State.blockTag (x.rdW a.toNat).tag.toNat = true
    CompletesAs (.wscl d a b) (fun u t => Unhindered [b] [a.toNat] none u t ∧ ok (u.thr t))
      (fun u t => let q := popped u t [b]
        let x := q.1.thr t
        let w := x.rdW a.toNat
        let k : Int := min 511 (max (-512) (q.2.getD 0 0).toInt)
        let v : WReg × BitVec 5 :=
          if w.tag = 1 then packedOf 1 ((List.range 8).map (fun e => fmtDone f32 (modeOf x) [regVal w e] ((regVal w e).shift k)))
          else
            let s0 := scaleByte w.s0 k
            let s1 := if usesS1 w.tag.toNat then scaleByte w.s1 k else (0, 0)
            (({ w with s0 := s0.1, s1 := s1.1 } : WReg).clean, s0.2 ||| s1.2)
        (q.1.modThr t (fun y => { y with fstat := y.fstat ||| v.2 }.wrW d.toNat v.1)).unlatch t (portsIn [b.toNat]))) ∧
  (∀ (d : BitVec 6) (a b : BitVec 4) (c : BitVec 3), (Instr.wcmp d a b c).wf = true →
    CompletesAs (.wcmp d a b c)
      (fun u t => Unhindered [] [a.toNat, b.toNat] (outPort d) u t ∧
        tagsIn [1, 2, 3, 0x0C] [(u.thr t).rdW a.toNat, (u.thr t).rdW b.toNat])
      (fun u t =>
        let x := (u.thr t).rdW a.toNat
        let y := (u.thr t).rdW b.toNat
        let fm : Option Fmt := if x.tag = 1 then some f32 else if x.tag = 2 then some f16 else if x.tag = 3 then some bf16 else none
        let n := if x.tag = 2 ∨ x.tag = 3 then 16 else 8
        let holds (e : Nat) : Bool := match fm with
          | some f => fcond c.toNat (f.decode (regBits x e)) (f.decode (regBits y e))
          | none =>
            let p : Word := BitVec.ofNat 32 (regBits x e)
            let q : Word := BitVec.ofNat 32 (regBits y e)
            [p == q, p != q, p.slt q, p.sle q, q.slt p, q.sle p, false, true].getD c.toNat false
        let inv (e : Nat) : BitVec 5 := match fm with
          | some f => fcmpInv c.toNat (f.decode (regBits x e)) (f.decode (regBits y e))
          | none => 0
        let mask : Nat := (List.range n).foldl (fun z e => z + (if holds e then 2 ^ e else 0)) 0
        (u.modThr t (fun z => { z with fstat := z.fstat ||| (List.range n).foldl (fun f e => f ||| inv e) 0 })).wr t d.toNat
          (BitVec.ofNat 32 mask)))

/-- R236–R238, R320–R324: the packed arithmetic, moves, conversions and reductions. -/
def Obligations.PackedElements : Prop := Parts.PackedArithmetic ∧ Parts.PackedMoves ∧ Parts.PackedReductions

/-! ## The steps of the memory system -/

/-- The step answers a next state with a property. -/
def Gives (i : Instr) (s : State) (p : State → Prop) : Prop := ∃ t, exec i s = .next t ∧ p t

/-- The state in which the running step has asked for no line yet and made no burst: an injection is counted from here (R184). -/
def rested (s : State) : State := { s with dies := s.dies.mapCells (fun _ d => { d with lastLine := 0, lastBurst := 0 }) }

/-- The budgets of a class have room for a request, by its number, whose step ends in v, and no request waits there before it (R184). -/
def HasBudget (s v : State) (die cls stop id : Nat) : Prop := (s.needs v die cls stop).all (s.affords id) = true

/-- The injections and bursts of the request are counted against its budgets. -/
def injected (s v : State) (die cls stop id : Nat) : State := (s.needs v die cls stop).foldl (s.take id) v

/-- A request of a class leaves an agent of a die with an outcome v: where the budgets of the class have room for it, the step answers
v with its injections and bursts counted (R184). -/
def Injects (i : Instr) (s v : State) (die cls stop id : Nat) : Prop :=
  HasBudget s v die cls stop id → exec i s = .next (injected s v die cls stop id)

/-- The access with one piece replaced at its place. -/
def withPiece (a : Access) (pre : List Piece) (p : Piece) (post : List Piece) : Access := { a with pieces := pre ++ p :: post }

/-- R103, R113, R115, R304, R315: the head of a thread's store queue leaves it: a tag operation or a store to a local level is
performed, and hands on what its core has seen of settle epochs; a store at its home is sent there with that epoch; a .l1 store of whole words is valid and
registered in the core's L1, and its registration is on its way. -/
def Obligations.StoresLeaveTheirQueue : Prop := ∀ (q : TRef) (s : State) (id : Nat) (a : Access) (p : Piece),
  let t := s.keyOf q
  s.storeHead t = some (id, a) → a.pieces = [p] → s.mayLeave t id p = true →
  let v : State := { s with nextId := s.nextId + 1 }
  let put (u : State) (st : PieceState) : State := { u with accs := u.accs.set id (some { a with pieces := [{ p with st := st }] }) }
  let away (u : State) (st : PieceState) : State :=
    { u with accs := u.accs.set id (some { a with pieces := [{ p with st := st }], epoch := s.seen.get a.core }) }
  (∀ m, a.op = .tset m → p.pa = none →
    exec (.storeDrain q) s = .next (put (v.setTags (keyCtx t) m) .done) ∧
    (v.setTags (keyCtx t) m).ctx (keyCtx t) = { s.ctx (keyCtx t) with
      tags := (s.ctx (keyCtx t)).tags ||| m, troupes := ((v.setTags (keyCtx t) m).ctx (keyCtx t)).troupes }) ∧
  (∀ m, a.op = .tclr m → p.pa = none →
    exec (.storeDrain q) s = .next (put ((v.modCtx (keyCtx t) (fun c => { c with tags := c.tags &&& ~~~m })).settleTags (keyCtx t)) .done)) ∧
  (a.op = .store → p.pa = none → exec (.storeDrain q) s = .next (put ((v.putLocal (keyCtx t) p.place p.data).leaveEpoch a.core p.place) .done)) ∧
  (∀ pa, a.op = .store → p.pa = some pa → s.registers a.lv p (State.wholeWords a) = false →
    exec (.storeDrain q) s = .next (away { v with nextId := s.nextId + 2 } (.sent (s.nextId + 1)))) ∧
  (∀ pa r, a.op = .store → p.pa = some pa → s.registers a.lv p (State.wholeWords a) = true → s.regns.get s.nextId = none →
    s.accs.wf = true → (∀ e ∈ s.accsOf t, e.1 ≠ id → e.2.op.isStore = false) → v.l1Room a.core pa = some r →
    let val (k : Nat) : Word := wordOf ((p.data.drop (4 * k - pa)).take 4)
    let w := r.writeL1 a.core pa p.data p.poisoned
    let g : Regn := { core := a.core, block := pa / 256, words := wordsOf pa p.len, covers := [(id, 0)], epoch := s.seen.get a.core,
                      vals := (wordsOf pa p.len).foldl (fun m k => m.set k (val k)) {} }
    exec (.storeDrain q) s = .next (put { w with regns := s.regns.set s.nextId (some g) } (.sent s.nextId)) ∧
    (pa + p.data.length ≤ 2 ^ 40 → ∀ k ∈ wordsOf pa p.data.length, w.l1Word a.core k = { value := val k, valid := true, reg := true, bad := p.poisoned }))

/-- The request passes: its flit can be ejected, no port on its way retrains, and no earlier message of its core to the home block
is on its way (R181–R183). -/
def MayPass (s : State) (core pa id seq : Nat) : Prop :=
  s.barred id = false ∧ s.portWaits (coreDie core) pa = false ∧ s.sentBefore core (pa / 256) seq = false

/-- R100–R104, R112, R144, R221: what the home does.  It accepts a registration and owns nothing of it; performs a store, a load or
an atomic, one at a time, and its reply brings its slice's settle epoch (R115); an owner forwards a word that another core needs. -/
def Parts.TheHomePerforms : Prop :=
  (∀ (id : Nat) (s : State) (r : Regn), s.regns.get id = some r → let u := rested s
    MayPass u r.core (r.block * 256) id id →
    u.homeLost r.core (r.block * 256) = false → u.captureHeld r.words = false → (∀ w ∈ r.words, s.shared (4 * w) = false) →
    HasBudget s (u.acceptRegn id) (coreDie r.core) 0 (r.core % 56) id →
    Gives (.registrationAccept id) s (fun t => t.regns.get id = none ∧
      (∀ w ∈ r.words, t.owner.get w = r.core + 1 ∧ t.poison.get w = r.bad) ∧ t.threads = s.threads ∧ t.lane = s.lane)) ∧
  (∀ (id : Nat) (s : State) (a : Access) (p : Piece), s.accs.get id = some a → a.pieces = [p] →
    let u := rested s
    let put (v : State) (q : Piece) : State :=
      { v with accs := v.accs.set id (some { a with pieces := [q] }), flits := v.flits.set id {} }
    let here (v : State) (q : Piece) : Prop := exec (.homeRequest id) s = .next (put v { q with st := .done })
    let goes (v : State) (q : Piece) : Prop :=
      Injects (.homeRequest id) s (put { v with nextId := v.nextId + 1 } { q with st := .done, reply := v.nextId }) (coreDie a.core) 0
        (a.core % 56) id
    u.gleanerBars a.thr a.core p = false →
    (a.op = .load → p.st = .queued → u.barred id = false → u.heldBehind a.thr id = false → u.loadsFixed a.thr id = true →
      (∀ bs, p.pa = none → u.ownStores a.thr id p = .bytes bs → here u { p with data := bs, reply := 0 }) ∧
      (p.pa = none → u.ownStores a.thr id p = .nothing →
        here (u.takeEpoch a.core p.place) { p with data := u.getLocal (keyCtx a.thr) p.place p.len,
                                                   poisoned := u.localPoison p.place p.len || p.poisoned, reply := 0 }) ∧
      (∀ pa, p.pa = some pa → u.ownStores a.thr id p = .nothing → u.shared pa = false → a.lv = .l2 →
        MayPass u a.core pa id s.nextId → (∀ w ∈ wordsOf pa p.len, u.elsewhere a.core w = false) →
        u.homeLost a.core pa = false →
        goes ((u.tellEpoch a.core (coreDie a.core) pa).usesLines a.thr a.core pa p.len .l2 false)
          { p with data := u.homeLoad pa p.len, poisoned := u.poisonedAt pa p.len || p.poisoned })) ∧
    (∀ pa k v, a.op = .store → p.pa = some pa → p.st = .sent k → u.regns.get k = none →
      MayPass u a.core pa id k → p.poisoned = false → u.homeLost a.core pa = false → u.storePhys a.core pa a.epoch p.data = some v →
      goes (v.usesLines a.thr a.core pa p.len (u.levelOf a p) true) p) ∧
    (∀ pa old, (a.op.isLoad = true ∧ a.op ≠ .load) → p.pa = some pa → p.st = .queued → MayPass u a.core pa id s.nextId →
      u.loadsFixed a.thr id = true → u.heldBehind a.thr id = false → u.elsewhere a.core (pa / 4) = false →
      u.ownPending a.thr id p = false → u.poisonedAt pa 4 = false → u.homeLost a.core pa = false → p.poisoned = false →
      old = wordOf (u.homeLoad pa 4) →
      (a.op.writes old = none →
        goes ((u.usesLines a.thr a.core pa 4 (u.levelOf a p) false).tellEpoch a.core (coreDie a.core) pa)
          { p with data := u.homeLoad pa 4 }) ∧
      (∀ new v, a.op.writes old = some new → u.storePhys a.core pa (u.seen.get a.core) (leBytes 4 new.toNat) = some v →
        goes (v.usesLines a.thr a.core pa 4 (u.levelOf a p) true) { p with data := u.homeLoad pa 4 }))) ∧
  (∀ (id : Nat) (s : State) (a : Access) (p : Piece) (pa w c : Nat), s.accs.get id = some a → a.pieces = [p] →
    (p.st = .queued ∨ ∃ k, p.st = .sent k) → p.pa = some pa → wordsOf pa p.len = [w] → s.ownerOf w = some c → c ≠ a.core →
    exec (.forwardAtOwner id) s = .next { s with
      mem := s.mem.store (4 * w) (leBytes 4 (s.wordVal w).toNat), owner := s.owner.set w 0,
      poison := if (s.l1Word c w).bad then s.poison.set w true else s.poison
      l1 := s.l1.set (l1Key c w) { s.l1Word c w with reg := s.regnPending c w } }) ∧
  (∀ (core line : Nat) (s : State), line < 2 ^ 33 → (∀ w, w / 32 = line → s.regnPending core w = false) →
    Gives (.l1EvictWriteback core line) s (fun t =>
      (∀ w, w / 32 = line → t.l1Word core w = {} ∧ t.ownerOf w ≠ some core ∧ t.wordVal w = s.wordVal w) ∧
      t.threads = s.threads ∧ t.accs = s.accs ∧ t.regns = s.regns))

/-- R100–R104: a store at the home changes the current value of its bytes and of no other byte, whoever owned their words; a
forward changes no byte's value. -/
def Parts.HomeStoresTheirBytes : Prop := ∀ (s : State) (pa : Nat) (bs : List Byte), pa + bs.length ≤ 2 ^ 40 →
  (s.homeStoreRaw pa bs).homeLoad pa bs.length = bs ∧
  (∀ a, a < 2 ^ 40 → a < pa ∨ pa + bs.length ≤ a → (s.homeStoreRaw pa bs).homeLoad a 1 = s.homeLoad a 1) ∧
  (∀ w a, w < 2 ^ 38 → a < 2 ^ 40 → (s.forward w).homeLoad a 1 = s.homeLoad a 1) ∧
  (∀ w, w ∈ wordsOf pa bs.length → pa ≤ 4 * w → 4 * w + 4 ≤ pa + bs.length →
    (s.homeStoreRaw pa bs).ownerOf w = none ∧ (s.homeStoreRaw pa bs).poison.get w = false)

/-- R100–R104, R112, R144, R221: the home serves one request after another, and a store changes its bytes alone. -/
def Obligations.TheHome : Prop := Parts.TheHomePerforms ∧ Parts.HomeStoresTheirBytes

/-! ## Completions and faults -/

/-- Only the run states of threads and the troupe lists may differ: threads that were blocked have gone on. -/
def WokenOf (v t : State) : Prop :=
  t = { v with threads := t.threads, ctxs := t.ctxs, nextId := t.nextId } ∧
  (∀ j, t.thr j = { v.thr j with run := (t.thr j).run } ∧ ((t.thr j).run ≠ (v.thr j).run → isBlocked (v.thr j) = true)) ∧
  ∀ c, t.ctx c = { v.ctx c with troupes := (t.ctx c).troupes }

/-- R48, R221, R303, R307: an access whose value is fixed completes.  Its register is written, its flag counts down, it is no
longer under way; poisoned data trap POISON and write no register.  It waits while a reply of the same home to its core is ahead of its
own (R181). -/
def Parts.AccessesComplete : Prop := ∀ (id : Nat) (s : State) (a : Access), s.threads.wf = true →
  s.accs.get id = some a → (∀ p ∈ a.pieces, p.st = .done) → a.op ≠ .fetch → (∀ p u c, a.op ≠ .fence p u c) → a.due ≤ s.cycle → a.discarded = false →
  s.replyBehind id a = false → (s.thr a.thr).run ≠ .exited → (s.thr a.thr).run ≠ .free → (s.ctx (keyCtx a.thr)).state = .active →
  let down (x : Thread) : Thread := match a.flag with
    | none => x
    | some n => { x with flags := x.flags.set n (x.flags.get n - 1) }
  let v (f : Thread → Thread) : State :=
    { s with threads := s.threads.set a.thr (down (f (s.thr a.thr))), accs := s.accs.set id none }
  ((a.op.isLoad = false ∨ ∀ p ∈ a.pieces, p.poisoned = false) →
    Gives (.accessComplete id) s (WokenOf (v (fun x => State.writeDst x a)))) ∧
  (∀ p, a.op.isLoad = true → a.pieces.find? Piece.poisoned = some p →
    Gives (.accessComplete id) s (fun t => ∃ u, WokenOf (v (fun x => x)) u ∧
      t = u.trapLate a.thr a.pc { cause := .poison, code := 0x0103, va := some p.va.toNat, pa := p.pa } a.batch))

/-- R231, R233, R303, R307–R309: what a completed access of one piece writes: a byte or half-word extended as its type says, a
word, a pair, an address register, or a packed register with its tag, unused bits zero. -/
def Parts.LoadedValues : Prop := ∀ (x : Thread) (a : Access) (p : Piece), a.pieces = [p] → p.pos = 0 → p.len = p.data.length →
  let low (k : Nat) : Nat := leNat (p.data.take k)
  (∀ n y, y < 5 → a.dst = .g n y → typeBytes (BitVec.ofNat 3 y) ≤ p.len → State.writeDst x a = x.wrG n
    ([(BitVec.ofNat 8 (low 1)).signExtend 32, (BitVec.ofNat 8 (low 1)).zeroExtend 32, (BitVec.ofNat 16 (low 2)).signExtend 32,
      (BitVec.ofNat 16 (low 2)).zeroExtend 32, BitVec.ofNat 32 (low 4)].getD y 0)) ∧
  (∀ n, a.dst = .pair n → p.len = 8 →
    State.writeDst x a = (x.wrG n (BitVec.ofNat 32 (low 4))).wrG (n + 1) (BitVec.ofNat 32 (leNat (p.data.drop 4)))) ∧
  (∀ n, a.dst = .a n → a.op = .load → p.len = 8 → State.writeDst x a = x.wrA n (BitVec.ofNat 64 (low 8))) ∧
  (∀ n v, a.dst = .a n → a.op = .value v → State.writeDst x a = x.wrA n v) ∧
  (∀ n (tag : BitVec 6), a.dst = .w n tag → a.put = [] → p.len = 32 → tag ∈ [1, 2, 3, 4, 5, 6, 0x0A, 0x0B, 0x0C] →
    State.writeDst x a = x.wrW n { data := BitVec.ofNat 256 (low 32), s0 := 0, s1 := 0, tag := tag })

/-- R48, R221, R231, R233, R303, R307–R309: an access completes, and what a loaded value writes. -/
def Obligations.LoadsReturn : Prop := Parts.AccessesComplete ∧ Parts.LoadedValues

/-- R86–R88, R133, R134, R140, R264: a page walk takes one of 96 walkers and 130 cycles a level, and ends with a translation or in the
operand log, where a thread blocks that finds it full; the attendant, as the page table stands, resolves a logged fault, turns it into
the trap of its kind or discards it, and only resolves that of a page being moved; that no page is there only the Ringmaster in service
says (R206, R211); a resolved entry is performed anew. -/
def Parts.FaultsAreResolvedAndReplayed : Prop := ∀ (id : Nat) (s : State) (a : Access) (pre post : List Piece) (p : Piece),
  s.threads.wf = true → s.accs.get id = some a → a.pieces = pre ++ p :: post →
  let put (u : State) (b : Access) : State := { u with accs := u.accs.set id (some b) }
  (p.st = .walk → (∀ q ∈ pre, q.st ≠ .walk) →
    (a.walkAt = none → exec (.pageWalkDone id) s =
      .next (if s.walksOn (coreDie a.core) < 96 then put s { a with walkAt := some s.cycle } else s)) ∧
    (∀ t0, a.walkAt = some t0 → s.cycle < t0 + 130 * s.walkLevels (coreDie a.core) a.asid p.va.toNat a.op.need →
      exec (.pageWalkDone id) s = .next s) ∧
    (∀ t0, a.walkAt = some t0 → t0 + 130 * s.walkLevels (coreDie a.core) a.asid p.va.toNat a.op.need ≤ s.cycle →
      let walked (q : Piece) : Access := { withPiece a pre q post with walkAt := none }
      (∀ v pa, s.translate a.core a.asid p.va.toNat a.op.need = .ok (v, pa) →
        let q : Piece := { p with st := .queued, pa := some pa }
        exec (.pageWalkDone id) s = .next ((put v (walked q)).fromNow id [q])) ∧
      (∀ f, s.translate a.core a.asid p.va.toNat a.op.need = .error f →
        exec (.pageWalkDone id) s = .next (if 256 ≤ s.logCount (keyCtx a.thr) ∧ State.faulted a = false then s.logFull a.thr
          else (put (s.denied (coreDie a.core) a.asid p.va.toNat f) (walked { p with st := .logged f })).commitPart id)))) ∧
  (∀ f, p.st = .logged f → (∀ q ∈ pre, ∀ g, q.st ≠ .logged g) →
    let stands (fate : FaultFate) : Prop := s.fateStands id (coreDie a.core) a.asid p.va [a.op.need] f fate = true
    (∀ fate, ¬ stands fate → exec (.attendantFaultHandle id fate) s = .next s) ∧
    (∀ e ∈ [(FaultFate.outside, [XFault.unmapped, .control]), (.permission, [.permission]), (.walkUE, [.walkUE])],
      stands e.1 → f ∈ e.2) ∧
    (stands .outside → s.rm.state = .running ∨ s.rm.state = .reduced) ∧
    (stands .resolve → exec (.attendantFaultHandle id .resolve) s = .next (put s { a with resolved := true })) ∧
    (∀ fate ∈ [FaultFate.outside, .permission, .walkUE], stands fate → a.op ≠ .fetch → s.inMigration a.asid p.va = false →
      exec (.attendantFaultHandle id fate) s = .next (put (s.trapLate a.thr a.pc (State.xTrap f p.va) a.batch) a)) ∧
    (∀ fate, fate ≠ .resolve → s.inMigration a.asid p.va = true → exec (.attendantFaultHandle id fate) s = .next s) ∧
    ((s.ctx (keyCtx a.thr)).state = .active → s.inMigration a.asid p.va = false →
      Gives (.attendantFaultHandle id .discard) s (WokenOf { s with
        threads := s.threads.set a.thr ((s.thr a.thr).flagDown a.flag), accs := s.accs.set id none })) ∧
    (∀ v pa, (∀ q ∈ post, ∀ g, q.st ≠ .logged g) → a.resolved = true → s.heldBehind a.thr id = false →
      (s.ctx (keyCtx a.thr)).state = .active → s.translate a.core a.asid p.va.toNat a.op.need = .ok (v, pa) →
      (a.op ≠ .fetch → let q : Piece := { p with st := .queued, pa := some pa }
        Gives (.operandLogReplay id) s
          (WokenOf ((put v { a with pieces := pre ++ q :: post, resolved := false }).fromNow id
            ((pre ++ q :: post).filter (fun r => r.st == .queued))))) ∧
      (a.op = .fetch → Gives (.operandLogReplay id) s (WokenOf { v with accs := v.accs.set id none }))))

/-- R88, R217, R380: A TRAP DECIDED AFTER ISSUE.  When it reaches its core, the thread records cause, address and TPC, and its running
group halts with that cause; the flag of the command whose reply carries it counts down.  The first of the threads of one troupe that
trap at one instruction has a record of severity 2 written; a later one is counted in it while it has not been consumed (log 8), and
the record names the lowest slot. -/
def Parts.LateTraps : Prop := ∀ (id : Nat) (s : State) (l : LateTrap), s.threads.wf = true → s.late.get id = some l →
  (s.thr l.thr).run = .runnable → (s.group (s.thr l.thr).group).state = .running → (s.ctx (keyCtx l.thr)).state = .active →
  l.thr < 2 ^ 40 →
  let mates := (s.group (s.thr l.thr).group).late.find? (fun r => r.batch == l.batch && s.unread r.place)
  Gives (.trapAtReply id) s (fun t =>
    t.late.get id = none ∧
    t.thr l.thr = { (s.thr l.thr).flagDown l.flag with
      cause := BitVec.ofNat 8 l.cause.code, fva := l.va.getD 0, tpc := l.pc } ∧
    (let g := t.group (s.thr l.thr).group
     g.state = .halting ∧ g.cause = BitVec.ofNat 8 l.cause.code ∧ g.causeSlot = keySlot l.thr) ∧
    (mates = none → ∃ pre e, t.rm.mirror = s.rm.mirror ++ pre ++ [e] ∧ e.code = l.code ∧ e.sev = 2 ∧ e.ctx = keyCtx l.thr ∧
      e.slot = keySlot l.thr ∧ e.pc = l.pc.toNat ∧ e.count = 1 ∧ e.thread = true) ∧
    ∀ r e, mates = some r → s.rm.mirror[r.place.mirror]? = some e → ∃ f, t.rm.mirror[r.place.mirror]? = some f ∧
      f.count = e.count + 1 ∧ f.slot = min e.slot (keySlot l.thr))

/-- R86–R88, R133, R134, R264, R380: the operand log, and the traps decided after issue. -/
def Obligations.FaultsAndLateTraps : Prop := Parts.FaultsAreResolvedAndReplayed ∧ Parts.LateTraps

/-! ## Kernels and groups -/

/-- The bank's context can take a group of the kernel (R29, R383). -/
def CanPlace (s : State) (kr : Kernel) (core bank die : Nat) : Prop :=
  core < 224 ∧ coreDie core = die ∧ (s.die die).failed = false ∧ core % 56 / 8 < (s.die die).started ∧
  s.bankTakes kr ((s.core core).ctxIn bank) core = true

/-- R19, R23, R24, R26, R28, R29, R35, R75, R223, R383: the launch path.  A scheduler takes the head entry and validates it; a group is
given its slots, pad, barriers and tiles, and sent on its way, but not before the records kept over a reset are written, nor to a
shadow bank while an active bank has room for a kernel's first group; at its arrival its threads start at the entry with their
coordinates; units pass to other dies and clusters. -/
def Obligations.LaunchesAndPlacements : Prop :=
  (∀ (die q core bank k : Nat) (r : List Nat) (s : State), (s.queue q).entries = k :: r → (s.queue q).kind = 2 →
    queueDie q = die → (s.kernel k).state = .enqueued → s.priorWaits = false →
    Gives (.schedulerTakeLaunch die q core bank) s (fun t =>
      (t.queue q).entries = r ∧ (t.queue q).head = (s.queue q).head + 1 ∧
      ((s.kernel k).valid = false → (t.kernel k).state = .rejected ∧ t.groups = s.groups) ∧
      ((s.kernel k).valid = true → (t.kernel k).groups.length = (s.kernel k).groupCount ∧
        ∀ i g, (t.kernel k).groups[i]? = some g →
          (t.group g).state = .pending ∧ (t.group g).kernel = k ∧ (t.group g).gnum = BitVec.ofNat 32 i))) ∧
  (∀ (idx core bank : Nat) (s : State) (p : PendUnit) (g : Nat) (rest slots : List Nat) (pad bar tile base : Nat),
    s.pends.get idx = some p → p.groups = g :: rest →
    let kr := s.kernel p.kernel
    let c := (s.core core).ctxIn bank
    CanPlace s kr core bank p.die → (p.cluster = none ∨ p.cluster = some (coreCluster core)) →
    (kr.state = .enqueued ∨ kr.state = .running) → kr.serves = 0 →
    (s.priorWaits = true ∨ s.shadowTooSoon kr p core bank = true → exec (.pendingGroupPlace idx core bank) s = .next s) ∧
    (s.priorWaits = false → s.shadowTooSoon kr p core bank = false → s.room kr c kr.threads = some (slots, pad, bar, tile) →
    s.unitBase kr p (coreCluster core) = some base →
    Gives (.pendingGroupPlace idx core bank) s (fun t =>
      t.placements.get s.nextId = some { group := g, ctx := c, slots := slots } ∧
      (let x := t.group g
       x.ctx = c ∧ x.size = kr.threads ∧ x.lane = kr.lane ∧ x.padBase = pad ∧ x.padLen = kr.pad ∧ x.cluBase = base ∧
       x.cluLen = kr.clusterBytes ∧ x.barBase = bar ∧ x.barCount = kr.barriers ∧ x.tileBase = tile ∧ x.tileCount = kr.tiles) ∧
      (∀ i, i < kr.barriers → t.barrier c (bar + i) = { granted := true, expect := kr.threads, group := g }) ∧
      (rest = [] → t.pends.get idx = none) ∧ t.threads = s.threads ∧ t.mem = s.mem))) ∧
  (∀ (idx : Nat) (s : State) (p : Placement), s.placements.get idx = some p → p.slots.Nodup → (∀ k ∈ p.slots, k < 1024) →
    (s.group p.group).state = .pending → s.priorWaits = false →
    let kr := s.kernel (s.group p.group).kernel
    Gives (.placementArrival idx) s (fun t =>
      t.placements.get idx = none ∧ (t.group p.group).state = .running ∧
      (kr.state = .enqueued → (t.kernel (s.group p.group).kernel).state = .running) ∧
      (∀ i k, p.slots[i]? = some k →
        let y := t.thr (threadKey p.ctx k)
        y.run = .runnable ∧ y.group = p.group ∧ y.hdr = kr.entry ∧ y.gate = false ∧ y.rdA 0 = kr.args ∧
        y.tidx = BitVec.ofNat 32 i ∧ y.gsize = BitVec.ofNat 32 p.slots.length ∧
        ∃ tr ∈ (t.ctx p.ctx).troupes, k ∈ tr.slots) ∧
      (∀ j, (∀ k ∈ p.slots, j ≠ threadKey p.ctx k) → t.thr j = s.thr j) ∧ t.mem = s.mem)) ∧
  (∀ (idx die u per : Nat) (s : State) (p : PendUnit), s.pends.get idx = some p →
    let kr := s.kernel p.kernel
    let lv := ((kr.levels.filter (fun i => kr.domain i ≤ 3)).getLast?).getD kr.groupLevel
    let unitOf (g : Nat) : Nat := (s.group g).gnum.toNat / per
    per = max 1 (kr.sizes kr.groupLevel (max lv kr.groupLevel)) → u = unitOf (p.groups.headD 0) → State.boundGroups kr ≤ u * per → die < 4 →
    (∀ e ∈ s.pends.cells, ∀ q, e.2 = some q → q.kernel = p.kernel → unitOf (q.groups.headD 0) = u → q.shipped = false) →
    s.partOf die = s.partOf p.die → kr.serves = 0 →
    (∀ g ∈ kr.groups, unitOf g = u → (s.group g).state = .pending ∧ (s.group g).ctx = 0) →
    Gives (.unitHandoff idx die) s (fun t =>
      t.pends.get idx = some { p with die := die, cluster := none } ∧
      (∀ j q, s.pends.get j = some q → (q.kernel ≠ p.kernel ∨ unitOf (q.groups.headD 0) ≠ u) → t.pends.get j = some q) ∧
      t = { s with pends := t.pends })) ∧
  (∀ (cl : Nat) (s : State), cl < 28 → s.placeable cl = false → (∀ e ∈ s.pends.cells, ∀ p, e.2 = some p → p.cluster ≠ some cl) →
    (∀ e ∈ s.steals.cells, ∀ x, e.2 = some x → x.thief ≠ cl) →
    exec (.stealRequest cl) s = .next { s with
      steals := s.steals.set s.nextId (some { thief := cl, asked := cl / 7 * 7 + (cl % 7 + 1) % 7 }), nextId := s.nextId + 1 }) ∧
  (∀ (idx : Nat) (s : State) (x : Steal), s.steals.get idx = some x →
    let may (e : Nat × Option PendUnit) : Bool := match e.2 with
      | some p => p.cluster == some x.asked && !p.begun && !p.shipped && (s.kernel p.kernel).portable && (s.kernel p.kernel).serves == 0
      | none => false
    (∀ k p, s.pends.cells.find? may = some (k, some p) → exec (.stealReply idx) s = .next { s with
      pends := s.pends.set k (some { p with cluster := some x.thief, shipped := true }), steals := s.steals.set idx none }) ∧
    (s.pends.cells.find? may = none →
      let n := x.asked / 7 * 7 + (x.asked % 7 + 1) % 7
      exec (.stealReply idx) s = .next { s with
        steals := s.steals.set idx (if n = x.thief then none else some { x with asked := n }) })) ∧
  (∀ (core islot : Nat) (s : State), s.cycle % 8 = 0 →
    let c := (s.core core).ctxIn (s.core core).activeBank
    let stands (k : Nat) : Prop := k ∈ s.slotsOf c (fun x => x.run == .runnable && !x.gate) ∧ k % 4 = islot
    Gives (.formationRound core islot) s (fun t =>
      (∀ k, stands k → ∃ tr ∈ (t.ctx c).troupes, k ∈ tr.slots ∧ tr.slots.length ≤ 32 ∧
        ∀ j ∈ tr.slots, s.place c j = s.place c k) ∧
      t = { s with ctxs := t.ctxs, nextId := t.nextId }))

/-- A group that the Ringmaster need not be in service for, or it is, and what came before the group in a reset has been handled (R211). -/
def HandlerUp (s : State) (g : Nat) : Prop :=
  (s.group g).handler = some 2 → (s.rm.state = .running ∨ s.rm.state = .reduced) ∧ s.heldInTurn (.trap g) = true

/-- No access of the group's threads is under way. -/
def Quiet (s : State) (g : Nat) : Prop := ∀ e ∈ s.accs.cells, ∀ a, e.2 = some a → (s.thr a.thr).group ≠ g ∧ s.groupOf a.thr ≠ g

/-- What becomes of a group whose kernel is cancelled or terminated (R34, R45): it is discarded, unless it runs, and then it halts
first; one that is RETIRING retires. -/
def cancelledTo : GroupState → GroupState
  | .pending | .halted | .evicted => .discarded
  | .running => .halting
  | st => st

/-- R42, R45, R84, R85, R91, R92: a halting group is HALTED and its handler is chosen by TRAP_DELEG; RETURN FROM A TRAP lets every
stopped thread go on from its resumption record; or the handler terminates the group or its kernel. -/
def Obligations.HaltsAndHandlers : Prop := ∀ (g : Nat) (s : State), s.threads.wf = true →
  let x := s.group g
  let core := (s.ctx x.ctx).core
  let slots := s.groupSlots g (fun y => y.run == .stopped)
  (x.state = .halting → (s.kernel x.kernel).state = .cancelling →
    Gives (.groupHalted g) s (fun t => (t.group g).state = .discarded)) ∧
  (x.state = .halting → (s.kernel x.kernel).state ≠ .cancelling → (s.core core).cmdBusy ≠ some .swapWait →
    let route := s.routeOf (s.ctx x.ctx).tenant.toNat x.cause.toNat
    (route = 1 → (s.kernel x.kernel).trapGrp = 0) →
    Gives (.groupHalted g) s (fun t =>
      (t.group g) = { x with state := .halted, handler := some (if route = 0 ∧ (s.core core).attFaulted = false then 0 else 2) } ∧
      (∀ j, t.thr j = (if keyCtx j = x.ctx ∧ (s.thr j).group = g ∧ ((s.thr j).run = .runnable ∨ isBlocked (s.thr j)) then
        { s.thr j with run := .stopped, skid := if (s.thr j).run = .runnable then (s.thr j).skid else 0 } else s.thr j)) ∧
      (∀ tr ∈ (t.ctx x.ctx).troupes, ∀ k ∈ tr.slots, (s.thr (threadKey x.ctx k)).group ≠ g))) ∧
  (∀ k kr, x.state = .halted → x.handler = some 1 → x.servedAt + 1000000 ≤ s.now →
    s.kernels.cells.find? (fun e => e.2.serves == g && e.2.state == .enqueued) = some (k, kr) → s.kernel k = kr →
    (∀ h ∈ kr.groups, (s.group h).ctx = 0) →
    Gives (.trapServiceTimeout g) s (fun t => (t.group g).handler = some 2 ∧ (t.kernel k).state = .cancelled)) ∧
  (x.state = .halted → HandlerUp s g → slots ≠ [] → slots.Nodup → (∀ k ∈ slots, s.resumable (threadKey x.ctx k) = .yes) →
    Gives (.trapResume g) s (fun t =>
      (t.group g) = { x with state := .running, cause := 0, causeSlot := 0, handler := none, late := [] } ∧
      (∀ k ∈ slots, let y := t.thr (threadKey x.ctx k)
        y = { s.thr (threadKey x.ctx k) with
          run := .runnable, cause := 0, tpc := 0, skid := 0, curA := y.curA, curB := y.curB, len := y.len, y := y.y } ∧
        ∃ tr ∈ (t.ctx x.ctx).troupes, k ∈ tr.slots) ∧
      (∀ j, (∀ k ∈ slots, j ≠ threadKey x.ctx k) → t.thr j = s.thr j) ∧ t.mem = s.mem)) ∧
  (∀ k, x.state = .halted → HandlerUp s g → slots = [k] → s.resumable (threadKey x.ctx k) = .no →
    Gives (.trapResume g) s (fun t =>
      let y := t.thr (threadKey x.ctx k)
      y.run = .stopped ∧ y.cause = 1 ∧ y.gate = false ∧ y.off = 0 ∧ y.hdr = (s.thr (threadKey x.ctx k)).hdr ∧
      (t.group g).state = .halting ∧ (t.group g).cause = 1)) ∧
  (∀ k w va, x.state = .halted → HandlerUp s g → slots = [k] → s.resumable (threadKey x.ctx k) = .fault w va →
    Gives (.trapResume g) s (fun t => (t.group g).state = .running ∧
      (let y := t.thr (threadKey x.ctx k)
       y = { s.thr (threadKey x.ctx k) with
         run := .runnable, cause := 0, tpc := 0, skid := 0, recheck := true, curA := y.curA, curB := y.curB, len := y.len, y := y.y }))) ∧
  (x.state = .halted → HandlerUp s g → x.ctx ≠ 0 → Quiet s g →
    Gives (.trapTerminateGroup g) s (fun t => (t.group g).state = .discarded ∧
      (∀ k ∈ s.groupSlots g (fun _ => true), (t.thr (threadKey x.ctx k)).run = .free) ∧ t.mem = s.mem)) ∧
  (x.state = .halted → HandlerUp s g → (x.handler = some 0 → s.rm.state = .running ∨ s.rm.state = .reduced) →
    ((s.kernel x.kernel).state = .running ∨ (s.kernel x.kernel).state = .draining) →
    Gives (.trapTerminateKernel g) s (fun t => (t.kernel x.kernel).state = .cancelling ∧ (t.kernel x.kernel).faulting = true ∧
      ∀ h ∈ (s.kernel x.kernel).groups, (t.group h).state = cancelledTo (s.group h).state))

/-- A kernel's end: its groups have ended and no engine work of it is outstanding (R32). -/
def KernelOver (s : State) (k : Nat) : Prop := s.allEnded k = true ∧ s.kernelWork k = false

/-- R22, R32–R34, R45, R46, R58: groups are evicted and recalled, slots are freed, groups retire, and kernels end with their
completion add, by retirement or by cancellation. -/
def Obligations.GroupsAndKernelsEnd : Prop :=
  (∀ (g : Nat) (s : State), let x := s.group g
    let slots := s.groupSlots g (fun _ => true)
    let here := s.groupSlots g (fun y => y.run != .exited)
    let evictKey (k : Nat) : Nat := g * 1024 + k
    x.ctx < 2 ^ 30 →
    (x.state = .running → here ≠ [] → here.Nodup →
      (∀ k ∈ here, ∃ p, (s.thr (threadKey x.ctx k)).run = .blocked (.barrier p)) → s.slotsNeeded x.ctx = true →
      Gives (.groupEvict g) s (fun t => (t.group g).state = .evicted ∧
        (∀ k ∈ here, t.evicted.get (evictKey k) = s.thr (threadKey x.ctx k) ∧ (t.thr (threadKey x.ctx k)) = {} ∧
          ∀ i, i < 256 → t.evLane.get (256 * evictKey k + i) = s.lane.get (256 * threadKey x.ctx k + i)) ∧
        (∀ j, j < 2 ^ 80 → (∀ k ∈ here, j ≠ threadKey x.ctx k) → t.thr j = s.thr j) ∧ t.mem = s.mem)) ∧
    (let back := (s.evicted.keys.filter (fun k => k / 1024 == g)).map (fun k => k % 1024)
     x.state = .evicted → x.recalled = true → ((s.ctx x.ctx).state = .active ∨ (s.ctx x.ctx).state = .shadow) → back.Nodup →
      (∀ k ∈ back, (s.thr (threadKey x.ctx k)).run = .free ∧ k ∉ s.reserved x.ctx) →
      Gives (.groupRecall g) s (fun t => (t.group g) = { x with state := .running, recalled := false, wake := [] } ∧
        (∀ k ∈ back, t.thr (threadKey x.ctx k) = { s.evictedThr g (threadKey x.ctx k) with run := .runnable } ∧
          t.evicted.get (evictKey k) = {} ∧ ∃ tr ∈ (t.ctx x.ctx).troupes, k ∈ tr.slots) ∧ t.mem = s.mem)) ∧
    (x.state = .retiring → slots = [] → x.serves = 0 →
      Gives (.groupRetire g) s (fun t => (t.group g) = { x with state := .retired, recalled := false } ∧
        (∀ p, g ≠ 0 → (t.barrier x.ctx p).group ≠ g) ∧
        ((s.kernel x.kernel).state = .running → t.allEnded x.kernel = true → s.engineWork x.kernel = true →
          (t.kernel x.kernel).state = .draining) ∧ (∀ j, j < 2 ^ 80 → t.thr j = s.thr j) ∧ t.mem = s.mem))) ∧
  (∀ (r : TRef) (s : State), (s.thr (s.keyOf r)).run = .exited → s.inFlight (s.keyOf r) = false →
    let t := s.keyOf r
    exec (.threadSlotFree r) s =
      .next (((s.rekey t (ghostKey (s.thr t).group (slotKey t)) false).freeHandles t).setThr t {})) ∧
  (∀ (k : Nat) (s : State), KernelOver s k →
    let kr := s.kernel k
    let ends (st : KState) (v : Word) (t : State) : Prop :=
      let u : State := { s with kernels := s.kernels.set k { kr with state := st } }
      (kr.doneVa = 0 → t = u) ∧
      (∀ w pa, kr.doneVa ≠ 0 → kr.doneOk = true → u.translateDie kr.die kr.asid kr.doneVa.toNat .write = .ok (w, pa) →
        t = w.homeStore pa (leBytes 4 (wordOf (w.homeLoad pa 4) + v).toNat))
    ((kr.state = .running ∨ kr.state = .draining) → kr.groups ≠ [] → Gives (.kernelDrainDone k) s (ends .retired 1)) ∧
    (kr.state = .cancelling → Gives (.kernelCancelDone k) s
      (ends (if kr.faulting then .faulted else .cancelled) 0x10000))) ∧
  (∀ (k : Nat) (s : State), s.threads.wf = true →
    ((s.kernel k).state = .enqueued → Gives (.kernelCancel k) s (fun t => (t.kernel k).state = .cancelled ∧
      ∀ h ∈ (s.kernel k).groups, (t.group h).state = cancelledTo (s.group h).state)) ∧
    (((s.kernel k).state = .running ∨ (s.kernel k).state = .draining) →
      Gives (.kernelCancel k) s (fun t => (t.kernel k).state = .cancelling ∧ (t.kernel k).faulting = false ∧
        ∀ h ∈ (s.kernel k).groups, (t.group h).state = cancelledTo (s.group h).state)))

/-! ## Barriers, queues, the heap: the steps -/

/-- R52, R56–R58: the waiters of the oldest completed phase go on behind their instruction, six cycles after the completing
arrival; R62–R70: a queue's ports, its descriptor, results of engines and notifies; R72, R73: the heap's operations. -/
def Obligations.BarrierQueueAndHeapSteps : Prop :=
  (∀ (core bank p due : Nat) (ws : List Nat) (r : List (Nat × List Nat)) (s : State),
    let c := (s.core core).ctxIn bank
    let b := s.barrier c p
    (s.ctx c).state ≠ .loading → b.releasing = (due, ws) :: r → due ≤ s.cycle → ws.Nodup → (∀ k ∈ ws, k < 1024) →
    Gives (.barrierRelease core bank p) s (fun t =>
      t.barrier c p = { b with releasing := r, dead := b.dead || (r.isEmpty && b.expect == 0) } ∧
      (∀ k ∈ ws, let x := s.thr (threadKey c k)
        x.run = .blocked (.barrier p) →
          t.thr (threadKey c k) = { x.advance 2 with run := .runnable, sync := none, portIn := {} } ∧
          ∃ tr ∈ (t.ctx c).troupes, k ∈ tr.slots) ∧
      (∀ j, (∀ k ∈ ws, j ≠ threadKey c k) → t.thr j = s.thr j) ∧
      (∀ g, (s.group g).state = .evicted → (s.group g).ctx = c → p ∈ (s.group g).wake → (t.group g).recalled = true) ∧
      t.mem = s.mem)) ∧
  (∀ (r : TRef) (port : BitVec 2) (v : Word) (s : State) (sel : Sel),
    let t := s.keyOf r
    let d := coreDie (s.ctx (keyCtx t)).core
    let q := s.portQueue t port.toNat
    s.sel = some sel → keyCtx t = sel.ctx → keySlot t ∈ sel.slots →
    (s.portHinder t [] (some port.toNat) = none →
      exec (.queuePortPush r port v) s = .next
        (s.push q d (keyCtx t) (s.ctx (keyCtx t)).tenant.toNat (s.ctx (keyCtx t)).asid v (s.ctx (keyCtx t)).core)) ∧
    (s.portHinder t [port.toNat] none = none → (s.thr t).portIn.get port.toNat = none →
      let e := s.pop q d (s.coreOf t)
      exec (.queuePortPop r port) s = .next ((e.1.acquire (s.coreOf t) (s.queue q).scope).modThr t (fun x =>
        { x with portIn := x.portIn.set port.toNat (some e.2) })))) ∧
  (∀ (asid : BitVec 16) (va : DWord) (c : QueueCfg) (s : State) (q : Nat), s.physOf asid va.toNat = some q → va.toNat % 64 = 0 →
    (s.queue q).state = .free →
    let x : Queue := { state := .empty, base := c.base, cap := c.cap.toNat, kind := c.kind.toNat, scope := c.scope.toNat,
                       tenant := c.tenant.toNat, fifo := c.fifo.toNat, session := c.session, recBase := c.recBase,
                       asid := asid, va := va, cluster := c.cluster, rsv := c.rsv, gen := s.nextId }
    exec (.queueConfigure asid va c) s = .next (({ s with queues := s.queues.set q x, nextId := s.nextId + 1 } : State).putDesc q)) ∧
  (∀ (q : Nat) (s : State), (s.queue q).state = .closed →
    exec (.queueReopen q true) s = .next (({ s with queues := s.queues.set q {} } : State).putDesc q) ∧
    exec (.queueReopen q false) s = .next
      (({ s with queues := s.queues.set q { s.queue q with state := .empty } } : State).putDesc q)) ∧
  (∀ (q : Nat) (s : State), q % 64 = 0 → Unwatched s q 64 → (s.putDesc q).mem.bytes q 64 = (s.queue q).bytes ∧
    (s.putDesc q).queues = s.queues ∧ (s.putDesc q).threads = s.threads ∧
    ∀ a, a < q ∨ q + 64 ≤ a → (s.putDesc q).homeLoad a 1 = s.homeLoad a 1) ∧
  (∀ (q cmd : Nat) (v : Word) (s : State), (s.queue q).kind = 3 →
    (((s.queue q).state = .empty ∨ (s.queue q).state = .busy) → s.heldResult q = none →
      exec (.engineResultPush q ⟨v, cmd⟩) s = .next (s.push q (queueDie q) 0 0 0 v)) ∧
    ((s.queue q).state = .full →
      exec (.engineResultPush q ⟨v, cmd⟩) s = .next { s with
        results := s.results.set s.nextId (some (q, v, cmd)), nextId := s.nextId + 1 })) ∧
  (∀ (session : Word) (va : DWord) (tail : Word) (seq : DWord) (tag : BitVec 128) (s : State) (k : Nat),
    let x := s.sessions.get session.toNat
    let q := s.queue k
    let ahead := (tail - q.tail).toNat
    s.queueAt va session = some k → k % 64 = 0 → Unwatched s k 64 →
    (x.opened = true → notifyTag x.key va tail seq = tag → x.highest.toNat < seq.toNat → 0 < ahead → ahead < 2 ^ 31 →
      (tail - q.head).toNat ≤ q.cap → q.state ≠ .closing → q.state ≠ .closed →
      Gives (.notify session va tail seq tag) s (fun t =>
        t.queue k = ({ q with tail := tail } : Queue).settle ∧ t.sessions.get session.toNat = { x with highest := seq } ∧
        t.mem.bytes k 64 = (t.queue k).bytes ∧ ∀ a, a < k ∨ k + 64 ≤ a → t.mem.get a = s.mem.get a)) ∧
    ((x.opened = false ∨ notifyTag x.key va tail seq ≠ tag ∨ seq.toNat ≤ x.highest.toNat) →
      Gives (.notify session va tail seq tag) s (fun t =>
        t.queues = s.queues ∧ t.sessions = s.sessions ∧
        ∃ pre e, t.rm.mirror = s.rm.mirror ++ pre ++ [e] ∧ e.code = 0x0506 ∧ e.sev = 0))) ∧
  (∀ (die pick id : Nat) (s : State) (o : HeapOp), s.heapNext die false = some (id, o) → o.due ≤ s.cycle →
    (s.thr o.thr).run = .runnable → (s.ctx (keyCtx o.thr)).state = .active →
    let h := s.heaps.get die
    let done (f : Thread → Thread) (t : State) : Prop := t.heapOps.get id = none ∧ t.thr o.thr = (f (s.thr o.thr)).flagDown o.flag
    (o.kind = .push → h.length < 16384 → s.heapNext die true = none →
      Gives (.heapArrival die pick) s (fun t => t.heaps.get die = h ++ [(o.key, o.payload)] ∧ done (fun x => x.wrP 7 true) t)) ∧
    (o.kind = .push → 16384 ≤ h.length →
      Gives (.heapArrival die pick) s (fun t => t.heaps = s.heaps ∧ done (fun x => x.wrP 7 false) t)) ∧
    (o.kind = .try_ → h = [] →
      Gives (.heapArrival die pick) s (fun t => t.heaps = s.heaps ∧ done (fun x => x.wrP 7 false) t)) ∧
    (o.kind = .pop → h = [] →
      exec (.heapArrival die pick) s = .next { s with heapOps := s.heapOps.set id (some { o with waiting := true }) }) ∧
    ((o.kind = .pop ∨ o.kind = .try_) → h ≠ [] → o.die = die →
      Gives (.heapArrival die pick) s (fun t => ∃ i e, h[i]? = some e ∧
        (h.filter (fun y => y.1.toNat < e.1.toNat)).length < 32 ∧ t.heaps.get die = h.eraseIdx i ∧
        done (fun x => let y := (x.wrG o.dstG e.1).wrA o.dstA e.2; if o.kind = .try_ then y.wrP 7 true else y) t))) ∧
  (∀ (die : Nat) (v : DWord) (s : State), let asid : BitVec 16 := v.extractLsb' 0 16
    Gives (.heapOwnerWrite die v) s (fun t => (t.die die).heapValid = v.getLsbD 32 ∧ (t.die die).heapAsid = asid ∧
      t.heaps.get die = (if (s.die die).heapValid = v.getLsbD 32 ∧ (s.die die).heapAsid = asid then s.heaps.get die else [])))

/-! ## Posts, contexts and attendants: the steps -/

/-- R94, R114, R193, R196, R344–R347, R349, R351–R353: a post that reaches its core is checked against the handle's entry; it writes
the register and sets its full bit, or is rejected with a cause that traps at the sender; it is held while its target loads, and
delivers nothing where the sender may not reach; a revoke ends an entry's generation. -/
def Obligations.PostsAndRevokes : Prop :=
  (∀ (id : Nat) (s : State) (p : Post), s.posts.get id = some p → p.stage = .out → p.remote = false →
    s.mayPresent id p = true →
    let core := handleCore p.handle
    let e := s.handle core (handleIdx p.handle)
    let k := threadKey e.ctx e.slot
    let n := e.first + p.off
    let live : Prop := s.forged p.handle = false ∧ handleGen p.handle = e.gen ∧ e.state = .live
    let b := (s.thr k).busy.get (if p.wide then 128 + n else n)
    let staged (t : State) (st : PostStage) : Prop :=
      t.posts.get id = some { p with stage := st, due := s.cycle + State.postCycles p.core core }
    let kept (t : State) (st : PostStage) : Prop := t.posts.get id = some { p with stage := st }
    let lies : State → Prop := fun t => kept t .acked ∧ t.threads = s.threads ∧ t.cores = s.cores ∧
      ∃ pre r, t.rm.mirror = s.rm.mirror ++ pre ++ [r] ∧ r.code = 0x0502 ∧ r.sev = 2 ∧ r.action = 5
    p.due ≤ s.cycle →
    HasBudget s (if p.revoke then (rested s).revokeArrival id else (rested s).postArrival id none) (coreDie p.core) 7 (p.core % 56) id →
    (s.postBarred p = true → (p.revoke = false → Gives (.postArrival id none) s lies) ∧
      (p.revoke = true → Gives (.revokeArrival id) s lies)) ∧
    (s.postBarred p = false →
    (p.revoke = false → s.targetLoads p.handle = true →
      Gives (.postArrival id none) s (fun t => kept t (.held s.nextHeld) ∧ t.threads = s.threads ∧ t.mem = s.mem)) ∧
    (p.revoke = false → s.targetLoads p.handle = false → live →
      (p.wide = (e.kind == 1) → p.off < e.cnt → (s.thr k).group = e.group → (s.thr k).run = .runnable →
        (s.ctx (keyCtx k)).state = .active → keyCtx k = e.ctx →
        (b.due ≤ s.cycle → (if p.wide then (s.thr k).wEmpty.get n else (s.thr k).gEmpty.get n) = true ∨ e.mode = 1 →
        Gives (.postArrival id none) s (fun t => staged t .acked ∧
          t.thr k = (if p.wide then (s.thr k).wrW n p.wvalue else (s.thr k).wrG n p.value) ∧ t.mem = s.mem)) ∧
        (s.cycle < b.due → b.empty = true ∨ e.mode = 1 →
        Gives (.postArrival id none) s (fun t => staged t .acked ∧
          t.thr k = { s.thr k with busy := (s.thr k).busy.set (if p.wide then 128 + n else n) { b with empty := false } } ∧
          t.mem = s.mem))) ∧
      (p.wide = (e.kind == 1) → p.off < e.cnt → (s.thr k).group = e.group → e.mode = 0 → b.due ≤ s.cycle →
        (if p.wide then (s.thr k).wEmpty.get n else (s.thr k).gEmpty.get n) = false →
        Gives (.postArrival id none) s (fun t => staged t (.rejected .overwrite) ∧ t.threads = s.threads)) ∧
      (p.wide ≠ (e.kind == 1) ∨ e.cnt ≤ p.off →
        Gives (.postArrival id none) s (fun t => staged t (.rejected .cap) ∧ t.threads = s.threads))) ∧
    (p.revoke = false → s.targetLoads p.handle = false → s.forged p.handle = true →
      Gives (.postArrival id none) s (fun t => staged t (.rejected .cap) ∧ t.threads = s.threads ∧
        ∃ pre r, t.rm.mirror = s.rm.mirror ++ pre ++ [r] ∧ r.code = 0x0903 ∧ r.sev = 2 ∧ r.detail = p.handle.toNat)) ∧
    (p.revoke = true → s.forged p.handle = false → handleGen p.handle = e.gen → e.state = .live → e.ctx = keyCtx p.thr →
      Gives (.revokeArrival id) s (fun t => staged t .acked ∧
        t.handle core (handleIdx p.handle) = (if 0xFFF ≤ e.gen then { e with state := .withdrawn, ended := false }
          else { e with state := .free, gen := e.gen + 1, ended := false }) ∧ t.threads = s.threads)))) ∧
  (∀ (id : Nat) (fate : PostFate) (s : State) (p : Post), s.threads.wf = true → s.posts.get id = some p →
    (s.ctx (keyCtx p.thr)).state = .active → p.due ≤ s.cycle →
    let v : State := { s with threads := s.threads.set p.thr ((s.thr p.thr).flagDown p.flag), posts := s.posts.set id none }
    (p.stage = .acked → Gives (.postReply id fate) s (WokenOf v)) ∧
    (∀ c, p.stage = .rejected c →
      Gives (.postReply id fate) s (fun t => ∃ u, WokenOf v u ∧ t = u.trapLate p.thr p.pc (trapOf c) p.batch))) ∧
  (∀ (id : Nat) (s : State) (p : Post), s.threads.wf = true → s.posts.get id = some p → p.remote = true → p.stage = .out →
    p.peer = false → (s.postLink p = .down ∨ s.postLink p = .disabled) → p.sentAt + 100000 ≤ s.now →
    (s.ctx (keyCtx p.thr)).state = .active → p.thr < 2 ^ 40 → (∀ r ∈ (s.group (s.thr p.thr).group).late, r.batch ≠ p.batch) →
    Gives (.postLostTimeout id) s (fun t => t.posts.get id = none ∧
      ∃ pre r mid q, t.rm.mirror = s.rm.mirror ++ pre ++ [r] ++ mid ++ [q] ∧ r.code = 0x0507 ∧ r.sev = 2 ∧ q.code = 0x0309 ∧ q.thread = true ∧
        q.ctx = keyCtx p.thr ∧ q.slot = keySlot p.thr)) ∧
  (∀ (core : Nat) (s : State),
    Gives (.handleKeyRotate core) s (fun t =>
      (t.core core).keyEpoch = (s.core core).keyEpoch + 1 ∧
      (∀ i, (t.handle core i).state ≠ .live ∧ (t.handle core i).state ≠ .withdrawn) ∧
      (∀ d, d ≠ core → t.core d = s.core d) ∧ t.mem = s.mem))

/-- R77–R84, R91, R94, R206, R207, R381, R382: the context commands and what ends them, and the attendants' window.  Which address
space a context has that its first LOAD brings into being is the event's (the model's choice, log 53); one that was SPILLED keeps its
own. -/
def Obligations.ContextSteps : Prop :=
  (∀ (core : Nat) (s : State), let k := s.core core
    let a := k.ctxIn k.activeBank
    let b := k.ctxIn k.shadowBank
    (k.cmdBusy = none → s.haltingIn a = false → (a ≠ 0 → a ≠ b) →
      Gives (.ctxSwap core) s (fun t =>
        (t.core core) = { k with active := !k.active, idleUntil := s.cycle + 48, cmdBusy := some .swap } ∧
        (a ≠ 0 → t.ctx a = { s.ctx a with state := .shadow }) ∧
        (b ≠ 0 → t.ctx b = { s.ctx b with state := .active, passed := 0, movedAt := 0, slots := [], ovPad := [], ovShare := [] }) ∧
        t.threads = s.threads ∧ t.mem = s.mem)) ∧
    (k.cmdBusy = some .swap → k.idleUntil ≤ s.cycle →
      exec (.swapEnd core) s = .next { s with cores := s.cores.set core { k with cmdBusy := none, cmdStatus := 0 } }) ∧
    (∀ save, k.cmdBusy = none → b ≠ 0 →
      Gives (.ctxSpill core save) s (fun t =>
        (t.core core) = { k with cmdSave := save, cmdBusy := some .spill } ∧
        t.ctx b = { s.ctx b with
          state := .spilling, save := save.toNat * 2 ^ 22, passed := 0, movedAt := 0, slots := s.occupied b
          ovPad := State.common (s.padSpans a) (s.padSpans b), ovShare := State.common (s.shareSpans a) (s.shareSpans b) })) ∧
    (b ≠ 0 → (s.ctx b).state = .spilling → (s.ctx b).movedAt ≤ s.cycle →
      let x := s.ctx b
      let n := State.spanBytes x.ovPad
      let m := State.spanBytes x.ovShare
      let next : List (Bool × Nat) := ((n.map (Prod.mk false) ++ m.map (Prod.mk true)).drop (128 * x.passed)).take 128
      let v := next.foldl (fun u e => if e.1 then u.areaShare b e.2 else u.areaPad b e.2) (rested s)
      let now := (List.range x.slots.length).filterMap (fun i => if State.recordTransfer x i = x.passed then x.slots[i]? else none)
      let w := now.foldl (fun u n => u.homeStore (u.recordAt (threadKey b n)) (u.threadRecord (threadKey b n))) v
      Injects (.gleanerTransfer core) s { w with ctxs := s.ctxs.set b { x with passed := x.passed + 1, movedAt := s.cycle + 1 } }
        (coreDie core) 4 (core % 56) (2 ^ 64)) ∧
    ((s.ctx b).state = .spilling → b ≠ 0 → k.cmdBusy = some .spill → (s.ctx b).movedAt ≤ s.cycle →
      Unwatched s (s.ctx b).save (2 ^ 22) → s.spillSize b ≤ 128 * (s.ctx b).passed → s.writesTile b = false →
      Gives (.spillDone core) s (fun t => (t.ctx b).state = .spilled ∧ (t.core core).cmdBusy = none ∧
        (t.core core).ctxIn k.shadowBank = 0 ∧ (t.core core).cmdStatus = 0 ∧ t.threads = s.threads ∧
        (t.homeLoad (s.ctx b).save 8) = leBytes 4 0x4B375341 ++ leBytes 2 b ++ leBytes 1 (s.ctx b).tenant.toNat ++ [1])) ∧
    (∀ save c asid, k.cmdBusy = none → b ≠ 0 → Gives (.ctxLoad core save c asid) s (fun t =>
      t.core core = { k with cmdSave := save, cmdCtx := c, cmdStatus := 1 } ∧ t.ctxs = s.ctxs ∧ t.threads = s.threads ∧ t.mem = s.mem)) ∧
    (∀ save c asid, k.cmdBusy = none → b = 0 → c ≠ 0 →
      (let at_ := save.toNat * 2 ^ 22
       s.areaNat at_ 0 4 = 0x4B375341 ∧ s.areaNat at_ 4 2 = c.toNat ∧ s.areaNat at_ 7 1 = 1) →
      Gives (.ctxLoad core save c asid) s (fun t => (t.core core).cmdBusy = some .load ∧
        (t.core core).ctxIn k.shadowBank = c.toNat ∧ (t.core core).cmdSave = save ∧ (t.core core).cmdCtx = c ∧
        (t.ctx c.toNat).state = .loading ∧ (t.ctx c.toNat).core = core ∧ (t.ctx c.toNat).bank = k.shadowBank ∧
        (t.ctx c.toNat).asid = (if (s.ctx c.toNat).state = .absent ∨ (s.ctx c.toNat).state = .destroyed then asid else (s.ctx c.toNat).asid) ∧
        (t.ctx c.toNat).tenant = BitVec.ofNat 6 (s.areaNat (save.toNat * 2 ^ 22) 6 1) ∧
        (t.ctx c.toNat).save = save.toNat * 2 ^ 22)) ∧
    ((s.ctx b).state = .loading → b ≠ 0 → (s.core core).loadDue ≤ s.cycle → s.posts.cells = [] →
      Gives (.loadDone core) s (fun t => (t.ctx b).state = .shadow ∧ (t.core core).cmdBusy = none ∧
        (t.core core).cmdStatus = 0)) ∧
    (k.cmdBusy = none → b ≠ 0 → (∀ e ∈ s.groups.cells, e.2.ctx ≠ b) →
      Gives (.ctxDiscard core) s (fun t => (t.ctx b).state = .destroyed ∧ (t.core core).ctxIn k.shadowBank = 0 ∧
        (t.core core).cmdStatus = 0)) ∧
    (∀ cmd : BitVec 3, cmd = 0 ∨ 4 < cmd.toNat → exec (.ctxCmdBad core cmd) s = .next { s with cores := s.cores.set core { k with
      cmdStatus := if k.cmdBusy = none then 5 else 4 } }) ∧
    (k.cmdBusy = some .load → exec (.ctxSwap core) s = .next { s with cores := s.cores.set core { k with cmdStatus := 4 } })) ∧
  (∀ (c : BitVec 16) (s : State), (s.ctx c.toNat).state = .spilled → c ≠ 0 → (∀ e ∈ s.groups.cells, e.2.ctx ≠ c.toNat) →
    Gives (.contextDestroy c) s (fun t => (t.ctx c.toNat).state = .destroyed ∧ t.threads = s.threads)) ∧
  (∀ (core : Nat) (s : State), core < 224 →
    Gives (.attendantFault core) s (fun t =>
      ((t.core core).attFaulted = true ↔ ¬ (s.rm.state = .running ∨ s.rm.state = .reduced)) ∧
      (∀ g, (s.group g).handler = some 0 → (s.ctx (s.group g).ctx).core = core → (t.group g).handler = some 2) ∧
      ∃ pre e, t.rm.mirror = s.rm.mirror ++ pre ++ [e] ∧ e.code = 0x0604 ∧ e.sev = 2 ∧ e.einst = core)) ∧
  (∀ (core : Nat) (v : DWord) (s : State), exec (.parkCtlWrite core v) s = .next { s with
    cores := s.cores.set core { s.core core with parkBank := v.getLsbD 0, parkWerr := (s.core core).parkWerr && !v.getLsbD 1 } }) ∧
  (∀ (core slot off : Nat) (v : DWord) (s : State), core < 224 → slot < 1024 → off % 8 = 0 → off < 1152 →
    let t := threadKey (s.parkCtx core) slot
    let x := s.thr t
    (s.parkCtx core ≠ 0 → x.run = .stopped →
      let b := s.threadRecord t
      let y := State.readRecord x (b.take off ++ leBytes 8 v.toNat ++ b.drop (off + 8))
      exec (.parkWindowWrite core slot off v) s = .next (State.findPorts { s with
        threads := s.threads.set t { y with skid := x.skid, sync := if y.pc = x.pc then x.sync else none } } t)) ∧
    (x.run ≠ .stopped → exec (.parkWindowWrite core slot off v) s = .next { s with
      cores := s.cores.set core { s.core core with parkWerr := true } }))

/-! ## Translations, frames and windows: the steps -/

/-- No pending record of a code stands in the logger (R218). -/
def NonePending (s : State) (code : Nat) : Prop := ∀ c ∈ s.pending.cells, ∀ q, c.2 = some q → q.err.code ≠ code

/-- A corrected record of a code has been opened under a number: it is written 1 ms after its first occurrence (R218). -/
def Opened (s t : State) (k code : Nat) : Prop :=
  ∃ q, t.pending.get k = some q ∧ q.err.code = code ∧ q.err.sev = 1 ∧ q.err.count = 1 ∧ q.due = s.now + 1000000

/-- The last record written has a code and a severity. -/
def LastRecord (t : State) (code sev : Nat) : Prop := ∃ e, t.rm.mirror.getLast? = some e ∧ e.code = code ∧ e.sev = sev

/-- R98, R107, R115, R134–R136: SFENCE.VMA of a hart of the Ringmaster broadcasts: the translations that it names are dropped in every
TLB and tile walker of its partition, and what has not left translates again; it ends when what had left is performed; the windows
and the epoch markers. -/
def Obligations.TranslationSteps : Prop :=
  (∀ (part : Nat) (asid : Option (BitVec 16)) (va : Option DWord) (s : State),
    s.hartFree = true →
    Gives (.sfenceVma part asid va) s (fun t =>
      (∀ cluster, s.partOf (cluster / 7) = part → ∀ e ∈ t.walkers.get cluster, e.named asid va = false) ∧ t.rm.fencePart = part ∧
      (∀ core, s.partOf (coreDie core) = part → ∀ e ∈ (t.core core).tlb, e.named asid va = false) ∧
      (∀ die, s.partOf die = part → ∀ e ∈ (t.die die).tlb, e.named asid va = false) ∧
      (∀ id a p, t.accs.get id = some a → p ∈ a.pieces → p.st = .queued → s.touched part asid va a p = false) ∧
      (∃ b, t.shoots.get s.nextId = some b ∧ b.part = part ∧ b.asid = asid ∧ b.va = va ∧ b.warned = false ∧ b.due = s.now ∧ b.hart = s.nextId) ∧
      t.mem = s.mem ∧ t.threads = s.threads)) ∧
  (∀ (idx : Nat) (s : State) (b : Shoot), s.shoots.get idx = some b →
    (s.acknowledged b = true → exec (.shootdownAck idx) s = .next { s with shoots := s.shoots.set idx none }) ∧
    (s.acknowledged b = false → b.warned = false → b.due + 8000 ≤ s.now → NonePending s 0x0204 →
      Gives (.shootdownTimeoutWarn idx) s (fun t =>
        t.shoots.get idx = some { b with warned := true } ∧ Opened s t s.nextId 0x0204 ∧ t.mem = s.mem))) ∧
  (∀ (die tenant : Nat) (v : DWord) (s : State), die < 4 → tenant < 64 →
    let len := (v.extractLsb' 32 10).toNat
    let base := (v.extractLsb' 0 9).toNat
    base + len ≤ 512 → exec (.dspWinWrite die tenant v) s = .next { s with dies := s.dies.set die { s.die die with
      winLen := (s.die die).winLen.set tenant len, winBase := (s.die die).winBase.set tenant base } }) ∧
  (∀ (die slice : Nat) (s : State), die < 4 → slice < 32 →
    let e := (s.die die).epochs.get slice
    e ≠ (s.part (s.partOf die)).cuts % 65536 →
    exec (.settleCutMarker die slice) s = .next { s with dies := s.dies.set die { s.die die with
      epochs := (s.die die).epochs.set slice ((e + 1) % 65536) } }) ∧
  (∀ (v : DWord) (n m : Nat) (s : State), m < 64 →
    exec (.registerWrite (.trapDeleg m) v) s = .next { s with tenants := s.tenants.set m { s.tenant m with
      deleg := v.extractLsb' 0 32 } } ∧
    (n < 4 → exec (.registerWrite (.l2Target n m) v) s = .next { s with dies := s.dies.set n { s.die n with
      tqTarget := (s.die n).tqTarget.set m (v.extractLsb' 0 21).toNat } }) ∧
    (s.diesOf n ≠ [] → exec (.registerWrite (.erqPtr n) v) s = .next { s with parts := s.parts.set n { s.part n with
      erq := { (s.part n).erq with head := v.extractLsb' 32 32 } } }))

/-- A frame has left its process for scrubbing, or for good when a line of it is poisoned (R138). -/
def Released (s : State) (f : Nat) (t : State) : Prop :=
  let x := s.frame f
  t.frame f = { state := if (s.forwardFrame f).framePoisoned f then .poisoned else .scrubbing, asid := x.asid, count := x.count } ∧
  (t.tenant x.tenant).used = (s.tenant x.tenant).used - x.count

/-- The bytes of a frame's page, none of whose words is registered, stand elsewhere now. -/
def Moved (s : State) (f : Nat) (now : Nat → Byte) : Prop :=
  s.mem.wf = true → (∀ w, s.inSpan f w = true → s.owner.get w = 0) → ∀ i, i < s.spanLen f → now i = s.mem.get (s.spanBase f + i)

/-- R135, R137–R141, R143, R165: the frames of physical memory, one or the 512 of a 1 GiB page: granted, pinned, written back, evicted,
unmapped, migrated, scrubbed and spared, their ages, and the accounts of the tenants.  That a granted frame of a key-value pool is PINNED
at once, and one that a binding's region needs, is read from R143 and R165 (DEDUCED, log 55); that a step which broadcasts waits for a
free hart, from R135 (log 54). -/
def Obligations.FrameSteps : Prop :=
  (∀ (tn f leaf : Nat) (asid : BitVec 16) (va : DWord) (perms : BitVec 3) (s : State), tn < 64 → f < frameCount →
    (s.frames.get f).state = .free → (s.die (f * frameBytes / 0x3000000000)).failed = false →
    (s.tenant tn).used < (s.tenant tn).burst → canonical va = true → va.toNat % frameBytes = 0 →
    leaf % 8 = 0 → leaf < memTop → perms ≠ 0 → (perms.getLsbD 1 = true → perms.getLsbD 0 = true) →
    Gives (.frameAllocate tn f asid va leaf perms) s (fun t =>
      let mine (p k : Nat) : Prop := ((s.part p).bindings.get k).state ≠ .free ∧ ((s.part p).bindings.get k).asid = asid
      let pool := s.inPool tn va.toNat 1
      ((∀ p k, ¬ mine p k) → t.frame f =
        { state := if pool then .pinned else .mapped, rm := pool, tenant := tn, asid := asid, va := va, leaves := [leaf] }) ∧
      (∀ p k, mine p k → (∃ w ∈ ((s.part p).bindings.get k).watch, w.region ≤ 1 ∧ va.toNat ≤ w.va ∧ w.va < va.toNat + frameBytes) →
        (t.frame f).state = .pinned ∧ ((t.part p).bindings.get k).watch =
          (((s.part p).bindings.get k).mapBytes va.toNat frameBytes (f * frameBytes)).watch) ∧
      t.leafVal leaf = f * 512 * 1024 + 16 + perms.toNat * 2 + 1 ∧ (t.tenant tn).used = (s.tenant tn).used + 1)) ∧
  (∀ (f : Nat) (s : State),
    let x := s.frame f
    let put (y : Frame) : State := { s with frames := s.frames.set (s.firstFrame f) y }
    ((x.state = .mapped ∨ x.state = .backed ∨ x.state = .pinned) → x.filling = false →
      exec (.framePin f) s = .next (put { x with state := .pinned, rm := true })) ∧
    (x.state = .pinned → x.rm = true → s.inPool x.tenant x.va.toNat x.count = false →
      exec (.frameUnpin f) s = .next (put { x with rm := false, state := if x.pins = 0 then .mapped else .pinned })) ∧
    (s.hartFree = true → s.victim f = true → Gives (.frameEvict f) s (Released s f)) ∧
    (s.hartFree = true → x.dest = none → s.movable f = true ∨ (x.state = .pinned ∧ s.framePoisoned f = true) →
      Gives (.frameUnmap f) s (Released s f)) ∧
    (x.state = .mapped → x.filling = false → s.firstFrame f = f → s.hartFree = true →
      HasBudget s ((rested s).byHart (fun u => u.writebackDone f)) (f * frameBytes / 0x3000000000) 6 62 (2 ^ 64 + f) →
      (x.cleared = false → Gives (.frameWritebackDone f) s (fun t => t.frame f = { x with cleared := true } ∧
        ∀ a, x.leaves = [a] → t.leafVal a = (if s.leafVal a / 128 % 2 = 1 then s.leafVal a - 128 else s.leafVal a))) ∧
      (x.cleared = true → s.quiet = true → Gives (.frameWritebackDone f) s (fun t =>
        ((∃ a ∈ x.leaves, s.leafVal a / 128 % 2 = 1) → t.frame f = { x with cleared := false }) ∧
        ((∀ a ∈ x.leaves, s.leafVal a / 128 % 2 = 0) → t.frame f = { x with state := .backed, cleared := false } ∧
          Moved s f (fun i => t.backing.get (State.backKey x + i)))))) ∧
    (x.state = .scrubbing → s.quiet = true → s.firstFrame f = f →
      HasBudget s ((rested s).byHart (fun u => u.scrubbed f)) (f * frameBytes / 0x3000000000) 5 63 (2 ^ 64 + f) →
      (x.cleared = false → Gives (.scrubDone f) s (fun t => t.frame f = { x with cleared := true } ∧
        (∀ i, i < s.spanLen f → t.mem.get (f * frameBytes + i) = 0) ∧
        (∀ w, s.inSpan f w = true → t.ownerOf w = none ∧ t.poison.get w = false) ∧
        (∀ a, s.inSpan f (a / 4) = false → t.mem.get a = s.mem.get a))) ∧
      (x.cleared = true → 0 < x.count → Gives (.scrubDone f) s (fun t => (∀ i, i < x.count → t.frame (f + i) = {}) ∧ t.mem = s.mem))) ∧
    (x.state = .scrubbing → NonePending s 0x0207 →
      Gives (.scrubFail f) s (fun t => t.frame f = { state := .poisoned, asid := x.asid, count := x.count } ∧
        Opened s t s.nextId 0x0207 ∧ t.mem = s.mem)) ∧
    (∀ left, x.state = .poisoned → NonePending s 0x0104 →
      Gives (.rowSpareRepair f left) s (fun t => t.frame f = { state := .scrubbing, asid := x.asid, count := x.count } ∧
        Opened s t s.nextId 0x0104 ∧
        (left ≠ 0 → (∀ w, s.inSpan f w = true → t.poison.get w = false) ∧ t.mem = s.mem) ∧
        (left = 0 → LastRecord t 0x0704 0)))) ∧
  (∀ s : State, s.frames.wf = true →
    (∀ f, s.firstFrame f = f → (s.frame f).leaves.Nodup ∧ ∀ a ∈ (s.frame f).leaves, a % 8 = 0 ∧ a < 2 ^ 40 ∧ Unwatched s a 8) →
    (∀ f g a, s.firstFrame f = f → s.firstFrame g = g → a ∈ (s.frame f).leaves → a ∈ (s.frame g).leaves → f = g) →
    Gives .ageSweep s (fun t => ∀ f ∈ s.frames.keys, s.firstFrame f = f →
      let x := s.frame f
      t.frame f = { x with age := if x.leaves.any (fun a => s.leafVal a / 64 % 2 == 1) then 0 else x.age + 1 } ∧
      ∀ a ∈ x.leaves, t.leafVal a = (if s.leafVal a / 64 % 2 = 1 then s.leafVal a - 64 else s.leafVal a))) ∧
  (∀ (src dst : Nat) (s : State), let x := s.frame src
    (s.hartFree = true → s.movable src = true → s.firstFrame src = src → 0 < x.count → s.freeSpan dst x.count = true →
      Gives (.migrationStart src dst) s (fun t =>
        t.frame src = { x with state := .migrating, dest := some dst, withheld := x.leaves.map (fun a => s.leafVal a / 4 % 2 == 1) } ∧
        t.frame dst = { state := .mapped, tenant := x.tenant, asid := x.asid, va := x.va, filling := true, count := x.count } ∧
        (t.tenant x.tenant).used = (s.tenant x.tenant).used + x.count)) ∧
    (x.state = .migrating → x.dest = some dst → dst ≠ src → s.firstFrame src = src → s.firstFrame dst = dst →
      let y := s.frame dst
      (s.quiet = true → s.framePoisoned src = false → y.state = .mapped →
        HasBudget s ((rested s).byHart (fun u => u.copyDone src)) (src * frameBytes / 0x3000000000) 6 62 (2 ^ 64 + src) →
        let pool := s.inPool y.tenant y.va.toNat y.count
        Gives (.migrationCopyDone src) s (fun t =>
          t.frame dst = { y with
            filling := false, leaves := x.leaves, age := x.age, state := if pool then .pinned else .mapped, rm := pool || y.rm } ∧
          t.frame src = { state := .scrubbing, asid := x.asid, count := x.count } ∧
          (t.tenant x.tenant).used = (s.tenant x.tenant).used - x.count ∧
          (x.leaves = [] → Moved s src (fun i => t.mem.get (dst * frameBytes + i))))) ∧
      (∀ ue : Bool, s.hartFree = true → (ue = true → s.framePoisoned src = true) →
        let pool := s.inPool x.tenant x.va.toNat x.count && !x.filling
        Gives (.migrationAbandon src ue) s (fun t =>
          t.frame src = { x with state := if pool then .pinned else .mapped, rm := pool || x.rm, dest := none, withheld := [] } ∧
          t.frame dst = { state := .scrubbing, asid := (s.frame dst).asid, count := (s.frame dst).count } ∧
          (t.tenant x.tenant).used = (s.tenant x.tenant).used - x.count ∧
          LastRecord t (if ue then 0x0205 else 0x0206) (if ue then 2 else 0))))) ∧
  (∀ (tn : Nat) (v : DWord) (s : State), tn < 64 →
    let guar := (v.extractLsb' 0 20).toNat
    let burst := (v.extractLsb' 20 20).toNat
    guar ≤ burst → (((List.range 64).filter (fun u => u ≠ tn)).foldl (fun n u => n + (s.tenant u).guar) 0) + guar ≤ s.framesPresent →
    exec (.tenFrWrite tn v) s = .next { s with tenants := s.tenants.set tn { s.tenant tn with guar := guar, burst := burst } })

/-! ## The steps of the engines -/

/-- A command under way of a thread whose context stands in a bank: no fault and no order holds it back (R87, R114). -/
def MayRun (s : State) (id : Nat) (c : Cmd) : Prop :=
  s.threads.wf = true ∧ s.cmds.get id = some c ∧ c.fault = none ∧ s.cmdMayRead id c = true ∧
  (s.ctx (keyCtx c.thr)).state = .active ∧ (s.thr c.thr).run ≠ .exited ∧ (s.thr c.thr).run ≠ .free

/-- The command has ended in the state v: it is gone, its flag counts down, its core hears of the engine's settle epoch (R115), and only
threads that waited have gone on. -/
def Ended (id : Nat) (c : Cmd) (v t : State) : Prop :=
  let u := v.passEpoch (State.engAgent c.eng) c.core
  WokenOf { u with threads := v.threads.set c.thr ((v.thr c.thr).flagDown c.flag), cmds := v.cmds.set id none } t

/-- What the command has read up to v took no page walk: the die's TLB held every translation (R134). -/
def NoWalk (s v : State) (c : Cmd) : Prop := s.walkedOn v (coreDie c.core) = false

/-- R134, R226, R241, R327, R329, R332–R337: the matrix commands are performed in their tile's order.  XZERO clears a tile, XLD fills
it, a drain takes it away, an MMA adds one rounded step per 16 products to each element inside its masks, and the guard decides;
a drain into a peer tile is added there element by element.  The array sleeps after 65,536 cycles without an MMA, and at most 8 of a die's arrays begin to
wake within 64 cycles.  A command that walks waits for one of the die's 96 walkers and for the walk. -/
def Obligations.MatrixSteps : Prop :=
  (∀ (id n : Nat) (s : State) (c : Cmd), MayRun s id c → c.ready = true → c.eng = .matrix c.core → c.started = false →
    s.tileBusy (s.cmdCtx c) c.mark id = false →
    let ctx := s.cmdCtx c
    let x := s.tile ctx c.mark
    (∀ d, c.i = .xzero d → Gives (.matrixCommandDone id n) s
      (Ended id c (s.setTile ctx c.mark { x with elems := {}, bad := {}, fail := false }))) ∧
    (∀ d a b f o, c.i = .xdrain d a b f o → s.drainBuffers c.core < 4 → exec (.matrixCommandDone id n) s =
      .next ((s.setTile ctx c.mark { x with elems := {}, bad := {} }).setCmd id
        (some { c with started := true, buf := x.elems, bufBad := x.bad }))) ∧
    (∀ d a b f o v rows, c.i = .xld d a b f o → (c.tsrs.headD default).tileAt 0 ≤ 64 →
      s.xldElems c (c.tsrs.headD default) ((c.vals.drop 1).headD 0) ((c.vals.drop 2).headD 0) = .ok (v, rows) →
      (NoWalk s v c → Gives (.matrixCommandDone id n) s (fun t => ∃ y : Tile, Ended id c (v.setTile ctx c.mark y) t ∧
        (∀ e ∈ rows.flatten, y.elems.get e.1 = e.2.1 ∧ y.bad.get e.1 = e.2.2) ∧
        ∀ k, (∀ e ∈ rows.flatten, e.1 ≠ k) → y.elems.get k = x.elems.get k)) ∧
      (¬ NoWalk s v c → c.walkAt = none → exec (.matrixCommandDone id n) s = .next (if s.walksOn (coreDie c.core) < 96 then
        { s with cmds := s.cmds.set id (some { c with walkAt := some s.cycle }) } else s)) ∧
      (∀ t0, ¬ NoWalk s v c → c.walkAt = some t0 → s.cycle < t0 + 130 → exec (.matrixCommandDone id n) s = .next s)) ∧
    (∀ d a b f o v y, c.i = .mma d a b f o → s.arrayFree id c.core = true → s.mmaTile c false = .ok (v, some y) → NoWalk s v c →
      let w := v.modCore c.core (fun k => { k with arrayUsed := s.cycle })
      (n = 0 → Gives (.matrixCommandDone id n) s (Ended id c (w.setTile ctx c.mark { y with fail := false }))) ∧
      (2 ≤ n → (s.kernel c.kernel).guarded = true → Gives (.matrixCommandDone id n) s (fun t =>
        (t.tile ctx c.mark).elems = x.elems ∧ (t.tile ctx c.mark).fail = true ∧
        (t.tile ctx c.mark).reruns = (if x.reruns = 255 then 255 else x.reruns + 1) ∧ t.cmds.get id = none ∧
        ∃ k l, t.late.get k = some l ∧ l.thr = c.thr ∧ l.cause = .guard ∧ l.pc = c.pc ∧ l.flag = c.flag)))) ∧
  (∀ (x : Tile) (single : Bool) (klen mr nc : Nat) (kept : Nat → Nat → Bool) (bm : Nat → Bool) (as bs : List (List Opnd)) (i j : Nat),
    mr ≤ 64 → nc ≤ 64 → i < 64 → j < 64 →
    (stageTile x single klen mr nc kept bm as bs).elems.get (tileKey i j) =
      if i < mr ∧ j < nc then
        BitVec.ofNat 32 (accumulate single (x.elems.get (tileKey i j)).toNat klen (kept i) (as.getD i []) (bs.getD j []))
      else x.elems.get (tileKey i j)) ∧
  (∀ (acc klen : Nat) (a b : List Opnd), a.length = klen → b.length = klen → klen ≤ 16 → 0 < klen →
    accumulate false acc klen (fun _ => true) a b = chunk acc ((a.zip b).map (fun e => e.1.1.mul e.2.1))) ∧
  (∀ (id : Nat) (s : State) (c : Cmd), MayRun s id c → c.started = true → (∃ d a b f o, c.i = .xdrain d a b f o) →
    peerForm (c.vals.headD 0) = true →
    let v := c.vals.headD 0
    let w := (c.vals.drop 1).headD 0
    let core := cut v 0 8
    cut v 48 12 = 0 → cut v 11 5 = 0 → core < 224 →
    let named (g : Nat) : Prop := g ∈ (s.kernel c.kernel).groups ∧ (s.group g).gnum.toNat = cut v 16 32 ∧
      State.holds (s.group g) = true ∧ (s.group g).state ≠ .pending ∧ (s.ctx (s.group g).ctx).core = core
    ((∀ g, ¬ named g) → exec (.drainArrival id) s = .next (s.endTrap id c (trapOf .notarget))) ∧
    (∀ g, named g → (∀ h, named h → h = g) → cut v 8 3 < (s.group g).tileCount → c.fields.headD 0 ≠ 1 →
      (s.ctx (s.group g).ctx).state = .active →
      let ctx := (s.group g).ctx
      let k := (s.group g).tileBase + cut v 8 3
      let y := State.addDrain (s.tile ctx k) c.buf c.bufBad
      (w / 65536 = 0 → Gives (.drainArrival id) s (Ended id c (s.setTile ctx k y))) ∧
      (0 < w / 65536 → w / 65536 < 65536 → w % 65536 = 0 → (s.tile ctx k).sc = 0 → s.heldDrains ctx k = [] →
        Gives (.drainArrival id) s (Ended id c (s.setTile ctx k
          { y with sc := if w / 65536 = 1 then 0 else BitVec.ofNat 16 (w / 65536), sn := 1 }))))) ∧
  (∀ (x : Tile) (buf : Tab Word) (bad : Tab Bool) (k : Nat), k < 4096 → (State.addDrain x buf bad).elems.get k =
    BitVec.ofNat 32 (fadd .rne (x.elems.get k).toNat (buf.get k).toNat).1) ∧
  (∀ (core : Nat) (s : State),
    let waits := (s.cmdsOf (.matrix core)).any (fun e => State.isMma e.2)
    (waits = false → (s.core core).arrayUsed + 65536 ≤ s.cycle →
      exec (.arrayPowerDown core) s = .next (s.modCore core (fun c => { c with arrayOff := true }))) ∧
    let recent := (s.die (coreDie core)).wakes.filter (fun c => s.cycle < c + 64)
    let up (u : State) : State := u.modCore core (fun c => { c with arrayOff := false, arrayUsed := s.cycle })
    (waits = true → exec (.arrayPowerDown core) s = .next s ∧
      ((s.core core).arrayOff = false → exec (.arrayWake core) s = .next (up s)) ∧
      ((s.core core).arrayOff = true → exec (.arrayWake core) s = .next (if recent.length < 8 then
        up (s.modDie (coreDie core) (fun d => { d with wakes := recent ++ [s.cycle] })) else s))))

/-- The thread that the running command of a binding answers, and the context whose tag it sets, stand in a bank. -/
def AnswersInBank (s : State) (p n : Nat) : Prop := ∀ id c, s.speRunning p n = some (id, c) →
  (s.ctx (keyCtx c.thr)).state = .active ∧ ∀ x, s.tagPlace c = some x → (s.ctx x).state = .active

/-- R147–R151, R153–R162, R338, R342, R354, R356–R358: the streamer performs a copy, writes STATUS and sets the tag; the SPE
answers STALE and BSTAT, frees a binding, cuts one, and ends a full computation, a settle or a failure; an adaptation's C leaves
and comes back.  MEM_UE of a failure names the first poisoned word in physical order (DEDUCED, log 34); the STATUS of a copy that meets
several conditions and BUSY in the word of STALE are read as logs 17 and 18 say (DEDUCED). -/
def Obligations.StreamerAndSpeSteps : Prop :=
  (∀ (cluster id : Nat) (s v : State) (c : Cmd), MayRun s id c → c.ready = true → c.eng = .streamer cluster → c.mark ≠ 1 →
    (∃ e ∈ (s.cmdsOf c.eng).take 8, e.1 = id) →
    let a := runStrm (rested s) c
    a.stop = none → a.st.putStatus c (a.st.statusOf a) = (v, none) → v.threads = s.threads → v.ctxs = s.ctxs →
    s.walkedOn v (cluster / 7) = false →
    let u := (v.setCmdTag c).endCmd id c
    Ended id c (v.setCmdTag c) u ∧ Injects (.streamerCommandDone cluster id) s u (cluster / 7) 1 (56 + cluster % 7) id) ∧
  (∀ (die id : Nat) (s : State) (c : Cmd), MayRun s id c → c.started = false →
    HasBudget s ((rested s).speNext die) die 2 63 (2 ^ 64) →
    (s.cmdsOf (.spe die)).find? (fun e => s.speReady e.1 e.2) = some (id, c) →
    let p := s.cmdPart c
    let n := c.mark - 1
    let b := s.binding p n
    let r := rested s
    let gives (k : State → Prop) : Prop := Gives (.speCommandStart die) s (fun t => ∃ u, k u ∧ t = injected s u die 2 63 (2 ^ 64))
    (∀ d e f, c.i = .stale d e f → gives (Ended id c (r.modThr c.thr (fun x => x.wrG d.toNat (s.staleWord c))))) ∧
    (∀ d e f, c.i = .bstat d e f → s.speValid c = true → gives (Ended id c (r.modThr c.thr (fun x =>
      (x.wrG d.toNat (BitVec.ofNat 32 (b.last * 256 + s.bstatCode id c))).wrG (d.toNat + 1) (BitVec.ofNat 32 b.count))))) ∧
    (∀ e f o, c.i = .unbind e f o → s.speValid c = true → b.state ≠ .admitting →
      gives (Ended id c (r.freeBinding p n)) ∧ (s.freeBinding p n).binding p n = {}) ∧
    (∀ d e f o, (c.i = .settle d e f o ∨ c.i = .recomp d e f o) → s.speValid c = true → gives (fun u =>
      let b' := u.binding p n
      b'.state = (if c.i = .settle d e f o then .settling else .computing) ∧
      b'.full = (decide (c.i = .recomp d e f o) || b.state == .failed || decide (b.recon ≤ b.count) || b.ovf) ∧
      b'.old = b.caps ∧ b'.caps = {} ∧ b'.ovf = false ∧ b'.consuming = b.outstanding ∧
      u.cmds.get id = some { c with started := true } ∧ u.threads = s.threads)) ∧
    (s.speValid c = false → (∃ d e f, c.i = .bstat d e f) ∨ (∃ e f o, c.i = .unbind e f o) ∨ (∃ d e f o, c.i = .settle d e f o) ∨
      (∃ d e f o, c.i = .recomp d e f o) → gives (fun u => u = r.endTrap id c (trapOf .desc)))) ∧
  (∀ (p n : Nat) (s : State), let b := s.binding p n
    s.spePoisoned p n = false → s.speUnmapped p n = false → s.speGoes p n = true → b.leaving = false → AnswersInBank s p n →
    s.walkedOn (s.speReads p n) (s.speDie p n) = false →
    let room (k : State → State) : Prop := HasBudget s ((rested s).speWalking p n k) (s.speDie p n) 2 63 (2 ^ 65 + p * 4096 + n)
    let rests (b' : Binding) : Prop := b'.state = (if b'.caps.cells.isEmpty then .clean else .dirty) ∧
      (b'.caps = b.caps → b'.outstanding = b.outstanding - b.consuming)
    let ended (t : State) : Prop := ∀ id c, s.speRunning p n = some (id, c) → t.cmds.get id = none
    ((b.state = .computing ∨ b.state = .settling) → b.full = true → room (fun u => u.fullDone p n) →
      Gives (.speFullComputeDone p n) s (fun t =>
      let b' := t.binding p n
      rests b' ∧ b'.count = 0 ∧ b'.cmod = false ∧ b'.old = {} ∧ ended t ∧
      b'.last = (if b.back then 5 else if b.state = .settling then 3 else 1))) ∧
    (b.state = .settling → b.full = false → room (fun u => u.settleDone p n) → Gives (.speSettleDone p n) s (fun t =>
      let b' := t.binding p n
      rests b' ∧ b'.count = b.count + 1 ∧ b'.last = 2 ∧ b'.old = {} ∧ ended t))) ∧
  (∀ (p n : Nat) (s : State), let b := s.binding p n
    s.speGoes p n = true → s.spePoisoned p n = true ∨ s.speUnmapped p n = true → b.leaving = false →
    s.walkedOn (s.speReads p n) (s.speDie p n) = false →
    Gives (.speFail p n) s (fun t =>
      (t.binding p n).state = .failed ∧ (t.binding p n).last = 4 ∧
      (s.speUnmapped p n = true → ∃ e ∈ t.rm.mirror, e.code = 0x0201 ∧ e.sev = 2 ∧ e.part = p) ∧
      (∀ pa, s.speUnmapped p n = false → (s.speReads p n).spePoison p n = some pa →
        ∃ e ∈ t.rm.mirror, e.code = 0x0102 ∧ e.sev = 2 ∧ e.pa = some pa) ∧
      ∃ e ∈ t.rm.mirror, e.code = 0x0405 ∧ e.sev = 2 ∧ e.part = p ∧ e.detail = n)) ∧
  (∀ (p : Nat) (s : State) (e : Nat × Binding), s.slotsUsed p < 256 →
    let waiting := (s.part p).bindings.cells.filter (fun e => e.2.state == .admitting)
    waiting.find? (fun e => waiting.all (fun f => e.2.since ≤ f.2.since)) = some e → Gives (.adaptAdmit p) s (fun t =>
      (t.binding p e.1).state = .computing ∧ (t.binding p e.1).full = true)) ∧
  (∀ (p n : Nat) (s : State), let b := s.binding p n
    b.state = .clean → b.adapt = true → b.count = 0 → b.cmod = false → s.speQueued p n = false → s.hartFree = true →
    (∀ f ∈ s.cFrames b, (s.frame f).state = .mapped ∨ (s.frame f).state = .backed) → Gives (.adaptEvict p n) s (fun t =>
      (t.binding p n).state = .evicted ∧
      ∀ f ∈ s.cFrames b, (t.frame f).state = .scrubbing ∨ (t.frame f).state = .poisoned)) ∧
  (∀ (p n : Nat) (fs : List Nat) (s : State), let b := s.binding p n
    b.state = .evicted → s.adaptWanted p n = true → s.mayGrant b fs = true → Gives (.adaptRecreate p n fs) s (fun t =>
      (t.binding p n).state = .computing ∧ (t.binding p n).full = true ∧ (t.binding p n).back = true ∧
      ∀ f ∈ fs, (t.frames.get f).state = .mapped))

/-- R158, R164, R168, R171–R174, R176–R180, R359, R362–R364: the pool's registers are written while no sequence lives; a prefix
command is performed with its result and ends; a peer is served a page set or a block's triple, which renews a lease; directories
exchange nodes, and local nodes stay when a remote one above them is removed (DEDUCED, log 35); the end of a process releases its
bindings and sequences.  A command that walks waits for its walk (R134). -/
def Obligations.PrefixSteps : Prop :=
  (∀ (p : Nat) (v : DWord) (s : State),
    (s.anySeq p = false → canonical v = true → exec (.pfxBaseWrite p v) s =
      .next (State.repin (s.modPool p (fun q => { q with base := v &&& ~~~0x1FFFFF })) s)) ∧
    (s.anySeq p = true → exec (.pfxBaseWrite p v) s = .next s ∧ exec (.pfxCfgWrite p v) s = .next s) ∧
    (let layers := cut v.toNat 36 12
     let slot := cut v.toNat 24 12
     s.anySeq p = false → layers ≤ 1024 → slot ≤ 1024 → cut v.toNat 0 19 ≤ 393216 → layers * slot ≤ 1024 → 0 < layers → 0 < slot →
     exec (.pfxCfgWrite p v) s = .next (State.repin (s.modPool p (fun q =>
       { base := q.base, tenant := cut v.toNat 58 6, layers := layers, slot := slot, count := cut v.toNat 0 19 })) s))) ∧
  (∀ (die id : Nat) (peers : List PeerBlock) (s v : State) (c : Cmd) (f : Thread → Thread), MayRun s id c → c.started = false →
    let z := rested s
    (z.cmdsOf (.pfx die)).find? (fun e => z.pfxReady e.1 e.2) = some (id, c) → z.xlatMates id c = [] →
    let p := s.cmdPart c
    let r := z.pfxPerform p id c (match c.i with | .kvxlat _ _ _ => [] | _ => peers)
    let ends (u : State) : Prop := v.cmds = s.cmds → (∀ e ∈ (v.pool (v.cmdPart c)).seqs.cells, e.2.state ≠ .releasing) →
      z.walkedOn v die = false → Injects (.pfxCommandStart die peers) s u die 3 63 (2 ^ 64)
    (r = .ok (v, .done f) → v.threads = s.threads → v.ctxs = s.ctxs →
      let u := (v.modThr c.thr f).endCmd id c
      Ended id c (v.modThr c.thr f) u ∧ ends u) ∧
    (r = .ok (v, .desc) → ends (v.endTrap id c (trapOf .desc))) ∧
    ((s.pool p).count = 0 ∨ (s.pool p).tenant ≠ c.tenant → r = .ok (z, .desc))) ∧
  (∀ (id : Nat) (peers : List PeerBlock) (s : State) (c : Cmd) (i : Nat) (q : Seq),
    let p := s.cmdPart c
    (s.pool p).count ≠ 0 → (s.pool p).tenant = c.tenant → s.seqOf p (c.vals.headD 0) id = some (i, q) → q.bad = false →
    let r := s.pfxPerform p id c peers
    let x := c.vals.getD 1 0
    (∀ d b f v e, c.i = .kvxlat d b f → x < 2 ^ 30 → x % 2 ^ 20 < q.len → x / 2 ^ 20 < (s.pool p).layers →
      s.mapEntry c q (x % 2 ^ 20 / 16) = .ok (v, e) → e < 0x80000000 → (v.pool p) = s.pool p →
      r = .ok (v, .done (fun y => y.wrA d.toNat ((s.pool p).base +
        BitVec.ofNat 64 (e * 0x200000 + (x / 2 ^ 20 * 16 + x % 16) * (s.pool p).slot * 64))))) ∧
    (∀ d b f o v es, c.i = .kvtrim d b f o → x < q.len →
      s.mapEntries c q ((x + 15) / 16) (q.capb - (x + 15) / 16) = .ok (v, es) → (∀ e ∈ es, v.pageLost p e = false) →
      ∀ w, v.writeMap c q ((List.range (q.capb - (x + 15) / 16)).map (fun j => ((x + 15) / 16 + j, noEntry))) = .ok w →
      ∃ u, r = .ok (u, .done (fun y => y.wrG d.toNat (BitVec.ofNat 32 q.len))) ∧ (u.pool p).seqs.get i = { q with len := x }) ∧
    (∀ d b f o v es, c.i = .pxunref d b f o → s.mapEntries c q 0 q.capb = .ok (v, es) → (∀ e ∈ es, v.pageLost p e = false) →
      ∀ w, v.writeMap c q ((List.range q.capb).map (fun k => (k, noEntry))) = .ok w →
      ∃ u, r = .ok (u, .done (fun y => y.wrG d.toNat 0)) ∧ (u.pool p).seqs.get i = { gen := (q.gen + 1) % 4096 })) ∧
  (∀ (id : Nat) (peer : PeerBlock) (s v : State) (c : Cmd), MayRun s id c → c.started = true →
    let z := rested s
    let p := s.cmdPart c
    let i := c.fields.headD 0
    let q := (s.pool p).seqs.get i
    (∀ d a b f o, c.i = .pxref d a b f o → z.refCopies p c q (State.triples (c.fields.drop 1)) = .ok v →
      v.threads = s.threads → v.ctxs = s.ctxs → (∀ e ∈ (v.pool (v.cmdPart c)).seqs.cells, e.2.state ≠ .releasing) →
      z.walkedOn v (coreDie c.core) = false →
      let w := v.modThr c.thr (fun x => x.wrG d.toNat (BitVec.ofNat 32 (q.gen * 2 ^ 20 + i)))
      Ended id c w (w.endCmd id c) ∧ Injects (.pfxCopyDone id peer) s (w.endCmd id c) (coreDie c.core) 3 63 id)) ∧
  (∀ (p n : Nat) (x : PeerQuery) (s : State),
    let leased (t : State) : Prop := t.pool p = (let q := s.pool p
      { q with nodes := q.nodes.modify (q.pages.get n).node (fun y => { y with lease := s.stampNow + 1 }) })
    (s.held p n = none → ∀ i ∈ [Instr.remoteFetch p n, .remoteAttnQuery p { x with psn := n }],
      exec i s = .next { s with outbox := s.outbox ++ [.unreachable] }) ∧
    (∀ pa, s.held p n = some pa →
      Gives (.remoteFetch p n) s (fun t => leased t ∧ t.threads = s.threads ∧
        ∃ ws bad, t.outbox = s.outbox ++ [.page ws bad] ∧ ws.length = 2 ^ 19 ∧ ((∀ i, i < 2 ^ 19 → s.owner.get (pa / 4 + i) = 0) →
          ∀ i, i < 2 ^ 19 → ws[i]? = some (s.memWord (pa / 4 + i)))) ∧
      Gives (.remoteAttnQuery p { x with psn := n }) s (fun t => leased t ∧ t.threads = s.threads ∧
        ∃ status m l o bad, t.outbox = s.outbox ++ [.triple status m l o bad]))) ∧
  (∀ (p parent : Nat) (ts : List Word) (psn : Word) (st : BitVec 10) (s : State), ts.length = 16 →
    (parent = 0 ∨ ((s.pool p).nodes.get parent).valid = true) → s.childOf p parent ts = none →
    s.tableRoom p parent = true → (s.pool p).nodes.cells.length ≤ Config.nodeStore →
    Gives (.directoryExchange p (.insert parent ts psn st)) s (fun t => ∃ n, ((s.pool p).nodes.get n).valid = false ∧
      (let x := (t.pool p).nodes.get n
       x.valid = true ∧ x.tokens = ts ∧ x.parent = parent ∧ x.psn = psn.toNat ∧ x.station = some st ∧ x.ref = 0) ∧
      ∀ m, m ≠ n → (t.pool p).nodes.get m = (s.pool p).nodes.get m)) ∧
  (∀ (p n : Nat) (s : State), ((s.pool p).nodes.get n).valid = true → ((s.pool p).nodes.get n).station ≠ none →
    Gives (.directoryExchange p (.remove n)) s (fun t => ((t.pool p).nodes.get n).valid = false ∧
      ∀ m, ((s.pool p).nodes.get m).station = none →
        (t.pool p).nodes.get m = { (s.pool p).nodes.get m with parent := ((t.pool p).nodes.get m).parent })) ∧
  (∀ (asid : BitVec 16) (s : State), Gives (.processEnd asid) s (fun t =>
    (∀ p n, (t.binding p n).asid = asid → (t.binding p n).state = .free ∨ (t.binding p n).leaving = true) ∧
    ∀ p i, ((t.pool p).seqs.get i).asid = asid → ((t.pool p).seqs.get i).state ≠ .live))

/-! ## The fabric: flits, budgets, links and collectives -/

/-- R181, R182, R184: A FLIT AT ITS DESTINATION is ejected, once, or refused at most twice and circulates, or resent for bad parity at
most three times and then delivered as poison; A PERIOD of 1,024 cycles begins with nothing spent; a request that its budget does
not cover waits in its place, the first with what is left, and STALL counts the cycle; the budget registers, of which class 6 keeps
at least 64 of each and STALL is cleared by a read. -/
def Parts.FlitsAndBudgets : Prop :=
  (∀ (id : Nat) (full bad : Bool) (s : State) (pair : Nat × Nat), s.flitOf id = some pair →
    let f := s.flits.get id
    let put (g : Flit) : State := if g.seq = 0
      then { s with nextId := s.nextId + 1, flits := s.flits.set id { g with seq := s.nextId } }
      else { s with flits := s.flits.set id g }
    (f.ejected = true → exec (.flitArrival id full bad) s = .next s) ∧
    (f.ejected = false → s.behind id pair = false → (full = false ∨ 2 ≤ f.refused) →
      exec (.flitArrival id full false) s = .next (put { f with ejected := true })) ∧
    (f.ejected = false → s.behind id pair = true →
      exec (.flitArrival id full false) s = .next (put { f with refused := min 2 (f.refused + 1) })) ∧
    (f.ejected = false → full = true → f.refused < 2 →
      exec (.flitArrival id full false) s = .next (put { f with refused := f.refused + 1 })) ∧
    (f.ejected = false → f.retries < 3 → NonePending s 0x0501 → Gives (.flitArrival id full true) s (fun t =>
      (let g := t.flits.get id; g.retries = f.retries + 1 ∧ g.ejected = false ∧ g.refused = f.refused) ∧
      (∀ k, k ≠ id → t.flits.get k = s.flits.get k) ∧ Opened s t s.nextId 0x0501 ∧
      t.accs = s.accs ∧ t.regns = s.regns ∧ t.posts = s.posts)) ∧
    (f.ejected = false → 3 ≤ f.retries → Gives (.flitArrival id full true) s (fun t =>
      (t.flits.get id).ejected = true ∧ LastRecord t 0x0502 2 ∧
      (∀ r, s.accs.get id = none → s.regns.get id = some r → t.regns.get id = some { r with bad := true }) ∧
      (∀ a p, s.accs.get id = some a → a.pieces = [p] → p.pa.isSome = true → p.st ≠ .done →
        t.accs.get id = some { a with pieces := [{ p with poisoned := true }] })))) ∧
  (∀ (die : Nat) (s : State),
    (s.cycle % 1024 = 0 → Gives (.budgetPeriod die) s (fun t =>
      (∀ id (n : BudgetNeed) l, n.die = die → n.limit = some l → t.left id n = l + s.grantOf id n) ∧
      t = { s with dies := t.dies } ∧ t.die die = { s.die die with used := (t.die die).used } ∧ ∀ d, d ≠ die → t.die d = s.die d)) ∧
    (s.cycle % 1024 ≠ 0 → exec (.budgetPeriod die) s = .next s)) ∧
  (∀ (id cls : Nat) (n : BudgetNeed) (l : Nat) (s : State), n.limit = some l → s.affords id n = false →
    let t := s.waitFor id cls n
    id ∈ t.waiting n ∧ t = { s with dies := t.dies } ∧
    (s.isNext id n = true → t.grantOf id n = s.grantOf id n + (l - (s.die n.die).used.get n.key)) ∧
    ((s.die n.die).stallAt.get cls ≠ s.cycle + 1 →
      (t.die n.die).stall.get cls = min 65535 ((s.die n.die).stall.get cls + 1))) ∧
  (∀ (die cls : Nat) (v : DWord) (s : State), die < 4 → cls < 8 →
    let loop := (v.extractLsb' 0 11).toNat
    let hbm := (v.extractLsb' 16 11).toNat
    let low (n : Nat) : Nat := if cls = 6 ∧ n < 64 then 64 else n
    (1024 < loop → exec (.bgtClassWrite die cls v) s = .next s) ∧
    (loop ≤ 1024 → exec (.bgtClassWrite die cls v) s = .next { s with dies := s.dies.set die { s.die die with
      bgtLoop := (s.die die).bgtLoop.set cls (low loop), bgtHbm := (s.die die).bgtHbm.set cls (low hbm) } }) ∧
    exec (.bgtClassRead die cls) s = .next { s with dies := s.dies.set die { s.die die with stall := (s.die die).stall.set cls 0 } })

/-- The link has come to a state, and every other one is as it was. -/
def LinkMoved (l : LinkId) (x : LinkState) (s t : State) : Prop :=
  t.linkState l = x ∧ ∀ m, m ≠ l → (linkKey m).isSome = true → t.linkState m = s.linkState m

/-- R185, R187: THE STATES OF A LINK.  It is enabled from DISABLED and from DOWN, trains to full or reduced width unless it has refused
an option or has tried three times or for 10 ms, retrains when its errors pass the threshold, is DOWN when training fails, with a
record of severity 2, and DISABLED by software. -/
def Parts.LinkStates : Prop := ∀ (l : LinkId) (wide : Bool) (s : State), (linkKey l).isSome = true →
  ((s.linkState l = .disabled ∨ s.linkState l = .down) → Gives (.linkEnable l) s (LinkMoved l .training s)) ∧
  (s.linkState l = .training → (s.linkTry l).refused = true ∨ s.triedOut l = true → exec (.linkTrained l wide) s = .next s) ∧
  (s.linkState l = .training → (s.linkTry l).refused = false → s.triedOut l = false → Gives (.linkTrained l wide) s (fun t =>
    LinkMoved l (if wide then .up else .degraded) s t ∧ (wide = false → LastRecord t 0x0505 0))) ∧
  ((s.linkState l = .up ∨ s.linkState l = .degraded) → Gives (.linkErrorThreshold l) s (LinkMoved l .retraining s)) ∧
  (s.linkState l = .retraining → s.triedOut l = false → Gives (.linkRetrainDone l wide) s (LinkMoved l (if wide then .up else .degraded) s)) ∧
  ((s.linkState l = .training ∨ s.linkState l = .retraining) → s.triedOut l = true → Gives (.linkFail l) s (fun t =>
    LinkMoved l .down s t ∧ ∃ e ∈ t.rm.mirror, e.code = 0x0504 ∧ e.sev = 2)) ∧
  Gives (.linkDisable l) s (LinkMoved l .disabled s)

/-- R184, R190, R191: A COLLECTIVE.  The service takes descriptors that agree, combines the contributions exactly and rounds once, takes
the partials of child modules, and ends with the result in every DST; a cancelled one ends with STATUS 5.  Each step injects in
class 1.  A sum of no parts, or of parts that cancel, is +0 (DEDUCED, log 27). -/
def Parts.CollectiveSteps : Prop :=
  (∀ (q : Nat) (s v : State) (b : List Byte), (s.queue q).kind = 5 → (s.queue q).state ≠ .free → (s.queue q).count ≠ 0 →
    let die := queueDie q
    let r := (rested s).pop q die
    let va := (s.queue q).recBase + BitVec.ofNat 64 (64 * r.2.toNat)
    (rested s).entryPoison q die 0 = none → r.1.vread die (s.queue q).asid va.toNat 64 = .ok (v, b, false) →
    let d := parseColl die va (s.queue q).asid b
    let k := State.collKey (s.partOf die) (fieldAt b 0x20 2) (fieldAt b 0x24 4)
    let takes (u : State) : Prop := Injects (.collectiveTake q) s u die 1 62 (2 ^ 66 + q)
    (collOk d b = true → (v.comms.get (fieldAt b 0x20 2)).configured = true → v.colls.get k = none →
      takes { v with colls := v.colls.set k (some { part := v.partOf die, descs := [d] }) }) ∧
    (∀ c, collOk d b = true → (v.comms.get (fieldAt b 0x20 2)).configured = true → v.colls.get k = some c →
      c.descs.all (collAgree d) = true → c.descs.length ≠ d.nloc →
      takes { v with colls := v.colls.set k (some { c with descs := c.descs ++ [d] }) }) ∧
    (collOk d b = false → d.done = 0 → takes (v.vwrite die (s.queue q).asid (va.toNat + 0x30) (leBytes 4 1)).1)) ∧
  (∀ (comm step : Nat) (s v : State) (k : Nat) (c : Coll) (d : CollDesc) (rows : List (List (Val × Bool))),
    s.collFind comm step (fun c => !c.reduced && (match c.descs with | d :: _ => c.descs.length == d.nloc | [] => false)) = some (k, c) →
    c.descs.head? = some d → (rested s).readAll c.descs = .ok (v, rows) → v.commCut comm = none →
    ∃ u c', u = { v with colls := u.colls } ∧ u.colls.get k = some c' ∧ c'.reduced = true ∧ c'.descs = c.descs ∧
      (∀ i, i < d.count → c'.own.getD i 0 = collRound (if (s.comms.get comm).ranks ≤ 1 then d.dtag else d.wtag) none
        (collCombine d.op (rows.map (fun r => (r.getD i (.fin false 0 0, false)).1)))) ∧
      Injects (.collectiveReduce comm step) s u (s.collDie comm step) 1 62 (2 ^ 64 + step)) ∧
  (∀ (x y z : Val), collCombine 0 [x, y, z] = (let v := (x.add .rne y).add .rne z; if v.isZero then .fin false 0 0 else v) ∧
    collCombine 1 [x, y] = collMax x y) ∧
  (∀ (comm step rank : Nat) (vals : List Word) (bad : List Nat) (s : State) (k : Nat) (c : Coll),
    s.collFind comm step (fun c => c.sent.isNone && !c.children.any (fun e => e.1 == rank) &&
      (match c.descs with | d :: _ => vals.length == d.count | [] => false)) = some (k, c) →
    (rank = 2 * (s.comms.get comm).rank + 1 ∨ rank = 2 * (s.comms.get comm).rank + 2) → rank < (s.comms.get comm).ranks →
    s.commServes comm = true →
    ∃ u c', u = { rested s with colls := u.colls } ∧ u.colls.get k = some c' ∧
      c'.children = c.children ++ [(rank, vals, bad)] ∧ c'.descs = c.descs ∧
      Injects (.collectiveChildPartial comm step rank vals bad) s u (s.collDie comm step) 1 62 (2 ^ 64 + step)) ∧
  (∀ (comm step : Nat) (vals : List Word) (bad : List Nat) (s : State) (k : Nat) (c : Coll) (d : CollDesc),
    s.collFind comm step (fun c => c.sent.isSome) = some (k, c) → c.descs = [d] → d.done = 0 →
    let m := s.comms.get comm
    let r := if m.rank = 0 ∨ m.ranks ≤ 1 then c.sent.getD [] else vals
    r.length = d.count → (if m.rank = 0 ∨ m.ranks ≤ 1 then c.bad else bad) = [] →
    (m.rank ≠ 0 → 1 < m.ranks → s.commServes comm = true) →
    let s1 : State := { rested s with colls := s.colls.set k none }
    ∀ v, s1.vwrite d.die d.asid d.dst.toNat (r.flatMap (fun w => leBytes (elemSize d.dtag) w.toNat)) = (v, true) →
      Injects (.collectiveResult comm step vals bad) s (v.vwrite d.die d.asid (d.va.toNat + 0x30) (leBytes 4 0)).1
        (s.collDie comm step) 1 62 (2 ^ 64 + step)) ∧
  (∀ (comm step : Nat) (s : State) (k : Nat) (c : Coll) (d : CollDesc), s.collFind comm step (fun _ => true) = some (k, c) →
    c.descs = [d] → d.done = 0 → Injects (.collectiveCancel comm step) s
      (({ rested s with colls := s.colls.set k none } : State).vwrite d.die d.asid (d.va.toNat + 0x30) (leBytes 4 5)).1
      (s.collDie comm step) 1 62 (2 ^ 64 + step))

/-- R181, R182, R184, R187, R190, R191: flits, budgets, link states and collectives. -/
def Obligations.Fabric : Prop := Parts.FlitsAndBudgets ∧ Parts.LinkStates ∧ Parts.CollectiveSteps

/-! ## Partitions, resets and the supervisor complex -/

/-- No reconfiguration runs, and nothing waits for the end of one. -/
def NoneWaits (s : State) : Prop := s.rm.held = [] ∧ s.rm.requests = []

/-- R192, R194–R197: PART_CFG is written whole or not at all; IVL_MAP keeps the die's own bit; NBND; a shared range leaves no
registration and no L1 or L2 copy of its words, and no word's value changes. -/
def Parts.PartitionRegisters : Prop :=
  (∀ (v : DWord) (s : State),
    let o := v.extractLsb' 8 8
    let dl := v.extractLsb' 16 4
    let moves (q : Nat) : Prop := ownerAt o q ≠ s.partOf q ∨ dl.getLsbD q ≠ s.dlocal.getLsbD q
    (o.toNat ∉ [0xE4, 0xE0, 0xA4, 0xA0, 0x00] → exec (.partCfgWrite v) s = .next s) ∧
    (s.rm.state ≠ .booting → (∃ q, q < 4 ∧ moves q ∧ (s.part (s.partOf q)).state ≠ .reconfiguring) →
      exec (.partCfgWrite v) s = .next s) ∧
    (NoneWaits s → divisionOk o dl = true → (∀ q, q < 4 → moves q → (s.part (s.partOf q)).state = .reconfiguring) →
      Gives (.partCfgWrite v) s (fun t => t.owners = o ∧ t.dlocal = dl ∧
        (∀ q, q < 4 → (s.part (s.partOf q)).state = .reconfiguring → (t.part (t.partOf q)).state = .running) ∧
        t = { s with owners := o, dlocal := dl, parts := t.parts, reconf := t.reconf, dies := t.dies, seen := t.seen } ∧
        (∀ d, t.die d = { s.die d with epochs := (t.die d).epochs }) ∧
        ∀ r, t.reconf = some r → s.reconf = some r ∧ ∃ d ∈ r.dies, (t.part (t.partOf d)).state ∈ [.quiescing, .reconfiguring]))) ∧
  (∀ (die : Nat) (v : DWord) (s : State), die < 4 →
    (v.getLsbD (4 + die) = true → exec (.ivlMapWrite die v) s = .next { s with dies := s.dies.set die { s.die die with
      ivlDies := v.extractLsb' 4 4, ivlMode := v.getLsbD 0 } }) ∧
    (v.getLsbD (4 + die) = false → exec (.ivlMapWrite die v) s = .next s) ∧
    exec (.nbndWrite die v) s = .next { s with dies := s.dies.set die { s.die die with peers := v.extractLsb' 0 4 } }) ∧
  (∀ (n : Nat) (v : DWord) (s : State), n < 16 →
    let len := (v.extractLsb' 32 20).toNat
    let base := (v.extractLsb' 0 19).toNat
    (393216 < base + len → exec (.xshrWrite n v) s = .next s) ∧
    (base + len ≤ 393216 → Gives (.xshrWrite n v) s (fun t => t.xshr.get n = (base, len) ∧
      (∀ w, base ≤ w / 524288 → w / 524288 < base + len →
        t.ownerOf w = none ∧ t.wordVal w = s.wordVal w ∧ ∀ core, t.l1Word core w = {}) ∧
      (∀ d k, ∀ x ∈ (t.die d).l2.get k, ¬ (base ≤ x.line / 16384 ∧ x.line / 16384 < base + len)) ∧
      (∀ m, m ≠ n → t.xshr.get m = s.xshr.get m) ∧ t.threads = s.threads ∧ t.parts = s.parts)))

/-- R199–R203: RECONFIGURATION.  A request brings its quarters to QUIESCING; one that meets another waits; when all is quiet and every context is spilled they are RECONFIGURING with nothing of theirs in the L1s or the scratchpads, and PART_CFG brings the new division in service; an object that
refuses, or 1 ms without quiet, ends it, and the record names the object. -/
def Parts.Reconfigurations : Prop :=
  (∀ (i : Instr) (r : ReconfReq) (s : State),
    ((∃ a b dl, i = .partitionMerge a b dl ∧ r = .merge a b dl) ∨ (∃ p, i = .partitionSplit p ∧ r = .split p) ∨
      (∃ p dl, i = .l2ModeChange p dl ∧ r = .mode p dl)) →
    let a := s.askedFor r
    (s.reconf.isSome = true → exec i s = .next { s with rm := { s.rm with requests := s.rm.requests ++ [r] } }) ∧
    (s.reconf = none → a.dies ≠ [] → divisionOk a.owner a.dlocal = true →
      (∀ d ∈ a.dies, (s.part (s.partOf d)).state = .running) → Gives i s (fun t => t.reconf = some a ∧
        (∀ d ∈ a.dies, (t.part (t.partOf d)).state = .quiescing) ∧ t = { s with parts := t.parts, reconf := some a })) ∧
    (s.reconf = none → (∃ d ∈ a.dies, (s.part (s.partOf d)).state ≠ .running) → exec i s = .next s)) ∧
  (∀ (a b : Nat) (dl : Bool) (s : State) (q : Nat), q < 4 → a ≠ b → a < 4 → b < 4 → s.diesOf a ≠ [] → s.diesOf b ≠ [] →
    let r := s.askedFor (.merge a b dl)
    ownerAt r.owner q = (if s.partOf q = a ∨ s.partOf q = b then min a b else s.partOf q) ∧
    (q ∈ r.dies ↔ s.partOf q = a ∨ s.partOf q = b) ∧ r.modeOnly = false ∧
    r.dlocal.getLsbD q = (if s.partOf q = a ∨ s.partOf q = b then dl else s.dlocal.getLsbD q)) ∧
  (∀ (s : State) (r : Reconf), s.reconf = some r → r.dies ≠ [] → (∀ d ∈ r.dies, d < 4) →
    (∀ d ∈ r.dies, (s.part (s.partOf d)).state = .quiescing) →
    (s.hurdles r true = [] → s.allSpilled r = true → Gives .quiesceDone s (fun t =>
      t.reconf = some r ∧ t.owners = s.owners ∧ (∀ d ∈ r.dies, (t.part (t.partOf d)).state = .reconfiguring) ∧
      (∀ d ∈ r.dies, (t.die d).ivlMode = r.dlocal.getLsbD d) ∧
      (∀ core w, w < 2 ^ 38 → coreDie core ∈ r.dies → t.l1Word core w = {} ∧ t.ownerOf w ≠ some core) ∧
      (∀ a, a / 2 ^ 25 ∈ r.dies → t.dsp.get a = 0))) ∧
    (∀ found : DWord, NoneWaits s → s.hurdles r (r.since + 1000000 ≤ s.now) ≠ [] → Gives (.quiesceTimeout found) s (fun t =>
      t.reconf = none ∧ t.owners = s.owners ∧ (∀ d ∈ r.dies, (t.part (t.partOf d)).state = .running) ∧
      ∃ e, t.rm.mirror.getLast? = some e ∧ e.code = 0x0801 ∧ e.sev = 0 ∧
        ∃ x ∈ s.hurdles r (r.since + 1000000 ≤ s.now), e.va = some x)))

/-- R192, R194–R197, R199–R203: the division, its registers and its changes. -/
def Obligations.Partitions : Prop := Parts.PartitionRegisters ∧ Parts.Reconfigurations

/-- R136, R199, R222–R224: A PARTITION RESET leaves nothing of the partition's cores, queues and records and says so in RSTC; it ends
RUNNING, or DEGRADED without its failed dies; a broadcast that is not acknowledged in 1 ms leads to one; a die that fails takes
its partition to DEGRADED, loses its registered words, and has nothing under way any more. -/
def Obligations.ResetsAndFailures : Prop :=
  (∀ (p : Nat) (sideband : Bool) (s : State), s.reconf = none → s.diesOf p ≠ [] → (s.part p).state ≠ .absent →
    Gives (.partitionReset p sideband) s (fun t =>
      t.part p = { state := .resetting } ∧
      (∀ c ∈ s.ctxs.keys, coreDie (s.ctx c).core ∈ s.diesOf p →
        t.ctx c = default ∧ ∀ k, k < 1024 → t.thr (threadKey c k) = default) ∧
      (∀ q, queueDie q ∈ s.diesOf p → t.queue q = default) ∧
      (∀ w c, t.ownerOf w = some c → coreDie c ∉ s.diesOf p) ∧
      (∀ id a, t.accs.get id = some a → coreDie a.core ∉ s.diesOf p) ∧
      t.rm.rstc.getLsbD (if sideband then 8 else 9) = true ∧ (∀ d, d < 4 → t.rm.rstc.getLsbD (16 + d) = decide (s.partOf d = p)) ∧
      t.owners = s.owners ∧ t.backing = s.backing)) ∧
  (∀ (p : Nat) (s : State), (s.part p).state = .resetting →
    ((∀ d ∈ s.diesOf p, (s.die d).failed = false) →
      exec (.partitionResetDone p) s = .next { s with parts := s.parts.set p { s.part p with state := .running } }) ∧
    ((∃ d ∈ s.diesOf p, (s.die d).failed = true) → Gives (.partitionResetDone p) s (fun t => (t.part p).state = .degraded ∧
      ∀ d ∈ s.diesOf p, (s.die d).failed = false → ∀ q, q < 4 →
        ((t.die d).ivlDies.getLsbD q = true ↔ q ∈ s.diesOf p ∧ (s.die q).failed = false)))) ∧
  (∀ (idx : Nat) (s : State) (b : Shoot), s.shoots.get idx = some b → s.acknowledged b = false → b.warned = true →
    b.due + 1000000 ≤ s.now → s.reconf = none → s.diesOf b.part ≠ [] → (s.part b.part).state ≠ .absent →
    Gives (.shootdownTimeoutReset idx) s (fun t => (t.part b.part).state = .resetting ∧ t.shoots.get idx = none ∧
      LastRecord t 0x0204 3)) ∧
  (∀ (die : Nat) (s : State), die < 4 → (s.die die).failed = false → s.reconf = none → (s.part (s.partOf die)).state = .running →
    Gives (.dieFailure die) s (fun t => (t.die die).failed = true ∧ (t.part (s.partOf die)).state = .degraded ∧
      LastRecord t 0x0802 3 ∧ (∀ id a, t.accs.get id = some a → coreDie a.core ≠ die) ∧
      (∀ e ∈ s.owner.cells, e.2 ≠ 0 → coreDie (e.2 - 1) = die → t.ownerOf e.1 = none ∧
        ((s.part (s.partOf die)).erq.log2cap = 0 → s.kernels = {} → t.poison.get e.1 = true)) ∧
      t.owners = s.owners))

/-- R10, R208, R222, R223, R226: A DEVICE RESET leaves the state after reset: no thread, no memory, no session; RSTC says why and
keeps its upper bits; a good boot brings the recorded division in service and its links into training, a bad signature recovery
mode, and a failure of step 5 a record and no division; clusters start one in 4,096 cycles, and the complex runs when the last one
has started and the record queue of every partition is open.  What memory holds after it, where the measurement log starts, that each step extends it by one
digest and the code of step 5's record are the model's own (logs 1, 3, 37). -/
def Obligations.DeviceResets : Prop :=
  (∀ (cause : ResetCause) (b : BootRecord) (s : State),
    let good : Prop := b.identityOk = true ∧ (b.imageAOk = true ∨ b.imageBOk = true) ∧ b.recordOk = true ∧ b.firmwareOk = true ∧
      mapOk b.coreMap = true ∧ divisionOk b.owner b.dlocal = true ∧ b.startOk = true
    let left (t : State) : Prop := t.threads = {} ∧ t.ctxs = {} ∧ t.groups = {} ∧ t.queues = {} ∧ t.accs = {} ∧ t.sessions = {} ∧
      t.owner = {} ∧ t.reconf = none ∧ t.rm.replies = s.rm.replies ∧
      t.rm.rstc = (if cause = .powerOn then (1 : BitVec 20) else ((s.rm.rstc >>> 11) <<< 11) ||| BitVec.ofNat 20 (2 ^ resetBit cause))
    (good → Gives (.deviceReset cause b) s (fun t => left t ∧ t.owners = b.owner ∧ t.dlocal = b.dlocal ∧ t.rm.state = .booting ∧
      t.rm.coreMap = b.coreMap ∧ (∀ q, q < 4 → (t.part (t.partOf q)).state = .running) ∧
      (∀ l, (linkKey l).isSome = true → t.linkState l = .training) ∧ t.rm.log = (b.digests.take 5).foldl extendLog 0)) ∧
    (b.recordOk = true → b.firmwareOk = true → mapOk b.coreMap = true → (b.imageAOk = true ∨ b.imageBOk = true) →
      (divisionOk b.owner b.dlocal = false ∨ b.startOk = false) → Gives (.deviceReset cause b) s (fun t => left t ∧
        t.rm.state = .booting ∧ t.rm.booted = false ∧ LastRecord t Config.bootCode 4)) ∧
    ((b.recordOk = false ∨ b.firmwareOk = false ∨ mapOk b.coreMap = false ∨ (b.imageAOk = false ∧ b.imageBOk = false)) →
      Gives (.deviceReset cause b) s (fun t => left t ∧ t.rm.state = .recoveryMode ∧ LastRecord t 0x0901 4)) ∧
    exec (.brownout b) s = exec (.deviceReset .brownout b) s) ∧
  (∀ (die : Nat) (s : State), die < 4 → s.rm.state = .booting → s.rm.booted = true → (s.die die).started < 7 →
    4096 * (s.die die).started ≤ s.cycle →
    let last : Prop := (s.die die).started = 6 ∧ ∀ d, d < 4 → d ≠ die → 7 ≤ (s.die d).started
    let listens : Prop := ∀ q, q < 4 → (s.part (s.partOf q)).erq.log2cap ≠ 0
    Gives (.clusterStart die) s (fun t => (t.die die).started = (s.die die).started + 1 ∧
      (last → listens → t.rm.state = .running ∧ t.rm.pairs = 15 ∧ t.rm.petAt = s.now) ∧
      (last → ¬ listens → t.rm.state = .booting) ∧
      (¬ last → (∀ d, d < 4 → (s.die d).failed = false) → t.rm = s.rm))) ∧
  (∀ (p : Nat) (v : DWord) (s : State), s.rm.state = .booting → s.rm.booted = true → (∀ d, d < 4 → 7 ≤ (s.die d).started) →
    s.diesOf p ≠ [] → (∀ q, q < 4 → s.partOf q ≠ p → (s.part (s.partOf q)).erq.log2cap ≠ 0) →
    let cap := (v.extractLsb' 0 5).toNat
    6 ≤ cap → cap ≤ 20 → (v.extractLsb' 12 28).toNat * 4096 % 2 ^ (cap + 6) = 0 → Gives (.erqCfgWrite p v) s (fun t =>
      t.rm.state = .running ∧ t.rm.pairs = 15 ∧ (t.part p).erq.log2cap = cap ∧ (p = 0 → t.rm.prior = [])))

/-- R211, R212, R222: THE RINGMASTER.  A mismatch halts its pair, and the last one's leads to RECOVERING; so does a watchdog that
is not restarted in time, and the sideband; self-test and re-attachment bring the pairs that passed back, or FAILED; re-attachment
waits for an open action of the journal. -/
def Parts.SupervisorSteps : Prop :=
  (∀ (pair : Nat) (s : State), pair < 4 → s.rmUp = true → s.rm.pairs.getLsbD pair = true → NonePending s 0x0601 →
    let rest := s.rm.pairs &&& ~~~BitVec.ofNat 4 (2 ^ pair)
    (∀ i ∈ [Instr.lockstepMismatch pair], rest ≠ 0 → Gives i s (fun t => t.rm.pairs = rest ∧ t.rm.state = .reduced ∧
      Opened s t s.nextId 0x0601)) ∧
    (∀ i ∈ [Instr.lockstepMismatch pair, .ringmasterReset .lastPair], rest = 0 → Gives i s (fun t =>
      t.rm.state = .recovering ∧ t.rm.pairs = 0 ∧ t.rm.rstc = s.rm.rstc ||| 0x80))) ∧
  (∀ (s : State), s.rmUp = true →
    exec (.ringmasterReset .sideband) s = .next ({ s with rm := { s.rm with
      state := .recovering, pairs := 0, excluded := 0, passed := none, harts := {}, rstc := s.rm.rstc ||| 0x20 } } : State).queueHeld ∧
    (s.rm.petAt + s.rm.timeout.toNat * 1000 ≤ s.now → ∀ i ∈ [Instr.watchdogExpiry, .ringmasterReset .watchdog],
      Gives i s (fun t => t.rm.state = .recovering ∧ t.rm.pairs = 0 ∧ t.rm.rstc = s.rm.rstc ||| 0x40)) ∧
    (s.now < s.rm.petAt + s.rm.timeout.toNat * 1000 → exec .watchdogExpiry s = .next s)) ∧
  (∀ (s : State), s.rm.state = .recovering → exec (.ringmasterReset .sideband) s =
    .next { s with rm := { s.rm with passed := none, rstc := s.rm.rstc ||| 0x20 } }) ∧
  (∀ (s : State) (v : Word),
    exec .rmWdogPet s = .next { s with rm := { s.rm with petAt := s.now } } ∧
    (1 ≤ v.toNat → v.toNat ≤ 10000000 → exec (.rmWdogTimeoutWrite v) s = .next { s with rm := { s.rm with timeout := v } }) ∧
    ((v.toNat = 0 ∨ 10000000 < v.toNat) → exec (.rmWdogTimeoutWrite v) s = .next s)) ∧
  (∀ (p : BitVec 4) (s : State), s.rm.state = .recovering → s.rm.passed = none →
    (p &&& ~~~s.rm.excluded ≠ 0 →
      exec (.selfTestDone p) s = .next { s with rm := { s.rm with passed := some (p &&& ~~~s.rm.excluded) } }) ∧
    (p &&& ~~~s.rm.excluded = 0 → Gives (.selfTestDone p) s (fun t => t.rm.state = .failed))) ∧
  (∀ (p : BitVec 4) (s : State), s.rm.state = .recovering → s.rm.passed = some p → p ≠ 0 →
    ((∀ a ∈ s.rm.actions, a.done = true) → Gives .reattachDone s (fun t =>
      t.rm.state = (if p = 15 then .running else .reduced) ∧ t.rm.pairs = p ∧ t.rm.petAt = s.now ∧
      (∀ k, (t.core k).attFaulted = false) ∧ LastRecord t 0x0603 0)) ∧
    (∀ f, (s.frame f).state = .scrubbing → (∃ a ∈ s.rm.actions, a.done = false) →
      (∀ a ∈ s.rm.actions, a.done = false → a.obj = .frame f ∧ a.new = .frame .scrubbing) → exec .reattachDone s = .next s))

/-- R69, R185, R186, R208–R210: THE SIDEBAND.  A session is opened with its key, and with its number in the queues granted, and closed; a reset request is answered before it
acts, with the code of what refuses it; the SPDM requests are answered, in recovery mode two of them alone, and what would be
signed is refused without an identity key; messages of other types are dropped. -/
def Parts.SidebandSteps : Prop :=
  (∀ (n : Word) (key : BitVec 512) (s : State), s.rmUp = true →
    (n ≠ 0 → (s.sessions.get n.toNat).opened = false → s.rm.attests = true → Gives (.sessionOpen n key true) s (fun t =>
      t.sessions = s.sessions.set n.toNat { opened := true, key := key, highest := 0 } ∧ t.rm.grants = [] ∧
      (∀ q ∈ s.rm.grants, (t.queue q).session = n) ∧ (s.rm.grants = [] → t = { s with sessions := t.sessions }))) ∧
    Gives (.sessionOpen n key false) s (fun t => t.sessions = s.sessions ∧ LastRecord t 0x0902 0) ∧
    Gives (.sessionClose n) s (fun t => (t.sessions.get n.toNat).opened = false ∧
      ∀ m, m ≠ n.toNat → t.sessions.get m = s.sessions.get m)) ∧
  (∀ (m : ResetMsg) (b : BootRecord) (s : State),
    let answered (code : Nat) : State :=
      { s with rm := { s.rm with replies := s.rm.replies ++ [.reset code m.tag Config.enterprise] } }
    let whole : Prop := m.cmd = 1 ∧ m.rsv = 0 ∧ m.bytes = 8
    (whole → m.scope = 0 → m.pmask = 0 → Gives (.resetReqDevice m b) s (fun t =>
      exec (.deviceReset .sideband b) (answered 0) = .next t ∧ t.threads = {} ∧ t.rm.replies = (answered 0).rm.replies ∧
        t.rm.rstc.getLsbD 1 = true)) ∧
    (whole → m.scope = 2 → m.pmask = 0 → s.rm.state ≠ .recoveryMode →
      exec (.resetReqRingmaster m) s = exec (.ringmasterReset .sideband) (answered 0)) ∧
    (whole → m.scope = 1 → s.rm.state ≠ .recoveryMode → s.reconf = none →
      (∀ p, p < 4 → s.diesOf p ≠ [] → (s.part p).state ≠ .absent → m.pmask.toNat = (dieMask (s.diesOf p)).toNat →
        Gives (.resetReqPartition m) s (fun t => exec (.partitionReset p true) (answered 0) = .next t ∧
          t.part p = { state := .resetting } ∧ t.rm.replies = (answered 0).rm.replies ∧ t.rm.rstc.getLsbD 8 = true)) ∧
      (s.partOfMask m.pmask = none → exec (.resetReqPartition m) s = .next (answered 2))) ∧
    (whole → m.scope = 1 → s.rm.state ≠ .recoveryMode → s.reconf.isSome = true →
      exec (.resetReqPartition m) s = .next { s with rm := { s.rm with held := s.rm.held ++ [m] } }) ∧
    (∀ i ∈ [Instr.resetReqDevice m b, .resetReqPartition m, .resetReqRingmaster m],
      (i = .resetReqDevice m b → m.scope ≠ 1 ∧ m.scope ≠ 2) → (i = .resetReqPartition m → m.scope = 1) →
      (i = .resetReqRingmaster m → m.scope = 2) →
      ((m.cmd ≠ 1 ∨ 2 < m.scope.toNat) → exec i s = .next (answered 1)) ∧
      (m.cmd = 1 → m.scope.toNat ≤ 2 → (m.scope = 1 ∨ m.pmask = 0) → (m.scope = 0 ∨ s.rm.state ≠ .recoveryMode) →
        (m.rsv ≠ 0 ∨ m.bytes ≠ 8) → exec i s = .next (answered 4)))) ∧
  (∀ (nonce : BitVec 256) (s : State),
    let plus (r : Reply) : State := { s with rm := { s.rm with replies := s.rm.replies ++ [r] } }
    exec .getVersion s = .next (plus .version) ∧
    (s.rm.state ≠ .recoveryMode →
      exec .getCapabilities s = .next (plus .capabilities) ∧ exec .negotiateAlgorithms s = .next (plus .algorithms) ∧
      exec .getDigests s = .next (plus (.digests Config.certificateDigests)) ∧
      exec .getCertificate s = .next (plus (.certificate Config.certificateChain)) ∧
      exec (.challenge nonce) s = .next (plus (if s.rm.attests then .challenge s.rm.log (Config.signature nonce s.rm.log) else .refused))) ∧
    (s.rm.state = .recoveryMode → ∀ i ∈ [Instr.getCapabilities, .negotiateAlgorithms, .getDigests, .getCertificate,
      .challenge nonce], exec i s = .next s) ∧
    exec .getMeasurements s = .next { plus (if s.rm.attests then
      .measurements s.rm.log (Config.signature (Config.requestNonce s.fresh) s.rm.log) else .refused) with fresh := s.fresh + 1 } ∧
    ∀ t, exec (.mctpUnsupported t) s = .next s)

/-- R69, R185, R186, R208–R212, R222: the supervisor complex and the sideband port. -/
def Obligations.Supervisor : Prop := Parts.SupervisorSteps ∧ Parts.SidebandSteps

/-! ## The error logger, scrub, wear, power and cooling -/

/-- R215, R218, R220–R222, R225, R226: the logger's registers; a held record is written 1 ms after its first occurrence; patrol scrub
corrects a line, of which 16 in 24 h spare the row, or poisons the words whose value it holds; RSTC is write-one-to-clear; wear warns
when it first falls below its mark, and for a bank without a spare row;
a warm die slows down a step at a time, a hot one resets the device, and a droop stretches the clock. -/
def Obligations.LoggerAndPowerSteps : Prop :=
  (∀ (p : Nat) (v : DWord) (s : State), s.diesOf p ≠ [] →
    let cap := (v.extractLsb' 0 5).toNat
    let base := (v.extractLsb' 12 28).toNat
    (p ≠ 0 → s.rm.state ≠ .booting → 6 ≤ cap → cap ≤ 20 → base * 4096 % 2 ^ (cap + 6) = 0 → exec (.erqCfgWrite p v) s = .next { s with
      parts := s.parts.set p { s.part p with erq := { (s.part p).erq with base := base, log2cap := cap } } }) ∧
    ((cap < 6 ∨ 20 < cap ∨ base * 4096 % 2 ^ (cap + 6) ≠ 0) → exec (.erqCfgWrite p v) s = .next s) ∧
    exec (.erqCfgRead p) s = .next { s with
      parts := s.parts.set p { s.part p with erq := { (s.part p).erq with lost := 0 } } }) ∧
  (∀ (k : Nat) (s : State) (q : Pending), s.pending.get k = some q →
    (q.due ≤ s.now → Gives (.ceFoldFlush k) s (fun t => t.pending.get k = none ∧
      ∃ pre, t.rm.mirror = s.rm.mirror ++ pre ++ [q.err])) ∧
    (s.now < q.due → exec (.ceFoldFlush k) s = .next s)) ∧
  (∀ (pa left : Nat) (s : State), pa < 0xC000000000 →
    exec (.patrolScrub pa .clean left) s = .next s ∧
    (NonePending s 0x0101 →
      let row := Config.hbmRow (pa / 128 * 128)
      let recent := (s.rows.get row).filter (fun t => s.now < t + 86400000000000)
      (recent.length < 15 → Gives (.patrolScrub pa .corrected left) s (fun t => Opened s t s.nextId 0x0101 ∧
        t.rows.get row = recent ++ [s.now] ∧ t.poison = s.poison ∧ t.mem = s.mem)) ∧
      (15 ≤ recent.length → NonePending s 0x0104 → Gives (.patrolScrub pa .corrected left) s (fun t =>
        Opened s t (s.nextId + 1) 0x0104 ∧ t.rows.get row = [] ∧ (left = 0 → LastRecord t 0x0704 0)))) ∧
    Gives (.patrolScrub pa .uncorrectable left) s (fun t => LastRecord t 0x0102 2 ∧
      (∀ w, w / 32 = pa / 128 → s.ownerOf w = none → t.poison.get w = true) ∧
      ((s.part (s.partOf (pa / 0x3000000000))).erq.log2cap = 0 →
        ∀ w, (w / 32 ≠ pa / 128 ∨ s.ownerOf w ≠ none) → t.poison.get w = s.poison.get w))) ∧
  (∀ (v : DWord) (s : State), Gives (.rstcWrite v) s (fun t => (∀ i, i < 20 →
    t.rm.rstc.getLsbD i = (s.rm.rstc.getLsbD i && !(decide (i < 11) && v.getLsbD i))) ∧ t = { s with rm := t.rm })) ∧
  (∀ (die : Nat) (h : Word) (s : State), die < 5 →
    (h.toNat < (s.die die).wearMark.toNat → Gives (.wearUpdate die h false) s (fun t =>
      (t.die die).wear = h ∧ (t.die die).wearMark = BitVec.ofNat 32 (h.toNat / 2 + 1) ∧ LastRecord t 0x0704 0)) ∧
    Gives (.wearUpdate die h true) s (fun t => (t.die die).wear = h ∧ LastRecord t 0x0704 0) ∧
    ((s.die die).wearMark.toNat ≤ h.toNat → exec (.wearUpdate die h false) s =
      .next { s with dies := s.dies.set die { s.die die with wear := h } })) ∧
  (∀ (die : Nat) (cool : Bool) (s : State), die < 4 →
    ((s.die die).slow = 0 → NonePending s 0x0701 → Gives (.thermalWarn die) s (fun t =>
      (t.die die).slow = 1 ∧ (t.die die).slowAt = s.now ∧ Opened s t s.nextId 0x0701)) ∧
    ((s.die die).slow ≠ 0 → exec (.thermalWarn die) s = .next s ∧
      ((s.die die).slowAt + 1000000 ≤ s.now → exec (.throttleStep die cool) s = .next { s with
        dies := s.dies.set die { s.die die with
          slow := if cool then (s.die die).slow - 1 else min 4 ((s.die die).slow + 1), slowAt := s.now } }))) ∧
  (∀ (die : Nat) (b : BootRecord) (s : State), NonePending s 0x0703 → die < 5 →
    Gives (.vdroop die) s (fun t => (t.die die).stretched = (s.die die).stretched + 1 ∧ Opened s t s.nextId 0x0703) ∧
    Gives (.thermalTrip die b) s (fun t => t.threads = {} ∧ t.rm.rstc.getLsbD 3 = true ∧ ∃ v pre e,
      exec (.deviceReset .thermal b) v = .next t ∧ v.rm.mirror = s.rm.mirror ++ pre ++ [e] ∧
      v.rm.severe.getLast? = some e ∧ e.code = 0x0702 ∧ e.sev = 4))

/-! ## Rules stated whole -/

/-- R237: FMIN, FMAX, WMIN, WMAX and the compact FMAX are the minimum and maximum of IEEE 754-2019.  With a NaN operand the result is
the canonical NaN; otherwise it is an operand that no operand lies beyond, −0 below +0; INV is set for a signalling NaN alone. -/
def Obligations.MinimumAndMaximum : Prop :=
  (∀ (d a b : BitVec 6) (k : BitVec 5), FloatResult (.fmin d a b) d [a, b] (float2of fun _ => fmtMinMax f32 false) ∧
    FloatResult (.fmax d a b) d [a, b] (float2of fun _ => fmtMinMax f32 true) ∧
    FloatResult (.fmaxC d k) d [d, k.zeroExtend 6] (float2of fun _ => fmtMinMax f32 true)) ∧
  (∀ (d a b : BitVec 4), ∀ f ∈ [(f32, 1), (f16, 2), (bf16, 3)],
    let v (up : Bool) (_ : RMode) (l : List WReg) : WReg × BitVec 5 := packedOf f.2 ((List.range (256 / f.1.width)).map (fun e =>
      fmtMinMax f.1 up (regBits (l.getD 0 {}) e) (regBits (l.getD 1 {}) e)))
    let ok (l : List WReg) : Prop := ∀ r ∈ l, r.tag.toNat = f.2
    ∀ s sel, Issues s sel 2 → Filled s sel [] [a.toNat, b.toNat] →
      (∀ k ∈ sel.slots, ok [(s.thr (sel.key k)).rdW a.toNat, (s.thr (sel.key k)).rdW b.toNat]) →
      ∀ i ∈ [(Instr.wmin d a b, false), (Instr.wmax d a b, true)], Changes i.1 s sel (fun x =>
        let r := v i.2 (modeOf x) [x.rdW a.toNat, x.rdW b.toNat]
        { x with fstat := x.fstat ||| r.2 }.wrW d.toNat r.1)) ∧
  (∀ f ∈ [f32, f16, bf16], ∀ (up : Bool) (x y : Nat), x < 2 ^ f.width → y < 2 ^ f.width →
    let r := fmtMinMax f up x y
    let u := f.decode x
    let v := f.decode y
    let z := f.decode r.1
    let least : Nat := if up then 0 else 2 ^ (f.width - 1)
    (u.isNan = true ∨ v.isNan = true → r.1 = f.nan) ∧
    (u.isNan = false → v.isNan = false → (r.1 = x ∨ r.1 = y) ∧
      ∀ w ∈ [u, v], (if up then z.lt w else w.lt z) = false) ∧
    (u.isZero = true → v.isZero = true → (x = least ∨ y = least) → r.1 = least) ∧
    r.2 = (if u.isSnan = true ∨ v.isSnan = true then fINV else 0))

/-- R228, R230: an E8M0 scale byte v stands for 2 to the power of v − 127, and so does the exponent byte of a BFP block, whose
elements are mantissas of w bits in two's complement over 2 to the power of w − 1; 0xFF makes every element of the block NaN,
whatever its bits; no scale has a sign or is zero. -/
def Obligations.ScaleBytes : Prop := ∀ bits v : Nat, v < 256 →
  (∀ t ∈ [7, 8, 9, 0x10, 0x11, 0x12, 0x13, 0x14, 0x15, 0x16], v = 255 → elemExact t bits v = .nan false) ∧
  (v ≠ 255 → ∀ e ∈ [(7, e2m1), (8, e4m3), (9, e5m2)], ∀ neg m x, e.2.decode (bits % 2 ^ e.2.width) = .fin neg m x →
    elemExact e.1 bits v = .fin neg m (x + v - 127)) ∧
  (v ≠ 255 → ∀ w, 2 ≤ w → w ≤ 8 →
    let u : Nat := bits % 2 ^ w
    let m : Int := if u < 2 ^ (w - 1) then (u : Int) else (u : Int) - 2 ^ w
    (-(2 ^ (w - 1) : Int) ≤ m) ∧ m ≤ 2 ^ (w - 1) - 1 ∧
    elemExact (0x0E + w) bits v = .fin (decide (m < 0)) m.natAbs ((v : Int) - 127 - (w - 1)))

/-- R247: an instruction names its group's tiles from 0: tile d is the tile d of the grant; one that names a tile at or above TILES
traps ILLEGAL. -/
def Obligations.TilesOfAGroup : Prop := ∀ (d : BitVec 3) (a : BitVec 4) (b g : BitVec 6) (f c : BitVec 1) (o : BitVec 2) (s : State)
    (sel : Sel) (k : Nat),
  let gr := s.group (s.thr (sel.key k)).group
  (d.toNat < gr.tileCount → s.tileOf (sel.key k) d.toNat = some (gr.tileBase + d.toNat)) ∧
  (Alone s sel k 2 → gr.tileCount ≤ d.toNat → ∀ i ∈ [Instr.mma d a b f o, .mmas d a b f o, .xzero d, .xld d a b f o, .xst d a b f o,
    .xdrain d a b f o, .xguard g d c, .xtag g d], i.wf = true → TrapsAs i s sel k (trapOf .illegal))

/-- R151: A SETTLE THAT STARTS computes in full when the count of settles has reached RECON or the overflow status is set.  A full
computation sets the count to 0, clears the overflow status and consumes the settling epoch; an ordinary settle adds 1. -/
def Obligations.ReconcilingSettles : Prop :=
  (∀ (die id : Nat) (s : State) (c : Cmd) (d e : BitVec 6) (f : BitVec 1) (o : BitVec 2), s.threads.wf = true → s.cmds.get id = some c →
    c.i = .settle d e f o → (s.cmdsOf (.spe die)).find? (fun e => s.speReady e.1 e.2) = some (id, c) → s.speValid c = true →
    let b := s.binding (s.cmdPart c) (c.mark - 1)
    b.state ≠ .failed → ∃ u, (let b' := u.binding (s.cmdPart c) (c.mark - 1)
      b'.state = .settling ∧ (b'.full = true ↔ b.recon ≤ b.count ∨ b.ovf = true) ∧ b'.ovf = false ∧ b'.old = b.caps) ∧
      Injects (.speCommandStart die) s u die 2 63 (2 ^ 64)) ∧
  (∀ (p n : Nat) (s : State), let b := s.binding p n
    (b.state = .settling ∨ b.state = .computing) → s.speGoes p n = true → s.spePoisoned p n = false → s.speUnmapped p n = false →
    b.leaving = false → s.walkedOn (s.speReads p n) (s.speDie p n) = false →
    let room (k : State → State) : Prop := HasBudget s ((rested s).speWalking p n k) (s.speDie p n) 2 63 (2 ^ 65 + p * 4096 + n)
    (b.full = true → room (fun u => u.fullDone p n) → ∃ t, exec (.speFullComputeDone p n) s = .next t ∧ (let b' := t.binding p n
      b'.count = 0 ∧ b'.oldOvf = false ∧ b'.old = {})) ∧
    (b.state = .settling → b.full = false → room (fun u => u.settleDone p n) →
      ∃ t, exec (.speSettleDone p n) s = .next t ∧ (t.binding p n).count = b.count + 1))

/-! ## The machine as a whole -/

/-- R7 and the reset columns of R98, R107, R184, R194–R196, R211, R222: what device reset leaves; the Ringmaster boots, no
partition, thread, kernel or queue exists, no page is mapped and nothing is under way.  That RSTC says power-on, where the clock
stands and what the registers without a reset column hold are the model's choices (logs 3, 6). -/
def Obligations.ResetState : Prop :=
  let s := State.reset
  s.rm.state = .booting ∧ s.rm.timeout = 100000 ∧ s.rm.rstc = 1 ∧ s.owners = 0xE4 ∧ s.dlocal = 0 ∧ s.cycle = 0 ∧ s.now = 0 ∧
  (∀ p, (s.part p).state = .absent ∧ (s.part p).pool.count = 0 ∧ (s.part p).erq.log2cap = 0) ∧
  (∀ d, d < 4 → (s.die d).failed = false ∧ (s.die d).started = 0 ∧ (s.die d).ivlDies = BitVec.ofNat 4 (2 ^ d) ∧
    (s.die d).ivlMode = false ∧ (s.die d).peers = BitVec.ofNat 4 (2 ^ d) ∧
    (∀ c, c < 8 → s.budgetWord d c = 0x07FF0400) ∧ (∀ n, n < 64 → (s.die d).tqTarget.get n = 0x4000)) ∧
  (∀ n, (s.tenant n).deleg = 0xAAAAAAAA) ∧ (∀ l, s.linkState l = .disabled) ∧ (∀ n, s.xshr.get n = (0, 0)) ∧
  (∀ t, (s.thr t).run = .free) ∧ (∀ c, (s.ctx c).state = .absent) ∧ (∀ q, (s.queue q).state = .free) ∧
  (∀ f, (s.frame f).state = .free) ∧ (∀ id, s.accs.get id = none) ∧ (∀ w, s.ownerOf w = none)

/-- At reset every memory and table of the invariant is in its canonical form. -/
def Obligations.ResetIsCanonical : Prop := State.reset.Canonical

/-- A STEP TAKES THE TURN THAT STANDS FIRST.  For an issue slot it fetches the first ready troupe's instruction, performs it and
gives the turn back when only a header was passed; an instruction whose operands' latency has not passed waits; a word that decodes to
nothing, and one whose second parcel lies outside its clause, is the reserved encoding; for an event it performs the event, and
writes what S level does into the journal, unless it is one of S level's while the complex is not in service; for the clock the next
cycle begins. -/
def Obligations.StepRunsTheDecodedInstruction : Prop :=
  (∀ (s v t : State) (r : List Turn) (core islot : Nat) (tr : Troupe) (rest : List Troupe) (bs : List Byte),
    s.turns = .issue core islot :: r →
    let s0 : State := { s with turns := r }
    let c := (s0.core core).ctxIn (s0.core core).activeBank
    let sel : Sel := ⟨core, c, tr.slots⟩
    let key := threadKey c (tr.slots.headD 0)
    let pc := (s0.thr key).pc.toNat
    s0.candidates core islot = tr :: rest →
    ((s0.thr key).recheck = true → s0.recheckTroupe sel = .next t → s0.hasIssued t c tr = true →
      step s = .next (s0.afterIssue t core islot c tr)) ∧
    let mayGoOn (b0 b1 : Byte) : Bool := if (s0.thr key).gate then State.insideClause (s0.thr key) 2 else State.headerParcel [b0, b1]
    let runs (i : Instr) : Prop :=
      (v.interlocked sel i = false → exec i { v with sel := some sel } = .next t → s0.mustHold t = false →
        s0.hasIssued (v.stamped t sel i) c tr = true → step s = .next (s0.afterIssue (v.stamped t sel i) core islot c tr)) ∧
      (v.interlocked sel i = true → rest = [] → step s = .next s0)
    ((s0.thr key).recheck = false →
      ((∃ b0 b1 u, bs = [b0, b1] ∧ b0.toNat % 2 = 0 ∧ s0.fetch key pc 2 = .bytes u bs ∧ v = u.standIn sel pc) ∨
       (∃ b0 b1 b2 b3 u w, bs = [b0, b1, b2, b3] ∧ b0.toNat % 2 = 1 ∧ s0.fetch key pc 2 = .bytes u [b0, b1] ∧ mayGoOn b0 b1 = true ∧
         u.fetch key (pc + 2) 2 = .bytes w [b2, b3] ∧ v = (w.standIn sel pc).standIn sel (pc + 2))) →
      (∀ i, decode bs = .ok (i, []) → runs i) ∧
      (∀ e, decode bs = .error e → runs (.reservedEncoding (BitVec.ofNat 32 (leNat bs))))) ∧
    (∀ b0 b1, (s0.thr key).recheck = false → b0.toNat % 2 = 1 → s0.fetch key pc 2 = .bytes v [b0, b1] → mayGoOn b0 b1 = false →
      runs (.reservedEncoding (BitVec.ofNat 32 (leNat [b0, b1]))))) ∧
  (∀ (s t : State) (core islot c : Nat) (tr : Troupe), s.hasPassed t c tr = false → s.hasLeft t c tr = false → tr.first = none →
    s.afterIssue t core islot c tr = t) ∧
  (∀ (s : State) (r : List Turn) (core islot : Nat), s.turns = .issue core islot :: r →
    ({ s with turns := r } : State).candidates core islot = [] → step s = .next { s with turns := r }) ∧
  (∀ (s : State) (r : List Turn) (i : Instr), s.turns = .event i :: r → isEvent i = true →
    let s0 : State := { s with turns := r }
    let k (u : State) : Host.Outcome State Fault Refusal := orHeld u (exec i u)
    (s0.rmKeeps (begins i) (ends i) = true → step s = .next s0) ∧
    (s0.rmKeeps (begins i) (ends i) = false → step s = (if supervises i then journaled k s0 else k s0)) ∧
    (∀ t, s0.rmKeeps (begins i) (ends i) = false → supervises i = false → exec i s0 = .next t → s0.mustHold t = false →
      step s = .next t)) ∧
  (∀ (s : State), s.turns = [] → step s = .next s.tick) ∧
  (∀ (s : State) (r : List Turn), s.turns = .tick :: r → step s = .next ({ s with turns := r } : State).tick)

/-- WORDS OF THE MANUAL'S EXAMPLES decode to what they stand for, one of each of a few families. -/
def Obligations.WordsDecode : Prop :=
  ∀ e ∈ [(0x04282121, Instr.aadd 2 1 5 2), (0x0A30A203, .divI 4 5 6), (0xAE60027F, .clause 4 12 12 5 1),
      (0x0230A217, .sel 4 5 6 1)], decodeTableWord 32 e.1 = some e.2

/-- R259, R271: DECODING UNDOES ENCODING, whatever bytes follow: for every instruction with an encoding and every value of its
operands that the decoder admits. -/
def Obligations.DecodeOfEncode : Prop := ∀ (i : Instr) (rest : List Byte), 0 < i.parcels → i.codesOk = true →
  decode (encode i ++ rest) = .ok (i, rest)

/-- R258, R271, R272: ONE MEANING, ONE WORD: what the decoder accepts is the encoding of the instruction that it answers. -/
def Obligations.EncodeOfDecode : Prop := ∀ (bs rest : List Byte) (i : Instr), decode bs = .ok (i, rest) →
  i.codesOk = true ∧ bs = encode i ++ rest

/-- EVERY STEP KEEPS THE CANONICAL FORM of every memory, of the thread slots and of the accesses under way. -/
def Obligations.StepKeepsCanonical : Prop := ∀ s t, s.Canonical → step s = .next t → t.Canonical

/-- THE MACHINE NEVER STOPS: from every state a step answers a next state. -/
def Obligations.EveryStateRuns : Prop := ∀ s : State, s.Runs
end

