-- ==== Sys2Proof/Laws/Tab.lean ====
section
/-! SUPPORT. The laws of tables and memories: a read after a write, and that every operation keeps the canonical form. -/

namespace Sys2Proof.Machine

variable {α : Type}

theorem lookup_insertKey (k j : Nat) (v : α) (l : List (Nat × α)) :
    lookup j (insertKey k v l) = if j = k then some v else lookup j l := by
  induction l with
  | nil => simp only [insertKey, lookup]; split_ifs <;> simp_all
  | cons c r ih =>
    obtain ⟨i, x⟩ := c
    by_cases h1 : k < i
    · rw [insertKey, if_pos h1]
      by_cases h2 : j = k
      · simp [lookup, h2]
      · simp [lookup, h2, Ne.symm h2]
    · by_cases h2 : k = i
      · rw [insertKey, if_neg h1, if_pos h2]
        subst h2
        by_cases h3 : j = k
        · simp [lookup, h3]
        · simp [lookup, h3, Ne.symm h3]
      · rw [insertKey, if_neg h1, if_neg h2]
        by_cases h3 : i = j
        · subst h3; simp [lookup, Ne.symm h2]
        · simp [lookup, h3, ih]

theorem lookup_filter_ne (k j : Nat) (l : List (Nat × α)) :
    lookup j (l.filter (fun c => decide (c.1 ≠ k))) = if j = k then none else lookup j l := by
  induction l with
  | nil => simp [lookup]
  | cons c r ih =>
    obtain ⟨i, x⟩ := c
    by_cases h : i = k
    · simp only [List.filter_cons, h, ne_eq, not_true, decide_false, Bool.false_eq_true, if_false, ih, lookup]
      split_ifs <;> simp_all
    · simp only [List.filter_cons, h, ne_eq, not_false_eq_true, decide_true, if_true, ih, lookup]
      split_ifs <;> simp_all

/-- Every key of the list is above a bound. -/
def above (b : Nat) (l : List (Nat × α)) : Prop := ∀ c ∈ l, b < c.1

theorem rising_cons (j : Nat) (x : α) (l : List (Nat × α)) :
    rising ((j, x) :: l) = true ↔ above j l ∧ rising l = true := by
  induction l generalizing j x with
  | nil => simp [rising, above]
  | cons c r ih =>
    obtain ⟨k, y⟩ := c
    simp only [rising, Bool.and_eq_true, decide_eq_true_eq]
    constructor
    · rintro ⟨h1, h2⟩
      refine ⟨?_, h2⟩
      intro c hc
      rcases List.mem_cons.1 hc with rfl | hc
      · exact h1
      · exact lt_trans h1 (((ih k y).1 h2).1 c hc)
    · rintro ⟨h1, h2⟩
      exact ⟨h1 (k, y) (List.mem_cons_self ..), h2⟩

theorem above_filter {b : Nat} {l : List (Nat × α)} (p : Nat × α → Bool) (h : above b l) : above b (l.filter p) :=
  fun c hc => h c (List.mem_filter.1 hc).1

theorem rising_filter (p : Nat × α → Bool) (l : List (Nat × α)) (h : rising l = true) : rising (l.filter p) = true := by
  induction l with
  | nil => simpa using h
  | cons c r ih =>
    obtain ⟨j, x⟩ := c
    obtain ⟨h1, h2⟩ := (rising_cons j x r).1 h
    rw [List.filter_cons]
    split_ifs
    · exact (rising_cons j x _).2 ⟨above_filter p h1, ih h2⟩
    · exact ih h2

theorem above_insertKey {b k : Nat} (v : α) {l : List (Nat × α)} (hk : b < k) (h : above b l) :
    above b (insertKey k v l) := by
  induction l with
  | nil => simpa [insertKey, above] using hk
  | cons c r ih =>
    obtain ⟨i, x⟩ := c
    have hr : above b r := fun c hc => h c (List.mem_cons_of_mem _ hc)
    have hi : b < i := h (i, x) (List.mem_cons_self ..)
    simp only [insertKey]
    intro c hc
    split_ifs at hc with h1 h2
    · rcases List.mem_cons.1 hc with rfl | hc
      · exact hk
      · exact h c hc
    · rcases List.mem_cons.1 hc with rfl | hc
      · exact hk
      · exact hr c hc
    · rcases List.mem_cons.1 hc with rfl | hc
      · exact hi
      · exact ih hr c hc

theorem rising_insertKey (k : Nat) (v : α) (l : List (Nat × α)) (h : rising l = true) :
    rising (insertKey k v l) = true := by
  induction l with
  | nil => simp [insertKey, rising]
  | cons c r ih =>
    obtain ⟨i, x⟩ := c
    obtain ⟨h1, h2⟩ := (rising_cons i x r).1 h
    simp only [insertKey]
    split_ifs with hk he
    · exact (rising_cons k v _).2 ⟨fun c hc => by
        rcases List.mem_cons.1 hc with rfl | hc
        · exact hk
        · exact lt_trans hk (h1 c hc), h⟩
    · subst he
      exact (rising_cons k v _).2 ⟨h1, h2⟩
    · exact (rising_cons i x _).2 ⟨above_insertKey v (by omega) h1, ih h2⟩

theorem mem_insertKey {k : Nat} {v : α} {l : List (Nat × α)} {c : Nat × α} (h : c ∈ insertKey k v l) :
    c = (k, v) ∨ c ∈ l := by
  induction l with
  | nil => simpa [insertKey] using h
  | cons d r ih =>
    obtain ⟨i, x⟩ := d
    simp only [insertKey] at h
    split_ifs at h with h1 h2
    · rcases List.mem_cons.1 h with h | h
      · exact .inl h
      · exact .inr h
    · rcases List.mem_cons.1 h with h | h
      · exact .inl h
      · exact .inr (List.mem_cons_of_mem _ h)
    · rcases List.mem_cons.1 h with h | h
      · exact .inr (h ▸ List.mem_cons_self ..)
      · rcases ih h with h | h
        · exact .inl h
        · exact .inr (List.mem_cons_of_mem _ h)

namespace Tab

variable [Inhabited α] [DecidableEq α]

/-- What a key reads as after a write. -/
theorem get_set (t : Tab α) (k j : Nat) (v : α) : (t.set k v).get j = if j = k then v else t.get j := by
  unfold Tab.set Tab.get
  by_cases h : v = default
  · rw [if_pos h]
    show (lookup j (t.cells.filter (fun c => decide (c.1 ≠ k)))).getD default = _
    rw [lookup_filter_ne]
    split_ifs <;> simp [h]
  · rw [if_neg h]
    show (lookup j (insertKey k v t.cells)).getD default = _
    rw [lookup_insertKey]
    split_ifs <;> simp

@[simp] theorem get_set_self (t : Tab α) (k : Nat) (v : α) : (t.set k v).get k = v := by simp [get_set]

theorem get_set_ne (t : Tab α) {k j : Nat} (v : α) (h : j ≠ k) : (t.set k v).get j = t.get j := by simp [get_set, h]

theorem get_modify (t : Tab α) (k j : Nat) (f : α → α) :
    (t.modify k f).get j = if j = k then f (t.get k) else t.get j := by simp [modify, get_set]

@[simp] theorem get_modify_self (t : Tab α) (k : Nat) (f : α → α) : (t.modify k f).get k = f (t.get k) := by
  simp [get_modify]

omit [DecidableEq α] in
@[simp] theorem get_empty (k : Nat) : ({} : Tab α).get k = default := rfl

theorem wf_iff (t : Tab α) : t.wf = true ↔ rising t.cells = true ∧ ∀ c ∈ t.cells, c.2 ≠ default := by
  simp [Tab.wf]

@[simp] theorem empty_wf : ({} : Tab α).wf = true := rfl

/-- A write keeps the canonical form. -/
theorem set_wf (t : Tab α) (k : Nat) (v : α) (h : t.wf = true) : (t.set k v).wf = true := by
  obtain ⟨h1, h2⟩ := (wf_iff t).1 h
  unfold Tab.set
  by_cases hv : v = default
  · rw [if_pos hv]
    exact (wf_iff _).2 ⟨rising_filter _ _ h1, fun c hc => h2 c (List.mem_filter.1 hc).1⟩
  · rw [if_neg hv]
    refine (wf_iff _).2 ⟨rising_insertKey k v _ h1, fun c hc => ?_⟩
    rcases mem_insertKey hc with rfl | hc
    · exact hv
    · exact h2 c hc

theorem modify_wf (t : Tab α) (k : Nat) (f : α → α) (h : t.wf = true) : (t.modify k f).wf = true := set_wf t k _ h

theorem drop_wf (t : Tab α) (p : Nat → α → Bool) (h : t.wf = true) : (t.drop p).wf = true := by
  obtain ⟨h1, h2⟩ := (wf_iff t).1 h
  exact (wf_iff _).2 ⟨rising_filter _ _ h1, fun c hc => h2 c (List.mem_filter.1 hc).1⟩

/-- What a key reads as after the listed entries changed. -/
theorem get_mapCells (t : Tab α) (f : Nat → α → α) (k : Nat) :
    (t.mapCells f).get k = ((lookup k t.cells).map (f k)).getD default := by
  unfold mapCells
  induction t.cells with
  | nil => rfl
  | cons c r ih =>
    obtain ⟨j, x⟩ := c
    simp only [List.foldr_cons, get_set, lookup]
    by_cases h : k = j
    · subst h; simp
    · rw [if_neg h, if_neg (Ne.symm h)]; exact ih

/-- The same, where the function keeps what an unlisted key reads as. -/
theorem get_mapCells_of (t : Tab α) (f : Nat → α → α) (k : Nat) (h : f k default = default) :
    (t.mapCells f).get k = f k (t.get k) := by
  rw [get_mapCells, Tab.get]
  cases lookup k t.cells <;> simp [h]

theorem mapCells_wf (t : Tab α) (f : Nat → α → α) : (t.mapCells f).wf = true := by
  unfold mapCells
  induction t.cells with
  | nil => rfl
  | cons c r ih => exact set_wf _ _ _ ih

end Tab

/-! Memories. -/

theorem Memory.store_wf (m : Memory) (a : Nat) (bs : List Byte) (h : Memory.wf m = true) :
    Memory.wf (m.store a bs) = true := by
  induction bs generalizing m a with
  | nil => exact h
  | cons b r ih => exact ih _ _ (Tab.set_wf m a b h)

/-- A byte outside the stored bytes reads as before. -/
theorem Memory.get_store_outside (m : Memory) (a k : Nat) (bs : List Byte) (h : k < a ∨ a + bs.length ≤ k) :
    (m.store a bs).get k = m.get k := by
  induction bs generalizing m a with
  | nil => rfl
  | cons b r ih =>
    simp only [List.length_cons] at h
    rw [Memory.store, ih _ _ (by omega), Tab.get_set_ne _ _ (by omega)]

/-- A stored byte reads as stored. -/
theorem Memory.get_store_inside (m : Memory) (a i : Nat) (bs : List Byte) (h : i < bs.length) :
    (m.store a bs).get (a + i) = bs.getD i 0 := by
  induction bs generalizing m a i with
  | nil => simp at h
  | cons b r ih =>
    cases i with
    | zero => rw [Memory.store, Nat.add_zero, Memory.get_store_outside _ _ _ _ (by omega)]; simp
    | succ n =>
      rw [Memory.store, show a + (n + 1) = (a + 1) + n by omega, ih _ _ _ (by simpa using h)]; simp

/-- The bytes that were stored are read back. -/
theorem Memory.bytes_store (m : Memory) (a : Nat) (bs : List Byte) : (m.store a bs).bytes a bs.length = bs := by
  induction bs generalizing m a with
  | nil => rfl
  | cons b r ih =>
    show (Memory.store (m.set a b) (a + 1) r).get a :: (Memory.store (m.set a b) (a + 1) r).bytes (a + 1) r.length = b :: r
    rw [ih, Memory.get_store_outside _ _ _ _ (by omega), Tab.get_set_self]

theorem leBytes_length (n x : Nat) : (leBytes n x).length = n := by
  induction n generalizing x with
  | zero => rfl
  | succ n ih => simp [leBytes, ih]

theorem leNat_leBytes (n x : Nat) : leNat (leBytes n x) = x % 256 ^ n := by
  induction n generalizing x with
  | zero => simp [leBytes, leNat, Nat.mod_one]
  | succ n ih =>
    have h : 256 ^ (n + 1) = 256 * 256 ^ n := by ring
    rw [leBytes, leNat, ih, BitVec.toNat_ofNat, h, Nat.mod_mul]

end Sys2Proof.Machine
end

