-- ==== Sys2Proof/Laws/State.lean ====
section
/-! SUPPORT. What each named update of the state changes: one lemma per field, and reads after updates. -/

set_option Elab.async false

namespace Sys2Proof.Machine.State

variable (s : State)

@[simp] theorem setThr_mem (t : Nat) (x : Thread) : (s.setThr t x).mem = s.mem := rfl
@[simp] theorem setThr_poison (t : Nat) (x : Thread) : (s.setThr t x).poison = s.poison := rfl
@[simp] theorem setThr_owner (t : Nat) (x : Thread) : (s.setThr t x).owner = s.owner := rfl
@[simp] theorem setThr_l1 (t : Nat) (x : Thread) : (s.setThr t x).l1 = s.l1 := rfl
@[simp] theorem setThr_lane (t : Nat) (x : Thread) : (s.setThr t x).lane = s.lane := rfl
@[simp] theorem setThr_pad (t : Nat) (x : Thread) : (s.setThr t x).pad = s.pad := rfl
@[simp] theorem setThr_clus (t : Nat) (x : Thread) : (s.setThr t x).clus = s.clus := rfl
@[simp] theorem setThr_dsp (t : Nat) (x : Thread) : (s.setThr t x).dsp = s.dsp := rfl
@[simp] theorem setThr_dspSave (t : Nat) (x : Thread) : (s.setThr t x).dspSave = s.dspSave := rfl
@[simp] theorem setThr_lpoison (t : Nat) (x : Thread) : (s.setThr t x).lpoison = s.lpoison := rfl
@[simp] theorem setThr_evicted (t : Nat) (x : Thread) : (s.setThr t x).evicted = s.evicted := rfl
@[simp] theorem setThr_evLane (t : Nat) (x : Thread) : (s.setThr t x).evLane = s.evLane := rfl
@[simp] theorem setThr_ctxs (t : Nat) (x : Thread) : (s.setThr t x).ctxs = s.ctxs := rfl
@[simp] theorem setThr_cores (t : Nat) (x : Thread) : (s.setThr t x).cores = s.cores := rfl
@[simp] theorem setThr_groups (t : Nat) (x : Thread) : (s.setThr t x).groups = s.groups := rfl
@[simp] theorem setThr_kernels (t : Nat) (x : Thread) : (s.setThr t x).kernels = s.kernels := rfl
@[simp] theorem setThr_queues (t : Nat) (x : Thread) : (s.setThr t x).queues = s.queues := rfl
@[simp] theorem setThr_dies (t : Nat) (x : Thread) : (s.setThr t x).dies = s.dies := rfl
@[simp] theorem setThr_parts (t : Nat) (x : Thread) : (s.setThr t x).parts = s.parts := rfl
@[simp] theorem setThr_tenants (t : Nat) (x : Thread) : (s.setThr t x).tenants = s.tenants := rfl
@[simp] theorem setThr_frames (t : Nat) (x : Thread) : (s.setThr t x).frames = s.frames := rfl
@[simp] theorem setThr_backing (t : Nat) (x : Thread) : (s.setThr t x).backing = s.backing := rfl
@[simp] theorem setThr_xshr (t : Nat) (x : Thread) : (s.setThr t x).xshr = s.xshr := rfl
@[simp] theorem setThr_walkers (t : Nat) (x : Thread) : (s.setThr t x).walkers = s.walkers := rfl
@[simp] theorem setThr_roots (t : Nat) (x : Thread) : (s.setThr t x).roots = s.roots := rfl
@[simp] theorem setThr_owners (t : Nat) (x : Thread) : (s.setThr t x).owners = s.owners := rfl
@[simp] theorem setThr_dlocal (t : Nat) (x : Thread) : (s.setThr t x).dlocal = s.dlocal := rfl
@[simp] theorem setThr_rm (t : Nat) (x : Thread) : (s.setThr t x).rm = s.rm := rfl
@[simp] theorem setThr_links (t : Nat) (x : Thread) : (s.setThr t x).links = s.links := rfl
@[simp] theorem setThr_linkTries (t : Nat) (x : Thread) : (s.setThr t x).linkTries = s.linkTries := rfl
@[simp] theorem setThr_ioRoots (t : Nat) (x : Thread) : (s.setThr t x).ioRoots = s.ioRoots := rfl
@[simp] theorem setThr_sessions (t : Nat) (x : Thread) : (s.setThr t x).sessions = s.sessions := rfl
@[simp] theorem setThr_comms (t : Nat) (x : Thread) : (s.setThr t x).comms = s.comms := rfl
@[simp] theorem setThr_accs (t : Nat) (x : Thread) : (s.setThr t x).accs = s.accs := rfl
@[simp] theorem setThr_regns (t : Nat) (x : Thread) : (s.setThr t x).regns = s.regns := rfl
@[simp] theorem setThr_pends (t : Nat) (x : Thread) : (s.setThr t x).pends = s.pends := rfl
@[simp] theorem setThr_placements (t : Nat) (x : Thread) : (s.setThr t x).placements = s.placements := rfl
@[simp] theorem setThr_steals (t : Nat) (x : Thread) : (s.setThr t x).steals = s.steals := rfl
@[simp] theorem setThr_late (t : Nat) (x : Thread) : (s.setThr t x).late = s.late := rfl
@[simp] theorem setThr_posts (t : Nat) (x : Thread) : (s.setThr t x).posts = s.posts := rfl
@[simp] theorem setThr_cmds (t : Nat) (x : Thread) : (s.setThr t x).cmds = s.cmds := rfl
@[simp] theorem setThr_heapOps (t : Nat) (x : Thread) : (s.setThr t x).heapOps = s.heapOps := rfl
@[simp] theorem setThr_heaps (t : Nat) (x : Thread) : (s.setThr t x).heaps = s.heaps := rfl
@[simp] theorem setThr_shoots (t : Nat) (x : Thread) : (s.setThr t x).shoots = s.shoots := rfl
@[simp] theorem setThr_reconf (t : Nat) (x : Thread) : (s.setThr t x).reconf = s.reconf := rfl
@[simp] theorem setThr_pending (t : Nat) (x : Thread) : (s.setThr t x).pending = s.pending := rfl
@[simp] theorem setThr_colls (t : Nat) (x : Thread) : (s.setThr t x).colls = s.colls := rfl
@[simp] theorem setThr_flits (t : Nat) (x : Thread) : (s.setThr t x).flits = s.flits := rfl
@[simp] theorem setThr_results (t : Nat) (x : Thread) : (s.setThr t x).results = s.results := rfl
@[simp] theorem setThr_outbox (t : Nat) (x : Thread) : (s.setThr t x).outbox = s.outbox := rfl
@[simp] theorem setThr_seen (t : Nat) (x : Thread) : (s.setThr t x).seen = s.seen := rfl
@[simp] theorem setThr_rows (t : Nat) (x : Thread) : (s.setThr t x).rows = s.rows := rfl
@[simp] theorem setThr_turns (t : Nat) (x : Thread) : (s.setThr t x).turns = s.turns := rfl
@[simp] theorem setThr_sel (t : Nat) (x : Thread) : (s.setThr t x).sel = s.sel := rfl
@[simp] theorem setThr_cycle (t : Nat) (x : Thread) : (s.setThr t x).cycle = s.cycle := rfl
@[simp] theorem setThr_now (t : Nat) (x : Thread) : (s.setThr t x).now = s.now := rfl
@[simp] theorem setThr_nextId (t : Nat) (x : Thread) : (s.setThr t x).nextId = s.nextId := rfl
@[simp] theorem setThr_fresh (t : Nat) (x : Thread) : (s.setThr t x).fresh = s.fresh := rfl
@[simp] theorem setThr_ctx_read (t : Nat) (x : Thread) (j : Nat) : (s.setThr t x).ctx j = s.ctx j := rfl
@[simp] theorem setThr_core_read (t : Nat) (x : Thread) (j : Nat) : (s.setThr t x).core j = s.core j := rfl
@[simp] theorem setThr_group_read (t : Nat) (x : Thread) (j : Nat) : (s.setThr t x).group j = s.group j := rfl
@[simp] theorem setThr_kernel_read (t : Nat) (x : Thread) (j : Nat) : (s.setThr t x).kernel j = s.kernel j := rfl
@[simp] theorem setThr_queue_read (t : Nat) (x : Thread) (j : Nat) : (s.setThr t x).queue j = s.queue j := rfl
@[simp] theorem setThr_die_read (t : Nat) (x : Thread) (j : Nat) : (s.setThr t x).die j = s.die j := rfl
@[simp] theorem setThr_part_read (t : Nat) (x : Thread) (j : Nat) : (s.setThr t x).part j = s.part j := rfl
theorem setThr_thr (t : Nat) (x : Thread) (j : Nat) : (s.setThr t x).thr j = if j = t then x else s.thr j := by
  simp only [setThr, thr, Tab.get_set]
@[simp] theorem setThr_thr_self (t : Nat) (x : Thread) : (s.setThr t x).thr t = x := by simp [setThr_thr]
theorem setThr_thr_ne (t : Nat) (x : Thread) {j : Nat} (h : j ≠ t) : (s.setThr t x).thr j = s.thr j := by simp [setThr_thr, h]

@[simp] theorem modThr_mem (t : Nat) (f : Thread → Thread) : (s.modThr t f).mem = s.mem := rfl
@[simp] theorem modThr_poison (t : Nat) (f : Thread → Thread) : (s.modThr t f).poison = s.poison := rfl
@[simp] theorem modThr_owner (t : Nat) (f : Thread → Thread) : (s.modThr t f).owner = s.owner := rfl
@[simp] theorem modThr_l1 (t : Nat) (f : Thread → Thread) : (s.modThr t f).l1 = s.l1 := rfl
@[simp] theorem modThr_lane (t : Nat) (f : Thread → Thread) : (s.modThr t f).lane = s.lane := rfl
@[simp] theorem modThr_pad (t : Nat) (f : Thread → Thread) : (s.modThr t f).pad = s.pad := rfl
@[simp] theorem modThr_clus (t : Nat) (f : Thread → Thread) : (s.modThr t f).clus = s.clus := rfl
@[simp] theorem modThr_dsp (t : Nat) (f : Thread → Thread) : (s.modThr t f).dsp = s.dsp := rfl
@[simp] theorem modThr_dspSave (t : Nat) (f : Thread → Thread) : (s.modThr t f).dspSave = s.dspSave := rfl
@[simp] theorem modThr_lpoison (t : Nat) (f : Thread → Thread) : (s.modThr t f).lpoison = s.lpoison := rfl
@[simp] theorem modThr_evicted (t : Nat) (f : Thread → Thread) : (s.modThr t f).evicted = s.evicted := rfl
@[simp] theorem modThr_evLane (t : Nat) (f : Thread → Thread) : (s.modThr t f).evLane = s.evLane := rfl
@[simp] theorem modThr_ctxs (t : Nat) (f : Thread → Thread) : (s.modThr t f).ctxs = s.ctxs := rfl
@[simp] theorem modThr_cores (t : Nat) (f : Thread → Thread) : (s.modThr t f).cores = s.cores := rfl
@[simp] theorem modThr_groups (t : Nat) (f : Thread → Thread) : (s.modThr t f).groups = s.groups := rfl
@[simp] theorem modThr_kernels (t : Nat) (f : Thread → Thread) : (s.modThr t f).kernels = s.kernels := rfl
@[simp] theorem modThr_queues (t : Nat) (f : Thread → Thread) : (s.modThr t f).queues = s.queues := rfl
@[simp] theorem modThr_dies (t : Nat) (f : Thread → Thread) : (s.modThr t f).dies = s.dies := rfl
@[simp] theorem modThr_parts (t : Nat) (f : Thread → Thread) : (s.modThr t f).parts = s.parts := rfl
@[simp] theorem modThr_tenants (t : Nat) (f : Thread → Thread) : (s.modThr t f).tenants = s.tenants := rfl
@[simp] theorem modThr_frames (t : Nat) (f : Thread → Thread) : (s.modThr t f).frames = s.frames := rfl
@[simp] theorem modThr_backing (t : Nat) (f : Thread → Thread) : (s.modThr t f).backing = s.backing := rfl
@[simp] theorem modThr_xshr (t : Nat) (f : Thread → Thread) : (s.modThr t f).xshr = s.xshr := rfl
@[simp] theorem modThr_walkers (t : Nat) (f : Thread → Thread) : (s.modThr t f).walkers = s.walkers := rfl
@[simp] theorem modThr_roots (t : Nat) (f : Thread → Thread) : (s.modThr t f).roots = s.roots := rfl
@[simp] theorem modThr_owners (t : Nat) (f : Thread → Thread) : (s.modThr t f).owners = s.owners := rfl
@[simp] theorem modThr_dlocal (t : Nat) (f : Thread → Thread) : (s.modThr t f).dlocal = s.dlocal := rfl
@[simp] theorem modThr_rm (t : Nat) (f : Thread → Thread) : (s.modThr t f).rm = s.rm := rfl
@[simp] theorem modThr_links (t : Nat) (f : Thread → Thread) : (s.modThr t f).links = s.links := rfl
@[simp] theorem modThr_linkTries (t : Nat) (f : Thread → Thread) : (s.modThr t f).linkTries = s.linkTries := rfl
@[simp] theorem modThr_ioRoots (t : Nat) (f : Thread → Thread) : (s.modThr t f).ioRoots = s.ioRoots := rfl
@[simp] theorem modThr_sessions (t : Nat) (f : Thread → Thread) : (s.modThr t f).sessions = s.sessions := rfl
@[simp] theorem modThr_comms (t : Nat) (f : Thread → Thread) : (s.modThr t f).comms = s.comms := rfl
@[simp] theorem modThr_accs (t : Nat) (f : Thread → Thread) : (s.modThr t f).accs = s.accs := rfl
@[simp] theorem modThr_regns (t : Nat) (f : Thread → Thread) : (s.modThr t f).regns = s.regns := rfl
@[simp] theorem modThr_pends (t : Nat) (f : Thread → Thread) : (s.modThr t f).pends = s.pends := rfl
@[simp] theorem modThr_placements (t : Nat) (f : Thread → Thread) : (s.modThr t f).placements = s.placements := rfl
@[simp] theorem modThr_steals (t : Nat) (f : Thread → Thread) : (s.modThr t f).steals = s.steals := rfl
@[simp] theorem modThr_late (t : Nat) (f : Thread → Thread) : (s.modThr t f).late = s.late := rfl
@[simp] theorem modThr_posts (t : Nat) (f : Thread → Thread) : (s.modThr t f).posts = s.posts := rfl
@[simp] theorem modThr_cmds (t : Nat) (f : Thread → Thread) : (s.modThr t f).cmds = s.cmds := rfl
@[simp] theorem modThr_heapOps (t : Nat) (f : Thread → Thread) : (s.modThr t f).heapOps = s.heapOps := rfl
@[simp] theorem modThr_heaps (t : Nat) (f : Thread → Thread) : (s.modThr t f).heaps = s.heaps := rfl
@[simp] theorem modThr_shoots (t : Nat) (f : Thread → Thread) : (s.modThr t f).shoots = s.shoots := rfl
@[simp] theorem modThr_reconf (t : Nat) (f : Thread → Thread) : (s.modThr t f).reconf = s.reconf := rfl
@[simp] theorem modThr_pending (t : Nat) (f : Thread → Thread) : (s.modThr t f).pending = s.pending := rfl
@[simp] theorem modThr_colls (t : Nat) (f : Thread → Thread) : (s.modThr t f).colls = s.colls := rfl
@[simp] theorem modThr_flits (t : Nat) (f : Thread → Thread) : (s.modThr t f).flits = s.flits := rfl
@[simp] theorem modThr_results (t : Nat) (f : Thread → Thread) : (s.modThr t f).results = s.results := rfl
@[simp] theorem modThr_outbox (t : Nat) (f : Thread → Thread) : (s.modThr t f).outbox = s.outbox := rfl
@[simp] theorem modThr_seen (t : Nat) (f : Thread → Thread) : (s.modThr t f).seen = s.seen := rfl
@[simp] theorem modThr_rows (t : Nat) (f : Thread → Thread) : (s.modThr t f).rows = s.rows := rfl
@[simp] theorem modThr_turns (t : Nat) (f : Thread → Thread) : (s.modThr t f).turns = s.turns := rfl
@[simp] theorem modThr_sel (t : Nat) (f : Thread → Thread) : (s.modThr t f).sel = s.sel := rfl
@[simp] theorem modThr_cycle (t : Nat) (f : Thread → Thread) : (s.modThr t f).cycle = s.cycle := rfl
@[simp] theorem modThr_now (t : Nat) (f : Thread → Thread) : (s.modThr t f).now = s.now := rfl
@[simp] theorem modThr_nextId (t : Nat) (f : Thread → Thread) : (s.modThr t f).nextId = s.nextId := rfl
@[simp] theorem modThr_fresh (t : Nat) (f : Thread → Thread) : (s.modThr t f).fresh = s.fresh := rfl
@[simp] theorem modThr_ctx_read (t : Nat) (f : Thread → Thread) (j : Nat) : (s.modThr t f).ctx j = s.ctx j := rfl
@[simp] theorem modThr_core_read (t : Nat) (f : Thread → Thread) (j : Nat) : (s.modThr t f).core j = s.core j := rfl
@[simp] theorem modThr_group_read (t : Nat) (f : Thread → Thread) (j : Nat) : (s.modThr t f).group j = s.group j := rfl
@[simp] theorem modThr_kernel_read (t : Nat) (f : Thread → Thread) (j : Nat) : (s.modThr t f).kernel j = s.kernel j := rfl
@[simp] theorem modThr_queue_read (t : Nat) (f : Thread → Thread) (j : Nat) : (s.modThr t f).queue j = s.queue j := rfl
@[simp] theorem modThr_die_read (t : Nat) (f : Thread → Thread) (j : Nat) : (s.modThr t f).die j = s.die j := rfl
@[simp] theorem modThr_part_read (t : Nat) (f : Thread → Thread) (j : Nat) : (s.modThr t f).part j = s.part j := rfl
theorem modThr_thr (t : Nat) (f : Thread → Thread) (j : Nat) : (s.modThr t f).thr j = if j = t then f (s.thr t) else s.thr j := by
  simp only [modThr, setThr, thr, Tab.get_set]
@[simp] theorem modThr_thr_self (t : Nat) (f : Thread → Thread) : (s.modThr t f).thr t = f (s.thr t) := by simp [modThr_thr]
theorem modThr_thr_ne (t : Nat) (f : Thread → Thread) {j : Nat} (h : j ≠ t) : (s.modThr t f).thr j = s.thr j := by simp [modThr_thr, h]

@[simp] theorem modCtx_mem (c : Nat) (f : Ctx → Ctx) : (s.modCtx c f).mem = s.mem := rfl
@[simp] theorem modCtx_poison (c : Nat) (f : Ctx → Ctx) : (s.modCtx c f).poison = s.poison := rfl
@[simp] theorem modCtx_owner (c : Nat) (f : Ctx → Ctx) : (s.modCtx c f).owner = s.owner := rfl
@[simp] theorem modCtx_l1 (c : Nat) (f : Ctx → Ctx) : (s.modCtx c f).l1 = s.l1 := rfl
@[simp] theorem modCtx_lane (c : Nat) (f : Ctx → Ctx) : (s.modCtx c f).lane = s.lane := rfl
@[simp] theorem modCtx_pad (c : Nat) (f : Ctx → Ctx) : (s.modCtx c f).pad = s.pad := rfl
@[simp] theorem modCtx_clus (c : Nat) (f : Ctx → Ctx) : (s.modCtx c f).clus = s.clus := rfl
@[simp] theorem modCtx_dsp (c : Nat) (f : Ctx → Ctx) : (s.modCtx c f).dsp = s.dsp := rfl
@[simp] theorem modCtx_dspSave (c : Nat) (f : Ctx → Ctx) : (s.modCtx c f).dspSave = s.dspSave := rfl
@[simp] theorem modCtx_lpoison (c : Nat) (f : Ctx → Ctx) : (s.modCtx c f).lpoison = s.lpoison := rfl
@[simp] theorem modCtx_threads (c : Nat) (f : Ctx → Ctx) : (s.modCtx c f).threads = s.threads := rfl
@[simp] theorem modCtx_evicted (c : Nat) (f : Ctx → Ctx) : (s.modCtx c f).evicted = s.evicted := rfl
@[simp] theorem modCtx_evLane (c : Nat) (f : Ctx → Ctx) : (s.modCtx c f).evLane = s.evLane := rfl
@[simp] theorem modCtx_cores (c : Nat) (f : Ctx → Ctx) : (s.modCtx c f).cores = s.cores := rfl
@[simp] theorem modCtx_groups (c : Nat) (f : Ctx → Ctx) : (s.modCtx c f).groups = s.groups := rfl
@[simp] theorem modCtx_kernels (c : Nat) (f : Ctx → Ctx) : (s.modCtx c f).kernels = s.kernels := rfl
@[simp] theorem modCtx_queues (c : Nat) (f : Ctx → Ctx) : (s.modCtx c f).queues = s.queues := rfl
@[simp] theorem modCtx_dies (c : Nat) (f : Ctx → Ctx) : (s.modCtx c f).dies = s.dies := rfl
@[simp] theorem modCtx_parts (c : Nat) (f : Ctx → Ctx) : (s.modCtx c f).parts = s.parts := rfl
@[simp] theorem modCtx_tenants (c : Nat) (f : Ctx → Ctx) : (s.modCtx c f).tenants = s.tenants := rfl
@[simp] theorem modCtx_frames (c : Nat) (f : Ctx → Ctx) : (s.modCtx c f).frames = s.frames := rfl
@[simp] theorem modCtx_backing (c : Nat) (f : Ctx → Ctx) : (s.modCtx c f).backing = s.backing := rfl
@[simp] theorem modCtx_xshr (c : Nat) (f : Ctx → Ctx) : (s.modCtx c f).xshr = s.xshr := rfl
@[simp] theorem modCtx_walkers (c : Nat) (f : Ctx → Ctx) : (s.modCtx c f).walkers = s.walkers := rfl
@[simp] theorem modCtx_roots (c : Nat) (f : Ctx → Ctx) : (s.modCtx c f).roots = s.roots := rfl
@[simp] theorem modCtx_owners (c : Nat) (f : Ctx → Ctx) : (s.modCtx c f).owners = s.owners := rfl
@[simp] theorem modCtx_dlocal (c : Nat) (f : Ctx → Ctx) : (s.modCtx c f).dlocal = s.dlocal := rfl
@[simp] theorem modCtx_rm (c : Nat) (f : Ctx → Ctx) : (s.modCtx c f).rm = s.rm := rfl
@[simp] theorem modCtx_links (c : Nat) (f : Ctx → Ctx) : (s.modCtx c f).links = s.links := rfl
@[simp] theorem modCtx_linkTries (c : Nat) (f : Ctx → Ctx) : (s.modCtx c f).linkTries = s.linkTries := rfl
@[simp] theorem modCtx_ioRoots (c : Nat) (f : Ctx → Ctx) : (s.modCtx c f).ioRoots = s.ioRoots := rfl
@[simp] theorem modCtx_sessions (c : Nat) (f : Ctx → Ctx) : (s.modCtx c f).sessions = s.sessions := rfl
@[simp] theorem modCtx_comms (c : Nat) (f : Ctx → Ctx) : (s.modCtx c f).comms = s.comms := rfl
@[simp] theorem modCtx_accs (c : Nat) (f : Ctx → Ctx) : (s.modCtx c f).accs = s.accs := rfl
@[simp] theorem modCtx_regns (c : Nat) (f : Ctx → Ctx) : (s.modCtx c f).regns = s.regns := rfl
@[simp] theorem modCtx_pends (c : Nat) (f : Ctx → Ctx) : (s.modCtx c f).pends = s.pends := rfl
@[simp] theorem modCtx_placements (c : Nat) (f : Ctx → Ctx) : (s.modCtx c f).placements = s.placements := rfl
@[simp] theorem modCtx_steals (c : Nat) (f : Ctx → Ctx) : (s.modCtx c f).steals = s.steals := rfl
@[simp] theorem modCtx_late (c : Nat) (f : Ctx → Ctx) : (s.modCtx c f).late = s.late := rfl
@[simp] theorem modCtx_posts (c : Nat) (f : Ctx → Ctx) : (s.modCtx c f).posts = s.posts := rfl
@[simp] theorem modCtx_cmds (c : Nat) (f : Ctx → Ctx) : (s.modCtx c f).cmds = s.cmds := rfl
@[simp] theorem modCtx_heapOps (c : Nat) (f : Ctx → Ctx) : (s.modCtx c f).heapOps = s.heapOps := rfl
@[simp] theorem modCtx_heaps (c : Nat) (f : Ctx → Ctx) : (s.modCtx c f).heaps = s.heaps := rfl
@[simp] theorem modCtx_shoots (c : Nat) (f : Ctx → Ctx) : (s.modCtx c f).shoots = s.shoots := rfl
@[simp] theorem modCtx_reconf (c : Nat) (f : Ctx → Ctx) : (s.modCtx c f).reconf = s.reconf := rfl
@[simp] theorem modCtx_pending (c : Nat) (f : Ctx → Ctx) : (s.modCtx c f).pending = s.pending := rfl
@[simp] theorem modCtx_colls (c : Nat) (f : Ctx → Ctx) : (s.modCtx c f).colls = s.colls := rfl
@[simp] theorem modCtx_flits (c : Nat) (f : Ctx → Ctx) : (s.modCtx c f).flits = s.flits := rfl
@[simp] theorem modCtx_results (c : Nat) (f : Ctx → Ctx) : (s.modCtx c f).results = s.results := rfl
@[simp] theorem modCtx_outbox (c : Nat) (f : Ctx → Ctx) : (s.modCtx c f).outbox = s.outbox := rfl
@[simp] theorem modCtx_seen (c : Nat) (f : Ctx → Ctx) : (s.modCtx c f).seen = s.seen := rfl
@[simp] theorem modCtx_rows (c : Nat) (f : Ctx → Ctx) : (s.modCtx c f).rows = s.rows := rfl
@[simp] theorem modCtx_turns (c : Nat) (f : Ctx → Ctx) : (s.modCtx c f).turns = s.turns := rfl
@[simp] theorem modCtx_sel (c : Nat) (f : Ctx → Ctx) : (s.modCtx c f).sel = s.sel := rfl
@[simp] theorem modCtx_cycle (c : Nat) (f : Ctx → Ctx) : (s.modCtx c f).cycle = s.cycle := rfl
@[simp] theorem modCtx_now (c : Nat) (f : Ctx → Ctx) : (s.modCtx c f).now = s.now := rfl
@[simp] theorem modCtx_nextId (c : Nat) (f : Ctx → Ctx) : (s.modCtx c f).nextId = s.nextId := rfl
@[simp] theorem modCtx_fresh (c : Nat) (f : Ctx → Ctx) : (s.modCtx c f).fresh = s.fresh := rfl
@[simp] theorem modCtx_thr_read (c : Nat) (f : Ctx → Ctx) (j : Nat) : (s.modCtx c f).thr j = s.thr j := rfl
@[simp] theorem modCtx_core_read (c : Nat) (f : Ctx → Ctx) (j : Nat) : (s.modCtx c f).core j = s.core j := rfl
@[simp] theorem modCtx_group_read (c : Nat) (f : Ctx → Ctx) (j : Nat) : (s.modCtx c f).group j = s.group j := rfl
@[simp] theorem modCtx_kernel_read (c : Nat) (f : Ctx → Ctx) (j : Nat) : (s.modCtx c f).kernel j = s.kernel j := rfl
@[simp] theorem modCtx_queue_read (c : Nat) (f : Ctx → Ctx) (j : Nat) : (s.modCtx c f).queue j = s.queue j := rfl
@[simp] theorem modCtx_die_read (c : Nat) (f : Ctx → Ctx) (j : Nat) : (s.modCtx c f).die j = s.die j := rfl
@[simp] theorem modCtx_part_read (c : Nat) (f : Ctx → Ctx) (j : Nat) : (s.modCtx c f).part j = s.part j := rfl
theorem modCtx_ctx (c : Nat) (f : Ctx → Ctx) (j : Nat) : (s.modCtx c f).ctx j = if j = c then f (s.ctx c) else s.ctx j := by
  simp only [modCtx, ctx, Tab.get_modify]
@[simp] theorem modCtx_ctx_self (c : Nat) (f : Ctx → Ctx) : (s.modCtx c f).ctx c = f (s.ctx c) := by simp [modCtx_ctx]
theorem modCtx_ctx_ne (c : Nat) (f : Ctx → Ctx) {j : Nat} (h : j ≠ c) : (s.modCtx c f).ctx j = s.ctx j := by simp [modCtx_ctx, h]

@[simp] theorem modCore_mem (c : Nat) (f : Core → Core) : (s.modCore c f).mem = s.mem := rfl
@[simp] theorem modCore_poison (c : Nat) (f : Core → Core) : (s.modCore c f).poison = s.poison := rfl
@[simp] theorem modCore_owner (c : Nat) (f : Core → Core) : (s.modCore c f).owner = s.owner := rfl
@[simp] theorem modCore_l1 (c : Nat) (f : Core → Core) : (s.modCore c f).l1 = s.l1 := rfl
@[simp] theorem modCore_lane (c : Nat) (f : Core → Core) : (s.modCore c f).lane = s.lane := rfl
@[simp] theorem modCore_pad (c : Nat) (f : Core → Core) : (s.modCore c f).pad = s.pad := rfl
@[simp] theorem modCore_clus (c : Nat) (f : Core → Core) : (s.modCore c f).clus = s.clus := rfl
@[simp] theorem modCore_dsp (c : Nat) (f : Core → Core) : (s.modCore c f).dsp = s.dsp := rfl
@[simp] theorem modCore_dspSave (c : Nat) (f : Core → Core) : (s.modCore c f).dspSave = s.dspSave := rfl
@[simp] theorem modCore_lpoison (c : Nat) (f : Core → Core) : (s.modCore c f).lpoison = s.lpoison := rfl
@[simp] theorem modCore_threads (c : Nat) (f : Core → Core) : (s.modCore c f).threads = s.threads := rfl
@[simp] theorem modCore_evicted (c : Nat) (f : Core → Core) : (s.modCore c f).evicted = s.evicted := rfl
@[simp] theorem modCore_evLane (c : Nat) (f : Core → Core) : (s.modCore c f).evLane = s.evLane := rfl
@[simp] theorem modCore_ctxs (c : Nat) (f : Core → Core) : (s.modCore c f).ctxs = s.ctxs := rfl
@[simp] theorem modCore_groups (c : Nat) (f : Core → Core) : (s.modCore c f).groups = s.groups := rfl
@[simp] theorem modCore_kernels (c : Nat) (f : Core → Core) : (s.modCore c f).kernels = s.kernels := rfl
@[simp] theorem modCore_queues (c : Nat) (f : Core → Core) : (s.modCore c f).queues = s.queues := rfl
@[simp] theorem modCore_dies (c : Nat) (f : Core → Core) : (s.modCore c f).dies = s.dies := rfl
@[simp] theorem modCore_parts (c : Nat) (f : Core → Core) : (s.modCore c f).parts = s.parts := rfl
@[simp] theorem modCore_tenants (c : Nat) (f : Core → Core) : (s.modCore c f).tenants = s.tenants := rfl
@[simp] theorem modCore_frames (c : Nat) (f : Core → Core) : (s.modCore c f).frames = s.frames := rfl
@[simp] theorem modCore_backing (c : Nat) (f : Core → Core) : (s.modCore c f).backing = s.backing := rfl
@[simp] theorem modCore_xshr (c : Nat) (f : Core → Core) : (s.modCore c f).xshr = s.xshr := rfl
@[simp] theorem modCore_walkers (c : Nat) (f : Core → Core) : (s.modCore c f).walkers = s.walkers := rfl
@[simp] theorem modCore_roots (c : Nat) (f : Core → Core) : (s.modCore c f).roots = s.roots := rfl
@[simp] theorem modCore_owners (c : Nat) (f : Core → Core) : (s.modCore c f).owners = s.owners := rfl
@[simp] theorem modCore_dlocal (c : Nat) (f : Core → Core) : (s.modCore c f).dlocal = s.dlocal := rfl
@[simp] theorem modCore_rm (c : Nat) (f : Core → Core) : (s.modCore c f).rm = s.rm := rfl
@[simp] theorem modCore_links (c : Nat) (f : Core → Core) : (s.modCore c f).links = s.links := rfl
@[simp] theorem modCore_linkTries (c : Nat) (f : Core → Core) : (s.modCore c f).linkTries = s.linkTries := rfl
@[simp] theorem modCore_ioRoots (c : Nat) (f : Core → Core) : (s.modCore c f).ioRoots = s.ioRoots := rfl
@[simp] theorem modCore_sessions (c : Nat) (f : Core → Core) : (s.modCore c f).sessions = s.sessions := rfl
@[simp] theorem modCore_comms (c : Nat) (f : Core → Core) : (s.modCore c f).comms = s.comms := rfl
@[simp] theorem modCore_accs (c : Nat) (f : Core → Core) : (s.modCore c f).accs = s.accs := rfl
@[simp] theorem modCore_regns (c : Nat) (f : Core → Core) : (s.modCore c f).regns = s.regns := rfl
@[simp] theorem modCore_pends (c : Nat) (f : Core → Core) : (s.modCore c f).pends = s.pends := rfl
@[simp] theorem modCore_placements (c : Nat) (f : Core → Core) : (s.modCore c f).placements = s.placements := rfl
@[simp] theorem modCore_steals (c : Nat) (f : Core → Core) : (s.modCore c f).steals = s.steals := rfl
@[simp] theorem modCore_late (c : Nat) (f : Core → Core) : (s.modCore c f).late = s.late := rfl
@[simp] theorem modCore_posts (c : Nat) (f : Core → Core) : (s.modCore c f).posts = s.posts := rfl
@[simp] theorem modCore_cmds (c : Nat) (f : Core → Core) : (s.modCore c f).cmds = s.cmds := rfl
@[simp] theorem modCore_heapOps (c : Nat) (f : Core → Core) : (s.modCore c f).heapOps = s.heapOps := rfl
@[simp] theorem modCore_heaps (c : Nat) (f : Core → Core) : (s.modCore c f).heaps = s.heaps := rfl
@[simp] theorem modCore_shoots (c : Nat) (f : Core → Core) : (s.modCore c f).shoots = s.shoots := rfl
@[simp] theorem modCore_reconf (c : Nat) (f : Core → Core) : (s.modCore c f).reconf = s.reconf := rfl
@[simp] theorem modCore_pending (c : Nat) (f : Core → Core) : (s.modCore c f).pending = s.pending := rfl
@[simp] theorem modCore_colls (c : Nat) (f : Core → Core) : (s.modCore c f).colls = s.colls := rfl
@[simp] theorem modCore_flits (c : Nat) (f : Core → Core) : (s.modCore c f).flits = s.flits := rfl
@[simp] theorem modCore_results (c : Nat) (f : Core → Core) : (s.modCore c f).results = s.results := rfl
@[simp] theorem modCore_outbox (c : Nat) (f : Core → Core) : (s.modCore c f).outbox = s.outbox := rfl
@[simp] theorem modCore_seen (c : Nat) (f : Core → Core) : (s.modCore c f).seen = s.seen := rfl
@[simp] theorem modCore_rows (c : Nat) (f : Core → Core) : (s.modCore c f).rows = s.rows := rfl
@[simp] theorem modCore_turns (c : Nat) (f : Core → Core) : (s.modCore c f).turns = s.turns := rfl
@[simp] theorem modCore_sel (c : Nat) (f : Core → Core) : (s.modCore c f).sel = s.sel := rfl
@[simp] theorem modCore_cycle (c : Nat) (f : Core → Core) : (s.modCore c f).cycle = s.cycle := rfl
@[simp] theorem modCore_now (c : Nat) (f : Core → Core) : (s.modCore c f).now = s.now := rfl
@[simp] theorem modCore_nextId (c : Nat) (f : Core → Core) : (s.modCore c f).nextId = s.nextId := rfl
@[simp] theorem modCore_fresh (c : Nat) (f : Core → Core) : (s.modCore c f).fresh = s.fresh := rfl
@[simp] theorem modCore_thr_read (c : Nat) (f : Core → Core) (j : Nat) : (s.modCore c f).thr j = s.thr j := rfl
@[simp] theorem modCore_ctx_read (c : Nat) (f : Core → Core) (j : Nat) : (s.modCore c f).ctx j = s.ctx j := rfl
@[simp] theorem modCore_group_read (c : Nat) (f : Core → Core) (j : Nat) : (s.modCore c f).group j = s.group j := rfl
@[simp] theorem modCore_kernel_read (c : Nat) (f : Core → Core) (j : Nat) : (s.modCore c f).kernel j = s.kernel j := rfl
@[simp] theorem modCore_queue_read (c : Nat) (f : Core → Core) (j : Nat) : (s.modCore c f).queue j = s.queue j := rfl
@[simp] theorem modCore_die_read (c : Nat) (f : Core → Core) (j : Nat) : (s.modCore c f).die j = s.die j := rfl
@[simp] theorem modCore_part_read (c : Nat) (f : Core → Core) (j : Nat) : (s.modCore c f).part j = s.part j := rfl
theorem modCore_core (c : Nat) (f : Core → Core) (j : Nat) : (s.modCore c f).core j = if j = c then f (s.core c) else s.core j := by
  simp only [modCore, core, Tab.get_modify]
@[simp] theorem modCore_core_self (c : Nat) (f : Core → Core) : (s.modCore c f).core c = f (s.core c) := by simp [modCore_core]
theorem modCore_core_ne (c : Nat) (f : Core → Core) {j : Nat} (h : j ≠ c) : (s.modCore c f).core j = s.core j := by simp [modCore_core, h]

@[simp] theorem modGroup_mem (g : Nat) (f : Group → Group) : (s.modGroup g f).mem = s.mem := rfl
@[simp] theorem modGroup_poison (g : Nat) (f : Group → Group) : (s.modGroup g f).poison = s.poison := rfl
@[simp] theorem modGroup_owner (g : Nat) (f : Group → Group) : (s.modGroup g f).owner = s.owner := rfl
@[simp] theorem modGroup_l1 (g : Nat) (f : Group → Group) : (s.modGroup g f).l1 = s.l1 := rfl
@[simp] theorem modGroup_lane (g : Nat) (f : Group → Group) : (s.modGroup g f).lane = s.lane := rfl
@[simp] theorem modGroup_pad (g : Nat) (f : Group → Group) : (s.modGroup g f).pad = s.pad := rfl
@[simp] theorem modGroup_clus (g : Nat) (f : Group → Group) : (s.modGroup g f).clus = s.clus := rfl
@[simp] theorem modGroup_dsp (g : Nat) (f : Group → Group) : (s.modGroup g f).dsp = s.dsp := rfl
@[simp] theorem modGroup_dspSave (g : Nat) (f : Group → Group) : (s.modGroup g f).dspSave = s.dspSave := rfl
@[simp] theorem modGroup_lpoison (g : Nat) (f : Group → Group) : (s.modGroup g f).lpoison = s.lpoison := rfl
@[simp] theorem modGroup_threads (g : Nat) (f : Group → Group) : (s.modGroup g f).threads = s.threads := rfl
@[simp] theorem modGroup_evicted (g : Nat) (f : Group → Group) : (s.modGroup g f).evicted = s.evicted := rfl
@[simp] theorem modGroup_evLane (g : Nat) (f : Group → Group) : (s.modGroup g f).evLane = s.evLane := rfl
@[simp] theorem modGroup_ctxs (g : Nat) (f : Group → Group) : (s.modGroup g f).ctxs = s.ctxs := rfl
@[simp] theorem modGroup_cores (g : Nat) (f : Group → Group) : (s.modGroup g f).cores = s.cores := rfl
@[simp] theorem modGroup_kernels (g : Nat) (f : Group → Group) : (s.modGroup g f).kernels = s.kernels := rfl
@[simp] theorem modGroup_queues (g : Nat) (f : Group → Group) : (s.modGroup g f).queues = s.queues := rfl
@[simp] theorem modGroup_dies (g : Nat) (f : Group → Group) : (s.modGroup g f).dies = s.dies := rfl
@[simp] theorem modGroup_parts (g : Nat) (f : Group → Group) : (s.modGroup g f).parts = s.parts := rfl
@[simp] theorem modGroup_tenants (g : Nat) (f : Group → Group) : (s.modGroup g f).tenants = s.tenants := rfl
@[simp] theorem modGroup_frames (g : Nat) (f : Group → Group) : (s.modGroup g f).frames = s.frames := rfl
@[simp] theorem modGroup_backing (g : Nat) (f : Group → Group) : (s.modGroup g f).backing = s.backing := rfl
@[simp] theorem modGroup_xshr (g : Nat) (f : Group → Group) : (s.modGroup g f).xshr = s.xshr := rfl
@[simp] theorem modGroup_walkers (g : Nat) (f : Group → Group) : (s.modGroup g f).walkers = s.walkers := rfl
@[simp] theorem modGroup_roots (g : Nat) (f : Group → Group) : (s.modGroup g f).roots = s.roots := rfl
@[simp] theorem modGroup_owners (g : Nat) (f : Group → Group) : (s.modGroup g f).owners = s.owners := rfl
@[simp] theorem modGroup_dlocal (g : Nat) (f : Group → Group) : (s.modGroup g f).dlocal = s.dlocal := rfl
@[simp] theorem modGroup_rm (g : Nat) (f : Group → Group) : (s.modGroup g f).rm = s.rm := rfl
@[simp] theorem modGroup_links (g : Nat) (f : Group → Group) : (s.modGroup g f).links = s.links := rfl
@[simp] theorem modGroup_linkTries (g : Nat) (f : Group → Group) : (s.modGroup g f).linkTries = s.linkTries := rfl
@[simp] theorem modGroup_ioRoots (g : Nat) (f : Group → Group) : (s.modGroup g f).ioRoots = s.ioRoots := rfl
@[simp] theorem modGroup_sessions (g : Nat) (f : Group → Group) : (s.modGroup g f).sessions = s.sessions := rfl
@[simp] theorem modGroup_comms (g : Nat) (f : Group → Group) : (s.modGroup g f).comms = s.comms := rfl
@[simp] theorem modGroup_accs (g : Nat) (f : Group → Group) : (s.modGroup g f).accs = s.accs := rfl
@[simp] theorem modGroup_regns (g : Nat) (f : Group → Group) : (s.modGroup g f).regns = s.regns := rfl
@[simp] theorem modGroup_pends (g : Nat) (f : Group → Group) : (s.modGroup g f).pends = s.pends := rfl
@[simp] theorem modGroup_placements (g : Nat) (f : Group → Group) : (s.modGroup g f).placements = s.placements := rfl
@[simp] theorem modGroup_steals (g : Nat) (f : Group → Group) : (s.modGroup g f).steals = s.steals := rfl
@[simp] theorem modGroup_late (g : Nat) (f : Group → Group) : (s.modGroup g f).late = s.late := rfl
@[simp] theorem modGroup_posts (g : Nat) (f : Group → Group) : (s.modGroup g f).posts = s.posts := rfl
@[simp] theorem modGroup_cmds (g : Nat) (f : Group → Group) : (s.modGroup g f).cmds = s.cmds := rfl
@[simp] theorem modGroup_heapOps (g : Nat) (f : Group → Group) : (s.modGroup g f).heapOps = s.heapOps := rfl
@[simp] theorem modGroup_heaps (g : Nat) (f : Group → Group) : (s.modGroup g f).heaps = s.heaps := rfl
@[simp] theorem modGroup_shoots (g : Nat) (f : Group → Group) : (s.modGroup g f).shoots = s.shoots := rfl
@[simp] theorem modGroup_reconf (g : Nat) (f : Group → Group) : (s.modGroup g f).reconf = s.reconf := rfl
@[simp] theorem modGroup_pending (g : Nat) (f : Group → Group) : (s.modGroup g f).pending = s.pending := rfl
@[simp] theorem modGroup_colls (g : Nat) (f : Group → Group) : (s.modGroup g f).colls = s.colls := rfl
@[simp] theorem modGroup_flits (g : Nat) (f : Group → Group) : (s.modGroup g f).flits = s.flits := rfl
@[simp] theorem modGroup_results (g : Nat) (f : Group → Group) : (s.modGroup g f).results = s.results := rfl
@[simp] theorem modGroup_outbox (g : Nat) (f : Group → Group) : (s.modGroup g f).outbox = s.outbox := rfl
@[simp] theorem modGroup_seen (g : Nat) (f : Group → Group) : (s.modGroup g f).seen = s.seen := rfl
@[simp] theorem modGroup_rows (g : Nat) (f : Group → Group) : (s.modGroup g f).rows = s.rows := rfl
@[simp] theorem modGroup_turns (g : Nat) (f : Group → Group) : (s.modGroup g f).turns = s.turns := rfl
@[simp] theorem modGroup_sel (g : Nat) (f : Group → Group) : (s.modGroup g f).sel = s.sel := rfl
@[simp] theorem modGroup_cycle (g : Nat) (f : Group → Group) : (s.modGroup g f).cycle = s.cycle := rfl
@[simp] theorem modGroup_now (g : Nat) (f : Group → Group) : (s.modGroup g f).now = s.now := rfl
@[simp] theorem modGroup_nextId (g : Nat) (f : Group → Group) : (s.modGroup g f).nextId = s.nextId := rfl
@[simp] theorem modGroup_fresh (g : Nat) (f : Group → Group) : (s.modGroup g f).fresh = s.fresh := rfl
@[simp] theorem modGroup_thr_read (g : Nat) (f : Group → Group) (j : Nat) : (s.modGroup g f).thr j = s.thr j := rfl
@[simp] theorem modGroup_ctx_read (g : Nat) (f : Group → Group) (j : Nat) : (s.modGroup g f).ctx j = s.ctx j := rfl
@[simp] theorem modGroup_core_read (g : Nat) (f : Group → Group) (j : Nat) : (s.modGroup g f).core j = s.core j := rfl
@[simp] theorem modGroup_kernel_read (g : Nat) (f : Group → Group) (j : Nat) : (s.modGroup g f).kernel j = s.kernel j := rfl
@[simp] theorem modGroup_queue_read (g : Nat) (f : Group → Group) (j : Nat) : (s.modGroup g f).queue j = s.queue j := rfl
@[simp] theorem modGroup_die_read (g : Nat) (f : Group → Group) (j : Nat) : (s.modGroup g f).die j = s.die j := rfl
@[simp] theorem modGroup_part_read (g : Nat) (f : Group → Group) (j : Nat) : (s.modGroup g f).part j = s.part j := rfl
theorem modGroup_group (g : Nat) (f : Group → Group) (j : Nat) : (s.modGroup g f).group j = if j = g then f (s.group g) else s.group j := by
  simp only [modGroup, group, Tab.get_modify]
@[simp] theorem modGroup_group_self (g : Nat) (f : Group → Group) : (s.modGroup g f).group g = f (s.group g) := by simp [modGroup_group]
theorem modGroup_group_ne (g : Nat) (f : Group → Group) {j : Nat} (h : j ≠ g) : (s.modGroup g f).group j = s.group j := by simp [modGroup_group, h]

@[simp] theorem modKernel_mem (k : Nat) (f : Kernel → Kernel) : (s.modKernel k f).mem = s.mem := rfl
@[simp] theorem modKernel_poison (k : Nat) (f : Kernel → Kernel) : (s.modKernel k f).poison = s.poison := rfl
@[simp] theorem modKernel_owner (k : Nat) (f : Kernel → Kernel) : (s.modKernel k f).owner = s.owner := rfl
@[simp] theorem modKernel_l1 (k : Nat) (f : Kernel → Kernel) : (s.modKernel k f).l1 = s.l1 := rfl
@[simp] theorem modKernel_lane (k : Nat) (f : Kernel → Kernel) : (s.modKernel k f).lane = s.lane := rfl
@[simp] theorem modKernel_pad (k : Nat) (f : Kernel → Kernel) : (s.modKernel k f).pad = s.pad := rfl
@[simp] theorem modKernel_clus (k : Nat) (f : Kernel → Kernel) : (s.modKernel k f).clus = s.clus := rfl
@[simp] theorem modKernel_dsp (k : Nat) (f : Kernel → Kernel) : (s.modKernel k f).dsp = s.dsp := rfl
@[simp] theorem modKernel_dspSave (k : Nat) (f : Kernel → Kernel) : (s.modKernel k f).dspSave = s.dspSave := rfl
@[simp] theorem modKernel_lpoison (k : Nat) (f : Kernel → Kernel) : (s.modKernel k f).lpoison = s.lpoison := rfl
@[simp] theorem modKernel_threads (k : Nat) (f : Kernel → Kernel) : (s.modKernel k f).threads = s.threads := rfl
@[simp] theorem modKernel_evicted (k : Nat) (f : Kernel → Kernel) : (s.modKernel k f).evicted = s.evicted := rfl
@[simp] theorem modKernel_evLane (k : Nat) (f : Kernel → Kernel) : (s.modKernel k f).evLane = s.evLane := rfl
@[simp] theorem modKernel_ctxs (k : Nat) (f : Kernel → Kernel) : (s.modKernel k f).ctxs = s.ctxs := rfl
@[simp] theorem modKernel_cores (k : Nat) (f : Kernel → Kernel) : (s.modKernel k f).cores = s.cores := rfl
@[simp] theorem modKernel_groups (k : Nat) (f : Kernel → Kernel) : (s.modKernel k f).groups = s.groups := rfl
@[simp] theorem modKernel_queues (k : Nat) (f : Kernel → Kernel) : (s.modKernel k f).queues = s.queues := rfl
@[simp] theorem modKernel_dies (k : Nat) (f : Kernel → Kernel) : (s.modKernel k f).dies = s.dies := rfl
@[simp] theorem modKernel_parts (k : Nat) (f : Kernel → Kernel) : (s.modKernel k f).parts = s.parts := rfl
@[simp] theorem modKernel_tenants (k : Nat) (f : Kernel → Kernel) : (s.modKernel k f).tenants = s.tenants := rfl
@[simp] theorem modKernel_frames (k : Nat) (f : Kernel → Kernel) : (s.modKernel k f).frames = s.frames := rfl
@[simp] theorem modKernel_backing (k : Nat) (f : Kernel → Kernel) : (s.modKernel k f).backing = s.backing := rfl
@[simp] theorem modKernel_xshr (k : Nat) (f : Kernel → Kernel) : (s.modKernel k f).xshr = s.xshr := rfl
@[simp] theorem modKernel_walkers (k : Nat) (f : Kernel → Kernel) : (s.modKernel k f).walkers = s.walkers := rfl
@[simp] theorem modKernel_roots (k : Nat) (f : Kernel → Kernel) : (s.modKernel k f).roots = s.roots := rfl
@[simp] theorem modKernel_owners (k : Nat) (f : Kernel → Kernel) : (s.modKernel k f).owners = s.owners := rfl
@[simp] theorem modKernel_dlocal (k : Nat) (f : Kernel → Kernel) : (s.modKernel k f).dlocal = s.dlocal := rfl
@[simp] theorem modKernel_rm (k : Nat) (f : Kernel → Kernel) : (s.modKernel k f).rm = s.rm := rfl
@[simp] theorem modKernel_links (k : Nat) (f : Kernel → Kernel) : (s.modKernel k f).links = s.links := rfl
@[simp] theorem modKernel_linkTries (k : Nat) (f : Kernel → Kernel) : (s.modKernel k f).linkTries = s.linkTries := rfl
@[simp] theorem modKernel_ioRoots (k : Nat) (f : Kernel → Kernel) : (s.modKernel k f).ioRoots = s.ioRoots := rfl
@[simp] theorem modKernel_sessions (k : Nat) (f : Kernel → Kernel) : (s.modKernel k f).sessions = s.sessions := rfl
@[simp] theorem modKernel_comms (k : Nat) (f : Kernel → Kernel) : (s.modKernel k f).comms = s.comms := rfl
@[simp] theorem modKernel_accs (k : Nat) (f : Kernel → Kernel) : (s.modKernel k f).accs = s.accs := rfl
@[simp] theorem modKernel_regns (k : Nat) (f : Kernel → Kernel) : (s.modKernel k f).regns = s.regns := rfl
@[simp] theorem modKernel_pends (k : Nat) (f : Kernel → Kernel) : (s.modKernel k f).pends = s.pends := rfl
@[simp] theorem modKernel_placements (k : Nat) (f : Kernel → Kernel) : (s.modKernel k f).placements = s.placements := rfl
@[simp] theorem modKernel_steals (k : Nat) (f : Kernel → Kernel) : (s.modKernel k f).steals = s.steals := rfl
@[simp] theorem modKernel_late (k : Nat) (f : Kernel → Kernel) : (s.modKernel k f).late = s.late := rfl
@[simp] theorem modKernel_posts (k : Nat) (f : Kernel → Kernel) : (s.modKernel k f).posts = s.posts := rfl
@[simp] theorem modKernel_cmds (k : Nat) (f : Kernel → Kernel) : (s.modKernel k f).cmds = s.cmds := rfl
@[simp] theorem modKernel_heapOps (k : Nat) (f : Kernel → Kernel) : (s.modKernel k f).heapOps = s.heapOps := rfl
@[simp] theorem modKernel_heaps (k : Nat) (f : Kernel → Kernel) : (s.modKernel k f).heaps = s.heaps := rfl
@[simp] theorem modKernel_shoots (k : Nat) (f : Kernel → Kernel) : (s.modKernel k f).shoots = s.shoots := rfl
@[simp] theorem modKernel_reconf (k : Nat) (f : Kernel → Kernel) : (s.modKernel k f).reconf = s.reconf := rfl
@[simp] theorem modKernel_pending (k : Nat) (f : Kernel → Kernel) : (s.modKernel k f).pending = s.pending := rfl
@[simp] theorem modKernel_colls (k : Nat) (f : Kernel → Kernel) : (s.modKernel k f).colls = s.colls := rfl
@[simp] theorem modKernel_flits (k : Nat) (f : Kernel → Kernel) : (s.modKernel k f).flits = s.flits := rfl
@[simp] theorem modKernel_results (k : Nat) (f : Kernel → Kernel) : (s.modKernel k f).results = s.results := rfl
@[simp] theorem modKernel_outbox (k : Nat) (f : Kernel → Kernel) : (s.modKernel k f).outbox = s.outbox := rfl
@[simp] theorem modKernel_seen (k : Nat) (f : Kernel → Kernel) : (s.modKernel k f).seen = s.seen := rfl
@[simp] theorem modKernel_rows (k : Nat) (f : Kernel → Kernel) : (s.modKernel k f).rows = s.rows := rfl
@[simp] theorem modKernel_turns (k : Nat) (f : Kernel → Kernel) : (s.modKernel k f).turns = s.turns := rfl
@[simp] theorem modKernel_sel (k : Nat) (f : Kernel → Kernel) : (s.modKernel k f).sel = s.sel := rfl
@[simp] theorem modKernel_cycle (k : Nat) (f : Kernel → Kernel) : (s.modKernel k f).cycle = s.cycle := rfl
@[simp] theorem modKernel_now (k : Nat) (f : Kernel → Kernel) : (s.modKernel k f).now = s.now := rfl
@[simp] theorem modKernel_nextId (k : Nat) (f : Kernel → Kernel) : (s.modKernel k f).nextId = s.nextId := rfl
@[simp] theorem modKernel_fresh (k : Nat) (f : Kernel → Kernel) : (s.modKernel k f).fresh = s.fresh := rfl
@[simp] theorem modKernel_thr_read (k : Nat) (f : Kernel → Kernel) (j : Nat) : (s.modKernel k f).thr j = s.thr j := rfl
@[simp] theorem modKernel_ctx_read (k : Nat) (f : Kernel → Kernel) (j : Nat) : (s.modKernel k f).ctx j = s.ctx j := rfl
@[simp] theorem modKernel_core_read (k : Nat) (f : Kernel → Kernel) (j : Nat) : (s.modKernel k f).core j = s.core j := rfl
@[simp] theorem modKernel_group_read (k : Nat) (f : Kernel → Kernel) (j : Nat) : (s.modKernel k f).group j = s.group j := rfl
@[simp] theorem modKernel_queue_read (k : Nat) (f : Kernel → Kernel) (j : Nat) : (s.modKernel k f).queue j = s.queue j := rfl
@[simp] theorem modKernel_die_read (k : Nat) (f : Kernel → Kernel) (j : Nat) : (s.modKernel k f).die j = s.die j := rfl
@[simp] theorem modKernel_part_read (k : Nat) (f : Kernel → Kernel) (j : Nat) : (s.modKernel k f).part j = s.part j := rfl
theorem modKernel_kernel (k : Nat) (f : Kernel → Kernel) (j : Nat) : (s.modKernel k f).kernel j = if j = k then f (s.kernel k) else s.kernel j := by
  simp only [modKernel, kernel, Tab.get_modify]
@[simp] theorem modKernel_kernel_self (k : Nat) (f : Kernel → Kernel) : (s.modKernel k f).kernel k = f (s.kernel k) := by simp [modKernel_kernel]
theorem modKernel_kernel_ne (k : Nat) (f : Kernel → Kernel) {j : Nat} (h : j ≠ k) : (s.modKernel k f).kernel j = s.kernel j := by simp [modKernel_kernel, h]

@[simp] theorem modQueue_mem (q : Nat) (f : Queue → Queue) : (s.modQueue q f).mem = s.mem := rfl
@[simp] theorem modQueue_poison (q : Nat) (f : Queue → Queue) : (s.modQueue q f).poison = s.poison := rfl
@[simp] theorem modQueue_owner (q : Nat) (f : Queue → Queue) : (s.modQueue q f).owner = s.owner := rfl
@[simp] theorem modQueue_l1 (q : Nat) (f : Queue → Queue) : (s.modQueue q f).l1 = s.l1 := rfl
@[simp] theorem modQueue_lane (q : Nat) (f : Queue → Queue) : (s.modQueue q f).lane = s.lane := rfl
@[simp] theorem modQueue_pad (q : Nat) (f : Queue → Queue) : (s.modQueue q f).pad = s.pad := rfl
@[simp] theorem modQueue_clus (q : Nat) (f : Queue → Queue) : (s.modQueue q f).clus = s.clus := rfl
@[simp] theorem modQueue_dsp (q : Nat) (f : Queue → Queue) : (s.modQueue q f).dsp = s.dsp := rfl
@[simp] theorem modQueue_dspSave (q : Nat) (f : Queue → Queue) : (s.modQueue q f).dspSave = s.dspSave := rfl
@[simp] theorem modQueue_lpoison (q : Nat) (f : Queue → Queue) : (s.modQueue q f).lpoison = s.lpoison := rfl
@[simp] theorem modQueue_threads (q : Nat) (f : Queue → Queue) : (s.modQueue q f).threads = s.threads := rfl
@[simp] theorem modQueue_evicted (q : Nat) (f : Queue → Queue) : (s.modQueue q f).evicted = s.evicted := rfl
@[simp] theorem modQueue_evLane (q : Nat) (f : Queue → Queue) : (s.modQueue q f).evLane = s.evLane := rfl
@[simp] theorem modQueue_ctxs (q : Nat) (f : Queue → Queue) : (s.modQueue q f).ctxs = s.ctxs := rfl
@[simp] theorem modQueue_cores (q : Nat) (f : Queue → Queue) : (s.modQueue q f).cores = s.cores := rfl
@[simp] theorem modQueue_groups (q : Nat) (f : Queue → Queue) : (s.modQueue q f).groups = s.groups := rfl
@[simp] theorem modQueue_kernels (q : Nat) (f : Queue → Queue) : (s.modQueue q f).kernels = s.kernels := rfl
@[simp] theorem modQueue_dies (q : Nat) (f : Queue → Queue) : (s.modQueue q f).dies = s.dies := rfl
@[simp] theorem modQueue_parts (q : Nat) (f : Queue → Queue) : (s.modQueue q f).parts = s.parts := rfl
@[simp] theorem modQueue_tenants (q : Nat) (f : Queue → Queue) : (s.modQueue q f).tenants = s.tenants := rfl
@[simp] theorem modQueue_frames (q : Nat) (f : Queue → Queue) : (s.modQueue q f).frames = s.frames := rfl
@[simp] theorem modQueue_backing (q : Nat) (f : Queue → Queue) : (s.modQueue q f).backing = s.backing := rfl
@[simp] theorem modQueue_xshr (q : Nat) (f : Queue → Queue) : (s.modQueue q f).xshr = s.xshr := rfl
@[simp] theorem modQueue_walkers (q : Nat) (f : Queue → Queue) : (s.modQueue q f).walkers = s.walkers := rfl
@[simp] theorem modQueue_roots (q : Nat) (f : Queue → Queue) : (s.modQueue q f).roots = s.roots := rfl
@[simp] theorem modQueue_owners (q : Nat) (f : Queue → Queue) : (s.modQueue q f).owners = s.owners := rfl
@[simp] theorem modQueue_dlocal (q : Nat) (f : Queue → Queue) : (s.modQueue q f).dlocal = s.dlocal := rfl
@[simp] theorem modQueue_rm (q : Nat) (f : Queue → Queue) : (s.modQueue q f).rm = s.rm := rfl
@[simp] theorem modQueue_links (q : Nat) (f : Queue → Queue) : (s.modQueue q f).links = s.links := rfl
@[simp] theorem modQueue_linkTries (q : Nat) (f : Queue → Queue) : (s.modQueue q f).linkTries = s.linkTries := rfl
@[simp] theorem modQueue_ioRoots (q : Nat) (f : Queue → Queue) : (s.modQueue q f).ioRoots = s.ioRoots := rfl
@[simp] theorem modQueue_sessions (q : Nat) (f : Queue → Queue) : (s.modQueue q f).sessions = s.sessions := rfl
@[simp] theorem modQueue_comms (q : Nat) (f : Queue → Queue) : (s.modQueue q f).comms = s.comms := rfl
@[simp] theorem modQueue_accs (q : Nat) (f : Queue → Queue) : (s.modQueue q f).accs = s.accs := rfl
@[simp] theorem modQueue_regns (q : Nat) (f : Queue → Queue) : (s.modQueue q f).regns = s.regns := rfl
@[simp] theorem modQueue_pends (q : Nat) (f : Queue → Queue) : (s.modQueue q f).pends = s.pends := rfl
@[simp] theorem modQueue_placements (q : Nat) (f : Queue → Queue) : (s.modQueue q f).placements = s.placements := rfl
@[simp] theorem modQueue_steals (q : Nat) (f : Queue → Queue) : (s.modQueue q f).steals = s.steals := rfl
@[simp] theorem modQueue_late (q : Nat) (f : Queue → Queue) : (s.modQueue q f).late = s.late := rfl
@[simp] theorem modQueue_posts (q : Nat) (f : Queue → Queue) : (s.modQueue q f).posts = s.posts := rfl
@[simp] theorem modQueue_cmds (q : Nat) (f : Queue → Queue) : (s.modQueue q f).cmds = s.cmds := rfl
@[simp] theorem modQueue_heapOps (q : Nat) (f : Queue → Queue) : (s.modQueue q f).heapOps = s.heapOps := rfl
@[simp] theorem modQueue_heaps (q : Nat) (f : Queue → Queue) : (s.modQueue q f).heaps = s.heaps := rfl
@[simp] theorem modQueue_shoots (q : Nat) (f : Queue → Queue) : (s.modQueue q f).shoots = s.shoots := rfl
@[simp] theorem modQueue_reconf (q : Nat) (f : Queue → Queue) : (s.modQueue q f).reconf = s.reconf := rfl
@[simp] theorem modQueue_pending (q : Nat) (f : Queue → Queue) : (s.modQueue q f).pending = s.pending := rfl
@[simp] theorem modQueue_colls (q : Nat) (f : Queue → Queue) : (s.modQueue q f).colls = s.colls := rfl
@[simp] theorem modQueue_flits (q : Nat) (f : Queue → Queue) : (s.modQueue q f).flits = s.flits := rfl
@[simp] theorem modQueue_results (q : Nat) (f : Queue → Queue) : (s.modQueue q f).results = s.results := rfl
@[simp] theorem modQueue_outbox (q : Nat) (f : Queue → Queue) : (s.modQueue q f).outbox = s.outbox := rfl
@[simp] theorem modQueue_seen (q : Nat) (f : Queue → Queue) : (s.modQueue q f).seen = s.seen := rfl
@[simp] theorem modQueue_rows (q : Nat) (f : Queue → Queue) : (s.modQueue q f).rows = s.rows := rfl
@[simp] theorem modQueue_turns (q : Nat) (f : Queue → Queue) : (s.modQueue q f).turns = s.turns := rfl
@[simp] theorem modQueue_sel (q : Nat) (f : Queue → Queue) : (s.modQueue q f).sel = s.sel := rfl
@[simp] theorem modQueue_cycle (q : Nat) (f : Queue → Queue) : (s.modQueue q f).cycle = s.cycle := rfl
@[simp] theorem modQueue_now (q : Nat) (f : Queue → Queue) : (s.modQueue q f).now = s.now := rfl
@[simp] theorem modQueue_nextId (q : Nat) (f : Queue → Queue) : (s.modQueue q f).nextId = s.nextId := rfl
@[simp] theorem modQueue_fresh (q : Nat) (f : Queue → Queue) : (s.modQueue q f).fresh = s.fresh := rfl
@[simp] theorem modQueue_thr_read (q : Nat) (f : Queue → Queue) (j : Nat) : (s.modQueue q f).thr j = s.thr j := rfl
@[simp] theorem modQueue_ctx_read (q : Nat) (f : Queue → Queue) (j : Nat) : (s.modQueue q f).ctx j = s.ctx j := rfl
@[simp] theorem modQueue_core_read (q : Nat) (f : Queue → Queue) (j : Nat) : (s.modQueue q f).core j = s.core j := rfl
@[simp] theorem modQueue_group_read (q : Nat) (f : Queue → Queue) (j : Nat) : (s.modQueue q f).group j = s.group j := rfl
@[simp] theorem modQueue_kernel_read (q : Nat) (f : Queue → Queue) (j : Nat) : (s.modQueue q f).kernel j = s.kernel j := rfl
@[simp] theorem modQueue_die_read (q : Nat) (f : Queue → Queue) (j : Nat) : (s.modQueue q f).die j = s.die j := rfl
@[simp] theorem modQueue_part_read (q : Nat) (f : Queue → Queue) (j : Nat) : (s.modQueue q f).part j = s.part j := rfl
theorem modQueue_queue (q : Nat) (f : Queue → Queue) (j : Nat) : (s.modQueue q f).queue j = if j = q then f (s.queue q) else s.queue j := by
  simp only [modQueue, queue, Tab.get_modify]
@[simp] theorem modQueue_queue_self (q : Nat) (f : Queue → Queue) : (s.modQueue q f).queue q = f (s.queue q) := by simp [modQueue_queue]
theorem modQueue_queue_ne (q : Nat) (f : Queue → Queue) {j : Nat} (h : j ≠ q) : (s.modQueue q f).queue j = s.queue j := by simp [modQueue_queue, h]

@[simp] theorem modDie_mem (d : Nat) (f : Die → Die) : (s.modDie d f).mem = s.mem := rfl
@[simp] theorem modDie_poison (d : Nat) (f : Die → Die) : (s.modDie d f).poison = s.poison := rfl
@[simp] theorem modDie_owner (d : Nat) (f : Die → Die) : (s.modDie d f).owner = s.owner := rfl
@[simp] theorem modDie_l1 (d : Nat) (f : Die → Die) : (s.modDie d f).l1 = s.l1 := rfl
@[simp] theorem modDie_lane (d : Nat) (f : Die → Die) : (s.modDie d f).lane = s.lane := rfl
@[simp] theorem modDie_pad (d : Nat) (f : Die → Die) : (s.modDie d f).pad = s.pad := rfl
@[simp] theorem modDie_clus (d : Nat) (f : Die → Die) : (s.modDie d f).clus = s.clus := rfl
@[simp] theorem modDie_dsp (d : Nat) (f : Die → Die) : (s.modDie d f).dsp = s.dsp := rfl
@[simp] theorem modDie_dspSave (d : Nat) (f : Die → Die) : (s.modDie d f).dspSave = s.dspSave := rfl
@[simp] theorem modDie_lpoison (d : Nat) (f : Die → Die) : (s.modDie d f).lpoison = s.lpoison := rfl
@[simp] theorem modDie_threads (d : Nat) (f : Die → Die) : (s.modDie d f).threads = s.threads := rfl
@[simp] theorem modDie_evicted (d : Nat) (f : Die → Die) : (s.modDie d f).evicted = s.evicted := rfl
@[simp] theorem modDie_evLane (d : Nat) (f : Die → Die) : (s.modDie d f).evLane = s.evLane := rfl
@[simp] theorem modDie_ctxs (d : Nat) (f : Die → Die) : (s.modDie d f).ctxs = s.ctxs := rfl
@[simp] theorem modDie_cores (d : Nat) (f : Die → Die) : (s.modDie d f).cores = s.cores := rfl
@[simp] theorem modDie_groups (d : Nat) (f : Die → Die) : (s.modDie d f).groups = s.groups := rfl
@[simp] theorem modDie_kernels (d : Nat) (f : Die → Die) : (s.modDie d f).kernels = s.kernels := rfl
@[simp] theorem modDie_queues (d : Nat) (f : Die → Die) : (s.modDie d f).queues = s.queues := rfl
@[simp] theorem modDie_parts (d : Nat) (f : Die → Die) : (s.modDie d f).parts = s.parts := rfl
@[simp] theorem modDie_tenants (d : Nat) (f : Die → Die) : (s.modDie d f).tenants = s.tenants := rfl
@[simp] theorem modDie_frames (d : Nat) (f : Die → Die) : (s.modDie d f).frames = s.frames := rfl
@[simp] theorem modDie_backing (d : Nat) (f : Die → Die) : (s.modDie d f).backing = s.backing := rfl
@[simp] theorem modDie_xshr (d : Nat) (f : Die → Die) : (s.modDie d f).xshr = s.xshr := rfl
@[simp] theorem modDie_walkers (d : Nat) (f : Die → Die) : (s.modDie d f).walkers = s.walkers := rfl
@[simp] theorem modDie_roots (d : Nat) (f : Die → Die) : (s.modDie d f).roots = s.roots := rfl
@[simp] theorem modDie_owners (d : Nat) (f : Die → Die) : (s.modDie d f).owners = s.owners := rfl
@[simp] theorem modDie_dlocal (d : Nat) (f : Die → Die) : (s.modDie d f).dlocal = s.dlocal := rfl
@[simp] theorem modDie_rm (d : Nat) (f : Die → Die) : (s.modDie d f).rm = s.rm := rfl
@[simp] theorem modDie_links (d : Nat) (f : Die → Die) : (s.modDie d f).links = s.links := rfl
@[simp] theorem modDie_linkTries (d : Nat) (f : Die → Die) : (s.modDie d f).linkTries = s.linkTries := rfl
@[simp] theorem modDie_ioRoots (d : Nat) (f : Die → Die) : (s.modDie d f).ioRoots = s.ioRoots := rfl
@[simp] theorem modDie_sessions (d : Nat) (f : Die → Die) : (s.modDie d f).sessions = s.sessions := rfl
@[simp] theorem modDie_comms (d : Nat) (f : Die → Die) : (s.modDie d f).comms = s.comms := rfl
@[simp] theorem modDie_accs (d : Nat) (f : Die → Die) : (s.modDie d f).accs = s.accs := rfl
@[simp] theorem modDie_regns (d : Nat) (f : Die → Die) : (s.modDie d f).regns = s.regns := rfl
@[simp] theorem modDie_pends (d : Nat) (f : Die → Die) : (s.modDie d f).pends = s.pends := rfl
@[simp] theorem modDie_placements (d : Nat) (f : Die → Die) : (s.modDie d f).placements = s.placements := rfl
@[simp] theorem modDie_steals (d : Nat) (f : Die → Die) : (s.modDie d f).steals = s.steals := rfl
@[simp] theorem modDie_late (d : Nat) (f : Die → Die) : (s.modDie d f).late = s.late := rfl
@[simp] theorem modDie_posts (d : Nat) (f : Die → Die) : (s.modDie d f).posts = s.posts := rfl
@[simp] theorem modDie_cmds (d : Nat) (f : Die → Die) : (s.modDie d f).cmds = s.cmds := rfl
@[simp] theorem modDie_heapOps (d : Nat) (f : Die → Die) : (s.modDie d f).heapOps = s.heapOps := rfl
@[simp] theorem modDie_heaps (d : Nat) (f : Die → Die) : (s.modDie d f).heaps = s.heaps := rfl
@[simp] theorem modDie_shoots (d : Nat) (f : Die → Die) : (s.modDie d f).shoots = s.shoots := rfl
@[simp] theorem modDie_reconf (d : Nat) (f : Die → Die) : (s.modDie d f).reconf = s.reconf := rfl
@[simp] theorem modDie_pending (d : Nat) (f : Die → Die) : (s.modDie d f).pending = s.pending := rfl
@[simp] theorem modDie_colls (d : Nat) (f : Die → Die) : (s.modDie d f).colls = s.colls := rfl
@[simp] theorem modDie_flits (d : Nat) (f : Die → Die) : (s.modDie d f).flits = s.flits := rfl
@[simp] theorem modDie_results (d : Nat) (f : Die → Die) : (s.modDie d f).results = s.results := rfl
@[simp] theorem modDie_outbox (d : Nat) (f : Die → Die) : (s.modDie d f).outbox = s.outbox := rfl
@[simp] theorem modDie_seen (d : Nat) (f : Die → Die) : (s.modDie d f).seen = s.seen := rfl
@[simp] theorem modDie_rows (d : Nat) (f : Die → Die) : (s.modDie d f).rows = s.rows := rfl
@[simp] theorem modDie_turns (d : Nat) (f : Die → Die) : (s.modDie d f).turns = s.turns := rfl
@[simp] theorem modDie_sel (d : Nat) (f : Die → Die) : (s.modDie d f).sel = s.sel := rfl
@[simp] theorem modDie_cycle (d : Nat) (f : Die → Die) : (s.modDie d f).cycle = s.cycle := rfl
@[simp] theorem modDie_now (d : Nat) (f : Die → Die) : (s.modDie d f).now = s.now := rfl
@[simp] theorem modDie_nextId (d : Nat) (f : Die → Die) : (s.modDie d f).nextId = s.nextId := rfl
@[simp] theorem modDie_fresh (d : Nat) (f : Die → Die) : (s.modDie d f).fresh = s.fresh := rfl
@[simp] theorem modDie_thr_read (d : Nat) (f : Die → Die) (j : Nat) : (s.modDie d f).thr j = s.thr j := rfl
@[simp] theorem modDie_ctx_read (d : Nat) (f : Die → Die) (j : Nat) : (s.modDie d f).ctx j = s.ctx j := rfl
@[simp] theorem modDie_core_read (d : Nat) (f : Die → Die) (j : Nat) : (s.modDie d f).core j = s.core j := rfl
@[simp] theorem modDie_group_read (d : Nat) (f : Die → Die) (j : Nat) : (s.modDie d f).group j = s.group j := rfl
@[simp] theorem modDie_kernel_read (d : Nat) (f : Die → Die) (j : Nat) : (s.modDie d f).kernel j = s.kernel j := rfl
@[simp] theorem modDie_queue_read (d : Nat) (f : Die → Die) (j : Nat) : (s.modDie d f).queue j = s.queue j := rfl
@[simp] theorem modDie_part_read (d : Nat) (f : Die → Die) (j : Nat) : (s.modDie d f).part j = s.part j := rfl
theorem modDie_die (d : Nat) (f : Die → Die) (j : Nat) : (s.modDie d f).die j = if j = d then f (s.die d) else s.die j := by
  simp only [modDie, die, Tab.get_modify]
@[simp] theorem modDie_die_self (d : Nat) (f : Die → Die) : (s.modDie d f).die d = f (s.die d) := by simp [modDie_die]
theorem modDie_die_ne (d : Nat) (f : Die → Die) {j : Nat} (h : j ≠ d) : (s.modDie d f).die j = s.die j := by simp [modDie_die, h]

@[simp] theorem modPart_mem (p : Nat) (f : Part → Part) : (s.modPart p f).mem = s.mem := rfl
@[simp] theorem modPart_poison (p : Nat) (f : Part → Part) : (s.modPart p f).poison = s.poison := rfl
@[simp] theorem modPart_owner (p : Nat) (f : Part → Part) : (s.modPart p f).owner = s.owner := rfl
@[simp] theorem modPart_l1 (p : Nat) (f : Part → Part) : (s.modPart p f).l1 = s.l1 := rfl
@[simp] theorem modPart_lane (p : Nat) (f : Part → Part) : (s.modPart p f).lane = s.lane := rfl
@[simp] theorem modPart_pad (p : Nat) (f : Part → Part) : (s.modPart p f).pad = s.pad := rfl
@[simp] theorem modPart_clus (p : Nat) (f : Part → Part) : (s.modPart p f).clus = s.clus := rfl
@[simp] theorem modPart_dsp (p : Nat) (f : Part → Part) : (s.modPart p f).dsp = s.dsp := rfl
@[simp] theorem modPart_dspSave (p : Nat) (f : Part → Part) : (s.modPart p f).dspSave = s.dspSave := rfl
@[simp] theorem modPart_lpoison (p : Nat) (f : Part → Part) : (s.modPart p f).lpoison = s.lpoison := rfl
@[simp] theorem modPart_threads (p : Nat) (f : Part → Part) : (s.modPart p f).threads = s.threads := rfl
@[simp] theorem modPart_evicted (p : Nat) (f : Part → Part) : (s.modPart p f).evicted = s.evicted := rfl
@[simp] theorem modPart_evLane (p : Nat) (f : Part → Part) : (s.modPart p f).evLane = s.evLane := rfl
@[simp] theorem modPart_ctxs (p : Nat) (f : Part → Part) : (s.modPart p f).ctxs = s.ctxs := rfl
@[simp] theorem modPart_cores (p : Nat) (f : Part → Part) : (s.modPart p f).cores = s.cores := rfl
@[simp] theorem modPart_groups (p : Nat) (f : Part → Part) : (s.modPart p f).groups = s.groups := rfl
@[simp] theorem modPart_kernels (p : Nat) (f : Part → Part) : (s.modPart p f).kernels = s.kernels := rfl
@[simp] theorem modPart_queues (p : Nat) (f : Part → Part) : (s.modPart p f).queues = s.queues := rfl
@[simp] theorem modPart_dies (p : Nat) (f : Part → Part) : (s.modPart p f).dies = s.dies := rfl
@[simp] theorem modPart_tenants (p : Nat) (f : Part → Part) : (s.modPart p f).tenants = s.tenants := rfl
@[simp] theorem modPart_frames (p : Nat) (f : Part → Part) : (s.modPart p f).frames = s.frames := rfl
@[simp] theorem modPart_backing (p : Nat) (f : Part → Part) : (s.modPart p f).backing = s.backing := rfl
@[simp] theorem modPart_xshr (p : Nat) (f : Part → Part) : (s.modPart p f).xshr = s.xshr := rfl
@[simp] theorem modPart_walkers (p : Nat) (f : Part → Part) : (s.modPart p f).walkers = s.walkers := rfl
@[simp] theorem modPart_roots (p : Nat) (f : Part → Part) : (s.modPart p f).roots = s.roots := rfl
@[simp] theorem modPart_owners (p : Nat) (f : Part → Part) : (s.modPart p f).owners = s.owners := rfl
@[simp] theorem modPart_dlocal (p : Nat) (f : Part → Part) : (s.modPart p f).dlocal = s.dlocal := rfl
@[simp] theorem modPart_rm (p : Nat) (f : Part → Part) : (s.modPart p f).rm = s.rm := rfl
@[simp] theorem modPart_links (p : Nat) (f : Part → Part) : (s.modPart p f).links = s.links := rfl
@[simp] theorem modPart_linkTries (p : Nat) (f : Part → Part) : (s.modPart p f).linkTries = s.linkTries := rfl
@[simp] theorem modPart_ioRoots (p : Nat) (f : Part → Part) : (s.modPart p f).ioRoots = s.ioRoots := rfl
@[simp] theorem modPart_sessions (p : Nat) (f : Part → Part) : (s.modPart p f).sessions = s.sessions := rfl
@[simp] theorem modPart_comms (p : Nat) (f : Part → Part) : (s.modPart p f).comms = s.comms := rfl
@[simp] theorem modPart_accs (p : Nat) (f : Part → Part) : (s.modPart p f).accs = s.accs := rfl
@[simp] theorem modPart_regns (p : Nat) (f : Part → Part) : (s.modPart p f).regns = s.regns := rfl
@[simp] theorem modPart_pends (p : Nat) (f : Part → Part) : (s.modPart p f).pends = s.pends := rfl
@[simp] theorem modPart_placements (p : Nat) (f : Part → Part) : (s.modPart p f).placements = s.placements := rfl
@[simp] theorem modPart_steals (p : Nat) (f : Part → Part) : (s.modPart p f).steals = s.steals := rfl
@[simp] theorem modPart_late (p : Nat) (f : Part → Part) : (s.modPart p f).late = s.late := rfl
@[simp] theorem modPart_posts (p : Nat) (f : Part → Part) : (s.modPart p f).posts = s.posts := rfl
@[simp] theorem modPart_cmds (p : Nat) (f : Part → Part) : (s.modPart p f).cmds = s.cmds := rfl
@[simp] theorem modPart_heapOps (p : Nat) (f : Part → Part) : (s.modPart p f).heapOps = s.heapOps := rfl
@[simp] theorem modPart_heaps (p : Nat) (f : Part → Part) : (s.modPart p f).heaps = s.heaps := rfl
@[simp] theorem modPart_shoots (p : Nat) (f : Part → Part) : (s.modPart p f).shoots = s.shoots := rfl
@[simp] theorem modPart_reconf (p : Nat) (f : Part → Part) : (s.modPart p f).reconf = s.reconf := rfl
@[simp] theorem modPart_pending (p : Nat) (f : Part → Part) : (s.modPart p f).pending = s.pending := rfl
@[simp] theorem modPart_colls (p : Nat) (f : Part → Part) : (s.modPart p f).colls = s.colls := rfl
@[simp] theorem modPart_flits (p : Nat) (f : Part → Part) : (s.modPart p f).flits = s.flits := rfl
@[simp] theorem modPart_results (p : Nat) (f : Part → Part) : (s.modPart p f).results = s.results := rfl
@[simp] theorem modPart_outbox (p : Nat) (f : Part → Part) : (s.modPart p f).outbox = s.outbox := rfl
@[simp] theorem modPart_seen (p : Nat) (f : Part → Part) : (s.modPart p f).seen = s.seen := rfl
@[simp] theorem modPart_rows (p : Nat) (f : Part → Part) : (s.modPart p f).rows = s.rows := rfl
@[simp] theorem modPart_turns (p : Nat) (f : Part → Part) : (s.modPart p f).turns = s.turns := rfl
@[simp] theorem modPart_sel (p : Nat) (f : Part → Part) : (s.modPart p f).sel = s.sel := rfl
@[simp] theorem modPart_cycle (p : Nat) (f : Part → Part) : (s.modPart p f).cycle = s.cycle := rfl
@[simp] theorem modPart_now (p : Nat) (f : Part → Part) : (s.modPart p f).now = s.now := rfl
@[simp] theorem modPart_nextId (p : Nat) (f : Part → Part) : (s.modPart p f).nextId = s.nextId := rfl
@[simp] theorem modPart_fresh (p : Nat) (f : Part → Part) : (s.modPart p f).fresh = s.fresh := rfl
@[simp] theorem modPart_thr_read (p : Nat) (f : Part → Part) (j : Nat) : (s.modPart p f).thr j = s.thr j := rfl
@[simp] theorem modPart_ctx_read (p : Nat) (f : Part → Part) (j : Nat) : (s.modPart p f).ctx j = s.ctx j := rfl
@[simp] theorem modPart_core_read (p : Nat) (f : Part → Part) (j : Nat) : (s.modPart p f).core j = s.core j := rfl
@[simp] theorem modPart_group_read (p : Nat) (f : Part → Part) (j : Nat) : (s.modPart p f).group j = s.group j := rfl
@[simp] theorem modPart_kernel_read (p : Nat) (f : Part → Part) (j : Nat) : (s.modPart p f).kernel j = s.kernel j := rfl
@[simp] theorem modPart_queue_read (p : Nat) (f : Part → Part) (j : Nat) : (s.modPart p f).queue j = s.queue j := rfl
@[simp] theorem modPart_die_read (p : Nat) (f : Part → Part) (j : Nat) : (s.modPart p f).die j = s.die j := rfl
theorem modPart_part (p : Nat) (f : Part → Part) (j : Nat) : (s.modPart p f).part j = if j = p then f (s.part p) else s.part j := by
  simp only [modPart, part, Tab.get_modify]
@[simp] theorem modPart_part_self (p : Nat) (f : Part → Part) : (s.modPart p f).part p = f (s.part p) := by simp [modPart_part]
theorem modPart_part_ne (p : Nat) (f : Part → Part) {j : Nat} (h : j ≠ p) : (s.modPart p f).part j = s.part j := by simp [modPart_part, h]

end Sys2Proof.Machine.State
end

