-- ==== Sys2Proof/Laws/Issue.lean ====
section
/-! SUPPORT. What the issue of an instruction does when every thread of the troupe executes it and falls through. -/

set_option Elab.async false

namespace Sys2Proof.Machine

theorem threadKey_inj {c k j : Nat} (h : threadKey c k = threadKey c j) : k = j := by
  unfold threadKey at h; omega

/-- The threads' operations, one after another. -/
def runOps (F : State → Nat → State) (c : Nat) (l : List Nat) (s : State) : State :=
  l.foldl (fun u k => F u (threadKey c k)) s

theorem foldl_add_done (op : State → Nat → TRes) (F : State → Nat → State) (c : Nat) (l : List Nat) (a : Issued)
    (h : ∀ pre k post, l = pre ++ k :: post →
      op (runOps F c pre a.st) (threadKey c k) = .done (F (runOps F c pre a.st) (threadKey c k)) none) :
    l.foldl (Issued.add op c) a = { a with st := runOps F c l a.st, go := a.go ++ l.map (fun k => (k, none)) } := by
  induction l generalizing a with
  | nil => simp [runOps]
  | cons k r ih =>
    have h0 : op a.st (threadKey c k) = .done (F a.st (threadKey c k)) none := by
      simpa [runOps] using h [] k r rfl
    have h1 : Issued.add op c a k = { a with st := F a.st (threadKey c k), go := a.go ++ [(k, none)] } := by
      simp [Issued.add, h0]
    rw [List.foldl_cons, h1, ih]
    · simp [runOps]
    · intro pre j post hp
      simpa [runOps] using h (k :: pre) j post (by simp [hp])

theorem classes_const {β : Type} [DecidableEq β] (f : Nat → β) (b : β) (l : List Nat) (hl : l ≠ []) (h : ∀ k ∈ l, f k = b) :
    classes f l.length l = [l] := by
  cases l with
  | nil => exact absurd rfl hl
  | cons x r =>
    have hx : f x = b := h x (List.mem_cons_self ..)
    have h1 : r.filter (fun y => decide (f y = f x)) = r := by
      rw [List.filter_eq_self]; intro a ha; simp [hx, h a (List.mem_cons_of_mem _ ha)]
    have h2 : r.filter (fun y => decide (f y ≠ f x)) = [] := by
      rw [List.filter_eq_nil_iff]; intro a ha; simp [hx, h a (List.mem_cons_of_mem _ ha)]
    simp only [List.length_cons, classes, h1, h2]
    cases r.length <;> simp [classes]

theorem find_map_none (l : List Nat) (k : Nat) :
    ((l.map (fun j => (j, (none : Option DWord)))).find? (fun e => e.1 == k)).bind Prod.snd = none := by
  induction l with
  | nil => rfl
  | cons x r ih =>
    by_cases hx : x = k
    · simp [hx]
    · have h0 : (x == k) = false := by simpa using hx
      rw [List.map_cons, List.find?_cons]
      simpa only [h0] using ih

/-- A troupe that falls through as a whole stays one troupe. -/
theorem regroup_all (s : State) (c : Nat) (old : Troupe) (hd : Bool) (age : Nat) (l : List Nat) (hl : l ≠ []) :
    s.regroup c old hd age (l.map (fun k => (k, none))) =
      s.modCtx c (fun x => { x with troupes := x.troupes ++ [{ old with
        slots := l, age := age, first := if hd then old.first else none,
        readyAt := if hd then old.readyAt else s.cycle + 1 }] }) := by
  have hs : (l.map (fun k => (k, (none : Option DWord)))).map Prod.fst = l := by simp [Function.comp_def]
  have hp := classes_const (fun k => ((l.map (fun j => (j, (none : Option DWord)))).find? (fun e => e.1 == k)).bind Prod.snd)
    none l hl (fun k _ => find_map_none l k)
  have hf : (l.all fun k => (l.map (fun j => (j, (none : Option DWord)))).any (fun e => e.1 == k && e.2.isNone)) = true := by
    simp
  unfold State.regroup
  simp only [hs, hp, List.find?_cons, hf]
  simp

/-- The threads go on one after another: each thread named once is past its instruction. -/
theorem goOn_all (s : State) (c n : Nat) (hn : n ≠ 0) (l : List Nat) (hd : l.Nodup) :
    ∃ th, s.goOn c n (l.map (fun k => (k, none))) = { s with threads := th } ∧
      (∀ k ∈ l, th.get (threadKey c k) = stepPast s (s.thr (threadKey c k)) n) ∧
      (∀ j, (∀ k ∈ l, j ≠ threadKey c k) → th.get j = s.thr j) := by
  induction l generalizing s with
  | nil => exact ⟨s.threads, rfl, by simp, fun j _ => rfl⟩
  | cons k r ih =>
    obtain ⟨hk, hr⟩ := List.nodup_cons.1 hd
    let s1 := s.modThr (threadKey c k) (fun x => stepPast s x n)
    have h1 : s.goOn c n ((k :: r).map (fun j => (j, none))) = s1.goOn c n (r.map (fun j => (j, none))) := by
      simp only [State.goOn, List.map_cons, List.foldl_cons]
      congr 1
      simp only [s1, stepPast]
      congr 1
      funext x
      simp [hn]
    have hg : ∀ x, stepPast s1 x n = stepPast s x n := fun x => rfl
    obtain ⟨th, h2, h3, h4⟩ := ih s1 hr
    refine ⟨th, by rw [h1, h2]; rfl, ?_, ?_⟩
    · intro j hj
      rcases List.mem_cons.1 hj with rfl | hj
      · rw [h4 _ (fun i hi he => by have := threadKey_inj he; subst this; exact hk hi)]
        simp [s1]
      · rw [h3 j hj, hg]
        have : threadKey c j ≠ threadKey c k := fun he => hk (threadKey_inj he ▸ hj)
        simp [s1, State.modThr_thr, this]
    · intro j hj
      rw [h4 j (fun i hi => hj i (List.mem_cons_of_mem _ hi))]
      simp [s1, State.modThr_thr, hj k (List.mem_cons_self ..)]

/-- An instruction that every thread of the troupe executes. -/
theorem issue_done (s : State) (sel : Sel) (n : Nat) (y : Bool) (op : State → Nat → TRes) (F : State → Nat → State)
    (hn : n ≠ 0) (hs : s.sel = some sel) (hl : sel.slots ≠ []) (hd : sel.slots.Nodup)
    (h : ∀ pre k post, sel.slots = pre ++ k :: post →
      op (runOps F sel.ctx pre { s with sel := none }) (threadKey sel.ctx k) =
        .done (F (runOps F sel.ctx pre { s with sel := none }) (threadKey sel.ctx k)) none) :
    ∃ t, s.issue n y op = .next t ∧ GoesOn (runOps F sel.ctx sel.slots { s with sel := none }) t sel n := by
  unfold State.issue
  rw [hs]
  simp only [foldl_add_done op F sel.ctx sel.slots { st := { s with sel := none } } h]
  simp only [List.isEmpty_nil, Bool.not_true, Bool.false_eq_true, if_false, List.nil_append]
  refine ⟨_, rfl, ?_⟩
  generalize runOps F sel.ctx sel.slots { s with sel := none } = s1
  unfold State.finish
  simp only [List.foldl_nil]
  obtain ⟨th, h2, h3, h4⟩ := goOn_all s1 sel.ctx n hn sel.slots hd
  rw [h2, regroup_all _ _ _ _ _ _ hl]
  rw [if_neg hn]
  refine ⟨rfl, ?_, ?_, ?_, ?_⟩
  · intro k hk
    exact h3 k hk
  · intro j hj
    exact h4 j hj
  · intro c
    simp only [State.noteIssue, State.dropTroupe, State.modCore, State.ctx, State.modCtx, Tab.get_modify]
    split_ifs <;> simp_all
  · intro c
    simp only [State.noteIssue, State.dropTroupe, State.modCore, State.core, State.modCtx, Tab.get_modify]
    split_ifs <;> simp_all

/-- A thread without a register in error uses none. -/
theorem usesLost_none (x : Thread) (rs : List RegName) (h : x.lost = []) : State.usesLost x rs = false := by
  simp [State.usesLost, h]

/-- Operations on their own threads alone, one after another. -/
theorem runOps_own (s : State) (c : Nat) (g : State → Nat → State) (f : Thread → Thread) (l : List Nat) (hd : l.Nodup)
    (P : State → Prop) (hP : P s)
    (hg : ∀ u t, P u → P (g u t) ∧ g u t = { u with threads := (g u t).threads } ∧ (g u t).thr t = f (u.thr t) ∧
      ∀ j, j ≠ t → (g u t).thr j = u.thr j) :
    ∃ th, runOps g c l s = { s with threads := th } ∧
      (∀ k ∈ l, th.get (threadKey c k) = f (s.thr (threadKey c k))) ∧
      (∀ j, (∀ k ∈ l, j ≠ threadKey c k) → th.get j = s.thr j) := by
  induction l generalizing s with
  | nil => exact ⟨s.threads, rfl, by simp, fun j _ => rfl⟩
  | cons k r ih =>
    obtain ⟨hk, hr⟩ := List.nodup_cons.1 hd
    obtain ⟨h0, h1, h2, h3⟩ := hg s (threadKey c k) hP
    obtain ⟨th, h4, h5, h6⟩ := ih (g s (threadKey c k)) hr h0
    refine ⟨th, ?_, ?_, ?_⟩
    · simp only [runOps, List.foldl_cons] at h4 ⊢; rw [h4]
      conv => lhs; rw [h1]
    · intro j hj
      rcases List.mem_cons.1 hj with rfl | hj
      · rw [h6 _ (fun i hi he => by have := threadKey_inj he; subst this; exact hk hi)]
        exact h2
      · rw [h5 j hj]
        have : threadKey c j ≠ threadKey c k := fun he => hk (threadKey_inj he ▸ hj)
        rw [h3 _ this]
    · intro j hj
      rw [h6 j (fun i hi => hj i (List.mem_cons_of_mem _ hi))]
      exact h3 _ (hj k (List.mem_cons_self ..))

/-- An instruction of a well-formed word whose operation changes its own thread alone, by a function of it. -/
theorem run_own {i : Instr} {s : State} {sel : Sel} {y : Bool} {op : State → Nat → TRes} {g : State → Nat → State}
    {f : Thread → Thread}
    (hex : exec i s = s.run i y op) (hwf : i.wf = true) (hp : i.parcels ≠ 0) (hi : Issues s sel i.parcels)
    (hm : ∀ (u : State) k, k ∈ sel.slots → u = { s with threads := u.threads, sel := none } →
      u.thr (sel.key k) = s.thr (sel.key k) → u.mayStand (sel.key k) i = true)
    (hg : ∀ u t, g u t = { u with threads := (g u t).threads } ∧ (g u t).thr t = f (u.thr t) ∧
      ∀ j, j ≠ t → (g u t).thr j = u.thr j)
    (hop : ∀ u k, k ∈ sel.slots → u = { s with threads := u.threads, sel := none } →
      u.thr (sel.key k) = s.thr (sel.key k) → op u (sel.key k) = .done (g u (sel.key k)) none) :
    Changes i s sel f := by
  obtain ⟨hs, hl, hd, hin⟩ := hi
  have hg' : ∀ u t, True → True ∧ g u t = { u with threads := (g u t).threads } ∧ (g u t).thr t = f (u.thr t) ∧
      ∀ j, j ≠ t → (g u t).thr j = u.thr j := fun u t _ => ⟨trivial, hg u t⟩
  have hpre : ∀ pre k post, sel.slots = pre ++ k :: post →
      ∃ th, runOps g sel.ctx pre { s with sel := none } = { s with threads := th, sel := none } ∧
        th.get (sel.key k) = s.thr (sel.key k) := by
    intro pre k post he
    rw [he] at hd
    obtain ⟨hdp, _, hdis⟩ := List.nodup_append.1 hd
    obtain ⟨th, h2, _, h4⟩ := runOps_own { s with sel := none } sel.ctx g f pre hdp (fun _ => True) trivial hg'
    refine ⟨th, h2, h4 _ (fun i hi hke => ?_)⟩
    have := threadKey_inj hke
    subst this
    exact hdis _ hi _ (List.mem_cons_self ..) rfl
  obtain ⟨t, ht, hgo⟩ := issue_done s sel i.parcels y
    (fun s t => if (i.wf && State.insideClause (s.thr t) i.parcels) = true then
      if (!s.mayStand t i) = true then illegal
      else if State.usesLost (s.thr t) (readsAP i ++ readsBits i) = true then .trap (trapOf .poison) else op s t
      else State.notHere (s.thr t))
    g hp hs hl hd (by
      intro pre k post he
      obtain ⟨th, h2, h3⟩ := hpre pre k post he
      have hk : k ∈ sel.slots := by rw [he]; simp
      rw [h2]
      have hthr : (State.thr { s with threads := th, sel := none } (threadKey sel.ctx k)) = s.thr (sel.key k) := h3
      have hins : State.insideClause (State.thr { s with threads := th, sel := none } (threadKey sel.ctx k)) i.parcels = true := by
        rw [hthr]; exact (hin k hk).1
      have hlost := usesLost_none (State.thr { s with threads := th, sel := none } (threadKey sel.ctx k)) (readsAP i ++ readsBits i)
        (by rw [hthr]; exact (hin k hk).2)
      have hmay : State.mayStand { s with threads := th, sel := none } (threadKey sel.ctx k) i = true := hm _ k hk rfl h3
      simp only [hwf, hins, hlost, hmay, Bool.and_self, Bool.not_true, if_true, Bool.false_eq_true, if_false]
      exact hop _ k hk rfl h3)
  obtain ⟨th, h2, h3, h4⟩ := runOps_own { s with sel := none } sel.ctx g f sel.slots hd (fun _ => True) trivial hg'
  rw [h2] at hgo
  obtain ⟨g1, g2, g3, g4, g5⟩ := hgo
  refine ⟨t, by rw [hex]; exact ht, ?_, ?_, ?_, ?_, ?_, ?_⟩
  · intro k hk
    rw [g2 k hk]
    have : (State.thr { s with threads := th, sel := none } (sel.key k)) = f (s.thr (sel.key k)) := h3 k hk
    rw [this]
    rfl
  · intro j hj
    rw [g3 j hj]
    exact h4 j hj
  · intro a; rw [g1]
  · exact g1
  · exact g4
  · exact g5

/-- The same for a single change of the thread. -/
theorem run_changes {i : Instr} {s : State} {sel : Sel} {y : Bool} {op : State → Nat → TRes} {f : Thread → Thread}
    (hex : exec i s = s.run i y op) (hwf : i.wf = true) (hp : i.parcels ≠ 0) (hi : Issues s sel i.parcels)
    (hm : ∀ (u : State) k, k ∈ sel.slots → u = { s with threads := u.threads, sel := none } →
      u.thr (sel.key k) = s.thr (sel.key k) → u.mayStand (sel.key k) i = true)
    (hop : ∀ u k, k ∈ sel.slots → u = { s with threads := u.threads, sel := none } →
      u.thr (sel.key k) = s.thr (sel.key k) → op u (sel.key k) = .done (u.modThr (sel.key k) f) none) :
    Changes i s sel f :=
  run_own (g := fun u t => u.modThr t f) hex hwf hp hi hm
    (fun u t => ⟨rfl, by simp, fun j hj => by simp [State.modThr_thr, hj]⟩) hop

/-! Operands. -/

theorem portsIn_none (gs : List Nat) (h : ∀ n ∈ gs, n < 60) : portsIn gs = [] := by
  have : gs.filter isPort = [] := by
    rw [List.filter_eq_nil_iff]; intro n hn; have := h n hn; simp [isPort]; omega
  simp [portsIn, this]

/-- Registers without ports: their values go to the operation. -/
theorem operands_regs (s : State) (t : Nat) (gs ws : List Nat) (dst : Option Nat) (pre : Thread → Option TrapInfo)
    (k : State → List Word → TRes) (hg : ∀ n ∈ gs, n < 60) (hd : ∀ d, dst = some d → d < 60)
    (hl : (s.thr t).lost = []) (he : someEmpty (s.thr t) gs ws = false) (hp : pre (s.thr t) = none) :
    s.operands t gs ws dst pre k = k s (gs.map (s.thr t).rdG) := by
  have hv : gs.map (State.gVal (s.thr t)) = gs.map (s.thr t).rdG := by
    apply List.map_congr_left
    intro n hn
    have := hg n hn
    have h0 : isPort n = false := by simp [isPort]; omega
    simp [State.gVal, h0]
  have hout : (dst.bind (fun d => if isPort d then some (d - 60) else none)) = none := by
    cases dst with
    | none => rfl
    | some d => have := hd d rfl; simp [isPort]; omega
  have hh : s.portHinder t [] none = none := by simp [State.portHinder]
  unfold State.operands
  simp only [he, hp, usesLost_none _ _ hl, portsIn_none gs hg, hout, hh, List.foldl_nil, hv, State.unlatch, List.isEmpty_nil, if_true,
    Bool.false_eq_true, if_false]
  cases k s (gs.map (s.thr t).rdG) <;> rfl

/-- A write of a register that is no port. -/
theorem wr_reg (s : State) (t n : Nat) (v : Word) (h : n < 60) : s.wr t n v = s.modThr t (fun x => x.wrG n v) := by
  have h0 : isPort n = false := by simp [isPort]; omega
  simp [State.wr, h0]

/-- A register operation on registers. -/
theorem regOp_changes {i : Instr} {s : State} {sel : Sel} {y : Bool} (d : BitVec 6) (gs : List (BitVec 6))
    (v : Thread → List Word → Word)
    (hex : exec i s = s.run i y (fun s t => regOp d gs (v (s.thr t)) s t)) (hwf : i.wf = true) (hp : i.parcels ≠ 0)
    (hi : Issues s sel i.parcels) (hm : ∀ u t, State.mayStand u t i = true) (hd : d.toNat < 60) (hg : ∀ g ∈ gs, g.toNat < 60)
    (he : Filled s sel (gs.map BitVec.toNat) []) :
    Changes i s sel (fun x => x.wrG d.toNat (v x (gs.map (fun g => x.rdG g.toNat)))) := by
  refine run_changes hex hwf hp hi (fun u k _ _ _ => hm u (sel.key k)) ?_
  intro u k hk hu hx
  have hg' : ∀ n ∈ gs.map BitVec.toNat, n < 60 := by
    intro n hn; obtain ⟨g, h1, rfl⟩ := List.mem_map.1 hn; exact hg g h1
  have := operands_regs u (sel.key k) (gs.map BitVec.toNat) [] (some d.toNat) noCheck
    (fun s vs => .done (s.wr (sel.key k) d.toNat (v (u.thr (sel.key k)) vs)) none) hg' (by simpa using hd)
    (by rw [hx]; exact (hi.2.2.2 k hk).2) (by rw [hx]; exact he k hk) rfl
  simp only [regOp]
  rw [this, wr_reg _ _ _ _ hd, List.map_map]
  simp only [State.modThr, Function.comp_def]

/-! Completion and transfer, thread by thread. -/

theorem runOps_turnOf (s : State) (sel : Sel) (f : State → Nat → State) (pre : List Nat) :
    runOps f sel.ctx pre { s with sel := none } = turnOf s sel f pre := rfl

/-- An instruction whose operation is done as f wherever p holds completes as f where each thread meets p. -/
theorem completes_of {i : Instr} {y : Bool} {op : State → Nat → TRes} {p : State → Nat → Prop} {f : State → Nat → State}
    (hex : ∀ s, exec i s = s.run i y op) (hwf : i.wf = true) (hp : i.parcels ≠ 0)
    (hm : ∀ (u : State) t, p u t → u.mayStand t i = true)
    (h : ∀ u t, State.insideClause (u.thr t) i.parcels = true → (u.thr t).lost = [] → p u t → op u t = .done (f u t) none) : CompletesAs i p f := by
  intro s sel ⟨hs, hl, hd, ht⟩
  obtain ⟨t, h1, h2⟩ := issue_done s sel i.parcels y
    (fun s t => if (i.wf && State.insideClause (s.thr t) i.parcels) = true then
      if (!s.mayStand t i) = true then illegal
      else if State.usesLost (s.thr t) (readsAP i ++ readsBits i) = true then .trap (trapOf .poison) else op s t
      else State.notHere (s.thr t))
    f hp hs hl hd (by
      intro pre k post he
      obtain ⟨h3, hl, h4⟩ := ht pre k post he
      rw [runOps_turnOf]
      have h5 : State.insideClause ((turnOf s sel f pre).thr (threadKey sel.ctx k)) i.parcels = true := h3
      have h6 : State.usesLost ((turnOf s sel f pre).thr (threadKey sel.ctx k)) (readsAP i ++ readsBits i) = false := usesLost_none _ _ hl
      have h7 : State.mayStand (turnOf s sel f pre) (threadKey sel.ctx k) i = true := hm _ _ h4
      simp only [hwf, h5, h6, h7, Bool.and_self, Bool.not_true, if_true, Bool.false_eq_true, if_false]
      exact h _ _ h3 hl h4)
  exact ⟨t, by rw [hex]; exact h1, h2⟩

end Sys2Proof.Machine
end

