-- ==== Sys2Proof/Laws/PerInstr.lean ====
section
/-! SUPPORT. A statement of every instruction as syntax: its word fits the parcels that it takes (R259). -/

set_option Elab.async false

namespace Sys2Proof.Laws.Fits

/-- The word of an instruction has no bit above its parcels. -/
def Statement (i : Instr) : Prop := encodeWord i < 2 ^ (16 * i.parcels)

theorem clause (w : BitVec 12) (a b n : BitVec 4) (y : BitVec 1) : Statement (.clause w a b n y) := by
  have h0 := w.isLt
  have h1 := a.isLt
  have h2 := b.isLt
  have h3 := n.isLt
  have h4 := y.isLt
  show 127 + w.toNat * 128 + a.toNat * 524288 + b.toNat * 8388608 + n.toNat * 134217728 + y.toNat * 2147483648 < 4294967296
  omega
theorem movC (d : BitVec 6) (s : BitVec 5) : Statement (.movC d s) := by
  have h0 := d.isLt
  have h1 := s.isLt
  show 0 + d.toNat * 32 + s.toNat * 2048 < 65536
  omega
theorem addC (d : BitVec 6) (s : BitVec 5) : Statement (.addC d s) := by
  have h0 := d.isLt
  have h1 := s.isLt
  show 2 + d.toNat * 32 + s.toNat * 2048 < 65536
  omega
theorem subC (d : BitVec 6) (s : BitVec 5) : Statement (.subC d s) := by
  have h0 := d.isLt
  have h1 := s.isLt
  show 4 + d.toNat * 32 + s.toNat * 2048 < 65536
  omega
theorem andC (d : BitVec 6) (s : BitVec 5) : Statement (.andC d s) := by
  have h0 := d.isLt
  have h1 := s.isLt
  show 6 + d.toNat * 32 + s.toNat * 2048 < 65536
  omega
theorem orC (d : BitVec 6) (s : BitVec 5) : Statement (.orC d s) := by
  have h0 := d.isLt
  have h1 := s.isLt
  show 8 + d.toNat * 32 + s.toNat * 2048 < 65536
  omega
theorem xorC (d : BitVec 6) (s : BitVec 5) : Statement (.xorC d s) := by
  have h0 := d.isLt
  have h1 := s.isLt
  show 10 + d.toNat * 32 + s.toNat * 2048 < 65536
  omega
theorem shlC (d : BitVec 6) (s : BitVec 5) : Statement (.shlC d s) := by
  have h0 := d.isLt
  have h1 := s.isLt
  show 12 + d.toNat * 32 + s.toNat * 2048 < 65536
  omega
theorem shrC (d : BitVec 6) (s : BitVec 5) : Statement (.shrC d s) := by
  have h0 := d.isLt
  have h1 := s.isLt
  show 14 + d.toNat * 32 + s.toNat * 2048 < 65536
  omega
theorem addiC (d : BitVec 6) (s : BitVec 5) : Statement (.addiC d s) := by
  have h0 := d.isLt
  have h1 := s.isLt
  show 16 + d.toNat * 32 + s.toNat * 2048 < 65536
  omega
theorem moviC (d : BitVec 6) (s : BitVec 5) : Statement (.moviC d s) := by
  have h0 := d.isLt
  have h1 := s.isLt
  show 18 + d.toNat * 32 + s.toNat * 2048 < 65536
  omega
theorem faddC (d : BitVec 6) (s : BitVec 5) : Statement (.faddC d s) := by
  have h0 := d.isLt
  have h1 := s.isLt
  show 20 + d.toNat * 32 + s.toNat * 2048 < 65536
  omega
theorem fmulC (d : BitVec 6) (s : BitVec 5) : Statement (.fmulC d s) := by
  have h0 := d.isLt
  have h1 := s.isLt
  show 22 + d.toNat * 32 + s.toNat * 2048 < 65536
  omega
theorem fmaxC (d : BitVec 6) (s : BitVec 5) : Statement (.fmaxC d s) := by
  have h0 := d.isLt
  have h1 := s.isLt
  show 24 + d.toNat * 32 + s.toNat * 2048 < 65536
  omega
theorem fsubC (d : BitVec 6) (s : BitVec 5) : Statement (.fsubC d s) := by
  have h0 := d.isLt
  have h1 := s.isLt
  show 26 + d.toNat * 32 + s.toNat * 2048 < 65536
  omega
theorem shriC (d : BitVec 6) (s : BitVec 5) : Statement (.shriC d s) := by
  have h0 := d.isLt
  have h1 := s.isLt
  show 28 + d.toNat * 32 + s.toNat * 2048 < 65536
  omega
theorem add (d a b : BitVec 6) : Statement (.add d a b) := by
  have h0 := d.isLt
  have h1 := a.isLt
  have h2 := b.isLt
  show 3 + d.toNat * 128 + a.toNat * 8192 + b.toNat * 524288 < 4294967296
  omega
theorem sub (d a b : BitVec 6) : Statement (.sub d a b) := by
  have h0 := d.isLt
  have h1 := a.isLt
  have h2 := b.isLt
  show 33554435 + d.toNat * 128 + a.toNat * 8192 + b.toNat * 524288 < 4294967296
  omega
theorem mul (d a b : BitVec 6) : Statement (.mul d a b) := by
  have h0 := d.isLt
  have h1 := a.isLt
  have h2 := b.isLt
  show 67108867 + d.toNat * 128 + a.toNat * 8192 + b.toNat * 524288 < 4294967296
  omega
theorem mulhI (d a b : BitVec 6) : Statement (.mulhI d a b) := by
  have h0 := d.isLt
  have h1 := a.isLt
  have h2 := b.isLt
  show 100663299 + d.toNat * 128 + a.toNat * 8192 + b.toNat * 524288 < 4294967296
  omega
theorem mulhN (d a b : BitVec 6) : Statement (.mulhN d a b) := by
  have h0 := d.isLt
  have h1 := a.isLt
  have h2 := b.isLt
  show 134217731 + d.toNat * 128 + a.toNat * 8192 + b.toNat * 524288 < 4294967296
  omega
theorem divI (d a b : BitVec 6) : Statement (.divI d a b) := by
  have h0 := d.isLt
  have h1 := a.isLt
  have h2 := b.isLt
  show 167772163 + d.toNat * 128 + a.toNat * 8192 + b.toNat * 524288 < 4294967296
  omega
theorem divN (d a b : BitVec 6) : Statement (.divN d a b) := by
  have h0 := d.isLt
  have h1 := a.isLt
  have h2 := b.isLt
  show 201326595 + d.toNat * 128 + a.toNat * 8192 + b.toNat * 524288 < 4294967296
  omega
theorem remI (d a b : BitVec 6) : Statement (.remI d a b) := by
  have h0 := d.isLt
  have h1 := a.isLt
  have h2 := b.isLt
  show 234881027 + d.toNat * 128 + a.toNat * 8192 + b.toNat * 524288 < 4294967296
  omega
theorem remN (d a b : BitVec 6) : Statement (.remN d a b) := by
  have h0 := d.isLt
  have h1 := a.isLt
  have h2 := b.isLt
  show 268435459 + d.toNat * 128 + a.toNat * 8192 + b.toNat * 524288 < 4294967296
  omega
theorem and (d a b : BitVec 6) : Statement (.and d a b) := by
  have h0 := d.isLt
  have h1 := a.isLt
  have h2 := b.isLt
  show 301989891 + d.toNat * 128 + a.toNat * 8192 + b.toNat * 524288 < 4294967296
  omega
theorem or (d a b : BitVec 6) : Statement (.or d a b) := by
  have h0 := d.isLt
  have h1 := a.isLt
  have h2 := b.isLt
  show 335544323 + d.toNat * 128 + a.toNat * 8192 + b.toNat * 524288 < 4294967296
  omega
theorem xor (d a b : BitVec 6) : Statement (.xor d a b) := by
  have h0 := d.isLt
  have h1 := a.isLt
  have h2 := b.isLt
  show 369098755 + d.toNat * 128 + a.toNat * 8192 + b.toNat * 524288 < 4294967296
  omega
theorem andn (d a b : BitVec 6) : Statement (.andn d a b) := by
  have h0 := d.isLt
  have h1 := a.isLt
  have h2 := b.isLt
  show 402653187 + d.toNat * 128 + a.toNat * 8192 + b.toNat * 524288 < 4294967296
  omega
theorem shl (d a b : BitVec 6) : Statement (.shl d a b) := by
  have h0 := d.isLt
  have h1 := a.isLt
  have h2 := b.isLt
  show 436207619 + d.toNat * 128 + a.toNat * 8192 + b.toNat * 524288 < 4294967296
  omega
theorem shr (d a b : BitVec 6) : Statement (.shr d a b) := by
  have h0 := d.isLt
  have h1 := a.isLt
  have h2 := b.isLt
  show 469762051 + d.toNat * 128 + a.toNat * 8192 + b.toNat * 524288 < 4294967296
  omega
theorem sar (d a b : BitVec 6) : Statement (.sar d a b) := by
  have h0 := d.isLt
  have h1 := a.isLt
  have h2 := b.isLt
  show 503316483 + d.toNat * 128 + a.toNat * 8192 + b.toNat * 524288 < 4294967296
  omega
theorem rot (d a b : BitVec 6) : Statement (.rot d a b) := by
  have h0 := d.isLt
  have h1 := a.isLt
  have h2 := b.isLt
  show 536870915 + d.toNat * 128 + a.toNat * 8192 + b.toNat * 524288 < 4294967296
  omega
theorem minI (d a b : BitVec 6) : Statement (.minI d a b) := by
  have h0 := d.isLt
  have h1 := a.isLt
  have h2 := b.isLt
  show 570425347 + d.toNat * 128 + a.toNat * 8192 + b.toNat * 524288 < 4294967296
  omega
theorem minN (d a b : BitVec 6) : Statement (.minN d a b) := by
  have h0 := d.isLt
  have h1 := a.isLt
  have h2 := b.isLt
  show 603979779 + d.toNat * 128 + a.toNat * 8192 + b.toNat * 524288 < 4294967296
  omega
theorem maxI (d a b : BitVec 6) : Statement (.maxI d a b) := by
  have h0 := d.isLt
  have h1 := a.isLt
  have h2 := b.isLt
  show 637534211 + d.toNat * 128 + a.toNat * 8192 + b.toNat * 524288 < 4294967296
  omega
theorem maxN (d a b : BitVec 6) : Statement (.maxN d a b) := by
  have h0 := d.isLt
  have h1 := a.isLt
  have h2 := b.isLt
  show 671088643 + d.toNat * 128 + a.toNat * 8192 + b.toNat * 524288 < 4294967296
  omega
theorem abs (d a : BitVec 6) : Statement (.abs d a) := by
  have h0 := d.isLt
  have h1 := a.isLt
  show 704643075 + d.toNat * 128 + a.toNat * 8192 < 4294967296
  omega
theorem neg (d a : BitVec 6) : Statement (.neg d a) := by
  have h0 := d.isLt
  have h1 := a.isLt
  show 738197507 + d.toNat * 128 + a.toNat * 8192 < 4294967296
  omega
theorem clz (d a : BitVec 6) : Statement (.clz d a) := by
  have h0 := d.isLt
  have h1 := a.isLt
  show 771751939 + d.toNat * 128 + a.toNat * 8192 < 4294967296
  omega
theorem popc (d a : BitVec 6) : Statement (.popc d a) := by
  have h0 := d.isLt
  have h1 := a.isLt
  show 805306371 + d.toNat * 128 + a.toNat * 8192 < 4294967296
  omega
theorem brev (d a : BitVec 6) : Statement (.brev d a) := by
  have h0 := d.isLt
  have h1 := a.isLt
  show 838860803 + d.toNat * 128 + a.toNat * 8192 < 4294967296
  omega
theorem mov (d a : BitVec 6) : Statement (.mov d a) := by
  have h0 := d.isLt
  have h1 := a.isLt
  show 872415235 + d.toNat * 128 + a.toNat * 8192 < 4294967296
  omega
theorem not (d a : BitVec 6) : Statement (.not d a) := by
  have h0 := d.isLt
  have h1 := a.isLt
  show 905969667 + d.toNat * 128 + a.toNat * 8192 < 4294967296
  omega
theorem addi (d a : BitVec 6) (i : BitVec 13) : Statement (.addi d a i) := by
  have h0 := d.isLt
  have h1 := a.isLt
  have h2 := i.isLt
  show 5 + d.toNat * 128 + a.toNat * 8192 + i.toNat * 524288 < 4294967296
  omega
theorem andi (d a : BitVec 6) (i : BitVec 13) : Statement (.andi d a i) := by
  have h0 := d.isLt
  have h1 := a.isLt
  have h2 := i.isLt
  show 7 + d.toNat * 128 + a.toNat * 8192 + i.toNat * 524288 < 4294967296
  omega
theorem ori (d a : BitVec 6) (i : BitVec 13) : Statement (.ori d a i) := by
  have h0 := d.isLt
  have h1 := a.isLt
  have h2 := i.isLt
  show 9 + d.toNat * 128 + a.toNat * 8192 + i.toNat * 524288 < 4294967296
  omega
theorem xori (d a : BitVec 6) (i : BitVec 13) : Statement (.xori d a i) := by
  have h0 := d.isLt
  have h1 := a.isLt
  have h2 := i.isLt
  show 11 + d.toNat * 128 + a.toNat * 8192 + i.toNat * 524288 < 4294967296
  omega
theorem shli (d a : BitVec 6) (n : BitVec 5) : Statement (.shli d a n) := by
  have h0 := d.isLt
  have h1 := a.isLt
  have h2 := n.isLt
  show 13 + d.toNat * 128 + a.toNat * 8192 + n.toNat * 524288 < 4294967296
  omega
theorem shri (d a : BitVec 6) (n : BitVec 5) : Statement (.shri d a n) := by
  have h0 := d.isLt
  have h1 := a.isLt
  have h2 := n.isLt
  show 1073741837 + d.toNat * 128 + a.toNat * 8192 + n.toNat * 524288 < 4294967296
  omega
theorem sari (d a : BitVec 6) (n : BitVec 5) : Statement (.sari d a n) := by
  have h0 := d.isLt
  have h1 := a.isLt
  have h2 := n.isLt
  show 2147483661 + d.toNat * 128 + a.toNat * 8192 + n.toNat * 524288 < 4294967296
  omega
theorem roti (d a : BitVec 6) (n : BitVec 5) : Statement (.roti d a n) := by
  have h0 := d.isLt
  have h1 := a.isLt
  have h2 := n.isLt
  show 3221225485 + d.toNat * 128 + a.toNat * 8192 + n.toNat * 524288 < 4294967296
  omega
theorem movh (d : BitVec 6) (i : BitVec 19) : Statement (.movh d i) := by
  have h0 := d.isLt
  have h1 := i.isLt
  show 15 + d.toNat * 128 + i.toNat * 8192 < 4294967296
  omega
theorem cmp (p : BitVec 3) (a b : BitVec 6) (y : BitVec 3) (c : BitVec 4) : Statement (.cmp p a b y c) := by
  have h0 := p.isLt
  have h1 := a.isLt
  have h2 := b.isLt
  have h3 := y.isLt
  have h4 := c.isLt
  show 17 + p.toNat * 128 + a.toNat * 8192 + b.toNat * 524288 + y.toNat * 33554432 + c.toNat * 268435456 < 4294967296
  omega
theorem cmpi (p c : BitVec 3) (a : BitVec 6) (i : BitVec 13) : Statement (.cmpi p c a i) := by
  have h0 := p.isLt
  have h1 := c.isLt
  have h2 := a.isLt
  have h3 := i.isLt
  show 19 + p.toNat * 128 + c.toNat * 1024 + a.toNat * 8192 + i.toNat * 524288 < 4294967296
  omega
theorem pand (d a b : BitVec 3) : Statement (.pand d a b) := by
  have h0 := d.isLt
  have h1 := a.isLt
  have h2 := b.isLt
  show 21 + d.toNat * 128 + a.toNat * 8192 + b.toNat * 524288 < 4294967296
  omega
theorem por (d a b : BitVec 3) : Statement (.por d a b) := by
  have h0 := d.isLt
  have h1 := a.isLt
  have h2 := b.isLt
  show 33554453 + d.toNat * 128 + a.toNat * 8192 + b.toNat * 524288 < 4294967296
  omega
theorem pxor (d a b : BitVec 3) : Statement (.pxor d a b) := by
  have h0 := d.isLt
  have h1 := a.isLt
  have h2 := b.isLt
  show 67108885 + d.toNat * 128 + a.toNat * 8192 + b.toNat * 524288 < 4294967296
  omega
theorem pandn (d a b : BitVec 3) : Statement (.pandn d a b) := by
  have h0 := d.isLt
  have h1 := a.isLt
  have h2 := b.isLt
  show 100663317 + d.toNat * 128 + a.toNat * 8192 + b.toNat * 524288 < 4294967296
  omega
theorem pnot (d a : BitVec 3) : Statement (.pnot d a) := by
  have h0 := d.isLt
  have h1 := a.isLt
  show 134217749 + d.toNat * 128 + a.toNat * 8192 < 4294967296
  omega
theorem pmovg (d : BitVec 3) (a : BitVec 6) : Statement (.pmovg d a) := by
  have h0 := d.isLt
  have h1 := a.isLt
  show 167772181 + d.toNat * 128 + a.toNat * 8192 < 4294967296
  omega
theorem pmovp (d : BitVec 6) (a : BitVec 3) : Statement (.pmovp d a) := by
  have h0 := d.isLt
  have h1 := a.isLt
  show 201326613 + d.toNat * 128 + a.toNat * 8192 < 4294967296
  omega
theorem sel (d a b : BitVec 6) (p : BitVec 3) : Statement (.sel d a b p) := by
  have h0 := d.isLt
  have h1 := a.isLt
  have h2 := b.isLt
  have h3 := p.isLt
  show 23 + d.toNat * 128 + a.toNat * 8192 + b.toNat * 524288 + p.toNat * 33554432 < 4294967296
  omega
theorem fadd (d a b : BitVec 6) : Statement (.fadd d a b) := by
  have h0 := d.isLt
  have h1 := a.isLt
  have h2 := b.isLt
  show 25 + d.toNat * 128 + a.toNat * 8192 + b.toNat * 524288 < 4294967296
  omega
theorem fsub (d a b : BitVec 6) : Statement (.fsub d a b) := by
  have h0 := d.isLt
  have h1 := a.isLt
  have h2 := b.isLt
  show 33554457 + d.toNat * 128 + a.toNat * 8192 + b.toNat * 524288 < 4294967296
  omega
theorem fmul (d a b : BitVec 6) : Statement (.fmul d a b) := by
  have h0 := d.isLt
  have h1 := a.isLt
  have h2 := b.isLt
  show 67108889 + d.toNat * 128 + a.toNat * 8192 + b.toNat * 524288 < 4294967296
  omega
theorem fdiv (d a b : BitVec 6) : Statement (.fdiv d a b) := by
  have h0 := d.isLt
  have h1 := a.isLt
  have h2 := b.isLt
  show 100663321 + d.toNat * 128 + a.toNat * 8192 + b.toNat * 524288 < 4294967296
  omega
theorem fmin (d a b : BitVec 6) : Statement (.fmin d a b) := by
  have h0 := d.isLt
  have h1 := a.isLt
  have h2 := b.isLt
  show 134217753 + d.toNat * 128 + a.toNat * 8192 + b.toNat * 524288 < 4294967296
  omega
theorem fmax (d a b : BitVec 6) : Statement (.fmax d a b) := by
  have h0 := d.isLt
  have h1 := a.isLt
  have h2 := b.isLt
  show 167772185 + d.toNat * 128 + a.toNat * 8192 + b.toNat * 524288 < 4294967296
  omega
theorem fabs (d a : BitVec 6) : Statement (.fabs d a) := by
  have h0 := d.isLt
  have h1 := a.isLt
  show 201326617 + d.toNat * 128 + a.toNat * 8192 < 4294967296
  omega
theorem fneg (d a : BitVec 6) : Statement (.fneg d a) := by
  have h0 := d.isLt
  have h1 := a.isLt
  show 234881049 + d.toNat * 128 + a.toNat * 8192 < 4294967296
  omega
theorem fcpsgn (d a b : BitVec 6) : Statement (.fcpsgn d a b) := by
  have h0 := d.isLt
  have h1 := a.isLt
  have h2 := b.isLt
  show 268435481 + d.toNat * 128 + a.toNat * 8192 + b.toNat * 524288 < 4294967296
  omega
theorem fsqrt (d a : BitVec 6) : Statement (.fsqrt d a) := by
  have h0 := d.isLt
  have h1 := a.isLt
  show 301989913 + d.toNat * 128 + a.toNat * 8192 < 4294967296
  omega
theorem frcp (d a : BitVec 6) : Statement (.frcp d a) := by
  have h0 := d.isLt
  have h1 := a.isLt
  show 335544345 + d.toNat * 128 + a.toNat * 8192 < 4294967296
  omega
theorem frsq (d a : BitVec 6) : Statement (.frsq d a) := by
  have h0 := d.isLt
  have h1 := a.isLt
  show 369098777 + d.toNat * 128 + a.toNat * 8192 < 4294967296
  omega
theorem ex2 (d a : BitVec 6) : Statement (.ex2 d a) := by
  have h0 := d.isLt
  have h1 := a.isLt
  show 402653209 + d.toNat * 128 + a.toNat * 8192 < 4294967296
  omega
theorem fma (d a b : BitVec 6) : Statement (.fma d a b) := by
  have h0 := d.isLt
  have h1 := a.isLt
  have h2 := b.isLt
  show 27 + d.toNat * 128 + a.toNat * 8192 + b.toNat * 524288 < 4294967296
  omega
theorem fms (d a b : BitVec 6) : Statement (.fms d a b) := by
  have h0 := d.isLt
  have h1 := a.isLt
  have h2 := b.isLt
  show 33554459 + d.toNat * 128 + a.toNat * 8192 + b.toNat * 524288 < 4294967296
  omega
theorem fnma (d a b : BitVec 6) : Statement (.fnma d a b) := by
  have h0 := d.isLt
  have h1 := a.isLt
  have h2 := b.isLt
  show 67108891 + d.toNat * 128 + a.toNat * 8192 + b.toNat * 524288 < 4294967296
  omega
theorem fnms (d a b : BitVec 6) : Statement (.fnms d a b) := by
  have h0 := d.isLt
  have h1 := a.isLt
  have h2 := b.isLt
  show 100663323 + d.toNat * 128 + a.toNat * 8192 + b.toNat * 524288 < 4294967296
  omega
theorem fcmp (p : BitVec 3) (a b : BitVec 6) (c : BitVec 7) : Statement (.fcmp p a b c) := by
  have h0 := p.isLt
  have h1 := a.isLt
  have h2 := b.isLt
  have h3 := c.isLt
  show 29 + p.toNat * 128 + a.toNat * 8192 + b.toNat * 524288 + c.toNat * 33554432 < 4294967296
  omega
theorem fcvtF32I32 (d a : BitVec 6) (r : BitVec 3) : Statement (.fcvtF32I32 d a r) := by
  have h0 := d.isLt
  have h1 := a.isLt
  have h2 := r.isLt
  show 31 + d.toNat * 128 + a.toNat * 8192 + r.toNat * 524288 < 4294967296
  omega
theorem fcvtF32N32 (d a : BitVec 6) (r : BitVec 3) : Statement (.fcvtF32N32 d a r) := by
  have h0 := d.isLt
  have h1 := a.isLt
  have h2 := r.isLt
  show 33554463 + d.toNat * 128 + a.toNat * 8192 + r.toNat * 524288 < 4294967296
  omega
theorem fcvtI32F32 (d a : BitVec 6) (r : BitVec 3) : Statement (.fcvtI32F32 d a r) := by
  have h0 := d.isLt
  have h1 := a.isLt
  have h2 := r.isLt
  show 67108895 + d.toNat * 128 + a.toNat * 8192 + r.toNat * 524288 < 4294967296
  omega
theorem fcvtN32F32 (d a : BitVec 6) (r : BitVec 3) : Statement (.fcvtN32F32 d a r) := by
  have h0 := d.isLt
  have h1 := a.isLt
  have h2 := r.isLt
  show 100663327 + d.toNat * 128 + a.toNat * 8192 + r.toNat * 524288 < 4294967296
  omega
theorem fcvtF32F16 (d a : BitVec 6) (r : BitVec 3) : Statement (.fcvtF32F16 d a r) := by
  have h0 := d.isLt
  have h1 := a.isLt
  have h2 := r.isLt
  show 134217759 + d.toNat * 128 + a.toNat * 8192 + r.toNat * 524288 < 4294967296
  omega
theorem fcvtF16F32 (d a : BitVec 6) (r : BitVec 3) : Statement (.fcvtF16F32 d a r) := by
  have h0 := d.isLt
  have h1 := a.isLt
  have h2 := r.isLt
  show 167772191 + d.toNat * 128 + a.toNat * 8192 + r.toNat * 524288 < 4294967296
  omega
theorem fcvtF32Bf16 (d a : BitVec 6) (r : BitVec 3) : Statement (.fcvtF32Bf16 d a r) := by
  have h0 := d.isLt
  have h1 := a.isLt
  have h2 := r.isLt
  show 201326623 + d.toNat * 128 + a.toNat * 8192 + r.toNat * 524288 < 4294967296
  omega
theorem fcvtBf16F32 (d a : BitVec 6) (r : BitVec 3) : Statement (.fcvtBf16F32 d a r) := by
  have h0 := d.isLt
  have h1 := a.isLt
  have h2 := r.isLt
  show 234881055 + d.toNat * 128 + a.toNat * 8192 + r.toNat * 524288 < 4294967296
  omega
theorem frnd (d a : BitVec 6) (r : BitVec 3) : Statement (.frnd d a r) := by
  have h0 := d.isLt
  have h1 := a.isLt
  have h2 := r.isLt
  show 268435487 + d.toNat * 128 + a.toNat * 8192 + r.toNat * 524288 < 4294967296
  omega
theorem aadd (d a : BitVec 4) (b : BitVec 6) (s : BitVec 3) : Statement (.aadd d a b s) := by
  have h0 := d.isLt
  have h1 := a.isLt
  have h2 := b.isLt
  have h3 := s.isLt
  show 33 + d.toNat * 128 + a.toNat * 8192 + b.toNat * 524288 + s.toNat * 33554432 < 4294967296
  omega
theorem amov (d : BitVec 4) (s : BitVec 6) : Statement (.amov d s) := by
  have h0 := d.isLt
  have h1 := s.isLt
  show 268435489 + d.toNat * 128 + s.toNat * 8192 < 4294967296
  omega
theorem asplit (d : BitVec 6) (a : BitVec 4) : Statement (.asplit d a) := by
  have h0 := d.isLt
  have h1 := a.isLt
  show 536870945 + d.toNat * 128 + a.toNat * 8192 < 4294967296
  omega
theorem acmp (d : BitVec 3) (a b : BitVec 4) (c : BitVec 3) : Statement (.acmp d a b c) := by
  have h0 := d.isLt
  have h1 := a.isLt
  have h2 := b.isLt
  have h3 := c.isLt
  show 805306401 + d.toNat * 128 + a.toNat * 8192 + b.toNat * 524288 + c.toNat * 33554432 < 4294967296
  omega
theorem amova (d a : BitVec 4) : Statement (.amova d a) := by
  have h0 := d.isLt
  have h1 := a.isLt
  show 1073741857 + d.toNat * 128 + a.toNat * 8192 < 4294967296
  omega
theorem aaddi (d a : BitVec 4) (i : BitVec 13) : Statement (.aaddi d a i) := by
  have h0 := d.isLt
  have h1 := a.isLt
  have h2 := i.isLt
  show 35 + d.toNat * 128 + a.toNat * 8192 + i.toNat * 524288 < 4294967296
  omega
theorem afrom (d : BitVec 4) (i : BitVec 19) : Statement (.afrom d i) := by
  have h0 := d.isLt
  have h1 := i.isLt
  show 37 + d.toNat * 128 + i.toNat * 8192 < 4294967296
  omega
theorem br (p : BitVec 3) (n : BitVec 1) (o : BitVec 21) : Statement (.br p n o) := by
  have h0 := p.isLt
  have h1 := n.isLt
  have h2 := o.isLt
  show 39 + p.toNat * 128 + n.toNat * 1024 + o.toNat * 2048 < 4294967296
  omega
theorem call (p : BitVec 3) (n : BitVec 1) (o : BitVec 21) : Statement (.call p n o) := by
  have h0 := p.isLt
  have h1 := n.isLt
  have h2 := o.isLt
  show 41 + p.toNat * 128 + n.toNat * 1024 + o.toNat * 2048 < 4294967296
  omega
theorem jmp (a : BitVec 4) : Statement (.jmp a) := by
  have h0 := a.isLt
  show 43 + a.toNat * 8192 < 4294967296
  omega
theorem jcall (d a : BitVec 4) : Statement (.jcall d a) := by
  have h0 := d.isLt
  have h1 := a.isLt
  show 33554475 + d.toNat * 128 + a.toNat * 8192 < 4294967296
  omega
theorem ret (a : BitVec 4) : Statement (.ret a) := by
  have h0 := a.isLt
  show 67108907 + a.toNat * 8192 < 4294967296
  omega
theorem trap (c : BitVec 12) : Statement (.trap c) := by
  have h0 := c.isLt
  show 134217773 + c.toNat * 8192 < 4294967296
  omega
theorem spawn (d : BitVec 6) (a : BitVec 4) (b : BitVec 6) : Statement (.spawn d a b) := by
  have h0 := d.isLt
  have h1 := a.isLt
  have h2 := b.isLt
  show 47 + d.toNat * 128 + a.toNat * 8192 + b.toNat * 524288 < 4294967296
  omega
theorem ld (t : BitVec 6) (a : BitVec 4) (l : BitVec 2) (y : BitVec 3) (f : BitVec 1) (o : BitVec 9) : Statement (.ld t a l y f o) := by
  have h0 := t.isLt
  have h1 := a.isLt
  have h2 := l.isLt
  have h3 := y.isLt
  have h4 := f.isLt
  have h5 := o.isLt
  show 49 + t.toNat * 128 + a.toNat * 8192 + l.toNat * 131072 + y.toNat * 524288 + f.toNat * 4194304 + o.toNat * 8388608 < 4294967296
  omega
theorem st (t : BitVec 6) (a : BitVec 4) (l : BitVec 2) (y : BitVec 3) (f : BitVec 1) (o : BitVec 9) : Statement (.st t a l y f o) := by
  have h0 := t.isLt
  have h1 := a.isLt
  have h2 := l.isLt
  have h3 := y.isLt
  have h4 := f.isLt
  have h5 := o.isLt
  show 51 + t.toNat * 128 + a.toNat * 8192 + l.toNat * 131072 + y.toNat * 524288 + f.toNat * 4194304 + o.toNat * 8388608 < 4294967296
  omega
theorem wld (t a : BitVec 4) (l : BitVec 2) (o : BitVec 6) (f : BitVec 1) (g : BitVec 6) : Statement (.wld t a l o f g) := by
  have h0 := t.isLt
  have h1 := a.isLt
  have h2 := l.isLt
  have h3 := o.isLt
  have h4 := f.isLt
  have h5 := g.isLt
  show 53 + t.toNat * 128 + a.toNat * 8192 + l.toNat * 131072 + o.toNat * 524288 + f.toNat * 33554432 + g.toNat * 67108864 < 4294967296
  omega
theorem wst (t a : BitVec 4) (l : BitVec 2) (o : BitVec 6) (f : BitVec 1) (g : BitVec 6) : Statement (.wst t a l o f g) := by
  have h0 := t.isLt
  have h1 := a.isLt
  have h2 := l.isLt
  have h3 := o.isLt
  have h4 := f.isLt
  have h5 := g.isLt
  show 55 + t.toNat * 128 + a.toNat * 8192 + l.toNat * 131072 + o.toNat * 524288 + f.toNat * 33554432 + g.toNat * 67108864 < 4294967296
  omega
theorem gather (d a b : BitVec 4) (f : BitVec 1) (l : BitVec 2) (y : BitVec 1) : Statement (.gather d a b f l y) := by
  have h0 := d.isLt
  have h1 := a.isLt
  have h2 := b.isLt
  have h3 := f.isLt
  have h4 := l.isLt
  have h5 := y.isLt
  show 57 + d.toNat * 128 + a.toNat * 8192 + b.toNat * 524288 + f.toNat * 33554432 + l.toNat * 67108864 + y.toNat * 268435456 < 4294967296
  omega
theorem scatter (d a b : BitVec 4) (f : BitVec 1) (l : BitVec 2) (y : BitVec 1) : Statement (.scatter d a b f l y) := by
  have h0 := d.isLt
  have h1 := a.isLt
  have h2 := b.isLt
  have h3 := f.isLt
  have h4 := l.isLt
  have h5 := y.isLt
  show 59 + d.toNat * 128 + a.toNat * 8192 + b.toNat * 524288 + f.toNat * 33554432 + l.toNat * 67108864 + y.toNat * 268435456 < 4294967296
  omega
theorem pref (a : BitVec 4) (l : BitVec 2) (o : BitVec 9) : Statement (.pref a l o) := by
  have h0 := a.isLt
  have h1 := l.isLt
  have h2 := o.isLt
  show 61 + a.toNat * 8192 + l.toNat * 131072 + o.toNat * 8388608 < 4294967296
  omega
theorem atomAdd (d : BitVec 6) (a : BitVec 4) (b : BitVec 6) (f : BitVec 1) (l : BitVec 2) : Statement (.atomAdd d a b f l) := by
  have h0 := d.isLt
  have h1 := a.isLt
  have h2 := b.isLt
  have h3 := f.isLt
  have h4 := l.isLt
  show 63 + d.toNat * 128 + a.toNat * 8192 + b.toNat * 524288 + f.toNat * 33554432 + l.toNat * 67108864 < 4294967296
  omega
theorem atomMinI (d : BitVec 6) (a : BitVec 4) (b : BitVec 6) (f : BitVec 1) (l : BitVec 2) : Statement (.atomMinI d a b f l) := by
  have h0 := d.isLt
  have h1 := a.isLt
  have h2 := b.isLt
  have h3 := f.isLt
  have h4 := l.isLt
  show 268435519 + d.toNat * 128 + a.toNat * 8192 + b.toNat * 524288 + f.toNat * 33554432 + l.toNat * 67108864 < 4294967296
  omega
theorem atomMinN (d : BitVec 6) (a : BitVec 4) (b : BitVec 6) (f : BitVec 1) (l : BitVec 2) : Statement (.atomMinN d a b f l) := by
  have h0 := d.isLt
  have h1 := a.isLt
  have h2 := b.isLt
  have h3 := f.isLt
  have h4 := l.isLt
  show 536870975 + d.toNat * 128 + a.toNat * 8192 + b.toNat * 524288 + f.toNat * 33554432 + l.toNat * 67108864 < 4294967296
  omega
theorem atomMaxI (d : BitVec 6) (a : BitVec 4) (b : BitVec 6) (f : BitVec 1) (l : BitVec 2) : Statement (.atomMaxI d a b f l) := by
  have h0 := d.isLt
  have h1 := a.isLt
  have h2 := b.isLt
  have h3 := f.isLt
  have h4 := l.isLt
  show 805306431 + d.toNat * 128 + a.toNat * 8192 + b.toNat * 524288 + f.toNat * 33554432 + l.toNat * 67108864 < 4294967296
  omega
theorem atomMaxN (d : BitVec 6) (a : BitVec 4) (b : BitVec 6) (f : BitVec 1) (l : BitVec 2) : Statement (.atomMaxN d a b f l) := by
  have h0 := d.isLt
  have h1 := a.isLt
  have h2 := b.isLt
  have h3 := f.isLt
  have h4 := l.isLt
  show 1073741887 + d.toNat * 128 + a.toNat * 8192 + b.toNat * 524288 + f.toNat * 33554432 + l.toNat * 67108864 < 4294967296
  omega
theorem atomAnd (d : BitVec 6) (a : BitVec 4) (b : BitVec 6) (f : BitVec 1) (l : BitVec 2) : Statement (.atomAnd d a b f l) := by
  have h0 := d.isLt
  have h1 := a.isLt
  have h2 := b.isLt
  have h3 := f.isLt
  have h4 := l.isLt
  show 1342177343 + d.toNat * 128 + a.toNat * 8192 + b.toNat * 524288 + f.toNat * 33554432 + l.toNat * 67108864 < 4294967296
  omega
theorem atomOr (d : BitVec 6) (a : BitVec 4) (b : BitVec 6) (f : BitVec 1) (l : BitVec 2) : Statement (.atomOr d a b f l) := by
  have h0 := d.isLt
  have h1 := a.isLt
  have h2 := b.isLt
  have h3 := f.isLt
  have h4 := l.isLt
  show 1610612799 + d.toNat * 128 + a.toNat * 8192 + b.toNat * 524288 + f.toNat * 33554432 + l.toNat * 67108864 < 4294967296
  omega
theorem atomXor (d : BitVec 6) (a : BitVec 4) (b : BitVec 6) (f : BitVec 1) (l : BitVec 2) : Statement (.atomXor d a b f l) := by
  have h0 := d.isLt
  have h1 := a.isLt
  have h2 := b.isLt
  have h3 := f.isLt
  have h4 := l.isLt
  show 1879048255 + d.toNat * 128 + a.toNat * 8192 + b.toNat * 524288 + f.toNat * 33554432 + l.toNat * 67108864 < 4294967296
  omega
theorem atomXchg (d : BitVec 6) (a : BitVec 4) (b : BitVec 6) (f : BitVec 1) (l : BitVec 2) : Statement (.atomXchg d a b f l) := by
  have h0 := d.isLt
  have h1 := a.isLt
  have h2 := b.isLt
  have h3 := f.isLt
  have h4 := l.isLt
  show 2147483711 + d.toNat * 128 + a.toNat * 8192 + b.toNat * 524288 + f.toNat * 33554432 + l.toNat * 67108864 < 4294967296
  omega
theorem atomFadd (d : BitVec 6) (a : BitVec 4) (b : BitVec 6) (f : BitVec 1) (l : BitVec 2) : Statement (.atomFadd d a b f l) := by
  have h0 := d.isLt
  have h1 := a.isLt
  have h2 := b.isLt
  have h3 := f.isLt
  have h4 := l.isLt
  show 2415919167 + d.toNat * 128 + a.toNat * 8192 + b.toNat * 524288 + f.toNat * 33554432 + l.toNat * 67108864 < 4294967296
  omega
theorem atomBump (d : BitVec 6) (a : BitVec 4) (b : BitVec 6) (f : BitVec 1) (l : BitVec 2) : Statement (.atomBump d a b f l) := by
  have h0 := d.isLt
  have h1 := a.isLt
  have h2 := b.isLt
  have h3 := f.isLt
  have h4 := l.isLt
  show 2684354623 + d.toNat * 128 + a.toNat * 8192 + b.toNat * 524288 + f.toNat * 33554432 + l.toNat * 67108864 < 4294967296
  omega
theorem acas (d : BitVec 6) (a : BitVec 4) (b : BitVec 6) (f : BitVec 1) (l : BitVec 2) : Statement (.acas d a b f l) := by
  have h0 := d.isLt
  have h1 := a.isLt
  have h2 := b.isLt
  have h3 := f.isLt
  have h4 := l.isLt
  show 65 + d.toNat * 128 + a.toNat * 8192 + b.toNat * 524288 + f.toNat * 33554432 + l.toNat * 67108864 < 4294967296
  omega
theorem fence (p u : BitVec 5) (s : BitVec 3) : Statement (.fence p u s) := by
  have h0 := p.isLt
  have h1 := u.isLt
  have h2 := s.isLt
  show 67 + p.toNat * 524288 + u.toNat * 16777216 + s.toNat * 536870912 < 4294967296
  omega
theorem barArrive (d b : BitVec 6) : Statement (.barArrive d b) := by
  have h0 := d.isLt
  have h1 := b.isLt
  show 69 + d.toNat * 128 + b.toNat * 524288 < 4294967296
  omega
theorem barWait (a b : BitVec 6) : Statement (.barWait a b) := by
  have h0 := a.isLt
  have h1 := b.isLt
  show 268435525 + a.toNat * 8192 + b.toNat * 524288 < 4294967296
  omega
theorem barSync (b : BitVec 6) : Statement (.barSync b) := by
  have h0 := b.isLt
  show 536870981 + b.toNat * 524288 < 4294967296
  omega
theorem barInit (a b : BitVec 6) (l : BitVec 3) : Statement (.barInit a b l) := by
  have h0 := a.isLt
  have h1 := b.isLt
  have h2 := l.isLt
  show 805306437 + a.toNat * 8192 + b.toNat * 524288 + l.toNat * 33554432 < 4294967296
  omega
theorem barTest (d b : BitVec 6) (p : BitVec 3) : Statement (.barTest d b p) := by
  have h0 := d.isLt
  have h1 := b.isLt
  have h2 := p.isLt
  show 1073741893 + d.toNat * 128 + b.toNat * 524288 + p.toNat * 33554432 < 4294967296
  omega
theorem barDrop (b : BitVec 6) : Statement (.barDrop b) := by
  have h0 := b.isLt
  show 1342177349 + b.toNat * 524288 < 4294967296
  omega
theorem twaitany (a : BitVec 4) : Statement (.twaitany a) := by
  have h0 := a.isLt
  show 71 + a.toNat * 8192 < 4294967296
  omega
theorem twaitall (a : BitVec 4) : Statement (.twaitall a) := by
  have h0 := a.isLt
  show 33554503 + a.toNat * 8192 < 4294967296
  omega
theorem tfirst (d : BitVec 6) (a : BitVec 4) : Statement (.tfirst d a) := by
  have h0 := d.isLt
  have h1 := a.isLt
  show 67108935 + d.toNat * 128 + a.toNat * 8192 < 4294967296
  omega
theorem tclr (a : BitVec 4) : Statement (.tclr a) := by
  have h0 := a.isLt
  show 100663367 + a.toNat * 8192 < 4294967296
  omega
theorem tset (a : BitVec 4) : Statement (.tset a) := by
  have h0 := a.isLt
  show 134217799 + a.toNat * 8192 < 4294967296
  omega
theorem ttest (d : BitVec 3) (a : BitVec 4) : Statement (.ttest d a) := by
  have h0 := d.isLt
  have h1 := a.isLt
  show 167772231 + d.toNat * 128 + a.toNat * 8192 < 4294967296
  omega
theorem qbind (q : BitVec 2) (a : BitVec 4) (b : BitVec 1) : Statement (.qbind q a b) := by
  have h0 := q.isLt
  have h1 := a.isLt
  have h2 := b.isLt
  show 7753 + q.toNat * 128 + a.toNat * 8192 + b.toNat * 524288 < 4294967296
  omega
theorem qstat (d : BitVec 6) (q : BitVec 2) : Statement (.qstat d q) := by
  have h0 := d.isLt
  have h1 := q.isLt
  show 34046025 + d.toNat * 128 + q.toNat * 8192 < 4294967296
  omega
theorem qclose (q : BitVec 2) : Statement (.qclose q) := by
  have h0 := q.isLt
  show 67600457 + q.toNat * 8192 < 4294967296
  omega
theorem qtry (d : BitVec 6) (q : BitVec 2) (b : BitVec 6) : Statement (.qtry d q b) := by
  have h0 := d.isLt
  have h1 := q.isLt
  have h2 := b.isLt
  show 101154889 + d.toNat * 128 + q.toNat * 8192 + b.toNat * 524288 < 4294967296
  omega
theorem hpush (a : BitVec 6) (b : BitVec 4) (f : BitVec 1) : Statement (.hpush a b f) := by
  have h0 := a.isLt
  have h1 := b.isLt
  have h2 := f.isLt
  show 75 + a.toNat * 8192 + b.toNat * 524288 + f.toNat * 33554432 < 4294967296
  omega
theorem hpop (d : BitVec 6) (b : BitVec 4) (f : BitVec 1) : Statement (.hpop d b f) := by
  have h0 := d.isLt
  have h1 := b.isLt
  have h2 := f.isLt
  show 268435531 + d.toNat * 128 + b.toNat * 524288 + f.toNat * 33554432 < 4294967296
  omega
theorem htry (d : BitVec 6) (b : BitVec 4) (f : BitVec 1) : Statement (.htry d b f) := by
  have h0 := d.isLt
  have h1 := b.isLt
  have h2 := f.isLt
  show 536870987 + d.toNat * 128 + b.toNat * 524288 + f.toNat * 33554432 < 4294967296
  omega
theorem movs (d : BitVec 6) (n : BitVec 10) : Statement (.movs d n) := by
  have h0 := d.isLt
  have h1 := n.isLt
  show 77 + d.toNat * 128 + n.toNat * 524288 < 4294967296
  omega
theorem movsw (a : BitVec 6) (n : BitVec 10) : Statement (.movsw a n) := by
  have h0 := a.isLt
  have h1 := n.isLt
  show 79 + a.toNat * 8192 + n.toNat * 524288 < 4294967296
  omega
theorem mkh (d : BitVec 4) (a : BitVec 6) (f : BitVec 1) : Statement (.mkh d a f) := by
  have h0 := d.isLt
  have h1 := a.isLt
  have h2 := f.isLt
  show 81 + d.toNat * 128 + a.toNat * 8192 + f.toNat * 33554432 < 4294967296
  omega
theorem arm (d : BitVec 6) (k : BitVec 1) (b : BitVec 6) : Statement (.arm d k b) := by
  have h0 := d.isLt
  have h1 := k.isLt
  have h2 := b.isLt
  show 67108945 + d.toNat * 128 + k.toNat * 8192 + b.toNat * 524288 < 4294967296
  omega
theorem rpost (d : BitVec 6) (a : BitVec 4) (b : BitVec 6) (f : BitVec 1) (o : BitVec 2) : Statement (.rpost d a b f o) := by
  have h0 := d.isLt
  have h1 := a.isLt
  have h2 := b.isLt
  have h3 := f.isLt
  have h4 := o.isLt
  show 134217809 + d.toNat * 128 + a.toNat * 8192 + b.toNat * 524288 + f.toNat * 33554432 + o.toNat * 536870912 < 4294967296
  omega
theorem rpostw (d : BitVec 6) (a b : BitVec 4) (f : BitVec 1) (o : BitVec 2) : Statement (.rpostw d a b f o) := by
  have h0 := d.isLt
  have h1 := a.isLt
  have h2 := b.isLt
  have h3 := f.isLt
  have h4 := o.isLt
  show 201326673 + d.toNat * 128 + a.toNat * 8192 + b.toNat * 524288 + f.toNat * 33554432 + o.toNat * 536870912 < 4294967296
  omega
theorem full (d : BitVec 3) (a : BitVec 6) (k : BitVec 1) : Statement (.full d a k) := by
  have h0 := d.isLt
  have h1 := a.isLt
  have h2 := k.isLt
  show 268435537 + d.toNat * 128 + a.toNat * 8192 + k.toNat * 524288 < 4294967296
  omega
theorem revoke (a : BitVec 4) (f : BitVec 1) (o : BitVec 2) : Statement (.revoke a f o) := by
  have h0 := a.isLt
  have h1 := f.isLt
  have h2 := o.isLt
  show 335544401 + a.toNat * 8192 + f.toNat * 33554432 + o.toNat * 536870912 < 4294967296
  omega
theorem stream (a : BitVec 4) (b : BitVec 6) (f : BitVec 1) (o : BitVec 2) : Statement (.stream a b f o) := by
  have h0 := a.isLt
  have h1 := b.isLt
  have h2 := f.isLt
  have h3 := o.isLt
  show 83 + a.toNat * 8192 + b.toNat * 524288 + f.toNat * 33554432 + o.toNat * 536870912 < 4294967296
  omega
theorem streamg (a : BitVec 4) (b : BitVec 6) (f : BitVec 1) (o : BitVec 2) : Statement (.streamg a b f o) := by
  have h0 := a.isLt
  have h1 := b.isLt
  have h2 := f.isLt
  have h3 := o.isLt
  show 67108947 + a.toNat * 8192 + b.toNat * 524288 + f.toNat * 33554432 + o.toNat * 536870912 < 4294967296
  omega
theorem scopy (a : BitVec 4) (b : BitVec 6) (f : BitVec 1) (o : BitVec 2) : Statement (.scopy a b f o) := by
  have h0 := a.isLt
  have h1 := b.isLt
  have h2 := f.isLt
  have h3 := o.isLt
  show 134217811 + a.toNat * 8192 + b.toNat * 524288 + f.toNat * 33554432 + o.toNat * 536870912 < 4294967296
  omega
theorem binscat (a : BitVec 4) (b : BitVec 6) (f : BitVec 1) (o : BitVec 2) : Statement (.binscat a b f o) := by
  have h0 := a.isLt
  have h1 := b.isLt
  have h2 := f.isLt
  have h3 := o.isLt
  show 201326675 + a.toNat * 8192 + b.toNat * 524288 + f.toNat * 33554432 + o.toNat * 536870912 < 4294967296
  omega
theorem sfill (a : BitVec 4) (b : BitVec 6) (f : BitVec 1) (o : BitVec 2) : Statement (.sfill a b f o) := by
  have h0 := a.isLt
  have h1 := b.isLt
  have h2 := f.isLt
  have h3 := o.isLt
  show 268435539 + a.toNat * 8192 + b.toNat * 524288 + f.toNat * 33554432 + o.toNat * 536870912 < 4294967296
  omega
theorem mma (d : BitVec 3) (a : BitVec 4) (b : BitVec 6) (f : BitVec 1) (o : BitVec 2) : Statement (.mma d a b f o) := by
  have h0 := d.isLt
  have h1 := a.isLt
  have h2 := b.isLt
  have h3 := f.isLt
  have h4 := o.isLt
  show 85 + d.toNat * 128 + a.toNat * 8192 + b.toNat * 524288 + f.toNat * 33554432 + o.toNat * 536870912 < 4294967296
  omega
theorem mmas (d : BitVec 3) (a : BitVec 4) (b : BitVec 6) (f : BitVec 1) (o : BitVec 2) : Statement (.mmas d a b f o) := by
  have h0 := d.isLt
  have h1 := a.isLt
  have h2 := b.isLt
  have h3 := f.isLt
  have h4 := o.isLt
  show 67108949 + d.toNat * 128 + a.toNat * 8192 + b.toNat * 524288 + f.toNat * 33554432 + o.toNat * 536870912 < 4294967296
  omega
theorem xzero (d : BitVec 3) : Statement (.xzero d) := by
  have h0 := d.isLt
  show 134217813 + d.toNat * 128 < 4294967296
  omega
theorem xld (d : BitVec 3) (a : BitVec 4) (b : BitVec 6) (f : BitVec 1) (o : BitVec 2) : Statement (.xld d a b f o) := by
  have h0 := d.isLt
  have h1 := a.isLt
  have h2 := b.isLt
  have h3 := f.isLt
  have h4 := o.isLt
  show 201326677 + d.toNat * 128 + a.toNat * 8192 + b.toNat * 524288 + f.toNat * 33554432 + o.toNat * 536870912 < 4294967296
  omega
theorem xst (d : BitVec 3) (a : BitVec 4) (b : BitVec 6) (f : BitVec 1) (o : BitVec 2) : Statement (.xst d a b f o) := by
  have h0 := d.isLt
  have h1 := a.isLt
  have h2 := b.isLt
  have h3 := f.isLt
  have h4 := o.isLt
  show 268435541 + d.toNat * 128 + a.toNat * 8192 + b.toNat * 524288 + f.toNat * 33554432 + o.toNat * 536870912 < 4294967296
  omega
theorem xdrain (d : BitVec 3) (a : BitVec 4) (b : BitVec 6) (f : BitVec 1) (o : BitVec 2) : Statement (.xdrain d a b f o) := by
  have h0 := d.isLt
  have h1 := a.isLt
  have h2 := b.isLt
  have h3 := f.isLt
  have h4 := o.isLt
  show 335544405 + d.toNat * 128 + a.toNat * 8192 + b.toNat * 524288 + f.toNat * 33554432 + o.toNat * 536870912 < 4294967296
  omega
theorem xguard (d : BitVec 6) (a : BitVec 3) (c : BitVec 1) : Statement (.xguard d a c) := by
  have h0 := d.isLt
  have h1 := a.isLt
  have h2 := c.isLt
  show 402653269 + d.toNat * 128 + a.toNat * 8192 + c.toNat * 524288 < 4294967296
  omega
theorem xtag (d : BitVec 6) (a : BitVec 3) : Statement (.xtag d a) := by
  have h0 := d.isLt
  have h1 := a.isLt
  show 469762133 + d.toNat * 128 + a.toNat * 8192 < 4294967296
  omega
theorem bind (d : BitVec 6) (a : BitVec 4) (f : BitVec 1) (o : BitVec 2) : Statement (.bind d a f o) := by
  have h0 := d.isLt
  have h1 := a.isLt
  have h2 := f.isLt
  have h3 := o.isLt
  show 87 + d.toNat * 128 + a.toNat * 8192 + f.toNat * 33554432 + o.toNat * 536870912 < 4294967296
  omega
theorem unbind (b : BitVec 6) (f : BitVec 1) (o : BitVec 2) : Statement (.unbind b f o) := by
  have h0 := b.isLt
  have h1 := f.isLt
  have h2 := o.isLt
  show 67108951 + b.toNat * 524288 + f.toNat * 33554432 + o.toNat * 536870912 < 4294967296
  omega
theorem settle (d b : BitVec 6) (f : BitVec 1) (o : BitVec 2) : Statement (.settle d b f o) := by
  have h0 := d.isLt
  have h1 := b.isLt
  have h2 := f.isLt
  have h3 := o.isLt
  show 134217815 + d.toNat * 128 + b.toNat * 524288 + f.toNat * 33554432 + o.toNat * 536870912 < 4294967296
  omega
theorem stale (d b : BitVec 6) (f : BitVec 1) : Statement (.stale d b f) := by
  have h0 := d.isLt
  have h1 := b.isLt
  have h2 := f.isLt
  show 201326679 + d.toNat * 128 + b.toNat * 524288 + f.toNat * 33554432 < 4294967296
  omega
theorem recomp (d b : BitVec 6) (f : BitVec 1) (o : BitVec 2) : Statement (.recomp d b f o) := by
  have h0 := d.isLt
  have h1 := b.isLt
  have h2 := f.isLt
  have h3 := o.isLt
  show 268435543 + d.toNat * 128 + b.toNat * 524288 + f.toNat * 33554432 + o.toNat * 536870912 < 4294967296
  omega
theorem bstat (d b : BitVec 6) (f : BitVec 1) : Statement (.bstat d b f) := by
  have h0 := d.isLt
  have h1 := b.isLt
  have h2 := f.isLt
  show 335544407 + d.toNat * 128 + b.toNat * 524288 + f.toNat * 33554432 < 4294967296
  omega
theorem pxfind (d : BitVec 6) (a : BitVec 4) (f : BitVec 1) (o : BitVec 2) : Statement (.pxfind d a f o) := by
  have h0 := d.isLt
  have h1 := a.isLt
  have h2 := f.isLt
  have h3 := o.isLt
  show 89 + d.toNat * 128 + a.toNat * 8192 + f.toNat * 33554432 + o.toNat * 536870912 < 4294967296
  omega
theorem pxins (d : BitVec 6) (a : BitVec 4) (b : BitVec 6) (f : BitVec 1) (o : BitVec 2) : Statement (.pxins d a b f o) := by
  have h0 := d.isLt
  have h1 := a.isLt
  have h2 := b.isLt
  have h3 := f.isLt
  have h4 := o.isLt
  show 67108953 + d.toNat * 128 + a.toNat * 8192 + b.toNat * 524288 + f.toNat * 33554432 + o.toNat * 536870912 < 4294967296
  omega
theorem pxref (d : BitVec 6) (a : BitVec 4) (b : BitVec 6) (f : BitVec 1) (o : BitVec 2) : Statement (.pxref d a b f o) := by
  have h0 := d.isLt
  have h1 := a.isLt
  have h2 := b.isLt
  have h3 := f.isLt
  have h4 := o.isLt
  show 134217817 + d.toNat * 128 + a.toNat * 8192 + b.toNat * 524288 + f.toNat * 33554432 + o.toNat * 536870912 < 4294967296
  omega
theorem pxunref (d b : BitVec 6) (f : BitVec 1) (o : BitVec 2) : Statement (.pxunref d b f o) := by
  have h0 := d.isLt
  have h1 := b.isLt
  have h2 := f.isLt
  have h3 := o.isLt
  show 201326681 + d.toNat * 128 + b.toNat * 524288 + f.toNat * 33554432 + o.toNat * 536870912 < 4294967296
  omega
theorem kvapp (d b : BitVec 6) (f : BitVec 1) (o : BitVec 2) : Statement (.kvapp d b f o) := by
  have h0 := d.isLt
  have h1 := b.isLt
  have h2 := f.isLt
  have h3 := o.isLt
  show 268435545 + d.toNat * 128 + b.toNat * 524288 + f.toNat * 33554432 + o.toNat * 536870912 < 4294967296
  omega
theorem kvtrim (d b : BitVec 6) (f : BitVec 1) (o : BitVec 2) : Statement (.kvtrim d b f o) := by
  have h0 := d.isLt
  have h1 := b.isLt
  have h2 := f.isLt
  have h3 := o.isLt
  show 335544409 + d.toNat * 128 + b.toNat * 524288 + f.toNat * 33554432 + o.toNat * 536870912 < 4294967296
  omega
theorem kvxlat (d : BitVec 4) (b : BitVec 6) (f : BitVec 1) : Statement (.kvxlat d b f) := by
  have h0 := d.isLt
  have h1 := b.isLt
  have h2 := f.isLt
  show 402653273 + d.toNat * 128 + b.toNat * 524288 + f.toNat * 33554432 < 4294967296
  omega
theorem attn (d : BitVec 6) (a : BitVec 4) (f : BitVec 1) (o : BitVec 2) : Statement (.attn d a f o) := by
  have h0 := d.isLt
  have h1 := a.isLt
  have h2 := f.isLt
  have h3 := o.isLt
  show 469762137 + d.toNat * 128 + a.toNat * 8192 + f.toNat * 33554432 + o.toNat * 536870912 < 4294967296
  omega
theorem wadd (d a b : BitVec 4) : Statement (.wadd d a b) := by
  have h0 := d.isLt
  have h1 := a.isLt
  have h2 := b.isLt
  show 91 + d.toNat * 128 + a.toNat * 8192 + b.toNat * 524288 < 4294967296
  omega
theorem wsub (d a b : BitVec 4) : Statement (.wsub d a b) := by
  have h0 := d.isLt
  have h1 := a.isLt
  have h2 := b.isLt
  show 268435547 + d.toNat * 128 + a.toNat * 8192 + b.toNat * 524288 < 4294967296
  omega
theorem wmul (d a b : BitVec 4) : Statement (.wmul d a b) := by
  have h0 := d.isLt
  have h1 := a.isLt
  have h2 := b.isLt
  show 536871003 + d.toNat * 128 + a.toNat * 8192 + b.toNat * 524288 < 4294967296
  omega
theorem wfma (d a b : BitVec 4) : Statement (.wfma d a b) := by
  have h0 := d.isLt
  have h1 := a.isLt
  have h2 := b.isLt
  show 805306459 + d.toNat * 128 + a.toNat * 8192 + b.toNat * 524288 < 4294967296
  omega
theorem wmax (d a b : BitVec 4) : Statement (.wmax d a b) := by
  have h0 := d.isLt
  have h1 := a.isLt
  have h2 := b.isLt
  show 1073741915 + d.toNat * 128 + a.toNat * 8192 + b.toNat * 524288 < 4294967296
  omega
theorem wmin (d a b : BitVec 4) : Statement (.wmin d a b) := by
  have h0 := d.isLt
  have h1 := a.isLt
  have h2 := b.isLt
  show 1342177371 + d.toNat * 128 + a.toNat * 8192 + b.toNat * 524288 < 4294967296
  omega
theorem wdot (d a b : BitVec 4) : Statement (.wdot d a b) := by
  have h0 := d.isLt
  have h1 := a.isLt
  have h2 := b.isLt
  show 1610612827 + d.toNat * 128 + a.toNat * 8192 + b.toNat * 524288 < 4294967296
  omega
theorem wred (d : BitVec 6) (a : BitVec 4) (m : BitVec 3) : Statement (.wred d a m) := by
  have h0 := d.isLt
  have h1 := a.isLt
  have h2 := m.isLt
  show 1879048283 + d.toNat * 128 + a.toNat * 8192 + m.toNat * 33554432 < 4294967296
  omega
theorem wcvt (d a : BitVec 4) (t : BitVec 6) (r k : BitVec 1) : Statement (.wcvt d a t r k) := by
  have h0 := d.isLt
  have h1 := a.isLt
  have h2 := t.isLt
  have h3 := r.isLt
  have h4 := k.isLt
  show 2147483739 + d.toNat * 128 + a.toNat * 8192 + t.toNat * 524288 + r.toNat * 33554432 + k.toNat * 67108864 < 4294967296
  omega
theorem wpack (d a b : BitVec 4) : Statement (.wpack d a b) := by
  have h0 := d.isLt
  have h1 := a.isLt
  have h2 := b.isLt
  show 2415919195 + d.toNat * 128 + a.toNat * 8192 + b.toNat * 524288 < 4294967296
  omega
theorem wunpk (d a : BitVec 4) (p : BitVec 2) : Statement (.wunpk d a p) := by
  have h0 := d.isLt
  have h1 := a.isLt
  have h2 := p.isLt
  show 2684354651 + d.toNat * 128 + a.toNat * 8192 + p.toNat * 524288 < 4294967296
  omega
theorem wshuf (d a b : BitVec 4) : Statement (.wshuf d a b) := by
  have h0 := d.isLt
  have h1 := a.isLt
  have h2 := b.isLt
  show 2952790107 + d.toNat * 128 + a.toNat * 8192 + b.toNat * 524288 < 4294967296
  omega
theorem wtag (d : BitVec 4) (t : BitVec 6) : Statement (.wtag d t) := by
  have h0 := d.isLt
  have h1 := t.isLt
  show 3221225563 + d.toNat * 128 + t.toNat * 524288 < 4294967296
  omega
theorem wscl (d a : BitVec 4) (b : BitVec 6) : Statement (.wscl d a b) := by
  have h0 := d.isLt
  have h1 := a.isLt
  have h2 := b.isLt
  show 3489661019 + d.toNat * 128 + a.toNat * 8192 + b.toNat * 524288 < 4294967296
  omega
theorem wsets (d : BitVec 4) (a : BitVec 6) (m : BitVec 1) : Statement (.wsets d a m) := by
  have h0 := d.isLt
  have h1 := a.isLt
  have h2 := m.isLt
  show 3758096475 + d.toNat * 128 + a.toNat * 8192 + m.toNat * 33554432 < 4294967296
  omega
theorem wcmp (d : BitVec 6) (a b : BitVec 4) (c : BitVec 3) : Statement (.wcmp d a b c) := by
  have h0 := d.isLt
  have h1 := a.isLt
  have h2 := b.isLt
  have h3 := c.isLt
  show 4026531931 + d.toNat * 128 + a.toNat * 8192 + b.toNat * 524288 + c.toNat * 33554432 < 4294967296
  omega
theorem schedulerTakeLaunch (die queue core bank : Nat) : Statement (.schedulerTakeLaunch die queue core bank) := Nat.zero_lt_one
theorem placementArrival (idx : Nat) : Statement (.placementArrival idx) := Nat.zero_lt_one
theorem pendingGroupPlace (idx core bank : Nat) : Statement (.pendingGroupPlace idx core bank) := Nat.zero_lt_one
theorem formationRound (core islot : Nat) : Statement (.formationRound core islot) := Nat.zero_lt_one
theorem trapAtReply (idx : Nat) : Statement (.trapAtReply idx) := Nat.zero_lt_one
theorem groupHalted (g : Nat) : Statement (.groupHalted g) := Nat.zero_lt_one
theorem groupRecall (g : Nat) : Statement (.groupRecall g) := Nat.zero_lt_one
theorem groupRetire (g : Nat) : Statement (.groupRetire g) := Nat.zero_lt_one
theorem kernelDrainDone (k : Nat) : Statement (.kernelDrainDone k) := Nat.zero_lt_one
theorem threadSlotFree (t : TRef) : Statement (.threadSlotFree t) := Nat.zero_lt_one
theorem kernelCancelDone (k : Nat) : Statement (.kernelCancelDone k) := Nat.zero_lt_one
theorem barrierRelease (core bank phys : Nat) : Statement (.barrierRelease core bank phys) := Nat.zero_lt_one
theorem heapArrival (die pick : Nat) : Statement (.heapArrival die pick) := Nat.zero_lt_one
theorem swapEnd (core : Nat) : Statement (.swapEnd core) := Nat.zero_lt_one
theorem spillDone (core : Nat) : Statement (.spillDone core) := Nat.zero_lt_one
theorem loadDone (core : Nat) : Statement (.loadDone core) := Nat.zero_lt_one
theorem operandLogReplay (id : Nat) : Statement (.operandLogReplay id) := Nat.zero_lt_one
theorem pageWalkDone (id : Nat) : Statement (.pageWalkDone id) := Nat.zero_lt_one
theorem storeDrain (t : TRef) : Statement (.storeDrain t) := Nat.zero_lt_one
theorem registrationAccept (id : Nat) : Statement (.registrationAccept id) := Nat.zero_lt_one
theorem homeRequest (id : Nat) : Statement (.homeRequest id) := Nat.zero_lt_one
theorem forwardAtOwner (id : Nat) : Statement (.forwardAtOwner id) := Nat.zero_lt_one
theorem accessComplete (id : Nat) : Statement (.accessComplete id) := Nat.zero_lt_one
theorem settleCutMarker (die slice : Nat) : Statement (.settleCutMarker die slice) := Nat.zero_lt_one
theorem shootdownAck (idx : Nat) : Statement (.shootdownAck idx) := Nat.zero_lt_one
theorem migrationCopyDone (src : Nat) : Statement (.migrationCopyDone src) := Nat.zero_lt_one
theorem scrubDone (frame : Nat) : Statement (.scrubDone frame) := Nat.zero_lt_one
theorem speCommandStart (die : Nat) : Statement (.speCommandStart die) := Nat.zero_lt_one
theorem speFullComputeDone (part n : Nat) : Statement (.speFullComputeDone part n) := Nat.zero_lt_one
theorem speSettleDone (part n : Nat) : Statement (.speSettleDone part n) := Nat.zero_lt_one
theorem adaptAdmit (part : Nat) : Statement (.adaptAdmit part) := Nat.zero_lt_one
theorem pfxCommandStart (die : Nat) (peers : List PeerBlock) : Statement (.pfxCommandStart die peers) := Nat.zero_lt_one
theorem pfxCopyDone (idx : Nat) (peer : PeerBlock) : Statement (.pfxCopyDone idx peer) := Nat.zero_lt_one
theorem flitArrival (idx : Nat) (full parityBad : Bool) : Statement (.flitArrival idx full parityBad) := Nat.zero_lt_one
theorem budgetPeriod (die : Nat) : Statement (.budgetPeriod die) := Nat.zero_lt_one
theorem collectiveTake (queue : Nat) : Statement (.collectiveTake queue) := Nat.zero_lt_one
theorem collectiveReduce (comm step : Nat) : Statement (.collectiveReduce comm step) := Nat.zero_lt_one
theorem partitionResetDone (p : Nat) : Statement (.partitionResetDone p) := Nat.zero_lt_one
theorem clusterStart (die : Nat) : Statement (.clusterStart die) := Nat.zero_lt_one
theorem postArrival (idx : Nat) (peer : Option PeerPost) : Statement (.postArrival idx peer) := Nat.zero_lt_one
theorem revokeArrival (idx : Nat) : Statement (.revokeArrival idx) := Nat.zero_lt_one
theorem postReply (idx : Nat) (fate : PostFate) : Statement (.postReply idx fate) := Nat.zero_lt_one
theorem drainArrival (idx : Nat) : Statement (.drainArrival idx) := Nat.zero_lt_one
theorem matrixCommandDone (idx mismatches : Nat) : Statement (.matrixCommandDone idx mismatches) := Nat.zero_lt_one
theorem streamerCommandDone (cluster idx : Nat) : Statement (.streamerCommandDone cluster idx) := Nat.zero_lt_one
theorem ceFoldFlush (idx : Nat) : Statement (.ceFoldFlush idx) := Nat.zero_lt_one
theorem arrayPowerDown (core : Nat) : Statement (.arrayPowerDown core) := Nat.zero_lt_one
theorem arrayWake (core : Nat) : Statement (.arrayWake core) := Nat.zero_lt_one
theorem reservedEncoding (w : Word) : Statement (.reservedEncoding w) := Nat.zero_lt_one
theorem gleanerTransfer (core : Nat) : Statement (.gleanerTransfer core) := Nat.zero_lt_one
theorem nopC : Statement (.nopC) := by
  show 30 < 65536
  omega
theorem exit : Statement (.exit) := by
  show 45 < 4294967296
  omega
theorem yield : Statement (.yield) := by
  show 33554477 < 4294967296
  omega
theorem nop : Statement (.nop) := by
  show 67108909 < 4294967296
  omega
theorem brk : Statement (.brk) := by
  show 100663341 < 4294967296
  omega
theorem queuePortPush (t : TRef) (port : BitVec 2) (v : Word) : Statement (.queuePortPush t port v) := Nat.zero_lt_one
theorem queuePortPop (t : TRef) (port : BitVec 2) : Statement (.queuePortPop t port) := Nat.zero_lt_one
theorem unitHandoff (idx die : Nat) : Statement (.unitHandoff idx die) := Nat.zero_lt_one
theorem stealRequest (cluster : Nat) : Statement (.stealRequest cluster) := Nat.zero_lt_one
theorem stealReply (idx : Nat) : Statement (.stealReply idx) := Nat.zero_lt_one
theorem trapServiceTimeout (g : Nat) : Statement (.trapServiceTimeout g) := Nat.zero_lt_one
theorem trapResume (g : Nat) : Statement (.trapResume g) := Nat.zero_lt_one
theorem trapTerminateGroup (g : Nat) : Statement (.trapTerminateGroup g) := Nat.zero_lt_one
theorem trapTerminateKernel (g : Nat) : Statement (.trapTerminateKernel g) := Nat.zero_lt_one
theorem groupEvict (g : Nat) : Statement (.groupEvict g) := Nat.zero_lt_one
theorem kernelCancel (k : Nat) : Statement (.kernelCancel k) := Nat.zero_lt_one
theorem queueConfigure (asid : BitVec 16) (va : DWord) (cfg : QueueCfg) : Statement (.queueConfigure asid va cfg) := Nat.zero_lt_one
theorem queueReopen (q : Nat) (free : Bool) : Statement (.queueReopen q free) := Nat.zero_lt_one
theorem engineResultPush (q : Nat) (v : EngineResult) : Statement (.engineResultPush q v) := Nat.zero_lt_one
theorem notify (session : Word) (va : DWord) (tail : Word) (seq : DWord) (tag : BitVec 128) : Statement (.notify session va tail seq tag) := Nat.zero_lt_one
theorem heapOwnerWrite (die : Nat) (v : DWord) : Statement (.heapOwnerWrite die v) := Nat.zero_lt_one
theorem ctxSwap (core : Nat) : Statement (.ctxSwap core) := Nat.zero_lt_one
theorem ctxSpill (core : Nat) (save : BitVec 26) : Statement (.ctxSpill core save) := Nat.zero_lt_one
theorem ctxLoad (core : Nat) (save : BitVec 26) (ctx asid : BitVec 16) : Statement (.ctxLoad core save ctx asid) := Nat.zero_lt_one
theorem ctxDiscard (core : Nat) : Statement (.ctxDiscard core) := Nat.zero_lt_one
theorem ctxCmdBad (core : Nat) (cmd : BitVec 3) : Statement (.ctxCmdBad core cmd) := Nat.zero_lt_one
theorem attendantFaultHandle (id : Nat) (fate : FaultFate) : Statement (.attendantFaultHandle id fate) := Nat.zero_lt_one
theorem l1EvictWriteback (core line : Nat) : Statement (.l1EvictWriteback core line) := Nat.zero_lt_one
theorem dspWinWrite (die tenant : Nat) (v : DWord) : Statement (.dspWinWrite die tenant v) := Nat.zero_lt_one
theorem sfenceVma (part : Nat) (asid : Option (BitVec 16)) (va : Option DWord) : Statement (.sfenceVma part asid va) := Nat.zero_lt_one
theorem shootdownTimeoutWarn (idx : Nat) : Statement (.shootdownTimeoutWarn idx) := Nat.zero_lt_one
theorem shootdownTimeoutReset (idx : Nat) : Statement (.shootdownTimeoutReset idx) := Nat.zero_lt_one
theorem frameAllocate (tenant frame : Nat) (asid : BitVec 16) (va : DWord) (leaf : Nat) (perms : BitVec 3) : Statement (.frameAllocate tenant frame asid va leaf perms) := Nat.zero_lt_one
theorem frameEvict (frame : Nat) : Statement (.frameEvict frame) := Nat.zero_lt_one
theorem ageSweep : Statement (.ageSweep) := Nat.zero_lt_one
theorem frameWritebackDone (frame : Nat) : Statement (.frameWritebackDone frame) := Nat.zero_lt_one
theorem framePin (frame : Nat) : Statement (.framePin frame) := Nat.zero_lt_one
theorem frameUnpin (frame : Nat) : Statement (.frameUnpin frame) := Nat.zero_lt_one
theorem migrationStart (src dst : Nat) : Statement (.migrationStart src dst) := Nat.zero_lt_one
theorem migrationAbandon (src : Nat) (ue : Bool) : Statement (.migrationAbandon src ue) := Nat.zero_lt_one
theorem scrubFail (frame : Nat) : Statement (.scrubFail frame) := Nat.zero_lt_one
theorem rowSpareRepair (frame left : Nat) : Statement (.rowSpareRepair frame left) := Nat.zero_lt_one
theorem tenFrWrite (tenant : Nat) (v : DWord) : Statement (.tenFrWrite tenant v) := Nat.zero_lt_one
theorem speFail (part n : Nat) : Statement (.speFail part n) := Nat.zero_lt_one
theorem adaptEvict (part n : Nat) : Statement (.adaptEvict part n) := Nat.zero_lt_one
theorem adaptRecreate (part n : Nat) (frames : List Nat) : Statement (.adaptRecreate part n frames) := Nat.zero_lt_one
theorem pfxBaseWrite (part : Nat) (v : DWord) : Statement (.pfxBaseWrite part v) := Nat.zero_lt_one
theorem pfxCfgWrite (part : Nat) (v : DWord) : Statement (.pfxCfgWrite part v) := Nat.zero_lt_one
theorem remoteFetch (part psn : Nat) : Statement (.remoteFetch part psn) := Nat.zero_lt_one
theorem remoteAttnQuery (part : Nat) (q : PeerQuery) : Statement (.remoteAttnQuery part q) := Nat.zero_lt_one
theorem bgtClassWrite (die cls : Nat) (v : DWord) : Statement (.bgtClassWrite die cls v) := Nat.zero_lt_one
theorem bgtClassRead (die cls : Nat) : Statement (.bgtClassRead die cls) := Nat.zero_lt_one
theorem resetReqDevice (m : ResetMsg) (boot : BootRecord) : Statement (.resetReqDevice m boot) := Nat.zero_lt_one
theorem resetReqPartition (m : ResetMsg) : Statement (.resetReqPartition m) := Nat.zero_lt_one
theorem resetReqRingmaster (m : ResetMsg) : Statement (.resetReqRingmaster m) := Nat.zero_lt_one
theorem getVersion : Statement (.getVersion) := Nat.zero_lt_one
theorem getCapabilities : Statement (.getCapabilities) := Nat.zero_lt_one
theorem negotiateAlgorithms : Statement (.negotiateAlgorithms) := Nat.zero_lt_one
theorem getDigests : Statement (.getDigests) := Nat.zero_lt_one
theorem getCertificate : Statement (.getCertificate) := Nat.zero_lt_one
theorem challenge (nonce : BitVec 256) : Statement (.challenge nonce) := Nat.zero_lt_one
theorem getMeasurements : Statement (.getMeasurements) := Nat.zero_lt_one
theorem mctpUnsupported (ty : Byte) : Statement (.mctpUnsupported ty) := Nat.zero_lt_one
theorem linkEnable (l : LinkId) : Statement (.linkEnable l) := Nat.zero_lt_one
theorem linkTrained (l : LinkId) (wide : Bool) : Statement (.linkTrained l wide) := Nat.zero_lt_one
theorem linkErrorThreshold (l : LinkId) : Statement (.linkErrorThreshold l) := Nat.zero_lt_one
theorem linkRetrainDone (l : LinkId) (wide : Bool) : Statement (.linkRetrainDone l wide) := Nat.zero_lt_one
theorem linkFail (l : LinkId) : Statement (.linkFail l) := Nat.zero_lt_one
theorem linkDisable (l : LinkId) : Statement (.linkDisable l) := Nat.zero_lt_one
theorem postLostTimeout (idx : Nat) : Statement (.postLostTimeout idx) := Nat.zero_lt_one
theorem collectiveChildPartial (comm step rank : Nat) (vals : List Word) (bad : List Nat) : Statement (.collectiveChildPartial comm step rank vals bad) := Nat.zero_lt_one
theorem collectiveResult (comm step : Nat) (vals : List Word) (bad : List Nat) : Statement (.collectiveResult comm step vals bad) := Nat.zero_lt_one
theorem collectiveCancel (comm step : Nat) : Statement (.collectiveCancel comm step) := Nat.zero_lt_one
theorem partCfgWrite (v : DWord) : Statement (.partCfgWrite v) := Nat.zero_lt_one
theorem ivlMapWrite (die : Nat) (v : DWord) : Statement (.ivlMapWrite die v) := Nat.zero_lt_one
theorem nbndWrite (die : Nat) (v : DWord) : Statement (.nbndWrite die v) := Nat.zero_lt_one
theorem xshrWrite (n : Nat) (v : DWord) : Statement (.xshrWrite n v) := Nat.zero_lt_one
theorem partitionMerge (a b : Nat) (dlocal : Bool) : Statement (.partitionMerge a b dlocal) := Nat.zero_lt_one
theorem partitionSplit (p : Nat) : Statement (.partitionSplit p) := Nat.zero_lt_one
theorem l2ModeChange (p : Nat) (dlocal : Bool) : Statement (.l2ModeChange p dlocal) := Nat.zero_lt_one
theorem quiesceDone : Statement (.quiesceDone) := Nat.zero_lt_one
theorem quiesceTimeout (found : DWord) : Statement (.quiesceTimeout found) := Nat.zero_lt_one
theorem partitionReset (p : Nat) (sideband : Bool) : Statement (.partitionReset p sideband) := Nat.zero_lt_one
theorem deviceReset (cause : ResetCause) (boot : BootRecord) : Statement (.deviceReset cause boot) := Nat.zero_lt_one
theorem lockstepMismatch (pair : Nat) : Statement (.lockstepMismatch pair) := Nat.zero_lt_one
theorem watchdogExpiry : Statement (.watchdogExpiry) := Nat.zero_lt_one
theorem rmWdogPet : Statement (.rmWdogPet) := Nat.zero_lt_one
theorem rmWdogTimeoutWrite (v : Word) : Statement (.rmWdogTimeoutWrite v) := Nat.zero_lt_one
theorem ringmasterReset (cause : RmCause) : Statement (.ringmasterReset cause) := Nat.zero_lt_one
theorem selfTestDone (passing : BitVec 4) : Statement (.selfTestDone passing) := Nat.zero_lt_one
theorem reattachDone : Statement (.reattachDone) := Nat.zero_lt_one
theorem sessionOpen (session : Word) (key : BitVec 512) (ok : Bool) : Statement (.sessionOpen session key ok) := Nat.zero_lt_one
theorem sessionClose (session : Word) : Statement (.sessionClose session) := Nat.zero_lt_one
theorem attendantFault (core : Nat) : Statement (.attendantFault core) := Nat.zero_lt_one
theorem parkWindowWrite (core slot off : Nat) (v : DWord) : Statement (.parkWindowWrite core slot off v) := Nat.zero_lt_one
theorem parkCtlWrite (core : Nat) (v : DWord) : Statement (.parkCtlWrite core v) := Nat.zero_lt_one
theorem handleKeyRotate (core : Nat) : Statement (.handleKeyRotate core) := Nat.zero_lt_one
theorem erqCfgWrite (part : Nat) (v : DWord) : Statement (.erqCfgWrite part v) := Nat.zero_lt_one
theorem erqCfgRead (part : Nat) : Statement (.erqCfgRead part) := Nat.zero_lt_one
theorem patrolScrub (pa : Nat) (fate : ScrubFate) (left : Nat) : Statement (.patrolScrub pa fate left) := Nat.zero_lt_one
theorem rstcWrite (v : DWord) : Statement (.rstcWrite v) := Nat.zero_lt_one
theorem dieFailure (die : Nat) : Statement (.dieFailure die) := Nat.zero_lt_one
theorem wearUpdate (die : Nat) (hours : Word) (bankSpent : Bool) : Statement (.wearUpdate die hours bankSpent) := Nat.zero_lt_one
theorem thermalWarn (die : Nat) : Statement (.thermalWarn die) := Nat.zero_lt_one
theorem throttleStep (die : Nat) (cool : Bool) : Statement (.throttleStep die cool) := Nat.zero_lt_one
theorem thermalTrip (die : Nat) (boot : BootRecord) : Statement (.thermalTrip die boot) := Nat.zero_lt_one
theorem vdroop (die : Nat) : Statement (.vdroop die) := Nat.zero_lt_one
theorem brownout (boot : BootRecord) : Statement (.brownout boot) := Nat.zero_lt_one
theorem registerWrite (r : CtlReg) (v : DWord) : Statement (.registerWrite r v) := Nat.zero_lt_one
theorem contextDestroy (ctx : BitVec 16) : Statement (.contextDestroy ctx) := Nat.zero_lt_one
theorem processEnd (asid : BitVec 16) : Statement (.processEnd asid) := Nat.zero_lt_one
theorem frameUnmap (frame : Nat) : Statement (.frameUnmap frame) := Nat.zero_lt_one
theorem directoryExchange (part : Nat) (op : NodeOp) : Statement (.directoryExchange part op) := Nat.zero_lt_one

end Sys2Proof.Laws.Fits
end

