-- ==== Sys2Proof/Tests/Slice0.lean ====
section
/-! SUPPORT. Tests: words decode to their instructions, ill-formed terms are refused, the hypotheses of the statements are met, and
single steps give the manual's results.  Expected values come from the manual's tables, or from them by hand. -/

set_option Elab.async false

namespace Sys2Proof.Tests

open Sys2Proof.Machine

/-! ## Words -/

/-- The word of the bits is read as the instruction. -/
def reads (e : Nat × Nat × Instr) : Bool := decodeTableWord e.1 e.2.1 == some e.2.2

/-- Words 1 to 12 of the opcode table, their fields filled in by hand. -/
theorem test_words_01 : ([(32, 0xA61C02FF, .clause 2053 3 12 4 1),
    (16, 0x3880, .movC 4 7),
    (16, 0x3882, .addC 4 7),
    (16, 0x3884, .subC 4 7),
    (16, 0x3886, .andC 4 7),
    (16, 0x3888, .orC 4 7),
    (16, 0x388A, .xorC 4 7),
    (16, 0x388C, .shlC 4 7),
    (16, 0x388E, .shrC 4 7),
    (16, 0x3890, .addiC 4 7),
    (16, 0x3892, .moviC 4 7),
    (16, 0x3894, .faddC 4 7)] : List (Nat × Nat × Instr)).all reads = true := by decide

/-- Words 13 to 24 of the opcode table, their fields filled in by hand. -/
theorem test_words_02 : ([(16, 0x3896, .fmulC 4 7),
    (16, 0x3898, .fmaxC 4 7),
    (16, 0x389A, .fsubC 4 7),
    (16, 0x389C, .shriC 4 7),
    (16, 0x001E, .nopC),
    (32, 0x0030A203, .add 4 5 6),
    (32, 0x0230A203, .sub 4 5 6),
    (32, 0x0430A203, .mul 4 5 6),
    (32, 0x0630A203, .mulhI 4 5 6),
    (32, 0x0830A203, .mulhN 4 5 6),
    (32, 0x0A30A203, .divI 4 5 6),
    (32, 0x0C30A203, .divN 4 5 6)] : List (Nat × Nat × Instr)).all reads = true := by decide

/-- Words 25 to 36 of the opcode table, their fields filled in by hand. -/
theorem test_words_03 : ([(32, 0x0E30A203, .remI 4 5 6),
    (32, 0x1030A203, .remN 4 5 6),
    (32, 0x1230A203, .and 4 5 6),
    (32, 0x1430A203, .or 4 5 6),
    (32, 0x1630A203, .xor 4 5 6),
    (32, 0x1830A203, .andn 4 5 6),
    (32, 0x1A30A203, .shl 4 5 6),
    (32, 0x1C30A203, .shr 4 5 6),
    (32, 0x1E30A203, .sar 4 5 6),
    (32, 0x2030A203, .rot 4 5 6),
    (32, 0x2230A203, .minI 4 5 6),
    (32, 0x2430A203, .minN 4 5 6)] : List (Nat × Nat × Instr)).all reads = true := by decide

/-- Words 37 to 48 of the opcode table, their fields filled in by hand. -/
theorem test_words_04 : ([(32, 0x2630A203, .maxI 4 5 6),
    (32, 0x2830A203, .maxN 4 5 6),
    (32, 0x2A00A203, .abs 4 5),
    (32, 0x2C00A203, .neg 4 5),
    (32, 0x2E00A203, .clz 4 5),
    (32, 0x3000A203, .popc 4 5),
    (32, 0x3200A203, .brev 4 5),
    (32, 0x3400A203, .mov 4 5),
    (32, 0x3600A203, .not 4 5),
    (32, 0x8048A205, .addi 4 5 4105),
    (32, 0x8048A207, .andi 4 5 4105),
    (32, 0x8048A209, .ori 4 5 4105)] : List (Nat × Nat × Instr)).all reads = true := by decide

/-- Words 49 to 60 of the opcode table, their fields filled in by hand. -/
theorem test_words_05 : ([(32, 0x8048A20B, .xori 4 5 4105),
    (32, 0x0018A20D, .shli 4 5 3),
    (32, 0x4018A20D, .shri 4 5 3),
    (32, 0x8018A20D, .sari 4 5 3),
    (32, 0xC018A20D, .roti 4 5 3),
    (32, 0x8001220F, .movh 4 262153),
    (32, 0x3230A111, .cmp 2 5 6 1 3),
    (32, 0x8048A913, .cmpi 2 2 5 4105),
    (32, 0x0030A215, .pand 4 5 6),
    (32, 0x0230A215, .por 4 5 6),
    (32, 0x0430A215, .pxor 4 5 6),
    (32, 0x0630A215, .pandn 4 5 6)] : List (Nat × Nat × Instr)).all reads = true := by decide

/-- Words 61 to 72 of the opcode table, their fields filled in by hand. -/
theorem test_words_06 : ([(32, 0x0800A215, .pnot 4 5),
    (32, 0x0A00A215, .pmovg 4 5),
    (32, 0x0C00A215, .pmovp 4 5),
    (32, 0x0430A217, .sel 4 5 6 2),
    (32, 0x0030A219, .fadd 4 5 6),
    (32, 0x0230A219, .fsub 4 5 6),
    (32, 0x0430A219, .fmul 4 5 6),
    (32, 0x0630A219, .fdiv 4 5 6),
    (32, 0x0830A219, .fmin 4 5 6),
    (32, 0x0A30A219, .fmax 4 5 6),
    (32, 0x0C00A219, .fabs 4 5),
    (32, 0x0E00A219, .fneg 4 5)] : List (Nat × Nat × Instr)).all reads = true := by decide

/-- Words 73 to 84 of the opcode table, their fields filled in by hand. -/
theorem test_words_07 : ([(32, 0x1030A219, .fcpsgn 4 5 6),
    (32, 0x1200A219, .fsqrt 4 5),
    (32, 0x1400A219, .frcp 4 5),
    (32, 0x1600A219, .frsq 4 5),
    (32, 0x1800A219, .ex2 4 5),
    (32, 0x0030A21B, .fma 4 5 6),
    (32, 0x0230A21B, .fms 4 5 6),
    (32, 0x0430A21B, .fnma 4 5 6),
    (32, 0x0630A21B, .fnms 4 5 6),
    (32, 0x0E30A11D, .fcmp 2 5 6 7),
    (32, 0x0010A21F, .fcvtF32I32 4 5 2),
    (32, 0x0210A21F, .fcvtF32N32 4 5 2)] : List (Nat × Nat × Instr)).all reads = true := by decide

/-- Words 85 to 96 of the opcode table, their fields filled in by hand. -/
theorem test_words_08 : ([(32, 0x0410A21F, .fcvtI32F32 4 5 2),
    (32, 0x0610A21F, .fcvtN32F32 4 5 2),
    (32, 0x0810A21F, .fcvtF32F16 4 5 2),
    (32, 0x0A10A21F, .fcvtF16F32 4 5 2),
    (32, 0x0C10A21F, .fcvtF32Bf16 4 5 2),
    (32, 0x0E10A21F, .fcvtBf16F32 4 5 2),
    (32, 0x1010A21F, .frnd 4 5 2),
    (32, 0x0E30A221, .aadd 4 5 6 7),
    (32, 0x1000E221, .amov 4 7),
    (32, 0x2000A221, .asplit 4 5),
    (32, 0x3430A221, .acmp 4 5 6 2),
    (32, 0x4000A221, .amova 4 5)] : List (Nat × Nat × Instr)).all reads = true := by decide

/-- Words 97 to 108 of the opcode table, their fields filled in by hand. -/
theorem test_words_09 : ([(32, 0x8048A223, .aaddi 4 5 4105),
    (32, 0x80012225, .afrom 4 262153),
    (32, 0x80000D27, .br 2 1 1048577),
    (32, 0x80000D29, .call 2 1 1048577),
    (32, 0x0000A02B, .jmp 5),
    (32, 0x0200A22B, .jcall 4 5),
    (32, 0x0400A02B, .ret 5),
    (32, 0x0000002D, .exit),
    (32, 0x0200002D, .yield),
    (32, 0x0400002D, .nop),
    (32, 0x0600002D, .brk),
    (32, 0x0900402D, .trap 2050)] : List (Nat × Nat × Instr)).all reads = true := by decide

/-- Words 109 to 120 of the opcode table, their fields filled in by hand. -/
theorem test_words_10 : ([(32, 0x0030A22F, .spawn 4 5 6),
    (32, 0x80E2A0B1, .ld 1 5 1 4 1 257),
    (32, 0x80FEA0B3, .st 1 5 3 7 1 257),
    (32, 0x5A0CA0B5, .wld 1 5 2 1 1 22),
    (32, 0xFE0EA0B7, .wst 1 5 3 1 1 63),
    (32, 0x0630A239, .gather 4 5 6 1 1 0),
    (32, 0x0630A23B, .scatter 4 5 6 1 1 0),
    (32, 0x8086A03D, .pref 5 3 257),
    (32, 0x0630A23F, .atomAdd 4 5 6 1 1),
    (32, 0x1630A23F, .atomMinI 4 5 6 1 1),
    (32, 0x2630A23F, .atomMinN 4 5 6 1 1),
    (32, 0x3630A23F, .atomMaxI 4 5 6 1 1)] : List (Nat × Nat × Instr)).all reads = true := by decide

/-- Words 121 to 132 of the opcode table, their fields filled in by hand. -/
theorem test_words_11 : ([(32, 0x4630A23F, .atomMaxN 4 5 6 1 1),
    (32, 0x5630A23F, .atomAnd 4 5 6 1 1),
    (32, 0x6630A23F, .atomOr 4 5 6 1 1),
    (32, 0x7630A23F, .atomXor 4 5 6 1 1),
    (32, 0x8630A23F, .atomXchg 4 5 6 1 1),
    (32, 0x9630A23F, .atomFadd 4 5 6 1 1),
    (32, 0xA630A23F, .atomBump 4 5 6 1 1),
    (32, 0x0630A241, .acas 4 5 6 1 1),
    (32, 0xA1100043, .fence 2 1 5),
    (32, 0x00300245, .barArrive 4 6),
    (32, 0x1030A045, .barWait 5 6),
    (32, 0x20300045, .barSync 6)] : List (Nat × Nat × Instr)).all reads = true := by decide

/-- Words 133 to 144 of the opcode table, their fields filled in by hand. -/
theorem test_words_12 : ([(32, 0x3230A045, .barInit 5 6 1),
    (32, 0x44300245, .barTest 4 6 2),
    (32, 0x50300045, .barDrop 6),
    (32, 0x0000A047, .twaitany 5),
    (32, 0x0200A047, .twaitall 5),
    (32, 0x0400A247, .tfirst 4 5),
    (32, 0x0600A047, .tclr 5),
    (32, 0x0800A047, .tset 5),
    (32, 0x0A00A247, .ttest 4 5),
    (32, 0x0000BEC9, .qbind 1 5 0),
    (32, 0x0207A249, .qstat 4 1),
    (32, 0x0407A049, .qclose 1)] : List (Nat × Nat × Instr)).all reads = true := by decide

/-- Words 145 to 156 of the opcode table, their fields filled in by hand. -/
theorem test_words_13 : ([(32, 0x0637A249, .qtry 4 1 6),
    (32, 0x0230A04B, .hpush 5 6 1),
    (32, 0x1230024B, .hpop 4 6 1),
    (32, 0x2230024B, .htry 4 6 1),
    (32, 0x0110024D, .movs 4 34),
    (32, 0x0208A04F, .movsw 5 65),
    (32, 0x0200A251, .mkh 4 5 1),
    (32, 0x04302251, .arm 4 1 6),
    (32, 0x2A30A251, .rpost 4 5 6 1 1),
    (32, 0x2E30A251, .rpostw 4 5 6 1 1),
    (32, 0x1008A251, .full 4 5 1),
    (32, 0x3600A051, .revoke 5 1 1)] : List (Nat × Nat × Instr)).all reads = true := by decide

/-- Words 157 to 168 of the opcode table, their fields filled in by hand. -/
theorem test_words_14 : ([(32, 0x2230A053, .stream 5 6 1 1),
    (32, 0x2630A053, .streamg 5 6 1 1),
    (32, 0x2A30A053, .scopy 5 6 1 1),
    (32, 0x2E30A053, .binscat 5 6 1 1),
    (32, 0x3230A053, .sfill 5 6 1 1),
    (32, 0x2230A255, .mma 4 5 6 1 1),
    (32, 0x2630A255, .mmas 4 5 6 1 1),
    (32, 0x08000255, .xzero 4),
    (32, 0x2E30A255, .xld 4 5 6 1 1),
    (32, 0x3230A255, .xst 4 5 6 1 1),
    (32, 0x3630A255, .xdrain 4 5 6 1 1),
    (32, 0x1800A255, .xguard 4 5 0)] : List (Nat × Nat × Instr)).all reads = true := by decide

/-- Words 169 to 180 of the opcode table, their fields filled in by hand. -/
theorem test_words_15 : ([(32, 0x1C00A255, .xtag 4 5),
    (32, 0x2200A257, .bind 4 5 1 1),
    (32, 0x26300057, .unbind 6 1 1),
    (32, 0x2A300257, .settle 4 6 1 1),
    (32, 0x0E300257, .stale 4 6 1),
    (32, 0x32300257, .recomp 4 6 1 1),
    (32, 0x16300257, .bstat 4 6 1),
    (32, 0x2200A259, .pxfind 4 5 1 1),
    (32, 0x2630A259, .pxins 4 5 6 1 1),
    (32, 0x2A30A259, .pxref 4 5 6 1 1),
    (32, 0x2E300259, .pxunref 4 6 1 1),
    (32, 0x32300259, .kvapp 4 6 1 1)] : List (Nat × Nat × Instr)).all reads = true := by decide

/-- Words 181 to 192 of the opcode table, their fields filled in by hand. -/
theorem test_words_16 : ([(32, 0x36300259, .kvtrim 4 6 1 1),
    (32, 0x1A300259, .kvxlat 4 6 1),
    (32, 0x3E00A259, .attn 4 5 1 1),
    (32, 0x0030A25B, .wadd 4 5 6),
    (32, 0x1030A25B, .wsub 4 5 6),
    (32, 0x2030A25B, .wmul 4 5 6),
    (32, 0x3030A25B, .wfma 4 5 6),
    (32, 0x4030A25B, .wmax 4 5 6),
    (32, 0x5030A25B, .wmin 4 5 6),
    (32, 0x6030A25B, .wdot 4 5 6),
    (32, 0x7200A25B, .wred 4 5 1),
    (32, 0x8628A25B, .wcvt 4 5 5 1 1)] : List (Nat × Nat × Instr)).all reads = true := by decide

/-- Words 193 to 199 of the opcode table, their fields filled in by hand. -/
theorem test_words_17 : ([(32, 0x9030A25B, .wpack 4 5 6),
    (32, 0xA010A25B, .wunpk 4 5 2),
    (32, 0xB030A25B, .wshuf 4 5 6),
    (32, 0xC090025B, .wtag 4 18),
    (32, 0xD030A25B, .wscl 4 5 6),
    (32, 0xE200A25B, .wsets 4 5 1),
    (32, 0xF430A25B, .wcmp 4 5 6 2)] : List (Nat × Nat × Instr)).all reads = true := by decide
/-- The words that the manual writes out in its examples, one for each. -/
theorem test_example_words_1 : ([(0x00A0652F, .spawn 10 3 20), (0x0000002D, .exit), (0x9E0804FF, .clause 9 1 12 3 1),
    (0x0A30A203, .divI 4 5 6), (0xFFF8820B, .xori 4 4 0x1FFF), (0x8018C28D, .sari 5 6 3), (0x20206111, .cmp 2 3 4 0 2),
    (0x00004493, .cmpi 1 1 2 0), (0x00102195, .pand 3 1 2), (0x0230A217, .sel 4 5 6 1), (0x1800C299, .ex2 5 6),
    (0x0049039B, .fma 7 8 9), (0x0420611D, .fcmp 2 3 4 2), (0x0410A21F, .fcvtI32F32 4 5 2),
    (0x04282121, .aadd 2 1 5 2), (0x002020A3, .aaddi 1 1 4), (0x000281A5, .afrom 3 20), (0xFFFF90A7, .br 1 0 0x1FFFF2),
    (0x00014029, .call 0 0 40), (0x0401E02B, .ret 15)] : List (Nat × Instr)).all (fun e => reads (32, e)) = true := by decide

theorem test_example_words_2 : ([(0x0824602D, .trap 0x123), (0x0018024D, .movs 4 3), (0x0208604F, .movsw 3 0x41),
    (0x2002403D, .pref 2 1 64), (0x00302241, .acas 4 1 6 0 0), (0x82180043, .fence 3 2 4), (0x5460E0D5, .xdrain 1 7 12 0 2),
    (0x0000A151, .mkh 2 5 0), (0x100140D1, .full 1 10 0), (0x14006051, .revoke 3 0 0), (0x01224231, .ld 4 2 1 4 0 2),
    (0x00087EC9, .qbind 1 3 1), (0x001840DB, .wadd 1 2 3), (0x00008055, .mma 0 4 0 0 0), (0x60484053, .stream 2 9 0 3),
    (0x00004257, .bind 4 2 0 0), (0x283004D7, .settle 9 6 0 1), (0x184002D9, .kvxlat 5 8 0), (0x04180551, .arm 10 0 3),
    (0x00006259, .pxfind 4 3 0 0), (0x1E00C4D9, .attn 9 6 1 0), (0xAE60027F, .clause 4 12 12 5 1)] :
    List (Nat × Instr)).all (fun e => reads (32, e)) = true := by decide

/-- A word of no row, MOV.c of d and s both 0 (R271), a reserved condition, and a reserved type are refused. -/
theorem test_reserved_words : ([(16, 0x0000), (32, 0xFFFFFF3F), (32, 0x60206111), (32, 0x01324231)] :
    List (Nat × Nat)).all (fun e => decodeTableWord e.1 e.2 == none) = true := by decide

/-! ## Ill-formed terms -/

/-- One term for each check of the decoder: reserved codes. -/
theorem test_codes_refused : ([.movC 0 0, .cmp 1 2 3 2 0, .cmp 1 2 3 0 6, .fcmp 1 2 3 8, .fcvtF32I32 1 2 5, .fcvtF32N32 1 2 5,
    .fcvtI32F32 1 2 5, .fcvtN32F32 1 2 5, .fcvtF32F16 1 2 5, .fcvtF16F32 1 2 5, .fcvtF32Bf16 1 2 5, .fcvtBf16F32 1 2 5,
    .frnd 1 2 5, .acmp 1 2 3 4, .ld 4 2 0 6 0 0, .st 4 2 0 1 0 0, .st 4 2 0 3 0 0, .st 4 2 0 6 0 0, .wld 1 2 0 0 0 0x3F,
    .wst 1 2 0 0 0 0, .pref 2 2 0, .atomAdd 1 2 3 0 2, .atomMinI 1 2 3 0 2, .atomMinN 1 2 3 0 2, .atomMaxI 1 2 3 0 2,
    .atomMaxN 1 2 3 0 2, .atomAnd 1 2 3 0 2, .atomOr 1 2 3 0 2, .atomXor 1 2 3 0 2, .atomXchg 1 2 3 0 2, .atomFadd 1 2 3 0 2,
    .atomBump 1 2 3 0 2, .acas 1 2 4 0 2, .fence 1 1 0, .fence 1 1 6, .movs 4 0x18, .movsw 4 0x50, .wred 1 2 3,
    .wcvt 1 2 7 0 0, .wcvt 1 2 1 0 1, .wtag 1 0x0D] : List Instr).all (fun i => !i.codesOk) = true := by decide

/-- One term for each check at issue: pairs, ports as destinations and register limits. -/
theorem test_limits_refused : ([.clause 0 13 0 0 0, .clause 0 0 13 0 0, .amov 1 3, .asplit 3 1, .spawn 0 1 4, .spawn 4 1 53,
    .ld 60 2 0 4 0 0, .ld 5 2 0 5 0 0, .ld 16 2 0 7 0 0, .st 5 2 0 5 0 0, .st 16 2 0 7 0 0, .atomAdd 60 2 3 0 0,
    .atomMinI 60 2 3 0 0, .atomMinN 60 2 3 0 0, .atomMaxI 60 2 3 0 0, .atomMaxN 60 2 3 0 0, .atomAnd 60 2 3 0 0,
    .atomOr 60 2 3 0 0, .atomXor 60 2 3 0 0, .atomXchg 60 2 3 0 0, .atomFadd 60 2 3 0 0, .atomBump 60 2 3 0 0, .acas 60 2 4 0 0,
    .acas 1 2 3 0 0, .barArrive 60 1, .barTest 60 1 1, .tfirst 60 1, .qstat 60 1, .qtry 60 1 2, .qtry 1 1 60, .hpop 0 1 0,
    .htry 60 1 0, .movs 3 0x50, .arm 0 0 1, .arm 59 0 1, .arm 15 1 1, .full 1 0 0, .full 1 16 1, .xld 1 2 3 0 0, .xst 1 2 3 0 0,
    .xguard 60 1 0, .xtag 60 1, .bind 60 1 0 0, .stale 60 1 0, .bstat 3 1 0, .pxfind 3 1 0 0, .pxins 60 1 2 0 0, .pxins 1 1 3 0 0,
    .pxref 60 1 2 0 0, .pxunref 60 2 0 0, .kvapp 1 3 0 0, .kvtrim 60 2 0 0, .kvxlat 1 3 0, .attn 60 1 0 0] : List Instr).all
    (fun i => i.codesOk && !i.limitsOk) = true := by decide

/-! ## The hypotheses of the statements are met -/

/-- A thread of its own group, alone in the troupe that issues: the thread that withFetchWord places. -/
def u : State := { State.reset.withFetchWord 32 0 with sel := some ⟨0, 1, [0]⟩, turns := [] }

/-- The troupe and its one slot; the thread's key is 1024. -/
def sl : Sel := ⟨0, 1, [0]⟩

/-- u with a changed thread, and with a queue. -/
def ux (f : Thread → Thread) : State := u.modThr 1024 f

def uq (n : Nat) (q : Queue) (f : Thread → Thread) : State := { ux f with queues := (Tab.set {} n q) }

/-- The troupe of the state meets a condition when its thread has its turn, whatever the instruction performs. -/
def Meets (s : State) (n : Nat) (p : State → Nat → Prop) : Prop := ∀ f, EachTurn s sl n f p

theorem alone_of {s : State} {n : Nat} (h : (s.sel == some sl && (State.insideClause (s.thr 1024) n && (s.thr 1024).lost.isEmpty)) = true) :
    Alone s sl 0 n := by
  simp only [Bool.and_eq_true, beq_iff_eq, List.isEmpty_iff] at h
  exact ⟨h.1, rfl, h.2⟩

theorem issues_of {s : State} {n : Nat} (h : (s.sel == some sl && (State.insideClause (s.thr 1024) n && (s.thr 1024).lost.isEmpty)) = true) :
    Issues s sl n := by
  simp only [Bool.and_eq_true, beq_iff_eq, List.isEmpty_iff] at h
  exact ⟨h.1, by decide, by decide, fun k hk => by
    have : k = 0 := by simpa [sl] using hk
    subst this
    exact h.2⟩

theorem meets {s : State} {n : Nat} {p : State → Nat → Prop}
    (h : (s.sel == some sl && (State.insideClause (s.thr 1024) n && (s.thr 1024).lost.isEmpty)) = true) (hp : p { s with sel := none } 1024) :
    Meets s n p := by
  simp only [Bool.and_eq_true, beq_iff_eq, List.isEmpty_iff] at h
  refine fun f => ⟨h.1, by decide, by decide, fun pre k post e => ?_⟩
  have e' : pre = [] ∧ k = 0 := by
    cases pre with
    | nil => exact ⟨rfl, by simpa [sl] using (List.cons.inj e).1.symm⟩
    | cons a pre => exact absurd (congrArg List.length e) (by simp [sl])
  obtain ⟨rfl, rfl⟩ := e'
  exact ⟨h.2.1, h.2.2, hp⟩

theorem mayAccess_of {v : State} {t entries : Nat} {flag : Option Nat} {ws : List Want}
    (h : ((match flag with
        | none => true
        | some n => (v.thr t).flags.get n != 7) && (entries == 0 || decide (v.queued t + entries ≤ 16)) &&
      (!v.heldBehind t v.nextId || decide (v.logCount (keyCtx t) < 256)) &&
      ws.all (fun w => !v.gleanerHolds (v.coreOf t) w.place w.len)) = true) : MayAccess v t flag entries ws := by
  simp only [Bool.and_eq_true] at h
  obtain ⟨⟨⟨h1, h2⟩, h3⟩, h4⟩ := h
  refine ⟨fun n e => ?_, fun e => ?_, fun e => ?_, fun w hw => ?_⟩
  · subst e; simpa using h1
  · rcases (Bool.or_eq_true _ _).mp h2 with h | h
    · exact absurd (by simpa using h) e
    · exact of_decide_eq_true h
  · rw [e] at h3; simpa using h3
  · simpa using List.all_eq_true.mp h4 w hw

theorem filled_of {s : State} {gs ws : List Nat} (h : someEmpty (s.thr 1024) gs ws = false) : Filled s sl gs ws := fun k hk => by
  have : k = 0 := by simpa [sl] using hk
  subst this
  exact h

theorem of_all {α : Type} {l : List α} {p : α → Bool} (h : l.all p = true) : ∀ x ∈ l, p x = true := List.all_eq_true.mp h

/-- A hardware FIFO with two entries that ports 0 and 3 are bound to, for a pop and for a push. -/
def fifo : Queue := { state := .busy, cap := 32, scope := 2, tail := 2, entries := [7, 8] }

def ported : State := uq 0x1000 fifo (fun x => { x with
  ports := ((Tab.set {} 0 { bound := true, push := false, va := 0, q := 0x1000 } : Tab Port)).set 3
    { bound := true, push := true, va := 0, q := 0x1000 } })

/-- Result, FloatResult, Updates and Alters: registers alone, of a 4-byte and of a compact instruction, g0 and g59 among them. -/
theorem witness_registers_alone : (Issues u sl 2 ∧ Issues u sl 1) ∧ Filled u sl [0, 1, 59] [] ∧ NoPorts [0, 1, 59] :=
  ⟨⟨issues_of (by decide), issues_of (by decide)⟩, filled_of (by decide), by unfold NoPorts; decide⟩

/-- Result, FloatResult and Updates with ports: a pop of port 0 beside a register, and a push to port 3. -/
theorem witness_ports : Meets ported 2 (Unhindered [60, 1] [] (outPort 63)) ∧ Meets ported 2 (Unhindered [60, 60] [] none) ∧
    Meets ported 1 (Unhindered [1, 1] [] (outPort 1)) :=
  ⟨meets (by decide) ⟨by decide, by decide⟩, meets (by decide) ⟨by decide, by decide⟩,
   meets (by decide) ⟨by decide, by decide⟩⟩

/-- The operand values that the statements assume admitted: one instruction for each check, at the ends of its range. -/
theorem witness_admitted : ([.movC 0 1, .movC 1 0, .cmp 7 63 63 1 5, .fcmp 7 63 63 7, .fcvtF32I32 63 63 4, .fcvtF32N32 63 63 4,
    .fcvtI32F32 63 63 4, .fcvtN32F32 63 63 4, .fcvtF32F16 63 63 4, .fcvtF16F32 63 63 4, .fcvtF32Bf16 63 63 4,
    .fcvtBf16F32 63 63 4, .frnd 63 63 4, .acmp 7 15 15 3, .amov 15 58, .asplit 2 15, .asplit 58 15, .spawn 1 15 52,
    .spawn 59 15 0, .ld 59 15 2 4 1 511, .ld 58 15 2 5 1 511, .ld 15 15 2 7 1 511, .st 63 15 3 4 1 511, .st 58 15 3 5 1 511,
    .st 15 15 3 7 1 511, .wld 15 15 2 63 0x16 1, .wst 15 15 2 63 0x3F 1, .pref 15 3 511, .pref 15 0 511, .atomAdd 59 15 63 1 1,
    .atomMinI 59 15 63 1 1, .atomMinN 59 15 63 1 1, .atomMaxI 59 15 63 1 1, .atomMaxN 59 15 63 1 1, .atomAnd 59 15 63 1 1,
    .atomOr 59 15 63 1 1, .atomXor 59 15 63 1 1, .atomXchg 59 15 63 1 1, .atomFadd 59 15 63 1 1, .atomBump 59 15 63 1 1,
    .acas 59 15 58 1 1, .fence 31 31 5, .movs 63 0x70, .movs 58 0x50, .movsw 63 0x42, .barArrive 59 63, .barTest 59 63 7,
    .tfirst 59 15, .qstat 59 3, .qtry 59 3 59, .hpop 59 15 1, .htry 59 15 1, .arm 1 0 58, .arm 59 0 0, .arm 0 1 15,
    .full 7 59 0, .full 7 15 1, .xld 7 15 58 1 3, .xst 7 15 58 1 3, .xguard 59 7 1, .xtag 59 7, .bind 59 15 1 3, .stale 59 63 1,
    .bstat 58 63 1, .pxfind 58 15 1 3, .pxins 59 15 58 1 3, .pxref 59 15 63 1 3, .pxunref 59 63 1 3, .kvapp 59 58 1 3,
    .kvtrim 59 58 1 3, .kvxlat 15 58 1, .attn 59 15 1 3, .wred 63 15 2, .wcvt 15 15 5 1 1, .wcvt 15 15 12 1 0, .wtag 15 0,
    .wtag 15 0x16, .wcmp 63 15 15 7, .wscl 15 15 63, .wsets 15 63 1] : List Instr).all (fun i => i.wf) = true := by decide

/-- u with a changed group, thread and context. -/
def ug (g : Group → Group) (f : Thread → Thread) : State := { ux f with groups := u.groups.modify 1 g }

def uc (c : Ctx → Ctx) (f : Thread → Thread) : State := { ux f with ctxs := u.ctxs.modify 1 c }

/-- Address registers: a1 translated, a2 the last aligned word of 64 bytes of lane store; w registers with a tag and indices. -/
def addressed : State := ug (fun g => { g with lane := 64, padLen := 64, cluLen := 32, tileBase := 1, tileCount := 2, producer := true })
  (fun x => { (x.wrA 1 0x2000).wrA 2 0x8000000000000038 with
    w := ((Tab.set {} 1 { data := BitVec.ofNat 256 (8 + 2 ^ 32 * (2 ^ 256 - 2 ^ 32) / 2 ^ 32 % 2 ^ 224 + 0), tag := 0x0C } : Tab WReg)).set 2
      { data := 5, tag := 1 } })

theorem access_of {v : State} {entries : Nat} {flag : Option Nat} {ws : List Want} {p : Prop} (hp : p)
    (h : ((match flag with
        | none => true
        | some n => (v.thr 1024).flags.get n != 7) && (entries == 0 || decide (v.queued 1024 + entries ≤ 16)) &&
      (!v.heldBehind 1024 v.nextId || decide (v.logCount (keyCtx 1024) < 256)) &&
      ws.all (fun w => !v.gleanerHolds (v.coreOf 1024) w.place w.len)) = true) : p ∧ MayAccess v 1024 flag entries ws :=
  ⟨hp, mayAccess_of h⟩

/-- The place of n bytes at register a, and what an access there wants. -/
def spot (v : State) (t a n al : Nat) : Option Place := placeOf v t ((v.thr t).rdA a) n al true

def wantAt (v : State) (t a n : Nat) (data : List Byte) : List Want :=
  [{ va := (v.thr t).rdA a, place := (spot v t a n 1).getD .virt, len := n, pos := 0, data := data }]

/-- A launch record (R20): 2 groups of 4 threads, portable and guarded, 4 barriers, 2 tiles, no producer. -/
def launchRec : Memory := [(0, leBytes 4 0x4B374C31 ++ [1, 2, 0, 3] ++ leBytes 8 0x10000),
  (0x18, leBytes 4 0x40000 ++ leBytes 4 0x21100), (0x38, [4, 2, 255])].foldl (fun m e => Memory.store m e.1 e.2) {}

/-- An address register that no access size of 4 divides. -/
def misaligned : State := ux (fun x => x.wrA 1 0x2002)

/-- w1 holds two active indices, w2 an F32 register; a1 is translated, a2 the last 32 bytes of the pad. -/
def packed : State := ug (fun g => { g with lane := 64, padLen := 64 })
  (fun x => { (x.wrA 1 0x2000).wrA 2 0x9000000000000020 with
    w := ((Tab.set {} 1 { data := BitVec.ofNat 256 (leNat ([8, 0, 0, 0, 0, 0, 0, 0x80, 255, 255, 255, 255] ++
      (List.replicate 5 [0, 0, 0, 0x80]).flatten)), tag := 0x0C } : Tab WReg)).set 2 { data := 5, tag := 1 } })

/-- A page of the process is in the TLB of its core. -/
def withPage (s : State) (va pa : Nat) : State := s.modCore 0 (fun c => { c with tlb := [⟨1, 0, va, pa, true, true, true, true⟩] })

/-- MOVS to a port, and to a register. -/
theorem witness_SpecialRegisters : (Instr.movs 63 0x22).wf = true ∧ Meets ported 2 (Unhindered [] [] (outPort 63)) ∧
    Meets u 2 (Unhindered [] [] (outPort 59)) :=
  ⟨by decide, meets (by decide) ⟨by decide, by decide⟩, meets (by decide) ⟨by decide, by decide⟩⟩

/-- A header stands behind the clause: at 0x10008. -/
def headed : State := { ux (fun x => x.wrA 3 0x10008) with
  kernels := u.kernels.modify 1 (fun k => { k with code := Memory.store {} 8 [0x7F, 0x02, 0, 0] }) }

theorem header_at : HeaderAt { headed with sel := none } 1024 0x10008 :=
  ⟨by decide, by decide, { headed with sel := none }, [0x7F, 0x02], rfl, by decide⟩

/-- A branch that is taken, one that is not, and a jump. -/
theorem witness_ControlTransfers :
    (let taken (n : BitVec 1) (x : Thread) : Prop := x.rdP 0 ≠ decide (n = 1)
     let may (n : BitVec 1) (v : State) (t : Nat) : Prop :=
      (v.thr t).lastOf 2 = true ∧ (taken n (v.thr t) → HeaderAt v t ((v.thr t).pc + 2 * (2 : BitVec 21).signExtend 64))
     (Meets headed 2 (may 0) ∧ taken 0 (headed.thr 1024)) ∧ Meets headed 2 (may 1) ∧ ¬ taken 1 (headed.thr 1024)) ∧
    Meets headed 2 (fun v t => (v.thr t).lastOf 2 = true ∧ HeaderAt v t ((v.thr t).rdA 3)) :=
  ⟨⟨⟨meets (by decide) ⟨by decide, fun _ => header_at⟩, by decide⟩,
    meets (by decide) ⟨by decide, fun h => absurd h (by decide)⟩, by decide⟩,
   meets (by decide) ⟨by decide, header_at⟩⟩

/-- A transfer that is not the last of its clause; a target that is odd, one that is not canonical, and one that holds no header. -/
theorem witness_TransferTraps :
    (Alone (ux (fun x => { x with len := 3 })) sl 0 2 ∧ ((ux (fun x => { x with len := 3 })).thr 1024).lastOf 2 = false) ∧
    (Alone headed sl 0 2 ∧ (headed.thr 1024).lastOf 2 = true ∧ canonical 0x8000000000000000 = false ∧
      canonical 0x10000 = true ∧ ∃ w bs, { headed with sel := none }.fetch 1024 0x10000 2 = .bytes w bs ∧
        State.headerParcel bs = false) :=
  ⟨⟨alone_of (by decide), by decide⟩, alone_of (by decide), by decide, by decide, by decide,
   { headed with sel := none }, [0, 0], rfl, by decide⟩

/-- A header that is passed, waiting for flags 0 and 2, and one that waits. -/
theorem witness_HeaderPasses : (sl.slots ≠ [] ∧ sl.slots.Nodup ∧ ∀ k ∈ sl.slots,
      ((ux (fun x => { x with gate := false })).thr (sl.key k)).gate = false ∧
      ((ux (fun x => { x with gate := false })).thr (sl.key k)).lost = [] ∧
      ∀ f, f < 12 → ((ux (fun x => { x with gate := false })).thr (sl.key k)).flags.get f = 0) ∧
    (((ux (fun x => { x with gate := false, flags := x.flags.set 11 7 })).thr 1024).flags.get 11 ≠ 0 ∧
      ((ux (fun x => { x with gate := false, flags := x.flags.set 11 7 })).thr 1024).gate = false ∧
      (ux (fun x => { x with gate := false, flags := x.flags.set 11 7 })).logFlags 1024 = 0) := by
  refine ⟨⟨by decide, by decide, by decide⟩, by decide, by decide, by decide⟩

set_option maxRecDepth 20000 in
/-- EXIT, and a SPAWN with room for one thread and without room for 1,024. -/
theorem witness_ExitsAndSpawns : u.threads.wf = true ∧ Alone u sl 0 2 ∧ (Instr.spawn 1 0 52).wf = true ∧
    (∀ g, g < 60 → (u.thr 1024).gEmpty.get g = false) ∧ u.storesPerformed 1024 u.nextId 1 = true ∧ (u.kernel 1).state ≠ .cancelling ∧
    (∃ r, u.room (u.kernel 1) 1 1 = some r) ∧
    ((ux (fun x => { x with g := x.g.set 1 1024 })).room (u.kernel 1) 1 1024 = none) := by
  refine ⟨by decide, alone_of (by decide), by decide, by decide, by decide, by decide, ?_, by decide⟩
  exact Option.isSome_iff_exists.mp (by decide)

/-- A trap of the one thread, and one of two threads of a troupe of three. -/
theorem witness_TakingATrap :
    let s : State := { ux (fun x => x) with threads := ((u.threads.set 1025 (u.thr 1024)).set 1026 (u.thr 1024)) }
    let sel : Sel := ⟨0, 1, [0, 1, 2]⟩
    let traps : List (Nat × TrapInfo) := [(0, trapOf .illegal), (2, trapAt .address 5)]
    s.threads.wf = true ∧ sel.slots.Nodup ∧ (traps.map Prod.fst).Nodup ∧ (∀ e ∈ traps, e.1 ∈ sel.slots) ∧ (∀ k ∈ sel.slots, k < 1024) ∧
    (∀ k ∈ sel.slots, (s.thr (sel.key k)).group = 1 ∧ (s.thr (sel.key k)).run = .runnable) ∧
    (s.group 1).state = .running ∧ (s.group 1).ctx = sel.ctx ∧ sel.ctx < 2 ^ 30 := by decide

/-- An instruction whose pair is odd. -/
theorem witness_IllegalOperandsTrap : (Instr.amov 1 3).parcels ≠ 0 ∧ (∀ w a b n y, Instr.amov 1 3 ≠ .clause w a b n y) ∧
    (Instr.amov 1 3).wf = false ∧ Issues u sl 2 :=
  ⟨by decide, fun _ _ _ _ _ => by simp, by decide, issues_of (by decide)⟩

/-- An empty catch register at each end of their range. -/
theorem witness_EmptyRegistersBlock :
    (Alone (ux (fun x => { x with gEmpty := x.gEmpty.set 1 true })) sl 0 2 ∧
      ((ux (fun x => { x with gEmpty := x.gEmpty.set 1 true })).thr 1024).gEmpty.get 1 = true) ∧
    (Alone (ux (fun x => { x with gEmpty := x.gEmpty.set 59 true })) sl 0 2 ∧
      ((ux (fun x => { x with gEmpty := x.gEmpty.set 59 true })).thr 1024).gEmpty.get 59 = true) :=
  ⟨⟨alone_of (by decide), by decide⟩, alone_of (by decide), by decide⟩

/-- A port that is not bound, one that is bound for a push, and one bound to an empty queue. -/
def emptyPorted : State := uq 0x1000 { state := .empty, cap := 32, scope := 2 } (fun x => { x with
  ports := (Tab.set {} 0 { bound := true, push := false, va := 0, q := 0x1000 } : Tab Port) })

theorem witness_PortsAreCheckedFirst :
    (Alone u sl 0 2 ∧ NoPorts [4, 5] ∧ someEmpty (u.thr 1024) [60, 5] [] = false ∧ ((u.thr 1024).ports.get 0).bound = false) ∧
    (Alone ported sl 0 2 ∧ ((ported.thr 1024).ports.get 3).push = true) ∧
    (Alone emptyPorted sl 0 2 ∧ (let x := emptyPorted.thr 1024
      let q := emptyPorted.queue (emptyPorted.portQueue 1024 0)
      (x.ports.get 0).bound = true ∧ (x.ports.get 0).push = false ∧ q.state = .empty ∧ q.tail = q.head ∧ x.portIn.get 0 = none ∧
      emptyPorted.names (x.ports.get 0) (emptyPorted.portQueue 1024 0) = true)) :=
  ⟨⟨alone_of (by decide), by unfold NoPorts; decide, by decide, by decide⟩, ⟨alone_of (by decide), by decide⟩,
   alone_of (by decide), by decide⟩

/-- LD of a word at a translated address and of a pair at the end of the lane store; ST from a register and from a port. -/
theorem witness_LoadsAndStoresIssue :
    (∀ e ∈ [(1, 4), (2, 8)], Meets addressed 2 (fun v t => ((flagNamed (v.thr t) 0).isSome ∧ (spot v t e.1 e.2 e.2).isSome) ∧
      MayAccess v t (flagNamed (v.thr t) 0) 0 (wantAt v t e.1 e.2 []))) ∧
    (∀ e ∈ [(addressed, (4 : BitVec 6)), (ported, 60)], Meets e.1 2 (fun v t => Unhindered [e.2] [] none v t ∧
      (let q := popped v t [e.2]
       (spot q.1 t 1 4 4).isSome ∧
        MayAccess q.1 t (flagNamed (q.1.thr t) 0) 1 (wantAt q.1 t 1 4 (leBytes 4 (q.2.getD 0 0).toNat))))) := by
  simp only [List.forall_mem_cons, List.not_mem_nil, false_implies, implies_true, and_true]
  exact ⟨⟨meets (by decide) (access_of (by decide) (by decide)), meets (by decide) (access_of (by decide) (by decide))⟩,
    meets (by decide) ⟨⟨by decide, by decide⟩, access_of (by decide) (by decide)⟩,
    meets (by decide) ⟨⟨by decide, by decide⟩, access_of (by decide +kernel) (by decide +kernel)⟩⟩

/-- WLD and WST of a register of F32 at the end of the pad, GATHER and SCATTER of two active elements, and the atomics. -/
theorem witness_PackedAccessesIssue :
    let ea (v : State) (t : Nat) := (v.thr t).rdA 2
    let els (v : State) (t : Nat) := activeAt ((v.thr t).rdA 1) ((v.thr t).rdW 1)
    let want (v : State) (t : Nat) : List Want := (els v t).map (fun e =>
      { va := e.2, place := (placeOf v t e.2 4 4 true).getD .virt, len := 4, pos := 4 * e.1 })
    Meets packed 2 (fun v t => (∀ n, n < 16 → (v.thr t).wEmpty.get n = false) ∧ ((v.thr t).rdW 2).tag = 1 ∧
      ((flagNamed (v.thr t) 0).isSome ∧ (placeOf v t (ea v t) 32 32 true).isSome) ∧
      MayAccess v t (flagNamed (v.thr t) 0) 1 (State.wants ((placeOf v t (ea v t) 32 32 true).getD .virt) (ea v t) 32 [])) ∧
    Meets packed 2 (fun v t => ((v.thr t).rdW 1).tag = 0x0C ∧ (els v t).length = 2 ∧
      (∀ e ∈ els v t, (placeOf v t e.2 4 4 true).isSome) ∧ ((flagNamed (v.thr t) 0).isSome ∧ ((v.thr t).rdW 2).tag = 1) ∧
      MayAccess v t (flagNamed (v.thr t) 0) (els v t).length (want v t)) := by
  exact ⟨meets (by decide) ⟨by decide, by decide, access_of (by decide) (by decide)⟩,
    meets (by decide) ⟨by decide, by decide, by decide, access_of (by decide) (by decide)⟩⟩

/-- No register of packed is empty. -/
theorem witness_full : ∀ n, (packed.thr 1024).wEmpty.get n = false := fun _ => rfl

theorem witness_AtomicsIssue :
    (∀ e ∈ [(addressed, (4 : BitVec 6)), (ported, 60)], Meets e.1 2 (fun v t => (flagNamed (v.thr t) 1).isSome ∧
      Unhindered [e.2] [] none v t ∧ (let q := (popped v t [e.2]).1
      (spot q t 1 4 4).isSome ∧ MayAccess q t (flagNamed (q.thr t) 1) 0 (wantAt q t 1 4 [])))) ∧
    Meets addressed 2 (fun v t => Unhindered [58, 59] [] none v t ∧ (let q := (popped v t [58, 59]).1
      (spot q t 1 4 4).isSome ∧ MayAccess q t (flagNamed (q.thr t) 1) 0 (wantAt q t 1 4 []))) := by
  simp only [List.forall_mem_cons, List.not_mem_nil, false_implies, implies_true, and_true]
  exact ⟨⟨meets (by decide) ⟨by decide, ⟨by decide, by decide⟩, access_of (by decide) (by decide)⟩,
      meets (by decide) ⟨by decide, ⟨by decide, by decide⟩, access_of (by decide +kernel) (by decide +kernel)⟩⟩,
    meets (by decide) ⟨⟨by decide, by decide⟩, access_of (by decide) (by decide)⟩⟩

/-- A misaligned address. -/
theorem witness_AccessTraps_align : Alone misaligned sl 0 2 ∧ (flagNamed (misaligned.thr 1024) 0).isSome ∧
    ((misaligned.thr 1024).rdA 1).toNat % 4 ≠ 0 := ⟨alone_of (by decide), by decide, by decide +kernel⟩

/-- Aligned addresses one byte outside each space. -/
theorem witness_AccessTraps_address : ([0x8000000000000040, 0x9000000000000040, 0xA000000000000020, 0xB000000000000000,
    0xC000000000000000, 0x1000000000000000, 0x8000000100000000, 0x0800000000000000] : List DWord).all (fun a =>
      addressed.locate 1024 a 4 == none && a.toNat % 4 == 0) = true := by decide +kernel

theorem witness_AddressSpaces : ([0x800000000000003C, 0x900000000000003C, 0xA00000000000001C, 0x0000000000000000,
    0xFFFFFFFFFFFFFFFC] : List DWord).all (fun a => (addressed.locate 1024 a 4).isSome) = true := by decide +kernel

theorem witness_no_register_empty : ∀ g, (u.thr 1024).gEmpty.get g = false := fun _ => rfl

/-- PREF at each end of translated memory and at a local address; FENCE with nothing before it, and with a store before it. -/
def stored : State := addressed.startAccess 1024 .store .l1 .none (wantAt addressed 1024 1 4 [1, 2, 3, 4]) none 0x10004

theorem witness_Prefetch : ([0, 0xFFFFFFFFFFFFFFFF] : List DWord).all (fun a =>
      (a.toNat / 2 ^ 60 == 0 || a.toNat / 2 ^ 60 == 15) && canonical a) = true ∧
    ([0x8000000000000000, 0xBFFFFFFFFFFFFFFF] : List DWord).all (fun a =>
      decide (8 ≤ a.toNat / 2 ^ 60) && decide (a.toNat / 2 ^ 60 ≤ 11)) = true := by decide +kernel

theorem witness_Fence : ([1, 2, 3, 4, 5] : List Nat).all (fun c => !u.heldBehind 1024 u.nextId && u.performed 1024 u.nextId c 31)
    = true ∧ Alone stored sl 0 2 ∧ stored.performed 1024 stored.nextId 3 31 = false :=
  ⟨by decide +kernel, alone_of (by decide +kernel), by decide +kernel⟩

/-- A load of the thread that has met a fault, and a FENCE behind it. -/
def faulted : Access :=
  { thr := 1024, core := 0, op := .load, lv := .l1, dst := .g 4 4, flag := none, pc := 0, asid := 1, resolved := false,
    discarded := false, due := 0, pieces := [⟨.virt, 0x2000, none, 4, 0, [], false, .logged .unmapped, 0⟩] }

theorem witness_FenceBehindFault : Meets { u with accs := Tab.set {} 0 (some faulted), nextId := 1 } 2 (fun v t =>
    v.heldBehind t v.nextId = true ∧ MayAccess v t none 0 []) :=
  meets (by decide +kernel) ⟨by decide +kernel, mayAccess_of (by decide +kernel)⟩

/-- Thirty-two barriers of the group: number 0 expects two threads, and its phase is 1; number 31 is DEAD; number 2 expects one, and
the thread waits there since phase 0. -/
def barred : State :=
  { ug (fun g => { g with barCount := 32 }) (fun x => { (x.wrG 4 1) with sync := some 2 }) with
    kernels := u.kernels.modify 1 (fun k => { k with record := launchRec })
    ctxs := u.ctxs.modify 1 (fun c => { c with barriers :=
      ((Tab.set {} 0 { granted := true, expect := 2, phase := true, group := 1 } : Tab Barrier).set 31
        { granted := true, expect := 2, dead := true, group := 1 }).set 2 { granted := true, expect := 1, phase := true, group := 1 } }) }

theorem mayArrive_of {v : State} {t p : Nat} {own : Bool} (h : (!(v.barrier (keyCtx t) p).dead &&
    (!own || !(v.barrier (keyCtx t) p).arrived.get (keySlot t)) && v.released t 1) = true) : MayArrive v t p own := by
  simp only [Bool.and_eq_true] at h
  refine ⟨by simpa using h.1.1, fun e => ?_, h.2⟩
  have := h.1.2
  rw [e] at this
  simpa using this

/-- An arrival at a barrier of the group by its own number and by the global number 32, at the ends of the ranges. -/
theorem witness_BAR_ARRIVE :
    Meets barred 2 (fun v t => ∃ p own, barrierOf v t 0 true = some (p, own) ∧ MayArrive v t p own) ∧
    Meets barred 2 (fun v t => ∃ p own, barrierOf v t 32 true = some (p, own) ∧ MayArrive v t p own) ∧
    Meets barred 2 (fun v t => ∃ p own, barrierOf v t 30 true = some (p, own) ∧ MayArrive v t p own) :=
  ⟨meets (by decide +kernel) ⟨0, true, by decide +kernel, mayArrive_of (by decide +kernel)⟩,
   meets (by decide +kernel) ⟨0, false, by decide +kernel, mayArrive_of (by decide +kernel)⟩,
   meets (by decide +kernel) ⟨30, true, by decide +kernel, mayArrive_of (by decide +kernel)⟩⟩

/-- A wait whose phase is over; a SYNC that has been released; a SYNC that arrives. -/
theorem witness_BAR_WAIT :
    Meets barred 2 (fun v t => Unhindered [5] [] none v t ∧ (let q := popped v t [5]
      ∃ p own, barrierOf q.1 t 0 false = some (p, own) ∧ (q.1.barrier (keyCtx t) p).phase ≠ (q.2.getD 0 0).getLsbD 0 ∧
        ((q.1.barrier (keyCtx t) p).dead = false ∨ (q.1.thr t).sync = some p))) ∧
    Meets barred 2 (fun v t => ∃ p own, barrierOf v t 2 false = some (p, own) ∧ (v.thr t).sync = some p ∧
      (v.barrier (keyCtx t) p).phase ≠ (v.thr t).phase) ∧
    (Alone barred sl 0 2 ∧ barrierOf barred 1024 0 false = some (0, true) ∧ (barred.thr 1024).sync ≠ some 0 ∧
      MayArrive barred 1024 0 true) :=
  ⟨meets (by decide +kernel) ⟨⟨by decide +kernel, by decide +kernel⟩, 0, true, by decide +kernel, by decide +kernel,
     by decide +kernel⟩,
   meets (by decide +kernel) ⟨2, true, by decide +kernel, by decide +kernel, by decide +kernel⟩,
   alone_of (by decide +kernel), by decide +kernel, by decide +kernel, mayArrive_of (by decide +kernel)⟩

/-- INIT of the first and of the last barrier, with 1,024 threads and with none named; TEST, and DROP. -/
theorem witness_BAR_INIT : Alone barred sl 0 2 ∧ NoPorts [4] ∧ someEmpty (barred.thr 1024) [4] [] = false ∧
    ([(0, 1), (30, 1), (0, 0), (30, 1024)] : List (Nat × Nat)).all (fun e =>
      let s := barred.modThr 1024 (fun x => x.wrG 4 (BitVec.ofNat 32 e.2))
      let g := s.group 1
      let top := (s.kernel g.kernel).groupLevel
      decide (1 ≤ top) && decide ((s.thr 1024).rdG 4 = BitVec.ofNat 32 e.2) && decide (e.2 ≤ 1024) &&
      decide (e.1 + 1 < g.barCount + 1) && (barrierOf s 1024 (BitVec.ofNat 6 e.1) false).isSome &&
      (s.barrier 1 (g.barBase + e.1)).count == 0) = true :=
  ⟨alone_of (by decide +kernel), by unfold NoPorts; decide, by decide +kernel, by decide +kernel⟩

theorem witness_BAR_TEST_DROP : Meets barred 2 (fun v t => (barrierOf v t 63 true).isSome) ∧
    Meets barred 2 (fun v t => ∃ p own, barrierOf v t 0 false = some (p, own) ∧ (v.barrier (keyCtx t) p).expect ≠ 0) :=
  ⟨meets (by decide +kernel) (by decide +kernel),
   meets (by decide +kernel) ⟨0, true, by decide +kernel, by decide +kernel⟩⟩

/-- An arrival that completes its count, one that does not, a number that names none, and a DEAD barrier. -/
theorem witness_BarrierCounts :
    (let b := barred.barrier 1 2; 0 < b.expect ∧ b.expect ≤ b.count + 1) ∧
    (let b := barred.barrier 1 0; b.count + 1 < b.expect) ∧
    (Alone u sl 0 2 ∧ barrierOf u 1024 0 false = none ∧ barrierOf u 1024 63 true = none) ∧
    (Alone barred sl 0 2 ∧ barrierOf barred 1024 31 true = some (31, true) ∧ (barred.barrier 1 31).dead = true) :=
  ⟨by decide +kernel, by decide +kernel, ⟨alone_of (by decide), by decide +kernel, by decide +kernel⟩,
   alone_of (by decide +kernel), by decide +kernel, by decide +kernel⟩

/-- Tags 0 and 63 are set; a1 names tag 63, a2 tags 0 and 63, a3 tag 1 and a0 none. -/
def tagged : State := uc (fun c => { c with tags := 0x8000000000000001 }) (fun x =>
  ((x.wrA 1 0x8000000000000000).wrA 2 0x8000000000000001).wrA 3 2)

theorem witness_TagInstructions :
    let m (a : Nat) (v : State) (t : Nat) : DWord := (v.ctx (keyCtx t)).tags &&& (v.thr t).rdA a
    Meets tagged 2 (fun v t => m 1 v t ≠ 0) ∧ Meets tagged 2 (fun v t => m 2 v t = (v.thr t).rdA 2) ∧
    (Alone tagged sl 0 2 ∧ (tagged.thr 1024).rdA 3 ≠ 0 ∧ m 3 tagged 1024 = 0 ∧ (tagged.thr 1024).rdA 0 = 0) ∧
    Meets tagged 2 (fun v t => MayAccess v t none 1 [{ va := 0, place := .lane 0, len := 0, pos := 0 }]) :=
  ⟨meets (by decide +kernel) (by decide +kernel), meets (by decide +kernel) (by decide +kernel),
   ⟨alone_of (by decide +kernel), by decide +kernel, by decide +kernel, by decide +kernel⟩,
   meets (by decide +kernel) (mayAccess_of (by decide +kernel))⟩

/-- A queue of a kind at physical address 0x3040 of the page 0x3000, to which port 3 is bound, for a push or a pop. -/
def queued (q : Queue) (push : Bool) : State := withPage (uq 0x3040 q (fun x => { x.wrA 1 0x3040 with
  ports := (Tab.set {} 3 { bound := true, push := push, va := 0x3040, q := 0x3040 } : Tab Port) })) 0x3000 0x3000

def fullFifo : Queue := { state := .full, cap := 32, scope := 2, tail := 32, entries := List.range 32 }

/-- QBIND of a hardware FIFO for a pop and for a push. -/
theorem witness_QBIND (b : BitVec 1) : Meets (queued fifo true) 2 (fun v t => canonical ((v.thr t).rdA 1) = true ∧
    ((v.thr t).rdA 1).toNat % 64 = 0 ∧
    ∃ w pa, v.translate (v.coreOf t) (v.ctx (keyCtx t)).asid ((v.thr t).rdA 1).toNat .read = .ok (w, pa) ∧
      (let x := w.queue pa
       x.state ≠ .free ∧ x.malformed = false ∧ x.tenant = v.tenantOf t ∧ (x.kind = 0 → x.cluster = coreCluster (v.coreOf t)) ∧
       (if b = 1 then x.kind = 0 ∨ x.kind = 1 ∨ x.kind = 2 ∨ x.kind = 5
        else x.kind = 0 ∨ x.kind = 1 ∨ x.kind = 3 ∨ x.kind = 4))) :=
  meets (by decide +kernel) ⟨by decide +kernel, by decide +kernel, _, 0x3040, rfl, by decide +kernel, by decide +kernel,
    by decide +kernel, by decide +kernel, by split <;> exact .inl (by decide +kernel)⟩

/-- QSTAT and QCLOSE of a bound port, and of one that is not. -/
theorem witness_QSTAT : Meets (queued fifo true) 2 (fun v t => ((v.thr t).ports.get 3).bound = true ∧
    v.names ((v.thr t).ports.get 3) (v.portQueue t 3) = true) ∧ Alone u sl 0 2 ∧ ((u.thr 1024).ports.get 3).bound = false :=
  ⟨meets (by decide +kernel) (by decide +kernel), alone_of (by decide +kernel), by decide +kernel⟩

/-- QTRY of a push with room and without, and of a pop of an entry and of an empty queue. -/
theorem witness_QTRY :
    let q (v : State) (t : Nat) : Queue := v.queue (v.portQueue t 3)
    let bound (v : State) (t : Nat) (push : Bool) : Prop := someEmpty (v.thr t) [4] [] = false ∧
      ((v.thr t).ports.get 3).bound = true ∧ v.names ((v.thr t).ports.get 3) (v.portQueue t 3) = true ∧ ((v.thr t).ports.get 3).push = push
    Meets (queued fifo true) 2 (fun v t => bound v t true ∧ (q v t).state ≠ .closing ∧ (q v t).state ≠ .closed ∧
      (q v t).count < (q v t).cap ∧ v.released t (q v t).scope = true) ∧
    Meets (queued fullFifo true) 2 (fun v t => bound v t true ∧ (q v t).cap ≤ (q v t).count) ∧
    Meets (queued fullFifo false) 2 (fun v t => bound v t false ∧ (q v t).state ≠ .closed ∧ (q v t).count ≠ 0 ∧
      v.entryPoison (v.portQueue t 3) (coreDie (v.ctx (keyCtx t)).core) 0 = none) ∧
    Meets (queued { state := .empty, cap := 32, scope := 2 } false) 2 (fun v t => bound v t false ∧ (q v t).state ≠ .closed ∧ (q v t).count = 0) :=
  ⟨meets (by decide +kernel) (by decide +kernel), meets (by decide +kernel) (by decide +kernel),
   meets (by decide +kernel) (by decide +kernel), meets (by decide +kernel) (by decide +kernel)⟩

/-- A FIFO that is empty, one with 31 entries and one that is full. -/
theorem unwatched (f : Thread → Thread) (q : Nat) (x : Queue) (n : Nat) : Unwatched (uq q x f) q n := fun _ _ _ _ => rfl

theorem witness_FifoOrder : (∀ x : Queue, Unwatched (uq 0x3040 x id) 0x3040 64) ∧ 0x3040 % 64 = 0 ∧ ([{ state := .empty, cap := 32, scope := 2 }, { fullFifo with state := .busy, tail := 31, entries := List.range 31 },
    fullFifo] : List Queue).all (fun q => q.kind == 0 && q.cap == 32 && (q.state == .empty || q.state == .busy || q.state == .full) &&
      decide ((q.tail - q.head).toNat ≤ 32)) = true :=
  ⟨fun x => unwatched id 0x3040 x 64, by decide, by decide +kernel⟩

/-- The heap of the die is granted to the process: to a push from a register and from a port, and to a pop; u has no heap. -/
def heaped : State := addressed.modDie 0 (fun d => { d with heapValid := true, heapAsid := 1 })

theorem witness_HeapInstructions :
    let granted (v : State) (t : Nat) : Prop := (v.die (coreDie (v.coreOf t))).heapValid = true ∧
      (v.die (coreDie (v.coreOf t))).heapAsid = (v.ctx (keyCtx t)).asid
    Meets heaped 2 (fun v t => (flagNamed (v.thr t) 1).isSome ∧ (v.thr t).flags.get 1 ≠ 7 ∧ Unhindered [4] [] none v t ∧
      (let q := (popped v t [4]).1
       granted q t ∧ q.released t 3 = true)) ∧ (Alone u sl 0 2 ∧ ¬ granted u 1024) :=
  ⟨meets (by decide +kernel) ⟨by decide +kernel, by decide +kernel, ⟨by decide +kernel, by decide +kernel⟩, by decide +kernel,
    by decide +kernel⟩, alone_of (by decide +kernel), by decide +kernel⟩

/-- Handle specifications at the ends of both register files, and routes, local and remote. -/
theorem witness_FabricInstructions :
    ([0x41, 0xEC1, 0x7B, 0x1040, 0x1400, 0x104F] : List Word).all specOk = true ∧
    ([0, 15, 0x10000, 0x1FFFF] : List Word).all routeOk = true ∧
    (Meets (ux (fun x => x.wrG 4 0x41)) 2 (fun v t => (flagNamed (v.thr t) 0).isSome ∧ Unhindered [4] [] none v t ∧
      (let q := popped v t [4]
       specOk (q.2.getD 0 0) = true ∧ MayAccess q.1 t (flagNamed (q.1.thr t) 0) 0 [] ∧
        MayAccess (q.1.mint t (q.2.getD 0 0)).1 t (flagNamed (q.1.thr t) 0) 0 []))) ∧
    Meets ported 2 (fun v t => Unhindered [60, 5] [] none v t ∧ (let q := popped v t [60, 5]
      routeOk (q.2.getD 1 0) = true ∧ MayAccess q.1 t (flagNamed (q.1.thr t) 0) 0 [])) ∧
    Meets addressed 2 (fun v t => Unhindered [5] [2] none v t ∧ ((v.thr t).rdW 2).tag ≠ 0 ∧ (let q := popped v t [5]
      routeOk (q.2.getD 0 0) = true ∧ MayAccess q.1 t (flagNamed (q.1.thr t) 0) 0 [])) := by
  refine ⟨by decide +kernel, by decide +kernel, meets (by decide +kernel) ⟨by decide +kernel, ⟨by decide +kernel,
    by decide +kernel⟩, by decide +kernel, mayAccess_of (by decide +kernel), mayAccess_of (by decide +kernel)⟩,
    meets (by decide +kernel) ⟨⟨by decide +kernel, by decide +kernel⟩, by decide +kernel, mayAccess_of (by decide +kernel)⟩,
    meets (by decide +kernel) ⟨⟨by decide +kernel, by decide +kernel⟩, by decide +kernel, by decide +kernel,
      mayAccess_of (by decide +kernel)⟩⟩

/-- The commands of every engine: tiles 0 and 1 of two, a translated and a local address, one and two operands, a tag word of the
cluster, and a queue with room. -/
theorem mayQueue_of {v : State} {t : Nat} {e : Eng} {cap : Nat} {flag : Option Nat}
    (h : ((match flag with
        | none => true
        | some n => (v.thr t).flags.get n != 7) && (!v.heldBehind t v.nextId || decide (v.logCount (keyCtx t) < 256))) = true)
    (hc : v.entriesOf e (v.issueOf t) < cap) : MayQueue v t e cap flag :=
  ⟨mayAccess_of (by simpa using h), hc⟩

theorem witness_MatrixCommandsIssue :
    let e (v : State) (t : Nat) : Eng := .matrix (v.coreOf t)
    (∀ d ∈ [(0 : BitVec 3), 1], (addressed.tileOf 1024 d.toNat).isSome) ∧ addressed.tileOf 1024 2 = none ∧
    Meets addressed 2 (fun v t => (flagNamed (v.thr t) 0).isSome ∧ Unhindered [4] [] none v t ∧ (let q := popped v t [4]
      (q.1.engPlace t ((q.1.thr t).rdA 1)).isSome ∧ MayQueue q.1 t (e q.1 t) 16 (flagNamed (v.thr t) 0))) ∧
    Meets addressed 2 (fun v t => Unhindered [58, 59] [] none v t ∧ (let q := popped v t [58, 59]
      (q.1.engPlace t ((q.1.thr t).rdA 2)).isSome ∧ MayQueue q.1 t (e q.1 t) 16 none)) ∧
    Meets addressed 2 (fun v t => isPair 58 = true ∧ v.drainBuffers (v.coreOf t) < 4 ∧ ((v.thr t).rdA 1).toNat / 2 ^ 60 ≠ 0xC ∧
      (v.tileOf t 1).isSome) ∧
    Meets (ug (fun g => { g with tileCount := 2 }) (fun x => x.wrA 1 0xC000000000000000)) 2
      (fun v t => v.drainBuffers (v.coreOf t) < 4 ∧ ((v.thr t).rdA 1).toNat / 2 ^ 60 = 0xC ∧ (v.tileOf t 1).isSome ∧
        Unhindered [4] [] none v t ∧ (let q := popped v t [4]
          MayQueue q.1 t (e q.1 t) 16 (flagNamed (v.thr t) 0))) :=
  ⟨by decide +kernel, by decide +kernel,
   meets (by decide +kernel) ⟨by decide +kernel, ⟨by decide +kernel, by decide +kernel⟩, by decide +kernel,
     mayQueue_of (by decide +kernel) (by decide +kernel)⟩,
   meets (by decide +kernel) ⟨⟨by decide +kernel, by decide +kernel⟩, by decide +kernel,
     mayQueue_of (by decide +kernel) (by decide +kernel)⟩,
   meets (by decide +kernel) (by decide +kernel),
   meets (by decide +kernel) ⟨by decide +kernel, by decide +kernel, by decide +kernel, ⟨by decide +kernel, by decide +kernel⟩,
     mayQueue_of (by decide +kernel) (by decide +kernel)⟩⟩

/-- XGUARD of a tile without a command under way, and a tile outside the grant. -/
theorem witness_TileStatus : Meets addressed 2 (fun v t => ∃ k, v.tileOf t 1 = some k ∧ v.tileWaits (keyCtx t) k v.nextId (fun _ => true) = false) ∧
    Alone u sl 0 2 ∧ u.tileOf 1024 0 = none :=
  ⟨meets (by decide +kernel) ⟨2, by decide +kernel, by decide +kernel⟩, alone_of (by decide +kernel), by decide +kernel⟩

/-- A streamer command with the last tag of core 7 of cluster 0; one of another cluster; a group that is no producer. -/
theorem witness_StreamerCommandsIssue :
    let tagOk (v : State) (t : Nat) (w : Word) : Prop := w.toNat < 2 ^ 15 ∧ w.toNat / 2 ^ 7 / 8 = coreCluster (v.coreOf t)
    let s (w : Word) : State := addressed.modThr 1024 (fun x => x.wrG 4 w)
    Meets (s 0x3FF) 2 (fun v t => Unhindered [4] [] none v t ∧ (let q := popped v t [4]
      (q.1.group (q.1.thr t).group).producer = true ∧ tagOk q.1 t (q.2.getD 0 0) ∧ (q.1.engPlace t ((q.1.thr t).rdA 1)).isSome ∧
      MayQueue q.1 t (.streamer (coreCluster (q.1.coreOf t))) 64 (flagNamed (v.thr t) 0))) ∧
    (Alone (s 0x400) sl 0 2 ∧ someEmpty ((s 0x400).thr 1024) [4] [] = false ∧ ¬ tagOk (s 0x400) 1024 (((s 0x400).thr 1024).rdG 4)) ∧
    Alone u sl 0 2 ∧ (u.group (u.thr 1024).group).producer = false :=
  ⟨meets (by decide +kernel) ⟨⟨by decide +kernel, by decide +kernel⟩, by decide +kernel, by decide +kernel, by decide +kernel,
     mayQueue_of (by decide +kernel) (by decide +kernel)⟩,
   ⟨alone_of (by decide +kernel), by decide +kernel, by decide +kernel⟩, alone_of (by decide +kernel), by decide +kernel⟩

/-- BIND with a 64-byte aligned address and with others; a command that names a binding and a tag word of the partition. -/
theorem witness_StandingProductsIssue :
    Meets addressed 2 (fun v t => (flagNamed (v.thr t) 0).isSome ∧ canonical ((v.thr t).rdA 1) = true ∧
      ((v.thr t).rdA 1).toNat % 64 = 0 ∧ MayQueue v t (.spe (coreDie (v.coreOf t))) 64 (flagNamed (v.thr t) 0)) ∧
    (Alone misaligned sl 0 2 ∧ ((misaligned.thr 1024).rdA 1).toNat % 64 ≠ 0 ∧ canonical ((addressed.thr 1024).rdA 2) = false) ∧
    Meets addressed 2 (fun v t => Unhindered [4, 5] [] none v t ∧ (let q := popped v t [4, 5]
      let w : Word := q.2.getD 1 0
      (w.toNat < 2 ^ 15 ∧ w.toNat / 2 ^ 7 < 224 ∧
        q.1.partOf (coreDie (w.toNat / 2 ^ 7)) = q.1.partOf (coreDie (q.1.coreOf t))) ∧
      MayQueue q.1 t (.spe (q.1.speDie (q.1.partOf (coreDie (q.1.coreOf t))) (q.2.getD 0 0).toNat)) 64 none)) :=
  ⟨meets (by decide +kernel) ⟨by decide +kernel, by decide +kernel, by decide +kernel,
     mayQueue_of (by decide +kernel) (by decide +kernel)⟩,
   ⟨alone_of (by decide +kernel), by decide +kernel, by decide +kernel⟩,
   meets (by decide +kernel) ⟨⟨by decide +kernel, by decide +kernel⟩, by decide +kernel,
     mayQueue_of (by decide +kernel) (by decide +kernel)⟩⟩

/-- A prefix command with an address and two operands. -/
theorem witness_PrefixCommandsIssue : Meets addressed 2 (fun v t => (flagNamed (v.thr t) 1).isSome ∧
    Unhindered [2, 3] [] none v t ∧ (let q := popped v t [2, 3]
      (q.1.engPlace t ((q.1.thr t).rdA 1)).isSome ∧ MayQueue q.1 t (.pfx (coreDie (q.1.coreOf t))) 64 (flagNamed (v.thr t) 1))) :=
  meets (by decide +kernel) ⟨by decide +kernel, ⟨by decide +kernel, by decide +kernel⟩, by decide +kernel,
    mayQueue_of (by decide +kernel) (by decide +kernel)⟩

/-- Packed instructions: sources in one of the tags, and in tags that are refused. -/
theorem witness_PackedElements :
    (Issues packed sl 2 ∧ Filled packed sl [] [0, 2, 15] ∧ tagsIn [1, 2, 3, 0x0C] [(packed.thr 1024).rdW 2, (packed.thr 1024).rdW 2]) ∧
    (Alone packed sl 0 2 ∧ ¬ tagsIn [1, 2, 3, 0x0C] [(packed.thr 1024).rdW 1, (packed.thr 1024).rdW 2] ∧
      ¬ tagsIn [1, 2, 3, 0x0C] [(packed.thr 1024).rdW 0, (packed.thr 1024).rdW 0]) ∧
    (Meets packed 2 (Unhindered [] [2] (outPort 59)) ∧ Meets ported 2 (Unhindered [60] [2] none)) := by
  refine ⟨⟨issues_of (by decide +kernel), filled_of (by decide +kernel), 1, by decide, by decide +kernel⟩,
    ⟨alone_of (by decide +kernel), ?_, ?_⟩, meets (by decide +kernel) ⟨by decide +kernel, by decide +kernel⟩,
    meets (by decide +kernel) ⟨by decide +kernel, by decide +kernel⟩⟩ <;> unfold tagsIn <;> decide +kernel

/-- An access of the thread with one piece, under way as number 5 of a state. -/
def part (pa : Option Nat) (place : Place) (data : List Byte) (st : PieceState) : Piece :=
  { place := place, va := 0x2000, pa := pa, len := 4, pos := 0, data := data, poisoned := false, st := st }

def acc (op : AccOp) (lv : Level) (p : Piece) : Access :=
  { thr := 1024, core := 0, op := op, lv := lv, dst := .g 4 4, pieces := [p], flag := some 0, pc := 0x10004, asid := 1,
    resolved := false, discarded := false, due := 0 }

/-- Die 0 is in die-local mode, so that its agents' homes are on it. -/
def under (s : State) (a : Access) : State :=
  { s.modDie 0 (fun d => { d with ivlMode := true }) with accs := Tab.set {} 5 (some a), nextId := 9 }

def atHome : Piece := part (some 0x4000) .virt [1, 2, 3, 4] .queued

def inStore : Piece := part none (.lane 0) [1, 2, 3, 4] .queued

/-- The thread is the head of its store queue with a tag operation, a store to its lane store, a store to its home and one to L1. -/
theorem witness_StoresLeaveTheirQueue :
    ([(acc (.tset 1) .l1 inStore), acc (.tclr 1) .l1 inStore, acc .store .l1 inStore, acc .store .l2 atHome, acc .store .l1 atHome] :
      List Access).all (fun a => let s := under u a
        s.keyOf ⟨0, 0, 0⟩ == 1024 && s.storeHead 1024 == some (5, a) && s.mayLeave 1024 5 (a.pieces.headD atHome)) = true ∧
    (under u (acc .store .l2 atHome)).registers .l2 atHome (State.wholeWords (acc .store .l2 atHome)) = false ∧
    (let s := under u (acc .store .l1 atHome)
     s.registers .l1 atHome (State.wholeWords (acc .store .l1 atHome)) = true ∧ s.regns.get s.nextId = none ∧ s.accs.wf = true ∧
      (∀ e ∈ s.accsOf 1024, e.1 ≠ 5 → e.2.op.isStore = false) ∧ (({ s with nextId := 10 } : State).l1Room 0 0x4000).isSome) := by
  decide +kernel

theorem mayPass_of {s : State} {core pa id seq : Nat} (h : (!s.barred id && !s.portWaits (coreDie core) pa &&
    !s.sentBefore core (pa / 256) seq) = true) : MayPass s core pa id seq := by
  simpa [MayPass, and_assoc] using h

/-- The budgets of a class have no limit; they have room for every request then. -/
def roomy (s : State) (cls : Nat) : Bool :=
  (List.range 4).all (fun d => decide (1024 ≤ (s.die d).bgtLoop.get cls) && decide (0x7FF ≤ (s.die d).bgtHbm.get cls))

theorem unlimited {s : State} {cls : Nat} (h : roomy s cls = true) (v : State) {die : Nat} (hd : die < 4) (stop id : Nat) :
    HasBudget s v die cls stop id := by
  have h : ∀ d, d < 4 → 1024 ≤ (s.die d).bgtLoop.get cls ∧ 0x7FF ≤ (s.die d).bgtHbm.get cls := by simpa [roomy] using h
  simp only [HasBudget, State.needs, List.all_cons, List.all_map, Bool.and_eq_true, List.all_eq_true, Function.comp]
  refine ⟨by simp [State.affords, Nat.not_lt.mpr (h die hd).1], fun q hq => ?_⟩
  have : q < 4 := by simpa using (List.mem_filter.mp hq).1
  simp [State.affords, Nat.not_lt.mpr (h q (by omega)).2]

/-- Register requests, loads from a queue, a level and the home, a store and an atomic at the home, a forward and a write-back. -/
def regned : State :=
  { under u (acc .load .l1 inStore) with
    accs := {}
    regns := Tab.set {} 5 (some { core := 0, block := 64, words := [4096], covers := [], epoch := 0 }) }

theorem witness_registration : (regned.regns.get 5).isSome ∧ MayPass (rested regned) 0 (64 * 256) 5 5 ∧ regned.homeLost 0 (64 * 256) = false ∧
    regned.captureHeld [4096] = false ∧ regned.shared 16384 = false ∧ HasBudget regned ((rested regned).acceptRegn 5) 0 0 0 5 :=
  ⟨by decide +kernel, mayPass_of (by decide +kernel), by decide +kernel, by decide +kernel, by decide +kernel,
    unlimited (by decide +kernel) _ (by decide) 0 5⟩

def twoAccs : State :=
  { under u (acc .load .l1 inStore) with accs := ⟨[(3, some (acc .store .l1 inStore)), (5, some (acc .load .l1 inStore))]⟩ }

theorem witness_loads :
    (let s := rested twoAccs
     s.gleanerBars 1024 0 inStore = false ∧ s.barred 5 = false ∧ s.heldBehind 1024 5 = false ∧ s.loadsFixed 1024 5 = true ∧
      (match s.ownStores 1024 5 inStore with | .bytes bs => bs == [1, 2, 3, 4] | _ => false) = true) ∧
    (let s := rested (under u (acc .load .l1 inStore))
     s.gleanerBars 1024 0 inStore = false ∧ s.barred 5 = false ∧ s.heldBehind 1024 5 = false ∧ s.loadsFixed 1024 5 = true ∧
      (match s.ownStores 1024 5 inStore with | .nothing => true | _ => false) = true) ∧
    (let s := rested (under u (acc .load .l2 atHome))
     roomy (under u (acc .load .l2 atHome)) 0 = true ∧ (match s.ownStores 1024 5 atHome with | .nothing => true | _ => false) = true ∧ s.shared 0x4000 = false ∧
      s.loadsFixed 1024 5 = true ∧ (∀ w ∈ wordsOf 0x4000 4, s.elsewhere 0 w = false) ∧ s.homeLost 0 0x4000 = false ∧
      s.gleanerBars 1024 0 atHome = false ∧ s.barred 5 = false ∧ s.heldBehind 1024 5 = false ∧ MayPass s 0 0x4000 5 s.nextId) := by
  refine ⟨by decide +kernel, by decide +kernel, ?_⟩
  simp only [MayPass]
  decide +kernel

/-- A store at its home, and an atomic that writes and a compare that fails; there is budget for what they change. -/
theorem witness_stores_and_atomics :
    (let p := part (some 0x4000) .virt [1, 2, 3, 4] (.sent 6)
     let s := rested (under u (acc .store .l2 p))
     roomy (under u (acc .store .l2 p)) 0 = true ∧ (s.storePhys 0 0x4000 0 [1, 2, 3, 4]).isSome ∧ MayPass s 0 0x4000 5 6 ∧
      s.gleanerBars 1024 0 p = false ∧ s.regns.get 6 = none ∧ p.poisoned = false ∧ s.homeLost 0 0x4000 = false) ∧
    (let a := acc (.rmw 0 7) .l2 atHome
     let s := rested (under u a)
     roomy (under u a) 0 = true ∧ a.op.isLoad = true ∧ a.op ≠ .load ∧ s.loadsFixed 1024 5 = true ∧ s.heldBehind 1024 5 = false ∧
      s.elsewhere 0 0x1000 = false ∧ s.gleanerBars 1024 0 atHome = false ∧ atHome.poisoned = false ∧ s.ownPending 1024 5 atHome = false ∧
      s.poisonedAt 0x4000 4 = false ∧ s.homeLost 0 0x4000 = false ∧ AccOp.writes (.rmw 0 7) 0 = some 7 ∧
      (s.storePhys 0 0x4000 (s.seen.get 0) (leBytes 4 7)).isSome ∧
      AccOp.writes (.cas 1 2) 0 = none ∧ MayPass s 0 0x4000 5 s.nextId) := by
  simp only [MayPass]
  decide +kernel

/-- A word that core 9 owns and the thread of core 0 asks for; the last line, of which nothing is on its way. -/
theorem witness_forward :
    (let s : State := { under u (acc .load .l2 atHome) with owner := Tab.set {} 0x1000 10 }
     s.ownerOf 0x1000 = some 9 ∧ wordsOf 0x4000 4 = [0x1000] ∧ (s.accs.get 5).isSome) ∧
    (2 ^ 33 - 1 < 2 ^ 33 ∧ ∀ w, w / 32 = 2 ^ 33 - 1 → u.regnPending 0 w = false) :=
  ⟨by decide +kernel, by decide, fun _ _ => rfl⟩

/-- A loaded word that is due and whole, one that is poisoned, and the thread that waits for it. -/
theorem witness_AccessesComplete :
    (let a := acc .load .l2 (part (some 0x4000) .virt [1, 2, 3, 4] .done)
     let s := under u a
     s.threads.wf = true ∧ s.accs.get 5 = some a ∧ (∀ p ∈ a.pieces, p.st = .done) ∧ a.op = .load ∧ a.due ≤ s.cycle ∧
      a.discarded = false ∧ s.replyBehind 5 a = false ∧ (s.thr a.thr).run ≠ .exited ∧ (s.thr a.thr).run ≠ .free ∧ (s.ctx (keyCtx a.thr)).state = .active ∧
      (∀ p ∈ a.pieces, p.poisoned = false)) ∧
    (let p := { part (some 0x4000) .virt [1, 2, 3, 4] .done with poisoned := true }
     let a := acc .load .l2 p
     a.op.isLoad = true ∧ a.pieces.find? Piece.poisoned = some p) := by decide +kernel

/-- Loaded values of every destination. -/
theorem witness_LoadedValues :
    (let p := atHome; p.pos = 0 ∧ p.len = p.data.length ∧ (∀ y, y < 5 → typeBytes (BitVec.ofNat 3 y) ≤ p.len)) ∧
    (let p : Piece := { atHome with len := 8, data := leBytes 8 5 }; p.pos = 0 ∧ p.len = p.data.length ∧ p.len = 8) ∧
    (let p : Piece := { atHome with len := 32, data := leBytes 32 5 }; p.pos = 0 ∧ p.len = p.data.length ∧ p.len = 32) := by
  decide +kernel

/-- A walk that has yet to find a walker, one that goes on, one that ends in a page and one that ends in the log. -/
theorem witness_walks :
    let walking (at_ : Option Nat) (cycle : Nat) : State :=
      { under u { acc .load .l2 (part none .virt [] .walk) with walkAt := at_ } with cycle := cycle }
    (walking none 0).walksOn 0 < 96 ∧
    (walking (some 0) 1).cycle < 0 + 130 * (walking (some 0) 1).walkLevels 0 1 0x2000 .read ∧
    (let s := walking (some 0) 1000
     0 + 130 * s.walkLevels 0 1 0x2000 .read ≤ s.cycle ∧
     (match s.translate 0 1 0x2000 .read with | .ok _ => false | .error f => f == .unmapped) = true ∧ s.logCount 1 < 256) ∧
    (let s := withPage (walking (some 0) 1000) 0x2000 0x4000
     0 + 130 * s.walkLevels 0 1 0x2000 .read ≤ s.cycle ∧
     (match s.translate 0 1 0x2000 .read with | .ok r => r.2 == 0x4000 | .error _ => false) = true) := by
  decide +kernel

/-- A page of the process, at the address 0 on, whose leaf names frame 3. -/
def tabled (s : State) : State := { s with
  roots := Tab.set {} 1 0x1001
  xshr := Tab.set {} 0 (0, 1)
  mem := [(0x1000, 0x801), (0x2000, 0xC01), (0x3000, 0x1001), (0x4000, 0x1800DF)].foldl (fun m e => Memory.store m e.1 (leBytes 8 e.2)) {} }

/-- An entry that the attendant holds, one of a page that is being moved, and one that is resolved. -/
theorem witness_FaultsAreResolvedAndReplayed :
    (let s0 := under u (acc .load .l2 (part none .virt [] (.logged .unmapped)))
     let s : State := { s0 with rm := { s0.rm with state := .running } }
     s.inMigration 1 0x2000 = false ∧ (s.ctx 1).state = .active ∧ s.threads.wf = true ∧
      s.fateStands 5 0 1 0x2000 [.read] .unmapped .outside = true ∧ s.fateStands 5 0 1 0x2000 [.read] .unmapped .resolve = false ∧
      s0.fateStands 5 0 1 0x2000 [.read] .unmapped .outside = false ∧ s.fateStands 5 0 1 0x2000 [.read] .walkUE .walkUE = true) ∧
    (let s : State := { tabled (under u (acc .load .l2 (part none .virt [] (.logged .permission)))) with
       frames := Tab.set {} 3 { state := .migrating, asid := 1, va := 0 } }
     s.inMigration 1 0x2000 = true ∧ s.fateStands 5 0 1 0x2000 [.read] .unmapped .resolve = true) ∧
    (let s := withPage (under u { acc .load .l2 (part none .virt [] (.logged .unmapped)) with resolved := true }) 0x2000 0x4000
     s.heldBehind 1024 5 = false ∧ (match s.translate 0 1 0x2000 .read with | .ok r => r.2 == 0x4000 | .error _ => false) = true) := by
  decide +kernel

/-- A trap of a load that its reply carries. -/
theorem witness_LateTraps :
    let l : LateTrap := { thr := 1024, cause := .poison, code := 0x0103, pc := 0x10004, va := some 0x2000, pa := some 0x4000, flag := some 0, batch := 7 }
    let s : State := { u with late := Tab.set {} 5 (some l) }
    let r : LateRec := { batch := 7, place := { mirror := 0, ring := none, part := 0, tail := 0 } }
    let e : ErrRec := { code := 0x0103, sev := 2, action := 0, eclass := 0, part := 0, einst := 0 }
    let t : State := { s with groups := s.groups.modify 1 (fun g => { g with late := [r] }), rm := { s.rm with mirror := [e] } }
    s.threads.wf = true ∧ (s.late.get 5).isSome ∧ (s.thr 1024).run = .runnable ∧ (s.group (s.thr 1024).group).state = .running ∧
      (s.ctx (keyCtx 1024)).state = .active ∧ l.thr < 2 ^ 40 ∧
      (s.group 1).late.find? (fun r => r.batch == l.batch && s.unread r.place) = none ∧
      (t.group 1).late.find? (fun r => r.batch == l.batch && t.unread r.place) = some r ∧ t.rm.mirror[r.place.mirror]? = some e := by decide +kernel

/-- A kernel of 2 groups of 4 threads whose snapshot stands in a launch queue of die 0, with a bank that takes its groups. -/
def launching : State :=
  { ug (fun g => { g with state := .pending, ctx := 0 }) (fun _ => {}) with
    kernels := u.kernels.modify 1 (fun k => { k with state := .enqueued, record := launchRec, groups := [1] })
    queues := Tab.set {} 0x3040 { state := .busy, kind := 2, cap := 2, tail := 1, entries := [1] }
    pends := Tab.set {} 4 (some ⟨1, 0, [1], 0, none, false, 0, false⟩)
    nextId := 9 }

/-- The launch path: an entry that is taken, a group that is placed, and its arrival. -/
theorem witness_schedulerTakeLaunch : (launching.queue 0x3040).entries = [1] ∧ (launching.queue 0x3040).kind = 2 ∧
    queueDie 0x3040 = 0 ∧ (launching.kernel 1).state = .enqueued ∧ launching.priorWaits = false ∧ (launching.kernel 1).valid = true ∧
    (u.kernel 1).valid = false := by decide +kernel

theorem witness_pendingGroupPlace : launching.pends.get 4 = some ⟨1, 0, [1], 0, none, false, 0, false⟩ ∧
    CanPlace launching (launching.kernel 1) 0 0 0 ∧ (launching.kernel 1).serves = 0 ∧
    (launching.room (launching.kernel 1) ((launching.core 0).ctxIn 0) (launching.kernel 1).threads).isSome ∧
    (launching.unitBase (launching.kernel 1) ⟨1, 0, [1], 0, none, false, 0, false⟩ (coreCluster 0)).isSome ∧
    launching.priorWaits = false ∧ launching.shadowTooSoon (launching.kernel 1) ⟨1, 0, [1], 0, none, false, 0, false⟩ 0 0 = false ∧
    (let s : State := { (launching.modCore 0 (fun c => { c with ctx1 := 2 })) with
      ctxs := launching.ctxs.set 2 { state := .shadow, core := 0, bank := 1, asid := 1 } }
     CanPlace s (s.kernel 1) 0 1 0 ∧ s.shadowTooSoon (s.kernel 1) ⟨1, 0, [1], 0, none, false, 0, false⟩ 0 1 = true) :=
  ⟨by decide +kernel, ⟨by decide +kernel, by decide +kernel, by decide +kernel, by decide +kernel, by decide +kernel⟩,
   by decide +kernel, by decide +kernel, by decide +kernel, by decide +kernel, by decide +kernel,
   ⟨by decide +kernel, by decide +kernel, by decide +kernel, by decide +kernel, by decide +kernel⟩, by decide +kernel⟩

theorem witness_placementArrival :
    let p : Placement := ⟨1, 1, [0, 1, 2, 1023]⟩
    let s : State := { launching with placements := Tab.set {} 5 (some p) }
    s.placements.get 5 = some p ∧ p.slots.Nodup ∧ (∀ k ∈ p.slots, k < 1024) ∧ (s.group p.group).state = .pending ∧ s.priorWaits = false := by
  decide +kernel

/-- A unit of the second group goes to die 3 of the same partition; steals; a formation. -/
theorem witness_unitHandoff :
    let p : PendUnit := ⟨1, 1, [2], 0, none, false, 0, false⟩
    let s : State := { launching with
      pends := Tab.set {} 4 (some p), owners := 0, groups := ⟨[(1, {}), (2, { state := .pending, kernel := 1, gnum := 1 })]⟩,
      kernels := launching.kernels.modify 1 (fun k => { k with groups := [1, 2] }) }
    let kr := s.kernel 1
    let lv := ((kr.levels.filter (fun i => kr.domain i ≤ 3)).getLast?).getD kr.groupLevel
    let per := max 1 (kr.sizes kr.groupLevel (max lv kr.groupLevel))
    per = 1 ∧ (s.group 2).gnum.toNat / per = 1 ∧ State.boundGroups kr ≤ 1 * per ∧ s.partOf 3 = s.partOf p.die ∧
    (∀ e ∈ s.pends.cells, ∀ q ∈ e.2, q.shipped = false) ∧ ∀ g ∈ kr.groups, (s.group g).gnum.toNat / per = 1 → (s.group g).state = .pending ∧ (s.group g).ctx = 0 := by decide +kernel

theorem witness_steals :
    (27 < 28 ∧ launching.placeable 27 = false ∧ (∀ e ∈ launching.pends.cells, ∀ p, e.2 = some p → p.cluster ≠ some 27) ∧ launching.steals.cells = []) ∧
    (let x : Steal := ⟨6, 0⟩
     let may (s : State) (e : Nat × Option PendUnit) : Bool := match e.2 with
      | some p => p.cluster == some x.asked && !p.begun && !p.shipped && (s.kernel p.kernel).portable && (s.kernel p.kernel).serves == 0
      | none => false
     let s : State := { launching with pends := Tab.set {} 4 (some ⟨1, 0, [1], 0, some 0, false, 0, false⟩) }
     s.pends.cells.find? (may s) = some (4, some ⟨1, 0, [1], 0, some 0, false, 0, false⟩) ∧ launching.pends.cells.find? (may launching) = none) := by
  refine ⟨⟨by decide, by decide +kernel, ?_, by decide +kernel⟩, by decide +kernel, by decide +kernel⟩
  intro e he p hp
  have : e = (4, some ⟨1, 0, [1], 0, none, false, 0, false⟩) := by simpa [launching, ug, Tab.set, insertKey] using he
  subst this
  cases hp
  decide

theorem witness_formationRound : u.cycle % 8 = 0 ∧
    0 ∈ (ux (fun x => { x with gate := false })).slotsOf 1 (fun x => x.run == .runnable && !x.gate) ∧ 0 % 4 = 0 := by
  decide +kernel

/-- A halting group; a halted one whose threads can go on, one whose thread cannot, and one that a trap service group serves. -/
def haltedAs (h : Nat) (run : RunState) : State :=
  ug (fun g => { g with state := .halted, handler := some h, cause := 1 }) (fun x => { x with run := run, gate := false, off := 0 })

def haltedHere (h : Nat) : State := { haltedAs h .stopped with
  kernels := u.kernels.modify 1 (fun k => { k with code := Memory.store {} 0 [0x7F, 0x02, 0, 0] }) }

theorem witness_HaltsAndHandlers :
    (let s := ug (fun g => { g with state := .halting, cause := 6 }) id
     s.threads.wf = true ∧ (s.group 1).state = .halting ∧ (s.kernel 1).state ≠ .cancelling ∧ (s.core 0).cmdBusy ≠ some .swapWait ∧ (s.kernel 1).trapGrp = 0) ∧
    (let kr : Kernel := { state := .enqueued, serves := 1 }
     let s : State := { haltedAs 1 .stopped with kernels := u.kernels.set 2 kr, now := 1000000 }
     (s.group 1).state = .halted ∧ (s.group 1).handler = some 1 ∧ (s.group 1).servedAt + 1000000 ≤ s.now ∧
      s.kernels.cells.find? (fun e => e.2.serves == 1 && e.2.state == .enqueued) = some (2, kr) ∧ s.kernel 2 = kr) ∧
    (let s := haltedHere 0
     s.groupSlots 1 (fun y => y.run == .stopped) = [0] ∧ (s.group 1).handler ≠ some 2 ∧ s.resumable 1024 = .yes ∧
      (haltedAs 0 .stopped).resumable 1024 = .no ∧ (s.group 1).ctx ≠ 0 ∧ s.accs.cells = [] ∧
      ((s.kernel 1).state = .running)) ∧
    (let s : State := { haltedHere 2 with rm := { u.rm with state := .reduced } }
     (s.group 1).handler = some 2 ∧ s.rm.state = .reduced ∧ s.heldInTurn (.trap 1) = true) ∧
    (match (haltedHere 0 |>.modThr 1024 (fun x => { x with hdr := 0x100000000 })).resumable 1024 with
      | .fault f va => f == .unmapped && va == 0x100000000
      | _ => false) = true ∧
    (let s : State := { ug (fun g => { g with state := .halting }) id with
      kernels := u.kernels.modify 1 (fun k => { k with state := .cancelling }) }
     (s.group 1).state = .halting ∧ (s.kernel 1).state = .cancelling) := by decide +kernel

/-- Groups that are evicted, recalled and retired; a slot that is freed; kernels that end. -/
def waitingAtBarrier : State :=
  { launching with
    groups := u.groups, threads := u.threads.modify 1024 (fun x => { x with run := .blocked (.barrier 0) })
    kernels := (u.kernels.set 2 { state := .enqueued, asid := 1, record := Memory.store launchRec 0x18 (leBytes 4 (1024 * 65536)) })
    pends := Tab.set {} 4 (some ⟨2, 0, [], 0, none, false, 0, false⟩) }

theorem witness_groupEvict : (waitingAtBarrier.group 1).state = .running ∧
    waitingAtBarrier.groupSlots 1 (fun y => y.run != .exited) = [0] ∧ (waitingAtBarrier.thr 1024).run = .blocked (.barrier 0) ∧
    waitingAtBarrier.slotsNeeded 1 = true ∧ 1 < 2 ^ 30 ∧ 1024 < 2 ^ 80 := by decide +kernel

theorem witness_groupRecall :
    let s : State := { ug (fun g => { g with state := .evicted, recalled := true }) (fun _ => {}) with
      evicted := Tab.set {} 1024 { run := .blocked (.barrier 0), group := 1 } }
    (s.group 1).state = .evicted ∧ (s.group 1).recalled = true ∧ (s.ctx 1).state = .active ∧
      (s.evicted.keys.filter (fun k => k / 1024 == 1)).map (fun k => k % 1024) = [0] ∧ (s.thr 1024).run = .free ∧
      s.reserved 1 = [] ∧ (s.group 1).ctx < 2 ^ 30 := by decide +kernel

theorem witness_ends :
    (let s := ug (fun g => { g with state := .retiring }) (fun _ => {})
     (s.group 1).state = .retiring ∧ s.groupSlots 1 (fun _ => true) = [] ∧ (s.group 1).serves = 0 ∧
      (let v : State := { s with cmds := Tab.set {} 5 (some { u.newCmd 1024 (.matrix 0) (.xzero 0) [] none 0 with kernel := 1 }) }
       (v.kernel 1).state = .running ∧ ({ v with groups := v.groups.modify 1 (fun g => { g with state := .retired }) } : State).allEnded 1 = true ∧ v.engineWork 1 = true)) ∧
    (let s := ux (fun x => { x with run := .exited })
     s.keyOf ⟨0, 0, 0⟩ = 1024 ∧ (s.thr 1024).run = .exited ∧ s.inFlight 1024 = false) ∧
    (let s := ug (fun g => { g with state := .retired }) id
     KernelOver s 1 ∧ (s.kernel 1).state = .running ∧ (s.kernel 1).groups ≠ [] ∧ (s.kernel 1).doneVa = 0) ∧
    (let s : State := { ug (fun g => { g with state := .retired }) id with
      kernels := Tab.set {} 1 { state := .cancelling, groups := [1], asid := 1, record := Memory.store {} 0x50 (leBytes 8 0x5000) }
      dies := u.dies.modify 0 (fun d => { d with tlb := [⟨1, 0, 0x5000, 0x5000, true, true, true, true⟩] }) }
     (s.kernel 1).state = .cancelling ∧ (s.kernel 1).doneVa ≠ 0 ∧ (s.kernel 1).doneOk = true ∧
      (match s.translateDie 0 1 (s.kernel 1).doneVa.toNat .write with | .ok r => r.2 == 0x5000 | .error _ => false) = true) ∧
    ((launching.kernel 1).state = .enqueued ∧ (u.kernel 1).state = .running ∧ u.accs.cells = []) := by
  refine ⟨by decide +kernel, by decide +kernel, ⟨⟨by decide +kernel, by decide +kernel⟩, by decide +kernel, by decide +kernel,
    by decide +kernel⟩, by decide +kernel, by decide +kernel⟩

/-- A release that is due, of slots 0 and 1,023. -/
theorem witness_barrierRelease :
    let b : Barrier := { granted := true, expect := 1, phase := true, group := 1, releasing := [(0, [0, 1023])] }
    let s := uc (fun c => { c with barriers := Tab.set {} 31 b }) (fun x => { x with run := .blocked (.barrier 31), sync := some 31 })
    (s.core 0).ctxIn 0 = 1 ∧ (s.ctx 1).state ≠ .loading ∧ (s.barrier 1 31).releasing = [(0, [0, 1023])] ∧ 0 ≤ s.cycle ∧
      (s.thr 1024).run = .blocked (.barrier 31) := by decide +kernel

/-- Ports of the thread that issues; a descriptor that is written; a queue that is reopened. -/
theorem witness_queuePorts : ported.sel = some sl ∧ ported.keyOf ⟨0, 0, 0⟩ = 1024 ∧ keyCtx 1024 = sl.ctx ∧ keySlot 1024 ∈ sl.slots ∧
    ported.portHinder 1024 [] (some 3) = none ∧ ported.portHinder 1024 [0] none = none ∧ (ported.thr 1024).portIn.get 0 = none := by
  decide +kernel

/-- A page table that maps the descriptor's page. -/
def rooted : State := { u with
  roots := Tab.set {} 1 (0x10000 + 1)
  mem := [(0x10000, 0x11), (0x11000, 0x12), (0x12000, 0x13), (0x13000, 0x14)].foldl (fun m e => Memory.store m e.1 (leBytes 8 (e.2 * 1024 + 1)))
    (Memory.store {} (0x14000 + 8 * 3) (leBytes 8 (3 * 1024 + 16 + 6 + 1))) }

theorem witness_queueSteps :
    (rooted.physOf 1 0x3040 = some 0x3040 ∧ (rooted.queue 0x3040).state = .free ∧ (0x3040 : DWord).toNat % 64 = 0) ∧
    (let s := uq 0x3040 { state := .closed } id
     (s.queue 0x3040).state = .closed) ∧
    (let q : Queue := { state := .full, kind := 3, cap := 2, tail := 2 }
     let s := uq 0x3040 q id
     (s.queue 0x3040).kind = 3 ∧ (s.queue 0x3040).state = .full) ∧
    (let s := uq 0x3040 { state := .busy, kind := 3, cap := 2, tail := 1 } id
     (s.queue 0x3040).kind = 3 ∧ (s.queue 0x3040).state = .busy ∧ s.heldResult 0x3040 = none) := by decide +kernel

/-- A notify of an open session that is newer and in range, and one of a session that is not open. -/
theorem witness_notify :
    let s : State := { uq 0x3040 { state := .empty, kind := 4, cap := 16, session := 7, va := 0x3040 } id with
      sessions := Tab.set {} 7 { opened := true, key := 5, highest := 1 } }
    let q := s.queue 0x3040
    (s.queueAt 0x3040 7 = some 0x3040 ∧ (s.sessions.get 7).opened = true ∧ (s.sessions.get 7).highest.toNat < (2 : DWord).toNat ∧
      0 < ((16 : Word) - q.tail).toNat ∧ ((16 : Word) - q.tail).toNat < 2 ^ 31 ∧ ((16 : Word) - q.head).toNat ≤ q.cap ∧
      q.state ≠ .closing ∧ q.state ≠ .closed) ∧ (s.sessions.get 8).opened = false ∧ 0x3040 % 64 = 0 ∧ Unwatched s 0x3040 64 :=
  ⟨by decide +kernel, by decide +kernel, by decide, fun _ _ _ _ => rfl⟩

/-- A push, a pop and a try at the heap of die 0, of one entry and of none. -/
theorem witness_heapArrival :
    let o (k : HeapKind) : HeapOp := ⟨1024, 0, k, 3, 5, 4, 2, some 0, 0x10004, false, 0, 0⟩
    let s (k : HeapKind) (h : List (Word × DWord)) : State := { heaped with heapOps := Tab.set {} 5 (some (o k)), heaps := Tab.set {} 0 h }
    (s .push []).heapNext 0 false = some (5, o .push) ∧ ((s .push []).heaps.get 0).length < 16384 ∧ (s .push []).heapNext 0 true = none ∧
      (s .try_ []).heaps.get 0 = [] ∧ (s .pop []).heaps.get 0 = [] ∧ (s .pop [(1, 2)]).heaps.get 0 ≠ [] ∧ (o .pop).die = 0 ∧ (o .push).due ≤ (s .push []).cycle ∧
      ((s .push []).thr 1024).run = .runnable ∧ ((s .push []).ctx 1).state = .active := by decide +kernel

theorem witness_heap_full : (List.replicate 16384 ((0 : Word), (0 : DWord))).length = 16384 := List.length_replicate

/-- A handle whose tag is forged names a core that does not exist; any entry's own tag makes a handle that is not. -/
theorem witness_forged : u.forged 0xE000000000000000 = true := by decide +kernel

/-- The core of the sender is alone on its die; the target may be reached, or is of another partition, or loads. -/
theorem witness_posts_reach :
    let p (h : DWord) : Post := ⟨1024, 0, h, 0, false, 7, {}, false, 0, false, false, some 0, 0x10004, 0, .out, 0, false, 0, 0⟩
    u.postBarred (p 0) = false ∧ (u.modDie 0 (fun d => { d with peers := 0 })).postBarred (p 0) = true ∧
    ({ u with owners := 0xE4 } : State).postBarred (p (0x38 * 2 ^ 56)) = true ∧
    u.targetLoads 0 = false ∧ (u.thr 1024).gEmpty.get 4 = false ∧ ((ux (fun x => { x with gEmpty := x.gEmpty.set 4 true })).thr 1024).gEmpty.get 4 = true ∧
    ({ u.modCore 0 (fun c => { c with handles := Tab.set {} 0 { state := .live, ctx := 1 } }) with
      ctxs := u.ctxs.modify 1 (fun c => { c with state := .loading }) } : State).targetLoads 0 = true := by decide +kernel

/-- A post that may be presented, to a live entry of the thread; replies; a remote one that is 100 µs old. -/
def posting (st : PostStage) (remote revoke : Bool) (h : DWord) : State :=
  let p : Post := ⟨1024, 0, h, 0, false, 7, {}, remote, 0, revoke, false, some 0, 0x10004, 0, st, 0, false, 0, 0⟩
  { u.modCore 0 (fun c => { c with handles := Tab.set {} 0 { state := .live, ctx := 1, slot := 0, group := 1, first := 4, cnt := 2 } }) with
    posts := Tab.set {} 5 (some p), nextId := 9, now := 100000 }

theorem reach_of (h : DWord) (hc : handleCore h = 0) :
    let s := posting .out false false h
    let p : Post := ⟨1024, 0, h, 0, false, 7, {}, false, 0, false, false, some 0, 0x10004, 0, .out, 0, false, 0, 0⟩
    s.mayPresent 5 p = true ∧ s.postBarred p = false := by
  simp only [State.mayPresent, State.postPorts, State.postBarred, hc]
  have hd : ((posting .out false false h).die (coreDie 0)).peers.getLsbD (coreDie 0) = true :=
    (by decide +kernel : (u.die 0).peers.getLsbD 0 = true)
  exact ⟨rfl, by simp [hd]⟩

theorem witness_postArrival :
    let h := u.handleWord 0 0 0
    let s := posting .out false false h
    (handleCore h = 0 ∧ handleIdx h = 0 ∧ handleGen h = 0 ∧ s.forged h = false) ∧
    s.posts.get 5 = some ⟨1024, 0, h, 0, false, 7, {}, false, 0, false, false, some 0, 0x10004, 0, .out, 0, false, 0, 0⟩ ∧
    s.handle 0 0 = { state := .live, ctx := 1, slot := 0, group := 1, first := 4, cnt := 2 } ∧
    (∀ p, s.posts.get 5 = some p → s.mayPresent 5 p = true ∧ s.postBarred p = false) ∧ s.targetLoads h = false ∧
    roomy s 7 = true ∧ ((s.thr 1024).busy.get 4).due ≤ s.cycle ∧
    (let b := (s.modThr 1024 (fun x => { x with busy := x.busy.set 4 { due := 6, empty := true } })).thr 1024 |>.busy.get 4
     s.cycle < b.due ∧ b.empty = true) := by
  have hk : ∀ c : Word, cut (BitVec.ofNat 64 c.toNat).toNat 56 8 = 0 ∧ cut (BitVec.ofNat 64 c.toNat).toNat 44 12 = 0 ∧
      cut (BitVec.ofNat 64 c.toNat).toNat 32 12 = 0 ∧ DWord.lo (BitVec.ofNat 64 c.toNat) = c := by
    intro c
    have hc := c.isLt
    refine ⟨?_, ?_, ?_, ?_⟩
    · simp only [cut, BitVec.toNat_ofNat]; omega
    · simp only [cut, BitVec.toNat_ofNat]; omega
    · simp only [cut, BitVec.toNat_ofNat]; omega
    · apply BitVec.eq_of_toNat_eq
      simp only [DWord.lo, BitVec.truncate_eq_setWidth, BitVec.toNat_setWidth, BitVec.toNat_ofNat]; omega
  have hw : u.handleWord 0 0 0 = BitVec.ofNat 64 (u.ktagOf 0 0 0).toNat := by simp [State.handleWord]
  obtain ⟨h1, h2, h3, h4⟩ := hk (u.ktagOf 0 0 0)
  have e1 : handleCore (u.handleWord 0 0 0) = 0 := by rw [hw]; exact h1
  have e2 : handleIdx (u.handleWord 0 0 0) = 0 := by rw [hw]; exact h2
  refine ⟨⟨by rw [hw]; exact h1, by rw [hw]; exact h2, by rw [hw]; exact h3, ?_⟩, rfl, by simp [posting]; decide +kernel, fun p hp => ?_, by simp only [State.targetLoads, e1, e2]; rfl,
    by decide +kernel, by decide +kernel, by decide +kernel⟩
  case refine_2 => cases hp; exact reach_of _ e1
  have e3 : handleGen (u.handleWord 0 0 0) = 0 := by rw [hw]; exact h3
  have he : ∀ h, (posting .out false false h).ktagOf 0 0 0 = u.ktagOf 0 0 0 := fun h => by
    have : ((posting .out false false h).core 0).keyEpoch = (u.core 0).keyEpoch := rfl
    simp only [State.ktagOf, this]
  simp only [State.forged, e1, e2, e3, he]
  rw [hw, h4]
  simp

theorem witness_postReply : (posting .acked false false 0).threads.wf = true ∧ ((posting .acked false false 0).ctx 1).state = .active ∧
    ((posting .acked false false 0).posts.get 5).isSome ∧ ((posting (.rejected .cap) false false 0).posts.get 5).isSome ∧
    (let s := posting .out true false 0
     ∀ p, s.posts.get 5 = some p → p.remote = true ∧ p.stage = .out ∧ s.postLink p = .disabled ∧ p.sentAt + 100000 ≤ s.now ∧
       p.peer = false ∧ p.thr < 2 ^ 40 ∧ (s.group (s.thr p.thr).group).late = []) := by
  refine ⟨by decide +kernel, by decide +kernel, by decide +kernel, by decide +kernel, ?_⟩
  intro s p e
  have : p = ⟨1024, 0, 0, 0, false, 7, {}, true, 0, false, false, some 0, 0x10004, 0, .out, 0, false, 0, 0⟩ := by
    cases e
    rfl
  subst this
  exact ⟨rfl, rfl, by decide +kernel, by decide +kernel, rfl, by decide, by decide +kernel⟩

/-- Core 0 with context 1 in its active bank and context 2 in the other, in a state. -/
def banked (st : CtxState) : State := { u.modCore 0 (fun c => { c with ctx1 := 2 }) with
  ctxs := u.ctxs.set 2 { state := st, core := 0, bank := 1, asid := 1, save := 0x400000 } }

def busy (st : CtxState) (b : CmdBusy) : State := (banked st).modCore 0 (fun c => { c with cmdBusy := some b })

/-- The context commands: a swap and its end, a spill, its transfers and its end, a load and its end, a discard, bad commands. -/
theorem witness_ctxSwap :
    (let s := banked .shadow
     let k := s.core 0
     k.cmdBusy = none ∧ s.haltingIn (k.ctxIn k.activeBank) = false ∧ k.ctxIn k.activeBank = 1 ∧ k.ctxIn k.shadowBank = 2) ∧
    (let k := (busy .shadow .swap).core 0
     k.cmdBusy = some .swap ∧ k.idleUntil ≤ (busy .shadow .swap).cycle) ∧
    ((busy .loading .load).core 0).cmdBusy = some .load := by decide +kernel

theorem witness_ctxSpill :
    (let s := banked .spilling
     (s.ctx 2).state = .spilling ∧ (s.ctx 2).movedAt ≤ s.cycle ∧ roomy s 4 = true ∧
      Unwatched s (s.ctx 2).save (2 ^ 22)) ∧
    (let s : State := { busy .spilling .spill with
      ctxs := (busy .spilling .spill).ctxs.modify 2 (fun c => { c with passed := 2 ^ 16 }) }
     (s.ctx 2).state = .spilling ∧ (s.core 0).cmdBusy = some .spill ∧ s.spillSize 2 ≤ 128 * (s.ctx 2).passed ∧
      (s.ctx 2).movedAt ≤ s.cycle ∧ s.writesTile 2 = false) := by
  refine ⟨⟨by decide +kernel, by decide +kernel, by decide +kernel, fun _ _ _ _ => rfl⟩, ?_⟩
  decide +kernel

theorem witness_ctxLoad :
    (let s : State := { u with mem := Memory.store {} (3 * 2 ^ 22) (leBytes 4 0x4B375341 ++ [2, 0, 0, 1]) }
     (s.core 0).cmdBusy = none ∧ (s.core 0).ctxIn (s.core 0).shadowBank = 0 ∧ (s.ctx 2).state = .absent ∧
      s.areaNat (3 * 2 ^ 22) 0 4 = 0x4B375341 ∧ s.areaNat (3 * 2 ^ 22) 4 2 = 2 ∧ s.areaNat (3 * 2 ^ 22) 7 1 = 1) ∧
    ((banked .loading).ctx 2).state = .loading ∧ ((banked .loading).core 0).loadDue ≤ (banked .loading).cycle ∧ (banked .loading).posts.cells = [] ∧
    (((banked .shadow).core 0).cmdBusy = none ∧ (banked .shadow).groups.cells.all (fun e => e.2.ctx != 2) = true) ∧
    ((banked .spilled).ctx 2).state = .spilled ∧ (0 : BitVec 3) = 0 ∧ 4 < (7 : BitVec 3).toNat := by decide +kernel

/-- An attendant of the last core; a window of a stopped slot at the first and the last offset, and of one that runs. -/
theorem witness_attendantWindow : 223 < 224 ∧
    (let s := ux (fun x => { x with run := .stopped })
     s.parkCtx 0 = 1 ∧ (s.thr 1024).run = .stopped ∧ (0 % 8 = 0 ∧ 1144 % 8 = 0 ∧ 1144 < 1152)) ∧ (u.thr 1024).run ≠ .stopped := by
  decide +kernel

/-- A broadcast that is acknowledged, one that is 8 µs old, windows at their ends, a slice behind its partition's cuts. -/
theorem witness_TranslationSteps :
    u.acknowledged ⟨0, none, none, false, [], 0, 1⟩ = true ∧ u.hartFree = true ∧
    (let s : State := { under u (acc .load .l2 (part (some 0x4000) .virt [] (.sent 6))) with now := 1000000 }
     let b : Shoot := ⟨0, none, none, false, [5], 0, 1⟩
     s.acknowledged b = false ∧ b.due + 1000000 ≤ s.now ∧ b.due + 8000 ≤ s.now ∧ s.pending.cells = []) ∧
    (0 + 512 ≤ 512 ∧ 511 + 1 ≤ 512) ∧
    (let s : State := { u with parts := Tab.set {} 0 { cuts := 65535 } }
     (s.die 0).epochs.get 31 ≠ (s.part (s.partOf 0)).cuts % 65536) ∧ u.diesOf 0 ≠ [] := by decide +kernel

theorem witness_none_pending (code : Nat) : NonePending u code := fun c hc => by simp [u, State.withFetchWord, State.modCore,
  State.modDie, State.reset] at hc

/-- A frame in a state, of tenant 0. -/
def framed (x : Frame) : State := { u with frames := Tab.set {} 7 x, tenants := Tab.set {} 0 { guar := 1, burst := 2, used := 1 } }

theorem witness_frameAllocate : (framed {}).tenants.get 0 = { guar := 1, burst := 2, used := 1 } ∧
    ((framed {}).frames.get 7).state = .free ∧ ((framed {}).tenant 0).used < ((framed {}).tenant 0).burst ∧ 7 < frameCount ∧ canonical 0xFF00000000000000 = true ∧
    (0xFF00000000000000 : DWord).toNat % frameBytes = 0 ∧ (8 : Nat) < memTop ∧
    ((7 : BitVec 3) ≠ 0 ∧ (7 : BitVec 3).getLsbD 0 = true) ∧ ((framed {}).die (7 * frameBytes / 0x3000000000)).failed = false ∧
    ((framed {}).part 0).bindings.cells = [] := by decide +kernel

/-- Two frames for the age sweep, one of them with two leaves. -/
theorem witness_ageSweep : let s : State := { framed {} with
      frames := ⟨[(7, { state := .mapped, leaves := [0x8000, 0x8008] }), (8, { state := .mapped, leaves := [0x9000] })]⟩ }
    s.frames.wf = true ∧ (∀ f, f ∈ s.frames.keys → s.firstFrame f = f → (s.frame f).leaves.Nodup) ∧ (∀ a, Unwatched s a 8) ∧
    (∀ f ∈ s.frames.keys, ∀ g ∈ s.frames.keys, ∀ a ∈ (s.frame f).leaves, a ∈ (s.frame g).leaves → f = g) :=
  ⟨by decide +kernel, by decide +kernel, fun _ _ _ _ _ => rfl, by decide +kernel⟩

theorem witness_frameSteps :
    (let s := framed { state := .pinned, rm := true, pins := 0 }
     (s.frame 7).state = .pinned ∧ (s.frame 7).rm = true ∧ (s.frame 7).filling = false ∧ s.inPool 0 0 1 = false) ∧
    (let s := framed { state := .mapped, age := 3 }
     s.movable 7 = true ∧ (s.frame 7).filling = false ∧ (s.frame 7).dest = none ∧ s.firstFrame 7 = 7 ∧
      (s.frame 7).cleared = false ∧ s.hartFree = true ∧ roomy s 6 = true) ∧
    (let s : State := { framed { state := .mapped, age := 3 } with tenants := Tab.set {} 0 { guar := 1, burst := 1, used := 1 } }
     s.victim 7 = true) ∧
    (let s := framed { state := .scrubbing }
     (s.frame 7).state = .scrubbing ∧ s.quiet = true ∧
      s.firstFrame 7 = 7 ∧ (s.frame 7).cleared = false ∧ roomy s 5 = true) ∧
    ((framed { state := .scrubbing, cleared := true, count := 512 }).frame 7).count = 512 ∧
    (let s (v : Nat) : State := { framed { state := .mapped, cleared := true, leaves := [0x8000] } with
       mem := Memory.store {} 0x8000 (leBytes 8 v) }
     (s 0).quiet = true ∧ ((s 0).frame 7).cleared = true ∧ (s 0).leafVal 0x8000 / 128 % 2 = 0 ∧ (s 128).leafVal 0x8000 / 128 % 2 = 1 ∧
      (s 0).mem.wf = true ∧ (s 0).owner.get 0x380000 = 0) ∧
    ((framed { state := .poisoned }).frame 7).state = .poisoned ∧
    (let s := framed { state := .mapped, leaves := [0x8000] }
     s.frames.cells = [(7, s.frame 7)] ∧ (s.frame 7).leaves = [0x8000]) := by decide +kernel

theorem witness_migration :
    (let s := framed { state := .mapped, leaves := [0x8000] }
     s.movable 7 = true ∧ s.firstFrame 7 = 7 ∧ 0 < (s.frame 7).count ∧ s.freeSpan 8 1 = true) ∧
    (let s : State := { framed {} with frames := ⟨[(7, { state := .migrating, dest := some 8 }), (8, { state := .mapped, filling := true })]⟩ }
     (s.frame 7).state = .migrating ∧ (s.frame 7).dest = some 8 ∧ s.quiet = true ∧ s.framePoisoned 7 = false ∧ s.mem.wf = true ∧
      (s.frame 7).leaves = [] ∧ s.firstFrame 7 = 7 ∧ s.firstFrame 8 = 8 ∧
      s.hartFree = true ∧ roomy s 6 = true) ∧
    (let s : State := { framed {} with
      frames := ⟨[(7, { state := .migrating, dest := some 8 }), (8, { state := .mapped, filling := true })]⟩
      poison := Tab.set {} (7 * frameBytes / 4) true }
     s.framePoisoned 7 = true) ∧
    (let v : DWord := 2 * 2 ^ 20 + 1
     (v.extractLsb' 0 20).toNat ≤ (v.extractLsb' 20 20).toNat ∧
      (((List.range 64).filter (fun t => t ≠ 0)).foldl (fun n t => n + ((framed {}).tenant t).guar) 0) + 1 ≤ (framed {}).framesPresent) := by
  decide +kernel

/-- A command of an engine under way, as number 5 of a state. -/
def cmd (e : Eng) (i : Instr) (started : Bool) : Cmd := { u.newCmd 1024 e i [] (some 0) 0 with ready := true, started := started, mark := 1 }

def running (s : State) (c : Cmd) : State := { s with cmds := Tab.set {} 5 (some c), nextId := 9 }

theorem mayRun_of {s : State} {id : Nat} {c : Cmd} (h : (s.threads.wf && (s.cmds.get id == some c) && (c.fault == none) &&
    s.cmdMayRead id c && ((s.ctx (keyCtx c.thr)).state == .active) && ((s.thr c.thr).run != .exited) &&
    ((s.thr c.thr).run != .free)) = true) : MayRun s id c := by
  simpa [MayRun, and_assoc] using h

/-- A record of one F32 element at the start of the lane store. -/
def oneElem : Tsr := ⟨0x8000000000000000, 1, 2, 1, 0, true, [1, 1], [4, 4], [1, 1]⟩

def tiled : State := ug (fun g => { g with lane := 64, tileCount := 2, tileBase := 1 }) id

theorem witness_matrixCommandDone :
    (∀ i ∈ [Instr.xzero 0, .xdrain 0 1 4 0 0, .xld 0 1 4 0 0, .mma 0 1 4 0 0],
      let c := cmd (.matrix 0) i false
      let s := running tiled c
      MayRun s 5 c ∧ c.ready = true ∧ c.eng = .matrix c.core ∧ c.started = false ∧ s.tileBusy (s.cmdCtx c) c.mark 5 = false ∧
        s.drainBuffers c.core < 4 ∧ s.arrayFree 5 c.core = true) ∧
    (let c : Cmd := { cmd (.matrix 0) (.xld 0 1 4 0 0) false with tsrs := [oneElem], vals := [0, 0, 0] }
     let s := running tiled c
     (c.tsrs.headD default).tileAt 0 ≤ 64 ∧ (match s.xldElems c oneElem 0 0 with | .ok r => r.2.length == 1 && !s.walkedOn r.1 0 | .error _ => false) = true ∧
      (let t : Tsr := { oneElem with base := 0x100 }
       let v : State := { tabled { s with cmds := {} } with xshr := Tab.set {} 0 (0, 8) }
       match v.xldElems { c with tsrs := [t] } t 0 0 with | .ok r => r.2.length == 1 && v.walkedOn r.1 0 | .error _ => false) = true) ∧
    (let c : Cmd := { cmd (.matrix 0) (.mma 0 1 4 0 0) false with
      tsrs := [oneElem, oneElem], fields := [0, 0, 0, 1, 1, 1, 0] }
     let s := running tiled c
     (match s.mmaTile c false with | .ok r => r.2.isSome && !s.walkedOn r.1 0 | .error _ => false) = true) ∧
    ((launching.kernel 1).guarded = true) := by
  refine ⟨?_, by decide +kernel, by decide +kernel, by decide +kernel⟩
  simp only [List.forall_mem_cons, List.not_mem_nil, false_implies, implies_true, and_true]
  refine ⟨⟨mayRun_of ?_, ?_⟩, ⟨mayRun_of ?_, ?_⟩, ⟨mayRun_of ?_, ?_⟩, mayRun_of ?_, ?_⟩ <;> decide +kernel

/-- A drain to a peer that is not there, and one to tile 1 of the group of number 0 on core 0; the array sleeps and wakes. -/
theorem witness_drainArrival :
    let w (n : Nat) : Nat := 0xC * 2 ^ 60 + n * 2 ^ 16 + 1 * 2 ^ 8
    let c (n : Nat) : Cmd := { cmd (.matrix 0) (.xdrain 0 1 4 0 0) true with vals := [w n, 0] }
    let named (s : State) (n g : Nat) : Prop := g ∈ (s.kernel 1).groups ∧ (s.group g).gnum.toNat = cut (w n) 16 32 ∧
      State.holds (s.group g) = true ∧ (s.group g).state ≠ .pending ∧ (s.ctx (s.group g).ctx).core = cut (w n) 0 8
    let s (n : Nat) := running tiled (c n)
    MayRun (s 0) 5 (c 0) ∧ peerForm (w 0) = true ∧ cut (w 0) 48 12 = 0 ∧ cut (w 0) 11 5 = 0 ∧ cut (w 0) 0 8 < 224 ∧
      (named (s 0) 0 1 ∧ ∀ h ∈ ((s 0).kernel 1).groups, h = 1) ∧ (∀ g ∈ ((s 3).kernel 1).groups, ¬ named (s 3) 3 g) ∧
      cut (w 0) 8 3 < ((s 0).group 1).tileCount ∧ ((s 0).ctx ((s 0).group 1).ctx).state = .active ∧ (c 0).fields.headD 0 ≠ 1 ∧ ((s 0).tile 1 2).sc = 0 ∧ (s 0).heldDrains 1 2 = [] := by
  refine ⟨mayRun_of (by decide +kernel), ?_⟩
  decide +kernel

theorem witness_array : (let s : State := { tiled with cycle := 65536 }
      (s.cmdsOf (.matrix 0)).any (fun e => State.isMma e.2) = false ∧ (s.core 0).arrayUsed + 65536 ≤ s.cycle) ∧
    (let s := running tiled (cmd (.matrix 0) (.mma 0 1 4 0 0) false)
     (s.cmdsOf (.matrix 0)).any (fun e => State.isMma e.2) = true) := by decide +kernel

/-- Stage and accumulate: sizes at their ends. -/
theorem witness_stageTile : 64 ≤ 64 ∧ 63 < 64 ∧ 0 < 16 ∧ 16 ≤ 16 ∧ (∀ x : Opnd, (List.replicate 16 x).length = 16) ∧ 4095 < 4096 := by
  exact ⟨by decide, by decide, by decide, by decide, fun _ => List.length_replicate, by decide⟩

/-- A copy of no elements, a STALE, and commands of bindings of partition 0. -/
def bound (b : Binding) (c : Cmd) : State := { running tiled c with
  parts := Tab.set {} 0 { state := .running, bindings := Tab.set {} 0 { b with asid := 1 } } }

def strm : Cmd := { cmd (.streamer 0) (.sfill 1 4 0 0) false with mark := 0, tag := 64, tsrs := [{ oneElem with ext := [0, 0] }] }

theorem witness_streamerCommandDone :
    let s := running tiled strm
    let a := runStrm (rested s) strm
    let v := a.st.putStatus strm (a.st.statusOf a)
    MayRun s 5 strm ∧ strm.ready = true ∧ strm.eng = .streamer 0 ∧ strm.mark ≠ 1 ∧ (∃ e ∈ (s.cmdsOf strm.eng).take 8, e.1 = 5) ∧
      roomy s 1 = true ∧ a.stop = none ∧ v.2 = none ∧ v.1.threads = s.threads ∧ v.1.ctxs = s.ctxs ∧ s.walkedOn v.1 (0 / 7) = false := by
  refine ⟨mayRun_of (by decide +kernel), ?_⟩
  decide +kernel

theorem witness_speCommandStart :
    let spe (i : Instr) : Cmd := { cmd (.spe 0) i false with mark := 1 }
    (∀ i ∈ [Instr.stale 4 5 0, .bstat 4 5 0, .unbind 5 0 0, .settle 4 5 0 0, .recomp 4 5 0 0],
      let s := bound { state := .dirty } (spe i)
      MayRun s 5 (spe i) ∧ (spe i).started = false ∧ roomy s 2 = true ∧
        (s.cmdsOf (.spe 0)).find? (fun e => s.speReady e.1 e.2) = some (5, spe i) ∧ s.speValid (spe i) = true ∧
        (s.binding (s.cmdPart (spe i)) 0).state ≠ .admitting ∧ (s.binding (s.cmdPart (spe i)) 0).state ≠ .failed) ∧
    ((bound { state := .free } (spe (.bstat 4 5 0))).speValid (spe (.bstat 4 5 0)) = false) := by
  refine ⟨?_, by decide +kernel⟩
  simp only [List.forall_mem_cons, List.not_mem_nil, false_implies, implies_true, and_true]
  refine ⟨⟨mayRun_of ?_, ?_⟩, ⟨mayRun_of ?_, ?_⟩, ⟨mayRun_of ?_, ?_⟩, ⟨mayRun_of ?_, ?_⟩, mayRun_of ?_, ?_⟩ <;> decide +kernel

theorem answers_of {s : State} {p n id : Nat} {c : Cmd} (h : s.speRunning p n = some (id, c))
    (hc : ((s.ctx (keyCtx c.thr)).state == .active && (s.tagPlace c).all (fun x => (s.ctx x).state == .active)) = true) : AnswersInBank s p n := by
  intro i d e
  obtain ⟨rfl, rfl⟩ : id = i ∧ c = d := by simpa using h.symm.trans e
  simp only [Bool.and_eq_true, beq_iff_eq] at hc
  exact ⟨hc.1, fun x hx => by simpa [hx] using hc.2⟩

/-- Full computations, ordinary settles and failures that end; adaptation. -/
theorem witness_speSteps :
    let c : Cmd := { cmd (.spe 0) (.settle 4 5 0 0) true with mark := 1 }
    (let s := bound { state := .settling, full := true } c
     s.spePoisoned 0 0 = false ∧ s.speUnmapped 0 0 = false ∧ s.speGoes 0 0 = true ∧ roomy s 2 = true ∧ AnswersInBank s 0 0 ∧
      s.walkedOn (s.speReads 0 0) (s.speDie 0 0) = false ∧ (s.binding 0 0).leaving = false ∧ (s.binding 0 0).full = true ∧
      s.speRunning 0 0 = some (5, c)) ∧
    (let s := bound { state := .settling, full := false, recon := 4, count := 3 } c
     s.spePoisoned 0 0 = false ∧ s.speUnmapped 0 0 = false ∧ s.speGoes 0 0 = true ∧ roomy s 2 = true ∧ AnswersInBank s 0 0 ∧
      s.walkedOn (s.speReads 0 0) (s.speDie 0 0) = false ∧ (s.binding 0 0).leaving = false ∧ (s.binding 0 0).state = .settling ∧ (s.binding 0 0).full = false) ∧
    (let s := bound { state := .admitting } c
     s.slotsUsed 0 < 256 ∧ (let w := (s.part 0).bindings.cells.filter (fun e => e.2.state == .admitting)
      (w.find? (fun e => w.all (fun f => e.2.since ≤ f.2.since))).isSome)) ∧
    (let s : State := { bound { state := .clean, adapt := true, watch := [⟨2, 14680064, 0x200000, 64⟩] } c with
      cmds := {}, frames := Tab.set {} 7 { state := .mapped } }
     (s.binding 0 0).state = .clean ∧ (s.binding 0 0).count = 0 ∧ (s.binding 0 0).cmod = false ∧ s.speQueued 0 0 = false ∧ s.hartFree = true ∧
      ∀ f ∈ s.cFrames (s.binding 0 0), (s.frame f).state = .mapped) ∧
    (let s : State := { bound { state := .evicted, cSaved := [(7, {}, [])] } c with tenants := Tab.set {} 0 { burst := 1 } }
     s.adaptWanted 0 0 = true ∧ s.mayGrant (s.binding 0 0) [7] = true) := by
  refine ⟨⟨by decide +kernel, by decide +kernel, by decide +kernel, by decide +kernel, answers_of (id := 5) rfl (by decide +kernel), ?_⟩,
    ⟨by decide +kernel, by decide +kernel, by decide +kernel, by decide +kernel, answers_of (id := 5) rfl (by decide +kernel), ?_⟩, ?_⟩ <;>
    decide +kernel

/-- A product whose operand's element is poisoned fails. -/
theorem witness_speFail :
    let t : Tsr := ⟨0x200000, 1, 2, 1, 0, true, [1, 1], [4, 4], [1, 1]⟩
    let s : State := { bound { state := .computing, full := true, aT := t, bT := t, cT := t, watch := [⟨0, 0x200000, 0x200000, 64⟩,
        ⟨1, 0x200000, 0x200000, 64⟩, ⟨2, 0x200000, 0x200000, 64⟩] } (cmd (.spe 0) (.recomp 4 5 0 0) true) with
      poison := Tab.set {} 0x80000 true
      dies := u.dies.modify 0 (fun d => { d with ivlMode := true, tlb := [⟨1, 0, 0x200000, 0x200000, true, true, true, true⟩] }) }
    (s.binding 0 0).state = .computing ∧ s.spePoisoned 0 0 = true ∧ (s.binding 0 0).leaving = false ∧
      s.speGoes 0 0 = true ∧ s.walkedOn (s.speReads 0 0) (s.speDie 0 0) = false := by decide +kernel

/-- The pool of partition 0: a sequence of 17 tokens whose map stands in the lane store, and no sequence. -/
def pooled (i : Instr) (started : Bool) : State :=
  let c : Cmd := { cmd (.pfx 0) i started with vals := [5, 3], asid := 1 }
  let q : Seq := { state := .live, len := 17, capb := 2, map := 0x8000000000000000, asid := 1, core := 0, thr := 1024 }
  let pool : Pool := { base := 0x400000, tenant := 0, layers := 2, slot := 64, count := 8, seqs := Tab.set {} 5 q }
  { running tiled c with parts := Tab.set {} 0 { state := .running, pool := pool } }

theorem witness_pfxRegisters : (let s := pooled (.pxfind 4 1 0 0) false
     s.anySeq 0 = true ∧ u.anySeq 0 = false) ∧ canonical 0x00FFFFFFFFFFFFFF = true ∧
    (let v : DWord := 1 * 2 ^ 36 + 1024 * 2 ^ 24 + 393216
     cut v.toNat 36 12 * cut v.toNat 24 12 ≤ 1024 ∧ cut v.toNat 0 19 ≤ 393216 ∧ cut v.toNat 36 12 = 1 ∧ cut v.toNat 24 12 = 1024) := by
  decide +kernel

theorem witness_pfxCommandStart :
    let i : Instr := .kvxlat 4 6 0
    let c : Cmd := { cmd (.pfx 0) i false with vals := [5, 3], asid := 1 }
    let s := pooled i false
    let z := rested s
    MayRun s 5 c ∧ c.started = false ∧ roomy s 3 = true ∧
      (z.cmdsOf (.pfx 0)).find? (fun e => z.pfxReady e.1 e.2) = some (5, c) ∧ z.xlatMates 5 c = [] ∧
      ((s.pool 0).seqs.cells.all (fun e => e.2.state != .releasing)) = true ∧ ((s.pool 0).seqs.get 5).bad = false ∧
      (match z.pfxPerform 0 5 c [] with
        | .ok (v, .done _) => v.threads == s.threads && v.ctxs == s.ctxs && v.cmds == s.cmds && !z.walkedOn v 0 &&
            (v.pool (v.cmdPart c)).seqs.cells.all (fun e => e.2.state != .releasing)
        | _ => false) = true ∧
      (s.pool 0).count ≠ 0 ∧ (s.pool 0).tenant = c.tenant ∧ (s.seqOf 0 5 5).isSome ∧ (u.pool 0).count = 0 ∧
      (match s.mapEntry c ((s.pool 0).seqs.get 5) 0 with | .ok r => decide (r.2 < 0x80000000) | .error _ => false) = true := by
  refine ⟨mayRun_of (by decide +kernel), ?_⟩
  decide +kernel

theorem witness_pfxOthers :
    (let i : Instr := .pxref 4 1 5 0 0
     let c : Cmd := { cmd (.pfx 0) i true with vals := [5, 3], asid := 1 }
     let z := rested (pooled i true)
     MayRun (pooled i true) 5 c ∧ roomy (pooled i true) 3 = true ∧ (match z.refCopies 0 c {} (State.triples (c.fields.drop 1)) with
      | .ok v => v.threads == z.threads && v.ctxs == z.ctxs && !z.walkedOn v 0 && (v.pool (v.cmdPart c)).seqs.cells.all (fun e => e.2.state != .releasing)
      | .error _ => false) = true) ∧
    (let pool : Pool := { pages := Tab.set {} 3 { state := .indexed, node := 1 }, nodes := Tab.set {} 1 { valid := true, station := some 5 } }
     let s : State := { u with parts := Tab.set {} 0 { pool := pool } }
     ((s.pool 0).nodes.get 1).valid = true ∧ ((s.pool 0).nodes.get 1).station ≠ none ∧ s.held 0 4 = none ∧
      ({ s with frames := Tab.set {} 7 { state := .pinned, va := 0x600000 } } : State).held 0 3 = some 0xE00000) ∧
    ((List.replicate 16 (0 : Word)).length = 16 ∧ u.childOf 0 0 (List.replicate 16 0) = none ∧ (u.pool 0).nodes.cells.length = 0 ∧
      ((u.pool 0).tables.get 0).length = 0) := by
  refine ⟨⟨mayRun_of (by decide +kernel), by decide +kernel⟩, by decide +kernel, by decide +kernel⟩

/-- A node store has a place for a first node, and the root's child table for a first entry. -/
theorem witness_tableRoom : u.tableRoom 0 0 = true ∧ (u.pool 0).nodes.cells.length ≤ Config.nodeStore := by
  have h : ((u.pool 0).tables.get 0).length = 0 := by decide +kernel
  exact ⟨by unfold State.tableRoom; rw [h]; exact decide_eq_true (Nat.two_pow_pos _), by simp [(by decide +kernel : (u.pool 0).nodes.cells.length = 0)]⟩

/-- A flit at its destination: one that may be taken, one that has been refused twice, one whose retries are over, one behind an
older one that goes round; flits of a post, of an access and of a registration. -/
theorem witness_flitArrival :
    let s (fs : List (Nat × Flit)) : State := { posting .out false false 0 with
      posts := ⟨(posting .out false false 0).posts.cells.map (fun e => (3, e.2)) ++ (posting .out false false 0).posts.cells⟩
      flits := ⟨fs⟩ }
    (s []).flitOf 5 = some (0, 256) ∧ (s []).behind 5 (0, 256) = false ∧ (s [(3, { refused := 2, seq := 1 })]).behind 5 (0, 256) = true ∧
      ((s [(5, { refused := 2 })]).flits.get 5).refused = 2 ∧ ((s [(5, { ejected := true })]).flits.get 5).ejected = true ∧
      ((s [(5, { refused := 1 })]).flits.get 5).ejected = false ∧ (s []).pending.cells = [] ∧ ((s [(5, { retries := 2 })]).flits.get 5).retries < 3 ∧
      3 ≤ ((s [(5, { retries := 3 })]).flits.get 5).retries ∧ ((under u (acc .load .l2 atHome)).flitOf 5).isSome ∧
      (regned.accs.get 5 = none ∧ (regned.flitOf 5).isSome) := by
  decide +kernel

/-- A period that begins and a cycle in which none does; budget words at their ends. -/
theorem witness_budgets : (u.cycle % 1024 = 0 ∧ 1023 % 1024 ≠ 0) ∧
    (((0x04000000 : DWord).extractLsb' 0 11).toNat ≤ 1024 ∧ ((1024 : DWord).extractLsb' 0 11).toNat ≤ 1024 ∧
      1024 < ((1025 : DWord).extractLsb' 0 11).toNat) ∧
    (let s := u.modDie 0 (fun d => { d with bgtLoop := d.bgtLoop.set 3 64, used := Tab.set {} (3 * 64 + 63) 60 })
     let n : BudgetNeed := { die := 0, key := 3 * 64 + 63, count := 100, limit := some 64 }
     n.limit = some 64 ∧ s.affords 5 n = false ∧ s.isNext 5 n = true ∧ (s.die 0).stallAt.get 3 ≠ s.cycle + 1) := by decide +kernel

/-- A link in each state. -/
theorem witness_LinkStates : (linkKey (.dieToDie 4 7)).isSome = true ∧ (linkKey (.uaLink 15)).isSome = true ∧
    ([.disabled, .down, .training, .up, .degraded, .retraining] : List LinkState).all (fun x =>
      (u.setLink (.uaLink 15) x).linkState (.uaLink 15) == x) = true ∧ u.triedOut (.uaLink 15) = false ∧
    ({ u with now := 10000000 } : State).triedOut (.uaLink 15) = true ∧
    (u.linkTry (.uaLink 15)).refused = false ∧
    (({ u with linkTries := Tab.set {} ((linkKey (.uaLink 15)).getD 0) { failures := 3, refused := true } } : State).linkTry (.uaLink 15)).refused
      = true ∧
    ({ u with linkTries := Tab.set {} ((linkKey (.uaLink 15)).getD 0) { failures := 3 } } : State).triedOut (.uaLink 15) = true := by decide +kernel

/-- A collective of one contributor in partition 0: its descriptor, one F32 element, in the page 0x5000. -/
def collPage (s : State) : State := { s with
  dies := s.dies.modify 0 (fun d => { d with ivlMode := true, tlb := [⟨1, 0, 0x5000, 0x5000, true, true, true, true⟩] })
  xshr := Tab.set {} 0 (0, 1)
  comms := Tab.set {} 3 { configured := true, ranks := 1, rank := 0 } }

def collBytes (op : Nat) : List Byte := leBytes 8 0x5100 ++ leBytes 8 0x5200 ++ leBytes 8 7 ++ leBytes 4 1 ++
  [1, 1, 1, BitVec.ofNat 8 op, 3, 0, 1, 0, 4, 0, 0, 0] ++ leBytes 24 0

def collQueue (op : Nat) : State := collPage { uq 0x5040
    { state := .busy, kind := 5, cap := 2, tail := 1, base := 0x5300, recBase := 0x5000, asid := 1, va := 0x5040 } id with
  mem := Memory.store {} 0x5000 (collBytes op) }

theorem witness_collectiveTake : ([0, 9] : List Nat).all (fun op =>
    let s := collQueue op
    let r := (rested s).pop 0x5040 0
    let va := (s.queue 0x5040).recBase + BitVec.ofNat 64 (64 * r.2.toNat)
    match r.1.vread 0 1 va.toNat 64 with
    | .error _ => false
    | .ok (v, b, bad) =>
      let d := parseColl 0 va 1 b
      (s.queue 0x5040).kind == 5 && (s.queue 0x5040).count != 0 && !bad && collOk d b == (op == 0) && d.done == 0 && (s.queue 0x5040).state == .busy &&
        ((rested s).entryPoison 0x5040 0 0).isNone && roomy s 1 &&
        (v.comms.get (fieldAt b 0x20 2)).configured && (v.colls.get (State.collKey 0 (fieldAt b 0x20 2) (fieldAt b 0x24 4))).isNone)
    = true := by decide +kernel

def collDesc : CollDesc := parseColl 0 0x5000 1 (collBytes 0)

def collState (c : Coll) (m : Comm) : State :=
  { collPage u with colls := Tab.set {} (State.collKey 0 3 4) (some c), comms := Tab.set {} 3 m }

theorem witness_collectiveReduce :
    (let c : Coll := { part := 0, descs := [collDesc] }
     let s := collState c { configured := true, ranks := 1 }
     s.collFind 3 4 (fun c => !c.reduced && (match c.descs with | d :: _ => c.descs.length == d.nloc | [] => false)) =
       some (State.collKey 0 3 4, c) ∧ roomy s 1 = true ∧
      (match (rested s).readAll c.descs with | .ok r => (r.1.commCut 3).isNone | .error _ => false) = true) ∧
    (let c : Coll := { part := 0, descs := [collDesc], reduced := true }
     let s := collState c { configured := true, ranks := 3, rank := 0 }
     s.collFind 3 4 (fun c => c.sent.isNone && !c.children.any (fun e => e.1 == 2) &&
      (match c.descs with | d :: _ => [(0 : Word)].length == d.count | [] => false)) = some (State.collKey 0 3 4, c) ∧ 2 = 2 * 0 + 2 ∧ 2 < 3 ∧
      s.commServes 3 = true) := by
  decide +kernel

theorem witness_collectiveResult :
    let c : Coll := { part := 0, descs := [collDesc], reduced := true, sent := some [5] }
    let s := collState c { configured := true, ranks := 1 }
    s.collFind 3 4 (fun c => c.sent.isSome) = some (State.collKey 0 3 4, c) ∧ collDesc.done = 0 ∧ (c.sent.getD []).length = collDesc.count ∧
      c.bad = [] ∧ (({ rested s with colls := s.colls.set (State.collKey 0 3 4) none } : State).vwrite 0 1 0x5200 (leBytes 4 5)).2 = true ∧
      roomy s 1 = true ∧ s.commServes 3 = true ∧
      s.collFind 3 4 (fun _ => true) = some (State.collKey 0 3 4, c) := by decide +kernel

/-- Divisions of PART_CFG, IVL_MAP words, and shared ranges at the end of memory. -/
def division (o : Byte) (st : PState) : State := { u with owners := o, parts := ⟨(List.range 4).map (fun p => (p, { state := st }))⟩ }

theorem witness_PartitionRegisters :
    (0xE4 ∈ [0xE4, 0xE0, 0xA4, 0xA0, 0x00] ∧ 0x50 ∉ [0xE4, 0xE0, 0xA4, 0xA0, 0x00]) ∧
    (let s := division 0xE4 .reconfiguring
     (s.rm.held = [] ∧ s.rm.requests = []) ∧ divisionOk 0xA4 0 = true ∧ ∀ q, q < 4 → ownerAt 0xA4 q ≠ s.partOf q → (s.part (s.partOf q)).state = .reconfiguring) ∧
    (let s : State := { division 0xE4 .running with rm := { u.rm with state := .running } }
     s.rm.state ≠ .booting ∧ ownerAt 0xA4 3 ≠ s.partOf 3 ∧ (s.part (s.partOf 3)).state ≠ .reconfiguring) ∧
    ((0x80 : DWord).getLsbD (4 + 3) = true ∧ (0x10 : DWord).getLsbD (4 + 3) = false) ∧
    (let v : DWord := 1 * 2 ^ 32 + 393215
     (v.extractLsb' 0 19).toNat + (v.extractLsb' 32 20).toNat ≤ 393216) ∧
    (let v : DWord := 2 * 2 ^ 32 + 393215
     393216 < (v.extractLsb' 0 19).toNat + (v.extractLsb' 32 20).toNat) := by decide +kernel

theorem witness_Reconfigurations :
    (let s := division 0xE4 .running
     let a := s.askedFor (.merge 0 1 false)
     s.reconf = none ∧ a.dies ≠ [] ∧ divisionOk a.owner a.dlocal = true ∧ (∀ d ∈ a.dies, (s.part (s.partOf d)).state = .running) ∧
      s.diesOf 0 ≠ [] ∧ s.diesOf 1 ≠ []) ∧
    (let s := division 0xE0 .quiescing
     let a := s.askedFor (.split 0)
     a.dies ≠ [] ∧ (∃ d ∈ a.dies, (s.part (s.partOf d)).state ≠ .running) ∧ (∀ d ∈ a.dies, (s.part (s.partOf d)).state = .quiescing)) ∧
    (let s := division 0xE4 .quiescing
     let r := s.askedFor (.merge 0 1 false)
     let v : State := { s with reconf := some r, now := 1000000 }
     let t : State := { v with kernels := {}, cores := {} }
     NoneWaits t ∧ r.dies ≠ [] ∧ (∀ d ∈ r.dies, d < 4) ∧ t.hurdles r true = [] ∧ t.allSpilled r = true ∧
      (∀ d ∈ r.dies, (t.part (t.partOf d)).state = .quiescing) ∧ v.hurdles r true ≠ [] ∧
      r.since + 1000000 ≤ t.now) ∧
    ({ division 0xE4 .running with reconf := some ((division 0xE4 .running).askedFor (.merge 0 1 false)) } : State).reconf.isSome = true := by
  refine ⟨by decide +kernel, by decide +kernel, ⟨⟨rfl, rfl⟩, by decide +kernel⟩, by decide +kernel⟩

/-- Resets of a partition, of one with a failed die, a broadcast of 1 ms, and a die that fails. -/
theorem witness_ResetsAndFailures :
    (let s := division 0xE4 .running
     s.reconf = none ∧ s.diesOf 0 ≠ [] ∧ (s.part 0).state ≠ .absent ∧ (s.die 0).failed = false ∧ (s.part (s.partOf 0)).state = .running ∧
      (s.part (s.partOf 0)).erq.log2cap = 0 ∧ { s with kernels := {} }.kernels = {}) ∧
    (let s := division 0xE0 .resetting
     (s.part 0).state = .resetting ∧ (∀ d ∈ s.diesOf 0, (s.die d).failed = false) ∧
      (let t := s.modDie 1 (fun d => { d with failed := true })
       ∃ d ∈ t.diesOf 0, (t.die d).failed = true)) ∧
    (let b : Shoot := ⟨0, none, none, true, [5], 0, 0⟩
     let s : State := { under (division 0xE4 .running) (acc .load .l2 (part (some 0x4000) .virt [] (.sent 6))) with
      now := 1000000, shoots := Tab.set {} 6 (some b) }
     s.shoots.get 6 = some b ∧ s.acknowledged b = false ∧ b.due + 1000000 ≤ s.now ∧ s.diesOf b.part ≠ [] ∧
      (s.part b.part).state ≠ .absent ∧ s.reconf = none ∧ b.warned = true) := by decide +kernel

/-- Boot records: a good one, with core 8 of clusters 0 to 3 of each die disabled, and one whose record does not verify. -/
def goodBoot : BootRecord := ⟨true, true, false, true, true, BitVec.ofNat 252 (packFields 9 (List.replicate 28 0xFF)), 0xE4, 0, [1], true⟩

theorem witness_DeviceResets :
    (goodBoot.identityOk = true ∧ goodBoot.imageAOk = true ∧ goodBoot.recordOk = true ∧ goodBoot.firmwareOk = true ∧
      mapOk goodBoot.coreMap = true ∧ divisionOk goodBoot.owner goodBoot.dlocal = true ∧ goodBoot.startOk = true) ∧
    (divisionOk 0x50 0 = false ∧ { goodBoot with startOk := false }.startOk = false) ∧ ({ goodBoot with recordOk := false }.recordOk = false) ∧
    (let s : State := { u with rm := { u.rm with booted := true } }
     s.rm.state = .booting ∧ s.rm.booted = true ∧ (s.die 0).started < 7 ∧ 4096 * (s.die 1).started ≤ s.cycle) ∧
    (let s : State := { u with
      rm := { u.rm with booted := true }, cycle := 4096 * 6
      dies := ⟨(List.range 4).map (fun n => (n, { Die.atReset n with started := if n = 0 then 6 else 7 }))⟩ }
     (s.die 0).started = 6 ∧ (∀ d, d < 4 → d ≠ 0 → 7 ≤ (s.die d).started) ∧
      (∃ q, q < 4 ∧ (s.part (s.partOf q)).erq.log2cap = 0) ∧
      (let t : State := { s with parts := ⟨(List.range 4).map (fun p => (p, { erq := { log2cap := 6 } }))⟩ }
       ∀ q, q < 4 → (t.part (t.partOf q)).erq.log2cap ≠ 0)) ∧
    (let s : State := { u with
      rm := { u.rm with booted := true }
      parts := ⟨(List.range 4).map (fun p => (p, { erq := { log2cap := if p = 0 then 0 else 6 } }))⟩
      dies := ⟨(List.range 4).map (fun n => (n, { Die.atReset n with started := 7 }))⟩ }
     let v : DWord := 6 + 0x4000 * 4096
     s.rm.state = .booting ∧ s.rm.booted = true ∧ (∀ d, d < 4 → 7 ≤ (s.die d).started) ∧ s.diesOf 0 ≠ [] ∧
      (∀ q, q < 4 → s.partOf q ≠ 0 → (s.part (s.partOf q)).erq.log2cap ≠ 0) ∧ (v.extractLsb' 0 5).toNat = 6 ∧
      (v.extractLsb' 12 28).toNat * 4096 % 2 ^ (6 + 6) = 0) := by decide +kernel

/-- The Ringmaster in service, recovering and with its self-test over. -/
def rmIn (st : RmState) (pairs : BitVec 4) (passed : Option (BitVec 4)) : State :=
  { u with rm := { u.rm with state := st, pairs := pairs, passed := passed } }

theorem witness_SupervisorSteps :
    (let s := rmIn .running 15 none
     s.rmUp = true ∧ s.rm.pairs.getLsbD 3 = true ∧ s.rm.pairs &&& ~~~BitVec.ofNat 4 (2 ^ 3) ≠ 0) ∧
    (let s := rmIn .reduced 8 none
     s.rmUp = true ∧ s.rm.pairs.getLsbD 3 = true ∧ s.rm.pairs &&& ~~~BitVec.ofNat 4 (2 ^ 3) = 0) ∧
    (let s : State := { rmIn .running 15 none with now := 100000000 }
     s.rm.petAt + s.rm.timeout.toNat * 1000 ≤ s.now ∧ u.now < u.rm.petAt + u.rm.timeout.toNat * 1000) ∧
    ((1 : Word).toNat ≤ (10000000 : Word).toNat ∧ 10000000 < (10000001 : Word).toNat) ∧
    (let s := rmIn .recovering 0 none
     s.rm.state = .recovering ∧ s.rm.passed = none ∧ (15 : BitVec 4) &&& ~~~s.rm.excluded ≠ 0 ∧ (0 : BitVec 4) &&& ~~~s.rm.excluded = 0) ∧
    ((rmIn .recovering 0 (some 15)).rm.passed = some 15 ∧ (rmIn .recovering 0 (some 1)).rm.passed = some 1 ∧
      (rmIn .recovering 0 (some 1)).rm.actions = []) ∧
    (let s : State := { rmIn .recovering 0 (some 15) with frames := Tab.set {} 7 { state := .scrubbing } }
     let t : State := { s with rm := { s.rm with actions := [{ obj := .frame 7, old := .frame .mapped, new := .frame .scrubbing, done := false }] } }
     (t.frame 7).state = .scrubbing ∧ (∃ a ∈ t.rm.actions, a.done = false) ∧
      ∀ a ∈ t.rm.actions, a.done = false → a.obj = .frame 7 ∧ a.new = .frame .scrubbing) := by decide +kernel

/-- Reset requests that are answered with every code, in and out of recovery mode. -/
theorem witness_SidebandSteps :
    (let s : State := { division 0xE0 .running with rm := { u.rm with state := .running, attests := true } }
     s.rmUp = true ∧ (s.sessions.get 1).opened = false ∧ s.rm.attests = true ∧ s.rm.grants = [] ∧ { s.rm with grants := [0x3040] }.grants = [0x3040] ∧ s.rm.state ≠ .recoveryMode ∧ s.reconf = none ∧
      s.diesOf 0 ≠ [] ∧ (s.part 0).state ≠ .absent ∧ (3 : Byte).toNat = (dieMask (s.diesOf 0)).toNat ∧ s.partOfMask 1 = none) ∧
    (rmIn .recoveryMode 0 none).rm.state = .recoveryMode ∧
    (let m : ResetMsg := ⟨1, 1, 3, 0, 7, 8⟩
     m.cmd = 1 ∧ m.rsv = 0 ∧ m.bytes = 8 ∧ m.scope = 1) ∧
    (({ division 0xE4 .running with reconf := some ((division 0xE4 .running).askedFor (.merge 0 1 false)) } : State).reconf.isSome = true) := by
  decide +kernel

/-- ERQ_CFG words at their ends; a held record that is due and one that is not; a line; wear, heat and droop. -/
theorem witness_LoggerAndPowerSteps :
    u.diesOf 1 ≠ [] ∧ (rmIn .running 15 none).rm.state ≠ .booting ∧
    (([6, 20] : List Nat).all (fun c => let v : DWord := BitVec.ofNat 64 (c + 0x4000 * 4096)
      decide (6 ≤ (v.extractLsb' 0 5).toNat) && decide ((v.extractLsb' 0 5).toNat ≤ 20) &&
      (v.extractLsb' 12 28).toNat * 4096 % 2 ^ ((v.extractLsb' 0 5).toNat + 6) == 0) = true) ∧
    (((5 : DWord).extractLsb' 0 5).toNat < 6 ∧ 20 < ((21 : DWord).extractLsb' 0 5).toNat) ∧
    (let q : Pending := ⟨{ code := 0x0101, sev := 1, action := 0, eclass := 10, part := 0, einst := 0 }, 0, 1000000⟩
     let s : State := { u with pending := Tab.set {} 4 (some q) }
     s.pending.get 4 = some q ∧ s.now < q.due ∧ q.due ≤ 1000000) ∧
    (0xBFFFFFFFFF < 0xC000000000 ∧ u.rows.get 0 = [] ∧ (u.part (u.partOf 0)).erq.log2cap = 0 ∧
      (let s : State := { u with now := 86400000000000, rows := ⟨(List.range 1).map (fun k => (k, List.replicate 15 5))⟩ }
       15 ≤ ((s.rows.get 0).filter (fun t => s.now < t + 86400000000000)).length)) ∧
    ((8759 : Word).toNat < (u.die 4).wearMark.toNat ∧ (u.die 4).wearMark.toNat ≤ (8760 : Word).toNat) ∧
    ((u.die 3).slow = 0 ∧ (let s : State := { u with now := 1000000, dies := u.dies.modify 3 (fun d => { d with slow := 4 }) }
      (s.die 3).slow ≠ 0 ∧ (s.die 3).slowAt + 1000000 ≤ s.now)) := by decide +kernel

/-- Minimum and maximum: a NaN beside a number, a signalling one, zeros of both signs, and plain numbers. -/
theorem witness_MinimumAndMaximum :
    (f32.decode 0x7FC00000).isNan = true ∧ (f32.decode 0x7F800001).isSnan = true ∧ (f32.decode 0x80000000).isZero = true ∧
    (f32.decode 0).isZero = true ∧ (f32.decode 0x3F800000).isNan = false ∧ 0xFFFFFFFF < 2 ^ f32.width ∧ 0xFFFF < 2 ^ bf16.width ∧
    tagsIn [1] [(packed.thr 1024).rdW 2, (packed.thr 1024).rdW 2] := by
  refine ⟨by decide +kernel, by decide +kernel, by decide +kernel, by decide +kernel, by decide +kernel, by decide +kernel,
    by decide +kernel, 1, by decide, by decide +kernel⟩

/-- Scale bytes at their ends, an E2M1, an E4M3 and an E5M2 element that are finite, and mantissas of 2 and of 8 bits. -/
theorem witness_ScaleBytes : 0 < 256 ∧ 254 < 256 ∧ (255 : Nat) = 255 ∧ e2m1.decode 0xF = .fin true 3 1 ∧
    (match e4m3.decode 0x01, e5m2.decode 0x01 with | .fin _ _ _, .fin _ _ _ => true | _, _ => false) = true ∧ 2 ≤ 8 := by
  decide +kernel

/-- A tile inside and one at the end of the grant. -/
theorem witness_TilesOfAGroup : (1 : BitVec 3).toNat < (addressed.group 1).tileCount ∧ (addressed.group 1).tileCount ≤ (2 : BitVec 3).toNat ∧
    Alone addressed sl 0 2 := ⟨by decide +kernel, by decide +kernel, alone_of (by decide +kernel)⟩

/-- Turns: an issue slot with a candidate that fetches an instruction of 4 bytes, and one that fetches a word that is none; a slot
without a candidate; an event, a tick and none. -/
def fetching (w : Nat) : State := State.reset.withFetchWord 32 w

theorem witness_StepRunsTheDecodedInstruction :
    (fetching 0x0030A203).turns = [.issue 0 0] ∧
    (let s0 (w : Nat) : State := { fetching w with turns := [] }
     ([0x0030A203, 0xFFFFFF3F] : List Nat).all (fun w =>
      ((s0 w).candidates 0 0).head? == some ⟨1, [0], 0, none, 0, false⟩ &&
      (match (s0 w).fetch 1024 0x10004 2 with
       | .bytes v bs => (match v.fetch 1024 0x10006 2 with
          | .bytes v2 cs =>
            (leNat (bs ++ cs) == w) && (match decode (bs ++ cs) with
              | .ok r => w == 0x0030A203 && (match exec r.1 { v2 with sel := some sl } with
                | .next t => !v2.interlocked sl r.1 && !(s0 w).mustHold t && (s0 w).hasIssued (v2.stamped t sl r.1) 1 ⟨1, [0], 0, none, 0, false⟩ | _ => false)
              | .error _ => w == 0xFFFFFF3F && (match exec (.reservedEncoding (BitVec.ofNat 32 w)) { v2 with sel := some sl } with
                | .next t => !v2.interlocked sl (.reservedEncoding (BitVec.ofNat 32 w)) && !(s0 w).mustHold t &&
                    (s0 w).hasIssued (v2.stamped t sl (.reservedEncoding (BitVec.ofNat 32 w))) 1 ⟨1, [0], 0, none, 0, false⟩ | _ => false))
          | _ => false)
       | _ => false)) = true ∧ (s0 0).candidates 0 1 = [] ∧ ((s0 0).thr 1024).recheck = false ∧
      (let r := (s0 0x0030A203).modThr 1024 (fun x => { x with recheck := true })
       (match r.recheckTroupe sl with | .next t => r.hasIssued t 1 ⟨1, [0], 0, none, 0, false⟩ | _ => false)) = true) ∧ isEvent (.budgetPeriod 0) = true ∧
    u.rmKeeps (begins (.budgetPeriod 0)) (ends (.budgetPeriod 0)) = false ∧ supervises (.budgetPeriod 0) = false ∧
    (rmIn .recovering 0 none).rmKeeps (begins .ageSweep) (ends .ageSweep) = true ∧ supervises (.framePin 7) = true ∧
    u.rmKeeps (begins (.framePin 7)) (ends (.framePin 7)) = false ∧
    (u.modThr 1024 (fun x => { x with busy := x.busy.set 5 { due := 6 } })).interlocked sl (.add 4 5 6) = true ∧
    (let s0 := (fetching 0x0030A203).modThr 1024 (fun x => { x with len := 1 })
     (s0.thr 1024).gate = true ∧ State.insideClause (s0.thr 1024) 2 = false ∧
      (match s0.fetch 1024 0x10004 2 with | .bytes _ bs => bs == [0x03, 0xA2] | _ => false) = true) ∧ State.reset.turns = [] := by
  decide +kernel

/-- What is in its canonical form, and words that decode. -/
theorem witness_canonical : State.reset.Canonical ∧ (∃ t, step State.reset = .next t) ∧ (Instr.add 1 2 3).codesOk = true ∧
    0 < (Instr.add 1 2 3).parcels ∧ (match decode (encode (.add 1 2 3)) with | .ok _ => true | .error _ => false) = true :=
  ⟨by unfold State.Canonical; decide +kernel, ⟨_, rfl⟩, by decide, by decide, by decide +kernel⟩

/-! ## Single steps -/

/-- The thread after one step of the machine, from a thread that stands at the word. -/
def after (w : Nat) (f : Thread → Thread) : Option Thread :=
  match step ((State.reset.withFetchWord 32 w).modThr 1024 f) with
  | .next t => some (t.thr 1024)
  | _ => none

/-- One step with g5 and g6 given leaves a value in g4. -/
def gives (w : Nat) (x y r : Word) : Bool :=
  match after w (fun th => (th.wrG 5 x).wrG 6 y) with
  | some th => th.rdG 4 == r && th.pc == 0x10008
  | none => false

/-- R280: division by zero, and of the most negative number by −1; remainders. -/
theorem test_division : (gives 0x0A30A203 7 0 0x7FFFFFFF && gives 0x0A30A203 0xFFFFFFF9 0 0x80000000 &&
    gives 0x0A30A203 0x80000000 0xFFFFFFFF 0x80000000 && gives 0x0A30A203 0xFFFFFFF9 2 0xFFFFFFFD &&
    gives 0x0C30A203 7 0 0xFFFFFFFF && gives 0x0E30A203 0x80000000 0xFFFFFFFF 0 && gives 0x0E30A203 0xFFFFFFF9 2 0xFFFFFFFF &&
    gives 0x1030A203 7 0 7) = true := by decide +kernel

/-- R279: sums and products wrap, the high halves differ in their signs, shifts take five bits. -/
theorem test_integer : (gives 0x0030A203 0xFFFFFFFF 2 1 && gives 0x0230A203 0 1 0xFFFFFFFF && gives 0x0430A203 0x10001 0x10001 0x20001 &&
    gives 0x0630A203 0xFFFFFFFF 2 0xFFFFFFFF && gives 0x0830A203 0xFFFFFFFF 2 1 && gives 0x1A30A203 1 33 2 &&
    gives 0x1C30A203 0x80000000 31 1 && gives 0x1E30A203 0x80000000 31 0xFFFFFFFF && gives 0x2030A203 0x80000001 1 3) = true := by
  decide +kernel

/-- R282, R283: XORI with a sign-extended immediate, and SARI of a negative number. -/
theorem test_immediates : ((match after 0xFFF8820B (fun x => x.wrG 4 1) with | some x => x.rdG 4 == 0xFFFFFFFE | none => false) &&
    (match after 0x8018C28D (fun x => x.wrG 6 0x80000000) with | some x => x.rdG 5 == 0xF0000000 | none => false)) = true := by
  decide +kernel

/-- R249: g0 reads as 0 and discards writes: ADD g0, g5, g6. -/
theorem test_g0 : (match after 0x0030A003 (fun th => (th.wrG 5 3).wrG 6 4) with
    | some th => th.rdG 0 == 0 && th.pc == 0x10008
    | none => false) = true := by decide +kernel

/-- R235, R289: FADD of 1 and 2^-24 is inexact and rounds to even; of infinities of both signs it is the canonical NaN. -/
theorem test_fadd :
    ((match after 0x0030A219 (fun th => (th.wrG 5 0x3F800000).wrG 6 0x33800000) with
      | some th => th.rdG 4 == 0x3F800000 && th.fstat == fINX
      | none => false) &&
     (match after 0x0030A219 (fun th => (th.wrG 5 0x7F800000).wrG 6 0xFF800000) with
      | some th => th.rdG 4 == 0x7FC00000 && th.fstat == fINV
      | none => false)) = true := by decide +kernel

/-- One step from a word with a header behind its clause, at 0x10008. -/
def leaps (w : Nat) (a15 : DWord) : Option Thread :=
  let s := State.reset.withFetchWord 32 w
  let v := { s with kernels := s.kernels.modify 1 (fun k => { k with code := Memory.store k.code 8 [0x7F, 0x02, 0, 0] }) }
  match step (v.modThr 1024 (fun x => x.wrA 15 a15)) with
  | .next t => some (t.thr 1024)
  | _ => none

/-- R264, R295–R297: RET to the header; CALL +2 with its link; BR with p0 negated falls through; a RET to what is no header traps
TARGET, and one to an odd address ADDRESS. -/
theorem test_transfers :
    ((match leaps 0x0401E02B 0x10008 with | some x => x.hdr == 0x10008 && !x.gate && x.rdA 15 == 0x10008 | none => false) &&
     (match leaps 0x00001029 0 with | some x => x.hdr == 0x10008 && x.rdA 15 == 0x10008 | none => false) &&
     (match leaps 0x00001427 0 with | some x => x.pc == 0x10008 && x.run == .runnable | none => false) &&
     (match leaps 0x0401E02B 0x1000C with | some x => x.run == .stopped && x.cause == BitVec.ofNat 8 Cause.target.code | none => false) &&
     (match leaps 0x0401E02B 0x10009 with | some x => x.cause == BitVec.ofNat 8 Cause.address.code && x.fva == 0x10009 | none => false)) = true := by
  decide +kernel

/-- R48: EXIT ends the thread, and its group, of which it was the last, is RETIRING. -/
theorem test_exit : (match step (State.reset.withFetchWord 32 0x0000002D) with
    | .next t => (t.thr 1024).run == .exited && (t.group 1).state == .retiring
    | _ => false) = true := by decide +kernel

/-- A word of no row traps ILLEGAL, cause 1, before anything changes. -/
theorem test_reserved : (match step (State.reset.withFetchWord 32 0xFFFFFF3F) with
    | .next t => (t.thr 1024).run == .stopped && (t.thr 1024).cause == 1 && (t.group 1).state == .halting && t.rm.mirror.length == 1
    | _ => false) = true := by decide +kernel

/-- R303: a load counts its flag, and the address is taken from its register. -/
theorem test_ld : (match step ((State.reset.withFetchWord 32 0x01224231).modThr 1024 (fun x => x.wrA 2 0x2000)) with
    | .next t => (t.thr 1024).flags.get 0 == 1 && t.accs.cells.length == 1
    | _ => false) = true := by decide +kernel

/-- Nothing to do: the clock goes on; an event on the tape is performed. -/
theorem test_tick : (match step State.reset with
    | .next t => t.cycle == 1
    | _ => false) = true := by decide +kernel

theorem test_event : (match step { State.reset with turns := [.event (.linkEnable (.uaLink 3))] } with
    | .next t => t.linkState (.uaLink 3) == .training && t.turns == []
    | _ => false) = true := by decide +kernel

/-- R134: a row of 16 KiB in tiles of 4 KiB by two rows of three: the pages that follow the first tile, by hand from R325. -/
theorem test_tile_ahead : (let t : Tsr := ⟨0x10000, 1, 2, 4, 0, true, [4096, 3], [0, 16384], [1024, 2]⟩
    aheadPages t ([0, 0], t.tile) == [17, 21, 18, 22, 19, 23, 24, 25, 26, 27] && aheadPages t ([3072, 2], t.tile) == []) = true := by
  decide +kernel

end Sys2Proof.Tests
end

section
/-! What device reset leaves (R7): each table reads its default value, and each die its own registers. -/

namespace Sys2Proof.Machine

variable {α : Type}

theorem lookup_map_pair (f : Nat → α) (l : List Nat) (k : Nat) :
    lookup k (l.map (fun j => (j, f j))) = if k ∈ l then some (f k) else none := by
  induction l with
  | nil => rfl
  | cons j r ih =>
    rw [List.map_cons, lookup, ih]
    by_cases h : j = k
    · subst h; simp
    · simp [h, Ne.symm h]

/-- A table that lists the keys below n reads each of them as listed. -/
theorem Tab.get_range_map [Inhabited α] (f : Nat → α) {n k : Nat} (h : k < n) :
    (⟨(List.range n).map (fun j => (j, f j))⟩ : Tab α).get k = f k := by
  rw [Tab.get, lookup_map_pair, if_pos (List.mem_range.2 h), Option.getD_some]

namespace Die

theorem atReset_bgtLoop (d : Nat) {c : Nat} (h : c < 8) : (atReset d).bgtLoop.get c = 1024 := Tab.get_range_map _ h
theorem atReset_bgtHbm (d : Nat) {c : Nat} (h : c < 8) : (atReset d).bgtHbm.get c = 0x7FF := Tab.get_range_map _ h
theorem atReset_tqTarget (d : Nat) {n : Nat} (h : n < 64) : (atReset d).tqTarget.get n = 0x4000 := Tab.get_range_map _ h
@[simp] theorem atReset_stall (d c : Nat) : (atReset d).stall.get c = 0 := rfl

end Die

namespace State

theorem reset_die {d : Nat} (h : d < 4) : reset.die d = Die.atReset d := Tab.get_range_map _ h

@[simp] theorem reset_part (p : Nat) : reset.part p = default := rfl
@[simp] theorem reset_tenant (n : Nat) : reset.tenant n = default := rfl
@[simp] theorem reset_thr (t : Nat) : reset.thr t = default := rfl
@[simp] theorem reset_ctx (c : Nat) : reset.ctx c = default := rfl
@[simp] theorem reset_queue (q : Nat) : reset.queue q = default := rfl
@[simp] theorem reset_frame (f : Nat) : reset.frame f = default := rfl
@[simp] theorem reset_ownerOf (w : Nat) : reset.ownerOf w = none := rfl

theorem reset_linkState (l : LinkId) : reset.linkState l = .disabled := by
  unfold linkState
  cases linkKey l with
  | none => rfl
  | some k => rfl

/-- R184: no stall, and both budgets of a class at their largest. -/
theorem reset_budgetWord {d c : Nat} (hd : d < 4) (hc : c < 8) : reset.budgetWord d c = 0x07FF0400 := by
  simp [budgetWord, reset_die hd, Die.atReset_bgtLoop d hc, Die.atReset_bgtHbm d hc]

end State

/-- Settles O52: the registers outside the tables as `State.reset` writes them, a die's by `reset_die`, and every entry of a table that
lists nothing as the default of its type. -/
theorem resetState : Obligations.ResetState := by
  refine ⟨rfl, rfl, rfl, rfl, rfl, rfl, rfl, fun p => ?part, fun d hd => ?die,
    fun n => congrArg Tenant.deleg (State.reset_tenant n), State.reset_linkState, Tab.get_empty,
    fun t => congrArg Thread.run (State.reset_thr t), fun c => congrArg Ctx.state (State.reset_ctx c),
    fun q => congrArg Queue.state (State.reset_queue q), fun f => congrArg Frame.state (State.reset_frame f),
    Tab.get_empty, State.reset_ownerOf⟩
  case part =>
    rw [State.reset_part]
    exact ⟨rfl, rfl, rfl⟩
  case die =>
    rw [State.reset_die hd]
    exact ⟨rfl, rfl, rfl, rfl, rfl, fun _ hc => State.reset_budgetWord hd hc, fun _ hn => Die.atReset_tqTarget d hn⟩

end Sys2Proof.Machine
end

section
/-! What a store at a home, an error record and a translation leave as it is (R100, R133, R144, R215, R216). -/

namespace Sys2Proof.Machine

/-- A fold whose steps all leave a view of the state as it is leaves it so. -/
theorem foldl_keeps {σ β γ : Type} (view : σ → γ) (f : σ → β → σ) (h : ∀ s x, view (f s x) = view s) (l : List β) (s : σ) :
    view (l.foldl f s) = view s := by
  induction l generalizing s with
  | nil => rfl
  | cons x r ih => rw [List.foldl_cons, ih, h]

namespace State

/-- What of a state no store at a home, no error record and no translation changes: everything but memory and its copies, the journals
of bindings, the mirror of the error logger, the engine state of dies, and frames; of a partition the size of its record queue stays,
and of a die the clusters started and whether it has failed. -/
def shell (s : State) : State × (Nat → Nat) × (Nat → Nat × Bool) :=
  ({ s with mem := {}, poison := {}, owner := {}, l1 := {}, dsp := {}, lpoison := {}, parts := {}, dies := {}, frames := {}, pending := {},
            nextId := 0, rm := { s.rm with mirror := [], mirrorDue := 0, severe := [] } },
    fun p => (s.part p).erq.log2cap, fun d => ((s.die d).started, (s.die d).failed))

theorem modPart_shell (s : State) (p : Nat) (f : Part → Part) (h : (f (s.part p)).erq.log2cap = (s.part p).erq.log2cap) :
    (s.modPart p f).shell = s.shell := by
  refine Prod.ext rfl (Prod.ext (funext fun q => ?_) rfl)
  show ((s.modPart p f).part q).erq.log2cap = (s.part q).erq.log2cap
  by_cases hq : q = p
  · rw [hq, modPart_part_self, h]
  · rw [modPart_part_ne _ _ _ hq]

theorem modDie_shell (s : State) (d : Nat) (f : Die → Die) (h : ∀ x, (f x).started = x.started ∧ (f x).failed = x.failed) :
    (s.modDie d f).shell = s.shell := by
  refine Prod.ext rfl (Prod.ext rfl (funext fun e => ?_))
  show (((s.dies.modify d f).get e).started, ((s.dies.modify d f).get e).failed) = ((s.dies.get e).started, (s.dies.get e).failed)
  rw [Tab.get_modify]
  split_ifs with he
  · rw [he, (h _).1, (h _).2]
  · rfl

/-! Views of the shell. -/

theorem shell_groups {s t : State} (h : t.shell = s.shell) : t.groups = s.groups := congrArg (fun x => x.1.groups) h
theorem shell_kernels {s t : State} (h : t.shell = s.shell) : t.kernels = s.kernels := congrArg (fun x => x.1.kernels) h
theorem shell_queues {s t : State} (h : t.shell = s.shell) : t.queues = s.queues := congrArg (fun x => x.1.queues) h
theorem shell_log2cap {s t : State} (h : t.shell = s.shell) (p : Nat) : (t.part p).erq.log2cap = (s.part p).erq.log2cap :=
  congrArg (fun x => x.2.1 p) h

/-! Stores at a home. -/

@[simp] theorem forward_shell (s : State) (w : Nat) : (s.forward w).shell = s.shell := by
  unfold forward
  cases s.ownerOf w <;> rfl

@[simp] theorem revoke_shell (s : State) (w : Nat) : (s.revoke w).shell = s.shell := by
  unfold revoke
  cases s.ownerOf w with
  | none => rfl
  | some c => dsimp only; split <;> rfl

@[simp] theorem homeStoreRaw_shell (s : State) (pa : Nat) (bs : List Byte) : (s.homeStoreRaw pa bs).shell = s.shell := by
  refine foldl_keeps shell _ (fun u w => ?_) (wordsOf pa bs.length) s
  dsimp only
  split
  · exact revoke_shell u w
  · exact forward_shell u w

@[simp] theorem setPending_shell (s : State) (k : Nat) (p : Option Pending) : (s.setPending k p).shell = s.shell := rfl

section
variable {put : State → Nat → List Byte → State} (hput : ∀ s pa bs, (put s pa bs).shell = s.shell)
include hput

theorem queueToBy_shell (s : State) (p : Nat) (e : ErrRec) : (queueToBy put s p e).shell = s.shell := by
  unfold queueToBy
  dsimp only
  split_ifs
  · rfl
  · exact modPart_shell _ _ _ rfl
  · rw [modPart_shell, hput]
    exact (shell_log2cap (hput s _ _) p).symm

theorem emitBy_shell (s : State) (e : ErrRec) : (emitBy put s e).shell = s.shell :=
  queueToBy_shell hput s e.part e

theorem logBy_shell (s : State) (e : ErrRec) : (logBy put s e).shell = s.shell := by
  unfold logBy
  dsimp only
  split_ifs
  · exact emitBy_shell hput s _
  · cases s.pendingOf { e with time := s.now } with
    | none => rfl
    | some kp =>
      dsimp only
      split_ifs
      · rw [setPending_shell, emitBy_shell hput]
      · rfl
      · rw [setPending_shell, setPending_shell, emitBy_shell hput]

theorem putEntryBy_shell (s : State) (key : Nat) (old : Word) (bad : Bool) (e : Option (Bool × Nat)) :
    (putEntryBy put s key old bad e).shell = s.shell := by
  match e with
  | none => rfl
  | some (true, _) => rfl
  | some (false, a) => exact hput s a _

theorem captureWordBy_shell (s : State) (w p n opnd idx : Nat) (old : Word) (bad : Bool) :
    (captureWordBy put s w p n opnd idx old bad).shell = s.shell := by
  unfold captureWordBy
  dsimp only
  split_ifs <;> simp only [putEntryBy_shell hput, logBy_shell hput, modPart_shell]

theorem captureInBy_shell (s : State) (w p n : Nat) : (captureInBy put s w p n).shell = s.shell := by
  unfold captureInBy
  dsimp only
  split
  · rfl
  · refine foldl_keeps shell _ (fun u r => ?_) _ s
    split_ifs <;> simp only [captureWordBy_shell hput, modPart_shell]

theorem captureBy_shell (s : State) (ws : List Nat) : (captureBy put s ws).shell = s.shell :=
  foldl_keeps shell _ (fun u _ => foldl_keeps shell _ (fun v _ => foldl_keeps shell _
    (fun x _ => captureInBy_shell hput x _ _ _) _ v) _ u) _ s

end

theorem writeHome_shell (n : Nat) (s : State) (pa : Nat) (bs : List Byte) : (writeHome n s pa bs).shell = s.shell := by
  induction n generalizing s pa bs with
  | zero => exact homeStoreRaw_shell s pa bs
  | succ n ih => rw [writeHome, homeStoreRaw_shell, captureBy_shell ih]

@[simp] theorem homeStore_shell (s : State) (pa : Nat) (bs : List Byte) : (s.homeStore pa bs).shell = s.shell := writeHome_shell 4096 s pa bs
@[simp] theorem queueTo_shell (s : State) (p : Nat) (e : ErrRec) : (s.queueTo p e).shell = s.shell := queueToBy_shell homeStore_shell s p e
@[simp] theorem log_shell (s : State) (e : ErrRec) : (s.log e).shell = s.shell := logBy_shell homeStore_shell s e
@[simp] theorem homeAdd_shell (s : State) (pa : Nat) (v : Word) : (s.homeAdd pa v).shell = s.shell := homeStore_shell s pa _

/-! Translations: the lines that a walk reads, the bits that it sets in the leaf, the die's TLB. -/

@[simp] theorem burst_shell (s : State) (pa n : Nat) : (s.burst pa n).shell = s.shell := modDie_shell s _ _ (fun _ => ⟨rfl, rfl⟩)

@[simp] theorem countLine_shell (s : State) (die pa : Nat) : (s.countLine die pa).shell = s.shell := by
  refine modDie_shell s _ _ (fun d => ?_)
  split_ifs <;> exact ⟨rfl, rfl⟩

@[simp] theorem cleanLine_shell (s : State) (die pa : Nat) : (s.cleanLine die pa).shell = s.shell := by
  unfold cleanLine
  dsimp only
  split
  · refine Eq.trans (modDie_shell _ _ _ (fun _ => ?_)) (burst_shell s pa 2)
    exact ⟨rfl, rfl⟩
  · rfl

@[simp] theorem useSys_shell (s : State) (die pa n : Nat) (wr : Bool) : (s.useSys die pa n wr).shell = s.shell := by
  have hcount := foldl_keeps shell (fun s a => countLine s die a) (fun u a => countLine_shell u die a) (linesAt pa n) s
  unfold useSys
  cases wr with
  | true => exact (burst_shell _ _ _).trans hcount
  | false => exact (burst_shell _ _ _).trans ((foldl_keeps shell _ (fun u a => cleanLine_shell u die a) _ _).trans hcount)

theorem charge_keeps (d : Die) (t : Option Nat) (more : Bool) :
    (charge d t more).started = d.started ∧ (charge d t more).failed = d.failed := by
  cases t <;> exact ⟨rfl, rfl⟩

@[simp] theorem dropLine_shell (s : State) (die k : Nat) (x : L2Line) : (s.dropLine die k x).shell = s.shell := by
  have hfwd := foldl_keeps shell _ forward_shell ((List.range 32).map (· + x.line * 32)) s
  refine Eq.trans (modDie_shell _ _ _ (fun _ => charge_keeps _ _ _)) ?_
  split
  · exact (burst_shell _ _ _).trans hfwd
  · exact hfwd

@[simp] theorem useLine_shell (s : State) (die pa : Nat) (tenant : Option Nat) (first wr : Bool) :
    (s.useLine die pa tenant first wr).shell = s.shell := by
  unfold useLine
  dsimp only
  split
  · exact useSys_shell s die pa 1 wr
  · split
    · refine Eq.trans (modDie_shell _ _ _ (fun _ => ?_)) (countLine_shell s die pa)
      exact ⟨rfl, rfl⟩
    · refine Eq.trans (modDie_shell _ _ _ (fun _ => charge_keeps _ _ _)) (Eq.trans (burst_shell _ _ _) ?_)
      split_ifs
      · exact countLine_shell s die pa
      · split <;> simp only [dropLine_shell, countLine_shell]

@[simp] theorem readPath_shell (s : State) (die : Nat) (asid : BitVec 16) (va : Nat) : (s.readPath die asid va).shell = s.shell := by
  unfold readPath
  split
  · rfl
  · exact foldl_keeps shell _ (fun u a => useLine_shell u die a _ false false) _ s

@[simp] theorem setLeafBits_shell (s : State) (a low : Nat) : (s.setLeafBits a low).shell = s.shell := by
  rw [setLeafBits, burst_shell, homeStore_shell]

@[simp] theorem noteBlocked_shell (s : State) (die pa : Nat) : (s.noteBlocked die pa).shell = s.shell := by
  unfold noteBlocked
  split <;> simp only [log_shell]

@[simp] theorem deniedRoot_shell (s : State) (root : Nat) (die : Option Nat) (va : Nat) (f : XFault) :
    (s.deniedRoot root die va f).shell = s.shell := by
  unfold deniedRoot
  split_ifs
  · rfl
  · split <;> simp only [noteBlocked_shell]
  · rfl
  · split
    · split_ifs <;> simp only [setLeafBits_shell]
    · rfl

@[simp] theorem denied_shell (s : State) (die : Nat) (asid : BitVec 16) (va : Nat) (f : XFault) :
    (s.denied die asid va f).shell = s.shell := by rw [denied, deniedRoot_shell, readPath_shell]

@[simp] theorem dirtied_shell (s : State) (pa level : Nat) : (s.dirtied pa level).shell = s.shell := by
  unfold dirtied
  dsimp only
  split
  · refine foldl_keeps shell _ (fun u i => ?_) (List.range 512) s
    rfl
  · rfl

theorem walkRoot_shell {s t : State} {root : Nat} {die : Option Nat} {asid : BitVec 16} {va : Nat} {n : Need} {e : TlbEntry}
    (h : s.walkRoot root die asid va n = .ok (t, e)) : t.shell = s.shell := by
  unfold walkRoot at h
  dsimp only at h
  split at h
  · cases h
  split at h
  · cases h
  split at h
  · cases h
  split at h
  · cases h
  cases h
  split_ifs <;> simp only [dirtied_shell, setLeafBits_shell]

theorem translateDie_shell {s t : State} {die : Nat} {asid : BitVec 16} {va pa : Nat} {n : Need}
    (h : s.translateDie die asid va n = .ok (t, pa)) : t.shell = s.shell := by
  unfold translateDie at h
  split at h
  · cases h; rfl
  split at h
  · cases h
  case h_2 s1 e hw =>
    cases h
    refine Eq.trans (modDie_shell _ _ _ (fun _ => ?_)) (Eq.trans (walkRoot_shell hw) (readPath_shell s die asid va))
    exact ⟨rfl, rfl⟩

/-- A unit's translation leaves the shell as it is, whether it succeeds or not. -/
theorem dieAddr_shell (s : State) (die : Nat) (asid : BitVec 16) (va : Nat) (n : Need) :
    (∀ t pa, s.dieAddr die asid va n = .ok (t, pa) → t.shell = s.shell) ∧
    (∀ t, s.dieAddr die asid va n = .error t → t.shell = s.shell) := by
  unfold dieAddr
  cases hr : s.translateDie die asid va n with
  | ok r =>
    refine ⟨fun t pa h => ?_, fun t h => nomatch h⟩
    cases h
    exact translateDie_shell hr
  | error f =>
    refine ⟨fun t pa h => (nomatch h), fun t h => ?_⟩
    cases h
    exact denied_shell s die asid va f

@[simp] theorem completionAdd_shell (s : State) (k : Nat) (v : Word) : (s.completionAdd k v).shell = s.shell := by
  unfold completionAdd
  dsimp only
  split
  · rfl
  · have hkeep := dieAddr_shell s (s.kernel k).die (s.kernel k).asid (s.kernel k).doneVa.toNat .write
    split
    case h_1 s1 pa h => rw [homeAdd_shell, hkeep.1 s1 pa h]
    case h_2 s1 h => rw [log_shell, hkeep.2 s1 h]

end State
end Sys2Proof.Machine
end

section
/-! Device reset, boot and cluster start (R10, R208, R222, R223, R226). -/

namespace Sys2Proof.Machine

/-- A field of a register, cut out of its value. -/
theorem cut_toNat (v : DWord) (lo n : Nat) : cut v.toNat lo n = (v.extractLsb' lo n).toNat := by
  rw [cut, BitVec.extractLsb'_toNat, Nat.shiftRight_eq_div_pow]

/-- Every link of the module stands in the list of its links. -/
theorem mem_allLinks {l : LinkId} (h : (linkKey l).isSome = true) : l ∈ allLinks := by
  unfold linkKey at h
  cases l <;> simp_all [allLinks]

namespace State

theorem failingStep_eq_six {b : BootRecord} (himage : b.imageAOk = true ∨ b.imageBOk = true) (hrecord : b.recordOk = true)
    (hfw : b.firmwareOk = true) (hmap : mapOk b.coreMap = true) (hdiv : divisionOk b.owner b.dlocal = true) (hstart : b.startOk = true) :
    failingStep b = 6 := by
  rcases himage with h | h <;> simp [failingStep, *]

theorem failingStep_eq_five {b : BootRecord} (himage : b.imageAOk = true ∨ b.imageBOk = true) (hrecord : b.recordOk = true)
    (hfw : b.firmwareOk = true) (hmap : mapOk b.coreMap = true) (h5 : divisionOk b.owner b.dlocal = false ∨ b.startOk = false) :
    failingStep b = 5 := by
  rcases himage with h | h <;> rcases h5 with h5 | h5 <;> simp [failingStep, *]

theorem failingStep_lt_five {b : BootRecord}
    (h : b.recordOk = false ∨ b.firmwareOk = false ∨ mapOk b.coreMap = false ∨ (b.imageAOk = false ∧ b.imageBOk = false)) :
    failingStep b < 5 := by
  unfold failingStep
  split_ifs with h2 h3 h4 h5
  · decide
  · decide
  · decide
  all_goals
    exfalso
    simp_all

/-- What the statement says of the state that every device reset leaves, as one view. -/
def remains (t : State) : Tab Thread × Tab Ctx × Tab Group × Tab Queue × Tab (Option Access) × Tab Session × Tab Nat × Option Reconf ×
    List Reply × BitVec 20 :=
  (t.threads, t.ctxs, t.groups, t.queues, t.accs, t.sessions, t.owner, t.reconf, t.rm.replies, t.rm.rstc)

/-- RSTC after a device reset: its upper bits stay, but after a power-on. -/
def rstcAfter (s : State) (cause : ResetCause) : BitVec 20 :=
  if cause = .powerOn then 1 else ((s.rm.rstc >>> 11) <<< 11) ||| BitVec.ofNat 20 (2 ^ resetBit cause)

theorem upper_bits (x : BitVec 20) : x / (2 ^ 11 : BitVec 20) * (2 ^ 11 : BitVec 20) = (x >>> 11) <<< 11 := by
  apply BitVec.eq_of_toNat_eq
  simp [BitVec.toNat_shiftLeft, BitVec.toNat_ushiftRight, Nat.shiftLeft_eq, Nat.shiftRight_eq_div_pow]

theorem afterReset_remains (s : State) (cause : ResetCause) :
    (s.afterReset cause).remains = ({}, {}, {}, {}, {}, {}, {}, none, s.rm.replies, s.rstcAfter cause) := by
  have hrstc : (s.afterReset cause).rm.rstc = s.rstcAfter cause := by
    show (if (cause != .powerOn) = true then _ else _) = _
    rw [rstcAfter, upper_bits]
    cases cause <;> rfl
  rw [remains, hrstc]
  rfl

/-- A record of boot, of severity 4, goes to the mirror and to the hub die's list alone: the module is no partition. -/
theorem bootRecord_fatal (s : State) (code action : Nat) : ∃ e d v, e.code = code ∧ e.sev = 4 ∧
    s.bootRecord code 4 action = { s with rm := { s.rm with mirror := s.rm.mirror ++ [e], mirrorDue := d, severe := v } } := by
  let e : ErrRec := { code := code, sev := 4, action := action, eclass := 16, part := 0xFF, einst := 4, time := s.now }
  exact ⟨e, if s.rm.state = .recovering then s.rm.mirrorDue + 1 else s.rm.mirrorDue,
    (s.rm.severe ++ [e]).drop (s.rm.severe.length - 15), rfl, rfl, rfl⟩

/-! The division of step 5. -/

theorem foldl_modPart_running (l : List Nat) (s : State) (p : Nat) (h : p ∈ l ∨ (s.part p).state = .running) :
    ((l.foldl (fun s p => s.modPart p (fun x => { x with state := .running })) s).part p).state = .running := by
  induction l generalizing s with
  | nil => exact h.resolve_left (by simp)
  | cons q r ih =>
    refine ih _ ?_
    by_cases hq : p = q
    · right; rw [hq, modPart_part_self]
    · rw [modPart_part_ne _ _ _ hq]
      exact h.imp_left (fun h => (List.mem_cons.1 h).resolve_left hq)

theorem foldl_training (f : Tab LinkState → LinkId → Tab LinkState)
    (hf : ∀ t l, f t l = (linkKey l).elim t (fun k => t.set k .training)) (ls : List LinkId) (t : Tab LinkState) (l : LinkId) (k : Nat)
    (hk : linkKey l = some k) (h : l ∈ ls ∨ t.get k = .training) : (ls.foldl f t).get k = .training := by
  induction ls generalizing t with
  | nil => exact h.resolve_left (by simp)
  | cons m r ih =>
    refine ih _ ?_
    rw [hf]
    by_cases hm : l = m
    · right
      rw [← hm, hk]
      exact Tab.get_set_self t k _
    · refine (h.imp_left (fun h => (List.mem_cons.1 h).resolve_left hm)).imp_right (fun h => ?_)
      cases linkKey m with
      | none => exact h
      | some j => simp only [Option.elim, Tab.get_set, h, ite_self]

/-- Step 5 leaves a view of the state as the new division makes it, where no die, partition or link and neither of the Ringmaster's
fields that it writes shows. -/
theorem bootDivision_keeps {γ : Type} (view : State → γ) (s : State) (b : BootRecord)
    (hdie : ∀ u d f, view (modDie u d f) = view u) (hpart : ∀ u p f, view (modPart u p f) = view u)
    (hlast : ∀ (u : State) l, view { u with links := l, rm := { u.rm with booted := true, coreMap := b.coreMap } } = view u) :
    view (s.bootDivision b) = view { s with owners := b.owner, dlocal := b.dlocal } := by
  unfold bootDivision
  rw [hlast, foldl_keeps view _ (fun u p => hpart u p _), foldl_keeps view _ (fun u d => hdie u d _)]

theorem bootDivision_owners (s : State) (b : BootRecord) : (s.bootDivision b).owners = b.owner :=
  bootDivision_keeps State.owners s b (fun _ _ _ => rfl) (fun _ _ _ => rfl) (fun _ _ => rfl)

theorem bootDivision_dlocal (s : State) (b : BootRecord) : (s.bootDivision b).dlocal = b.dlocal :=
  bootDivision_keeps State.dlocal s b (fun _ _ _ => rfl) (fun _ _ _ => rfl) (fun _ _ => rfl)

theorem bootDivision_remains (s : State) (b : BootRecord) : (s.bootDivision b).remains = s.remains :=
  bootDivision_keeps remains s b (fun _ _ _ => rfl) (fun _ _ _ => rfl) (fun _ _ => rfl)

theorem bootDivision_rmState (s : State) (b : BootRecord) : (s.bootDivision b).rm.state = s.rm.state :=
  bootDivision_keeps (fun u => u.rm.state) s b (fun _ _ _ => rfl) (fun _ _ _ => rfl) (fun _ _ => rfl)

theorem bootDivision_coreMap (s : State) (b : BootRecord) : (s.bootDivision b).rm.coreMap = b.coreMap := rfl

theorem bootDivision_log (s : State) (b : BootRecord) : (s.bootDivision b).rm.log = s.rm.log :=
  bootDivision_keeps (fun u => u.rm.log) s b (fun _ _ _ => rfl) (fun _ _ _ => rfl) (fun _ _ => rfl)

theorem bootDivision_running (s : State) (b : BootRecord) {q : Nat} (hq : q < 4) :
    ((s.bootDivision b).part ((s.bootDivision b).partOf q)).state = .running := by
  have hpart : (s.bootDivision b).partOf q = ownerAt b.owner q := by rw [partOf, bootDivision_owners]; rfl
  rw [hpart]
  refine foldl_modPart_running _ _ _ (.inl ?_)
  exact List.mem_eraseDups.2 (List.mem_map.2 ⟨q, List.mem_range.2 hq, rfl⟩)

theorem bootDivision_training (s : State) (b : BootRecord) {l : LinkId} (h : (linkKey l).isSome = true) :
    (s.bootDivision b).linkState l = .training := by
  obtain ⟨k, hk⟩ := Option.isSome_iff_exists.1 h
  simp only [linkState, hk, bootDivision]
  refine foldl_training _ (fun t m => ?_) _ _ l k hk (.inl (mem_allLinks h))
  cases linkKey m <;> rfl

/-! The boot, by the step that fails. -/

/-- The state with the steps that the boot reaches measured, and whether the identity key is there (R208). -/
def measured (s : State) (b : BootRecord) : State :=
  s.setRm (fun r => { r with
    attests := b.identityOk, log := (b.digests.take (min (failingStep b) 5)).foldl extendLog r.log, toMeasure := b.digests.drop 5 })

theorem measured_log (s : State) (b : BootRecord) :
    (s.measured b).rm.log = (b.digests.take (min (failingStep b) 5)).foldl extendLog s.rm.log := rfl

theorem measured_remains (s : State) (b : BootRecord) : (s.measured b).remains = s.remains := rfl

theorem measured_rmState (s : State) (b : BootRecord) : (s.measured b).rm.state = s.rm.state := rfl

theorem afterReset_log (s : State) (cause : ResetCause) : (s.afterReset cause).rm.log = 0 := rfl

theorem boot_good (s : State) {b : BootRecord} (hid : b.identityOk = true) (h6 : failingStep b = 6) :
    s.boot b = (s.measured b).bootDivision b := by
  simp only [boot, measured, h6, hid, if_true]

/-- The state in which a boot that cannot end writes its last record: measured, and with a record of a missing identity key. -/
def beforeBootFails (s : State) (b : BootRecord) : State :=
  if b.identityOk then s.measured b else (s.measured b).bootRecord 0x0902 4 7

theorem boot_step_five (s : State) {b : BootRecord} (h5 : failingStep b = 5) :
    s.boot b = (s.beforeBootFails b).bootRecord Config.bootCode 4 6 := by
  simp only [boot, beforeBootFails, measured, h5]
  rfl

theorem boot_recovery (s : State) {b : BootRecord} (h : failingStep b < 5) :
    s.boot b = ((s.beforeBootFails b).bootRecord 0x0901 4 7).setRm (fun r => { r with state := .recoveryMode }) := by
  simp only [boot, beforeBootFails, measured, show failingStep b ≠ 6 by omega, show failingStep b ≠ 5 by omega, if_false]

/-- A record of boot of severity 4 keeps every view that does not show the mirror and the hub die's list, and is the last record. -/
theorem bootRecord_keeps {γ : Type} (view : State → γ)
    (hrm : ∀ (u : State) m d v, view { u with rm := { u.rm with mirror := m, mirrorDue := d, severe := v } } = view u)
    (s : State) (code action : Nat) : view (s.bootRecord code 4 action) = view s := by
  obtain ⟨e, d, v, -, -, h⟩ := s.bootRecord_fatal code action
  rw [h, hrm]

theorem bootRecord_last (s : State) (code action : Nat) : LastRecord (s.bootRecord code 4 action) code 4 := by
  obtain ⟨e, d, v, hc, hs, h⟩ := s.bootRecord_fatal code action
  exact ⟨e, by rw [h]; exact List.getLast?_concat, hc, hs⟩

theorem beforeBootFails_keeps {γ : Type} (view : State → γ)
    (hrm : ∀ (u : State) m d v, view { u with rm := { u.rm with mirror := m, mirrorDue := d, severe := v } } = view u)
    (hmeasured : ∀ (u : State) a l d, view { u with rm := { u.rm with attests := a, log := l, toMeasure := d } } = view u)
    (s : State) (b : BootRecord) : view (s.beforeBootFails b) = view s := by
  unfold beforeBootFails
  split
  · exact hmeasured _ _ _ _
  · rw [bootRecord_keeps view hrm]; exact hmeasured _ _ _ _

end State

/-! Device reset, by the step at which its boot fails. -/

/-- What a boot leaves of a reset is what the statement says of it. -/
theorem deviceReset_left {s t : State} {cause : ResetCause} (h : t.remains = (s.afterReset cause).remains) :
    t.threads = {} ∧ t.ctxs = {} ∧ t.groups = {} ∧ t.queues = {} ∧ t.accs = {} ∧ t.sessions = {} ∧ t.owner = {} ∧ t.reconf = none ∧
      t.rm.replies = s.rm.replies ∧ t.rm.rstc = s.rstcAfter cause := by
  rw [State.afterReset_remains] at h
  simpa only [State.remains, Prod.mk.injEq] using h

theorem deviceReset_good (cause : ResetCause) (s : State) {b : BootRecord} (hid : b.identityOk = true) (h6 : State.failingStep b = 6) :
    let t := s.deviceReset cause b
    t.remains = (s.afterReset cause).remains ∧ t.owners = b.owner ∧ t.dlocal = b.dlocal ∧ t.rm.state = .booting ∧
      t.rm.coreMap = b.coreMap ∧ (∀ q, q < 4 → (t.part (t.partOf q)).state = .running) ∧
      (∀ l, (linkKey l).isSome = true → t.linkState l = .training) ∧ t.rm.log = (b.digests.take 5).foldl extendLog 0 := by
  simp only [State.deviceReset, State.boot_good _ hid h6]
  refine ⟨(State.bootDivision_remains _ b).trans (State.measured_remains _ b), State.bootDivision_owners _ b,
    State.bootDivision_dlocal _ b, (State.bootDivision_rmState _ b).trans (State.measured_rmState _ b), State.bootDivision_coreMap _ b,
    fun q hq => State.bootDivision_running _ b hq, fun l hl => State.bootDivision_training _ b hl, ?_⟩
  rw [State.bootDivision_log, State.measured_log, State.afterReset_log, h6]
  rfl

theorem deviceReset_step_five (cause : ResetCause) (s : State) {b : BootRecord} (h5 : State.failingStep b = 5) :
    let t := s.deviceReset cause b
    t.remains = (s.afterReset cause).remains ∧ t.rm.state = .booting ∧ t.rm.booted = false ∧ LastRecord t Config.bootCode 4 := by
  simp only [State.deviceReset, State.boot_step_five _ h5]
  have keeps {γ : Type} (view : State → γ)
      (hrm : ∀ (u : State) m d v, view { u with rm := { u.rm with mirror := m, mirrorDue := d, severe := v } } = view u)
      (hmeasured : ∀ (u : State) a l d, view { u with rm := { u.rm with attests := a, log := l, toMeasure := d } } = view u) :=
    (State.bootRecord_keeps view hrm ((s.afterReset cause).beforeBootFails b) Config.bootCode 6).trans
      (State.beforeBootFails_keeps view hrm hmeasured (s.afterReset cause) b)
  exact ⟨keeps State.remains (fun _ _ _ _ => rfl) (fun _ _ _ _ => rfl), keeps (fun u => u.rm.state) (fun _ _ _ _ => rfl) (fun _ _ _ _ => rfl),
    keeps (fun u => u.rm.booted) (fun _ _ _ _ => rfl) (fun _ _ _ _ => rfl), State.bootRecord_last _ _ 6⟩

theorem deviceReset_recovery (cause : ResetCause) (s : State) {b : BootRecord} (h : State.failingStep b < 5) :
    let t := s.deviceReset cause b
    t.remains = (s.afterReset cause).remains ∧ t.rm.state = .recoveryMode ∧ LastRecord t 0x0901 4 := by
  simp only [State.deviceReset, State.boot_recovery _ h]
  refine ⟨?_, rfl, State.bootRecord_last _ 0x0901 7⟩
  exact (State.bootRecord_keeps State.remains (fun _ _ _ _ => rfl) _ 0x0901 7).trans
    (State.beforeBootFails_keeps State.remains (fun _ _ _ _ => rfl) (fun _ _ _ _ => rfl) _ b)

end Sys2Proof.Machine
end

section
/-! The end of the boot: clusters start, and the record queues open (R208, R215, R226); device reset as a whole. -/

namespace Sys2Proof.Machine
namespace State

theorem allStarted_iff (s : State) : s.allStarted = true ↔ ∀ d, d < 4 → (s.die d).failed = true ∨ 7 ≤ (s.die d).started := by
  simp [allStarted]

/-- The error record queue of every partition is open. -/
def listening (s : State) : Prop := ∀ q, q < 4 → (s.part (s.partOf q)).erq.log2cap ≠ 0

theorem someClosed_iff (s : State) :
    (((List.range 4).map s.partOf).eraseDups.any (fun p => (s.part p).erq.log2cap == 0)) = true ↔ ¬ s.listening := by
  simp [listening, List.any_eq_true]

theorem buildJournal_keeps {γ : Type} (view : State → γ) (hframes : ∀ (u : State) f, view { u with frames := f } = view u) (s : State) :
    view s.buildJournal = view s := by
  unfold buildJournal
  dsimp only
  split
  · exact hframes _ _
  · rfl

/-- R208: the boot ends once every cluster has started and every record queue is open. -/
theorem bootEnds_running {s : State} (hstate : s.rm.state = .booting) (hboot : s.rm.booted = true) (hall : s.allStarted = true)
    (hopen : s.listening) :
    s.bootEnds = s.measure.buildJournal.setRm (fun r => { r with state := .running, pairs := 15, petAt := s.now }) := by
  unfold bootEnds
  rw [if_neg]
  simp [hstate, hboot, hall, mt (someClosed_iff s).1 (not_not.2 hopen)]

theorem bootEnds_waits {s : State} (hopen : ¬ s.listening) : s.bootEnds = s := by
  unfold bootEnds
  rw [if_pos (.inr (.inr (.inr ((someClosed_iff s).2 hopen))))]

/-- The end of the boot leaves every view as it is that shows neither the Ringmaster nor frames. -/
theorem bootEnds_keeps {γ : Type} (view : State → γ) (hframes : ∀ (u : State) f, view { u with frames := f } = view u)
    (hrm : ∀ (u : State) r, view { u with rm := r } = view u) (s : State) : view s.bootEnds = view s := by
  unfold bootEnds
  dsimp only
  split
  · rfl
  · exact (hrm _ _).trans ((buildJournal_keeps view hframes _).trans (hrm _ _))

/-- The state with one cluster more of a die started. -/
def oneMore (s : State) (die : Nat) : State := s.modDie die (fun d => { d with started := d.started + 1 })

theorem oneMore_die (s : State) (die d : Nat) :
    (s.oneMore die).die d = if d = die then { s.die die with started := (s.die die).started + 1 } else s.die d :=
  Tab.get_modify _ _ _ _

theorem startCluster_eq {s : State} {die : Nat} (hdie : die < 4) (hstate : s.rm.state = .booting) (hboot : s.rm.booted = true)
    (hlt : (s.die die).started < 7) (hdue : 4096 * (s.die die).started ≤ s.cycle) :
    s.startCluster die = if (s.oneMore die).allStarted then (s.oneMore die).measure.bootEnds else s.oneMore die := by
  unfold startCluster
  rw [if_neg]
  · rfl
  · rintro (h | h | h | h | h)
    · exact Nat.not_le.2 hdie h
    · exact h hstate
    · rw [hboot] at h; cases h
    · exact Nat.not_le.2 hlt h
    · exact Nat.not_lt.2 hdue h

theorem startCluster_started {s : State} {die : Nat} (hdie : die < 4) (hstate : s.rm.state = .booting) (hboot : s.rm.booted = true)
    (hlt : (s.die die).started < 7) (hdue : 4096 * (s.die die).started ≤ s.cycle) :
    ((s.startCluster die).die die).started = (s.die die).started + 1 := by
  have hone : ((s.oneMore die).die die).started = (s.die die).started + 1 := by rw [oneMore_die, if_pos rfl]
  rw [startCluster_eq hdie hstate hboot hlt hdue]
  split
  · exact (bootEnds_keeps (fun u => (u.die die).started) (fun _ _ => rfl) (fun _ _ => rfl) _).trans hone
  · exact hone

theorem oneMore_allStarted {s : State} {die : Nat} (h6 : (s.die die).started = 6)
    (hothers : ∀ d, d < 4 → d ≠ die → 7 ≤ (s.die d).started) : (s.oneMore die).allStarted = true := by
  rw [allStarted_iff]
  intro d hd
  right
  rw [oneMore_die]
  split_ifs with h
  · simp only [h6, le_refl]
  · exact hothers d hd h

theorem oneMore_not_allStarted {s : State} {die : Nat} (hdie : die < 4) (hlt : (s.die die).started < 7)
    (hlast : ¬ ((s.die die).started = 6 ∧ ∀ d, d < 4 → d ≠ die → 7 ≤ (s.die d).started))
    (hwork : ∀ d, d < 4 → (s.die d).failed = false) : (s.oneMore die).allStarted = false := by
  rw [Bool.eq_false_iff, Ne, allStarted_iff]
  intro hall
  have hstarted (d : Nat) (hd : d < 4) : 7 ≤ ((s.oneMore die).die d).started := by
    refine (hall d hd).resolve_left ?_
    rw [oneMore_die]
    split_ifs with h
    · simp only [hwork die hdie, Bool.false_eq_true, not_false_eq_true]
    · simp only [hwork d hd, Bool.false_eq_true, not_false_eq_true]
  refine hlast ⟨?_, fun d hd hne => ?_⟩
  · have := hstarted die hdie
    rw [oneMore_die, if_pos rfl] at this
    dsimp only at this
    omega
  · have := hstarted d hd
    rwa [oneMore_die, if_neg hne] at this

/-! The record queue of a partition is opened. -/

/-- The records of before the reset go into partition 0's queue once it is open (R223). -/
def flushPrior (s : State) (p : Nat) : State :=
  if p = 0 then (s.rm.prior.foldl (fun s e => s.queueTo 0 { e with prior := true }) s).setRm (fun r => { r with prior := [] }) else s

/-- The state with a partition's record queue as it is configured (R215). -/
def openErq (s : State) (p base cap : Nat) : State := s.modPart p (fun x => { x with erq := { x.erq with base := base, log2cap := cap } })

theorem writeErqCfg_eq {s : State} {p : Nat} {v : DWord} (hp : s.diesOf p ≠ []) (h6 : 6 ≤ cut v.toNat 0 5) (h20 : cut v.toNat 0 5 ≤ 20)
    (halign : cut v.toNat 12 28 * 4096 % 2 ^ (cut v.toNat 0 5 + 6) = 0) :
    s.writeErqCfg p v = ((s.openErq p (cut v.toNat 12 28) (cut v.toNat 0 5)).flushPrior p).bootEnds := by
  unfold writeErqCfg
  rw [if_neg]
  · rfl
  · simp [hp, halign, h6, h20]

/-- The flush leaves the shell as it is, but for the records that it has written. -/
theorem flushPrior_keeps {γ : Type} (view : State × (Nat → Nat) × (Nat → Nat × Bool) → γ)
    (hprior : ∀ u : State, view (u.setRm (fun r => { r with prior := [] })).shell = view u.shell) (s : State) (p : Nat) :
    view (s.flushPrior p).shell = view s.shell := by
  unfold flushPrior
  split
  · rw [hprior, foldl_keeps shell _ (fun u e => queueTo_shell u 0 _)]
  · rfl

theorem openErq_log2cap (s : State) (p base cap q : Nat) :
    ((s.openErq p base cap).part q).erq.log2cap = if q = p then cap else (s.part q).erq.log2cap := by
  rw [openErq, modPart_part]
  split_ifs <;> rfl

/-- The queue of the last partition that had none is opened, and its records of before the reset are in it: the boot can end. -/
theorem openErq_flushPrior {s : State} {p base cap : Nat} (hcap : cap ≠ 0) (hall : ∀ d, d < 4 → 7 ≤ (s.die d).started)
    (hothers : ∀ q, q < 4 → s.partOf q ≠ p → (s.part (s.partOf q)).erq.log2cap ≠ 0) :
    let u := (s.openErq p base cap).flushPrior p
    u.rm.state = s.rm.state ∧ u.rm.booted = s.rm.booted ∧ u.allStarted = true ∧ u.listening ∧ (u.part p).erq.log2cap = cap := by
  have keeps {γ : Type} (view : State × (Nat → Nat) × (Nat → Nat × Bool) → γ)
      (hprior : ∀ u : State, view (u.setRm (fun r => { r with prior := [] })).shell = view u.shell) :=
    flushPrior_keeps view hprior (s.openErq p base cap) p
  have hcaps (q : Nat) : (((s.openErq p base cap).flushPrior p).part q).erq.log2cap = if q = p then cap else (s.part q).erq.log2cap :=
    (keeps (fun x => x.2.1 q) (fun _ => rfl)).trans (openErq_log2cap s p base cap q)
  refine ⟨keeps (fun x => x.1.rm.state) (fun _ => rfl), keeps (fun x => x.1.rm.booted) (fun _ => rfl), ?_, fun q hq => ?_, ?_⟩
  · rw [allStarted_iff]
    intro d hd
    right
    rw [show (((s.openErq p base cap).flushPrior p).die d).started = (s.die d).started from keeps (fun x => (x.2.2 d).1) (fun _ => rfl)]
    exact hall d hd
  · have hpart : ((s.openErq p base cap).flushPrior p).partOf q = s.partOf q := by
      rw [partOf, show ((s.openErq p base cap).flushPrior p).owners = s.owners from keeps (fun x => x.1.owners) (fun _ => rfl)]
      rfl
    rw [hpart, hcaps]
    split_ifs with h
    · exact hcap
    · exact hothers q hq h
  · rw [hcaps, if_pos rfl]

end State

/-- Settles O45: a device reset by the step at which its boot fails (`deviceReset_good`, `deviceReset_step_five`,
`deviceReset_recovery`); the last cluster and the last record queue each end the boot (`bootEnds_running`). -/
theorem deviceResets : Obligations.DeviceResets := by
  unfold Obligations.DeviceResets
  refine ⟨fun cause b s => ⟨?good, ?step5, ?recovery, rfl⟩, ?cluster, ?erq⟩
  case good =>
    rintro ⟨hid, himage, hrecord, hfw, hmap, hdiv, hstart⟩
    obtain ⟨hleft, hrest⟩ := deviceReset_good cause s hid (State.failingStep_eq_six himage hrecord hfw hmap hdiv hstart)
    exact ⟨_, rfl, deviceReset_left hleft, hrest⟩
  case step5 =>
    intro hrecord hfw hmap himage h5
    obtain ⟨hleft, hrest⟩ := deviceReset_step_five cause s (State.failingStep_eq_five himage hrecord hfw hmap h5)
    exact ⟨_, rfl, deviceReset_left hleft, hrest⟩
  case recovery =>
    intro h
    obtain ⟨hleft, hrest⟩ := deviceReset_recovery cause s (State.failingStep_lt_five h)
    exact ⟨_, rfl, deviceReset_left hleft, hrest⟩
  case cluster =>
    intro die s hdie hstate hboot hlt hdue last listens
    refine ⟨s.startCluster die, rfl, State.startCluster_started hdie hstate hboot hlt hdue, ?_, ?_, ?_⟩
    all_goals rw [State.startCluster_eq hdie hstate hboot hlt hdue]
    · rintro ⟨h6, hothers⟩ hopen
      have hall := State.oneMore_allStarted h6 hothers
      rw [if_pos hall, State.bootEnds_running (s := (s.oneMore die).measure) hstate hboot hall hopen]
      exact ⟨rfl, rfl, rfl⟩
    · rintro ⟨h6, hothers⟩ hclosed
      rw [if_pos (State.oneMore_allStarted h6 hothers), State.bootEnds_waits (s := (s.oneMore die).measure) hclosed]
      exact hstate
    · intro hlast hwork
      rw [if_neg (by rw [State.oneMore_not_allStarted hdie hlt hlast hwork]; decide)]
      rfl
  case erq =>
    intro p v s hstate hboot hall hp hothers cap h6 h20 halign
    have hcap : cap = cut v.toNat 0 5 := (cut_toNat v 0 5).symm
    rw [hcap] at h6 h20 halign ⊢
    rw [← cut_toNat] at halign
    obtain ⟨hs, hb, ha, hopen, hsize⟩ :=
      State.openErq_flushPrior (s := s) (base := cut v.toNat 12 28) (Nat.ne_of_gt (Nat.lt_of_lt_of_le (by decide) h6)) hall hothers
    refine ⟨s.writeErqCfg p v, rfl, ?_⟩
    rw [State.writeErqCfg_eq hp h6 h20 halign, State.bootEnds_running (hs.trans hstate) (hb.trans hboot) ha hopen]
    refine ⟨rfl, rfl, ?_, ?_⟩
    · exact (State.buildJournal_keeps (fun u => (u.part p).erq.log2cap) (fun _ _ => rfl) _).trans hsize
    · rintro rfl
      exact State.buildJournal_keeps (fun u => u.rm.prior) (fun _ _ => rfl) _

end Sys2Proof.Machine
end

section
/-! The troupes that form: every slot stands in one, with slots of its own place (R36, R37). -/

namespace Sys2Proof.Machine

section
variable {β : Type} [DecidableEq β] (f : Nat → β)

theorem exists_mem_classes {n : Nat} {l : List Nat} (hn : l.length ≤ n) {k : Nat} (hk : k ∈ l) : ∃ m ∈ classes f n l, k ∈ m := by
  induction n generalizing l with
  | zero => rw [List.eq_nil_of_length_eq_zero (Nat.le_zero.1 hn)] at hk; cases hk
  | succ n ih =>
    cases l with
    | nil => cases hk
    | cons x r =>
      have hk := List.mem_cons.1 hk
      by_cases hx : f k = f x
      · exact ⟨_, List.mem_cons_self .., List.mem_cons.2 (hk.imp_right (fun h => List.mem_filter.2 ⟨h, decide_eq_true hx⟩))⟩
      · have hrest : k ∈ r.filter (fun y => f y ≠ f x) :=
          List.mem_filter.2 ⟨hk.resolve_left (fun h => hx (congrArg f h)), decide_eq_true hx⟩
        have hlen : (r.filter (fun y => f y ≠ f x)).length ≤ n :=
          (List.length_filter_le _ _).trans (Nat.le_of_succ_le_succ hn)
        obtain ⟨m, hm, hkm⟩ := ih hlen hrest
        exact ⟨m, List.mem_cons_of_mem _ hm, hkm⟩

theorem classes_alike {n : Nat} {l m : List Nat} (hm : m ∈ classes f n l) {j k : Nat} (hj : j ∈ m) (hk : k ∈ m) : f j = f k := by
  induction n generalizing l with
  | zero => cases hm
  | succ n ih =>
    cases l with
    | nil => cases hm
    | cons x r =>
      rcases List.mem_cons.1 hm with rfl | hm
      · have head {i : Nat} (hi : i ∈ x :: r.filter (fun y => f y = f x)) : f i = f x := by
          rcases List.mem_cons.1 hi with rfl | hi
          · rfl
          · simpa using (List.mem_filter.1 hi).2
        rw [head hj, head hk]
      · exact ih hm

end

theorem exists_mem_chunks32 {n : Nat} {l : List Nat} (hn : l.length ≤ n) {k : Nat} (hk : k ∈ l) : ∃ m ∈ chunks32 n l, k ∈ m := by
  induction n generalizing l with
  | zero => rw [List.eq_nil_of_length_eq_zero (Nat.le_zero.1 hn)] at hk; cases hk
  | succ n ih =>
    cases l with
    | nil => cases hk
    | cons x r =>
      rw [← List.take_append_drop 32 (x :: r)] at hk
      rcases List.mem_append.1 hk with hk | hk
      · exact ⟨_, List.mem_cons_self .., hk⟩
      · have hlen : ((x :: r).drop 32).length ≤ n := by
          rw [List.length_drop]
          simp only [List.length_cons] at hn ⊢
          omega
        obtain ⟨m, hm, hkm⟩ := ih hlen hk
        exact ⟨m, List.mem_cons_of_mem _ hm, hkm⟩

theorem chunks32_part {n : Nat} {l m : List Nat} (hm : m ∈ chunks32 n l) : m.length ≤ 32 ∧ m ⊆ l := by
  induction n generalizing l with
  | zero => cases hm
  | succ n ih =>
    cases l with
    | nil => cases hm
    | cons x r =>
      rcases List.mem_cons.1 hm with rfl | hm
      · exact ⟨List.length_take_le _ _, List.take_subset _ _⟩
      · obtain ⟨hlen, hsub⟩ := ih hm
        exact ⟨hlen, fun i hi => List.drop_subset _ _ (hsub hi)⟩

namespace State

/-- The slots as troupes: by place, at most 32 each (R36). -/
def partsOf (s : State) (c : Nat) (slots : List Nat) : List (List Nat) :=
  (classes (s.place c) slots.length slots).flatMap (fun l => chunks32 l.length l)

theorem exists_mem_partsOf (s : State) (c : Nat) {slots : List Nat} {k : Nat} (hk : k ∈ slots) : ∃ l ∈ s.partsOf c slots, k ∈ l := by
  obtain ⟨m, hm, hkm⟩ := exists_mem_classes (s.place c) (Nat.le_refl _) hk
  obtain ⟨l, hl, hkl⟩ := exists_mem_chunks32 (Nat.le_refl _) hkm
  exact ⟨l, List.mem_flatMap.2 ⟨m, hm, hl⟩, hkl⟩

theorem partsOf_part (s : State) (c : Nat) {slots l : List Nat} (hl : l ∈ s.partsOf c slots) :
    l.length ≤ 32 ∧ ∀ j ∈ l, ∀ k ∈ l, s.place c j = s.place c k := by
  obtain ⟨m, hm, hlm⟩ := List.mem_flatMap.1 hl
  obtain ⟨hlen, hsub⟩ := chunks32_part hlm
  exact ⟨hlen, fun j hj k hk => classes_alike (s.place c) hm (hsub hj) (hsub hk)⟩

/-- Only the troupes of contexts and the counter of operations may differ. -/
def Retrouped (s t : State) : Prop := t = { s with ctxs := t.ctxs, nextId := t.nextId }

theorem Retrouped.refl (s : State) : Retrouped s s := rfl

theorem Retrouped.trans {s t u : State} (h1 : Retrouped s t) (h2 : Retrouped t u) : Retrouped s u := by
  unfold Retrouped at *
  rw [h2, h1]

/-- A list of slots stands in the context as a troupe. -/
def HasTroupe (t : State) (c : Nat) (l : List Nat) : Prop := ∃ tr ∈ (t.ctx c).troupes, tr.slots = l

theorem addTroupe_retrouped (s : State) (c : Nat) (l : List Nat) (age ready : Nat) (first : Option Nat) :
    Retrouped s (s.addTroupe c l age ready first) := rfl

theorem addTroupe_troupes (s : State) (c : Nat) (l : List Nat) (age ready : Nat) (first : Option Nat) :
    ((s.addTroupe c l age ready first).ctx c).troupes =
      (s.ctx c).troupes ++ [{ id := s.nextId, slots := l, age := age, first := first, readyAt := ready }] := by
  show ((s.modCtx c _).ctx c).troupes = _
  rw [modCtx_ctx_self]

/-- Troupes are added one after another: those that stand stay, and each new one stands. -/
theorem foldl_addTroupe (c : Nat) (age ready : State → List Nat → Nat) (ls : List (List Nat)) (s : State) :
    let t := ls.foldl (fun u l => u.addTroupe c l (age u l) (ready u l) none) s
    Retrouped s t ∧ ∀ l, l ∈ ls ∨ HasTroupe s c l → HasTroupe t c l := by
  induction ls generalizing s with
  | nil => exact ⟨rfl, fun l h => h.resolve_left (by simp)⟩
  | cons m r ih =>
    obtain ⟨hre, hhas⟩ := ih (s.addTroupe c m (age s m) (ready s m) none)
    refine ⟨(addTroupe_retrouped s c m _ _ none).trans hre, fun l h => hhas l ?_⟩
    by_cases hm : l = m
    · right
      exact ⟨_, by rw [addTroupe_troupes]; exact List.mem_append_right _ (List.mem_singleton_self _), hm.symm⟩
    · refine (h.imp_left (fun h => (List.mem_cons.1 h).resolve_left hm)).imp_right ?_
      rintro ⟨tr, htr, hl⟩
      exact ⟨tr, by rw [addTroupe_troupes]; exact List.mem_append_left _ htr, hl⟩

/-- Forming troupes changes nothing but troupes, and every slot stands in one of them (R36). -/
theorem formTroupes_spec (s : State) (c : Nat) (slots : List Nat) (age ready : Nat) (first : Option Nat) :
    let t := s.formTroupes c slots age ready first
    Retrouped s t ∧ ∀ k ∈ slots, ∃ tr ∈ (t.ctx c).troupes, k ∈ tr.slots := by
  have hparts (k : Nat) (hk : k ∈ slots) := exists_mem_partsOf s c hk
  simp only [formTroupes]
  change ∀ k ∈ slots, ∃ l ∈ (classes (s.place c) slots.length slots).flatMap (fun l => chunks32 l.length l), k ∈ l at hparts
  cases hl : (classes (s.place c) slots.length slots).flatMap (fun l => chunks32 l.length l) with
  | nil =>
    rw [hl] at hparts
    exact ⟨rfl, fun k hk => by obtain ⟨l, hl, _⟩ := hparts k hk; cases hl⟩
  | cons l r =>
    rw [hl] at hparts
    obtain ⟨hre, hhas⟩ := foldl_addTroupe c (fun _ _ => age) (fun _ _ => ready) r (s.addTroupe c l age ready first)
    refine ⟨(addTroupe_retrouped s c l age ready first).trans hre, fun k hk => ?_⟩
    obtain ⟨m, hm, hkm⟩ := hparts k hk
    obtain ⟨tr, htr, hslots⟩ := hhas m (by
      rcases List.mem_cons.1 hm with rfl | hm
      · right
        exact ⟨_, by rw [addTroupe_troupes]; exact List.mem_append_right _ (List.mem_singleton_self _), rfl⟩
      · exact .inl hm)
    exact ⟨tr, htr, by rw [hslots]; exact hkm⟩

end State
end Sys2Proof.Machine
end

section
/-! Formation rounds, donated units and handed-off units (R23, R24, R36, R75). -/

namespace Sys2Proof.Machine

namespace State

/-! Formation rounds. -/

/-- The context that a formation round of a core looks at. -/
def activeCtx (s : State) (core : Nat) : Nat := (s.core core).ctxIn (s.core core).activeBank

/-- The slots of an issue slot whose threads are runnable at headers. -/
def atHeaders (s : State) (core islot : Nat) : List Nat :=
  (s.slotsOf (s.activeCtx core) (fun x => x.run == .runnable && !x.gate)).filter (fun k => k % 4 == islot)

/-- The troupes that the round makes of them. -/
def roundParts (s : State) (core islot : Nat) : List (List Nat) := s.partsOf (s.activeCtx core) (s.atHeaders core islot)

/-- The troupes that stay: those not all at headers of the issue slot, and those whose members do not change (R36). -/
def keptTroupes (s : State) (core islot : Nat) : List Troupe :=
  (s.ctx (s.activeCtx core)).troupes.filter (fun tr =>
    !tr.slots.all (fun k => k % 4 == islot && !(s.thr (threadKey (s.activeCtx core) k)).gate) ||
      (s.roundParts core islot).contains tr.slots)

/-- The troupes that are new. -/
def newParts (s : State) (core islot : Nat) : List (List Nat) :=
  (s.roundParts core islot).filter (fun l => !(s.ctx (s.activeCtx core)).troupes.any (fun tr => tr.slots == l))

/-- When a rebuilt troupe is ready: outside any not-ready interval of its threads (R37). -/
def roundReady (s : State) (core : Nat) (l : List Nat) : Nat :=
  (s.ctx (s.activeCtx core)).troupes.foldl (fun n tr => if tr.slots.any l.contains then max n tr.readyAt else n) (s.cycle + 1)

theorem formationRound_eq {core islot : Nat} {s : State} (hcycle : s.cycle % 8 = 0) :
    s.formationRound core islot = (s.newParts core islot).foldl
      (fun u l => u.addTroupe (s.activeCtx core) l u.cycle (s.roundReady core l) none)
      (s.modCtx (s.activeCtx core) (fun x => { x with troupes := s.keptTroupes core islot })) := by
  unfold formationRound
  rw [if_neg (not_not.2 hcycle)]
  rfl

/-- R36: each part of the round stands as a troupe after it: as it stood before, or anew. -/
theorem formationRound_hasTroupe {core islot : Nat} {s : State} (hcycle : s.cycle % 8 = 0) {l : List Nat}
    (hl : l ∈ s.roundParts core islot) : HasTroupe (s.formationRound core islot) (s.activeCtx core) l := by
  rw [formationRound_eq hcycle]
  refine (foldl_addTroupe _ (fun u _ => u.cycle) (fun _ l => s.roundReady core l) _ _).2 l ?_
  by_cases hold : (s.ctx (s.activeCtx core)).troupes.any (fun tr => tr.slots == l)
  · right
    obtain ⟨tr, htr, hslots⟩ := List.any_eq_true.1 hold
    have hslots : tr.slots = l := by simpa using hslots
    refine ⟨tr, ?_, hslots⟩
    rw [modCtx_ctx_self]
    refine List.mem_filter.2 ⟨htr, ?_⟩
    simp [hslots, hl]
  · exact .inl (List.mem_filter.2 ⟨hl, by simpa using hold⟩)

theorem formationRound_retrouped {core islot : Nat} {s : State} (hcycle : s.cycle % 8 = 0) :
    Retrouped s (s.formationRound core islot) := by
  have hmod : Retrouped s (s.modCtx (s.activeCtx core) (fun x => { x with troupes := s.keptTroupes core islot })) := rfl
  rw [formationRound_eq hcycle]
  exact hmod.trans (foldl_addTroupe _ (fun u _ => u.cycle) (fun _ l => s.roundReady core l) _ _).1

/-- R36: a slot of the round stands in a troupe of at most 32 slots of its place. -/
theorem formationRound_stands {core islot k : Nat} {s : State} (hcycle : s.cycle % 8 = 0) (hk : k ∈ s.atHeaders core islot) :
    ∃ tr ∈ ((s.formationRound core islot).ctx (s.activeCtx core)).troupes, k ∈ tr.slots ∧ tr.slots.length ≤ 32 ∧
      ∀ j ∈ tr.slots, s.place (s.activeCtx core) j = s.place (s.activeCtx core) k := by
  obtain ⟨l, hl, hkl⟩ := exists_mem_partsOf s (s.activeCtx core) hk
  obtain ⟨hlen, halike⟩ := partsOf_part s _ hl
  obtain ⟨tr, htr, rfl⟩ := formationRound_hasTroupe hcycle hl
  exact ⟨tr, htr, hkl, hlen, fun j hj => halike j hj k hkl⟩

/-! Donation. -/

/-- A unit that the cluster asked may ship (R24, R75). -/
def shippable (s : State) (x : Steal) (e : Nat × Option PendUnit) : Bool :=
  match e.2 with
  | some p => p.cluster == some x.asked && !p.begun && !p.shipped && (s.kernel p.kernel).portable && (s.kernel p.kernel).serves == 0
  | none => false

/-- What the victim ships of an entry: its key and its unit. -/
def shipment (s : State) (x : Steal) (e : Nat × Option PendUnit) : Option (Nat × PendUnit) :=
  match e.2 with
  | some p => if p.cluster == some x.asked && !p.begun && !p.shipped && (s.kernel p.kernel).portable && (s.kernel p.kernel).serves == 0
      then some (e.1, p) else none
  | none => none

theorem shipment_of_not {s : State} {x : Steal} {e : Nat × Option PendUnit} (he : s.shippable x e = false) : s.shipment x e = none := by
  obtain ⟨k, _ | p⟩ := e
  · rfl
  · exact if_neg (Bool.not_eq_true _ ▸ he)

/-- The victim gives the first entry that it may ship. -/
theorem findSome?_shipment (s : State) (x : Steal) (l : List (Nat × Option PendUnit)) :
    (∀ k p, l.find? (s.shippable x) = some (k, some p) → l.findSome? (s.shipment x) = some (k, p)) ∧
    (l.find? (s.shippable x) = none → l.findSome? (s.shipment x) = none) := by
  induction l with
  | nil => exact ⟨fun k p h => (nomatch h), fun _ => rfl⟩
  | cons e r ih =>
    rw [List.find?_cons, List.findSome?_cons]
    cases he : s.shippable x e with
    | false =>
      rw [shipment_of_not he]
      exact ih
    | true =>
      refine ⟨fun k p h => ?_, fun h => (nomatch h)⟩
      obtain rfl : e = (k, some p) := Option.some.inj h
      rw [show s.shipment x (k, some p) = some (k, p) from if_pos he]

theorem stealReply_gives {idx : Nat} {s : State} {x : Steal} {k : Nat} {p : PendUnit} (hx : s.steals.get idx = some x)
    (h : s.pends.cells.find? (s.shippable x) = some (k, some p)) : s.stealReply idx = { s with
      pends := s.pends.set k (some { p with cluster := some x.thief, shipped := true }), steals := s.steals.set idx none } := by
  have hgive := (findSome?_shipment s x s.pends.cells).1 k p h
  unfold stealReply
  rw [hx]
  dsimp only
  split
  case h_1 h' => cases hgive.symm.trans h'; rfl
  case h_2 h' => cases hgive.symm.trans h'

theorem stealReply_refuses {idx : Nat} {s : State} {x : Steal} (hx : s.steals.get idx = some x)
    (h : s.pends.cells.find? (s.shippable x) = none) : s.stealReply idx = { s with
      steals := s.steals.set idx (if nextCluster x.asked = x.thief then none else some { x with asked := nextCluster x.asked }) } := by
  have hgive := (findSome?_shipment s x s.pends.cells).2 h
  unfold stealReply
  rw [hx]
  dsimp only
  split
  case h_1 h' => cases hgive.symm.trans h'
  case h_2 h' => rfl

theorem stealRequest_eq {cl : Nat} {s : State} (hcl : cl < 28) (hplace : s.placeable cl = false)
    (hpend : ∀ e ∈ s.pends.cells, ∀ p, e.2 = some p → p.cluster ≠ some cl)
    (hsteal : ∀ e ∈ s.steals.cells, ∀ x, e.2 = some x → x.thief ≠ cl) :
    s.stealRequest cl = { s with steals := s.steals.set s.nextId (some { thief := cl, asked := nextCluster cl }), nextId := s.nextId + 1 } := by
  unfold stealRequest
  rw [if_neg]
  simp only [hplace, Bool.false_or, Bool.or_eq_true, decide_eq_true_eq, not_or, List.any_eq_true, not_exists, not_and]
  refine ⟨⟨fun e he => ?_, fun e he => ?_⟩, Nat.not_le.2 hcl⟩
  · cases h : e.2 with
    | none => simp
    | some p => simpa using hpend e he p h
  · cases h : e.2 with
    | none => simp
    | some x => simpa using hsteal e he x h

/-! Handed-off units. -/

/-- The groups of a kernel that stand in one unit of the highest level that one die must hold (R23). -/
def dieUnitSize (kr : Kernel) : Nat :=
  max 1 (kr.sizes kr.groupLevel (max (((kr.levels.filter (fun i => kr.domain i ≤ 3)).getLast?).getD kr.groupLevel) kr.groupLevel))

/-- The unit, of a number of groups each, that a pending record belongs to, by its first group. -/
def unitAt (s : State) (per : Nat) (q : PendUnit) : Nat := (s.group (q.groups.headD 0)).gnum.toNat / per

/-- What the handoff of a unit to a die makes of a pending record. -/
def handedOff (s : State) (p : PendUnit) (per die : Nat) (q : PendUnit) : PendUnit :=
  if q.kernel = p.kernel ∧ s.unitAt per q = s.unitAt per p then { q with die := die, cluster := none } else q

theorem handoff_eq {idx die : Nat} {s : State} {p : PendUnit} (hp : s.pends.get idx = some p)
    (hbound : boundGroups (s.kernel p.kernel) ≤ s.unitAt (dieUnitSize (s.kernel p.kernel)) p * dieUnitSize (s.kernel p.kernel))
    (hdie : die < 4)
    (hship : ∀ e ∈ s.pends.cells, ∀ q, e.2 = some q → q.kernel = p.kernel →
      s.unitAt (dieUnitSize (s.kernel p.kernel)) q = s.unitAt (dieUnitSize (s.kernel p.kernel)) p → q.shipped = false)
    (hpart : s.partOf die = s.partOf p.die) (hserves : (s.kernel p.kernel).serves = 0)
    (hfresh : ∀ g ∈ (s.kernel p.kernel).groups,
      (s.group g).gnum.toNat / dieUnitSize (s.kernel p.kernel) = s.unitAt (dieUnitSize (s.kernel p.kernel)) p →
      (s.group g).state = .pending ∧ (s.group g).ctx = 0) :
    s.handoff idx die = { s with
      pends := s.pends.mapCells (fun _ o => o.map (s.handedOff p (dieUnitSize (s.kernel p.kernel)) die)) } := by
  unfold handoff
  rw [hp]
  dsimp only
  rw [if_neg]
  · rfl
  · rintro (h | h | h | h | h | h)
    · exact Nat.not_lt.2 hbound h
    · exact Nat.not_le.2 hdie h
    · exact h hpart
    · exact h hserves
    · obtain ⟨g, hg, hstarted⟩ := List.any_eq_true.1 h
      obtain ⟨hmem, hunit⟩ := List.mem_filter.1 hg
      obtain ⟨hstate, hctx⟩ := hfresh g hmem (beq_iff_eq.1 hunit)
      simp [hstate, hctx] at hstarted
    · obtain ⟨⟨k, o⟩, he, hsh⟩ := List.any_eq_true.1 h
      cases o with
      | none => cases hsh
      | some q =>
        simp only [Bool.and_eq_true, beq_iff_eq] at hsh
        obtain ⟨⟨hk, hshipped⟩, hunit⟩ := hsh
        exact Bool.noConfusion ((hship _ he q rfl hk hunit).symm.trans hshipped)

theorem handoff_pends (s : State) (p : PendUnit) (per die : Nat) (k : Nat) :
    (s.pends.mapCells (fun _ o => o.map (s.handedOff p per die))).get k = (s.pends.get k).map (s.handedOff p per die) :=
  Tab.get_mapCells_of _ _ _ rfl

end State
end Sys2Proof.Machine
end

section
/-! The launch path: a launch is taken, its groups are created, placed and started (R19, R23, R26, R29, R35, R223, R383). -/

namespace Sys2Proof.Machine

variable {α : Type} [Inhabited α] [DecidableEq α]

/-- A key that is written with one value, and perhaps again with it, reads as that value. -/
theorem Tab.get_foldl_set (key : Nat → Nat) (v : α) (l : List Nat) (t : Tab α) (j : Nat) (h : j ∈ l.map key ∨ t.get j = v) :
    (l.foldl (fun t i => t.set (key i) v) t).get j = v := by
  induction l generalizing t with
  | nil => exact h.resolve_left (by simp)
  | cons i r ih =>
    refine ih _ ?_
    by_cases hi : j = key i
    · right; rw [hi]; exact Tab.get_set_self t (key i) v
    · rw [Tab.get_set_ne t v hi]
      exact h.imp_left (fun h => (List.mem_cons.1 h).resolve_left hi)

/-- Keys in a row, each written with its own value. -/
theorem Tab.get_foldl_set_range (base : Nat) (g : Nat → α) (n : Nat) (t : Tab α) {j : Nat} (hj : j < n) :
    ((List.range n).foldl (fun t i => t.set (base + i) (g i)) t).get (base + j) = g j := by
  induction n with
  | zero => exact absurd hj (Nat.not_lt_zero j)
  | succ n ih =>
    rw [List.range_succ, List.foldl_append, List.foldl_cons, List.foldl_nil, Tab.get_set]
    split_ifs with h
    · rw [Nat.add_left_cancel h]
    · exact ih (by omega)

namespace State

/-! Slots are filled. -/

/-- Slots from a list, each once, hold the threads of their places in the list, and no other slot changes (R35). -/
theorem foldl_setThr_zip (c : Nat) (f : Nat → Thread) (slots : List Nat) (hnd : slots.Nodup) (m : Nat) (s : State) :
    let t := (slots.zip (List.range' m slots.length)).foldl (fun s e => s.setThr (threadKey c e.1) (f e.2)) s
    t = { s with threads := t.threads } ∧ (∀ i k, slots[i]? = some k → t.thr (threadKey c k) = f (m + i)) ∧
    ∀ j, (∀ k ∈ slots, j ≠ threadKey c k) → t.thr j = s.thr j := by
  induction slots generalizing m s with
  | nil => exact ⟨rfl, fun i k h => by simp at h, fun j _ => rfl⟩
  | cons x r ih =>
    obtain ⟨hx, hr⟩ := List.nodup_cons.1 hnd
    obtain ⟨heq, hin, hout⟩ := ih hr (m + 1) (s.setThr (threadKey c x) (f m))
    simp only [List.length_cons, List.range'_succ, List.zip_cons_cons, List.foldl_cons]
    refine ⟨by rw [heq]; rfl, fun i k h => ?_, fun j hj => ?_⟩
    · cases i with
      | zero =>
        have hxk : x = k := by simpa using h
        rw [← hxk, hout _ (fun j hj he => hx (by rwa [threadKey_inj he])), setThr_thr, if_pos rfl]
        rfl
      | succ i =>
        rw [hin i k (by simpa using h)]
        congr 1
        omega
    · rw [hout j (fun k hk => hj k (List.mem_cons_of_mem _ hk)), setThr_thr, if_neg (hj x (List.mem_cons_self ..))]

theorem fillSlots_spec (s : State) (c : Nat) {slots : List Nat} (f : Nat → Thread) (hnd : slots.Nodup) :
    let t := s.fillSlots c slots f
    t = { s with threads := t.threads } ∧ (∀ i k, slots[i]? = some k → t.thr (threadKey c k) = f i) ∧
    ∀ j, (∀ k ∈ slots, j ≠ threadKey c k) → t.thr j = s.thr j := by
  have h := foldl_setThr_zip c f slots hnd 0 s
  simp only [← List.range_eq_range', Nat.zero_add] at h
  exact h

/-! A placement arrives. -/

/-- The state in which a group's slots are filled and the group and its kernel run; its troupes are still to form (R29, R32). -/
def started (s : State) (idx : Nat) (p : Placement) : State :=
  let g := s.group p.group
  (((({ s with placements := s.placements.set idx none } : State).fillSlots p.ctx p.slots
    (fun i => launchThread (s.kernel g.kernel) g p.group i p.slots.length)).modGroup p.group
      (fun g => { g with state := .running, placedAt := s.cycle })).modKernel g.kernel
        (fun x => if x.state = .enqueued then { x with state := .running } else x))

theorem placementArrival_eq {idx : Nat} {s : State} {p : Placement} (hp : s.placements.get idx = some p)
    (hpending : (s.group p.group).state = .pending) (hprior : s.priorWaits = false) :
    s.placementArrival idx = (s.started idx p).formTroupes p.ctx p.slots s.cycle s.cycle (some s.cycle) := by
  unfold placementArrival
  rw [hp]
  dsimp only
  rw [hprior, if_neg (by decide), if_neg (not_not.2 hpending)]
  rfl

/-- What a launched thread starts with (R29, R35). -/
theorem launchThread_spec (k : Kernel) (g : Group) (gid i n : Nat) :
    let y := launchThread k g gid i n
    y.run = .runnable ∧ y.group = gid ∧ y.hdr = k.entry ∧ y.gate = false ∧ y.rdA 0 = k.args ∧ y.tidx = BitVec.ofNat 32 i ∧
      y.gsize = BitVec.ofNat 32 n := by
  refine ⟨rfl, rfl, rfl, rfl, ?_, rfl, rfl⟩
  show ((({} : Tab DWord).set 0 k.args).set 1 _).get 0 = k.args
  rw [Tab.get_set_ne _ _ (by decide), Tab.get_set_self]

theorem started_spec (idx : Nat) (s : State) (p : Placement) (hnd : p.slots.Nodup) :
    let t := s.started idx p
    t.placements.get idx = none ∧ (t.group p.group).state = .running ∧
    ((s.kernel (s.group p.group).kernel).state = .enqueued → (t.kernel (s.group p.group).kernel).state = .running) ∧
    (∀ i k, p.slots[i]? = some k → t.thr (threadKey p.ctx k) =
      launchThread (s.kernel (s.group p.group).kernel) (s.group p.group) p.group i p.slots.length) ∧
    (∀ j, (∀ k ∈ p.slots, j ≠ threadKey p.ctx k) → t.thr j = s.thr j) ∧ t.mem = s.mem := by
  obtain ⟨heq, hin, hout⟩ := fillSlots_spec ({ s with placements := s.placements.set idx none } : State) p.ctx
    (fun i => launchThread (s.kernel (s.group p.group).kernel) (s.group p.group) p.group i p.slots.length) hnd
  simp only [started]
  refine ⟨?_, ?_, fun hk => ?_, hin, hout, ?_⟩
  · rw [modKernel_placements, modGroup_placements, heq]
    exact Tab.get_set_self _ _ _
  · show ((modGroup _ _ _).group p.group).state = .running
    rw [modGroup_group_self]
  · rw [modKernel_kernel_self, modGroup_kernel_read, heq]
    exact congrArg Kernel.state (if_pos hk)
  · rw [modKernel_mem, modGroup_mem, heq]

/-! A unit's next group is placed. -/

/-- A bank that may take a group of a unit now: on the unit's die, in a cluster that has started and holds the unit or may (R23, R383). -/
structure MayPlace (s : State) (kr : Kernel) (p : PendUnit) (core bank : Nat) : Prop where
  canPlace : CanPlace s kr core bank p.die
  cluster : p.cluster = none ∨ p.cluster = some (coreCluster core)
  state : kr.state = .enqueued ∨ kr.state = .running
  serves : kr.serves = 0

/-- The state in which a unit's next group has been granted its resources and is on its way (R29). -/
def sent (s : State) (idx : Nat) (p : PendUnit) (g : Nat) (rest : List Nat) (c cl : Nat) (kr : Kernel) (slots : List Nat)
    (pad bar tile base : Nat) : State :=
  let s1 := s.grant g c kr.threads kr pad bar tile base
  { s1 with
    placements := s1.placements.set s1.nextId (some { group := g, ctx := c, slots := slots })
    nextId := s1.nextId + 1
    pends := s1.pends.set idx (if rest.isEmpty then none else
        some { p with groups := rest, cluster := some cl, begun := true, base := base }) }

section
variable {s : State} {idx core bank : Nat} {p : PendUnit} {g : Nat} {rest : List Nat} (hp : s.pends.get idx = some p)
  (hgroups : p.groups = g :: rest) (hmay : s.MayPlace (s.kernel p.kernel) p core bank)
include hp hgroups hmay

theorem placeUnit_waits (hwait : s.priorWaits = true ∨ s.shadowTooSoon (s.kernel p.kernel) p core bank = true) :
    s.placeUnit idx core bank = s := by
  unfold placeUnit
  simp only [hp, hgroups]
  rcases hwait with hprior | hshadow
  · rw [if_pos (.inl hprior)]
  · split
    · rfl
    · rw [if_neg (fun h => h.1 hmay.serves), if_pos (by rw [hshadow, Bool.or_true])]

theorem placeUnit_places {slots : List Nat} {pad bar tile base : Nat} (hprior : s.priorWaits = false)
    (hshadow : s.shadowTooSoon (s.kernel p.kernel) p core bank = false)
    (hroom : s.room (s.kernel p.kernel) ((s.core core).ctxIn bank) (s.kernel p.kernel).threads = some (slots, pad, bar, tile))
    (hbase : s.unitBase (s.kernel p.kernel) p (coreCluster core) = some base) :
    s.placeUnit idx core bank = (s.sent idx p g rest ((s.core core).ctxIn bank) (coreCluster core) (s.kernel p.kernel) slots pad bar tile
      base).bindMates (s.kernel p.kernel) p (coreCluster core) := by
  obtain ⟨⟨hcore, hdie, hfailed, hstarted, htakes⟩, hcluster, hstate, hserves⟩ := hmay
  have hany : p.cluster.any (· != coreCluster core) = false := by
    rcases hcluster with h | h <;> simp [h]
  have hgo : ¬ (s.priorWaits = true ∨ 224 ≤ core ∨ coreDie core ≠ p.die ∨ (s.die p.die).failed = true ∨
      (s.die p.die).started ≤ core % 56 / 8 ∨ p.cluster.any (· != coreCluster core) = true ∨
      (!decide ((s.kernel p.kernel).state = .enqueued ∨ (s.kernel p.kernel).state = .running)) = true) := by
    rintro (h | h | h | h | h | h | h)
    · rw [hprior] at h; cases h
    · exact Nat.not_le.2 hcore h
    · exact h hdie
    · rw [hfailed] at h; cases h
    · exact Nat.not_le.2 hstarted h
    · rw [hany] at h; cases h
    · rw [decide_eq_true hstate] at h; cases h
  unfold placeUnit
  simp only [hp, hgroups]
  rw [if_neg hgo, if_neg (fun h => h.1 hserves), if_neg (by simp [htakes, hshadow]), hroom, hbase]
  rfl

end

theorem grant_group (s : State) (g c n : Nat) (k : Kernel) (pad bar tile base : Nat) :
    (s.grant g c n k pad bar tile base).group g = { s.group g with
      ctx := c, size := n, lane := k.lane, padBase := pad, padLen := k.pad, cluster := coreCluster (s.ctx c).core, cluBase := base,
      cluLen := k.clusterBytes, barBase := bar, barCount := k.barriers, tileBase := tile, tileCount := k.tiles, placedAt := s.cycle } := by
  rw [grant, modCtx_group_read, modGroup_group_self]

theorem grant_group_ne (s : State) (g c n : Nat) (k : Kernel) (pad bar tile base : Nat) {j : Nat} (h : j ≠ g) :
    (s.grant g c n k pad bar tile base).group j = s.group j := by
  rw [grant, modCtx_group_read, modGroup_group_ne _ _ _ h]

/-- R49: each granted barrier awaits the group's threads. -/
theorem grant_barrier (s : State) (g c n : Nat) (k : Kernel) (pad bar tile base : Nat) {i : Nat} (hi : i < k.barriers) :
    (s.grant g c n k pad bar tile base).barrier c (bar + i) = { granted := true, expect := n, group := g } := by
  rw [barrier, grant, modCtx_ctx_self]
  exact Tab.get_foldl_set (fun i => bar + i) _ _ _ _ (.inl (List.mem_map.2 ⟨i, List.mem_range.2 hi, rfl⟩))

theorem bindMates_pends_none (s : State) (kr : Kernel) (p : PendUnit) (cl k : Nat) (h : s.pends.get k = none) :
    (s.bindMates kr p cl).pends.get k = none := by
  show (s.pends.mapCells _).get k = none
  rw [Tab.get_mapCells_of _ _ _ rfl, h]
  rfl

/-- A grant changes its group and its context alone. -/
theorem grant_keeps {γ : Type} (view : State → γ) (hgroup : ∀ u g f, view (modGroup u g f) = view u)
    (hctx : ∀ u c f, view (modCtx u c f) = view u) (s : State) (g c n : Nat) (k : Kernel) (pad bar tile base : Nat) :
    view (s.grant g c n k pad bar tile base) = view s := by
  rw [grant, hctx, hgroup]

section
variable {γ : Type} (view : State → γ)
  (hway : ∀ (u : State) pl n pe, view { u with placements := pl, nextId := n, pends := pe } = view u)
  (s : State) (idx : Nat) (p : PendUnit) (g : Nat) (rest : List Nat) (c cl : Nat) (kr : Kernel) (slots : List Nat) (pad bar tile base : Nat)
include hway

/-- A view that shows neither placements nor the units that wait sees the grant alone. -/
theorem sent_view : view ((s.sent idx p g rest c cl kr slots pad bar tile base).bindMates kr p cl) =
    view (s.grant g c kr.threads kr pad bar tile base) := by
  have hmates (u : State) : view (u.bindMates kr p cl) = view u := hway u u.placements u.nextId _
  rw [hmates, sent, hway]

/-- One that shows no groups and contexts either is as it was. -/
theorem sent_keeps (hgroup : ∀ u g f, view (modGroup u g f) = view u) (hctx : ∀ u c f, view (modCtx u c f) = view u) :
    view ((s.sent idx p g rest c cl kr slots pad bar tile base).bindMates kr p cl) = view s :=
  (sent_view view hway ..).trans (grant_keeps view hgroup hctx ..)

end

/-- What the statement says of a group that is sent on its way (R29, R49, R383). -/
theorem sent_spec (s : State) (idx : Nat) (p : PendUnit) (g : Nat) (rest : List Nat) (c cl : Nat) (kr : Kernel) (slots : List Nat)
    (pad bar tile base : Nat) :
    let t := (s.sent idx p g rest c cl kr slots pad bar tile base).bindMates kr p cl
    t.placements.get s.nextId = some { group := g, ctx := c, slots := slots } ∧
    (let x := t.group g
     x.ctx = c ∧ x.size = kr.threads ∧ x.lane = kr.lane ∧ x.padBase = pad ∧ x.padLen = kr.pad ∧ x.cluBase = base ∧
     x.cluLen = kr.clusterBytes ∧ x.barBase = bar ∧ x.barCount = kr.barriers ∧ x.tileBase = tile ∧ x.tileCount = kr.tiles) ∧
    (∀ i, i < kr.barriers → t.barrier c (bar + i) = { granted := true, expect := kr.threads, group := g }) ∧
    (rest = [] → t.pends.get idx = none) ∧ t.threads = s.threads ∧ t.mem = s.mem := by
  have hplacements : ((s.sent idx p g rest c cl kr slots pad bar tile base).bindMates kr p cl).placements =
      (s.grant g c kr.threads kr pad bar tile base).placements.set (s.grant g c kr.threads kr pad bar tile base).nextId
        (some { group := g, ctx := c, slots := slots }) := rfl
  have hnext : (s.grant g c kr.threads kr pad bar tile base).nextId = s.nextId :=
    grant_keeps State.nextId (fun _ _ _ => rfl) (fun _ _ _ => rfl) ..
  refine ⟨by rw [hplacements, hnext, Tab.get_set_self], ?_, fun i hi => ?_, fun hrest => ?_,
    sent_keeps State.threads (fun _ _ _ _ => rfl) (hgroup := fun _ _ _ => rfl) (hctx := fun _ _ _ => rfl) ..,
    sent_keeps State.mem (fun _ _ _ _ => rfl) (hgroup := fun _ _ _ => rfl) (hctx := fun _ _ _ => rfl) ..⟩
  · rw [sent_view (fun u => u.group g) (fun _ _ _ _ => rfl), grant_group]
    exact ⟨rfl, rfl, rfl, rfl, rfl, rfl, rfl, rfl, rfl, rfl, rfl⟩
  · rw [sent_view (fun u => u.barrier c (bar + i)) (fun _ _ _ _ => rfl)]
    exact s.grant_barrier g c kr.threads kr pad bar tile base hi
  · refine bindMates_pends_none _ kr p cl idx ?_
    show (Tab.set _ idx _).get idx = none
    rw [Tab.get_set_self, hrest]
    rfl

/-! A launch is taken from its queue. -/

/-- What placing a unit leaves of the launch path's own records: queues, kernels, and of a group its state, kernel and number. -/
def ledger (s : State) : Tab Queue × Tab Kernel × (Nat → GroupState × Nat × Word) :=
  (s.queues, s.kernels, fun g => ((s.group g).state, (s.group g).kernel, (s.group g).gnum))

theorem grant_ledger (s : State) (g c n : Nat) (k : Kernel) (pad bar tile base : Nat) :
    (s.grant g c n k pad bar tile base).ledger = s.ledger := by
  refine Prod.ext rfl (Prod.ext rfl (funext fun j => ?_))
  show (((s.grant g c n k pad bar tile base).group j).state, _, _) = ((s.group j).state, _, _)
  by_cases hj : j = g
  · rw [hj, grant_group]
  · rw [grant_group_ne _ _ _ _ _ _ _ _ _ hj]

theorem bindMates_ledger (s : State) (kr : Kernel) (p : PendUnit) (cl : Nat) : (s.bindMates kr p cl).ledger = s.ledger := rfl

theorem onTheWay_ledger (s : State) (pl : Tab (Option Placement)) (n : Nat) (pe : Tab (Option PendUnit)) :
    ({ s with placements := pl, nextId := n, pends := pe } : State).ledger = s.ledger := rfl

theorem placeUnit_ledger (s : State) (idx core bank : Nat) : (s.placeUnit idx core bank).ledger = s.ledger := by
  unfold placeUnit
  split
  · rfl
  · split
    · rfl
    · dsimp only
      split
      · rfl
      split
      · rfl
      split
      · rfl
      split
      · rw [bindMates_ledger, onTheWay_ledger, grant_ledger]
      · split <;> rfl

end State
end Sys2Proof.Machine
end

section
/-! A scheduler takes a launch (R26, R29); the launch path as a whole. -/

namespace Sys2Proof.Machine
namespace State

/-! Blocked threads go on. -/

/-- Only threads, troupes and the counter of operations may differ. -/
def Released (s t : State) : Prop := t = { s with threads := t.threads, ctxs := t.ctxs, nextId := t.nextId }

theorem Released.refl (s : State) : Released s s := rfl

theorem Released.trans {s t u : State} (h1 : Released s t) (h2 : Released t u) : Released s u := by
  unfold Released at *
  rw [h2, h1]

theorem Retrouped.released {s t : State} (h : Retrouped s t) : Released s t := by
  unfold Retrouped at h
  rw [h]
  rfl

theorem Released.foldl {β : Type} (f : State → β → State) (h : ∀ s x, Released s (f s x)) (l : List β) (s : State) :
    Released s (l.foldl f s) := by
  induction l generalizing s with
  | nil => exact Released.refl s
  | cons x r ih => exact (h s x).trans (ih (f s x))

theorem modCtx_released (s : State) (c : Nat) (f : Ctx → Ctx) : Released s (s.modCtx c f) := rfl

theorem releaseTroupes_released (s : State) (c : Nat) (slots : List Nat) : Released s (s.releaseTroupes c slots) :=
  ((modCtx_released s c _).trans (formTroupes_spec _ c _ _ _ _).1.released).trans (modCtx_released _ c _)

theorem wake_released (s : State) (c : Nat) (slots : List Nat) : Released s (s.wake c slots) :=
  (Released.foldl (fun u k => u.modThr (threadKey c k) (fun x => { x with run := .runnable })) (fun _ _ => rfl) slots s).trans
    (releaseTroupes_released _ c slots)

theorem wakeQueue_released (s : State) (q : Nat) : Released s (s.wakeQueue q) := by
  refine Released.foldl _ (fun u c => ?_) s.ctxs.keys s
  dsimp only
  split
  · exact Released.refl u
  · exact wake_released u c _

/-! The head entry leaves its queue. -/

/-- The state with the head entry of a launch queue taken (R26). -/
def headTaken (s : State) (q : Nat) (r : List Nat) : State :=
  (s.updQueue q (fun x => { x with entries := r, head := x.head + 1 }.settle)).wakeQueue q

theorem headTaken_keeps {γ : Type} (view : State × (Nat → Nat) × (Nat → Nat × Bool) → γ)
    (hreleased : ∀ (u : State) t c n, view ({ u with threads := t, ctxs := c, nextId := n } : State).shell = view u.shell)
    (s : State) (q : Nat) (r : List Nat) :
    view (s.headTaken q r).shell = view (s.modQueue q (fun x => { x with entries := r, head := x.head + 1 }.settle)).shell := by
  rw [headTaken, wakeQueue_released, hreleased, updQueue, putDesc, homeStore_shell]

theorem headTaken_kernels (s : State) (q : Nat) (r : List Nat) : (s.headTaken q r).kernels = s.kernels :=
  headTaken_keeps (fun x => x.1.kernels) (fun _ _ _ _ => rfl) s q r

theorem headTaken_groups (s : State) (q : Nat) (r : List Nat) : (s.headTaken q r).groups = s.groups :=
  headTaken_keeps (fun x => x.1.groups) (fun _ _ _ _ => rfl) s q r

theorem settle_entries (x : Queue) : x.settle.entries = x.entries ∧ x.settle.head = x.head := by
  unfold Queue.settle
  split <;> exact ⟨rfl, rfl⟩

theorem headTaken_queue (s : State) (q : Nat) (r : List Nat) :
    ((s.headTaken q r).queue q).entries = r ∧ ((s.headTaken q r).queue q).head = (s.queue q).head + 1 := by
  have hqueues : (s.headTaken q r).queues = s.queues.modify q (fun x => { x with entries := r, head := x.head + 1 }.settle) :=
    headTaken_keeps (fun x => x.1.queues) (fun _ _ _ _ => rfl) s q r
  rw [queue, hqueues, Tab.get_modify_self]
  exact settle_entries _

/-! The groups of a kernel are created. -/

/-- Group i of a kernel, as it is created (R35, R45). -/
def newGroup (kr : Kernel) (k base i : Nat) : Group :=
  { state := .pending, kernel := k, gnum := BitVec.ofNat 32 i,
    lvc := kr.levels.foldl (fun t l => if kr.groupLevel ≤ l then t.set l (BitVec.ofNat 32 (kr.coord i l)) else t) {},
    producer := kr.clusterLevel.isSome && kr.producer != 0xFF && i % kr.perUnit == kr.producer,
    unit := base + kr.groupCount + i / kr.perUnit, serves := kr.serves }

theorem createGroups_groups (s : State) (k die : Nat) (cluster : Option Nat) :
    (s.createGroups k die cluster).groups = (List.range (s.kernel k).groupCount).foldl
      (fun t i => t.set (s.nextId + i) (newGroup (s.kernel k) k s.nextId i)) s.groups := by
  refine Eq.trans (foldl_keeps State.groups _ (fun _ _ => ?_) _ _) (List.foldl_hom State.groups (fun _ _ => ?_)).symm
  · rfl
  · rfl

theorem createGroups_group (s : State) (k die : Nat) (cluster : Option Nat) {i : Nat} (hi : i < (s.kernel k).groupCount) :
    (s.createGroups k die cluster).group (s.nextId + i) = newGroup (s.kernel k) k s.nextId i := by
  rw [group, createGroups_groups]
  exact Tab.get_foldl_set_range _ _ _ _ hi

theorem createGroups_queues (s : State) (k die : Nat) (cluster : Option Nat) : (s.createGroups k die cluster).queues = s.queues := by
  refine Eq.trans (foldl_keeps State.queues _ (fun _ _ => ?_) _ _) (foldl_keeps State.queues _ (fun _ _ => ?_) _ _)
  · rfl
  · rfl

theorem createGroups_kernel_groups (s : State) (k die : Nat) (cluster : Option Nat) :
    ((s.createGroups k die cluster).kernel k).groups = (List.range (s.kernel k).groupCount).map (· + s.nextId) :=
   congrArg Kernel.groups (Tab.get_modify_self _ _ _)

/-! Validation. -/

theorem reject_spec (s : State) (k : Nat) :
    ((s.reject k).kernel k).state = .rejected ∧ (s.reject k).groups = s.groups ∧ (s.reject k).queues = s.queues := by
  refine ⟨?_, ?_, ?_⟩
  · rw [reject, endKernel, kernel, shell_kernels (completionAdd_shell _ k _)]
    exact congrArg Kernel.state (Tab.get_modify_self _ _ _)
  · rw [reject, endKernel, shell_groups (completionAdd_shell _ k _), modKernel_groups, shell_groups (log_shell s _)]
  · rw [reject, endKernel, shell_queues (completionAdd_shell _ k _), modKernel_queues, shell_queues (log_shell s _)]

section
variable {die q core bank k : Nat} {r : List Nat} {s : State} (hentries : (s.queue q).entries = k :: r) (hkind : (s.queue q).kind = 2)
  (hdie : queueDie q = die) (hstate : (s.kernel k).state = .enqueued) (hprior : s.priorWaits = false)
include hentries hkind hdie hstate hprior

theorem takeLaunch_invalid (hvalid : (s.kernel k).valid = false) : s.takeLaunch die q core bank = (s.headTaken q r).reject k := by
  unfold takeLaunch
  rw [hentries]
  dsimp only
  rw [if_neg (by simp [hkind, hdie, hprior]), if_neg (not_not.2 hstate), if_pos (by rw [hvalid]; rfl)]
  rfl

theorem takeLaunch_valid (hvalid : (s.kernel k).valid = true) : s.takeLaunch die q core bank =
    ((s.headTaken q r).createGroups k die none).placeUnit ((s.headTaken q r).nextId + (s.kernel k).groupCount) core bank := by
  unfold takeLaunch
  rw [hentries]
  dsimp only
  rw [if_neg (by simp [hkind, hdie, hprior]), if_neg (not_not.2 hstate), if_neg (by rw [hvalid]; decide)]
  rfl

/-- What the statement says of a launch that is taken: its entry is gone; an invalid one is REJECTED, and a valid one has its groups,
numbered in order and PENDING. -/
theorem takeLaunch_spec : let t := s.takeLaunch die q core bank
    (t.queue q).entries = r ∧ (t.queue q).head = (s.queue q).head + 1 ∧
    ((s.kernel k).valid = false → (t.kernel k).state = .rejected ∧ t.groups = s.groups) ∧
    ((s.kernel k).valid = true → (t.kernel k).groups.length = (s.kernel k).groupCount ∧ ∀ i g, (t.kernel k).groups[i]? = some g →
      (t.group g).state = .pending ∧ (t.group g).kernel = k ∧ (t.group g).gnum = BitVec.ofNat 32 i) := by
  obtain ⟨hentry, hhead⟩ := headTaken_queue s q r
  have hkernel : (s.headTaken q r).kernel k = s.kernel k := congrArg (fun x => x.get k) (headTaken_kernels s q r)
  cases hvalid : (s.kernel k).valid with
  | false =>
    obtain ⟨hrejected, hgroups, hqueues⟩ := reject_spec (s.headTaken q r) k
    rw [takeLaunch_invalid hentries hkind hdie hstate hprior hvalid]
    refine ⟨?_, ?_, fun _ => ⟨hrejected, hgroups.trans (headTaken_groups s q r)⟩, fun h => Bool.noConfusion h⟩
    · rw [queue, hqueues]; exact hentry
    · rw [queue, hqueues]; exact hhead
  | true =>
    rw [takeLaunch_valid hentries hkind hdie hstate hprior hvalid]
    have hledger := placeUnit_ledger ((s.headTaken q r).createGroups k die none) ((s.headTaken q r).nextId + (s.kernel k).groupCount) core bank
    generalize State.placeUnit _ _ core bank = t at hledger
    simp only [ledger, Prod.mk.injEq] at hledger
    obtain ⟨hqueues, hkernels, hgroup⟩ := hledger
    have hlist : (t.kernel k).groups = (List.range (s.kernel k).groupCount).map (· + (s.headTaken q r).nextId) := by
      rw [kernel, hkernels, ← hkernel]
      exact createGroups_kernel_groups _ k die none
    refine ⟨?_, ?_, fun h => Bool.noConfusion h, fun _ => ⟨by simp [hlist], fun i g hg => ?_⟩⟩
    · rw [queue, hqueues, createGroups_queues]; exact hentry
    · rw [queue, hqueues, createGroups_queues]; exact hhead
    · rw [hlist, List.getElem?_map] at hg
      obtain ⟨j, hj, rfl⟩ := Option.map_eq_some_iff.1 hg
      obtain ⟨hi, rfl⟩ := List.getElem?_eq_some_iff.1 hj
      rw [List.getElem_range, Nat.add_comm]
      have hnew := createGroups_group (s.headTaken q r) k die none (i := i) (by rw [hkernel]; simpa using hi)
      have hat := congrFun hgroup ((s.headTaken q r).nextId + i)
      simp only [hnew, Prod.mk.injEq] at hat
      exact hat

end

end State

/-- Settles O31: the scheduler's turn by `takeLaunch_spec`, a placement by `sent_spec` and `started_spec`, the passing of units by
`handoff_eq` and the lemmas on donation, and a formation round by `formationRound_stands`. -/
theorem launchesAndPlacements : Obligations.LaunchesAndPlacements := by
  unfold Obligations.LaunchesAndPlacements
  refine ⟨?take, ?place, ?arrival, ?handoff, ?request, ?reply, ?formation⟩
  case take =>
    intro die q core bank k r s hentries hkind hdie hstate hprior
    exact ⟨_, rfl, State.takeLaunch_spec hentries hkind hdie hstate hprior⟩
  case place =>
    intro idx core bank s p g rest slots pad bar tile base hp hgroups kr c hcan hcluster hstate hserves
    have hmay : s.MayPlace (s.kernel p.kernel) p core bank := ⟨hcan, hcluster, hstate, hserves⟩
    refine ⟨fun hwait => congrArg Host.Outcome.next (State.placeUnit_waits hp hgroups hmay hwait), fun hprior hshadow hroom hbase => ?_⟩
    refine ⟨_, congrArg Host.Outcome.next (State.placeUnit_places hp hgroups hmay hprior hshadow hroom hbase), ?_⟩
    exact State.sent_spec s idx p g rest c (coreCluster core) kr slots pad bar tile base
  case arrival =>
    intro idx s p hp hnd hslots hpending hprior kr
    obtain ⟨hgone, hrun, hkernel, hin, hout, hmem⟩ := State.started_spec idx s p hnd
    obtain ⟨hre, hform⟩ := State.formTroupes_spec (s.started idx p) p.ctx p.slots s.cycle s.cycle (some s.cycle)
    refine ⟨_, congrArg Host.Outcome.next (State.placementArrival_eq hp hpending hprior), ?_⟩
    generalize (s.started idx p).formTroupes p.ctx p.slots s.cycle s.cycle (some s.cycle) = t at hre hform
    have hthr (j : Nat) : t.thr j = (s.started idx p).thr j := congrArg (fun u => u.thr j) hre
    refine ⟨(congrArg (fun u => u.placements.get idx) hre).trans hgone, (congrArg (fun u => (u.group p.group).state) hre).trans hrun,
      fun hk => (congrArg (fun u => (u.kernel (s.group p.group).kernel).state) hre).trans (hkernel hk), fun i k hk => ?_,
      fun j hj => (hthr j).trans (hout j hj), (congrArg State.mem hre).trans hmem⟩
    obtain ⟨h1, h2, h3, h4, h5, h6, h7⟩ := State.launchThread_spec kr (s.group p.group) p.group i p.slots.length
    rw [hthr, hin i k hk]
    exact ⟨h1, h2, h3, h4, h5, h6, h7, hform k (List.mem_of_getElem? hk)⟩
  case handoff =>
    intro idx die u per s p hp kr lv unitOf hper hu hbound hdie hship hpart hserves hfresh
    subst hper hu
    refine ⟨_, congrArg Host.Outcome.next (State.handoff_eq hp hbound hdie hship hpart hserves hfresh), ?_, fun j q hq hne => ?_, rfl⟩
    · rw [State.handoff_pends, hp]
      exact congrArg some (if_pos ⟨rfl, rfl⟩)
    · rw [State.handoff_pends, hq]
      exact congrArg some (if_neg (fun h => hne.elim (fun hk => hk h.1) (fun hu => hu h.2)))
  case request =>
    intro cl s hcl hplace hpend hsteal
    exact congrArg Host.Outcome.next (State.stealRequest_eq hcl hplace hpend hsteal)
  case reply =>
    intro idx s x hx may
    exact ⟨fun k p h => congrArg Host.Outcome.next (State.stealReply_gives hx h),
      fun h => congrArg Host.Outcome.next (State.stealReply_refuses hx h)⟩
  case formation =>
    intro core islot s hcycle c stands
    refine ⟨_, rfl, fun k hk => State.formationRound_stands hcycle ?_, State.formationRound_retrouped hcycle⟩
    exact List.mem_filter.2 ⟨hk.1, beq_iff_eq.2 hk.2⟩

end Sys2Proof.Machine
end

section
/-! What the end of a group leaves of the states of the other groups: the stores that leave, the threads that go on (R34, R43, R45). -/

namespace Sys2Proof.Machine
namespace State

/-- The states of the groups. -/
def standing (s : State) : Nat → GroupState := fun g => (s.group g).state

theorem standing_of_groups {s t : State} (h : t.groups = s.groups) : t.standing = s.standing :=
  funext fun g => congrArg (fun x => (x.get g).state) h

theorem Released.groups {s t : State} (h : Released s t) : t.groups = s.groups := by rw [show t = _ from h]

/-! Tags and blocked threads. -/

theorem wakeCtx_released (s : State) (c : Nat) : Released s (s.wakeCtx c) := by
  unfold wakeCtx
  dsimp only
  split
  · exact Released.refl s
  · exact wake_released s c _

@[simp] theorem wakeCtx_groups (s : State) (c : Nat) : (s.wakeCtx c).groups = s.groups := (wakeCtx_released s c).groups

@[simp] theorem settleTags_groups (s : State) (c : Nat) : (s.settleTags c).groups = s.groups := by
  unfold settleTags
  dsimp only
  split
  · exact shell_groups (homeStore_shell s _ _)
  · rfl

@[simp] theorem setTags_groups (s : State) (c : Nat) (m : DWord) : (s.setTags c m).groups = s.groups := by
  rw [setTags, wakeCtx_groups, settleTags_groups, modCtx_groups]

/-! Stores at a local place. -/

theorem walkFill_groups {s t : State} {core va pa : Nat} {asid : BitVec 16} {n : Need}
    (h : s.walkFill core asid va n = .ok (t, pa)) : t.groups = s.groups := by
  unfold walkFill at h
  split at h
  · cases h
  case h_2 s1 e hw =>
    have hwalk : s1.groups = s.groups := shell_groups ((walkRoot_shell hw).trans (readPath_shell s _ asid va))
    cases h
    exact hwalk

theorem tlbHit_groups {s t : State} {core va pa : Nat} {asid : BitVec 16} {n : Need}
    (h : s.tlbHit core asid va n = some (t, pa)) : t.groups = s.groups := by
  unfold tlbHit at h
  split at h
  · cases h; rfl
  · split at h
    · cases h; rfl
    · cases h

theorem translate_groups {s t : State} {core va pa : Nat} {asid : BitVec 16} {n : Need}
    (h : s.translate core asid va n = .ok (t, pa)) : t.groups = s.groups := by
  unfold translate at h
  split at h
  case h_1 r hr => cases h; exact tlbHit_groups hr
  case h_2 => exact walkFill_groups h

theorem findPorts_groups (s : State) (t : Nat) : (s.findPorts t).groups = s.groups := by
  refine foldl_keeps State.groups _ (fun u i => ?_) _ s
  dsimp only
  split
  · rfl
  · split
    case h_1 v pa hv => exact (modThr_groups v t _).trans (translate_groups hv)
    case h_2 f hf => exact shell_groups (denied_shell u _ _ _ f)

theorem parkBytes_groups (s : State) (t off : Nat) (bs : List Byte) : (s.parkBytes t off bs).groups = s.groups :=
  findPorts_groups _ t

/-- R92: a write to a trap window may change an action word and a stopped thread, and no group's state. -/
theorem windowPut_standing (s : State) (g off : Nat) (v : Byte) : (s.windowPut g off v).standing = s.standing := by
  unfold windowPut
  split
  · funext j
    rw [standing, modGroup_group]
    split_ifs with hj
    · rw [hj]; rfl
    · rfl
  · split
    · dsimp only
      split
      · exact standing_of_groups (parkBytes_groups s _ _ _)
      · rfl
    · rfl

theorem localStore_standing (s : State) (pl : Place) (bs : List Byte) : (s.localStore pl bs).standing = s.standing := by
  have hclear (w : List Nat) (p : Nat → Prop) [DecidablePred p] : (w.foldl (fun (u : State) k =>
      if p k then { u with lpoison := u.lpoison.set k false } else u) s).groups = s.groups :=
    foldl_keeps State.groups _ (fun u k => by split <;> rfl) w s
  unfold localStore
  cases pl with
  | virt => rfl
  | win a => exact (foldl_keeps standing _ (fun u e => windowPut_standing u _ _ _) _ _).trans (standing_of_groups (hclear _ _))
  | lane a => exact standing_of_groups (hclear _ _)
  | pad a => exact standing_of_groups (hclear _ _)
  | clus a => exact standing_of_groups (hclear _ _)
  | dsp a => exact standing_of_groups (hclear _ _)

theorem putLocal_standing (s : State) (c : Nat) (pl : Place) (bs : List Byte) : (s.putLocal c pl bs).standing = s.standing := by
  refine foldl_keeps standing _ (fun u e => ?_) _ s
  have hhome (a : Nat) : (u.homeStore a e.2).standing = u.standing := standing_of_groups (shell_groups (homeStore_shell u a e.2))
  dsimp only
  split
  · exact localStore_standing u _ _
  · split
    · split
      · exact hhome _
      · exact (localStore_standing _ _ _).trans (hhome _)
    · exact (localStore_standing _ _ _).trans (hhome _)

theorem leaveEpoch_groups (s : State) (core : Nat) (pl : Place) : (s.leaveEpoch core pl).groups = s.groups := by
  unfold leaveEpoch
  cases placeAgent pl <;> rfl

/-! Stores that leave their queue. -/

@[simp] theorem setAcc_standing (s : State) (id : Nat) (a : Option Access) : (s.setAcc id a).standing = s.standing := rfl
@[simp] theorem takeId_standing (s : State) : s.takeId.2.standing = s.standing := rfl

/-- Operations under way show nothing of the groups. -/
theorem underWay_standing (s : State) (ac : Tab (Option Access)) (re : Tab (Option Regn)) (he : Tab (Option HeapOp)) (cm : Tab (Option Cmd)) :
    ({ s with accs := ac, regns := re, heapOps := he, cmds := cm } : State).standing = s.standing := rfl

theorem setL1_groups (s : State) (core w : Nat) (x : L1Word) : (s.setL1 core w x).groups = s.groups := rfl

theorem writeL1_groups (s : State) (core pa : Nat) (bs : List Byte) (bad : Bool) : (s.writeL1 core pa bs bad).groups = s.groups := by
  refine foldl_keeps State.groups _ (fun u w => ?_) _ s
  rw [setL1_groups]
  split <;> rfl

theorem evictLine_groups (s : State) (core line : Nat) : (s.evictLine core line).groups = s.groups := by
  refine foldl_keeps State.groups _ (fun u w => ?_) _ s
  dsimp only
  split
  · rfl
  · rw [setL1_groups]
    split
    · exact shell_groups (forward_shell u w)
    · rfl

theorem l1Room_groups {s t : State} {core pa : Nat} (h : s.l1Room core pa = some t) : t.groups = s.groups := by
  unfold l1Room at h
  dsimp only at h
  split at h
  · cases h; rfl
  · split at h
    · cases h
    · rw [← Option.some.inj h, evictLine_groups]
      rfl

theorem leavePiece_standing (s : State) (t id i : Nat) (a : Access) (p : Piece) (regn : Nat) :
    (s.leavePiece t id i a p regn).standing = s.standing := by
  unfold leavePiece
  split
  · rw [setAcc_standing, standing_of_groups (setTags_groups s _ _)]
  · rw [setAcc_standing, standing_of_groups (settleTags_groups _ _), standing_of_groups (modCtx_groups s _ _)]
  · split
    · rw [setAcc_standing, standing_of_groups (leaveEpoch_groups _ _ _), putLocal_standing]
    · split
      · dsimp only
        rw [underWay_standing, standing_of_groups (writeL1_groups s _ _ _ _)]
      · rfl

theorem drainRun_standing (n : Nat) (s : State) (t regn : Nat) (block : Option Nat) : (drainRun n s t regn block).standing = s.standing := by
  induction n generalizing s block with
  | zero => rfl
  | succ n ih =>
    unfold drainRun
    split
    · rfl
    split
    · rfl
    split
    · rfl
    dsimp only
    split
    · rfl
    split
    · rfl
    case h_2 u hu =>
      have hroom : u.standing = s.standing := by
        split at hu
        · exact standing_of_groups (l1Room_groups hu)
        · cases hu; rfl
      split
      · split
        · rw [ih, leavePiece_standing, hroom]
        · rw [leavePiece_standing, hroom]
      · split
        · rw [ih, leavePiece_standing, hroom]
        · exact hroom

theorem storeDrain_standing (s : State) (t : Nat) : (s.storeDrain t).standing = s.standing := by
  rw [storeDrain, drainRun_standing, takeId_standing]

theorem flushStores_standing (n : Nat) (s : State) (t : Nat) : (flushStores n s t).standing = s.standing := by
  induction n generalizing s with
  | zero => rfl
  | succ n ih =>
    unfold flushStores
    split
    · rw [ih, storeDrain_standing]
    · rfl

theorem freeSlot_groups (s : State) (t : Nat) : (s.freeSlot t).groups = s.groups := rfl

theorem discardThread_standing (s : State) (t : Nat) : (s.discardThread t).standing = s.standing := by
  unfold discardThread
  dsimp only
  rw [standing_of_groups (freeSlot_groups _ t), underWay_standing, flushStores_standing]
  rfl

theorem ctxTo_groups (s : State) (core bank c : Nat) (st : CtxState) : (s.ctxTo core bank c st).groups = s.groups := by
  unfold ctxTo
  split <;> rfl

theorem exchangeBanks_groups (s : State) (core : Nat) : (s.exchangeBanks core).groups = s.groups := by
  simp only [exchangeBanks, ctxTo_groups, modCore_groups, modCtx_groups]

@[simp] theorem trySwap_groups (s : State) (core : Nat) : (s.trySwap core).groups = s.groups := by
  unfold trySwap
  dsimp only
  split
  · exact exchangeBanks_groups s core
  · rfl

/-! Groups that end. -/

theorem freeGroup_group (s : State) (g : Nat) (st : GroupState) :
    (s.freeGroup g st).group g = { s.group g with state := st, recalled := false } := by
  rw [freeGroup, modGroup_group_self]
  rfl

theorem freeGroup_standing (s : State) (g : Nat) (st : GroupState) :
    (s.freeGroup g st).standing = Function.update s.standing g st := by
  funext j
  by_cases hj : j = g
  · rw [hj, Function.update_self, standing, freeGroup_group]
  · rw [Function.update_of_ne hj, standing, freeGroup, modGroup_group_ne _ _ _ hj]
    rfl

theorem discardGroup_standing {s : State} {g : Nat} (h : ended (s.group g) = false) :
    (s.discardGroup g).standing = Function.update s.standing g .discarded := by
  unfold discardGroup
  dsimp only
  rw [if_neg (by rw [h]; decide), standing_of_groups (trySwap_groups _ _), standing_of_groups (wakeCtx_groups _ _),
    foldl_keeps standing _ (fun u k => discardThread_standing u _), freeGroup_standing,
    foldl_keeps standing _ (fun u k => discardThread_standing u k)]

theorem startHalt_standing {s : State} {g : Nat} (h : (s.group g).state = .running) (cause : Byte) (slot : Nat) :
    (s.startHalt g cause slot).standing = Function.update s.standing g .halting := by
  unfold startHalt
  rw [if_neg (not_not.2 h)]
  dsimp only
  funext j
  by_cases hj : j = g
  · rw [hj, Function.update_self, standing, modGroup_group_self]
  · rw [Function.update_of_ne hj, standing, modGroup_group_ne _ _ _ hj]
    exact congrFun (foldl_keeps standing (fun (u : State) k => u.modThr _ _) (fun u k => rfl) _ s) j

/-- R34, R45: what cancelling a group makes of its state, and that no other group's state changes. -/
theorem cancelGroup_standing (s : State) (g : Nat) :
    (s.cancelGroup g).standing = Function.update s.standing g (cancelledTo (s.standing g)) := by
  have hkept (st : GroupState) (h : (s.group g).state = st) : s.standing = Function.update s.standing g st := by
    rw [← h]; exact (Function.update_eq_self g s.standing).symm
  unfold cancelGroup
  cases h : (s.group g).state with
  | pending | halted | evicted => simpa only [standing, h, cancelledTo] using discardGroup_standing (by rw [ended, h]; rfl)
  | running => simpa only [standing, h, cancelledTo] using startHalt_standing h 0 0
  | _ => simpa only [standing, h, cancelledTo] using hkept _ h

theorem cancelledTo_cancelledTo (st : GroupState) : cancelledTo (cancelledTo st) = cancelledTo st := by cases st <;> rfl

/-- The groups of a list are cancelled, also when it names one twice. -/
theorem foldl_cancelGroup_standing (gs : List Nat) (s : State) (j : Nat) :
    (gs.foldl cancelGroup s).standing j = if j ∈ gs then cancelledTo (s.standing j) else s.standing j := by
  induction gs generalizing s with
  | nil => rfl
  | cons g r ih =>
    rw [List.foldl_cons, ih, cancelGroup_standing]
    by_cases hj : j = g
    · rw [hj, Function.update_self, cancelledTo_cancelledTo]
      simp
    · simp [hj]

end State
end Sys2Proof.Machine
end

section
/-! Groups are evicted and recalled: a thread and its lane store leave the slot and come back (R45, R58). -/

namespace Sys2Proof.Machine

/-- A fold over keys that are named once each, whose steps change a view at their own keys alone, changes it once at every key of the list. -/
theorem foldl_at {σ γ : Type} (f : σ → Nat → σ) (view : σ → Nat → γ) (upd : γ → γ) (dom : Nat → Prop)
    (h : ∀ s k j, dom k → dom j → view (f s k) j = if j = k then upd (view s j) else view s j) {l : List Nat} (hnd : l.Nodup)
    (hl : ∀ k ∈ l, dom k) (s : σ) {j : Nat} (hj : dom j) : view (l.foldl f s) j = if j ∈ l then upd (view s j) else view s j := by
  induction l generalizing s with
  | nil => rfl
  | cons k r ih =>
    obtain ⟨hk, hr⟩ := List.nodup_cons.1 hnd
    rw [List.foldl_cons, ih hr (fun i hi => hl i (List.mem_cons_of_mem _ hi)), h s k j (hl k (List.mem_cons_self ..)) hj]
    by_cases hjk : j = k
    · subst hjk; simp [hk]
    · simp [hjk]

theorem Memory.length_bytes (m : Memory) (a n : Nat) : (m.bytes a n).length = n := by
  induction n generalizing a with
  | zero => rfl
  | succ n ih => rw [Memory.bytes, List.length_cons, ih]

theorem Memory.getD_bytes (m : Memory) (a n i : Nat) (h : i < n) : (m.bytes a n).getD i 0 = m.get (a + i) := by
  induction n generalizing a i with
  | zero => omega
  | succ n ih =>
    rw [Memory.bytes]
    cases i with
    | zero => rfl
    | succ i => rw [List.getD_cons_succ, ih _ _ (by omega), Nat.add_right_comm, Nat.add_assoc]

theorem keySlot_threadKey {c k : Nat} (h : k < 1024) : keySlot (threadKey c k) = k := by
  unfold keySlot threadKey; omega

theorem threadKey_lt {c k : Nat} (hc : c < 2 ^ 30) (hk : k < 1024) : threadKey c k < 2 ^ 80 := by
  unfold threadKey; omega

theorem le_evictedKey (g t : Nat) : 2 ^ 80 ≤ evictedKey g t := by
  unfold evictedKey; omega

theorem evictedKey_inj {g t u : Nat} : evictedKey g t = evictedKey g u ↔ t = u := by
  unfold evictedKey ghostKey; omega

theorem ne_evictedKey {j g t : Nat} (hj : j < 2 ^ 80) : j ≠ evictedKey g t := fun h => Nat.not_le.2 hj (h ▸ le_evictedKey g t)

namespace State

theorem copyBytes_get (src dst : Memory) {a b n i : Nat} (h : i < n) : (copyBytes src dst a b n).get (b + i) = src.get (a + i) := by
  rw [copyBytes, Memory.get_store_inside _ _ _ _ (by rwa [Memory.length_bytes]), Memory.getD_bytes _ _ _ _ h]

theorem copyBytes_get_outside (src dst : Memory) {a b n k : Nat} (h : k < b ∨ b + n ≤ k) : (copyBytes src dst a b n).get k = dst.get k :=
  Memory.get_store_outside _ _ _ _ (by rwa [Memory.length_bytes])

theorem lt_of_mem_groupSlots {s : State} {g k : Nat} {p : Thread → Bool} (h : k ∈ s.groupSlots g p) : k < 1024 := by
  obtain ⟨e, _, rfl⟩ := List.mem_map.1 h
  exact Nat.mod_lt _ (by decide)

/-! Eviction. -/

/-- A slot as the eviction of a group sees it: its thread, its lane store, and what is spilled of the two. -/
def slotView (g c : Nat) (s : State) (k : Nat) : Thread × (Fin 256 → Byte) × Thread × (Fin 256 → Byte) :=
  (s.thr (threadKey c k), fun i => s.lane.get (256 * threadKey c k + i), s.evicted.get (g * 1024 + k),
    fun i => s.evLane.get (256 * (g * 1024 + k) + i))

/-- The same slot FREE, with its thread and its lane store spilled. -/
def vacated (x : Thread × (Fin 256 → Byte) × Thread × (Fin 256 → Byte)) : Thread × (Fin 256 → Byte) × Thread × (Fin 256 → Byte) :=
  ({}, x.2.1, x.1, x.2.1)

/-- The state with what a slot holds copied to where the threads of evicted groups are kept. -/
def spill (s : State) (g c k : Nat) : State :=
  { s with evicted := s.evicted.set (g * 1024 + k) (s.thr (threadKey c k)),
           evLane := copyBytes s.lane s.evLane (256 * threadKey c k) (256 * (g * 1024 + k)) 256,
           lpoison := movePoison s.lpoison (64 * threadKey c k) (2 ^ 60 + 64 * (g * 1024 + k)) }

theorem evictThread_eq (s : State) (g c k : Nat) : s.evictThread g c k =
    (if s.inFlight (threadKey c k) then ((s.spill g c k).rekey (threadKey c k) (evictedKey g (threadKey c k)) true).setThr
      (evictedKey g (threadKey c k)) (s.thr (threadKey c k)) else s.spill g c k).setThr (threadKey c k) {} := rfl

/-- What is under way goes on under another key, and nothing else changes. -/
theorem rekey_view {γ : Type} (view : State → γ)
    (hway : ∀ (u : State) ac po he cm la, view { u with accs := ac, posts := po, heapOps := he, cmds := cm, late := la } = view u)
    (s : State) (t u : Nat) (flags : Bool) : view (s.rekey t u flags) = view s := hway s _ _ _ _ _

/-- What an eviction changes at most at the slot of its thread, and groups and memory. -/
def spillParts (s : State) : Tab Group × Memory × Memory × Tab Thread × Memory := (s.groups, s.mem, s.lane, s.evicted, s.evLane)

theorem setThr_spillParts (s : State) (t : Nat) (x : Thread) : (s.setThr t x).spillParts = s.spillParts := rfl

theorem evictThread_parts (s : State) (g c k : Nat) :
    let t := s.evictThread g c k
    t.groups = s.groups ∧ t.mem = s.mem ∧ t.lane = s.lane ∧ t.evicted = s.evicted.set (g * 1024 + k) (s.thr (threadKey c k)) ∧
    t.evLane = copyBytes s.lane s.evLane (256 * threadKey c k) (256 * (g * 1024 + k)) 256 := by
  have h : (s.evictThread g c k).spillParts = (s.spill g c k).spillParts := by
    rw [evictThread_eq, setThr_spillParts]
    split
    · rw [setThr_spillParts, rekey_view spillParts (fun _ _ _ _ _ _ => rfl)]
    · rfl
  simpa only [spillParts, spill, Prod.mk.injEq] using h

theorem evictThread_thr (s : State) (g c k : Nat) {j : Nat} (hj : j < 2 ^ 80) :
    (s.evictThread g c k).thr j = if j = threadKey c k then {} else s.thr j := by
  have hspill : (s.spill g c k).thr j = s.thr j := by simp only [spill, thr]
  rw [evictThread_eq, setThr_thr]
  congr 1
  split
  · rw [setThr_thr_ne _ _ _ (ne_evictedKey hj), rekey_view (fun u => u.thr j) (fun _ _ _ _ _ _ => rfl), hspill]
  · exact hspill

theorem evictThread_slotView (s : State) {g c k j : Nat} (hc : c < 2 ^ 30) (hj : j < 1024) :
    slotView g c (s.evictThread g c k) j = if j = k then vacated (slotView g c s j) else slotView g c s j := by
  obtain ⟨-, -, hlane, hevicted, hevLane⟩ := s.evictThread_parts g c k
  rw [slotView, hlane, hevicted, hevLane, s.evictThread_thr g c k (threadKey_lt hc hj), Tab.get_set]
  by_cases h : j = k
  · subst h
    rw [if_pos rfl, if_pos rfl, if_pos rfl]
    refine Prod.ext rfl (Prod.ext rfl (Prod.ext rfl (funext fun i => ?_)))
    exact copyBytes_get _ _ i.isLt
  · rw [if_neg (fun he => h (threadKey_inj he)), if_neg (by omega), if_neg h]
    refine Prod.ext rfl (Prod.ext rfl (Prod.ext rfl (funext fun i => ?_)))
    exact copyBytes_get_outside _ _ (by omega)

/-- What the eviction of listed threads changes: their slots, and no thread of another slot (R45). -/
theorem foldl_evictThread_spec (s : State) {g c : Nat} {slots : List Nat} (hc : c < 2 ^ 30) (hnd : slots.Nodup)
    (hslots : ∀ k ∈ slots, k < 1024) :
    let t := slots.foldl (fun u k => u.evictThread g c k) s
    t.groups = s.groups ∧ t.mem = s.mem ∧ (∀ k ∈ slots, slotView g c t k = vacated (slotView g c s k)) ∧
    ∀ j, j < 2 ^ 80 → (∀ k ∈ slots, j ≠ threadKey c k) → t.thr j = s.thr j := by
  refine ⟨foldl_keeps State.groups _ (fun u k => (u.evictThread_parts g c k).1) slots s,
    foldl_keeps State.mem _ (fun u k => (u.evictThread_parts g c k).2.1) slots s, fun k hk => ?_, fun j hj hout => ?_⟩
  · refine (foldl_at _ (slotView g c) vacated (· < 1024) (fun u i j _ hj => u.evictThread_slotView hc hj) hnd hslots s (hslots k hk)).trans ?_
    exact if_pos hk
  · refine List.foldlRecOn slots _ (motive := fun u : State => u.thr j = s.thr j) rfl (fun u hu k hk => ?_)
    rw [evictThread_thr _ _ _ _ hj, if_neg (hout k hk), hu]

theorem evictGroup_eq {s : State} {g : Nat} (hstate : (s.group g).state = .running)
    (hhere : s.groupSlots g (fun y => y.run != .exited) ≠ [])
    (hwait : ∀ k ∈ s.groupSlots g (fun y => y.run != .exited), ∃ p, (s.thr (threadKey (s.group g).ctx k)).run = .blocked (.barrier p))
    (hneeded : s.slotsNeeded (s.group g).ctx = true) :
    ∃ wake, s.evictGroup g = ((s.groupSlots g (fun y => y.run != .exited)).foldl (fun u k => u.evictThread g (s.group g).ctx k) s).modGroup g
      (fun x => { x with state := .evicted, wake := wake }) := by
  refine ⟨_, if_neg ?_⟩
  rintro (h | h | h | h)
  · exact h hstate
  · exact hhere (List.isEmpty_iff.1 h)
  · rw [List.all_eq_true.2 (fun k hk => ?_)] at h
    · cases h
    · obtain ⟨p, hp⟩ := hwait k hk
      rw [hp]
  · rw [hneeded] at h; cases h

/-! Recall. -/

/-- A slot as the recall of a group sees it: its thread, and the two places of an evicted thread (R58). -/
def recallView (g c : Nat) (s : State) (k : Nat) : Thread × Thread × Thread :=
  (s.thr (threadKey c k), s.evicted.get (g * 1024 + k), s.thr (evictedKey g (threadKey c k)))

/-- The same slot with the thread back in it. -/
def reloaded (x : Thread × Thread × Thread) : Thread × Thread × Thread :=
  ({ (if x.2.2 = {} then x.2.1 else x.2.2) with run := .runnable }, {}, {})

theorem recallThread_parts (s : State) (g c k : Nat) :
    let t := s.recallThread g c k
    t.groups = s.groups ∧ t.mem = s.mem ∧ t.evicted = s.evicted.set (g * 1024 + k) {} := by
  unfold recallThread
  generalize movePoison _ _ _ = poison
  generalize copyBytes _ _ _ _ _ = lanes
  exact ⟨rfl, rfl, rfl⟩

theorem recallThread_thr (s : State) (g c k j : Nat) : (s.recallThread g c k).thr j =
    if j = threadKey c k then { s.evictedThr g (threadKey c k) with run := .runnable }
    else if j = evictedKey g (threadKey c k) then {} else s.thr j := by
  refine (Tab.get_set _ _ j _).trans ?_
  split_ifs with h h'
  · rfl
  · rw [h']; exact setThr_thr_self _ _ _
  · exact setThr_thr_ne _ _ _ h'

theorem recallThread_recallView (s : State) {g c k j : Nat} (hc : c < 2 ^ 30) (hk : k < 1024) (hj : j < 1024) :
    recallView g c (s.recallThread g c k) j = if j = k then reloaded (recallView g c s j) else recallView g c s j := by
  obtain ⟨-, -, hevicted⟩ := s.recallThread_parts g c k
  rw [recallView, hevicted, recallThread_thr, recallThread_thr, Tab.get_set, if_neg (ne_evictedKey (threadKey_lt hc hj)),
    if_neg (Ne.symm (ne_evictedKey (threadKey_lt hc hk)))]
  by_cases h : j = k
  · subst h
    rw [if_pos rfl, if_pos rfl, if_pos rfl, if_pos rfl, evictedThr, keySlot_threadKey hj]
    rfl
  · rw [if_neg (fun he => h (threadKey_inj he)), if_neg (by omega), if_neg h, if_neg (fun he => h (threadKey_inj (evictedKey_inj.1 he)))]
    rfl

/-- The slots that the threads of an evicted group come back to. -/
def backSlots (s : State) (g : Nat) : List Nat := (s.evicted.keys.filter (fun k => k / 1024 == g)).map (fun k => k % 1024)

theorem lt_of_mem_backSlots {s : State} {g k : Nat} (h : k ∈ s.backSlots g) : k < 1024 := by
  obtain ⟨e, _, rfl⟩ := List.mem_map.1 h
  exact Nat.mod_lt _ (by decide)

/-- The state in which the threads of a recalled group are in their slots; their troupes are still to form. -/
def recalled (s : State) (g : Nat) : State :=
  ((s.backSlots g).foldl (fun u k => u.recallThread g (s.group g).ctx k) s).modGroup g
    (fun x => { x with state := .running, recalled := false, wake := [] })

theorem recallGroup_eq {s : State} {g : Nat} (hstate : (s.group g).state = .evicted) (hrecalled : (s.group g).recalled = true)
    (hctx : (s.ctx (s.group g).ctx).state = .active ∨ (s.ctx (s.group g).ctx).state = .shadow)
    (hfree : ∀ k ∈ s.backSlots g, (s.thr (threadKey (s.group g).ctx k)).run = .free ∧ k ∉ s.reserved (s.group g).ctx) :
    s.recallGroup g = (s.recalled g).formTroupes (s.group g).ctx (s.backSlots g) s.cycle s.cycle none := by
  refine if_neg ?_
  rintro (h | h | h | h)
  · exact h hstate
  · rw [hrecalled] at h; cases h
  · rw [decide_eq_true hctx] at h; cases h
  · obtain ⟨k, hk, h⟩ := List.any_eq_true.1 h
    obtain ⟨hrun, hreserved⟩ := hfree k hk
    simp [hrun, hreserved] at h

/-- R58: each thread is runnable in its slot as it was spilled, with what its operations have done to it meanwhile. -/
theorem recalled_spec (s : State) {g : Nat} (hc : (s.group g).ctx < 2 ^ 30) (hnd : (s.backSlots g).Nodup) :
    let t := s.recalled g
    t.group g = { s.group g with state := .running, recalled := false, wake := [] } ∧ t.mem = s.mem ∧
    ∀ k ∈ s.backSlots g, t.thr (threadKey (s.group g).ctx k) = { s.evictedThr g (threadKey (s.group g).ctx k) with run := .runnable } ∧
      t.evicted.get (g * 1024 + k) = {} := by
  have hgroups : ((s.backSlots g).foldl (fun u k => u.recallThread g (s.group g).ctx k) s).groups = s.groups :=
    foldl_keeps State.groups _ (fun u k => (u.recallThread_parts g _ k).1) _ s
  refine ⟨?_, foldl_keeps State.mem _ (fun u k => (u.recallThread_parts g _ k).2.1) _ s, fun k hk => ?_⟩
  · rw [recalled, modGroup_group_self, group, hgroups]
    rfl
  · have hk1024 := lt_of_mem_backSlots hk
    have h := foldl_at (fun u k => u.recallThread g (s.group g).ctx k) (recallView g (s.group g).ctx) reloaded (· < 1024)
      (fun u i j hi hj => u.recallThread_recallView hc hi hj) hnd (fun i => lt_of_mem_backSlots) s hk1024
    rw [if_pos hk] at h
    refine ⟨(congrArg Prod.fst h).trans ?_, congrArg (fun x => x.2.1) h⟩
    rw [evictedThr, keySlot_threadKey hk1024]
    rfl

end State
end Sys2Proof.Machine
end

section
/-! Groups retire, and kernels end: their completion add and their cancellation (R22, R32–R34, R45, R46); the ends of groups and kernels
as a whole. -/

namespace Sys2Proof.Machine

variable {α : Type}

theorem lookup_filter_of (p : Nat × α → Bool) (k : Nat) (l : List (Nat × α)) (h : ∀ x, p (k, x) = true) :
    lookup k (l.filter p) = lookup k l := by
  induction l with
  | nil => rfl
  | cons e r ih =>
    obtain ⟨j, x⟩ := e
    by_cases hj : j = k
    · subst hj
      rw [List.filter_cons_of_pos (h x), lookup, lookup, if_pos rfl, if_pos rfl]
    · rw [List.filter_cons]
      split
      · rw [lookup, lookup, if_neg hj, if_neg hj, ih]
      · rw [ih, lookup, if_neg hj]

/-- A key that the test never names stays as it is. -/
theorem Tab.get_drop_of [Inhabited α] (t : Tab α) (p : Nat → α → Bool) {k : Nat} (h : ∀ x, p k x = false) :
    (t.drop p).get k = t.get k := by
  rw [Tab.get, Tab.get, Tab.drop, lookup_filter_of _ _ _ (fun x => by rw [h]; rfl)]

namespace State

/-! Retirement. -/

/-- A state whose kernel drains when its last group has ended with engine work outstanding (R32). -/
def drainIfEnded (s : State) (k : Nat) : State :=
  if s.allEnded k ∧ s.engineWork k ∧ (s.kernel k).state = .running then s.modKernel k (fun x => { x with state := .draining }) else s

theorem drainIfEnded_view {γ : Type} (view : State → γ) (h : ∀ (u : State) k f, view (u.modKernel k f) = view u) (s : State) (k : Nat) :
    view (s.drainIfEnded k) = view s := by
  unfold drainIfEnded
  split
  · exact h s k _
  · rfl

theorem drainIfEnded_draining {s : State} {k : Nat} (hrunning : (s.kernel k).state = .running)
    (hended : (s.drainIfEnded k).allEnded k = true) (hwork : s.engineWork k = true) :
    ((s.drainIfEnded k).kernel k).state = .draining := by
  by_cases hs : s.allEnded k = true
  · rw [drainIfEnded, if_pos ⟨hs, hwork, hrunning⟩, modKernel_kernel_self]
  · rw [drainIfEnded, if_neg (fun h => hs h.1)] at hended
    exact absurd hended hs

theorem retireGroup_eq {s : State} {g : Nat} (hstate : (s.group g).state = .retiring) (hslots : s.groupSlots g (fun _ => true) = [])
    (hserves : (s.group g).serves = 0) : s.retireGroup g = (s.freeGroup g .retired).drainIfEnded (s.group g).kernel := by
  unfold retireGroup
  dsimp only
  rw [if_neg (by simp [hstate, hslots]), if_neg (fun h => h.1 hserves)]
  rfl

/-- R45, R56: no barrier of its context is granted to a group that has been freed. -/
theorem freeGroup_barrier (s : State) {g : Nat} (st : GroupState) (hg : g ≠ 0) (p : Nat) :
    ((s.freeGroup g st).barrier (s.group g).ctx p).group ≠ g := by
  have hread : (s.freeGroup g st).barrier (s.group g).ctx p =
      if ((s.barrier (s.group g).ctx p).group = g) then {} else s.barrier (s.group g).ctx p := by
    refine (congrArg (fun x : Ctx => x.barriers.get p) (modCtx_ctx_self s (s.group g).ctx _)).trans ?_
    exact Tab.get_mapCells_of _ _ _ (ite_self _)
  rw [hread]
  split_ifs with h
  · exact hg.symm
  · exact h

theorem freeGroup_thr (s : State) (g : Nat) (st : GroupState) {j : Nat} (hj : j < 2 ^ 80) : (s.freeGroup g st).thr j = s.thr j := by
  refine Tab.get_drop_of s.threads _ (fun _ => ?_)
  rw [decide_eq_false (Nat.not_le.2 hj), Bool.false_and]

/-- What the retirement of a group leaves (R22, R32, R45). -/
theorem retired_spec (s : State) (g : Nat) :
    let t := (s.freeGroup g .retired).drainIfEnded (s.group g).kernel
    t.group g = { s.group g with state := .retired, recalled := false } ∧
    (∀ p, g ≠ 0 → (t.barrier (s.group g).ctx p).group ≠ g) ∧
    ((s.kernel (s.group g).kernel).state = .running → t.allEnded (s.group g).kernel = true → s.engineWork (s.group g).kernel = true →
      (t.kernel (s.group g).kernel).state = .draining) ∧
    (∀ j, j < 2 ^ 80 → t.thr j = s.thr j) ∧ t.mem = s.mem := by
  refine ⟨?_, fun p hg => ?_, fun hrunning hended hwork => drainIfEnded_draining hrunning hended hwork, fun j hj => ?_, ?_⟩
  · rw [drainIfEnded_view (fun u => u.group g) (fun _ _ _ => rfl), freeGroup_group]
  · rw [drainIfEnded_view (fun u => u.barrier (s.group g).ctx p) (fun _ _ _ => rfl)]
    exact freeGroup_barrier s .retired hg p
  · rw [drainIfEnded_view (fun u => u.thr j) (fun _ _ _ => rfl), freeGroup_thr s g .retired hj]
  · rw [drainIfEnded_view State.mem (fun _ _ _ => rfl)]
    rfl

/-! Slots. -/

theorem slotFree_eq {s : State} {t : Nat} (hexited : (s.thr t).run = .exited) (hflight : s.inFlight t = false) :
    s.slotFree t = s.freeSlot t := if_pos ⟨hexited, by rw [hflight]; rfl⟩

/-! Ends of kernels. -/

theorem completionAdd_of_zero {s : State} {k : Nat} (v : Word) (h : (s.kernel k).doneVa = 0) : s.completionAdd k v = s := by
  rw [completionAdd, if_pos (.inl h)]

theorem completionAdd_of_ok {s w : State} {k pa : Nat} (v : Word) (hva : (s.kernel k).doneVa ≠ 0) (hok : (s.kernel k).doneOk = true)
    (h : s.translateDie (s.kernel k).die (s.kernel k).asid (s.kernel k).doneVa.toNat .write = .ok (w, pa)) :
    s.completionAdd k v = w.homeAdd pa v := by
  unfold completionAdd
  dsimp only
  rw [if_neg (not_or.2 ⟨hva, by rw [hok]; decide⟩), dieAddr, h]

/-- R33: at the end of a kernel its completion word, where it has one that translates, is added to. -/
theorem endKernel_spec (s : State) (k : Nat) (st : KState) {v : Word} (hv : (if st = .retired then 1 else 0x10000) = v) :
    let kr := s.kernel k
    let u : State := { s with kernels := s.kernels.set k { kr with state := st } }
    (kr.doneVa = 0 → s.endKernel k st = u) ∧
    (∀ w pa, kr.doneVa ≠ 0 → kr.doneOk = true → u.translateDie kr.die kr.asid kr.doneVa.toNat .write = .ok (w, pa) →
      s.endKernel k st = w.homeStore pa (leBytes 4 (wordOf (w.homeLoad pa 4) + v).toNat)) := by
  subst hv
  have hread : (s.modKernel k (fun x => { x with state := st })).kernel k = { s.kernel k with state := st } := modKernel_kernel_self ..
  refine ⟨fun hva => completionAdd_of_zero _ ?_, fun w pa hva hok h => completionAdd_of_ok _ ?_ ?_ ?_⟩
  all_goals rw [hread]
  · exact hva
  · exact hva
  · exact hok
  · exact h

theorem drainDone_eq {s : State} {k : Nat} (hover : KernelOver s k)
    (hstate : (s.kernel k).state = .running ∨ (s.kernel k).state = .draining) (hgroups : (s.kernel k).groups ≠ []) :
    s.drainDone k = s.endKernel k .retired :=
  if_pos ⟨hstate, by simpa using hgroups, hover.1, by rw [hover.2]; rfl⟩

theorem cancelDone_eq {s : State} {k : Nat} (hover : KernelOver s k) (hstate : (s.kernel k).state = .cancelling) :
    s.cancelDone k = s.endKernel k (if (s.kernel k).faulting then .faulted else .cancelled) :=
  if_pos ⟨hstate, hover.1, by rw [hover.2]; rfl⟩

/-! Cancellation. -/

/-- The state in which a kernel's waiting units are dropped and its groups cancelled (R34). -/
def groupsCancelled (s : State) (k : Nat) : State := (s.kernel k).groups.foldl State.cancelGroup (s.dropWaiting k)

theorem groupsCancelled_standing (s : State) {k h : Nat} (hh : h ∈ (s.kernel k).groups) :
    (s.groupsCancelled k).standing h = cancelledTo (s.standing h) := by
  rw [groupsCancelled, foldl_cancelGroup_standing, if_pos hh]
  rfl

theorem cancelKernel_enqueued {s : State} {k : Nat} (faulting : Bool) (h : (s.kernel k).state = .enqueued) :
    s.cancelKernel k faulting = (s.groupsCancelled k).endKernel k .cancelled := by
  unfold cancelKernel
  rw [h]
  rfl

theorem cancelKernel_started {s : State} {k : Nat} (faulting : Bool)
    (h : (s.kernel k).state = .running ∨ (s.kernel k).state = .draining) : s.cancelKernel k faulting =
      (s.groupsCancelled k).modKernel k (fun x => { x with state := .cancelling, faulting := faulting }) := by
  unfold cancelKernel
  rcases h with h | h <;> rw [h] <;> rfl

theorem endKernel_state (s : State) (k : Nat) (st : KState) : ((s.endKernel k st).kernel k).state = st := by
  rw [endKernel, kernel, shell_kernels (completionAdd_shell _ k _)]
  exact congrArg Kernel.state (Tab.get_modify_self _ _ _)

theorem endKernel_standing (s : State) (k : Nat) (st : KState) : (s.endKernel k st).standing = s.standing := by
  rw [endKernel, standing_of_groups (shell_groups (completionAdd_shell _ k _))]
  rfl

end State

/-- Settles O33: an eviction by `foldl_evictThread_spec`, a recall by `recalled_spec`, a retirement by `retired_spec`, the end of a kernel
by `endKernel_spec`, and a cancellation by `groupsCancelled_standing`. -/
theorem groupsAndKernelsEnd : Obligations.GroupsAndKernelsEnd := by
  unfold Obligations.GroupsAndKernelsEnd
  refine ⟨?groups, ?slots, ?ends, ?cancellation⟩
  case groups =>
    intro g s x slots here evictKey hctx
    refine ⟨fun hstate hhere hnd hwait hneeded => ?leaves, fun hstate hrecalled hactive hnd hfree => ?returns,
      fun hstate hslots hserves => ?retires⟩
    case leaves =>
      obtain ⟨wake, heq⟩ := State.evictGroup_eq hstate hhere hwait hneeded
      obtain ⟨hgroups, hmem, hin, hout⟩ :=
        s.foldl_evictThread_spec (g := g) hctx hnd (fun k hk => State.lt_of_mem_groupSlots hk)
      refine ⟨_, congrArg Host.Outcome.next heq, ?_, fun k hk => ?_, hout, hmem⟩
      · rw [State.modGroup_group_self]
      · have h := hin k hk
        exact ⟨congrArg (fun x => x.2.2.1) h, congrArg (fun x => x.1) h, fun i hi => congrArg (fun x => x.2.2.2 ⟨i, hi⟩) h⟩
    case returns =>
      obtain ⟨hgroup, hmem, hin⟩ := s.recalled_spec hctx hnd
      obtain ⟨hre, hform⟩ := (s.recalled g).formTroupes_spec x.ctx (s.backSlots g) s.cycle s.cycle none
      refine ⟨_, congrArg Host.Outcome.next (State.recallGroup_eq hstate hrecalled hactive hfree), ?_⟩
      generalize (s.recalled g).formTroupes x.ctx (s.backSlots g) s.cycle s.cycle none = t at hre hform
      refine ⟨(congrArg (fun u => u.group g) hre).trans hgroup, fun k hk => ?_, (congrArg State.mem hre).trans hmem⟩
      obtain ⟨hthr, hevicted⟩ := hin k hk
      exact ⟨(congrArg (fun u => u.thr (threadKey x.ctx k)) hre).trans hthr,
        (congrArg (fun u => u.evicted.get (g * 1024 + k)) hre).trans hevicted, hform k hk⟩
    case retires =>
      exact ⟨_, congrArg Host.Outcome.next (State.retireGroup_eq hstate hslots hserves), s.retired_spec g⟩
  case slots =>
    intro r s hexited hflight
    exact congrArg Host.Outcome.next (State.slotFree_eq hexited hflight)
  case ends =>
    intro k s hover kr ends
    refine ⟨fun hstate hgroups => ?_, fun hstate => ?_⟩
    · exact ⟨_, congrArg Host.Outcome.next (State.drainDone_eq hover hstate hgroups), s.endKernel_spec k _ rfl⟩
    · refine ⟨_, congrArg Host.Outcome.next (State.cancelDone_eq hover hstate), s.endKernel_spec k _ (if_neg ?_)⟩
      split <;> decide
  case cancellation =>
    intro k s _
    refine ⟨fun hstate => ?_, fun hstate => ?_⟩
    · refine ⟨_, congrArg Host.Outcome.next (State.cancelKernel_enqueued false hstate), State.endKernel_state _ k _, fun h hh => ?_⟩
      exact (congrFun (State.endKernel_standing _ k _) h).trans (s.groupsCancelled_standing hh)
    · refine ⟨_, congrArg Host.Outcome.next (State.cancelKernel_started false hstate), ?_, ?_, fun h hh => s.groupsCancelled_standing hh⟩
      all_goals rw [State.modKernel_kernel_self]

end Sys2Proof.Machine
end

section
/-! Which steps of the opcode table issue for a troupe and which are events; each answers a next state (R39, R272, R298). -/

namespace Sys2Proof.Machine

/-- Every instruction with an encoding but the header issues through `State.run`, as itself. -/
theorem exec_eq_run {i : Instr} (hp : i.parcels ≠ 0) (hc : ∀ w a b n y, i ≠ .clause w a b n y) :
    ∃ y op, ∀ s, exec i s = s.run i y op := by
  cases i
  case clause w a b n y => exact absurd rfl (hc w a b n y)
  all_goals try exact absurd rfl hp
  all_goals exact ⟨_, _, fun _ => rfl⟩

/-- Every step of the opcode table that is no instruction answers a next state. -/
theorem exec_event {i : Instr} (h : isEvent i = true) (s : State) : ∃ t, exec i s = .next t := by
  cases i
  all_goals try exact absurd h Bool.false_ne_true
  all_goals exact ⟨_, rfl⟩

theorem issue_next {s : State} {sel : Sel} (h : s.sel = some sel) (n : Nat) (y : Bool) (op : State → Nat → TRes) :
    ∃ t, s.issue n y op = .next t := by
  unfold State.issue
  rw [h]
  dsimp only
  split_ifs
  all_goals exact ⟨_, rfl⟩

/-- A step of no parcels is an event or the reserved encoding. -/
theorem isEvent_or_reserved {i : Instr} (hp : i.parcels = 0) : isEvent i = true ∨ ∃ w, i = .reservedEncoding w := by
  cases i
  case reservedEncoding w => exact .inr ⟨w, rfl⟩
  all_goals exact .inl (by simp [isEvent, hp])

/-- With a troupe selected every step of the opcode table answers a next state. -/
theorem exec_next {s : State} {sel : Sel} (h : s.sel = some sel) (i : Instr) : ∃ t, exec i s = .next t := by
  by_cases hp : i.parcels = 0
  · obtain he | ⟨w, rfl⟩ := isEvent_or_reserved hp
    · exact exec_event he s
    · exact issue_next h _ _ _
  · by_cases hc : ∀ w a b n y, i ≠ .clause w a b n y
    · obtain ⟨y, op, hop⟩ := exec_eq_run hp hc
      rw [hop]
      exact issue_next h _ _ _
    · push Not at hc
      obtain ⟨w, a, b, n, y, rfl⟩ := hc
      exact issue_next h _ _ _

namespace State

theorem recheckTroupe_next (s : State) (sel : Sel) : ∃ t, s.recheckTroupe sel = .next t := by
  unfold recheckTroupe
  cases s.resumable (threadKey sel.ctx (sel.slots.headD 0)) with
  | yes | wait => exact ⟨_, rfl⟩
  | no | fault | poison => exact issue_next rfl _ _ _

end State

/-- A troupe's attempt to issue answers a next state, whatever it finds. -/
theorem attempt_next (s : State) (sel : Sel) : ∃ t, attempt s sel = .next t := by
  unfold attempt
  split_ifs
  · exact s.recheckTroupe_next sel
  · cases s.find sel with
    | wait => exact ⟨_, rfl⟩
    | fault f => exact issue_next rfl _ _ _
    | poison pa => exact issue_next rfl _ _ _
    | instr s1 i =>
      obtain ⟨t, ht⟩ := exec_next (s := { s1 with sel := some sel }) rfl i
      simp only [ht]
      split_ifs
      all_goals exact ⟨_, rfl⟩

theorem issueFrom_next (s : State) (core islot c : Nat) (trs : List Troupe) : ∃ t, issueFrom s core islot c trs = .next t := by
  induction trs with
  | nil => exact ⟨_, rfl⟩
  | cons tr rest ih =>
    obtain ⟨t, ht⟩ := attempt_next s ⟨core, c, tr.slots⟩
    simp only [issueFrom, ht]
    split_ifs
    · exact ⟨_, rfl⟩
    · exact ih

/-- What S level does under its journal answers a next state where the work itself does. -/
theorem journaled_next {k : State → Host.Outcome State Fault Refusal} (h : ∀ u, ∃ t, k u = .next t) (s : State) :
    ∃ t, journaled k s = .next t := by
  obtain ⟨t, ht⟩ := h s
  obtain ⟨u, hu⟩ := h (s.record (s.actionsOf t))
  simp only [journaled, ht, hu]
  split_ifs
  all_goals exact ⟨_, rfl⟩

theorem eventStep_next (s : State) (i : Instr) : ∃ t, eventStep s i = .next t := by
  unfold eventStep
  by_cases he : isEvent i = true
  · have hk : ∀ u, ∃ t, orHeld u (exec i u) = .next t := fun u => by
      obtain ⟨t, ht⟩ := exec_event he u
      exact ⟨_, by rw [ht]; rfl⟩
    dsimp only
    split_ifs
    · exact ⟨_, rfl⟩
    · exact journaled_next hk s
    · exact hk s
  · simp [he]

theorem outerTurn_next (s : State) (o : Outer) : ∃ t, outerTurn s o = .next t := by
  unfold outerTurn
  dsimp only
  split_ifs
  · exact ⟨_, rfl⟩
  · exact journaled_next (fun _ => ⟨_, rfl⟩) s
  · exact ⟨_, rfl⟩

/-- Settles O59: each kind of turn answers a next state (`issueFrom_next`, `eventStep_next`, `outerTurn_next`, the clock). -/
theorem everyStateRuns : Obligations.EveryStateRuns := by
  unfold Obligations.EveryStateRuns
  intro s
  unfold State.Runs step
  split
  · exact ⟨_, rfl⟩
  · exact ⟨_, rfl⟩
  · exact eventStep_next _ _
  · exact outerTurn_next _ _
  · exact issueFrom_next _ _ _ _ _

end Sys2Proof.Machine
end

section
/-! What the issue of an instruction asks of a thread before the operation (R219, R261, R273), and what it does when every thread of the
troupe traps (R42). -/

namespace Sys2Proof.Machine

/-- What the issue of an instruction does for one thread: the checks of R273, and then the operation. -/
def gated (i : Instr) (op : State → Nat → TRes) (s : State) (t : Nat) : TRes :=
  if i.wf && State.insideClause (s.thr t) i.parcels then
    if !s.mayStand t i then illegal
    else if State.usesLost (s.thr t) (readsAP i ++ readsBits i) then .trap (trapOf .poison) else op s t
  else State.notHere (s.thr t)

theorem run_eq_issue (s : State) (i : Instr) (y : Bool) (op : State → Nat → TRes) :
    s.run i y op = s.issue i.parcels y (gated i op) := rfl

section
variable {i : Instr} {op : State → Nat → TRes} {s : State} {t : Nat}

/-- A thread that passes the checks performs the operation. -/
theorem gated_passes (hwf : i.wf = true) (hin : State.insideClause (s.thr t) i.parcels = true) (hmay : s.mayStand t i = true)
    (hlost : (s.thr t).lost = []) : gated i op s t = op s t := by
  simp [gated, hwf, hin, hmay, usesLost_none _ _ hlost]

theorem gated_of_not_mayStand (hwf : i.wf = true) (hin : State.insideClause (s.thr t) i.parcels = true) (hmay : s.mayStand t i = false) :
    gated i op s t = illegal := by
  simp [gated, hwf, hin, hmay]

/-- Inside a clause what may not be executed is ILLEGAL. -/
theorem notHere_inside {x : Thread} {n : Nat} (hin : State.insideClause x n = true) : State.notHere x = illegal := by
  have hgate : x.gate = true := by simp only [State.insideClause, Bool.and_eq_true] at hin; exact hin.1.1
  simp [State.notHere, hgate]

theorem gated_of_not_wf (hwf : i.wf = false) (hin : State.insideClause (s.thr t) i.parcels = true) : gated i op s t = illegal := by
  simp [gated, hwf, notHere_inside hin]

end

theorem foldl_add_trap (op : State → Nat → TRes) (info : TrapInfo) (c : Nat) (l : List Nat) (a : Issued)
    (h : ∀ k ∈ l, op a.st (threadKey c k) = .trap info) :
    l.foldl (Issued.add op c) a = { a with traps := a.traps ++ l.map (fun k => (k, info)) } := by
  induction l generalizing a with
  | nil => simp
  | cons k r ih =>
    have h0 : Issued.add op c a k = { a with traps := a.traps ++ [(k, info)] } := by simp [Issued.add, h k (List.mem_cons_self ..)]
    rw [List.foldl_cons, h0, ih]
    · simp
    · exact fun j hj => h j (List.mem_cons_of_mem _ hj)

/-- Where every thread of the troupe traps, the trap is taken for all of them. -/
theorem issue_all_trap {s : State} {sel : Sel} {n : Nat} {y : Bool} {op : State → Nat → TRes} {info : TrapInfo} (hs : s.sel = some sel)
    (hl : sel.slots ≠ []) (h : ∀ k ∈ sel.slots, op { s with sel := none } (sel.key k) = .trap info) :
    s.issue n y op = .next ({ s with sel := none }.trapTroupe sel (sel.slots.map (fun k => (k, info)))) := by
  unfold State.issue
  rw [hs]
  simp only [foldl_add_trap op info sel.ctx sel.slots { st := { s with sel := none } } h]
  rw [if_pos (by simpa using hl)]
  simp

/-- The instructions whose own effect is a trap. -/
theorem run_all_trap {i : Instr} {s : State} {sel : Sel} {y : Bool} {op : State → Nat → TRes} {info : TrapInfo}
    (hi : Issues s sel i.parcels) (hwf : i.wf = true) (hmay : ∀ u t, State.mayStand u t i = true) (hop : ∀ u t, op u t = .trap info) :
    s.run i y op = .next ({ s with sel := none }.trapTroupe sel (sel.slots.map (fun k => (k, info)))) := by
  obtain ⟨hs, hl, _, hin⟩ := hi
  refine issue_all_trap hs hl (fun k hk => ?_)
  obtain ⟨hins, hlost⟩ := hin k hk
  exact (gated_passes (s := { s with sel := none }) hwf hins (hmay _ _) hlost).trans (hop _ _)

/-- Settles O9: what traps of itself by `run_all_trap`, operands that break their limits by `gated_of_not_wf`. -/
theorem trapsAtIssue : Obligations.TrapsAtIssue := by
  unfold Obligations.TrapsAtIssue
  refine ⟨fun s sel hi => ⟨?brk, fun c => ?trap, fun w => ?reserved⟩, fun i s sel hp hc hwf hi => ?limits⟩
  case brk => exact run_all_trap hi rfl (fun _ _ => rfl) (fun _ _ => rfl)
  case trap => exact run_all_trap (i := .trap c) hi rfl (fun _ _ => rfl) (fun _ _ => rfl)
  case reserved =>
    obtain ⟨hs, hl, _, hin⟩ := hi
    exact issue_all_trap hs hl (fun k hk => notHere_inside (hin k hk).1)
  case limits =>
    obtain ⟨hs, hl, _, hin⟩ := hi
    obtain ⟨y, op, hex⟩ := exec_eq_run hp hc
    rw [hex, run_eq_issue]
    exact issue_all_trap hs hl (fun k hk => gated_of_not_wf (s := { s with sel := none }) hwf (hin k hk).1)

end Sys2Proof.Machine
end

section
/-! One step of the module, by the turn that stands first (R39, R40, R259, R264, R274). -/

namespace Sys2Proof.Machine

theorem lengthOf_bytes (b0 b1 : Byte) : lengthOf (leNat [b0, b1]) = if b0.toNat % 2 = 0 then 1 else 2 := by
  have h : leNat [b0, b1] % 2 = b0.toNat % 2 := by simp only [leNat]; omega
  simp [lengthOf, h]

theorem step_issue {s : State} {r : List Turn} {core islot : Nat} (h : s.turns = .issue core islot :: r) :
    step s = issueSlot { s with turns := r } core islot := by
  rw [step, h]

theorem step_event {s : State} {r : List Turn} {i : Instr} (h : s.turns = .event i :: r) : step s = eventStep { s with turns := r } i := by
  rw [step, h]

namespace State

/-- A troupe that has been left as it was has not issued. -/
theorem hasIssued_self (s : State) (c : Nat) (tr : Troupe) : s.hasIssued s c tr = false := by simp [hasIssued]

/-- The bytes stand for the instruction: it is what they decode to, or they decode to nothing and it is the reserved encoding. -/
def Reads (bs : List Byte) (i : Instr) : Prop :=
  decode bs = .ok (i, []) ∨ ∃ e, decode bs = .error e ∧ i = .reservedEncoding (BitVec.ofNat 32 (leNat bs))

/-- The key of the selected troupe's first thread, and the address of its instruction. -/
abbrev firstKey (sel : Sel) : Nat := threadKey sel.ctx (sel.slots.headD 0)
abbrev firstPc (s : State) (sel : Sel) : Nat := (s.thr (firstKey sel)).pc.toNat

/-- A second parcel may be fetched: it lies inside the clause, or the first one begins a header. -/
def mayGoOn (x : Thread) (b0 b1 : Byte) : Bool := if x.gate then insideClause x 2 else headerParcel [b0, b1]

theorem not_mayGoOn (x : Thread) (b0 b1 : Byte) : (if x.gate then !insideClause x 2 else !headerParcel [b0, b1]) = !mayGoOn x b0 b1 := by
  unfold mayGoOn
  split_ifs <;> rfl

section
variable {s u v : State} {sel : Sel} {b0 b1 b2 b3 : Byte} {i : Instr}

theorem find_parcel (heven : b0.toNat % 2 = 0) (hfetch : s.fetch (firstKey sel) (s.firstPc sel) 2 = .bytes u [b0, b1])
    (hi : Reads [b0, b1] i) : s.find sel = .instr (u.standIn sel (s.firstPc sel)) i := by
  have hlen : lengthOf (leNat [b0, b1]) = 1 := by rw [lengthOf_bytes, if_pos heven]
  obtain hd | ⟨e, hd, rfl⟩ := hi
  all_goals simp only [find, hfetch, hlen, if_true, hd]

theorem find_second (hodd : b0.toNat % 2 = 1) (hfetch : s.fetch (firstKey sel) (s.firstPc sel) 2 = .bytes u [b0, b1])
    (hgo : mayGoOn (s.thr (firstKey sel)) b0 b1 = true) (hfetch2 : u.fetch (firstKey sel) (s.firstPc sel + 2) 2 = .bytes v [b2, b3])
    (hi : Reads [b0, b1, b2, b3] i) :
    s.find sel = .instr ((v.standIn sel (s.firstPc sel)).standIn sel (s.firstPc sel + 2)) i := by
  have hlen : ¬ lengthOf (leNat [b0, b1]) = 1 := by rw [lengthOf_bytes, if_neg (by omega)]; decide
  obtain hd | ⟨e, hd, rfl⟩ := hi
  all_goals simp only [find, hfetch, hlen, if_false, not_mayGoOn, hgo, Bool.not_true, Bool.false_eq_true, hfetch2, List.cons_append,
    List.nil_append, hd]

theorem find_outside (hodd : b0.toNat % 2 = 1) (hfetch : s.fetch (firstKey sel) (s.firstPc sel) 2 = .bytes u [b0, b1])
    (hgo : mayGoOn (s.thr (firstKey sel)) b0 b1 = false) :
    s.find sel = .instr u (.reservedEncoding (BitVec.ofNat 32 (leNat [b0, b1]))) := by
  have hlen : ¬ lengthOf (leNat [b0, b1]) = 1 := by rw [lengthOf_bytes, if_neg (by omega)]; decide
  simp only [find, hfetch, hlen, if_false, not_mayGoOn, hgo, Bool.not_false, if_true]

end
end State

section
variable {s t v : State} {core islot c : Nat} {tr : Troupe} {rest : List Troupe} {i : Instr}

/-- The first troupe listed that issues takes the slot. -/
theorem issueFrom_first (h : attempt s ⟨core, c, tr.slots⟩ = .next t) (hissued : s.hasIssued t c tr = true) :
    issueFrom s core islot c (tr :: rest) = .next (s.afterIssue t core islot c tr) := by
  simp only [issueFrom, h, hissued, if_true]

/-- A slot whose one troupe does not issue stays empty. -/
theorem issueFrom_waits (h : attempt s ⟨core, c, tr.slots⟩ = .next s) : issueFrom s core islot c [tr] = .next s := by
  simp only [issueFrom, h, s.hasIssued_self, Bool.false_eq_true, if_false]

variable {sel : Sel}

theorem attempt_recheck (h : (s.thr (State.firstKey sel)).recheck = true) : attempt s sel = s.recheckTroupe sel := by
  unfold attempt
  rw [if_pos h]

/-- The troupe performs the instruction that it finds. -/
theorem attempt_performs (h : (s.thr (State.firstKey sel)).recheck = false) (hfind : s.find sel = .instr v i)
    (hlock : v.interlocked sel i = false) (hex : exec i { v with sel := some sel } = .next t) (hhold : s.mustHold t = false) :
    attempt s sel = .next (v.stamped t sel i) := by
  simp only [attempt, h, hfind, hlock, hex, hhold, Bool.false_eq_true, if_false]

/-- An instruction that is not ready leaves the state as it was. -/
theorem attempt_interlocked (h : (s.thr (State.firstKey sel)).recheck = false) (hfind : s.find sel = .instr v i)
    (hlock : v.interlocked sel i = true) : attempt s sel = .next s := by
  simp only [attempt, h, hfind, hlock, Bool.false_eq_true, if_false, if_true]

end

section
variable {s t : State} {i : Instr}

theorem eventStep_keeps (he : isEvent i = true) (hk : s.rmKeeps (begins i) (ends i) = true) : eventStep s i = .next s := by
  simp [eventStep, he, hk]

theorem eventStep_acts (he : isEvent i = true) (hk : s.rmKeeps (begins i) (ends i) = false) :
    eventStep s i = if supervises i then journaled (fun u => orHeld u (exec i u)) s else orHeld s (exec i s) := by
  simp [eventStep, he, hk]

theorem orHeld_exec (hex : exec i s = .next t) (hhold : s.mustHold t = false) : orHeld s (exec i s) = .next t := by
  simp [hex, orHeld, State.orHold, hhold]

end

/-- Settles O54: an issue slot by what its first troupe finds (`find_parcel`, `find_second`, `find_outside`) and does with it
(`attempt_performs`, `attempt_interlocked`, `attempt_recheck`), an event by `eventStep_keeps` and `eventStep_acts`. -/
theorem stepRunsTheDecodedInstruction : Obligations.StepRunsTheDecodedInstruction := by
  unfold Obligations.StepRunsTheDecodedInstruction
  refine ⟨?issues, ?after, ?idle, ?events, ?clock, ?tick⟩
  case issues =>
    intro s v t r core islot tr rest bs hturns s0 c sel key pc hcand
    have hstep : step s = issueFrom s0 core islot c (tr :: rest) := by rw [step_issue hturns, issueSlot, hcand]
    refine ⟨fun hre ht hissued => ?_, ?_⟩
    · exact hstep.trans (issueFrom_first ((attempt_recheck (sel := sel) hre).trans ht) hissued)
    intro mayGoOn runs
    have hruns : ∀ i, (s0.thr key).recheck = false → s0.find sel = .instr v i → runs i := fun i hre hfind => by
      refine ⟨fun hlock hex hhold hissued => ?_, fun hlock hrest => ?_⟩
      · exact hstep.trans (issueFrom_first (attempt_performs hre hfind hlock hex hhold) hissued)
      · rw [hstep, hrest]
        exact issueFrom_waits (attempt_interlocked hre hfind hlock)
    refine ⟨fun hre hfetched => ?_, fun b0 b1 hre hodd hfetch hgo => hruns _ hre (State.find_outside hodd hfetch hgo)⟩
    have hfind : ∀ i, State.Reads bs i → s0.find sel = .instr v i := fun i hi => by
      obtain ⟨b0, b1, u, rfl, heven, hfetch, rfl⟩ | ⟨b0, b1, b2, b3, u, w, rfl, hodd, hfetch, hgo, hfetch2, rfl⟩ := hfetched
      · exact State.find_parcel heven hfetch hi
      · exact State.find_second hodd hfetch hgo hfetch2 hi
    exact ⟨fun i hd => hruns i hre (hfind i (.inl hd)), fun e hd => hruns _ hre (hfind _ (.inr ⟨e, hd, rfl⟩))⟩
  case after =>
    intro s t core islot c tr hpassed hleft hfirst
    simp [State.afterIssue, hpassed, hleft, hfirst]
  case idle =>
    intro s r core islot hturns hcand
    rw [step_issue hturns, issueSlot, hcand, issueFrom]
  case events =>
    intro s r i hturns he s0 k
    rw [step_event hturns]
    refine ⟨eventStep_keeps he, eventStep_acts he, fun t hkeeps hsup hex hhold => ?_⟩
    rw [eventStep_acts he hkeeps, hsup]
    exact orHeld_exec hex hhold
  case clock =>
    intro s hturns
    rw [step, hturns]
  case tick =>
    intro s r hturns
    rw [step, hturns]

end Sys2Proof.Machine
end

section
/-! What an issue leaves unchanged beside its threads: troupe lists, issue slots and troupe numbers alone change (R37, R40).  A troupe of
one whose thread blocks or leaves. -/

namespace Sys2Proof.Machine

namespace State

/-- Of the contexts only the troupe lists may differ. -/
def TroupesOnly (s t : State) : Prop := ∀ c, t.ctx c = { s.ctx c with troupes := (t.ctx c).troupes }

theorem TroupesOnly.trans {s t u : State} (h1 : TroupesOnly s t) (h2 : TroupesOnly t u) : TroupesOnly s u := fun c => by
  rw [h2 c, h1 c]

theorem modCtx_troupesOnly (s : State) (c : Nat) {f : Ctx → Ctx} (h : ∀ x, f x = { x with troupes := (f x).troupes }) :
    TroupesOnly s (s.modCtx c f) := fun j => by
  by_cases hj : j = c
  · rw [hj, modCtx_ctx_self]
    exact h _
  · rw [modCtx_ctx_ne _ _ _ hj]

theorem dropTroupe_troupesOnly (s : State) (c : Nat) (l : List Nat) : TroupesOnly s (s.dropTroupe c l) :=
  modCtx_troupesOnly s c (fun _ => rfl)

theorem mem_dropTroupe {s : State} {c : Nat} {l : List Nat} {tr : Troupe} (h : tr ∈ ((s.dropTroupe c l).ctx c).troupes) :
    tr.slots ≠ l := by
  rw [dropTroupe, modCtx_ctx_self] at h
  exact of_decide_eq_true (List.mem_filter.1 h).2

/-- Where no thread goes on the troupe is gone. -/
theorem finish_stays (s : State) (sel : Sel) {n : Nat} (y : Bool) {a : Issued} (hn : n ≠ 0) (hgo : a.go = []) :
    ∃ id y', s.finish sel n y a = ((a.blocked.foldl (fun s e => s.modThr (threadKey sel.ctx e.1) (fun x => { x with run := .blocked e.2 }))
      a.st).dropTroupe sel.ctx sel.slots).noteIssue sel id y' := by
  unfold finish
  rw [hgo]
  exact ⟨_, _, if_neg hn⟩

end State

section
variable {s : State} {sel : Sel} {k n : Nat} {y : Bool} {op : State → Nat → TRes} {u : State}

/-- The thread of a troupe of one blocks: it leaves the troupe, which is gone, and nothing has gone on. -/
theorem issue_one_block {why : BlockWhy} (hs : s.sel = some sel) (hk : sel.slots = [k]) (hn : n ≠ 0)
    (h : op { s with sel := none } (sel.key k) = .block u why) :
    ∃ t, s.issue n y op = .next t ∧
      t = { u with threads := t.threads, ctxs := t.ctxs, cores := t.cores } ∧
      t.thr (sel.key k) = { u.thr (sel.key k) with run := .blocked why } ∧
      (∀ j, j ≠ sel.key k → t.thr j = u.thr j) ∧
      (∀ c, t.ctx c = { u.ctx c with troupes := (t.ctx c).troupes }) ∧
      ∀ tr ∈ (t.ctx sel.ctx).troupes, tr.slots ≠ [k] := by
  have h' : op { s with sel := none } (threadKey sel.ctx k) = .block u why := h
  have hblocked : [k].foldl (Issued.add op sel.ctx) { st := { s with sel := none } } = { st := u, blocked := [(k, why)] } := by
    simp [Issued.add, h']
  let stop (x : Thread) : Thread := { x with run := .blocked why }
  obtain ⟨id, y', hfin⟩ : ∃ id y', { s with sel := none }.finish sel n y { st := u, blocked := [(k, why)] } =
    ((u.modThr (sel.key k) stop).dropTroupe sel.ctx sel.slots).noteIssue sel id y' := State.finish_stays _ sel y hn rfl
  rw [hk] at hfin
  unfold State.issue
  rw [hs]
  simp only [hk, hblocked]
  exact ⟨_, congrArg Host.Outcome.next hfin, rfl, u.modThr_thr_self (sel.key k) stop, fun j hj => u.modThr_thr_ne (sel.key k) stop hj,
    State.dropTroupe_troupesOnly _ _ _, fun tr htr => State.mem_dropTroupe htr⟩

end

end Sys2Proof.Machine
end

section
/-! Empty catch registers block, and ports are checked before anything is popped or pushed (R65, R249, R276). -/

namespace Sys2Proof.Machine

section
variable {s : State} {sel : Sel} {k : Nat} {i : Instr} {y : Bool} {op : State → Nat → TRes}

/-- The operation of a troupe of one is what its thread does, where the thread passes the checks. -/
theorem gated_alone (ha : Alone s sel k i.parcels) (hwf : i.wf = true)
    (hmay : State.mayStand { s with sel := none } (sel.key k) i = true) :
    gated i op { s with sel := none } (sel.key k) = op { s with sel := none } (sel.key k) := by
  obtain ⟨_, _, hin, hlost⟩ := ha
  exact gated_passes hwf hin hmay hlost

theorem run_blocks {f : State → Nat → State} {why : BlockWhy} (hex : exec i s = s.run i y op) (ha : Alone s sel k i.parcels)
    (hp : i.parcels ≠ 0) (hwf : i.wf = true) (hmay : State.mayStand { s with sel := none } (sel.key k) i = true)
    (hop : op { s with sel := none } (sel.key k) = .block (f { s with sel := none } (sel.key k)) why) : BlocksAs i s sel k f why := by
  obtain ⟨t, ht, h⟩ := issue_one_block (y := y) ha.1 ha.2.1 hp ((gated_alone ha hwf hmay).trans hop)
  exact ⟨t, hex.trans ht, h⟩

/-- A troupe of one whose operation traps. -/
theorem issue_one_trap {n : Nat} {info : TrapInfo} (hs : s.sel = some sel) (hk : sel.slots = [k])
    (hop : op { s with sel := none } (sel.key k) = .trap info) :
    s.issue n y op = .next ({ s with sel := none }.trapTroupe sel [(k, info)]) := by
  have h := issue_all_trap (n := n) (y := y) (op := op) (info := info) hs (by simp [hk]) (fun j hj => by
    rw [hk, List.mem_singleton] at hj
    rw [hj, hop])
  simpa [hk] using h

theorem run_traps {info : TrapInfo} (hex : exec i s = s.run i y op) (ha : Alone s sel k i.parcels) (hwf : i.wf = true)
    (hmay : State.mayStand { s with sel := none } (sel.key k) i = true) (hop : op { s with sel := none } (sel.key k) = .trap info) :
    TrapsAs i s sel k info :=
  hex.trans (issue_one_trap ha.1 ha.2.1 ((gated_alone ha hwf hmay).trans hop))

end

namespace State
variable {s : State} {t : Nat} {gs ws : List Nat} {dst : Option Nat} {pre : Thread → Option TrapInfo} {k : State → List Word → TRes}

/-- A source register that waits for a post blocks its thread before anything is read. -/
theorem operands_empty (hlost : (s.thr t).lost = []) (he : someEmpty (s.thr t) gs ws = true) :
    s.operands t gs ws dst pre k = .block s (.catchReg gs ws) := by
  simp only [operands, usesLost_none _ _ hlost, he, Bool.false_eq_true, if_false, if_true]

theorem operands_hindered {r : TRes} (hlost : (s.thr t).lost = []) (he : someEmpty (s.thr t) gs ws = false) (hpre : pre (s.thr t) = none)
    (hport : s.portHinder t (portsIn gs) (dst.bind (fun d => if isPort d then some (d - 60) else none)) = some r) :
    s.operands t gs ws dst pre k = r := by
  simp only [operands, usesLost_none _ _ hlost, he, hpre, hport, Bool.false_eq_true, if_false]

end State

theorem someEmpty_of_mem {x : Thread} {gs ws : List Nat} {n : Nat} (hn : n ∈ gs) (h1 : 1 ≤ n) (h60 : n < 60) (he : x.gEmpty.get n = true) :
    someEmpty x gs ws = true := by
  have hany : gs.any (fun n => 1 ≤ n && n < 60 && x.gEmpty.get n) = true := List.any_eq_true.2 ⟨n, hn, by simp [h1, h60, he]⟩
  rw [someEmpty, hany, Bool.true_or]

/-- One port among the sources, named once. -/
theorem portsIn_one {a b : Nat} (ha : 60 ≤ a) (hb : b < 60) : portsIn [a, b] = [a - 60] := by
  have h1 : isPort a = true := by simpa [isPort] using ha
  have h2 : isPort b = false := by simpa [isPort] using hb
  simp only [portsIn, List.filter_cons, h1, h2, List.filter_nil, if_true, Bool.false_eq_true, if_false, List.map_cons, List.map_nil]
  rfl

theorem outPort_none {d : Nat} (hd : d < 60) : ((some d).bind fun d => if isPort d then some (d - 60) else none) = none := by
  simp [isPort, Nat.not_le.2 hd]

section
variable {s : State} {t p : Nat}

/-- A port that is not bound for a pop traps QUEUE. -/
theorem portHinder_unbound (h : ((s.thr t).ports.get p).bound = false ∨ ((s.thr t).ports.get p).push = true) :
    s.portHinder t [p] none = some (.trap (trapOf .queue)) := by
  have hok : s.portOk t p false = false := by
    obtain h | h := h <;> simp [State.portOk, h]
  simp [State.portHinder, hok]

/-- A pop of an empty queue blocks. -/
theorem portHinder_empty (hbound : ((s.thr t).ports.get p).bound = true) (hpush : ((s.thr t).ports.get p).push = false)
    (hstate : (s.queue (s.portQueue t p)).state = .empty) (hnames : s.names ((s.thr t).ports.get p) (s.portQueue t p) = true)
    (hcount : (s.queue (s.portQueue t p)).tail = (s.queue (s.portQueue t p)).head) (hin : (s.thr t).portIn.get p = none) :
    s.portHinder t [p] none = some (.block s (.queue (s.portQueue t p))) := by
  have hok : s.portOk t p false = true := by simp [State.portOk, hbound, hpush, hnames]
  have hzero : (s.queue (s.portQueue t p)).count = 0 := by simp [Queue.count, hcount]
  simp [State.portHinder, hok, hstate, hin, hzero]

end

/-- Settles O10: a source that waits for a post by `operands_empty`, the ports by `portHinder_unbound` and `portHinder_empty`. -/
theorem emptyRegistersAndPorts : Obligations.EmptyRegistersAndPorts := by
  unfold Obligations.EmptyRegistersAndPorts
  refine ⟨?registers, ?ports⟩
  case registers =>
    intro d a b s sel k ha h1 h60 he waits
    have hwait : ∀ {gs : List (BitVec 6)} {dst pre k'}, a ∈ gs → State.operands { s with sel := none } (sel.key k)
        (gs.map BitVec.toNat) [] dst pre k' = .block { s with sel := none } (waits gs) := fun hmem =>
      State.operands_empty ha.2.2.2 (someEmpty_of_mem (List.mem_map_of_mem hmem) h1 h60 he)
    refine ⟨?add, ?fadd, ?fma, ?movsw, fun f l o e => ?st⟩
    case add => exact run_blocks rfl ha two_ne_zero rfl rfl (hwait (by simp))
    case fadd => exact run_blocks rfl ha two_ne_zero rfl rfl (hwait (by simp))
    case fma => exact run_blocks rfl ha two_ne_zero rfl rfl (hwait (by simp))
    case movsw => exact run_blocks rfl ha two_ne_zero rfl rfl (hwait (gs := [a]) (by simp))
    case st => exact run_blocks rfl ha two_ne_zero rfl rfl (hwait (gs := [a]) (by simp))
  case ports =>
    intro d a b s sel k ha x u h60 hports hfull q
    have hins : portsIn ([a, b].map BitVec.toNat) = [a.toNat - 60] := portsIn_one h60 (hports b (by simp))
    have hout := outPort_none (hports d (by simp))
    have hadd : ∀ {r}, u.portHinder (sel.key k) [a.toNat - 60] none = some r →
        regOp d [a, b] (f2 (· + ·)) u (sel.key k) = r := fun h =>
      State.operands_hindered ha.2.2.2 hfull rfl (by rw [hins, hout, h])
    refine ⟨fun hbound => ?unbound, fun hbound hpush hstate hnames hcount hin => ?waits⟩
    case unbound => exact run_traps rfl ha rfl rfl (hadd (portHinder_unbound hbound))
    case waits => exact run_blocks rfl ha two_ne_zero rfl rfl (hadd (portHinder_empty hbound hpush hstate hnames hcount hin))

end Sys2Proof.Machine
end

section
/-! Clause headers, and the instructions without an effect (R39, R261–R263, R277, R298, R299). -/

namespace Sys2Proof.Machine

namespace State

/-- Threads that a header leaves at an instruction of its clause stay there: it takes no parcel of the clause. -/
theorem goOn_header (s : State) (c : Nat) (l : List Nat)
    (h : ∀ k ∈ l, (s.thr (threadKey c k)).off.toNat < 2 + (s.thr (threadKey c k)).len) :
    ∃ th, s.goOn c 0 (l.map (fun k => (k, none))) = { s with threads := th } ∧ ∀ j, th.get j = s.thr j := by
  induction l generalizing s with
  | nil => exact ⟨s.threads, rfl, fun _ => rfl⟩
  | cons k r ih =>
    have hstay : (s.thr (threadKey c k)).advance 0 = s.thr (threadKey c k) := by simp [Thread.advance, h k (List.mem_cons_self ..)]
    have hthr : ∀ j, (s.modThr (threadKey c k) (Thread.advance · 0)).thr j = s.thr j := fun j => by
      rw [modThr_thr, hstay]
      split_ifs with hj
      · rw [hj]
      · rfl
    have hone : s.goOn c 0 ((k :: r).map (fun j => (j, none))) =
        (s.modThr (threadKey c k) (Thread.advance · 0)).goOn c 0 (r.map (fun j => (j, none))) := by
      simp [goOn]
    obtain ⟨th, hgo, hget⟩ := ih (s.modThr (threadKey c k) (Thread.advance · 0)) (fun j hj => by
      rw [hthr]
      exact h j (List.mem_cons_of_mem _ hj))
    exact ⟨th, by rw [hone, hgo]; rfl, fun j => (hget j).trans (hthr j)⟩

end State

/-- A header that every thread of the troupe passes: the troupe keeps its number, and no thread goes on. -/
theorem issue_header {s : State} {sel : Sel} {y : Bool} {op : State → Nat → TRes} {f : Thread → Thread} (hs : s.sel = some sel)
    (hl : sel.slots ≠ []) (hd : sel.slots.Nodup) (hf : ∀ x, (f x).off.toNat < 2 + (f x).len)
    (hop : ∀ (u : State) k, k ∈ sel.slots → u.thr (sel.key k) = s.thr (sel.key k) →
      op u (sel.key k) = .done (u.modThr (sel.key k) f) none) :
    ∃ t, s.issue 0 y op = .next t ∧ (∀ k ∈ sel.slots, t.thr (sel.key k) = f (s.thr (sel.key k))) ∧
      (∀ j, (∀ k ∈ sel.slots, j ≠ sel.key k) → t.thr j = s.thr j) ∧
      t = { s with threads := t.threads, ctxs := t.ctxs, sel := none } ∧ ∀ c, t.ctx c = { s.ctx c with troupes := (t.ctx c).troupes } := by
  let F (u : State) (t : Nat) : State := u.modThr t f
  have hown : ∀ pre : List Nat, pre.Nodup → ∃ th, runOps F sel.ctx pre { s with sel := none } = { s with threads := th, sel := none } ∧
      (∀ k ∈ pre, th.get (sel.key k) = f (s.thr (sel.key k))) ∧ ∀ j, (∀ k ∈ pre, j ≠ sel.key k) → th.get j = s.thr j := fun pre hpre =>
    runOps_own { s with sel := none } sel.ctx F f pre hpre (fun _ => True) trivial (fun u t _ =>
      ⟨trivial, rfl, u.modThr_thr_self t f, fun j hj => u.modThr_thr_ne t f hj⟩)
  have hdone : sel.slots.foldl (Issued.add op sel.ctx) { st := { s with sel := none } } =
      { st := runOps F sel.ctx sel.slots { s with sel := none }, go := sel.slots.map (fun k => (k, none)) } := by
    refine foldl_add_done op F sel.ctx sel.slots { st := { s with sel := none } } (fun pre k post he => ?_)
    obtain ⟨hpre, _, hdis⟩ := List.nodup_append.1 (he ▸ hd)
    obtain ⟨th, hrun, _, hout⟩ := hown pre hpre
    refine hop _ k (by simp [he]) ?_
    rw [hrun]
    exact hout _ (fun j hj hkey => hdis _ hj _ (List.mem_cons_self ..) (threadKey_inj hkey).symm)
  obtain ⟨th, hrun, hin, hout⟩ := hown sel.slots hd
  obtain ⟨th', hgo, hget⟩ := State.goOn_header { s with threads := th, sel := none } sel.ctx sel.slots (fun k hk => by
    show (th.get (sel.key k)).off.toNat < 2 + (th.get (sel.key k)).len
    rw [hin k hk]
    exact hf _)
  unfold State.issue
  rw [hs]
  simp only [hdone, hrun, State.finish, List.foldl_nil, hgo, regroup_all _ _ _ _ _ _ hl, if_true, List.isEmpty_nil, Bool.not_true,
    Bool.false_eq_true, if_false]
  refine ⟨_, rfl, fun k hk => ?_, fun j hj => ?_, rfl, ?_⟩
  · exact (hget _).trans (hin k hk)
  · exact (hget _).trans (hout j hj)
  · exact (State.dropTroupe_troupesOnly _ _ _).trans (State.modCtx_troupesOnly _ _ (fun _ => rfl))

section
variable {w : BitVec 12} {a b n : BitVec 4} {y : BitVec 1} {s : State} {t : Nat}

/-- The clause's fields, as its header gives them (R262). -/
def opened (a b n : BitVec 4) (y : BitVec 1) (x : Thread) : Thread :=
  { x with gate := true, begun := true, off := 2, len := n.toNat + 1, y := decide (y = 1),
           curA := if a = 12 then none else some a.toNat, curB := if b = 12 then none else some b.toNat }

/-- The flags that the header waits for and that are not zero. -/
def pendingFlags (w : BitVec 12) (x : Thread) : List Nat := (List.range 12).filter (fun k => w.getLsbD k && x.flags.get k != 0)

theorem mem_pendingFlags {x : Thread} {f : Nat} : f ∈ pendingFlags w x ↔ f < 12 ∧ w.getLsbD f = true ∧ x.flags.get f ≠ 0 := by
  simp [pendingFlags]

theorem passHeader_done (ha : a.toNat ≤ 12) (hb : b.toNat ≤ 12) (hgate : (s.thr t).gate = false) (hlost : (s.thr t).lost = [])
    (hzero : pendingFlags w (s.thr t) = []) : passHeader w a b n y s t = .done (s.modThr t (opened a b n y)) none := by
  have hname : ∀ f : BitVec 4, (f.toNat = 12) = (f = 12) := fun f => by rw [BitVec.toNat_eq]; rfl
  have hy : ∀ y : BitVec 1, (y.toNat == 1) = decide (y = 1) := by decide
  unfold pendingFlags at hzero
  unfold passHeader opened
  simp only [hgate, hlost, hzero, hname, hy, Nat.not_lt.2 ha, Nat.not_lt.2 hb, decide_false, Bool.or_self, Bool.false_eq_true, if_false,
    List.any_nil, List.isEmpty_nil, if_true]

theorem passHeader_holds (ha : a.toNat ≤ 12) (hb : b.toNat ≤ 12) (hgate : (s.thr t).gate = false) (hlost : (s.thr t).lost = [])
    {f : Nat} (hf : f ∈ pendingFlags w (s.thr t)) (hlog : s.loggedWith t (pendingFlags w (s.thr t)).contains = []) :
    passHeader w a b n y s t = .hold := by
  have hne : (pendingFlags w (s.thr t)).isEmpty = false := by
    rw [List.isEmpty_eq_false_iff]
    exact List.ne_nil_of_mem hf
  unfold pendingFlags at hne hlog
  unfold passHeader
  simp only [hgate, hlost, hne, hlog, Nat.not_lt.2 ha, Nat.not_lt.2 hb, decide_false, Bool.or_self, Bool.false_eq_true, if_false,
    List.any_nil]

end

/-- Sums of powers of two over the members that a test names: no member, or a sum that is not zero. -/
theorem foldl_pow_eq_zero (p : Nat → Bool) (l : List Nat) (m : Nat) (h : l.foldl (fun acc n => if p n then acc else acc + 2 ^ n) m = 0) :
    m = 0 ∧ ∀ n ∈ l, p n = true := by
  induction l generalizing m with
  | nil => exact ⟨h, fun n hn => absurd hn (List.not_mem_nil)⟩
  | cons k r ih =>
    obtain ⟨hm, hr⟩ : (if p k then m else m + 2 ^ k) = 0 ∧ ∀ n ∈ r, p n = true := ih _ h
    have hpos : 0 < 2 ^ k := Nat.two_pow_pos k
    by_cases hk : p k = true
    · rw [if_pos hk] at hm
      exact ⟨hm, fun n hn => (List.mem_cons.1 hn).elim (fun he => he ▸ hk) (hr n)⟩
    · rw [if_neg hk] at hm
      omega

/-- An operation logged with one of several flags is logged with its own. -/
theorem mem_loggedWith {s : State} {t id : Nat} {fs : List Nat} (h : id ∈ s.loggedWith t fs.contains) :
    ∃ f ∈ fs, id ∈ s.loggedWith t (· == f) := by
  have hflag : ∀ {o : Option Nat}, o.any fs.contains = true → ∃ f ∈ fs, o.any (· == f) = true := fun {o} ho => by
    cases o with
    | none => exact absurd ho Bool.false_ne_true
    | some f => exact ⟨f, by simpa using ho, by simp⟩
  rw [State.loggedWith, List.mem_append] at h
  obtain h | h := h
  · obtain ⟨e, he, rfl⟩ := List.mem_map.1 h
    obtain ⟨hacc, hp⟩ := List.mem_filter.1 he
    rw [Bool.and_eq_true] at hp
    obtain ⟨f, hf, hany⟩ := hflag hp.1
    refine ⟨f, hf, List.mem_append_left _ (List.mem_map_of_mem (List.mem_filter.2 ⟨hacc, ?_⟩))⟩
    rw [hany, hp.2, Bool.and_self]
  · obtain ⟨⟨id', o⟩, he, hp⟩ := List.mem_filterMap.1 h
    cases o with
    | none => exact absurd hp (by simp)
    | some c =>
      obtain ⟨hand, hid⟩ := Option.ite_none_right_eq_some.1 hp
      obtain rfl := Option.some.inj hid
      simp only [Bool.and_eq_true] at hand
      obtain ⟨⟨hthr, hcontains⟩, hheld⟩ := hand
      obtain ⟨f, hf, hany⟩ := hflag hcontains
      refine ⟨f, hf, List.mem_append_right _ (List.mem_filterMap.2 ⟨_, he, ?_⟩)⟩
      simp [hthr, hany, hheld]

/-- No operation of the thread is logged with a flag below 12, where LOGF is zero (R84). -/
theorem loggedWith_of_logFlags {s : State} {t : Nat} (h : s.logFlags t = 0) {fs : List Nat} (hfs : ∀ f ∈ fs, f < 12) :
    s.loggedWith t fs.contains = [] := by
  obtain ⟨_, hempty⟩ := foldl_pow_eq_zero (fun n => (s.loggedWith t (· == n)).isEmpty) _ 0 h
  have hnone : ∀ f ∈ fs, s.loggedWith t (· == f) = [] := fun f hf => by
    simpa using hempty f (List.mem_range.2 (hfs f hf))
  refine List.eq_nil_iff_forall_not_mem.2 fun id hid => ?_
  obtain ⟨f, hf, hmem⟩ := mem_loggedWith hid
  exact List.ne_nil_of_mem hmem (hnone f hf)

/-- Settles O6: a header passes by `issue_header` and `passHeader_done`, waits by `passHeader_holds`; NOP, NOP.c and YIELD do nothing. -/
theorem headersAndNoOperations : Obligations.HeadersAndNoOperations := by
  unfold Obligations.HeadersAndNoOperations
  refine ⟨?passes, ?waits, ?nothing⟩
  case passes =>
    intro w a b n y s sel ha hb hs hl hd hthr
    obtain ⟨t, ht, h⟩ := issue_header (y := false) (op := passHeader w a b n y) (f := opened a b n y) hs hl hd
      (fun x => by simp [opened]) (fun u k hk hu => by
        obtain ⟨hgate, hlost, hflags⟩ := hthr k hk
        rw [← hu] at hgate hlost hflags
        refine passHeader_done ha hb hgate hlost (List.eq_nil_iff_forall_not_mem.2 fun f hf => ?_)
        obtain ⟨h12, hbit, hne⟩ := mem_pendingFlags.1 hf
        exact hne (hflags f h12 hbit))
    exact ⟨t, ht, h⟩
  case waits =>
    intro w a b n y s sel k f ha hb hs hk hgate hlost h12 hbit hne hlog
    have hop : passHeader w a b n y { s with sel := none } (threadKey sel.ctx k) = .hold :=
      passHeader_holds ha hb hgate hlost (mem_pendingFlags.2 ⟨h12, hbit, hne⟩)
        (loggedWith_of_logFlags (s := { s with sel := none }) hlog (fun f hf => (mem_pendingFlags.1 hf).1))
    show execClause w a b n y s = _
    simp [execClause, State.issue, hs, hk, Issued.add, hop, State.leaveAll]
  case nothing =>
    have hkeep : ∀ {i : Instr} {y : Bool}, (∀ s, exec i s = s.run i y (fun s _ => .done s none)) → i.parcels ≠ 0 →
        (∀ u t, State.mayStand u t i = true) → Alters i id := fun hex hp hmay hwf s sel hi =>
      run_own (g := fun u _ => u) (hex s) hwf hp hi (fun u k _ _ _ => hmay u _) (fun u t => ⟨rfl, rfl, fun _ _ => rfl⟩)
        (fun _ _ _ _ _ => rfl)
    exact ⟨hkeep (fun _ => rfl) two_ne_zero (fun _ _ => rfl), hkeep (fun _ => rfl) one_ne_zero (fun _ _ => rfl),
      hkeep (fun _ => rfl) two_ne_zero (fun _ _ => rfl)⟩

end Sys2Proof.Machine
end

section
/-! Slots of a context by what a table lists, and threads changed one after another. -/

namespace Sys2Proof.Machine

section
variable {α : Type} {k : Nat} {x : α}

/-- A key listed in a rising list reads as listed there. -/
theorem lookup_of_mem {l : List (Nat × α)} (hr : rising l = true) (h : (k, x) ∈ l) : lookup k l = some x := by
  induction l with
  | nil => exact absurd h List.not_mem_nil
  | cons c r ih =>
    obtain ⟨j, y⟩ := c
    obtain ⟨habove, hrest⟩ := (rising_cons j y r).1 hr
    rcases List.mem_cons.1 h with he | h
    · cases he; simp [lookup]
    · rw [lookup, if_neg (Nat.ne_of_lt (habove _ h)), ih hrest h]

theorem mem_of_lookup {l : List (Nat × α)} (h : lookup k l = some x) : (k, x) ∈ l := by
  induction l with
  | nil => exact absurd h (by simp [lookup])
  | cons c r ih =>
    obtain ⟨j, y⟩ := c
    rw [lookup] at h
    split_ifs at h with hj
    · cases h; simp [hj]
    · exact List.mem_cons_of_mem _ (ih h)

theorem pairwise_of_rising {l : List (Nat × α)} (h : rising l = true) : l.Pairwise (fun c d => c.1 < d.1) := by
  induction l with
  | nil => exact List.Pairwise.nil
  | cons c r ih =>
    obtain ⟨habove, hrest⟩ := (rising_cons c.1 c.2 r).1 h
    exact List.pairwise_cons.2 ⟨habove, ih hrest⟩

end

namespace Tab
variable {α : Type} [Inhabited α] [DecidableEq α] {t : Tab α} {k : Nat} {x : α}

theorem get_of_mem_cells (hwf : t.wf = true) (h : (k, x) ∈ t.cells) : t.get k = x := by
  rw [Tab.get, lookup_of_mem ((wf_iff t).1 hwf).1 h, Option.getD_some]

omit [DecidableEq α] in
theorem mem_cells_of_get (h : t.get k ≠ default) : (k, t.get k) ∈ t.cells := by
  rw [Tab.get] at h ⊢
  cases hl : lookup k t.cells with
  | none => rw [hl] at h; exact absurd rfl h
  | some x => exact mem_of_lookup hl

end Tab

theorem threadKey_of_parts (j : Nat) : threadKey (keyCtx j) (keySlot j) = j := by
  unfold threadKey keyCtx keySlot; omega

theorem keyCtx_threadKey {c k : Nat} (h : k < 1024) : keyCtx (threadKey c k) = c := by
  unfold keyCtx threadKey; omega

namespace State
variable {s : State} {c g k : Nat} {p : Thread → Bool}

/-- A slot that is listed holds a thread that the test accepts. -/
theorem of_mem_slotsOf (hwf : s.threads.wf = true) (h : k ∈ s.slotsOf c p) : k < 1024 ∧ p (s.thr (threadKey c k)) = true := by
  obtain ⟨⟨j, x⟩, he, rfl⟩ := List.mem_map.1 h
  obtain ⟨hcell, ht⟩ := List.mem_filter.1 he
  simp only [Bool.and_eq_true, beq_iff_eq] at ht
  refine ⟨Nat.mod_lt _ (by decide), ?_⟩
  rw [← ht.1, threadKey_of_parts, thr, Tab.get_of_mem_cells hwf hcell]
  exact ht.2

/-- The slots of a context that a test accepts, where it refuses a free slot's thread. -/
theorem mem_slotsOf (hwf : s.threads.wf = true) (hp : p default = false) :
    k ∈ s.slotsOf c p ↔ k < 1024 ∧ p (s.thr (threadKey c k)) = true := by
  constructor
  · exact of_mem_slotsOf hwf
  · rintro ⟨hk, ht⟩
    have hne : s.threads.get (threadKey c k) ≠ default := fun hd => by
      rw [thr, hd, hp] at ht
      exact Bool.false_ne_true ht
    refine List.mem_map.2 ⟨_, List.mem_filter.2 ⟨Tab.mem_cells_of_get hne, ?_⟩, keySlot_threadKey hk⟩
    simp only [Bool.and_eq_true, beq_iff_eq]
    exact ⟨keyCtx_threadKey hk, ht⟩

theorem slotsOf_nodup (hwf : s.threads.wf = true) (c : Nat) (p : Thread → Bool) : (s.slotsOf c p).Nodup := by
  have hrise := (pairwise_of_rising ((Tab.wf_iff _).1 hwf).1).filter (fun e => keyCtx e.1 == c && p e.2)
  refine List.pairwise_map.2 (hrise.imp_of_mem fun ha hb hlt heq => ?_)
  have ha := (List.mem_filter.1 ha).2
  have hb := (List.mem_filter.1 hb).2
  simp only [Bool.and_eq_true, beq_iff_eq] at ha hb
  refine Nat.ne_of_lt hlt ?_
  rw [← threadKey_of_parts (Prod.fst _), ha.1, heq, ← hb.1, threadKey_of_parts]

/-- Threads named once each by the entries of a list change one after another, each by its entry. -/
theorem foldl_modThr {β : Type} (key : β → Nat) (f : β → Thread → Thread) {l : List β} (hnd : (l.map key).Nodup) (s : State) :
    ∃ th, l.foldl (fun s e => s.modThr (key e) (f e)) s = { s with threads := th } ∧ (s.threads.wf = true → th.wf = true) ∧
      (∀ e ∈ l, th.get (key e) = f e (s.thr (key e))) ∧ ∀ j, (∀ e ∈ l, j ≠ key e) → th.get j = s.thr j := by
  induction l generalizing s with
  | nil => exact ⟨s.threads, rfl, id, by simp, fun _ _ => rfl⟩
  | cons e r ih =>
    obtain ⟨he, hr⟩ := List.nodup_cons.1 hnd
    have hne : ∀ d ∈ r, key e ≠ key d := fun d hd h => he (h ▸ List.mem_map_of_mem hd)
    obtain ⟨th, heq, hwf, hin, hout⟩ := ih hr (s.modThr (key e) (f e))
    refine ⟨th, heq, fun h => hwf (Tab.set_wf _ _ _ h), fun d hd => ?_, fun j hj => ?_⟩
    · rcases List.mem_cons.1 hd with rfl | hd
      · rw [hout _ hne, modThr_thr_self]
      · rw [hin d hd, modThr_thr_ne _ _ _ (hne d hd).symm]
    · rw [hout j (fun d hd => hj d (List.mem_cons_of_mem _ hd)), modThr_thr_ne _ _ _ (hj e (List.mem_cons_self ..))]

/-- Threads of distinct slots change one after another, all by one function. -/
theorem foldl_modThr_slots (c : Nat) (f : Thread → Thread) {l : List Nat} (hnd : l.Nodup) (s : State) :
    ∃ th, l.foldl (fun s k => s.modThr (threadKey c k) f) s = { s with threads := th } ∧ (s.threads.wf = true → th.wf = true) ∧
      (∀ k ∈ l, th.get (threadKey c k) = f (s.thr (threadKey c k))) ∧ ∀ j, (∀ k ∈ l, j ≠ threadKey c k) → th.get j = s.thr j :=
  foldl_modThr (threadKey c) (fun _ => f) (hnd.map fun _ _ h => threadKey_inj h) s

/-- The slots of a context that a test accepts change, each by one function. -/
theorem foldl_modThr_slotsOf (hwf : s.threads.wf = true) (hp : p default = false) (f : Thread → Thread) :
    ∃ th, (s.slotsOf c p).foldl (fun s k => s.modThr (threadKey c k) f) s = { s with threads := th } ∧ th.wf = true ∧
      ∀ j, th.get j = if keyCtx j = c ∧ p (s.thr j) = true then f (s.thr j) else s.thr j := by
  obtain ⟨th, heq, hthwf, hin, hout⟩ := foldl_modThr_slots c f (slotsOf_nodup hwf c p) s
  refine ⟨th, heq, hthwf hwf, fun j => ?_⟩
  split_ifs with h
  · have hj : threadKey c (keySlot j) = j := by rw [← h.1, threadKey_of_parts]
    have hmem : keySlot j ∈ s.slotsOf c p := (mem_slotsOf hwf hp).2 ⟨Nat.mod_lt _ (by decide), by rw [hj]; exact h.2⟩
    simpa only [hj] using hin _ hmem
  · refine hout j (fun k hk hj => h ?_)
    obtain ⟨hlt, ht⟩ := (mem_slotsOf hwf hp).1 hk
    rw [hj]
    exact ⟨keyCtx_threadKey hlt, ht⟩

end State
end Sys2Proof.Machine
end

section
/-! The mirror of the error logger only grows: what stores at a home, records and translations add to it (R144, R213, R216). -/

namespace Sys2Proof.Machine

namespace State

/-- The records of the first state's mirror stand first in the second's. -/
def MirrorGrows (s t : State) : Prop := s.rm.mirror <+: t.rm.mirror

theorem MirrorGrows.refl (s : State) : MirrorGrows s s := List.prefix_rfl
theorem MirrorGrows.trans {s t u : State} (h1 : MirrorGrows s t) (h2 : MirrorGrows t u) : MirrorGrows s u := List.IsPrefix.trans h1 h2
theorem MirrorGrows.of_eq {s t : State} (h : t.rm = s.rm) : MirrorGrows s t := by rw [MirrorGrows, h]

theorem MirrorGrows.foldl {β : Type} (f : State → β → State) (h : ∀ s x, MirrorGrows s (f s x)) (l : List β) (s : State) :
    MirrorGrows s (l.foldl f s) := by
  induction l generalizing s with
  | nil => exact .refl s
  | cons x r ih => exact (h s x).trans (ih _)

/-! Stores at a home. -/

@[simp] theorem forward_rm (s : State) (w : Nat) : (s.forward w).rm = s.rm := by
  unfold forward
  cases s.ownerOf w <;> rfl

@[simp] theorem revoke_rm (s : State) (w : Nat) : (s.revoke w).rm = s.rm := by
  unfold revoke
  cases s.ownerOf w with
  | none => rfl
  | some c => dsimp only; split <;> rfl

@[simp] theorem homeStoreRaw_rm (s : State) (pa : Nat) (bs : List Byte) : (s.homeStoreRaw pa bs).rm = s.rm := by
  refine foldl_keeps rm _ (fun u w => ?_) (wordsOf pa bs.length) s
  dsimp only
  split
  · exact revoke_rm u w
  · exact forward_rm u w

section
variable {put : State → Nat → List Byte → State} (hput : ∀ s pa bs, MirrorGrows s (put s pa bs))
include hput

theorem queueToBy_grows (s : State) (p : Nat) (e : ErrRec) : MirrorGrows s (queueToBy put s p e) := by
  unfold queueToBy
  dsimp only
  split_ifs
  · exact .refl s
  · exact .refl s
  · exact hput s _ _

/-- The record that is written stands last in the mirror. -/
theorem emitBy_mirror (s : State) (e : ErrRec) : ∃ pre, (emitBy put s e).rm.mirror = s.rm.mirror ++ pre ++ [e] := by
  obtain ⟨pre, hpre⟩ := queueToBy_grows hput s e.part e
  exact ⟨pre, by rw [hpre]; rfl⟩

theorem emitBy_grows (s : State) (e : ErrRec) : MirrorGrows s (emitBy put s e) := by
  obtain ⟨pre, hpre⟩ := emitBy_mirror hput s e
  exact ⟨pre ++ [e], by rw [hpre, List.append_assoc]⟩

theorem logBy_grows (s : State) (e : ErrRec) : MirrorGrows s (logBy put s e) := by
  unfold logBy
  dsimp only
  split_ifs
  · exact emitBy_grows hput s _
  · cases s.pendingOf { e with time := s.now } with
    | none => exact .refl s
    | some kp =>
      dsimp only
      split_ifs
      · exact emitBy_grows hput s _
      · exact .refl s
      · exact emitBy_grows hput s _

theorem putEntryBy_grows (s : State) (key : Nat) (old : Word) (bad : Bool) (e : Option (Bool × Nat)) :
    MirrorGrows s (putEntryBy put s key old bad e) := by
  match e with
  | none => exact .refl s
  | some (true, _) => exact .refl s
  | some (false, a) => exact hput s a _

theorem captureWordBy_grows (s : State) (w p n opnd idx : Nat) (old : Word) (bad : Bool) :
    MirrorGrows s (captureWordBy put s w p n opnd idx old bad) := by
  have hset (b : Binding) : MirrorGrows s (s.modPart p (fun q => { q with bindings := q.bindings.set n b })) := .refl s
  unfold captureWordBy
  dsimp only
  cases s.beforeCut p ((s.part p).bindings.get n) w
  all_goals
    simp only [Bool.false_eq_true, if_false, if_true]
    split_ifs
    · exact .refl s
    · exact hset _
    · exact (hset _).trans (logBy_grows hput _ _)
    · exact (hset _).trans (putEntryBy_grows hput _ _ _ _ _)

theorem captureInBy_grows (s : State) (w p n : Nat) : MirrorGrows s (captureInBy put s w p n) := by
  unfold captureInBy
  dsimp only
  split
  · exact .refl s
  · refine .foldl _ (fun u r => ?_) _ s
    split_ifs
    · exact captureWordBy_grows hput u _ _ _ _ _ _ _
    · exact captureWordBy_grows hput u _ _ _ _ _ _ _
    · exact .refl u
    · exact .refl u

theorem captureBy_grows (s : State) (ws : List Nat) : MirrorGrows s (captureBy put s ws) :=
  .foldl _ (fun u _ => .foldl _ (fun v _ => .foldl _ (fun x _ => captureInBy_grows hput x _ _ _) _ v) _ u) _ s

end

theorem writeHome_grows (n : Nat) (s : State) (pa : Nat) (bs : List Byte) : MirrorGrows s (writeHome n s pa bs) := by
  induction n generalizing s pa bs with
  | zero => exact .of_eq (homeStoreRaw_rm s pa bs)
  | succ n ih => exact (captureBy_grows ih s _).trans (.of_eq (homeStoreRaw_rm _ pa bs))

theorem homeStore_grows (s : State) (pa : Nat) (bs : List Byte) : MirrorGrows s (s.homeStore pa bs) := writeHome_grows 4096 s pa bs
theorem log_grows (s : State) (e : ErrRec) : MirrorGrows s (s.log e) := logBy_grows homeStore_grows s e

/-- A record of a severity that is not folded is written at once, stamped with the time. -/
theorem log_mirror (s : State) {e : ErrRec} (h : e.sev ≠ 1) :
    ∃ pre, (s.log e).rm.mirror = s.rm.mirror ++ pre ++ [{ e with time := s.now }] := by
  unfold log logBy
  dsimp only
  rw [if_pos h]
  exact emitBy_mirror homeStore_grows s _

/-! Walks. -/

@[simp] theorem cleanLine_rm (s : State) (die pa : Nat) : (s.cleanLine die pa).rm = s.rm := by
  unfold cleanLine
  dsimp only
  split
  · exact (modDie_rm _ _ _).trans rfl
  · rfl

@[simp] theorem burst_rm (s : State) (pa n : Nat) : (s.burst pa n).rm = s.rm := rfl
@[simp] theorem countLine_rm (s : State) (die pa : Nat) : (s.countLine die pa).rm = s.rm := rfl

@[simp] theorem useSys_rm (s : State) (die pa n : Nat) (wr : Bool) : (s.useSys die pa n wr).rm = s.rm := by
  have hcount := foldl_keeps rm (fun s a => countLine s die a) (fun u a => countLine_rm u die a) (linesAt pa n) s
  unfold useSys
  cases wr with
  | true => exact (burst_rm _ _ _).trans hcount
  | false => exact (burst_rm _ _ _).trans ((foldl_keeps rm _ (fun u a => cleanLine_rm u die a) _ _).trans hcount)

@[simp] theorem dropLine_rm (s : State) (die k : Nat) (x : L2Line) : (s.dropLine die k x).rm = s.rm := by
  have hfwd := foldl_keeps rm _ forward_rm ((List.range 32).map (· + x.line * 32)) s
  refine Eq.trans (modDie_rm _ _ _) ?_
  split
  · exact (burst_rm _ _ _).trans hfwd
  · exact hfwd

@[simp] theorem useLine_rm (s : State) (die pa : Nat) (tenant : Option Nat) (first wr : Bool) :
    (s.useLine die pa tenant first wr).rm = s.rm := by
  unfold useLine
  dsimp only
  split
  · exact useSys_rm s die pa 1 wr
  · split
    · exact countLine_rm s die pa
    · refine Eq.trans (modDie_rm _ _ _) (Eq.trans (burst_rm _ _ _) ?_)
      split_ifs
      · exact countLine_rm s die pa
      · split <;> simp only [dropLine_rm, countLine_rm]

@[simp] theorem readPath_rm (s : State) (die : Nat) (asid : BitVec 16) (va : Nat) : (s.readPath die asid va).rm = s.rm := by
  unfold readPath
  split
  · rfl
  · exact foldl_keeps rm _ (fun u a => useLine_rm u die a _ false false) _ s

theorem setLeafBits_grows (s : State) (a low : Nat) : MirrorGrows s (s.setLeafBits a low) := homeStore_grows s a _

theorem noteBlocked_grows (s : State) (die pa : Nat) : MirrorGrows s (s.noteBlocked die pa) := by
  unfold noteBlocked
  split
  · exact log_grows s _
  · exact .refl s

theorem deniedRoot_grows (s : State) (root : Nat) (die : Option Nat) (va : Nat) (f : XFault) :
    MirrorGrows s (s.deniedRoot root die va f) := by
  unfold deniedRoot
  split_ifs
  · exact .refl s
  · split
    · exact noteBlocked_grows s _ _
    · exact .refl s
  · exact .refl s
  · split
    · split_ifs
      · exact .refl s
      · exact setLeafBits_grows s _ _
    · exact .refl s

theorem denied_grows (s : State) (die : Nat) (asid : BitVec 16) (va : Nat) (f : XFault) : MirrorGrows s (s.denied die asid va f) :=
  (MirrorGrows.of_eq (readPath_rm s die asid va)).trans (deniedRoot_grows _ _ _ _ _)

end State
end Sys2Proof.Machine
end

section
/-! Taking a trap (R42, R43, R84, R90, R213): the troupe stops, its record is written, its group halts. -/

namespace Sys2Proof.Machine

namespace State

/-- What of the shell a trap's fetch or translation leaves: all but what a core holds. -/
def coreless (s : State) : State := { s.shell.1 with cores := {} }

theorem coreless_of_shell {s t : State} (h : t.shell = s.shell) : t.coreless = s.coreless := congrArg (fun x => { x.1 with cores := {} }) h

theorem deniedAt_coreless (s : State) (c : Nat) (i : TrapInfo) : (s.deniedAt c i).coreless = s.coreless := by
  unfold deniedAt
  dsimp only
  split
  · exact coreless_of_shell (denied_shell s _ _ _ _)
  next pa _ _ => exact (coreless_of_shell (noteBlocked_shell s (coreDie (s.ctx c).core) pa) :)
  · rfl

theorem deniedAt_grows (s : State) (c : Nat) (i : TrapInfo) : MirrorGrows s (s.deniedAt c i) := by
  unfold deniedAt
  dsimp only
  split
  · exact denied_grows s _ _ _ _
  · exact noteBlocked_grows s _ _
  · exact .refl s

/-- The halt of a running group is broadcast: its blocked threads stop, and no other thread changes. -/
theorem startHalt_spec {s : State} {g : Nat} (hwf : s.threads.wf = true) (hrun : (s.group g).state = .running) (cause : Byte) (slot : Nat) :
    (∀ j, (s.startHalt g cause slot).thr j = if keyCtx j = (s.group g).ctx ∧ (s.thr j).group = g ∧ isBlocked (s.thr j) then
      { s.thr j with run := .stopped, skid := 0 } else s.thr j) ∧
    (s.startHalt g cause slot).group g =
      { s.group g with state := .halting, cause := cause, causeSlot := slot, haltAt := s.cycle, multi := false } ∧
    (s.startHalt g cause slot).rm = s.rm := by
  obtain ⟨th, heq, _, hthr⟩ := foldl_modThr_slotsOf (c := (s.group g).ctx) (p := fun x => x.group == g && isBlocked x) hwf
    (Bool.and_false _) (fun x => { x with run := .stopped, skid := 0 })
  have hstart : s.startHalt g cause slot = ({ s with threads := th } : State).modGroup g (fun x =>
      { x with state := .halting, cause := cause, causeSlot := slot, haltAt := s.cycle, multi := false }) := by
    unfold startHalt
    rw [if_neg (not_not.2 hrun)]
    exact congrArg (fun u : State => u.modGroup g _) heq
  rw [hstart]
  refine ⟨fun j => ?_, modGroup_group_self _ _ _, rfl⟩
  refine (hthr j).trans ?_
  simp

/-- The troupe's threads stop at the instruction, with skid count 0 (R42). -/
def stopAll (s : State) (sel : Sel) : State :=
  sel.slots.foldl (fun s k => s.modThr (threadKey sel.ctx k) (fun x => { x with run := .stopped, skid := 0, cause := 0, tpc := 0 })) s

/-- Each trapping thread records its cause and its address. -/
def recordCauses (s : State) (sel : Sel) (traps : List (Nat × TrapInfo)) : State :=
  traps.foldl (fun s e => s.modThr (threadKey sel.ctx e.1) (fun x =>
    { x with cause := BitVec.ofNat 8 e.2.cause.code, fva := BitVec.ofNat 64 (e.2.va.getD 0) })) s

/-- What the failed translations and fetches behind the traps leave. -/
def deniedAll (s : State) (c : Nat) (traps : List (Nat × TrapInfo)) : State := traps.foldl (fun s e => s.deniedAt c e.2) s

/-- The record that a troupe's trap writes. -/
def troupeRec (s : State) (sel : Sel) (k0 : Nat) (i0 : TrapInfo) (n : Nat) : ErrRec :=
  s.trapRec (threadKey sel.ctx k0) (s.thr (threadKey sel.ctx k0)).pc i0 n

/-- A trap in a running group (R42, R43). -/
theorem trapTroupe_running {s : State} {sel : Sel} {k0 g : Nat} {i0 : TrapInfo} {rest : List (Nat × TrapInfo)}
    (hg : (s.thr (sel.key k0)).group = g) (hrun : (s.group g).state = .running) :
    let d := ((s.stopAll sel).recordCauses sel ((k0, i0) :: rest)).deniedAll sel.ctx ((k0, i0) :: rest)
    let e := s.troupeRec sel k0 i0 (rest.length + 1)
    s.trapTroupe sel ((k0, i0) :: rest) = (((d.log e).dropTroupe sel.ctx sel.slots).modGroup g (fun x =>
      { x with trapAt := s.cycle + 1, firstRec := some (d.recAt e.part) })).startHalt g (BitVec.ofNat 8 i0.cause.code)
        (sel.slots.headD k0) := by
  subst hg
  unfold Sel.key at hrun ⊢
  unfold trapTroupe
  simp only [hrun, if_true]
  rfl

/-- A thread of the trapping troupe: stopped at its instruction, and with a cause and an address where it traps itself. -/
def trapped (traps : List (Nat × TrapInfo)) (k : Nat) (x : Thread) : Thread :=
  { x with
    run := .stopped, skid := 0, tpc := 0
    cause := match traps.find? (fun e => e.1 == k) with
      | some e => BitVec.ofNat 8 e.2.cause.code
      | none => 0
    fva := match traps.find? (fun e => e.1 == k) with
      | some e => BitVec.ofNat 64 (e.2.va.getD 0)
      | none => x.fva }

theorem find_of_nodup {l : List (Nat × TrapInfo)} (hnd : (l.map Prod.fst).Nodup) {e : Nat × TrapInfo} (he : e ∈ l) :
    l.find? (fun d => d.1 == e.1) = some e := by
  induction l with
  | nil => exact absurd he List.not_mem_nil
  | cons d r ih =>
    obtain ⟨hd, hr⟩ := List.nodup_cons.1 hnd
    rcases List.mem_cons.1 he with rfl | he
    · simp
    · have hne : (d.1 == e.1) = false := by
        rw [beq_eq_false_iff_ne]
        exact fun h => hd (h ▸ List.mem_map_of_mem he)
      rw [List.find?_cons_of_neg (by simp [hne]), ih hr he]

/-- The threads of a trapping troupe, each by what it does. -/
theorem stopped_threads (s : State) {sel : Sel} {traps : List (Nat × TrapInfo)} (hwf : s.threads.wf = true) (hd : sel.slots.Nodup)
    (hnd : (traps.map Prod.fst).Nodup) (hin : ∀ e ∈ traps, e.1 ∈ sel.slots) :
    ∃ th, (s.stopAll sel).recordCauses sel traps = { s with threads := th } ∧ th.wf = true ∧
      (∀ k ∈ sel.slots, th.get (sel.key k) = trapped traps k (s.thr (sel.key k))) ∧
      ∀ j, (∀ k ∈ sel.slots, j ≠ sel.key k) → th.get j = s.thr j := by
  obtain ⟨th1, heq1, hwf1, hin1, hout1⟩ := foldl_modThr_slots sel.ctx
    (fun x => { x with run := .stopped, skid := 0, cause := 0, tpc := 0 }) hd s
  have hkeys : (traps.map (fun e => threadKey sel.ctx e.1)).Nodup := by
    have := hnd.map (f := threadKey sel.ctx) (fun _ _ h => threadKey_inj h)
    rwa [List.map_map] at this
  obtain ⟨th2, heq2, hwf2, hin2, hout2⟩ := foldl_modThr (fun e : Nat × TrapInfo => threadKey sel.ctx e.1) (fun e x =>
    { x with cause := BitVec.ofNat 8 e.2.cause.code, fva := BitVec.ofNat 64 (e.2.va.getD 0) }) hkeys ({ s with threads := th1 } : State)
  refine ⟨th2, ?_, hwf2 (hwf1 hwf), fun k hk => ?_, fun j hj => ?_⟩
  · rw [stopAll, heq1]
    exact heq2
  · by_cases ht : ∃ e ∈ traps, e.1 = k
    · obtain ⟨e, he, rfl⟩ := ht
      refine (hin2 e he).trans ?_
      rw [trapped, find_of_nodup hnd he]
      dsimp only [thr]
      rw [hin1 _ hk]
      rfl
    · have hnone : traps.find? (fun e => e.1 == k) = none := by
        rw [List.find?_eq_none]
        exact fun e he hek => ht ⟨e, he, by simpa using hek⟩
      refine (hout2 _ (fun e he h => ht ⟨e, he, (threadKey_inj h).symm⟩)).trans ((hin1 k hk).trans ?_)
      rw [trapped, hnone]
      rfl
  · exact (hout2 j (fun e he => hj _ (hin e he))).trans (hout1 j hj)

/-- What a trap's record and the failed fetches behind it leave of a state, and where the record stands. -/
theorem log_deniedAll (s : State) (c : Nat) (traps : List (Nat × TrapInfo)) {e : ErrRec} (hsev : e.sev ≠ 1) :
    ((s.deniedAll c traps).log e).coreless = s.coreless ∧
    ∃ pre, ((s.deniedAll c traps).log e).rm.mirror = s.rm.mirror ++ pre ++ [{ e with time := s.now }] := by
  have hkeep : (s.deniedAll c traps).coreless = s.coreless := foldl_keeps coreless (fun u (e : Nat × TrapInfo) => u.deniedAt c e.2)
    (fun u e => deniedAt_coreless u c e.2) traps s
  obtain ⟨pre1, hpre1⟩ : MirrorGrows s (s.deniedAll c traps) :=
    .foldl (fun u (e : Nat × TrapInfo) => u.deniedAt c e.2) (fun u e => deniedAt_grows u c e.2) traps s
  obtain ⟨pre2, hpre2⟩ := log_mirror (s.deniedAll c traps) hsev
  refine ⟨(coreless_of_shell (log_shell _ e)).trans hkeep, pre1 ++ pre2, ?_⟩
  have hnow : (s.deniedAll c traps).now = s.now := (congrArg State.now hkeep :)
  rw [hpre2, ← hpre1, hnow]
  simp

/-- Of a troupe that traps in a running group, what stands when its group's halt is broadcast: the threads th, the group with its context,
and the record behind those that its own writing brings about. -/
theorem trapTroupe_spec {s : State} {sel : Sel} {k0 g : Nat} {i0 : TrapInfo} {rest : List (Nat × TrapInfo)} {th : Tab Thread}
    (hg : (s.thr (sel.key k0)).group = g) (hrun : (s.group g).state = .running)
    (hth : (s.stopAll sel).recordCauses sel ((k0, i0) :: rest) = { s with threads := th }) :
    ∃ w : State, s.trapTroupe sel ((k0, i0) :: rest) = w.startHalt g (BitVec.ofNat 8 i0.cause.code) (sel.slots.headD k0) ∧
      w.threads = th ∧ (w.group g).state = .running ∧ (w.group g).ctx = (s.group g).ctx ∧ w.cycle = s.cycle ∧
      ∃ pre, w.rm.mirror = s.rm.mirror ++ pre ++ [{ s.troupeRec sel k0 i0 (rest.length + 1) with time := s.now }] := by
  obtain ⟨hkeep, hmirror⟩ := ({ s with threads := th } : State).log_deniedAll sel.ctx ((k0, i0) :: rest)
    (e := s.troupeRec sel k0 i0 (rest.length + 1)) (show 2 ≠ 1 by decide)
  have hgroup := (congrArg (fun u : State => u.group g) hkeep :)
  refine ⟨_, trapTroupe_running hg hrun, ?_, ?_, ?_, ?_, ?_⟩
  all_goals rw [hth]
  · exact (congrArg threads hkeep :)
  · rw [modGroup_group_self]
    exact (congrArg Group.state hgroup).trans hrun
  · rw [modGroup_group_self]
    exact (congrArg Group.ctx hgroup :)
  · exact (congrArg cycle hkeep :)
  · exact hmirror

end State

/-- Settles O8: the threads by `stopped_threads` and `startHalt_spec`, the record by `trapTroupe_spec`. -/
theorem takingATrap : Obligations.TakingATrap := by
  unfold Obligations.TakingATrap
  intro s sel k0 i0 rest traps g hwf hd hnd hin hlt hthr hrun hctx hctx30 t
  obtain ⟨th, hth, hthwf, hstopped, hother⟩ := s.stopped_threads hwf hd hnd hin
  obtain ⟨w, ht, hw, hwrun, hwctx, hcycle, pre, hmirror⟩ := State.trapTroupe_spec rfl hrun hth
  obtain ⟨hthrs, hhalt, hrm⟩ := State.startHalt_spec (hw ▸ hthwf) hwrun (BitVec.ofNat 8 i0.cause.code) (sel.slots.headD k0)
  have hread : ∀ j, w.thr j = th.get j := fun j => by rw [State.thr, hw]
  have ht : t = w.startHalt g (BitVec.ofNat 8 i0.cause.code) (sel.slots.headD k0) := ht
  rw [ht]
  refine ⟨fun k hk => ?troupe, fun j hj => ?others, ?state, ?cause, ?slot, ?cycle, pre, _, (congrArg Ringmaster.mirror hrm).trans hmirror,
    rfl, rfl, ?ctx, ?lead, rfl, rfl, rfl, rfl, rfl, rfl⟩
  case troupe =>
    rw [hthrs, hread, hstopped k hk, if_neg (fun h => Bool.false_ne_true h.2.2)]
    rfl
  case others => rw [hthrs, hread, hother j hj, hwctx, hctx]
  case state => rw [hhalt]
  case cause => rw [hhalt]
  case slot => rw [hhalt]
  case cycle => rw [hhalt, hcycle]
  all_goals
    have hk0 : k0 < 1024 := hlt k0 (hin (k0, i0) (List.mem_cons_self ..))
    have hslot : slotKey (threadKey sel.ctx k0) = threadKey sel.ctx k0 := Nat.mod_eq_of_lt (by unfold threadKey; omega)
  case ctx => exact (congrArg keyCtx hslot).trans (keyCtx_threadKey hk0)
  case lead => exact (congrArg keySlot hslot).trans (keySlot_threadKey hk0)

end Sys2Proof.Machine
end

section
/-! Blocked threads go on: threads change in their run state alone, contexts in their troupe lists alone (R37, R41). -/

namespace Sys2Proof.Machine

namespace State

theorem TroupesOnly.refl (s : State) : TroupesOnly s s := fun _ => rfl

theorem TroupesOnly.foldl {β : Type} (f : State → β → State) (h : ∀ s x, TroupesOnly s (f s x)) (l : List β) (s : State) :
    TroupesOnly s (l.foldl f s) := by
  induction l generalizing s with
  | nil => exact .refl s
  | cons x r ih => exact (h s x).trans (ih _)

theorem addTroupe_troupesOnly (s : State) (c : Nat) (l : List Nat) (age ready : Nat) (first : Option Nat) :
    TroupesOnly s (s.addTroupe c l age ready first) := modCtx_troupesOnly s c (fun _ => rfl)

theorem formTroupes_troupesOnly (s : State) (c : Nat) (slots : List Nat) (age ready : Nat) (first : Option Nat) :
    TroupesOnly s (s.formTroupes c slots age ready first) := by
  unfold formTroupes
  split
  · exact .refl s
  · exact (addTroupe_troupesOnly s c _ _ _ _).trans (.foldl _ (fun u l => addTroupe_troupesOnly u c l _ _ _) _ _)

theorem releaseTroupes_troupesOnly (s : State) (c : Nat) (slots : List Nat) : TroupesOnly s (s.releaseTroupes c slots) :=
  ((modCtx_troupesOnly s c (fun _ => rfl)).trans (formTroupes_troupesOnly _ c _ _ _ _)).trans (modCtx_troupesOnly _ c (fun _ => rfl))

theorem releaseTroupes_retrouped (s : State) (c : Nat) (slots : List Nat) : Retrouped s (s.releaseTroupes c slots) :=
  (Retrouped.trans (t := s.modCtx c _) rfl (formTroupes_spec _ c _ _ _ _).1).trans rfl

theorem Retrouped.thr_eq {s t : State} (h : Retrouped s t) (j : Nat) : t.thr j = s.thr j := by rw [show t = _ from h]; rfl

/-- Threads become runnable one after another. -/
theorem foldl_runnable (c : Nat) (l : List Nat) (s : State) :
    ∃ th, l.foldl (fun s k => s.modThr (threadKey c k) (fun x => { x with run := .runnable })) s = { s with threads := th } ∧
      ∀ j, th.get j = { s.thr j with run := (th.get j).run } ∧ ((th.get j).run ≠ (s.thr j).run → ∃ k ∈ l, j = threadKey c k) := by
  induction l generalizing s with
  | nil => exact ⟨s.threads, rfl, fun j => ⟨rfl, fun h => absurd rfl h⟩⟩
  | cons k r ih =>
    obtain ⟨th, heq, hth⟩ := ih (s.modThr (threadKey c k) (fun x => { x with run := .runnable }))
    refine ⟨th, heq, fun j => ?_⟩
    obtain ⟨hget, hrun⟩ := hth j
    by_cases hj : j = threadKey c k
    · rw [hj, modThr_thr_self] at hget
      exact ⟨by rw [hj]; exact hget, fun _ => ⟨k, List.mem_cons_self .., hj⟩⟩
    · rw [modThr_thr_ne _ _ _ hj] at hget hrun
      refine ⟨hget, fun h => ?_⟩
      obtain ⟨i, hi, hji⟩ := hrun h
      exact ⟨i, List.mem_cons_of_mem _ hi, hji⟩

theorem wake_wokenOf {s : State} {c : Nat} {slots : List Nat} (h : ∀ k ∈ slots, isBlocked (s.thr (threadKey c k)) = true) :
    WokenOf s (s.wake c slots) := by
  obtain ⟨th, heq, hth⟩ := foldl_runnable c slots s
  have hre := releaseTroupes_retrouped { s with threads := th } c slots
  unfold wake
  rw [heq]
  refine ⟨hre.released, fun j => ?_, releaseTroupes_troupesOnly _ c slots⟩
  rw [hre.thr_eq]
  refine ⟨(hth j).1, fun hrun => ?_⟩
  obtain ⟨k, hk, rfl⟩ := (hth j).2 hrun
  exact h k hk

theorem wokenOf_refl (s : State) : WokenOf s s := ⟨rfl, fun _ => ⟨rfl, fun h => absurd rfl h⟩, fun _ => rfl⟩

/-- The threads of a context whose events have come go on. -/
theorem wakeCtx_wokenOf {s : State} (hwf : s.threads.wf = true) (c : Nat) : WokenOf s (s.wakeCtx c) := by
  unfold wakeCtx
  dsimp only
  split
  · exact wokenOf_refl s
  · refine wake_wokenOf (fun k hk => ?_)
    obtain ⟨⟨j, x⟩, he, rfl⟩ := List.mem_map.1 hk
    obtain ⟨hcell, ht⟩ := List.mem_filter.1 he
    rw [Bool.and_eq_true, beq_iff_eq] at ht
    rw [← ht.1, threadKey_of_parts, thr, Tab.get_of_mem_cells hwf hcell]
    have hrun := ht.2
    revert hrun
    unfold isBlocked
    cases x.run <;> simp

end State
end Sys2Proof.Machine
end

section
/-! Accesses complete (R48, R221, R303), and what a loaded value writes (R231, R233, R307–R309). -/

namespace Sys2Proof.Machine

namespace State

/-- Nothing is written beside a context in one of its core's banks (R81). -/
theorem settleSlot_active {s : State} {t : Nat} (h : (s.ctx (keyCtx t)).state = .active) : s.settleSlot t = s := by
  simp [settleSlot, inArea, copied, h]

/-- The state in which an access has completed: its thread changed by f and its flag counted down, itself no longer under way. -/
def accessGone (s : State) (id : Nat) (a : Access) (f : Thread → Thread) : State :=
  (s.modThr a.thr (fun x => (f x).flagDown a.flag)).setAcc id none

/-- The threads that may go on when an access has completed have done so. -/
theorem wakeCtx_accessGone {s : State} (hwf : s.threads.wf = true) (id : Nat) (a : Access) (f : Thread → Thread) (c : Nat) :
    WokenOf (s.accessGone id a f) ((s.accessGone id a f).wakeCtx c) := wakeCtx_wokenOf (Tab.set_wf _ _ _ hwf) c

section
variable {s : State} {id : Nat} {a : Access} (hwf : s.threads.wf = true) (ha : s.accs.get id = some a)
  (hdone : ∀ p ∈ a.pieces, p.st = .done) (hfetch : a.op ≠ .fetch) (hfence : ∀ p u c, a.op ≠ .fence p u c) (hdue : a.due ≤ s.cycle)
  (hkept : a.discarded = false) (hbehind : s.replyBehind id a = false) (hexited : (s.thr a.thr).run ≠ .exited)
  (hfree : (s.thr a.thr).run ≠ .free) (hactive : (s.ctx (keyCtx a.thr)).state = .active)
include hwf ha hdone hfetch hfence hdue hkept hbehind hexited hfree hactive

theorem completeAccess_eq {bad : Bool} (hbad : (a.op.isLoad && a.pieces.any Piece.poisoned) = bad) :
    s.completeAccess id =
      let u := (s.accessGone id a (fun x => if bad then x else writeDst x a)).wakeCtx (keyCtx a.thr)
      if bad then u.trapLate a.thr a.pc
        { cause := .poison, code := 0x0103, va := (a.pieces.find? Piece.poisoned).map (fun p => p.va.toNat),
          pa := (a.pieces.find? Piece.poisoned).bind Piece.pa } a.batch
      else u := by
  have hfixed : a.fixed = true := List.all_eq_true.2 (fun p hp => by simp [Piece.isDone, hdone p hp])
  have hsettled (f : Thread → Thread) : ((s.accessGone id a f).wakeCtx (keyCtx a.thr)).settleSlot a.thr =
      (s.accessGone id a f).wakeCtx (keyCtx a.thr) := by
    apply settleSlot_active
    rw [(wakeCtx_accessGone hwf id a f _).2.2]
    exact hactive
  have hwrite : (fun x => (if !bad then writeDst x a else x).flagDown a.flag) =
      (fun x => (if bad then x else writeDst x a).flagDown a.flag) := by cases bad <;> rfl
  unfold completeAccess
  rw [ha]
  dsimp only
  split
  · next p u c hop => exact absurd hop (hfence p u c)
  · rw [if_neg (by simp [hfixed, hfetch, hbehind, Nat.not_lt.2 hdue])]
    simp only [hkept, hbad, Bool.true_and, Bool.not_false, Bool.and_true]
    rw [hwrite, show (s.modThr a.thr _).setAcc id none = s.accessGone id a (fun x => if bad then x else writeDst x a) from rfl, hsettled]

theorem completes_whole (hwhole : a.op.isLoad = false ∨ ∀ p ∈ a.pieces, p.poisoned = false) :
    WokenOf (s.accessGone id a (fun x => writeDst x a)) (s.completeAccess id) := by
  have hbad : (a.op.isLoad && a.pieces.any Piece.poisoned) = false := by
    rcases hwhole with h | h
    · rw [h, Bool.false_and]
    · rw [List.any_eq_false.2 (fun p hp => by simp [h p hp]), Bool.and_false]
  rw [completeAccess_eq hwf ha hdone hfetch hfence hdue hkept hbehind hexited hfree hactive hbad]
  exact wakeCtx_accessGone hwf id a _ _

theorem completes_poisoned {p : Piece} (hload : a.op.isLoad = true) (hp : a.pieces.find? Piece.poisoned = some p) :
    ∃ u, WokenOf (s.accessGone id a (fun x => x)) u ∧ s.completeAccess id =
      u.trapLate a.thr a.pc { cause := .poison, code := 0x0103, va := some p.va.toNat, pa := p.pa } a.batch := by
  have hbad : (a.op.isLoad && a.pieces.any Piece.poisoned) = true := by
    rw [hload, Bool.true_and, List.any_eq_true]
    exact ⟨p, List.mem_of_find?_eq_some hp, List.find?_some hp⟩
  refine ⟨_, wakeCtx_accessGone hwf id a _ (keyCtx a.thr), ?_⟩
  rw [completeAccess_eq hwf ha hdone hfetch hfence hdue hkept hbehind hexited hfree hactive hbad, hp]
  rfl

end
end State

theorem accessesComplete : Parts.AccessesComplete := by
  intro id s a hwf ha hdone hfetch hfence hdue hkept hbehind hexited hfree hactive down v
  refine ⟨fun hwhole => ?_, fun p hload hp => ?_⟩
  · exact ⟨_, rfl, State.completes_whole hwf ha hdone hfetch hfence hdue hkept hbehind hexited hfree hactive hwhole⟩
  · exact ⟨_, rfl, State.completes_poisoned hwf ha hdone hfetch hfence hdue hkept hbehind hexited hfree hactive hload hp⟩

end Sys2Proof.Machine
end

section
/-! What a loaded value writes (R231, R233, R303, R307–R309). -/

namespace Sys2Proof.Machine

theorem leNat_lt (l : List Byte) : leNat l < 256 ^ l.length := by
  induction l with
  | nil => exact Nat.zero_lt_one
  | cons b r ih =>
    have hb := b.isLt
    rw [leNat, List.length_cons, Nat.pow_succ]
    omega

theorem leNat_append (l r : List Byte) : leNat (l ++ r) = leNat l + 256 ^ l.length * leNat r := by
  induction l with
  | nil => simp [leNat]
  | cons b l ih =>
    rw [List.cons_append, leNat, leNat, ih, List.length_cons, Nat.pow_succ]
    ring

theorem leNat_take_lt (l : List Byte) (n : Nat) : leNat (l.take n) < 256 ^ n :=
  (leNat_lt _).trans_le (Nat.pow_le_pow_right (by decide) (List.length_take_le ..))

/-- The second word of eight bytes. -/
theorem leNat_high (l : List Byte) (h : l.length = 8) : leNat (l.take 8) / 2 ^ 32 = leNat (l.drop 4) := by
  have hlow := leNat_take_lt l 4
  have hsplit := leNat_append (l.take 4) (l.drop 4)
  rw [List.take_append_drop, List.length_take_of_le (by omega)] at hsplit
  rw [List.take_of_length_le (by omega), hsplit]
  omega

/-- A number that fits a narrower word is the same in the wider one. -/
theorem ofNat_zeroExtend {n k m : Nat} (h : n < 2 ^ k) (hk : k ≤ m) :
    BitVec.ofNat m n = (BitVec.ofNat k n).zeroExtend m := by
  have := Nat.pow_le_pow_right (n := 2) (by decide) hk
  exact BitVec.eq_of_toNat_eq (by simp [Nat.mod_eq_of_lt h])

namespace State

/-- The bytes of an access of one piece are that piece's. -/
theorem gathered_one {a : Access} {p : Piece} (hp : a.pieces = [p]) (hpos : p.pos = 0) (hlen : p.len = p.data.length) {n : Nat}
    (hn : n ≤ p.len) : gathered a n = p.data.take n := by
  refine List.ext_getElem (by simp [gathered, ← hlen, hn]) (fun j hj _ => ?_)
  have hlt : j < p.len := by
    simp only [gathered, List.length_map, List.length_range] at hj
    omega
  simp [gathered, hp, hpos, hlt, List.getD_eq_getElem?_getD, List.getElem?_eq_getElem (hlen ▸ hlt)]

end State

theorem loadedValues : Parts.LoadedValues := by
  intro x a p hp hpos hlen low
  have hnum {n : Nat} (hn : n ≤ p.len) : leNat (State.gathered a n) = low n := by rw [State.gathered_one hp hpos hlen hn]
  refine ⟨fun n y hy hdst hbytes => ?_, fun n hdst h8 => ?_, fun n hdst hop h8 => ?_, fun n v hdst hop => ?_,
    fun n tag hdst hput h32 htag => ?_⟩
  · unfold State.writeDst
    rw [hdst]
    have h8 : low 1 < 2 ^ 8 := leNat_take_lt p.data 1
    have h16 : low 2 < 2 ^ 16 := leNat_take_lt p.data 2
    obtain rfl | rfl | rfl | rfl | rfl : y = 0 ∨ y = 1 ∨ y = 2 ∨ y = 3 ∨ y = 4 := by omega
    · simp [hnum (show 1 ≤ p.len from hbytes)]
    · simpa [hnum (show 1 ≤ p.len from hbytes)] using congrArg (x.wrG n) (ofNat_zeroExtend h8 (by decide))
    · simp [hnum (show 2 ≤ p.len from hbytes)]
    · simpa [hnum (show 2 ≤ p.len from hbytes)] using congrArg (x.wrG n) (ofNat_zeroExtend h16 (by decide))
    · simp [hnum (show 4 ≤ p.len from hbytes)]
  · simp only [State.writeDst, hdst, hnum (show 4 ≤ p.len by omega), hnum (Nat.le_of_eq h8.symm)]
    rw [show low 8 / 2 ^ 32 = leNat (p.data.drop 4) from leNat_high p.data (by omega)]
  · simp only [State.writeDst, hdst, hop, hnum (Nat.le_of_eq h8.symm)]
  · simp only [State.writeDst, hdst, hop]
  · have hplain : State.blockTag tag.toNat = false := by
      have h : ∀ tag : BitVec 6, tag ∈ [1, 2, 3, 4, 5, 6, 0x0A, 0x0B, 0x0C] → State.blockTag tag.toNat = false := by decide
      exact h tag htag
    have hfoot : State.footprint tag.toNat = 32 := by simp [State.footprint, hplain]
    simp only [State.writeDst, hdst, hput, hfoot, State.gathered_one hp hpos hlen (Nat.le_of_eq h32.symm), State.unpackBytes, hplain]
    simp [low, List.take_take]

/-- Settles O29: an access that is fixed and due leaves the table, its register is written and its flag counts down, and the threads
that waited go on; the bytes of its one piece are what its destination takes. -/
theorem loadsReturn : Obligations.LoadsReturn := ⟨accessesComplete, loadedValues⟩

end Sys2Proof.Machine
end

section
/-! A halted group that is terminated, and a store that is not its own: the keys of evicted threads (R45, R58). -/

namespace Sys2Proof.Machine

/-- Group 1, halted in a context whose number needs more than 30 bits, with an evicted thread; and the store that group 2's evicted thread
of slot 0 of context 1 has left, of a word that core 0 owns with the value 0.  Both threads have the same key. -/
def sharedEvictedKey : State := { State.reset with
  groups := Tab.set {} 1 { state := .halted, ctx := 2 ^ 30 + 1, handler := some 0 }
  evicted := Tab.set {} 1024 { run := .stopped, group := 1 }
  owner := Tab.set {} 0x1000 1
  mem := Memory.store {} 0x4000 [9, 0, 0, 0]
  accs := Tab.set {} 5 (some
    { thr := evictedKey 2 (threadKey 1 0), core := 0, op := .store, lv := .l1, dst := .none, flag := none, pc := 0, asid := 1,
      resolved := false, discarded := false, due := 0
      pieces := [{ place := .virt, va := 0x4000, pa := some 0x4000, len := 4, pos := 0, data := [1, 2, 3, 4], poisoned := false,
                   st := .queued }] }) }

theorem sharedEvictedKey_quiet : Quiet sharedEvictedKey 1 := by
  unfold Quiet
  decide +kernel

/-- The end of group 1 sends the other group's store on its way, which brings the word's value in home order to its home first (R103). -/
theorem sharedEvictedKey_terminate :
    (sharedEvictedKey.terminateGroup 1).mem.bytes 0x4000 4 = [0, 0, 0, 0] ∧ sharedEvictedKey.mem.bytes 0x4000 4 = [9, 0, 0, 0] := by
  decide +kernel

/-- Refutes O32, in its clause on the termination of a group: `Quiet` leaves room for an access whose key names another group, and in
a context of number 2 ^ 30 or more the key of an evicted thread of the group can be the key of such an access, whose store then leaves
with the group's end and changes memory. -/
theorem not_haltsAndHandlers : ¬ Obligations.HaltsAndHandlers := by
  intro h
  obtain ⟨-, -, -, -, -, -, hterminate, -⟩ := h 1 sharedEvictedKey (by decide +kernel)
  obtain ⟨t, ht, -, -, hmem⟩ := hterminate (by decide +kernel) (fun hrm => absurd hrm (by decide +kernel)) (by decide +kernel)
    sharedEvictedKey_quiet
  obtain rfl : sharedEvictedKey.terminateGroup 1 = t := Host.Outcome.next.inj ht
  obtain ⟨hafter, hbefore⟩ := sharedEvictedKey_terminate
  rw [hmem, hbefore] at hafter
  exact absurd hafter (by decide)

end Sys2Proof.Machine
end

section
/-! EXIT (R48, R54, R346): what each of its parts changes, and the end of its issue. -/

namespace Sys2Proof.Machine

namespace State

theorem foldl_ctxs {β : Type} (f : State → β → State) (h : ∀ s x, f s x = { s with ctxs := (f s x).ctxs }) (l : List β) (s : State) :
    l.foldl f s = { s with ctxs := (l.foldl f s).ctxs } := by
  induction l generalizing s with
  | nil => rfl
  | cons x r ih =>
    exact (ih (f s x)).trans (congrArg (fun u : State => { u with ctxs := (r.foldl f (f s x)).ctxs }) (h s x))

theorem checkRelease_ctxs (s : State) (c p : Nat) : s.checkRelease c p = { s with ctxs := (s.checkRelease c p).ctxs } := by
  unfold checkRelease
  dsimp only
  split <;> rfl

/-- The barriers are part of their context. -/
theorem dropAt_ctxs (s : State) (t p : Nat) : s.dropAt t p = { s with ctxs := (s.dropAt t p).ctxs } := by
  unfold dropAt
  dsimp only
  split_ifs
  · rfl
  · rfl
  · rw [checkRelease_ctxs]
    rfl

theorem mapHandles_handle (s : State) (f : Nat → Handle → Handle) (h : ∀ c, f c default = default) (c i : Nat) :
    ((s.mapHandles f).core c).handles.get i = f c ((s.core c).handles.get i) := by
  rw [mapHandles, core, Tab.get_mapCells_of _ _ _ rfl]
  exact Tab.get_mapCells_of _ _ _ (h c)

/-- A group ends with its last thread; nothing else changes. -/
theorem checkRetiring_groups (s : State) (g : Nat) : s.checkRetiring g = { s with groups := (s.checkRetiring g).groups } := by
  unfold checkRetiring
  split <;> rfl

theorem checkRetiring_group_ne (s : State) {g j : Nat} (h : j ≠ g) : (s.checkRetiring g).group j = s.group j := by
  unfold checkRetiring
  split
  · exact modGroup_group_ne _ _ _ h
  · rfl

theorem checkRetiring_last {s : State} {g : Nat} (hwf : s.threads.wf = true) (hrun : (s.group g).state = .running)
    (h : ∀ j, (s.thr j).group = g → (s.thr j).run = .exited) : ((s.checkRetiring g).group g).state = .retiring := by
  have hnone : s.groupSlots g (fun x => x.run != .exited) = [] := by
    refine List.eq_nil_iff_forall_not_mem.2 (fun k hk => ?_)
    have hk := (of_mem_slotsOf hwf hk).2
    simp only [Bool.and_eq_true, beq_iff_eq, bne_iff_ne] at hk
    exact hk.2 (h _ hk.1)
  rw [checkRetiring, if_pos ⟨hrun, by rw [hnone]; rfl⟩, modGroup_group_self]

end State

section
variable {s : State} {sel : Sel} {k n : Nat} {y : Bool} {op : State → Nat → TRes} {u : State}

/-- The thread of a troupe of one leaves it for good: the troupe is gone, and nothing has gone on. -/
theorem issue_one_leave (hs : s.sel = some sel) (hk : sel.slots = [k]) (hn : n ≠ 0) (h : op { s with sel := none } (sel.key k) = .leave u) :
    ∃ t, s.issue n y op = .next t ∧ t = { u with ctxs := t.ctxs, cores := t.cores } ∧
      ∀ c, t.core c = { u.core c with islots := (t.core c).islots } := by
  have h' : op { s with sel := none } (threadKey sel.ctx k) = .leave u := h
  have hleft : [k].foldl (Issued.add op sel.ctx) { st := { s with sel := none } } = { st := u, left := [k] } := by
    simp [Issued.add, h']
  obtain ⟨id, y', hfin⟩ : ∃ id y', { s with sel := none }.finish sel n y { st := u, left := [k] } =
    (u.dropTroupe sel.ctx sel.slots).noteIssue sel id y' := State.finish_stays _ sel y hn rfl
  rw [hk] at hfin
  unfold State.issue
  rw [hs]
  simp only [hk, hleft]
  refine ⟨_, congrArg Host.Outcome.next hfin, rfl, fun c => ?_⟩
  rw [State.noteIssue, State.core, State.modCore, Tab.get_modify]
  split
  · next hc => rw [hc]; rfl
  · rfl

/-- The one operation of a troupe of one that goes on. -/
theorem run_one_done {i : Instr} (hex : exec i s = s.run i y op) (ha : Alone s sel k i.parcels) (hp : i.parcels ≠ 0) (hwf : i.wf = true)
    (hmay : State.mayStand { s with sel := none } (sel.key k) i = true)
    (hop : op { s with sel := none } (sel.key k) = .done u none) : ∃ t, exec i s = .next t ∧ GoesOn u t sel i.parcels := by
  obtain ⟨t, ht, hgo⟩ := issue_done s sel i.parcels y (gated i op) (fun _ _ => u) hp ha.1 (by simp [ha.2.1]) (by simp [ha.2.1])
    (fun pre j post hpre => by
      obtain ⟨rfl, rfl⟩ : pre = [] ∧ j = k := by
        rw [ha.2.1] at hpre
        cases pre with
        | nil => exact ⟨rfl, (List.cons.inj hpre).1.symm⟩
        | cons a r => simp at hpre
      exact (gated_alone ha hwf hmay).trans hop)
  rw [ha.2.1] at hgo
  exact ⟨t, hex.trans ht, hgo⟩

end

namespace State

/-- The state in which a thread has exited, before its group is found without threads. -/
def exitedAt (s : State) (t : Nat) : State :=
  (((s.covering t).foldl (fun s p => s.dropAt t p) s).retireHandles t).modThr t (fun x => { x with run := .exited, sync := none })

section
variable (s : State) (t : Nat)

theorem exitedAt_eq : s.exitedAt t = { s with
    threads := s.threads.modify t (fun x => { x with run := .exited, sync := none })
    ctxs := (s.exitedAt t).ctxs, cores := (s.retireHandles t).cores } := by
  have h := foldl_ctxs (fun s p => s.dropAt t p) (fun s p => dropAt_ctxs s t p) (s.covering t) s
  unfold exitedAt
  rw [h]
  rfl

theorem exitedAt_mem : (s.exitedAt t).mem = s.mem := by rw [exitedAt_eq]
theorem exitedAt_group (g : Nat) : (s.exitedAt t).group g = s.group g := by
  rw [exitedAt_eq]
  rfl

theorem exitedAt_threads : (s.exitedAt t).threads = s.threads.modify t (fun x => { x with run := .exited, sync := none }) := by
  rw [exitedAt_eq]

theorem exitedAt_thr (j : Nat) :
    (s.exitedAt t).thr j = if j = t then { s.thr t with run := .exited, sync := none } else s.thr j := by
  rw [thr, exitedAt_threads, Tab.get_modify]
  rfl

/-- What a thread that EXITs leaves of a handle. -/
theorem exitedAt_handle (c i : Nat) : ((s.exitedAt t).core c).handles.get i =
      let h := (s.core c).handles.get i
      if h.state = .live ∧ h.ctx = keyCtx t ∧ h.slot = keySlot t ∧ h.group = (s.thr t).group then { h with state := .retired } else h := by
  have hcore : (s.exitedAt t).core c = (s.retireHandles t).core c := by
    rw [exitedAt_eq]
    rfl
  rw [hcore, retireHandles, mapHandles_handle]
  exact fun _ => if_neg (fun h => HandleState.noConfusion h.1)

end

/-- The last part of an EXIT changes no thread and no core. -/
theorem checkRetiring_thr (s : State) (g j : Nat) : (s.checkRetiring g).thr j = s.thr j := by
  rw [checkRetiring_groups]
  rfl
theorem checkRetiring_core (s : State) (g j : Nat) : (s.checkRetiring g).core j = s.core j := by
  rw [checkRetiring_groups]
  rfl
theorem checkRetiring_mem (s : State) (g : Nat) : (s.checkRetiring g).mem = s.mem := by rw [checkRetiring_groups]

end State

theorem exits : Parts.Exits := by
  intro s sel k hwf ha x
  let v : State := { s with sel := none }
  obtain ⟨t, ht, heq, hcore⟩ : ∃ t, s.issue 2 false (gated .exit exitThread) = .next t ∧
      t = { (v.exitedAt (sel.key k)).checkRetiring x.group with ctxs := t.ctxs, cores := t.cores } ∧
      ∀ c, t.core c = { ((v.exitedAt (sel.key k)).checkRetiring x.group).core c with islots := (t.core c).islots } :=
    issue_one_leave ha.1 ha.2.1 (by decide) (gated_alone ha rfl rfl)
  have hthr (j : Nat) : t.thr j = if j = sel.key k then { x with run := .exited, sync := none } else s.thr j := by
    rw [heq]
    exact (State.checkRetiring_thr _ _ j).trans (State.exitedAt_thr v _ j)
  have hgroup (g : Nat) : t.group g = ((v.exitedAt (sel.key k)).checkRetiring x.group).group g := by rw [heq]; rfl
  refine ⟨t, ht, by rw [hthr, if_pos rfl], fun j hj => by rw [hthr, if_neg hj], fun a => ?_, fun c i => ?_, fun g hg => ?_,
    fun hrun hlast => ?_⟩
  · rw [heq]
    exact congrArg (fun m : Memory => m.get a) ((State.checkRetiring_mem _ _).trans (State.exitedAt_mem v _))
  · rw [hcore, State.checkRetiring_core]
    exact State.exitedAt_handle v (sel.key k) c i
  · rw [hgroup, State.checkRetiring_group_ne _ hg]
    exact State.exitedAt_group v _ g
  · rw [hgroup]
    refine State.checkRetiring_last ?_ ((congrArg Group.state (State.exitedAt_group v _ _)).trans hrun) (fun j hj => ?_)
    · rw [State.exitedAt_threads]
      exact Tab.modify_wf _ _ _ hwf
    · have hj' : t.thr j = (v.exitedAt (sel.key k)).thr j := (hthr j).trans (State.exitedAt_thr v _ j).symm
      rw [← hj'] at hj ⊢
      exact hlast j hj

end Sys2Proof.Machine
end

section
/-! SPAWN (R47): a group is granted, its threads fill their slots, and the spawning thread learns its number. -/

namespace Sys2Proof.Machine

theorem zip_map_range {β : Type} (f : Nat → β) (n : Nat) :
    ((List.range n).map f).zip (List.range n) = (List.range n).map (fun i => (f i, i)) := by
  have h : ((List.range n).map f).zip ((List.range n).map id) = (List.range n).map (fun i => (f i, i)) := List.zip_map'
  rwa [List.map_id] at h

/-- A spawned thread starts with the spawning thread's eight registers in g1 to g8. -/
theorem spawnThread_rdG (kr : Kernel) (x : Thread) (gid i n : Nat) (entry : DWord) (f : Nat → Word) {m : Nat} (hm : m < 8) :
    (spawnThread kr x gid i n entry ((List.range 8).map f)).rdG (m + 1) = f m := by
  have h := Tab.get_foldl_set_range 1 f 8 {} hm
  rw [Nat.add_comm 1 m] at h
  rw [Thread.rdG, if_neg (Nat.succ_ne_zero m), spawnThread, zip_map_range, List.foldl_map]
  simpa only [Nat.add_comm 1] using h

theorem spawnThread_rdA (kr : Kernel) (x : Thread) (gid i n : Nat) (entry : DWord) (copied : List Word) :
    (spawnThread kr x gid i n entry copied).rdA 0 = kr.args := by
  rw [Thread.rdA, spawnThread, Tab.get_set, if_pos rfl]

theorem wrG_rdG {x : Thread} {n : Nat} (hn : n ≠ 0) (v : Word) : (x.wrG n v).rdG n = v := by
  rw [Thread.wrG, if_neg hn, Thread.rdG, if_neg hn, Tab.get_set, if_pos rfl]

theorem stepPast_rdG (s : State) (x : Thread) (n m : Nat) : (stepPast s x n).rdG m = x.rdG m := by
  unfold stepPast Thread.advance
  split_ifs <;> rfl

namespace State

/-- A kernel that has given its next number to a group. -/
def numbered (g : Nat) (k : Kernel) : Kernel := { k with nextSpawn := k.nextSpawn + 1, groups := k.groups ++ [g] }

/-- The state in which a group of n threads has been spawned, in the place that its context has for it. -/
def spawned (s : State) (t n : Nat) (entry : DWord) (copied : List Word) (slots : List Nat) (pad bar tile : Nat) : State :=
  let x := s.thr t
  let g := s.group x.group
  let kr := s.kernel g.kernel
  let new : Group :=
    { state := .running, kernel := g.kernel, gnum := BitVec.ofNat 32 kr.nextSpawn, lvc := g.lvc, spawned := true, unit := g.unit }
  ((((({ s with groups := s.groups.set s.nextId new, nextId := s.nextId + 1 } : State).grant s.nextId (keyCtx t) n kr pad bar tile
    g.cluBase).fillSlots (keyCtx t) slots (fun i => spawnThread kr x s.nextId i n entry copied)).modKernel g.kernel
      (numbered s.nextId)).formTroupes (keyCtx t) slots s.cycle (s.cycle + 1) (some s.cycle))

section
variable {s : State} {t d n : Nat} {count : Word} {entry : DWord} {copied : List Word} (h1 : 1 ≤ count.toNat) (h1024 : count.toNat ≤ 1024)
  (hcanon : canonical entry = true) (heven : entry.toNat % 2 = 0) (hperf : s.storesPerformed t s.nextId 1 = true)
include h1 h1024 hcanon heven hperf

theorem spawnGroup_full (hroom : s.room (s.kernel (s.group (s.thr t).group).kernel) (keyCtx t) count.toNat = none) :
    spawnGroup s t d count entry copied = .done (s.modThr t (fun x => x.wrG d 0xFFFFFFFF)) none := by
  unfold spawnGroup
  rw [if_neg (by omega), if_neg (by simp [hcanon, heven]), if_neg (by simp [hperf]), hroom]

theorem spawnGroup_placed {slots : List Nat} {pad bar tile : Nat}
    (hroom : s.room (s.kernel (s.group (s.thr t).group).kernel) (keyCtx t) count.toNat = some (slots, pad, bar, tile))
    (hkept : (s.kernel (s.group (s.thr t).group).kernel).state ≠ .cancelling) :
    spawnGroup s t d count entry copied = .done ((s.spawned t count.toNat entry copied slots pad bar tile).modThr t
      (fun x => x.wrG d (BitVec.ofNat 32 (s.kernel (s.group (s.thr t).group).kernel).nextSpawn))) none := by
  unfold spawnGroup
  rw [if_neg (by omega), if_neg (by simp [hcanon, heven]), if_neg (by simp [hperf]), hroom]
  dsimp only
  rw [if_neg hkept]
  rfl

end

/-- What a spawn leaves: the new group's number and its place, its threads in their slots, and the next number of the kernel. -/
theorem spawned_spec (s : State) (t n : Nat) (entry : DWord) (copied : List Word) {slots : List Nat} (hnd : slots.Nodup)
    (pad bar tile : Nat) :
    let u := s.spawned t n entry copied slots pad bar tile
    let g := s.group (s.thr t).group
    let kr := s.kernel g.kernel
    u.mem = s.mem ∧ (u.group s.nextId).state = .running ∧ (u.group s.nextId).kernel = g.kernel ∧
    (u.group s.nextId).gnum = BitVec.ofNat 32 kr.nextSpawn ∧
    (u.group s.nextId).ctx = keyCtx t ∧ (u.group s.nextId).size = n ∧ (u.group s.nextId).padBase = pad ∧
    (u.group s.nextId).spawned = true ∧ (u.kernel g.kernel).nextSpawn = kr.nextSpawn + 1 ∧
    (∀ i k, slots[i]? = some k → u.thr (threadKey (keyCtx t) k) = spawnThread kr (s.thr t) s.nextId i n entry copied) ∧
    ∀ j, (∀ k ∈ slots, j ≠ threadKey (keyCtx t) k) → u.thr j = s.thr j := by
  intro u g kr
  let new : Group :=
    { state := .running, kernel := g.kernel, gnum := BitVec.ofNat 32 kr.nextSpawn, lvc := g.lvc, spawned := true, unit := g.unit }
  let made : State := { s with groups := s.groups.set s.nextId new, nextId := s.nextId + 1 }
  let granted := made.grant s.nextId (keyCtx t) n kr pad bar tile g.cluBase
  have hnew : made.group s.nextId = new := by simp only [made, group, Tab.get_set, if_pos]
  have hgroup := grant_group made s.nextId (keyCtx t) n kr pad bar tile g.cluBase
  rw [hnew] at hgroup
  obtain ⟨hfill, hslots, hother⟩ := fillSlots_spec granted (keyCtx t) (fun i => spawnThread kr (s.thr t) s.nextId i n entry copied) hnd
  generalize hfilled : granted.fillSlots (keyCtx t) slots (fun i => spawnThread kr (s.thr t) s.nextId i n entry copied) = filled at *
  obtain ⟨hre, -⟩ := formTroupes_spec (filled.modKernel g.kernel (numbered s.nextId))
    (keyCtx t) slots s.cycle (s.cycle + 1) (some s.cycle)
  have hu : u = (filled.modKernel g.kernel (numbered s.nextId)).formTroupes
      (keyCtx t) slots s.cycle (s.cycle + 1) (some s.cycle) := by
    rw [← hfilled]
    rfl
  rw [← hu, Retrouped, hfill] at hre
  have hthr (j : Nat) : u.thr j = filled.thr j := by rw [hre]; rfl
  have hg : u.group s.nextId = granted.group s.nextId := by rw [hre]; rfl
  rw [hg, hgroup]
  refine ⟨?_, rfl, rfl, rfl, rfl, rfl, rfl, rfl, ?_, fun i k hi => (hthr _).trans (hslots i k hi), fun j hj => (hthr j).trans (hother j hj)⟩
  · rw [hre]
    rfl
  · have hk : u.kernels = s.kernels.modify g.kernel (numbered s.nextId) := by
      rw [hre]
      rfl
    rw [kernel, hk, Tab.get_modify_self]
    rfl

end State

theorem room_nodup {s : State} {kr : Kernel} {c n : Nat} {slots : List Nat} {pad bar tile : Nat}
    (h : s.room kr c n = some (slots, pad, bar, tile)) : slots.Nodup := by
  unfold State.room at h
  dsimp only at h
  split at h
  · exact nomatch h
  · split at h
    · obtain ⟨rfl, -⟩ := Prod.mk.inj (Option.some.inj h)
      exact (List.nodup_range.filter _).sublist (List.take_sublist ..)
    · exact nomatch h

/-- Where the one thread of the troupe has changed by a function of it and gone on, that is the whole change. -/
theorem changes_of_goesOn {i : Instr} {s t : State} {sel : Sel} {k : Nat} {f : Thread → Thread} (hk : sel.slots = [k])
    (ht : exec i s = .next t) (h : GoesOn ({ s with sel := none }.modThr (sel.key k) f) t sel i.parcels) : Changes i s sel f := by
  obtain ⟨heq, hkey, hother, hctx, hcore⟩ := h
  refine ⟨t, ht, fun j hj => ?_, fun j hj => ?_, fun a => by rw [heq]; rfl, heq, hctx, hcore⟩
  · rw [hkey j hj]
    rw [hk, List.mem_singleton] at hj
    rw [hj, State.modThr_thr_self]
    rfl
  · rw [hother j hj, State.modThr_thr_ne _ _ _ (hj k (by rw [hk]; exact List.mem_singleton_self k))]
    rfl

theorem spawns : Parts.Spawns := by
  intro d a b s sel k hwf ha key x kr n entry hfull h1 h1024 hcanon heven hperf hkept
  obtain ⟨-, hd, hb⟩ : (Instr.spawn d a b).codesOk = true ∧ (1 ≤ d.toNat ∧ d.toNat < 60) ∧ b.toNat ≤ 52 := by
    simpa [Instr.wf, Instr.limitsOk, isWritableG] using hwf
  have hregs : ∀ r ∈ d.toNat :: (List.range 8).map (· + b.toNat), r < 60 := by
    simp only [List.mem_cons, List.mem_map, List.mem_range]
    omega
  have hempty : someEmpty x (d.toNat :: (List.range 8).map (· + b.toNat)) [] = false := by
    have hg : ∀ r ∈ d.toNat :: (List.range 8).map (· + b.toNat), ¬(decide (1 ≤ r) && decide (r < 60) && x.gEmpty.get r) = true := by
      intro r hr h
      simp only [Bool.and_eq_true, decide_eq_true_eq] at h
      exact Bool.false_ne_true ((hfull r h.1.1 h.1.2).symm.trans h.2)
    rw [someEmpty, List.any_eq_false.2 hg]
    rfl
  have hrun {u : State} (hu : spawnGroup { s with sel := none } key d.toNat (x.rdG d.toNat) entry
      (((List.range 8).map (· + b.toNat)).map x.rdG) = .done u none) : ∃ t, exec (.spawn d a b) s = .next t ∧ GoesOn u t sel 2 :=
    run_one_done (i := .spawn d a b) rfl ha (Nat.succ_ne_zero 1) hwf rfl
      ((operands_regs { s with sel := none } key _ [] none noCheck _ hregs (fun _ h => nomatch h) ha.2.2.2 hempty rfl).trans hu)
  refine ⟨fun hroom => ?_, fun slots pad bar tile hroom => ?_⟩
  · obtain ⟨t, ht, hgo⟩ := hrun (State.spawnGroup_full (s := { s with sel := none }) h1 h1024 hcanon heven hperf hroom)
    exact changes_of_goesOn ha.2.1 ht hgo
  · obtain ⟨t, ht, heq, hkey, hother, -⟩ := hrun
      (State.spawnGroup_placed (s := { s with sel := none }) h1 h1024 hcanon heven hperf hroom hkept)
    obtain ⟨hmem, hrunning, hkernel, hgnum, hc, hsize, hpad, hspawned, hnext, hslots, hrest⟩ :=
      State.spawned_spec { s with sel := none } key n entry (((List.range 8).map (· + b.toNat)).map x.rdG) (room_nodup hroom) pad bar tile
    have hkey : t.thr key = stepPast _ _ 2 := hkey k (by rw [ha.2.1]; exact List.mem_singleton_self k)
    have hother {j : Nat} (hj : j ≠ key) : t.thr j = (State.spawned { s with sel := none } key n entry
        (((List.range 8).map (· + b.toNat)).map x.rdG) slots pad bar tile).thr j := by
      rw [hother j (fun i hi => by rw [ha.2.1, List.mem_singleton] at hi; rw [hi]; exact hj), State.modThr_thr_ne _ _ _ hj]
    have hg (g : Nat) : t.group g = (State.spawned { s with sel := none } key n entry (((List.range 8).map (· + b.toNat)).map x.rdG)
        slots pad bar tile).group g := by rw [heq]; rfl
    rw [← hg] at hrunning hkernel hgnum hc hsize hpad hspawned
    refine ⟨t, ht, hrunning, hkernel, hgnum, hc, hsize, hpad, hspawned, ?_, ?_, fun a => ?_, fun j hj hq => ?_, fun i q hi hq => ?_⟩
    · rw [heq]
      exact hnext
    · rw [hkey, stepPast_rdG, State.modThr_thr_self, wrG_rdG (by omega)]
      rfl
    · rw [heq]
      exact congrArg (fun m : Memory => m.get a) hmem
    · exact (hother hj).trans (hrest j hq)
    · have hy := (hother hq).trans (hslots i q hi)
      rw [List.map_map] at hy
      rw [hy]
      refine ⟨rfl, rfl, rfl, rfl, rfl, rfl, spawnThread_rdA .., fun m hm => ?_⟩
      rw [spawnThread_rdG _ _ _ _ _ _ _ hm, Function.comp_apply, Nat.add_comm]

/-- Settles O7: the thread that EXITs keeps all but its run state, and the group of a last thread retires; a spawned group takes the next
number of its kernel, which the spawning thread reads. -/
theorem exitsAndSpawns : Obligations.ExitsAndSpawns := ⟨exits, spawns⟩

end Sys2Proof.Machine
end

section
/-! What stores at a home, walks and lines of an L2 do has nothing to do with the threads: each commutes with a change of the threads'
table (R99–R108, R133, R144, R213). -/

namespace Sys2Proof.Machine

namespace State

/-- The state with another table of threads. -/
def withThreads (s : State) (th : Tab Thread) : State := { s with threads := th }

variable {th : Tab Thread}

theorem foldl_withThreads {β : Type} {f : State → β → State} (h : ∀ s x, f (s.withThreads th) x = (f s x).withThreads th) (l : List β)
    (s : State) : l.foldl f (s.withThreads th) = (l.foldl f s).withThreads th := by
  induction l generalizing s with
  | nil => rfl
  | cons x r ih => rw [List.foldl_cons, List.foldl_cons, h, ih]

theorem withThreads_ite (c : Prop) [Decidable c] (a b : State) :
    (if c then a else b).withThreads th = if c then a.withThreads th else b.withThreads th := apply_ite (withThreads · th) c a b

/-! Stores at a home. -/

@[simp] theorem forward_withThreads (s : State) (w : Nat) : (s.withThreads th).forward w = (s.forward w).withThreads th := by
  unfold forward
  rw [show (s.withThreads th).ownerOf w = s.ownerOf w from rfl]
  cases s.ownerOf w <;> rfl

@[simp] theorem revoke_withThreads (s : State) (w : Nat) : (s.withThreads th).revoke w = (s.revoke w).withThreads th := by
  unfold revoke
  rw [show (s.withThreads th).ownerOf w = s.ownerOf w from rfl]
  cases s.ownerOf w with
  | none => rfl
  | some c =>
    dsimp only
    rw [withThreads_ite]
    rfl

theorem homeStoreRaw_withThreads (s : State) (pa : Nat) (bs : List Byte) :
    (s.withThreads th).homeStoreRaw pa bs = (s.homeStoreRaw pa bs).withThreads th := by
  unfold homeStoreRaw
  dsimp only
  rw [foldl_withThreads (fun u w => ?_)]
  · rfl
  · rw [revoke_withThreads, forward_withThreads]
    rw [withThreads_ite]
    rfl

section
variable {put : State → Nat → List Byte → State} (hput : ∀ s pa bs, put (s.withThreads th) pa bs = (put s pa bs).withThreads th)
include hput

theorem queueToBy_withThreads (s : State) (p : Nat) (e : ErrRec) :
    queueToBy put (s.withThreads th) p e = (queueToBy put s p e).withThreads th := by
  unfold queueToBy
  rw [show (s.withThreads th).part p = s.part p from rfl]
  dsimp only
  rw [hput]
  split_ifs <;> rfl

theorem emitBy_withThreads (s : State) (e : ErrRec) : emitBy put (s.withThreads th) e = (emitBy put s e).withThreads th := by
  unfold emitBy
  rw [queueToBy_withThreads hput]
  rfl

theorem logBy_withThreads (s : State) (e : ErrRec) : logBy put (s.withThreads th) e = (logBy put s e).withThreads th := by
  unfold logBy
  rw [show (s.withThreads th).now = s.now from rfl]
  dsimp only
  rw [show (s.withThreads th).pendingOf _ = s.pendingOf _ from rfl, emitBy_withThreads hput]
  cases s.pendingOf { e with time := s.now } with
  | none =>
    dsimp only
    rw [withThreads_ite]
    rfl
  | some kp =>
    dsimp only
    rw [emitBy_withThreads hput, emitBy_withThreads hput]
    split_ifs <;> rfl

theorem putEntryBy_withThreads (s : State) (key : Nat) (old : Word) (bad : Bool) (e : Option (Bool × Nat)) :
    putEntryBy put (s.withThreads th) key old bad e = (putEntryBy put s key old bad e).withThreads th := by
  match e with
  | none => rfl
  | some (true, _) => rfl
  | some (false, a) =>
    simp only [putEntryBy, hput]
    rfl

theorem captureWordBy_withThreads (s : State) (w p n opnd idx : Nat) (old : Word) (bad : Bool) :
    captureWordBy put (s.withThreads th) w p n opnd idx old bad = (captureWordBy put s w p n opnd idx old bad).withThreads th := by
  unfold captureWordBy
  dsimp only
  simp only [show (s.withThreads th).part p = s.part p from rfl, show (s.withThreads th).beforeCut = s.beforeCut from rfl,
    show (s.withThreads th).diesOf = s.diesOf from rfl,
    show ∀ f, (s.withThreads th).modPart p f = (s.modPart p f).withThreads th from fun _ => rfl,
    logBy_withThreads hput, putEntryBy_withThreads hput, withThreads_ite]

theorem captureInBy_withThreads (s : State) (w p n : Nat) :
    captureInBy put (s.withThreads th) w p n = (captureInBy put s w p n).withThreads th := by
  unfold captureInBy
  rw [show (s.withThreads th).part p = s.part p from rfl]
  dsimp only
  rw [foldl_withThreads (fun u r => ?_)]
  · rw [withThreads_ite]
  · rw [captureWordBy_withThreads hput, captureWordBy_withThreads hput]
    split_ifs <;> rfl

theorem captureBy_withThreads (s : State) (ws : List Nat) :
    captureBy put (s.withThreads th) ws = (captureBy put s ws).withThreads th := by
  refine foldl_withThreads (f := fun s w => s.parts.cells.foldl (fun s p => p.2.bindings.cells.foldl (fun s b =>
    captureInBy put s w p.1 b.1) s) s) (fun u w => ?_) (ws.filter (fun w => !s.shared (4 * w))) s
  exact foldl_withThreads (f := fun s p => p.2.bindings.cells.foldl (fun s b => captureInBy put s w p.1 b.1) s) (fun v p =>
    foldl_withThreads (fun x b => captureInBy_withThreads hput x w p.1 b.1) p.2.bindings.cells v) u.parts.cells u

end

theorem writeHome_withThreads (n : Nat) (s : State) (pa : Nat) (bs : List Byte) :
    writeHome n (s.withThreads th) pa bs = (writeHome n s pa bs).withThreads th := by
  induction n generalizing s pa bs with
  | zero => exact homeStoreRaw_withThreads s pa bs
  | succ n ih => rw [writeHome, writeHome, captureBy_withThreads ih, homeStoreRaw_withThreads]

theorem homeStore_withThreads (s : State) (pa : Nat) (bs : List Byte) :
    (s.withThreads th).homeStore pa bs = (s.homeStore pa bs).withThreads th := writeHome_withThreads 4096 s pa bs

/-! Lines of an L2. -/

@[simp] theorem burst_withThreads (s : State) (pa n : Nat) : (s.withThreads th).burst pa n = (s.burst pa n).withThreads th := rfl

@[simp] theorem countLine_withThreads (s : State) (die pa : Nat) :
    (s.withThreads th).countLine die pa = (s.countLine die pa).withThreads th := rfl

@[simp] theorem modDie_withThreads (s : State) (d : Nat) (f : Die → Die) :
    (s.withThreads th).modDie d f = (s.modDie d f).withThreads th := rfl

@[simp] theorem modCore_withThreads (s : State) (c : Nat) (f : Core → Core) :
    (s.withThreads th).modCore c f = (s.modCore c f).withThreads th := rfl

@[simp] theorem cleanLine_withThreads (s : State) (die pa : Nat) :
    (s.withThreads th).cleanLine die pa = (s.cleanLine die pa).withThreads th := by
  unfold cleanLine
  dsimp only
  rw [withThreads_ite]
  rfl

@[simp] theorem useSys_withThreads (s : State) (die pa n : Nat) (wr : Bool) :
    (s.withThreads th).useSys die pa n wr = (s.useSys die pa n wr).withThreads th := by
  unfold useSys
  rw [foldl_withThreads (fun u a => countLine_withThreads u die a)]
  dsimp only
  rw [foldl_withThreads (fun u a => cleanLine_withThreads u die a), ← withThreads_ite, burst_withThreads]

@[simp] theorem dropLine_withThreads (s : State) (die k : Nat) (x : L2Line) :
    (s.withThreads th).dropLine die k x = (s.dropLine die k x).withThreads th := by
  unfold dropLine
  dsimp only
  rw [foldl_withThreads forward_withThreads, burst_withThreads, ← modDie_withThreads, withThreads_ite]
  rfl

@[simp] theorem useLine_withThreads (s : State) (die pa : Nat) (tenant : Option Nat) (first wr : Bool) :
    (s.withThreads th).useLine die pa tenant first wr = (s.useLine die pa tenant first wr).withThreads th := by
  unfold useLine
  rw [useSys_withThreads, countLine_withThreads, show (s.withThreads th).shared pa = s.shared pa from rfl]
  generalize s.countLine die pa = u
  dsimp only
  rw [show (u.withThreads th).l2Place die pa = u.l2Place die pa from rfl, show (u.withThreads th).die = u.die from rfl]
  split
  · rfl
  · cases ((u.die (u.l2Place die pa).1).l2.get (u.l2Place die pa).2).find? (fun x => x.line == pa / 128) with
    | some x => rfl
    | none =>
      dsimp only
      rw [← modDie_withThreads, ← burst_withThreads, withThreads_ite]
      cases l2Victim (u.die (u.l2Place die pa).1) ((u.die (u.l2Place die pa).1).l2.get (u.l2Place die pa).2) with
      | none => rfl
      | some v =>
        dsimp only
        rw [dropLine_withThreads]

theorem homeLoad_withThreads (s : State) (pa n : Nat) : (s.withThreads th).homeLoad pa n = s.homeLoad pa n := by
  induction n generalizing pa with
  | zero => rfl
  | succ n ih =>
    rw [homeLoad, homeLoad, ih]
    rfl

theorem walkReads_withThreads (s : State) (die va n table : Nat) :
    (s.withThreads th).walkReads die va n table = s.walkReads die va n table := by
  induction n generalizing table with
  | zero => rfl
  | succ n ih =>
    rw [walkReads, walkReads, ih, homeLoad_withThreads]
    rfl

theorem walkFrom_withThreads (s : State) (die : Option Nat) (va n table : Nat) :
    (s.withThreads th).walkFrom die va n table = s.walkFrom die va n table := by
  induction n generalizing table with
  | zero => rfl
  | succ n ih =>
    rw [walkFrom, walkFrom, ih, homeLoad_withThreads]
    rfl

@[simp] theorem readPath_withThreads (s : State) (die : Nat) (asid : BitVec 16) (va : Nat) :
    (s.withThreads th).readPath die asid va = (s.readPath die asid va).withThreads th := by
  unfold readPath
  rw [foldl_withThreads (f := fun s a => s.useLine die a (s.tenantOfProcess asid) false false)
    (fun u a => useLine_withThreads u die a (u.tenantOfProcess asid) false false), withThreads_ite,
    walkReads_withThreads]
  rfl

theorem setLeafBits_withThreads (s : State) (a low : Nat) :
    (s.withThreads th).setLeafBits a low = (s.setLeafBits a low).withThreads th := by
  rw [setLeafBits, homeStore_withThreads, burst_withThreads, setLeafBits]

/-! Walks and translations. -/

theorem dirtied_withThreads (s : State) (pa level : Nat) : (s.withThreads th).dirtied pa level = (s.dirtied pa level).withThreads th := by
  unfold dirtied
  dsimp only
  rw [foldl_withThreads (fun u i => rfl), withThreads_ite]
  rfl

theorem walkRoot_withThreads (s : State) (root : Nat) (die : Option Nat) (asid : BitVec 16) (va : Nat) (n : Need) :
    (s.withThreads th).walkRoot root die asid va n = (s.walkRoot root die asid va n).map (fun r => (r.1.withThreads th, r.2)) := by
  unfold walkRoot
  by_cases hroot : root = 0
  · rw [if_pos hroot, if_pos hroot]
    rfl
  · rw [if_neg hroot, if_neg hroot, walkFrom_withThreads]
    cases s.walkFrom die va 5 (root - 1) with
    | error f => rfl
    | ok r =>
      obtain ⟨a, pte, level⟩ := r
      dsimp only
      rw [setLeafBits_withThreads, ← withThreads_ite, dirtied_withThreads, ← withThreads_ite, apply_ite (Except.map _),
        apply_ite (Except.map _)]
      rfl

theorem walk_withThreads (s : State) (die : Nat) (asid : BitVec 16) (va : Nat) (n : Need) :
    (s.withThreads th).walk die asid va n = (s.walk die asid va n).map (fun r => (r.1.withThreads th, r.2)) := by
  unfold walk
  rw [readPath_withThreads, walkRoot_withThreads]
  rfl

theorem tlbHit_withThreads (s : State) (core : Nat) (asid : BitVec 16) (va : Nat) (n : Need) :
    (s.withThreads th).tlbHit core asid va n = (s.tlbHit core asid va n).map (fun r => (r.1.withThreads th, r.2)) := by
  unfold tlbHit
  rw [show (s.withThreads th).core = s.core from rfl, show (s.withThreads th).die = s.die from rfl]
  cases tlbFind (s.core core).tlb asid va n with
  | some e => rfl
  | none =>
    dsimp only
    cases tlbFind (s.die (coreDie core)).tlb asid va n <;> rfl

theorem translate_withThreads (s : State) (core : Nat) (asid : BitVec 16) (va : Nat) (n : Need) :
    (s.withThreads th).translate core asid va n = (s.translate core asid va n).map (fun r => (r.1.withThreads th, r.2)) := by
  unfold translate walkFill
  rw [tlbHit_withThreads, walk_withThreads]
  cases s.tlbHit core asid va n with
  | some r => rfl
  | none => cases s.walk (coreDie core) asid va n <;> rfl

/-- A translation leaves the threads. -/
theorem translate_threads {s t : State} {core : Nat} {asid : BitVec 16} {va pa : Nat} {n : Need}
    (h : s.translate core asid va n = .ok (t, pa)) : t.threads = s.threads := by
  have hth := translate_withThreads (th := s.threads) s core asid va n
  rw [show s.withThreads s.threads = s from rfl, h] at hth
  have ht : t = t.withThreads s.threads := (Prod.mk.inj (Except.ok.inj hth)).1
  rw [ht]
  rfl

end State
end Sys2Proof.Machine
end

section
/-! A fetch reads of the threads only what they are, not how their table lists them (R274). -/

namespace Sys2Proof.Machine

/-- Two tables that list the same threads, perhaps in another order, or one of them twice. -/
def SameThreads (a b : Tab Thread) : Prop := (∀ j, a.get j = b.get j) ∧ ∀ p : Nat × Thread → Bool, a.cells.any p = b.cells.any p

theorem SameThreads.refl (a : Tab Thread) : SameThreads a a := ⟨fun _ => rfl, fun _ => rfl⟩

theorem SameThreads.trans {a b c : Tab Thread} (h1 : SameThreads a b) (h2 : SameThreads b c) : SameThreads a c :=
  ⟨fun j => (h1.1 j).trans (h2.1 j), fun p => (h1.2 p).trans (h2.2 p)⟩

/-- A value that is written where it stands is listed once more at most. -/
theorem any_insertKey_same {α : Type} {k : Nat} {v : α} {l : List (Nat × α)} (h : lookup k l = some v) (p : Nat × α → Bool) :
    (insertKey k v l).any p = l.any p := by
  induction l with
  | nil => exact nomatch h
  | cons c r ih =>
    obtain ⟨j, x⟩ := c
    rw [lookup] at h
    rw [insertKey]
    by_cases hj : j = k
    · rw [if_pos hj] at h
      rw [if_neg (by omega), if_pos hj.symm, hj, Option.some.inj h]
    · rw [if_neg hj] at h
      split_ifs with hlt heq
      · rw [List.any_cons]
        by_cases hp : p (k, v) = true
        · rw [hp, List.any_eq_true.2 ⟨_, List.mem_cons_of_mem _ (mem_of_lookup h), hp⟩]
          rfl
        · rw [Bool.eq_false_iff.2 hp, Bool.false_or]
      · exact absurd heq.symm hj
      · rw [List.any_cons, List.any_cons, ih h]

theorem sameThreads_set_get {a : Tab Thread} {k : Nat} (h : a.get k ≠ default) : SameThreads (a.set k (a.get k)) a := by
  refine ⟨fun j => ?_, fun p => ?_⟩
  · rw [Tab.get_set]
    split_ifs with hj
    · rw [hj]
    · rfl
  · rw [Tab.set, if_neg h]
    refine any_insertKey_same ?_ p
    have hlisted : a.get k = (lookup k a.cells).getD default := rfl
    cases hl : lookup k a.cells with
    | none => exact absurd (hlisted.trans (by rw [hl]; rfl)) h
    | some x => rw [hlisted, hl]; rfl

namespace Fetched

/-- The same outcome, with another state where bytes were read. -/
def onState (f : State → State) : Fetched → Fetched
  | .bytes s bs => .bytes (f s) bs
  | r => r

end Fetched

namespace State
variable {s : State} {th : Tab Thread}

theorem codeBlock_withThreads (h : SameThreads th s.threads) (t b : Nat) :
    (s.withThreads th).codeBlock t b = ((s.codeBlock t b).1.withThreads th, (s.codeBlock t b).2) := by
  have hheld (core b : Nat) : (s.withThreads th).blockHeld core b = s.blockHeld core b := h.2 _
  unfold codeBlock
  dsimp only
  rw [hheld, useLine_withThreads, modCore_withThreads, apply_ite (fun r : State × List Byte => (r.1.withThreads th, r.2))]
  simp only [hheld]
  rfl

theorem fetchPart_withThreads (h : SameThreads th s.threads) (t va n : Nat) :
    (s.withThreads th).fetchPart t va n = (s.fetchPart t va n).onState (·.withThreads th) := by
  have hkernel : (s.withThreads th).kernelOf t = s.kernelOf t := congrArg (fun x : Thread => (s.group x.group).kernel) (h.1 t)
  have htaken : (s.withThreads th).walkersTaken (s.coreOf t) (s.ctx (keyCtx t)).asid va =
      s.walkersTaken (s.coreOf t) (s.ctx (keyCtx t)).asid va := by
    unfold walkersTaken
    rw [tlbHit_withThreads, Option.isNone_map]
    rfl
  unfold fetchPart
  dsimp only
  rw [hkernel, show (s.withThreads th).coreOf t = s.coreOf t from rfl, show (s.withThreads th).ctx = s.ctx from rfl,
    show (s.withThreads th).kernel = s.kernel from rfl, htaken, translate_withThreads, apply_ite (Fetched.onState _),
    apply_ite (Fetched.onState _)]
  cases htr : s.translate (s.coreOf t) (s.ctx (keyCtx t)).asid va .fetch with
  | error f => rfl
  | ok r =>
    obtain ⟨s1, pa⟩ := r
    have hcode := codeBlock_withThreads (s := s1) (th := th) (by rw [translate_threads htr]; exact h) t (pa / 64)
    have hread (i : Nat) : ((s1.withThreads th).poison.get ((pa + i) / 4) || (s1.withThreads th).homeLost (s.coreOf t) (pa + i)) =
      (s1.poison.get ((pa + i) / 4) || s1.homeLost (s.coreOf t) (pa + i)) := rfl
    dsimp only [Except.map]
    simp only [hread, hcode, show (s1.withThreads th).core = s1.core from rfl]
    cases (List.range n).find? (fun i => s1.poison.get ((pa + i) / 4) || s1.homeLost (s.coreOf t) (pa + i)) with
    | some i => rfl
    | none =>
      dsimp only
      rw [apply_ite (Fetched.onState _)]
      rfl

/-- A parcel that has been fetched is fetched too where the same threads stand in another table. -/
theorem fetch_withThreads {v : State} {bs : List Byte} {t va : Nat} (h : SameThreads th s.threads) (hf : s.fetch t va 2 = .bytes v bs) :
    (s.withThreads th).fetch t va 2 = .bytes (v.withThreads th) bs := by
  unfold fetch fetchParcels at hf ⊢
  rw [fetchPart_withThreads h]
  revert hf
  cases s.fetchPart t va 2 with
  | bytes u b =>
    intro hf
    obtain ⟨rfl, rfl⟩ := Fetched.bytes.inj hf
    rfl
  | fault f => exact fun hf => nomatch hf
  | poison pa => exact fun hf => nomatch hf
  | wait => exact fun hf => nomatch hf

theorem fetch_threads {v : State} {bs : List Byte} {t va : Nat} (hf : s.fetch t va 2 = .bytes v bs) : v.threads = s.threads := by
  have hth := fetch_withThreads (.refl s.threads) hf
  rw [show s.withThreads s.threads = s from rfl, hf] at hth
  have hv : v = v.withThreads s.threads := (Fetched.bytes.inj hth).1
  rw [hv]
  rfl

end State
end Sys2Proof.Machine
end

section
/-! A control transfer that traps (R264). -/

namespace Sys2Proof.Machine

/-- The control transfers. -/
def isTransfer (i : Instr) : Prop := (∃ p n o, i = .br p n o ∨ i = .call p n o) ∨ (∃ d a, i = .jmp a ∨ i = .ret a ∨ i = .jcall d a)

/-- A control transfer is issued as an instruction of two parcels that ends its clause. -/
theorem transfer_issue {i : Instr} (h : isTransfer i) : i.parcels = 2 ∧ (∃ op, ∀ s, exec i s = s.run i false op) ∧
    ∀ s t, State.mayStand s t i = (s.thr t).lastOf 2 := by
  obtain ⟨p, n, o, rfl | rfl⟩ | ⟨d, a, rfl | rfl | rfl⟩ := h
  all_goals exact ⟨rfl, ⟨_, fun _ => rfl⟩, fun _ _ => rfl⟩

theorem transfer_notLast {i : Instr} (hi : isTransfer i) {s : State} {sel : Sel} {k : Nat} (ha : Alone s sel k 2)
    (hlast : (s.thr (sel.key k)).lastOf 2 = false) : TrapsAs i s sel k (trapOf .illegal) := by
  obtain ⟨hp, ⟨op, hex⟩, hmay⟩ := transfer_issue hi
  have hin : State.insideClause (({ s with sel := none } : State).thr (sel.key k)) i.parcels = true := by
    rw [hp]
    exact ha.2.2.1
  have hgated : gated i op { s with sel := none } (sel.key k) = illegal := by
    cases hwf : i.wf with
    | true => exact gated_of_not_mayStand hwf hin ((hmay _ _).trans hlast)
    | false => exact gated_of_not_wf hwf hin
  exact (hex s).trans (issue_one_trap ha.1 ha.2.1 hgated)

namespace State
variable {s : State} {t : Nat} {a : DWord} {link : Thread → Thread}

theorem transfer_badAddress (h : canonical a = false ∨ a.toNat % 2 = 1) : s.transfer t a link = .trap (trapAt .address a) := by
  rw [transfer, if_pos (by simpa using h)]

theorem transfer_fetches (hc : canonical a = true) (he : a.toNat % 2 = 0) {v : State} {bs : List Byte}
    (hf : s.fetch t a.toNat 2 = .bytes v bs) : s.transfer t a link =
      if headerParcel bs then .done (v.modThr t link) (some a) else .trap (trapAt .target a) := by
  rw [transfer, if_neg (by simp [hc, he]), hf]

theorem transfer_header (h : HeaderAt s t a) : s.transfer t a link = .done ((fetchedAt s t a).modThr t link) (some a) := by
  obtain ⟨hc, he, v, bs, hf, hhead⟩ := h
  rw [transfer_fetches hc he hf, if_pos hhead, fetchedAt, hf]

end State

theorem transferTraps : Parts.TransferTraps := by
  refine ⟨fun i hi s sel k ha hlast => transfer_notLast hi ha hlast, ?_⟩
  intro i a hi s sel k ha hlast v
  have hop {info : TrapInfo} (hop : ∀ link, State.transfer { s with sel := none } (sel.key k) v link = .trap info) :
      TrapsAs i s sel k info := by
    obtain rfl | rfl | ⟨d, rfl⟩ := hi
    all_goals exact run_traps rfl ha rfl hlast (hop _)
  refine ⟨fun hbad => hop (fun link => State.transfer_badAddress hbad), fun hc he ⟨w, bs, hf, hhead⟩ => hop (fun link => ?_)⟩
  rw [State.transfer_fetches hc he hf, if_neg (by rw [hhead]; decide)]

end Sys2Proof.Machine
end

section
/-! A troupe whose threads go to several places (R37, R38). -/

namespace Sys2Proof.Machine

/-- A thread after an instruction of n parcels: at the header of its target, or behind the instruction; skid is counted (R42). -/
def landed (s : State) (n : Nat) (x : Thread) (dest : Option DWord) : Thread :=
  let y := if (s.group x.group).state = .halting ∧ (s.group x.group).haltAt < s.cycle then { x with skid := x.skid + 1 } else x
  match dest with
  | none => y.advance n
  | some h => y.atHeader h

theorem landed_congr {m u : State} {th : Tab Thread} (h : m = { u with threads := th }) (n : Nat) (x : Thread) (dest : Option DWord) :
    landed m n x dest = landed u n x dest := by
  rw [h]
  rfl

/-- The places to which threads go that perform f one after another. -/
def dests (f : State → Nat → State) (target : State → Nat → Option DWord) (c : Nat) : State → List Nat → List (Nat × Option DWord)
  | _, [] => []
  | u, k :: r => (k, target u (threadKey c k)) :: dests f target c (f u (threadKey c k)) r

section
variable (f : State → Nat → State) (target : State → Nat → Option DWord) (c : Nat)

theorem dests_slots (u : State) (l : List Nat) : (dests f target c u l).map Prod.fst = l := by
  induction l generalizing u with
  | nil => rfl
  | cons k r ih => rw [dests, List.map_cons, ih]

theorem mem_dests (u : State) (pre : List Nat) (k : Nat) (post : List Nat) :
    (k, target (pre.foldl (fun u k => f u (threadKey c k)) u) (threadKey c k)) ∈ dests f target c u (pre ++ k :: post) := by
  induction pre generalizing u with
  | nil => exact List.mem_cons_self ..
  | cons j r ih => exact List.mem_cons_of_mem _ (ih _)

end

/-- The operations of a troupe's threads one after another, in step with f: R relates the states of the issue to those of f. -/
theorem foldl_add_goes {R : State → State → Prop} {op : State → Nat → TRes} {f : State → Nat → State}
    {target : State → Nat → Option DWord} {c : Nat} (l : List Nat) (a : Issued) (u : State) (hR : R a.st u)
    (hstep : ∀ pre k post, l = pre ++ k :: post → ∀ m, R m (pre.foldl (fun u k => f u (threadKey c k)) u) →
      ∃ m', op m (threadKey c k) = .done m' (target (pre.foldl (fun u k => f u (threadKey c k)) u) (threadKey c k)) ∧
        R m' (f (pre.foldl (fun u k => f u (threadKey c k)) u) (threadKey c k))) :
    ∃ m, R m (l.foldl (fun u k => f u (threadKey c k)) u) ∧
      l.foldl (Issued.add op c) a = { a with st := m, go := a.go ++ dests f target c u l } := by
  induction l generalizing a u with
  | nil => exact ⟨a.st, hR, by simp [dests]⟩
  | cons k r ih =>
    obtain ⟨m', hop, hR'⟩ := hstep [] k r rfl a.st hR
    have hadd : Issued.add op c a k = { a with st := m', go := a.go ++ [(k, target u (threadKey c k))] } := by
      rw [Issued.add, hop]
      rfl
    obtain ⟨m, hm, hfold⟩ := ih { a with st := m', go := a.go ++ [(k, target u (threadKey c k))] } (f u (threadKey c k)) hR'
      (fun pre j post hpre => hstep (k :: pre) j post (by rw [hpre]; rfl))
    refine ⟨m, hm, ?_⟩
    rw [List.foldl_cons, hadd, hfold, dests]
    simp

namespace State

/-- Each thread named once goes to its own place. -/
theorem goOn_each (s : State) (c : Nat) {n : Nat} (hn : n ≠ 0) {go : List (Nat × Option DWord)} (hd : (go.map Prod.fst).Nodup) :
    ∃ th, s.goOn c n go = { s with threads := th } ∧ (∀ e ∈ go, th.get (threadKey c e.1) = landed s n (s.thr (threadKey c e.1)) e.2) ∧
      ∀ j, (∀ e ∈ go, j ≠ threadKey c e.1) → th.get j = s.thr j := by
  induction go generalizing s with
  | nil => exact ⟨s.threads, rfl, by simp, fun _ _ => rfl⟩
  | cons e r ih =>
    obtain ⟨he, hr⟩ := List.nodup_cons.1 hd
    have hfirst : s.goOn c n (e :: r) = (s.modThr (threadKey c e.1) (fun x => landed s n x e.2)).goOn c n r := by
      unfold goOn
      rw [List.foldl_cons]
      congr 2
      funext x
      simp only [hn, ne_eq, not_false_eq_true, and_true]
      rfl
    obtain ⟨th, heq, hin, hout⟩ := ih (s.modThr (threadKey c e.1) (fun x => landed s n x e.2)) hr
    have hne : ∀ i ∈ r, e.1 ≠ i.1 := fun i hi h => he (h ▸ List.mem_map_of_mem hi)
    refine ⟨th, hfirst.trans heq, fun d hdm => ?_, fun j hj => ?_⟩
    · obtain rfl | hdm := List.mem_cons.1 hdm
      · rw [hout _ (fun i hi hk => hne i hi (threadKey_inj hk)), modThr_thr_self]
      · rw [hin d hdm, modThr_thr_ne _ _ _ (fun hk => hne d hdm (threadKey_inj hk).symm)]
        rfl
    · rw [hout j (fun i hi => hj i (List.mem_cons_of_mem _ hi)), modThr_thr_ne _ _ _ (hj e (List.mem_cons_self ..))]

theorem regroup_retrouped (s : State) (c : Nat) (old : Troupe) (header : Bool) (age : Nat) (go : List (Nat × Option DWord)) :
    Retrouped s (s.regroup c old header age go) := by
  unfold regroup
  dsimp only
  split
  · exact .trans (t := s.modCtx c _) rfl (foldl_addTroupe c (fun _ _ => age) (fun u _ => u.cycle + 3) _ _).1
  · split
    · exact .refl s
    · exact .trans (t := s.modCtx c _) rfl (foldl_addTroupe c (fun _ _ => age) (fun u _ => u.cycle + 3) _ _).1

end State

section
variable {R : State → State → Prop} {s : State} {sel : Sel} {n : Nat} {y : Bool} {op : State → Nat → TRes} {f : State → Nat → State}
  {target : State → Nat → Option DWord}

/-- The issue of an instruction whose threads all go on, each to its place: beside threads, troupe lists and issue slots the state is that
which their operations, in ascending slot order, have made of it. -/
theorem issue_goes (hs : s.sel = some sel) (hn : n ≠ 0) (hd : sel.slots.Nodup)
    (hshape : ∀ m u, R m u → m = { u with threads := m.threads } ∧ ∀ j, m.thr j = u.thr j)
    (h0 : R { s with sel := none } { s with sel := none })
    (hstep : ∀ pre k post, sel.slots = pre ++ k :: post → ∀ m, R m (turnOf s sel f pre) →
      ∃ m', op m (sel.key k) = .done m' (target (turnOf s sel f pre) (sel.key k)) ∧ R m' (f (turnOf s sel f pre) (sel.key k))) :
    ∃ t, s.issue n y op = .next t ∧
      t = { turnOf s sel f sel.slots with threads := t.threads, ctxs := t.ctxs, cores := t.cores, nextId := t.nextId } ∧
      (∀ pre k post, sel.slots = pre ++ k :: post →
        t.thr (sel.key k) = landed (turnOf s sel f sel.slots) n ((turnOf s sel f sel.slots).thr (sel.key k))
          (target (turnOf s sel f pre) (sel.key k))) ∧
      ∀ j, (∀ k ∈ sel.slots, j ≠ sel.key k) → t.thr j = (turnOf s sel f sel.slots).thr j := by
  have hturn : sel.slots.foldl (fun u k => f u (threadKey sel.ctx k)) { s with sel := none } = turnOf s sel f sel.slots := rfl
  obtain ⟨m, hm, hfold⟩ := foldl_add_goes (target := target) sel.slots { st := { s with sel := none } } { s with sel := none } h0 hstep
  rw [hturn] at hm
  obtain ⟨hmu, hthr⟩ := hshape _ _ hm
  rw [List.nil_append] at hfold
  have hslots := dests_slots f target sel.ctx { s with sel := none } sel.slots
  obtain ⟨th, hgo, hin, hout⟩ := m.goOn_each sel.ctx hn (go := dests f target sel.ctx { s with sel := none } sel.slots)
    (by rw [hslots]; exact hd)
  unfold State.issue
  rw [hs]
  simp only [hfold, List.isEmpty_nil, Bool.not_true, Bool.false_eq_true, if_false]
  refine ⟨_, rfl, ?_⟩
  unfold State.finish
  simp only [List.foldl_nil]
  rw [hgo, if_neg hn]
  generalize hw : State.regroup _ _ _ _ _ _ = w
  have hre : State.Retrouped _ w := hw ▸ State.regroup_retrouped _ _ _ _ _ _
  generalize hv : State.noteIssue _ _ _ _ = v
  obtain ⟨cs, hvw⟩ : ∃ cs, v = { w with cores := cs } := ⟨_, hv.symm.trans rfl⟩
  have heq : v = { turnOf s sel f sel.slots with threads := th, ctxs := w.ctxs, nextId := w.nextId, cores := cs } := by
    refine hvw.trans (congrArg (fun u : State => { u with cores := cs }) (Eq.trans hre ?_ : w = { turnOf s sel f sel.slots with
      threads := th, ctxs := w.ctxs, nextId := w.nextId }))
    rw [hmu]
    rfl
  have hat (j : Nat) : v.thr j = th.get j := by rw [heq]; rfl
  refine ⟨by rw [heq], ?_, ?_⟩
  · intro pre k post hpre
    have hmem : (k, target (turnOf s sel f pre) (sel.key k)) ∈ dests f target sel.ctx { s with sel := none } sel.slots := by
      rw [hpre]
      exact mem_dests f target sel.ctx { s with sel := none } pre k post
    rw [hat, ← hthr, ← landed_congr hmu]
    exact hin _ hmem
  · intro j hj
    rw [hat, hout j (fun e he => ?_), hthr]
    have hslot : e.1 ∈ sel.slots := by
      rw [← hslots]
      exact List.mem_map_of_mem he
    exact hj e.1 hslot

end

/-- A control transfer, whose threads stand where it may be issued, is an instruction whose threads all go on. -/
theorem transfersAs_of_step {R : State → State → Prop} {i : Instr} {op : State → Nat → TRes} {p : State → Nat → Prop}
    {f : State → Nat → State} {target : State → Nat → Option DWord} (hex : ∀ s, exec i s = s.run i false op) (hp : i.parcels = 2)
    (hwf : i.wf = true) (hmay : ∀ s t, State.mayStand s t i = (s.thr t).lastOf 2)
    (hshape : ∀ m u, R m u → m = { u with threads := m.threads } ∧ ∀ j, m.thr j = u.thr j) (hrefl : ∀ u, R u u)
    (hlast : ∀ u t, p u t → (u.thr t).lastOf 2 = true)
    (hop : ∀ m u t, R m u → (u.thr t).gate = true → p u t → ∃ m', op m t = .done m' (target u t) ∧ R m' (f u t)) :
    TransfersAs i p f target := by
  rintro s sel ⟨hs, -, hd, hturn⟩
  rw [hex, run_eq_issue, hp]
  refine issue_goes hs (by decide) hd hshape (hrefl _) (fun pre k post hpre m hm => ?_)
  obtain ⟨hin, hlost, hpu⟩ := hturn pre k post hpre
  have hthr := (hshape _ _ hm).2 (sel.key k)
  have hgate : ((turnOf s sel f pre).thr (sel.key k)).gate = true := by
    simp only [State.insideClause, Bool.and_eq_true] at hin
    exact hin.1.1
  rw [gated_passes hwf (by rw [hthr]; exact hin) ((hmay _ _).trans (by rw [hthr]; exact hlast _ _ hpu)) (by rw [hthr]; exact hlost)]
  exact hop _ _ _ hm hgate hpu

end Sys2Proof.Machine
end

section
/-! Where the control transfers go (R295–R297). -/

namespace Sys2Proof.Machine

/-- The first state is the second, but for the way in which its table lists the threads. -/
def Relisted (m u : State) : Prop := ∃ th, m = u.withThreads th ∧ SameThreads th u.threads

theorem Relisted.refl (u : State) : Relisted u u := ⟨u.threads, rfl, .refl _⟩

theorem Relisted.shape {m u : State} (h : Relisted m u) : m = { u with threads := m.threads } ∧ ∀ j, m.thr j = u.thr j := by
  obtain ⟨th, rfl, hth⟩ := h
  exact ⟨rfl, hth.1⟩

/-- A jump without a link, in step with its fetch. -/
theorem Relisted.jump {m u : State} (h : Relisted m u) {t : Nat} {a : DWord} (hgate : (u.thr t).gate = true) (hhead : HeaderAt u t a) :
    ∃ m', m.transfer t a id = .done m' (some a) ∧ Relisted m' (fetchedAt u t a) := by
  obtain ⟨th, rfl, hth⟩ := h
  obtain ⟨hc, he, v, bs, hf, hbs⟩ := hhead
  have hfth := State.fetch_withThreads hth hf
  have hlisted : th.get t ≠ default := by
    rw [hth.1]
    intro hdef
    rw [State.thr, hdef] at hgate
    exact Bool.false_ne_true hgate
  rw [State.transfer_header ⟨hc, he, _, bs, hfth, hbs⟩, fetchedAt, fetchedAt, hf, hfth]
  refine ⟨_, rfl, th.set t (th.get t), rfl, (sameThreads_set_get hlisted).trans ?_⟩
  rw [State.fetch_threads hf]
  exact hth

theorem branchTarget_eq (x : Thread) (o : BitVec 21) : branchTarget x o = x.pc + 2 * o.signExtend 64 := by
  have hdouble (v : BitVec 64) : v <<< 1 = 2 * v := BitVec.eq_of_toNat_eq (by
    rw [BitVec.toNat_shiftLeft, Nat.shiftLeft_eq, BitVec.toNat_mul, Nat.mul_comm]
    rfl)
  rw [branchTarget, hdouble]

theorem taken_iff (x : Thread) (p : BitVec 3) (n : BitVec 1) : taken x p n = true ↔ x.rdP p.toNat ≠ decide (n = 1) := by
  have hn : (n.toNat == 1) = decide (n = 1) := by
    revert n
    decide
  rw [taken, hn]
  cases x.rdP p.toNat <;> cases decide (n = 1) <;> decide

section
variable {p : BitVec 3} {n : BitVec 1} {o : BitVec 21} {link : Thread → Thread} {s : State} {t : Nat}

/-- A branch whose condition holds transfers to its target. -/
theorem branch_taken (h : (s.thr t).rdP p.toNat ≠ decide (n = 1)) :
    branch p n o link s t = s.transfer t ((s.thr t).pc + 2 * o.signExtend 64) link := by
  rw [branch, if_pos ((taken_iff _ _ _).2 h), branchTarget_eq]

/-- One whose condition fails does nothing. -/
theorem branch_not (h : ¬ (s.thr t).rdP p.toNat ≠ decide (n = 1)) : branch p n o link s t = .done s none := by
  rw [branch, if_neg (fun ht => h ((taken_iff _ _ _).1 ht))]

end

theorem br_transfers (p : BitVec 3) (n : BitVec 1) (o : BitVec 21) :
    let taken (x : Thread) : Prop := x.rdP p.toNat ≠ decide (n = 1)
    let target (x : Thread) : DWord := x.pc + 2 * o.signExtend 64
    TransfersAs (.br p n o) (fun u t => (u.thr t).lastOf 2 = true ∧ (taken (u.thr t) → HeaderAt u t (target (u.thr t))))
      (fun u t => if taken (u.thr t) then fetchedAt u t (target (u.thr t)) else u)
      (fun u t => if taken (u.thr t) then some (target (u.thr t)) else none) := by
  intro taken target
  refine transfersAs_of_step (R := Relisted) (fun _ => rfl) rfl rfl (fun _ _ => rfl) (fun _ _ h => h.shape) Relisted.refl
    (fun _ _ h => h.1) (fun m u t hm hgate hp => ?_)
  have hthr := hm.shape.2 t
  by_cases ht : taken (u.thr t)
  · obtain ⟨m', hop, hR⟩ := hm.jump hgate (hp.2 ht)
    rw [if_pos ht, if_pos ht]
    exact ⟨m', by rw [branch_taken (by rw [hthr]; exact ht), hthr]; exact hop, hR⟩
  · rw [if_neg ht, if_neg ht]
    exact ⟨m, branch_not (by rw [hthr]; exact ht), hm⟩

theorem call_transfers (p : BitVec 3) (n : BitVec 1) (o : BitVec 21) :
    let taken (x : Thread) : Prop := x.rdP p.toNat ≠ decide (n = 1)
    let target (x : Thread) : DWord := x.pc + 2 * o.signExtend 64
    TransfersAs (.call p n o) (fun u t => (u.thr t).lastOf 2 = true ∧ (taken (u.thr t) → HeaderAt u t (target (u.thr t))))
      (fun u t => if taken (u.thr t) then (fetchedAt u t (target (u.thr t))).modThr t (fun x => x.wrA 15 x.clauseEnd) else u)
      (fun u t => if taken (u.thr t) then some (target (u.thr t)) else none) := by
  intro taken target
  refine transfersAs_of_step (R := Eq) (fun _ => rfl) rfl rfl (fun _ _ => rfl) (fun _ _ h => h ▸ ⟨rfl, fun _ => rfl⟩) (fun _ => rfl)
    (fun _ _ h => h.1) (fun m u t hm _ hp => ?_)
  subst hm
  by_cases ht : taken (m.thr t)
  · rw [if_pos ht, if_pos ht]
    exact ⟨_, (branch_taken ht).trans (State.transfer_header (hp.2 ht)), rfl⟩
  · rw [if_neg ht, if_neg ht]
    exact ⟨m, branch_not ht, rfl⟩

/-- JMP and RET. -/
theorem jump_transfers {i : Instr} (a : BitVec 4) (hi : i = .jmp a ∨ i = .ret a) :
    TransfersAs i (fun u t => (u.thr t).lastOf 2 = true ∧ HeaderAt u t ((u.thr t).rdA a.toNat))
      (fun u t => fetchedAt u t ((u.thr t).rdA a.toNat)) (fun u t => some ((u.thr t).rdA a.toNat)) := by
  have hop (m u : State) (t : Nat) (hm : Relisted m u) (hgate : (u.thr t).gate = true)
      (hp : (u.thr t).lastOf 2 = true ∧ HeaderAt u t ((u.thr t).rdA a.toNat)) :
      ∃ m', m.transfer t ((m.thr t).rdA a.toNat) id = .done m' (some ((u.thr t).rdA a.toNat)) ∧
        Relisted m' (fetchedAt u t ((u.thr t).rdA a.toNat)) := by
    rw [hm.shape.2]
    exact hm.jump hgate hp.2
  obtain rfl | rfl := hi
  all_goals
    exact transfersAs_of_step (R := Relisted) (fun _ => rfl) rfl rfl (fun _ _ => rfl) (fun _ _ h => h.shape) Relisted.refl
      (fun _ _ h => h.1) hop

theorem jcall_transfers (d a : BitVec 4) :
    TransfersAs (.jcall d a) (fun u t => (u.thr t).lastOf 2 = true ∧ HeaderAt u t ((u.thr t).rdA a.toNat))
      (fun u t => (fetchedAt u t ((u.thr t).rdA a.toNat)).modThr t (fun x => x.wrA d.toNat x.clauseEnd))
      (fun u t => some ((u.thr t).rdA a.toNat)) := by
  refine transfersAs_of_step (R := Eq) (fun _ => rfl) rfl rfl (fun _ _ => rfl) (fun _ _ h => h ▸ ⟨rfl, fun _ => rfl⟩) (fun _ => rfl)
    (fun _ _ h => h.1) (fun m u t hm _ hp => ?_)
  subst hm
  exact ⟨_, State.transfer_header hp.2, rfl⟩

theorem controlTransfers : Parts.ControlTransfers :=
  ⟨fun p n o => ⟨br_transfers p n o, call_transfers p n o⟩,
    fun d a => ⟨jump_transfers a (.inl rfl), jump_transfers a (.inr rfl), jcall_transfers d a⟩⟩

/-- Settles O5: a transfer goes to the header that it fetches at its target, its link behind the clause, and traps where it does not end
its clause, where its target is no address of code, and where no header stands there. -/
theorem transfers : Obligations.Transfers := ⟨controlTransfers, transferTraps⟩

end Sys2Proof.Machine
end

section
/-! Barriers (R49–R57): what a barrier reads as once one has changed, what an arrival makes of its barrier, and the traps of the
barrier instructions. -/

namespace Sys2Proof.Machine

namespace State

section
variable (s : State) (c p : Nat) (b : Barrier)

theorem setBarrier_barrier (q : Nat) : (s.setBarrier c p b).barrier c q = if q = p then b else s.barrier c q := by
  rw [barrier, setBarrier, modCtx_ctx_self, Tab.get_set]
  rfl

@[simp] theorem setBarrier_barrier_self : (s.setBarrier c p b).barrier c p = b := by rw [setBarrier_barrier, if_pos rfl]

theorem setBarrier_barrier_ne {q : Nat} (h : q ≠ p) : (s.setBarrier c p b).barrier c q = s.barrier c q := by
  rw [setBarrier_barrier, if_neg h]

/-- A barrier that changes by a function of itself. -/
theorem setBarrier_barrier_map (f : Barrier → Barrier) (q : Nat) :
    (s.setBarrier c p (f (s.barrier c p))).barrier c q = if q = p then f (s.barrier c q) else s.barrier c q := by
  rw [setBarrier_barrier]
  split
  · next hq => rw [hq]
  · rfl

end

/-- The barrier with one arrival more, which the thread of a slot has marked as its own where it has a bit there (R52). -/
def counted (b : Barrier) (k : Nat) (own : Bool) : Barrier :=
  { b with count := b.count + 1, arrived := if own then b.arrived.set k true else b.arrived }

/-- The barrier when a phase is complete: the waiters go on when they are due (R52). -/
def completed (b : Barrier) (due : Nat) (ws : List Nat) : Barrier :=
  { b with phase := !b.phase, count := 0, arrived := {}, expect := b.expect - b.drops, drops := 0, releasing := b.releasing ++ [(due, ws)] }

/-- check_release where the count is complete. -/
theorem checkRelease_completes {s : State} {c p : Nat} (h0 : 0 < (s.barrier c p).expect)
    (h : (s.barrier c p).expect ≤ (s.barrier c p).count) :
    ∃ ws, s.checkRelease c p = s.setBarrier c p (completed (s.barrier c p) (s.cycle + 6) ws) := by
  unfold checkRelease
  dsimp only
  rw [if_pos ⟨h0, h⟩]
  exact ⟨_, rfl⟩

/-- check_release before the count is complete. -/
theorem checkRelease_waits {s : State} {c p : Nat} (h : (s.barrier c p).count < (s.barrier c p).expect) : s.checkRelease c p = s :=
  if_neg (fun hc => Nat.not_le.2 h hc.2)

theorem arrive_eq (u : State) (t p : Nat) (own : Bool) : u.arrive t p own =
    (u.setBarrier (keyCtx t) p (counted (u.barrier (keyCtx t) p) (keySlot t) own)).checkRelease (keyCtx t) p := rfl

/-- An arrival changes its barrier alone. -/
theorem arrive_ctxs (u : State) (t p : Nat) (own : Bool) : u.arrive t p own = { u with ctxs := (u.arrive t p own).ctxs } := by
  rw [arrive_eq, checkRelease_ctxs]
  rfl

theorem arrive_threads (u : State) (t p : Nat) (own : Bool) : (u.arrive t p own).threads = u.threads := by rw [arrive_ctxs]
theorem arrive_mem (u : State) (t p : Nat) (own : Bool) : (u.arrive t p own).mem = u.mem := by rw [arrive_ctxs]

theorem checkRelease_barrier_ne (s : State) (c : Nat) {p q : Nat} (h : q ≠ p) : (s.checkRelease c p).barrier c q = s.barrier c q := by
  by_cases hc : 0 < (s.barrier c p).expect ∧ (s.barrier c p).expect ≤ (s.barrier c p).count
  · obtain ⟨ws, heq⟩ := checkRelease_completes hc.1 hc.2
    rw [heq, setBarrier_barrier_ne _ _ _ _ h]
  · exact congrArg (fun u : State => u.barrier c q) (if_neg hc)

theorem arrive_barrier_ne (u : State) (t : Nat) {p q : Nat} (own : Bool) (h : q ≠ p) :
    (u.arrive t p own).barrier (keyCtx t) q = u.barrier (keyCtx t) q := by
  rw [arrive_eq, checkRelease_barrier_ne _ _ h, setBarrier_barrier_ne _ _ _ _ h]

/-- An arrival that completes the count. -/
theorem arrive_completes {u : State} {t p : Nat} (own : Bool) (h0 : 0 < (u.barrier (keyCtx t) p).expect)
    (h : (u.barrier (keyCtx t) p).expect ≤ (u.barrier (keyCtx t) p).count + 1) :
    ∃ ws, (u.arrive t p own).barrier (keyCtx t) p =
      completed (counted (u.barrier (keyCtx t) p) (keySlot t) own) (u.cycle + 6) ws := by
  let v := u.setBarrier (keyCtx t) p (counted (u.barrier (keyCtx t) p) (keySlot t) own)
  have hv : v.barrier (keyCtx t) p = counted (u.barrier (keyCtx t) p) (keySlot t) own := setBarrier_barrier_self ..
  obtain ⟨ws, heq⟩ := checkRelease_completes (s := v) (c := keyCtx t) (p := p) (by rwa [hv]) (by rwa [hv])
  exact ⟨ws, by rw [arrive_eq, heq, setBarrier_barrier_self, hv]; rfl⟩

/-- An arrival that leaves others to come. -/
theorem arrive_counts {u : State} {t p : Nat} (own : Bool)
    (h : (u.barrier (keyCtx t) p).count + 1 < (u.barrier (keyCtx t) p).expect) :
    (u.arrive t p own).barrier (keyCtx t) p = counted (u.barrier (keyCtx t) p) (keySlot t) own := by
  rw [arrive_eq, checkRelease_waits (by rwa [setBarrier_barrier_self]), setBarrier_barrier_self]

/-- The mark of the thread's own arrival stands, and one that stood before. -/
theorem counted_arrived (b : Barrier) (k : Nat) (own : Bool) : (counted b k own).arrived.get k = (own || b.arrived.get k) := by
  cases own
  · rfl
  · exact Tab.get_set_self b.arrived k true

end State

theorem arrivalsCount : Parts.ArrivalsCount := by
  intro u t p own b v c
  refine ⟨fun h0 h => ?completes, fun h => ?counts, fun q hq => State.arrive_barrier_ne u t own hq, State.arrive_threads u t p own,
    State.arrive_mem u t p own⟩
  case completes =>
    obtain ⟨ws, hc⟩ : ∃ ws, c = _ := State.arrive_completes own h0 h
    rw [hc]
    exact ⟨rfl, rfl, rfl, rfl, fun _ => rfl, List.length_append⟩
  case counts =>
    have hc : c = _ := State.arrive_counts own h
    rw [hc]
    exact ⟨rfl, rfl, rfl, rfl, rfl, State.counted_arrived b (keySlot t) own⟩

section
variable {s : State} {t n : Nat} {far own : Bool} {p : Nat} {k : State → Nat → Nat → Bool → TRes}

/-- A number that names no barrier of the thread's group (R50). -/
theorem onBarrier_unnamed (h : s.resolve t n far = none) : onBarrier n far k s t = .trap (trapOf .barrier) := by
  rw [onBarrier, h]

theorem onBarrier_named (h : s.resolve t n far = some (p, own)) : onBarrier n far k s t = k s t p own := by
  rw [onBarrier, h]

/-- No thread arrives at a DEAD barrier (R54). -/
theorem arriving_dead (h : (s.barrier (keyCtx t) p).dead = true) : arriving k s t p own = .trap (trapOf .barrier) := by
  simp only [arriving, h, Bool.true_or, if_true]

theorem arriving_arrives (h : MayArrive s t p own) : arriving k s t p own = k s t p own := by
  obtain ⟨hdead, hfirst, hreleased⟩ := h
  have hnew : (own && (s.barrier (keyCtx t) p).arrived.get (keySlot t)) = false := by
    cases own
    · rfl
    · exact hfirst rfl
  simp only [arriving, hdead, hnew, hreleased, Bool.or_self, Bool.not_true, Bool.false_eq_true, if_false]

end

theorem barrierTraps : Parts.BarrierTraps := by
  intro d b s sel k ha
  refine ⟨fun hnone => ⟨?sync, ?drop⟩, fun hwf hno => ?arrive⟩
  case sync => exact run_traps rfl ha rfl rfl (onBarrier_unnamed (s := { s with sel := none }) hnone)
  case drop => exact run_traps rfl ha rfl rfl (onBarrier_unnamed (s := { s with sel := none }) hnone)
  case arrive =>
    refine run_traps (i := .barArrive d b) rfl ha hwf rfl ?_
    obtain hnone | ⟨p, own, hsome, hdead⟩ := hno
    · exact onBarrier_unnamed (s := { s with sel := none }) hnone
    · exact (onBarrier_named (s := { s with sel := none }) hsome).trans (arriving_dead (s := { s with sel := none }) hdead)

/-- Settles O17: an arrival that completes its count by `arrive_completes`, one that does not by `arrive_counts`; the traps by
`onBarrier_unnamed` and `arriving_dead`. -/
theorem barrierCounts : Obligations.BarrierCounts := ⟨arrivalsCount, barrierTraps⟩

end Sys2Proof.Machine
end


section
/-! An instruction that nothing hinders reads its registers and ports (R65, R249, R275). -/

namespace Sys2Proof.Machine

/-- A source g field, its port already popped. -/
theorem gVal_eq (x : Thread) (g : BitVec 6) :
    State.gVal x g.toNat = if 60 ≤ g.toNat then (x.portIn.get (g.toNat - 60)).getD 0 else x.rdG g.toNat := by
  simp only [State.gVal, isPort, decide_eq_true_eq]

/-- Where nothing hinders the source fields, the operation has each of their ports popped once and the fields' values. -/
theorem operands_done {u v : State} {t : Nat} {gs : List (BitVec 6)} {ws : List Nat} {dst : Option Nat} {pre : Thread → Option TrapInfo}
    {k : State → List Word → TRes} (hlost : (u.thr t).lost = [])
    (h : Unhindered gs ws (dst.bind (fun d => if isPort d then some (d - 60) else none)) u t) (hpre : pre (u.thr t) = none)
    (hk : k (popped u t gs).1 (popped u t gs).2 = .done v none) :
    u.operands t (gs.map BitVec.toNat) ws dst pre k = .done (v.unlatch t (portsIn (gs.map BitVec.toNat))) none := by
  obtain ⟨hfull, hports⟩ := h
  have hvals : (gs.map BitVec.toNat).map (State.gVal ((popped u t gs).1.thr t)) = (popped u t gs).2 := by
    rw [List.map_map]
    exact List.map_congr_left (fun g _ => gVal_eq _ g)
  unfold State.operands
  simp only [usesLost_none _ _ hlost, hfull, hpre, hports, Bool.false_eq_true, if_false]
  rw [show (portsIn (gs.map BitVec.toNat)).foldl (fun s p => s.latchPort t p) u = (popped u t gs).1 from rfl, hvals, hk]

end Sys2Proof.Machine
end

section
/-! BAR.INIT and its range (R51); the barrier instructions as a whole (R52–R57, R314). -/

namespace Sys2Proof.Machine

namespace State

/-- A barrier that INIT has given its count (R51). -/
def initialised (e level n : Nat) (b : Barrier) : Barrier :=
  { b with expect := e, count := 0, arrived := {}, drops := 0, dead := false, level := level, rbase := n }

/-- A barrier of an older sub-group range from n is named directly again (log 11). -/
def unlevelled (n : Nat) (b : Barrier) : Barrier := if b.level ≠ 0 ∧ b.rbase = n then { b with level := 0 } else b

/-- INIT gives up an older range from n, for one barrier. -/
def unlevel (s : State) (c n p : Nat) : State :=
  let b := s.barrier c p
  if b.level ≠ 0 ∧ b.rbase = n then s.setBarrier c p { b with level := 0 } else s

/-- INIT's first part: the m barriers of the group, from its base. -/
def unlevelAll (s : State) (c base m n : Nat) : State := (List.range m).foldl (fun s i => s.unlevel c n (base + i)) s

/-- INIT's second part: the m barriers of its range. -/
def initAll (s : State) (c base m e level n : Nat) : State :=
  ((List.range m).map (· + base)).foldl (fun s p => s.setBarrier c p (initialised e level n (s.barrier c p))) s

/-- A fold whose steps change one barrier each by a function of itself changes m barriers from a base so. -/
theorem foldl_barriers {c : Nat} {g : State → Nat → State} {f : Barrier → Barrier}
    (hg : ∀ s p q, (g s p).barrier c q = if q = p then f (s.barrier c q) else s.barrier c q) (s : State) (base m q : Nat) :
    (((List.range m).map (base + ·)).foldl g s).barrier c q =
      if base ≤ q ∧ q < base + m then f (s.barrier c q) else s.barrier c q := by
  have hmem : q ∈ (List.range m).map (base + ·) ↔ base ≤ q ∧ q < base + m := by
    simp only [List.mem_map, List.mem_range]
    exact ⟨fun ⟨i, hi, h⟩ => by omega, fun h => ⟨q - base, by omega, by omega⟩⟩
  have hfold := foldl_at g (fun s p => s.barrier c p) f (fun _ => True) (fun s p q _ _ => hg s p q)
    (List.nodup_range.map (fun i j h => Nat.add_left_cancel h)) (fun _ _ => trivial) s (l := (List.range m).map (base + ·)) (j := q) trivial
  simp only [hmem] at hfold
  exact hfold

section
variable (s : State) (c base m n : Nat)

theorem unlevelAll_ctxs : s.unlevelAll c base m n = { s with ctxs := (s.unlevelAll c base m n).ctxs } :=
  foldl_ctxs _ (fun s i => by
    unfold unlevel
    dsimp only
    split <;> rfl) _ s

theorem unlevel_barrier (p q : Nat) :
    (s.unlevel c n p).barrier c q = if q = p then unlevelled n (s.barrier c q) else s.barrier c q := by
  unfold unlevel unlevelled
  by_cases hold : (s.barrier c p).level ≠ 0 ∧ (s.barrier c p).rbase = n
  · rw [if_pos hold, setBarrier_barrier]
    split
    · next hq => rw [hq, if_pos hold]
    · rfl
  · rw [if_neg hold]
    split
    · next hq => rw [hq, if_neg hold]
    · rfl

theorem unlevelAll_barrier (q : Nat) : (s.unlevelAll c base m n).barrier c q =
    let y := s.barrier c q
    if base ≤ q ∧ q < base + m ∧ y.level ≠ 0 ∧ y.rbase = n then { y with level := 0 } else y := by
  have hfold := foldl_barriers (g := fun s p => s.unlevel c n p) (fun s p q => unlevel_barrier s c n p q) s base m q
  rw [List.foldl_map] at hfold
  refine hfold.trans ?_
  simp only [unlevelled, ← ite_and, and_assoc]

theorem unlevelAll_phase (q : Nat) : ((s.unlevelAll c base m n).barrier c q).phase = (s.barrier c q).phase := by
  rw [unlevelAll_barrier]
  dsimp only
  split_ifs <;> rfl

theorem initAll_ctxs (e level : Nat) : s.initAll c base m e level n = { s with ctxs := (s.initAll c base m e level n).ctxs } :=
  foldl_ctxs _ (fun _ _ => rfl) _ s

theorem initAll_barrier (e level q : Nat) : (s.initAll c base m e level n).barrier c q =
    if base ≤ q ∧ q < base + m then initialised e level n (s.barrier c q) else s.barrier c q := by
  have hfold := foldl_barriers (c := c) (g := fun s p => s.setBarrier c p (initialised e level n (s.barrier c p)))
    (fun s p q => setBarrier_barrier_map s c p _ q) s base m q
  simpa only [initAll, Nat.add_comm base] using hfold

end

/-- The state that INIT of number n leaves, for level l, expected count k and m barriers in its range (R51). -/
def inited (s : State) (t n l m : Nat) (k : Word) : State :=
  let x := s.thr t
  let g := s.group x.group
  (s.unlevelAll (keyCtx t) g.barBase g.barCount n).initAll (keyCtx t) (g.barBase + n) m (if k = 0 then lvnProduct x 0 l else k.toNat)
    (if l = (s.kernel g.kernel).groupLevel then 0 else l) n

theorem inited_ctxs (s : State) (t n l m : Nat) (k : Word) : s.inited t n l m k = { s with ctxs := (s.inited t n l m k).ctxs } :=
  (initAll_ctxs ..).trans (congrArg (fun z : State => { z with ctxs := (s.inited t n l m k).ctxs }) (unlevelAll_ctxs ..))

/-- INIT where its operands are in range, its number names a barrier and no barrier of its range counts arrivals. -/
theorem barInit_done {s : State} {t n l top m : Nat} {k : Word} (htop : (s.kernel (s.group (s.thr t).group).kernel).groupLevel = top)
    (hm : (if l = top then 1 else lvnProduct (s.thr t) l top) = m) (h1 : 1 ≤ l) (hl : l ≤ top) (hn : n < 32) (hk : k.toNat ≤ 1024)
    (hcount : n + m < (s.group (s.thr t).group).barCount + 1) (hm1 : 1 ≤ m) (hnamed : (s.resolve t n false).isSome)
    (hidle : ∀ i, i < m → (s.barrier (keyCtx t) ((s.group (s.thr t).group).barBase + n + i)).count = 0) :
    barInit n l k s t = .done (s.inited t n l m k) none := by
  have hcounts : ((List.range m).map (· + ((s.group (s.thr t).group).barBase + n))).any
      (fun p => (s.barrier (keyCtx t) p).count != 0) = false := by
    simp only [List.any_eq_false, List.mem_map, List.mem_range]
    rintro _ ⟨i, hi, rfl⟩
    rw [Nat.add_comm, hidle i hi]
    decide
  unfold barInit
  dsimp only
  rw [htop, hm, hcounts, if_neg]
  · rw [inited, htop]
    rfl
  · rw [Option.isNone_eq_false_iff.2 hnamed]
    simp only [Bool.false_eq_true, or_false]
    omega

end State

theorem waited_eq (s : State) (t : Nat) : waited s t = .done (waitOver s t) none := by
  unfold waited waitOver
  cases (s.thr t).sync <;> rfl

/-- A thread that a completed phase has released before it came here goes on; one that waits here already does so at a DEAD barrier too. -/
theorem wait_over {s : State} {t p : Nat} {ph : Bool} (hphase : (s.barrier (keyCtx t) p).phase ≠ ph)
    (hlive : (s.barrier (keyCtx t) p).dead = false ∨ (s.thr t).sync = some p) :
    (let bar := s.barrier (keyCtx t) p
     if (s.thr t).sync == some p then (if bar.phase != ph then waited s t else waitOn s t p ph)
     else if bar.dead then .trap (trapOf .barrier)
     else if bar.phase != ph then waited s t
     else waitOn s t p ph) = .done (waitOver s t) none := by
  have hover : ((s.barrier (keyCtx t) p).phase != ph) = true := bne_iff_ne.2 hphase
  rw [← waited_eq]
  dsimp only
  rw [if_pos hover]
  by_cases hsync : (s.thr t).sync = some p
  · exact if_pos (beq_iff_eq.2 hsync)
  · have hdead := hlive.resolve_right hsync
    rw [if_neg (fun h => hsync (beq_iff_eq.1 h)), hdead, if_neg Bool.false_ne_true]

theorem GoesOn.barrier {u v : State} {sel : Sel} {n : Nat} (h : GoesOn u v sel n) (c p : Nat) : v.barrier c p = u.barrier c p := by
  obtain ⟨-, -, -, hctx, -⟩ := h
  rw [State.barrier, hctx]
  rfl

theorem barInit_goes {a b : BitVec 6} {l : BitVec 3} (hports : NoPorts [a]) {s u : State} {sel : Sel} {k : Nat} (ha : Alone s sel k 2)
    (hfull : someEmpty (s.thr (sel.key k)) [a.toNat] [] = false)
    (hu : barInit b.toNat l.toNat ((s.thr (sel.key k)).rdG a.toNat) { s with sel := none } (sel.key k) = .done u none) :
    ∃ v, exec (.barInit a b l) s = .next v ∧ GoesOn u v sel 2 := by
  refine run_one_done (i := .barInit a b l) rfl ha two_ne_zero rfl rfl ?_
  have hreg : ∀ n ∈ [a.toNat], n < 60 := fun n hn => by
    rw [List.mem_singleton.1 hn]
    exact hports a (List.mem_singleton_self a)
  exact (operands_regs { s with sel := none } (sel.key k) [a.toNat] [] none noCheck _ hreg (fun _ h => nomatch h) ha.2.2.2 hfull rfl).trans hu

/-- Settles O16: an arrival by `arriving_arrives`, a wait that is over by `wait_over`, and INIT by `barInit_done` and what it leaves of each
barrier (`initAll_barrier`, `unlevelAll_barrier`). -/
theorem barrierInstructions : Obligations.BarrierInstructions := by
  unfold Obligations.BarrierInstructions
  refine ⟨fun d b hwf => ?arrive, fun a b => ?wait, fun b => ⟨?sync, fun s sel k p own ha hnamed hsync hmay => ?syncArrives⟩,
    fun a b l hports s sel k ha hfull => ?init, fun d b p hwf => ?test, fun b => ?drop⟩
  case arrive =>
    refine completes_of (fun _ => rfl) hwf two_ne_zero (fun _ _ _ => rfl) (fun u t _ _ ⟨p, own, hnamed, hmay⟩ => ?_)
    rw [hnamed]
    exact (onBarrier_named hnamed).trans (arriving_arrives hmay)
  case wait =>
    refine completes_of (fun _ => rfl) rfl two_ne_zero (fun _ _ _ => rfl) (fun u t _ hlost ⟨hfree, p, own, hnamed, hphase, hlive⟩ => ?_)
    exact operands_done (gs := [a]) hlost hfree rfl ((onBarrier_named hnamed).trans (wait_over hphase hlive))
  case sync =>
    refine completes_of (fun _ => rfl) rfl two_ne_zero (fun _ _ _ => rfl) (fun u t _ _ ⟨p, own, hnamed, hsync, hphase⟩ => ?_)
    refine (onBarrier_named hnamed).trans ((if_pos hsync).trans ((if_pos (bne_iff_ne.2 hphase)).trans (waited_eq u t)))
  case syncArrives =>
    refine run_blocks rfl ha two_ne_zero rfl rfl ((onBarrier_named (s := { s with sel := none }) hnamed).trans ((if_neg hsync).trans ?_))
    exact arriving_arrives (s := { s with sel := none }) hmay
  case init =>
    intro t x g top n u base c h1 hl hn hk hcount hu1 hnamed hidle
    let old : State := State.unlevelAll { s with sel := none } c g.barBase g.barCount b.toNat
    let new : State := State.inited { s with sel := none } t b.toNat l.toNat u n
    obtain ⟨v, hv, hgo⟩ : ∃ v, exec (.barInit a b l) s = .next v ∧ GoesOn new v sel 2 :=
      barInit_goes hports ha hfull (State.barInit_done (s := { s with sel := none }) rfl rfl h1 hl hn hk hcount hu1 hnamed hidle)
    have hnew : new = { s with sel := none, ctxs := new.ctxs } := State.inited_ctxs ..
    have hbar (q : Nat) : v.barrier c q = if base ≤ q ∧ q < base + u then State.initialised
        (if n = 0 then lvnProduct x 0 l.toNat else n.toNat) (if l.toNat = top then 0 else l.toNat) b.toNat (old.barrier c q) else
        old.barrier c q := (hgo.barrier c q).trans (State.initAll_barrier old c base u b.toNat _ _ q)
    obtain ⟨heq, hkey, hother, -⟩ := hgo
    have hslots : sel.slots = [k] := ha.2.1
    refine ⟨v, hv, fun i hi => ?_, fun p hp => ?_, ?_, fun j hj => ?_, ?_⟩
    · dsimp only
      rw [hbar, if_pos (by omega)]
      exact ⟨rfl, rfl, rfl, rfl, State.unlevelAll_phase _ _ _ _ _ _, rfl, rfl, fun _ => rfl⟩
    · dsimp only
      exact (hbar p).trans ((if_neg hp).trans (State.unlevelAll_barrier _ _ _ _ _ p))
    · rw [hkey k (by rw [hslots]; exact List.mem_singleton_self k), hnew]
      rfl
    · rw [hother j (fun i hi => by rw [hslots, List.mem_singleton] at hi; rw [hi]; exact hj), hnew]
      rfl
    · rw [heq, hnew]
  case test =>
    refine completes_of (fun _ => rfl) hwf two_ne_zero (fun _ _ _ => rfl) (fun u t _ _ hsome => ?_)
    obtain ⟨⟨q, own⟩, hnamed⟩ := Option.isSome_iff_exists.1 hsome
    rw [hnamed]
    exact onBarrier_named hnamed
  case drop =>
    refine completes_of (fun _ => rfl) rfl two_ne_zero (fun _ _ _ => rfl) (fun u t _ _ ⟨p, own, hnamed, hexpect⟩ => ?_)
    rw [hnamed]
    exact (onBarrier_named hnamed).trans (if_neg hexpect)

end Sys2Proof.Machine
end

section
/-! An access that nothing holds back is under way (R80, R87, R248, R303, R304); the arrival tags (R59–R61, R315). -/

namespace Sys2Proof.Machine

/-- A flag below 7, with no error in it, holds back nothing. -/
theorem State.flagHinder_none {x : Thread} {flag : Option Nat} (hlost : x.lost = []) (h : ∀ n, flag = some n → x.flags.get n ≠ 7) :
    State.flagHinder x flag = none := by
  have hfull : flagFull x flag = false := by
    cases flag with
    | none => rfl
    | some n => exact beq_eq_false_iff_ne.2 (h n rfl)
  simp only [State.flagHinder, usesLost_none _ _ hlost, hfull, Bool.false_eq_true, if_false]

/-- A memory operation that nothing holds back is issued. -/
theorem launch_accessed {s : State} {t entries : Nat} {op : AccOp} {lv : Level} {dst : Dst} {ws : List Want} {flag : Option Nat}
    (hlost : (s.thr t).lost = []) (h : MayAccess s t flag entries ws) :
    s.launch t op lv dst ws flag entries = .done (accessed s t op lv dst flag ws) none := by
  obtain ⟨hflag, hroom, hlog, hgleaner⟩ := h
  have hmem : s.memHinder t flag entries = none := by
    have hfull : ¬(entries ≠ 0 ∧ 16 < s.queued t + entries) := fun hc => by have := hroom hc.1; omega
    have hbehind : ¬(s.heldBehind t s.nextId = true ∧ 256 ≤ s.logCount (keyCtx t)) := fun hc => by have := hlog hc.1; omega
    simp only [State.memHinder, State.flagHinder_none hlost hflag, if_neg hfull, if_neg hbehind]
  have hfree : ws.any (fun w => s.gleanerHolds (s.coreOf t) w.place w.len) = false :=
    List.any_eq_false.2 (fun w hw => by simp [hgleaner w hw])
  rw [State.launch, hfree, hmem]
  cases flag <;> rfl

/-- The lowest tag of a mask is the number of its trailing zeros (R60). -/
theorem lowestBit_eq (m : DWord) : lowestBit m = if m = 0 then 0xFFFFFFFF else BitVec.ofNat 32 m.ctz.toNat := by
  by_cases h : m = 0
  · subst h
    decide
  · have hlt : m.ctz.toNat < 64 := BitVec.ctz_lt_iff_ne_zero.2 h
    have hfind : (List.range 64).find? (fun i => m.getLsbD i) = some m.ctz.toNat :=
      List.find?_range_eq_some.2 ⟨BitVec.getLsbD_true_ctz_of_ne_zero h, List.mem_range.2 hlt,
        fun j hj => by simp [BitVec.getLsbD_false_of_lt_ctz hj]⟩
    rw [if_neg h, lowestBit, hfind]

theorem State.modThr_congr {s : State} {t : Nat} {f g : Thread → Thread} (h : f (s.thr t) = g (s.thr t)) : s.modThr t f = s.modThr t g :=
  congrArg (s.setThr t) h

/-- Settles O18: each instruction by the branch of its operation that its condition selects; TFIRST by `lowestBit_eq`, TSET and TCLR by
`launch_accessed`. -/
theorem tagInstructions : Obligations.TagInstructions := by
  unfold Obligations.TagInstructions
  intro tags a m
  refine ⟨?any, ?all, fun s sel k ha hm hnone => ⟨?anyBlocks, ?allBlocks⟩, fun s sel k ha hm => ?anyTraps, fun d hwf => ?first,
    fun d => ?test, ?set, ?clear⟩
  case any =>
    refine completes_of (fun _ => rfl) rfl two_ne_zero (fun _ _ _ => rfl) (fun u t _ _ hsome => ?_)
    have hm : m u t ≠ 0 := fun h => hsome ((congrArg (tags u t &&& ·) h).trans BitVec.and_zero)
    exact (if_neg hm).trans (if_pos hsome)
  case all => exact completes_of (fun _ => rfl) rfl two_ne_zero (fun _ _ _ => rfl) (fun u t _ _ hall => if_pos hall)
  case anyBlocks => exact run_blocks rfl ha two_ne_zero rfl rfl ((if_neg hm).trans (if_neg (not_not_intro hnone)))
  case allBlocks => exact run_blocks rfl ha two_ne_zero rfl rfl (if_neg (fun hall => hm (hall.symm.trans hnone)))
  case anyTraps => exact run_traps rfl ha rfl rfl (if_pos hm)
  case first =>
    refine completes_of (fun _ => rfl) hwf two_ne_zero (fun _ _ _ => rfl) (fun u t _ _ _ => ?_)
    exact congrArg (fun v => TRes.done v none) (State.modThr_congr (congrArg ((u.thr t).wrG d.toNat) (lowestBit_eq (tags u t &&& m u t))))
  case test => exact completes_of (fun _ => rfl) rfl two_ne_zero (fun _ _ _ => rfl) (fun u t _ _ _ => rfl)
  case set => exact completes_of (fun _ => rfl) rfl two_ne_zero (fun _ _ _ => rfl) (fun u t _ hlost h => launch_accessed hlost h)
  case clear => exact completes_of (fun _ => rfl) rfl two_ne_zero (fun _ _ _ => rfl) (fun u t _ hlost h => launch_accessed hlost h)

end Sys2Proof.Machine
end

section
/-! A descriptor that is written, and a word above every physical address: the keys of the L1 words of two cores (R63, R103). -/

namespace Sys2Proof.Machine

/-- Core 1 owns word 0, where a descriptor stands, and core 0 owns word 2 ^ 38, which lies above all memory (`memTop`).  Both copies in
an L1 have the same key. -/
def sharedL1Key : State := { State.reset with
  owner := (Tab.set {} 0 2).set (2 ^ 38) 1
  l1 := Tab.set {} (l1Key 0 (2 ^ 38)) { value := 1, valid := true, reg := true } }

theorem sharedL1Key_keys : l1Key 1 0 = l1Key 0 (2 ^ 38) := by decide

theorem sharedL1Key_unwatched : Unwatched sharedL1Key 0 64 := fun _ _ _ _ => rfl

/-- The store of the descriptor takes word 0 from core 1, and with it the copy that core 0 has of the other word. -/
theorem sharedL1Key_putDesc :
    (sharedL1Key.putDesc 0).homeLoad (2 ^ 40) 1 = [0] ∧ sharedL1Key.homeLoad (2 ^ 40) 1 = [1] := by
  decide +kernel

/-- Refutes O34, in its clause on what a written descriptor leaves of the values at their homes.  The clause takes in every number as an
address, and `l1Key` tells two cores' words apart for word numbers below 2 ^ 38 alone: where a core owns a word from there up, the
descriptor's store can take the copy of that word out of its L1, and the word then reads 0 in home order. -/
theorem not_barrierQueueAndHeapSteps : ¬ Obligations.BarrierQueueAndHeapSteps := by
  intro h
  obtain ⟨-, -, -, -, hdesc, -⟩ := h
  obtain ⟨-, -, -, hother⟩ := hdesc 0 sharedL1Key rfl sharedL1Key_unwatched
  have hsame := hother (2 ^ 40) (.inr (by decide))
  obtain ⟨hafter, hbefore⟩ := sharedL1Key_putDesc
  rw [hafter, hbefore] at hsame
  exact absurd hsame (by decide)
end Sys2Proof.Machine
end

section
/-! A push to a queue that holds results, and a pop: what they leave of the threads (R62, R68, R100, R219).  The task heap at issue
(R72, R73, R318). -/

namespace Sys2Proof.Machine

namespace State

theorem shell_threads {s t : State} (h : t.shell = s.shell) : t.threads = s.threads := congrArg (fun x => x.1.threads) h

/-- The registers in error of every thread (R219). -/
def losts (s : State) (j : Nat) : List RegName := (s.thr j).lost

theorem losts_of_threads {s t : State} (h : t.threads = s.threads) : t.losts = s.losts :=
  funext fun j => congrArg (fun th : Tab Thread => (th.get j).lost) h

theorem countBurst_threads (s : State) (pa : Nat) : (s.countBurst pa).threads = s.threads := rfl

theorem usedBy_threads (s : State) (die pa : Nat) (tenant : Option Nat) (lv : Level) (wr : Bool) :
    (s.usedBy die pa tenant lv wr).threads = s.threads := by
  unfold usedBy
  split
  · rfl
  split
  · refine (countBurst_threads _ pa).trans ?_
    cases wr with
    | true => exact shell_threads (countLine_shell s die pa)
    | false => exact shell_threads ((cleanLine_shell _ die pa).trans (countLine_shell s die pa))
  · exact shell_threads (useLine_shell s die pa tenant _ wr)

theorem heard_threads (s : State) (agent die pa : Nat) : (s.heard agent die pa).threads = s.threads := by
  unfold heard
  split <;> rfl

theorem vbyte_threads {s t : State} {die va agent : Nat} {asid : BitVec 16} {tenant : Option Nat} {lv : Level} {b : Byte} {bad : Bool}
    (h : s.vbyte die asid va tenant none lv agent = .ok (t, b, bad)) : t.threads = s.threads := by
  unfold vbyte translateFor at h
  cases hx : s.translateDie die asid va .read with
  | error f => simp only [hx] at h; cases h
  | ok r =>
    obtain ⟨s1, pa⟩ := r
    have hread : (((s1.forward (pa / 4)).usedBy die pa tenant lv false).heard agent die pa).threads = s.threads :=
      (heard_threads _ _ _ _).trans ((usedBy_threads _ _ _ _ _ _).trans
        (shell_threads ((forward_shell s1 _).trans (translateDie_shell hx))))
    simp only [hx] at h
    cases h
    split
    · exact (shell_threads (noteBlocked_shell _ die pa)).trans hread
    · exact hread

/-- A unit's read leaves the threads, whether it succeeds or not. -/
theorem vreadBy_threads (agent : Nat) (s : State) (die : Nat) (asid : BitVec 16) (va n : Nat) :
    (∀ r, vreadBy agent s die asid va n = .ok r → r.1.threads = s.threads) ∧
    (∀ t, vreadBy agent s die asid va n = .error t → t.threads = s.threads) := by
  induction n generalizing s va with
  | zero => exact ⟨fun r h => by cases h; rfl, fun t h => (nomatch h)⟩
  | succ n ih =>
    unfold vreadBy
    cases hb : s.vbyte die asid va (s.tenantOfProcess asid) none .l2 agent with
    | error f => exact ⟨fun r h => (nomatch h), fun t h => by cases h; exact shell_threads (denied_shell s die asid va f)⟩
    | ok b =>
      obtain ⟨s1, b, p⟩ := b
      have hs1 := vbyte_threads hb
      obtain ⟨hok, herror⟩ := ih s1 (va + 1)
      dsimp only
      cases hr : vreadBy agent s1 die asid (va + 1) n with
      | error t => exact ⟨fun r h => (nomatch h), fun u h => by cases h; exact (herror t hr).trans hs1⟩
      | ok r => exact ⟨fun q h => by cases h; exact (hok r hr).trans hs1, fun t h => (nomatch h)⟩

theorem tenantStore_threads (s : State) (die : Nat) (asid : BitVec 16) (pa : Nat) (bs : List Byte) (agent : Nat) :
    (s.tenantStore die asid pa bs agent).threads = s.threads := by
  refine (usedBy_threads _ _ _ _ _ _).trans ?_
  unfold dieStore
  split
  · exact shell_threads (noteBlocked_shell s die pa)
  · exact (shell_threads (homeStore_shell _ pa bs)).trans rfl

/-- A unit's write leaves the threads, as far as it comes. -/
theorem vwriteBy_threads (agent : Nat) (s : State) (die : Nat) (asid : BitVec 16) (va : Nat) (bs : List Byte) :
    (vwriteBy agent s die asid va bs).1.threads = s.threads := by
  have hstored {u v : State} {va pa : Nat} {bs : List Byte} (h : u.dieAddr die asid va .write = .ok (v, pa)) :
      (v.tenantStore die asid pa bs agent).threads = u.threads :=
    (tenantStore_threads v die asid pa bs agent).trans (shell_threads ((dieAddr_shell u die asid va .write).1 v pa h))
  have hdenied {u v : State} {va : Nat} (h : u.dieAddr die asid va .write = .error v) : v.threads = u.threads :=
    shell_threads ((dieAddr_shell u die asid va .write).2 v h)
  fun_induction vwriteBy agent s die asid va bs with
  | case1 => rfl
  | case2 _ _ _ _ _ _ _ _ h => exact hdenied h
  | case3 _ _ _ _ _ _ _ _ _ h _ ih => exact ih.trans (hstored h)
  | case4 _ _ _ _ _ _ _ _ _ h _ ih => exact ih.trans (hstored h)
  | case5 _ _ _ _ _ _ h => exact hdenied h
  | case6 _ _ _ _ _ _ _ h ih => exact ih.trans (hstored h)

theorem updQueue_threads (s : State) (q : Nat) (f : Queue → Queue) : (s.updQueue q f).threads = s.threads :=
  (shell_threads (homeStore_shell (s.modQueue q f) q _)).trans rfl

/-- Threads that go on keep their registers in error. -/
theorem wake_losts (s : State) (c : Nat) (slots : List Nat) : (s.wake c slots).losts = s.losts := by
  obtain ⟨th, heq, hth⟩ := foldl_runnable c slots s
  funext j
  have hre := releaseTroupes_retrouped { s with threads := th } c slots
  unfold losts wake
  rw [heq, hre.thr_eq]
  exact (congrArg Thread.lost (hth j).1).trans rfl

theorem wakeQueue_losts (s : State) (q : Nat) : (s.wakeQueue q).losts = s.losts := by
  refine foldl_keeps losts _ (fun u c => ?_) s.ctxs.keys s
  dsimp only
  split
  · rfl
  · exact wake_losts u c _

/-- A push to a queue that is no launch queue. -/
theorem push_losts {s : State} {q : Nat} (hkind : (s.queue q).kind ≠ 2) (die ctx tenant : Nat) (asid : BitVec 16) (v : Word)
    (agent : Nat) : (s.push q die ctx tenant asid v agent).losts = s.losts := by
  unfold push
  dsimp only
  rw [wakeQueue_losts, losts_of_threads (updQueue_threads _ q _), if_neg hkind]
  split
  · rfl
  · exact losts_of_threads (vwriteBy_threads agent s die _ _ _)

theorem releaseHeld_losts (s : State) (q die : Nat) : (s.releaseHeld q die).losts = s.losts := by
  unfold releaseHeld
  split
  · rfl
  next htakes =>
    have hkind : (s.queue q).kind ≠ 2 := fun h2 => htakes (by simp [takesResult, h2])
    cases s.heldResult q with
    | none => rfl
    | some r => exact push_losts (s := { s with results := s.results.set r.1 none }) hkind die 0 0 0 r.2 (dieAgent die)

/-- A pop changes no thread but for what goes on after it. -/
theorem pop_losts (s : State) (q die agent : Nat) : (s.pop q die agent).1.losts = s.losts := by
  have hread := vreadBy_threads agent s die (s.queue q).asid
    ((s.queue q).base.toNat + 4 * ((s.queue q).head.toNat % max 1 (s.queue q).cap)) 4
  unfold pop
  dsimp only
  rw [releaseHeld_losts, wakeQueue_losts, losts_of_threads (updQueue_threads _ q _)]
  split
  · split <;> rfl
  · split
    next h => exact losts_of_threads (hread.1 _ h)
    next h => exact losts_of_threads (hread.2 _ h)

theorem acquire_losts (s : State) (core scope : Nat) : (s.acquire core scope).losts = s.losts := by
  unfold acquire
  split <;> rfl

theorem modThr_losts (s : State) (t : Nat) {f : Thread → Thread} (h : ∀ x, (f x).lost = x.lost) : (s.modThr t f).losts = s.losts := by
  funext j
  unfold losts
  rw [modThr_thr]
  split
  next hj => rw [h, hj]
  · rfl

theorem latchPort_losts (s : State) (t port : Nat) : (s.latchPort t port).losts = s.losts := by
  unfold latchPort
  split
  · rfl
  · dsimp only
    refine (modThr_losts _ t (fun _ => ?_)).trans ?_
    · rfl
    · rw [acquire_losts, pop_losts]

/-- Ports that are popped put no register of the thread in error. -/
theorem popped_lost {u : State} {t : Nat} (gs : List (BitVec 6)) (h : (u.thr t).lost = []) : ((popped u t gs).1.thr t).lost = [] :=
  (congrFun (foldl_keeps losts _ (fun s p => latchPort_losts s t p) (portsIn (gs.map BitVec.toNat)) u) t).trans h

theorem heapGranted_iff (s : State) (t : Nat) : s.heapGranted t = true ↔
    (s.die (coreDie (s.coreOf t))).heapValid = true ∧ (s.die (coreDie (s.coreOf t))).heapAsid = (s.ctx (keyCtx t)).asid := by
  simp only [heapGranted, Bool.and_eq_true, beq_iff_eq]

/-- The state with a heap operation under way, its flag counted up (R73). -/
def heapSent (s : State) (t : Nat) (kind : HeapKind) (key : Word) (payload : DWord) (dg da : Nat) (flag : Option Nat) : State :=
  let o : HeapOp := { thr := t, die := coreDie (s.coreOf t), kind := kind, key := key, payload := payload, dstG := dg,
                      dstA := da, flag := flag, pc := (s.thr t).pc, waiting := false, due := s.cycle + 130, batch := s.issueOf t }
  ({ s with heapOps := s.heapOps.set s.nextId (some o), nextId := s.nextId + 1 } : State).modThr t (fun x => x.flagUp flag)

section
variable {s : State} {t dg da : Nat} {kind : HeapKind} {key : Word} {payload : DWord} {flag : Option Nat}

/-- A heap operation that nothing holds back is sent to the heap of a process that holds it. -/
theorem heapStart_sent (hlost : (s.thr t).lost = []) (hgranted : s.heapGranted t = true)
    (hfree : ∀ n, flag = some n → (s.thr t).flags.get n ≠ 7) (hreleased : kind = .push → s.released t 3 = true) :
    s.heapStart t kind key payload dg da flag = .done (s.heapSent t kind key payload dg da flag) none := by
  have hgo : ¬(kind = .push ∧ (!s.released t 3) = true) := fun ⟨hpush, hno⟩ => by
    rw [hreleased hpush] at hno
    exact absurd hno (by decide)
  unfold heapStart
  rw [hgranted, flagHinder_none hlost hfree, if_neg (by decide)]
  exact if_neg hgo

theorem heapStart_not_granted (h : s.heapGranted t = false) :
    s.heapStart t kind key payload dg da flag = .trap (trapOf .queue) := by
  unfold heapStart
  rw [h]
  rfl

theorem tracked_of_flag {f : BitVec 1} {k : TRes} (h : needFlag (s.thr t) f = true) : s.tracked t f k = k := if_pos h

end

end State

theorem flagNamed_eq (x : Thread) (f : BitVec 1) : flagNamed x f = x.flagOf f := by
  have hzero : f = 0 ↔ f.toNat = 0 := BitVec.toNat_eq
  unfold flagNamed Thread.flagOf
  simp only [hzero]

/-- Settles O20: an operation is sent by `heapStart_sent`, after the ports of HPUSH are popped (`operands_done`, `popped_lost`); without
the heap HPOP traps by `heapStart_not_granted`. -/
theorem heapInstructions : Obligations.HeapInstructions := by
  unfold Obligations.HeapInstructions
  intro g a f flag granted free sent
  have hflag (u : State) (t : Nat) : flag u t = (u.thr t).flagOf f := flagNamed_eq _ _
  have hneed {u : State} {t : Nat} (h : (flag u t).isSome) : needFlag (u.thr t) f = true := by rw [hflag] at h; exact h
  have hsent {u : State} {t dg da : Nat} {kind : HeapKind} {key : Word} {payload : DWord} (hlost : (u.thr t).lost = [])
      (hgranted : granted u t) (hfree : free u t) (hreleased : kind = .push → u.released t 3 = true) :
      u.heapStart t kind key payload dg da ((u.thr t).flagOf f) = .done (sent u t kind key payload dg da) none := by
    rw [← hflag]
    exact State.heapStart_sent hlost ((State.heapGranted_iff u t).2 hgranted) hfree hreleased
  refine ⟨?push, fun hwf => ?pop, fun hwf => ?try_, fun s sel k ha hwf hsome hnot => ?traps⟩
  case push =>
    refine completes_of (fun _ => rfl) rfl two_ne_zero (fun u t h => hneed h.1)
      (fun u t _ hlost ⟨hsome, hfree, hgranted, hflags, hreleased⟩ => ?_)
    refine (State.tracked_of_flag (hneed hsome)).trans (operands_done (gs := [g]) hlost hfree rfl ?_)
    exact hsent (State.popped_lost [g] hlost) hgranted hflags (fun _ => hreleased)
  case pop =>
    refine completes_of (fun _ => rfl) hwf two_ne_zero (fun u t h => hneed h.1) (fun u t _ hlost ⟨hsome, hgranted, hflags⟩ => ?_)
    exact (State.tracked_of_flag (hneed hsome)).trans (hsent hlost hgranted hflags (fun h => nomatch h))
  case try_ =>
    refine completes_of (fun _ => rfl) hwf two_ne_zero (fun u t h => hneed h.1) (fun u t _ hlost ⟨hsome, hgranted, hflags⟩ => ?_)
    exact (State.tracked_of_flag (hneed hsome)).trans (hsent hlost hgranted hflags (fun h => nomatch h))
  case traps =>
    let u : State := { s with sel := none }
    have hno : u.heapGranted (sel.key k) = false := Bool.eq_false_iff.2 (fun h => hnot ((State.heapGranted_iff u _).1 h))
    exact run_traps (i := .hpop g a f) rfl ha hwf (hneed (u := u) hsome)
      ((State.tracked_of_flag (s := u) (hneed (u := u) hsome)).trans (State.heapStart_not_granted hno))

end Sys2Proof.Machine
end

section
/-! A store of whole words that no binding watches (R100, R102, R144); a hardware FIFO and its descriptor (R62–R66). -/

namespace Sys2Proof.Machine

/-- A fold whose steps leave a state as it is gives that state. -/
theorem foldl_stays {σ β : Type} {f : σ → β → σ} {s : σ} {l : List β} (h : ∀ x ∈ l, f s x = s) : l.foldl f s = s := by
  induction l with
  | nil => rfl
  | cons x r ih => rw [List.foldl_cons, h x (List.mem_cons_self ..), ih (fun y hy => h y (List.mem_cons_of_mem _ hy))]

/-- The words of whole words' bytes lie among the bytes. -/
theorem wordsOf_aligned {pa n w : Nat} (hpa : pa % 4 = 0) (hn : n % 4 = 0) (h : w ∈ wordsOf pa n) : pa ≤ 4 * w ∧ 4 * w + 4 ≤ pa + n := by
  unfold wordsOf at h
  split at h
  · exact absurd h List.not_mem_nil
  · obtain ⟨i, hi, rfl⟩ := List.mem_map.1 h
    have hlt := List.mem_range.1 hi
    omega

theorem Queue.bytes_length (x : Queue) : x.bytes.length = 64 := by
  simp only [Queue.bytes, recBytes, List.flatMap_cons, List.flatMap_nil, List.length_append, leBytes_length, List.length_nil]

/-- A queue in use takes the state that its count gives it (R66). -/
theorem Queue.settle_used {x : Queue} (h : x.state = .empty ∨ x.state = .busy ∨ x.state = .full) :
    x.settle = { x with state := if x.count = 0 then .empty else if x.cap ≤ x.count then .full else .busy } := by
  unfold Queue.settle
  obtain h | h | h := h <;> rw [h]

theorem Queue.settle_kind (x : Queue) : x.settle.kind = x.kind := by
  unfold Queue.settle
  split <;> rfl

namespace State

theorem revoke_mem (s : State) (w : Nat) : (s.revoke w).mem = s.mem := by
  unfold revoke
  cases s.ownerOf w with
  | none => rfl
  | some c => dsimp only; split <;> rfl

/-- A store of whole words writes their bytes and no others. -/
theorem homeStoreRaw_mem {s : State} {pa : Nat} {bs : List Byte} (hpa : pa % 4 = 0) (hn : bs.length % 4 = 0) :
    (s.homeStoreRaw pa bs).mem = s.mem.store pa bs := by
  let clear (s : State) (w : Nat) : State := let s := s.revoke w; { s with poison := s.poison.set w false }
  have hfold : (wordsOf pa bs.length).foldl (fun s w => if pa ≤ 4 * w ∧ 4 * w + 4 ≤ pa + bs.length then clear s w else s.forward w) s =
      (wordsOf pa bs.length).foldl clear s := List.foldl_ext _ _ _ (fun u w hw => if_pos (wordsOf_aligned hpa hn hw))
  have hkeep : ((wordsOf pa bs.length).foldl clear s).mem = s.mem := foldl_keeps State.mem clear revoke_mem _ s
  exact congrArg (fun m : Memory => m.store pa bs) ((congrArg State.mem hfold).trans hkeep)

section
variable {put : State → Nat → List Byte → State} {s : State} {pa n : Nat}

/-- Of words that nothing watches nothing is captured. -/
theorem captureBy_unwatched (h : Unwatched s pa n) : captureBy put s (wordsOf pa n) = s := by
  refine foldl_stays (fun w hw => foldl_stays (fun p _ => foldl_stays (fun b _ => ?_)))
  unfold captureInBy
  dsimp only
  rw [h p.1 b.1 w (List.mem_filter.1 hw).1, List.foldl_nil, ite_self]

theorem homeStore_unwatched {bs : List Byte} (h : Unwatched s pa bs.length) : s.homeStore pa bs = s.homeStoreRaw pa bs := by
  unfold homeStore
  generalize 4096 = depth
  cases depth with
  | zero => rfl
  | succ d => rw [writeHome, captureBy_unwatched h]

end

/-- The descriptor of a queue stands in memory, and no byte beside it has changed. -/
def DescKept (s t : State) (q : Nat) : Prop :=
  t.mem.bytes q 64 = (t.queue q).bytes ∧ ∀ a, a < q ∨ q + 64 ≤ a → t.mem.get a = s.mem.get a

section
variable {s : State} {q : Nat} (haligned : q % 64 = 0) (hunwatched : Unwatched s q 64)

theorem updQueue_queue_at (s : State) (q : Nat) (f : Queue → Queue) (j : Nat) :
    (s.updQueue q f).queue j = if j = q then f (s.queue q) else s.queue j := by
  rw [updQueue, putDesc, queue, shell_queues (homeStore_shell _ q _)]
  exact Tab.get_modify s.queues q j f

theorem updQueue_queue (s : State) (q : Nat) (f : Queue → Queue) : (s.updQueue q f).queue q = f (s.queue q) := by
  rw [updQueue_queue_at, if_pos rfl]

include haligned hunwatched in
theorem updQueue_descKept (f : Queue → Queue) : DescKept s (s.updQueue q f) q := by
  have hlen := Queue.bytes_length ((s.modQueue q f).queue q)
  have hmem : (s.updQueue q f).mem = s.mem.store q ((s.modQueue q f).queue q).bytes := by
    rw [updQueue, putDesc, homeStore_unwatched (by rw [hlen]; exact hunwatched)]
    exact homeStoreRaw_mem (by omega) (by rw [hlen])
  have hqueue : (s.updQueue q f).queue q = (s.modQueue q f).queue q :=
    (updQueue_queue s q f).trans (Tab.get_modify_self s.queues q f).symm
  refine ⟨?_, fun a ha => ?_⟩
  · rw [hqueue, hmem, ← hlen]
    exact Memory.bytes_store s.mem q _
  · rw [hmem]
    exact Memory.get_store_outside s.mem q a _ (by rw [hlen]; exact ha)

theorem wakeQueue_queue (s : State) (q j : Nat) : (s.wakeQueue q).queue j = s.queue j := by rw [wakeQueue_released]; rfl

theorem DescKept.woken {s t : State} {q : Nat} (h : DescKept s t q) : DescKept s (t.wakeQueue q) q := by
  unfold DescKept at *
  rw [wakeQueue_queue, wakeQueue_released]
  exact h

/-- What a push or a pop of a hardware FIFO does: an epoch passes between two agents, the entries change, then the count with the state
that it gives and the descriptor, and what the queue blocked goes on. -/
def fifoMove (s : State) (q giver taker : Nat) (entries count : Queue → Queue) : State :=
  (((s.passEpoch giver taker).modQueue q entries).updQueue q (fun x => (count x).settle)).wakeQueue q

theorem fifoMove_queue (s : State) (q giver taker : Nat) (entries count : Queue → Queue) :
    (s.fifoMove q giver taker entries count).queue q = (count (entries (s.queue q))).settle := by
  rw [fifoMove, wakeQueue_queue, updQueue_queue]
  exact congrArg (fun x => (count x).settle) (Tab.get_modify_self s.queues q entries)

include haligned hunwatched in
theorem fifoMove_descKept (giver taker : Nat) (entries count : Queue → Queue) :
    DescKept s (s.fifoMove q giver taker entries count) q :=
  (updQueue_descKept (s := (s.passEpoch giver taker).modQueue q entries) haligned hunwatched _).woken

theorem push_fifo (hkind : (s.queue q).kind = 0) (die ctx tenant : Nat) (asid : BitVec 16) (v : Word) (agent : Nat) :
    s.push q die ctx tenant asid v agent = s.fifoMove q agent (clusterAgent (s.queue q).cluster)
      (fun x => { x with entries := x.entries ++ [v.toNat] }) (fun x => { x with tail := x.tail + 1 }) := by
  unfold push
  dsimp only
  rw [if_pos hkind]
  rfl

/-- No result of an engine waits for a hardware FIFO. -/
theorem releaseHeld_fifo {u : State} (hkind : (u.queue q).kind = 0) (die : Nat) : u.releaseHeld q die = u :=
  if_pos (by simp [takesResult, hkind])

theorem pop_fifo (hkind : (s.queue q).kind = 0) (die agent : Nat) :
    s.pop q die agent = (s.fifoMove q (clusterAgent (s.queue q).cluster) agent
      (fun x => { x with entries := x.entries.drop 1 }) (fun x => { x with head := x.head + 1 }),
      BitVec.ofNat 32 ((s.queue q).entries.headD 0)) := by
  let u := s.fifoMove q (clusterAgent (s.queue q).cluster) agent
    (fun x => { x with entries := x.entries.drop 1 }) (fun x => { x with head := x.head + 1 })
  have hu : (u.queue q).kind = 0 := by
    rw [fifoMove_queue, Queue.settle_kind]
    exact hkind
  unfold pop
  dsimp only
  rw [if_pos (.inl hkind), if_pos hkind]
  exact congrArg (fun w => (w, _)) (releaseHeld_fifo hu die)

end
end State

/-- A queue with one entry more at its end, and with its oldest entry taken (R62, R66). -/
def Queue.pushed (x : Queue) (v : Word) : Queue := { x with entries := x.entries ++ [v.toNat], tail := x.tail + 1 }.settle
def Queue.popped (x : Queue) : Queue := { x with entries := x.entries.drop 1, head := x.head + 1 }.settle

section
variable {x : Queue} (hcap : x.cap = 32) (hstate : x.state = .empty ∨ x.state = .busy ∨ x.state = .full)
include hcap hstate

theorem Queue.pushed_spec (v : Word) (hroom : (x.tail - x.head).toNat < 32) :
    (x.pushed v).entries = x.entries ++ [v.toNat] ∧ (x.pushed v).tail = x.tail + 1 ∧ (x.pushed v).head = x.head ∧
      (x.pushed v).state = if (x.tail - x.head).toNat = 31 then .full else .busy := by
  have hcount : (x.tail + 1 - x.head).toNat = (x.tail - x.head).toNat + 1 := by bv_omega
  have hfull : 32 ≤ (x.tail - x.head).toNat + 1 ↔ (x.tail - x.head).toNat = 31 := by omega
  rw [Queue.pushed, Queue.settle_used]
  · refine ⟨rfl, rfl, rfl, ?_⟩
    simp only [Queue.count, hcap, hcount, Nat.add_one_ne_zero, if_false, hfull]
  · exact hstate

theorem Queue.popped_spec (h1 : 1 ≤ (x.tail - x.head).toNat) (h32 : (x.tail - x.head).toNat ≤ 32) :
    x.popped.entries = x.entries.tail ∧ x.popped.head = x.head + 1 ∧ x.popped.tail = x.tail ∧
      x.popped.state = if (x.tail - x.head).toNat = 1 then .empty else .busy := by
  have hcount : (x.tail - (x.head + 1)).toNat = (x.tail - x.head).toNat - 1 := by bv_omega
  have hempty : (x.tail - x.head).toNat - 1 = 0 ↔ (x.tail - x.head).toNat = 1 := by omega
  have hroom : ¬32 ≤ (x.tail - x.head).toNat - 1 := by omega
  rw [Queue.popped, Queue.settle_used]
  · refine ⟨List.drop_one, rfl, rfl, ?_⟩
    simp only [Queue.count, hcap, hcount, hempty, hroom, if_false]
  · exact hstate

end

theorem fifoOrder : Parts.FifoOrder := by
  intro s q die ctx tenant asid v x kept haligned hunwatched hkind hcap hstate
  refine ⟨fun hroom => ?push, fun h1 h32 => ?pop⟩
  case push =>
    let t := s.push q die ctx tenant asid v
    have hmove : t = s.fifoMove q _ _ _ _ := State.push_fifo hkind die ctx tenant asid v _
    have hqueue : t.queue q = x.pushed v := by rw [hmove, State.fifoMove_queue]; rfl
    have hkept : kept t := by rw [hmove]; exact State.fifoMove_descKept haligned hunwatched _ _ _ _
    obtain ⟨hentries, htail, hhead, hstate'⟩ := Queue.pushed_spec hcap hstate v hroom
    rw [← hqueue] at hentries htail hhead hstate'
    exact ⟨hentries, htail, hhead, hstate', hkept⟩
  case pop =>
    let r := s.pop q die
    have hmove : r = (s.fifoMove q _ _ _ _, _) := State.pop_fifo hkind die _
    have hqueue : r.1.queue q = x.popped := by rw [hmove, State.fifoMove_queue]; rfl
    have hkept : kept r.1 := by rw [hmove]; exact State.fifoMove_descKept haligned hunwatched _ _ _ _
    obtain ⟨hentries, hhead, htail, hstate'⟩ := Queue.popped_spec hcap hstate h1 h32
    rw [← hqueue] at hentries htail hhead hstate'
    exact ⟨congrArg Prod.snd hmove, hentries, hhead, htail, hstate', hkept⟩

end Sys2Proof.Machine
end

section
/-! The queue instructions (R62–R67, R74, R316, R317). -/

namespace Sys2Proof.Machine

section
variable {s : State} {t p : Nat} {k : Port → Nat → TRes}

theorem boundPort_bound (hbound : ((s.thr t).ports.get p).bound = true) (hnames : s.names ((s.thr t).ports.get p) (s.portQueue t p) = true) :
    boundPort p k s t = k ((s.thr t).ports.get p) (s.portQueue t p) := by
  simp only [boundPort, hbound, hnames, Bool.not_true, Bool.or_self, Bool.false_eq_true, if_false]

/-- An instruction that names an unbound port traps QUEUE (R74). -/
theorem boundPort_unbound (h : ((s.thr t).ports.get p).bound = false) : boundPort p k s t = .trap (trapOf .queue) := by
  simp only [boundPort, h, Bool.not_false, Bool.true_or, if_true]

end

section
variable {s : State} {t k d : Nat} {v : Word} {p : Port}

/-- A queue that is neither CLOSING nor CLOSED takes a push where it has room and the thread's earlier operations are performed. -/
theorem qtry_pushes (hpush : p.push = true) (hclosing : (s.queue k).state ≠ .closing) (hclosed : (s.queue k).state ≠ .closed)
    (hroom : (s.queue k).count < (s.queue k).cap) (hreleased : s.released t (s.queue k).scope = true) :
    qtry d v s t p k = .done ((s.push k (coreDie (s.ctx (keyCtx t)).core) (keyCtx t) (s.ctx (keyCtx t)).tenant.toNat (s.ctx (keyCtx t)).asid v
      (s.ctx (keyCtx t)).core).modThr t (fun x => x.wrP 7 true)) none := by
  simp only [qtry, hpush, hclosing, hclosed, Nat.not_le.2 hroom, hreleased, or_self, Bool.not_true, Bool.false_eq_true, if_true, if_false]

theorem qtry_pops (hpop : p.push = false) (hclosed : (s.queue k).state ≠ .closed) (hsome : (s.queue k).count ≠ 0)
    (hgood : s.entryPoison k (coreDie (s.ctx (keyCtx t)).core) 0 = none) :
    qtry d v s t p k =
      (let r := s.pop k (coreDie (s.ctx (keyCtx t)).core) (s.ctx (keyCtx t)).core
       .done ((r.1.acquire (s.ctx (keyCtx t)).core (s.queue k).scope).modThr t (fun x => (x.wrG d r.2).wrP 7 true)) none) := by
  simp only [qtry, hpop, hclosed, hsome, hgood, Bool.false_eq_true, if_false]

/-- A push to a full queue and a pop of an empty one say no (R317). -/
theorem qtry_declines (h : if p.push
      then (s.queue k).state ≠ .closing ∧ (s.queue k).state ≠ .closed ∧ (s.queue k).cap ≤ (s.queue k).count
      else (s.queue k).state ≠ .closed ∧ (s.queue k).count = 0) :
    qtry d v s t p k = .done (s.modThr t (fun x => x.wrP 7 false)) none := by
  unfold qtry
  dsimp only
  split at h
  next hpush =>
    obtain ⟨hclosing, hclosed, hfull⟩ := h
    rw [if_pos hpush, if_neg (by simp [hclosing, hclosed]), if_pos hfull]
  next hpop =>
    obtain ⟨hclosed, hempty⟩ := h
    rw [if_neg hpop, if_neg hclosed, if_pos hempty]

end

/-- Which kinds of queue a binding may push to, and which it may pop from (R62). -/
theorem kindMayBind {k : Nat} {push : Prop} [Decidable push]
    (h : if push then k = 0 ∨ k = 1 ∨ k = 2 ∨ k = 5 else k = 0 ∨ k = 1 ∨ k = 3 ∨ k = 4) :
    (if decide push = true then kindPushes k else kindPops k) = true := by
  simp only [decide_eq_true_eq]
  split at h
  next hp => rw [if_pos hp]; simpa [kindPushes, or_assoc] using h
  next hp => rw [if_neg hp]; simpa [kindPops, or_assoc] using h

/-- QBIND of a descriptor that translates, to a queue that the thread may use. -/
theorem qbind_binds {u v : State} {t port pa : Nat} {va : DWord} {push : Bool} (hcanonical : canonical va = true) (haligned : va.toNat % 64 = 0)
    (htrans : u.translate (u.coreOf t) (u.ctx (keyCtx t)).asid va.toNat .read = .ok (v, pa)) (hused : (v.queue pa).state ≠ .free)
    (hformed : (v.queue pa).malformed = false) (htenant : (v.queue pa).tenant = u.tenantOf t)
    (hcluster : (v.queue pa).kind = 0 → (v.queue pa).cluster = coreCluster (u.coreOf t))
    (hkind : (if push then kindPushes (v.queue pa).kind else kindPops (v.queue pa).kind) = true) :
    qbind port va push u t = .done (v.modThr t (fun x =>
      { x with ports := x.ports.set port { bound := true, push := push, va := va, q := pa, gen := (v.queue pa).gen },
               portIn := x.portIn.set port none })) none := by
  unfold qbind
  rw [if_neg (by simp [hcanonical, haligned]), htrans]
  dsimp only
  rw [if_neg]
  simp only [hused, hformed, htenant, hkind, not_or, not_and, not_not]
  simpa using hcluster

/-- QTRY reads its value register where its port is bound for a push, and performs at the queue of its port. -/
theorem qtry_at {u : State} {t q d : Nat} {b : BitVec 6} (hb : b.toNat < 60) (hlost : (u.thr t).lost = [])
    (hfull : ((u.thr t).ports.get q).push = true → someEmpty (u.thr t) [b.toNat] [] = false) (hbound : ((u.thr t).ports.get q).bound = true)
    (hnames : u.names ((u.thr t).ports.get q) (u.portQueue t q) = true) :
    u.operands t (if ((u.thr t).ports.get q).push then [b.toNat] else []) [] none noCheck
        (fun s vs => boundPort q (qtry d (vs.headD 0) s t) s t) =
      qtry d (if ((u.thr t).ports.get q).push then (u.thr t).rdG b.toNat else 0) u t ((u.thr t).ports.get q) (u.portQueue t q) := by
  cases hpush : ((u.thr t).ports.get q).push with
  | true =>
    rw [if_pos rfl, operands_regs u t _ [] none noCheck _ (by simpa using hb) (fun _ h => nomatch h) hlost (hfull hpush) rfl,
      boundPort_bound hbound hnames]
    rfl
  | false =>
    rw [if_neg (by decide), operands_regs u t _ [] none noCheck _ (by simp) (fun _ h => nomatch h) hlost rfl rfl,
      boundPort_bound hbound hnames]
    rfl

theorem queueInstructions : Parts.QueueInstructions := by
  refine ⟨fun q a b => ?bind, fun d q => ⟨fun hwf => ?stat, ?close, fun s sel k ha hunbound => ⟨?closeTraps, fun hwf => ?statTraps⟩⟩,
    fun d q b hwf => ?try_⟩
  case bind =>
    intro va
    refine completes_of (fun _ => rfl) rfl two_ne_zero (fun _ _ _ => rfl)
      (fun u t _ _ ⟨hcanonical, haligned, v, pa, htrans, hused, hformed, htenant, hcluster, hkind⟩ => ?_)
    have hpush : (b.toNat == 1) = decide (b = 1) := 
      (Bool.beq_eq_decide_eq _ _).trans (decide_eq_decide.2 (BitVec.toNat_eq (x := b) (y := 1)).symm)
    rw [hpush, htrans]
    exact qbind_binds hcanonical haligned htrans hused hformed htenant hcluster (kindMayBind hkind)
  case stat =>
    exact completes_of (fun _ => rfl) hwf two_ne_zero (fun _ _ _ => rfl) (fun u t _ _ ⟨hbound, hnames⟩ => boundPort_bound hbound hnames)
  case close =>
    exact completes_of (fun _ => rfl) rfl two_ne_zero (fun _ _ _ => rfl) (fun u t _ _ ⟨hbound, hnames⟩ => boundPort_bound hbound hnames)
  case closeTraps => exact run_traps rfl ha rfl rfl (boundPort_unbound (s := { s with sel := none }) hunbound)
  case statTraps => exact run_traps (i := .qstat d q) rfl ha hwf rfl (boundPort_unbound (s := { s with sel := none }) hunbound)
  case try_ =>
    intro qu port full c
    obtain ⟨-, hb⟩ : d.toNat < 60 ∧ b.toNat < 60 := by
      simpa [Instr.wf, Instr.codesOk, Instr.limitsOk, notPort] using hwf
    refine ⟨?pushes, ?pops, ?declines⟩
    case pushes =>
      refine completes_of (fun _ => rfl) hwf two_ne_zero (fun _ _ _ => rfl)
        (fun u t _ hlost ⟨⟨hempty, hbound, hnames⟩, hpush, hclosing, hclosed, hroom, hreleased⟩ => ?_)
      refine (qtry_at hb hlost hempty hbound hnames).trans ((qtry_pushes hpush hclosing hclosed hroom hreleased).trans ?_)
      rw [if_pos hpush]
    case pops =>
      refine completes_of (fun _ => rfl) hwf two_ne_zero (fun _ _ _ => rfl)
        (fun u t _ hlost ⟨⟨hempty, hbound, hnames⟩, hpop, hclosed, hsome, hgood⟩ => ?_)
      exact (qtry_at hb hlost hempty hbound hnames).trans (qtry_pops hpop hclosed hsome hgood)
    case declines =>
      refine completes_of (fun _ => rfl) hwf two_ne_zero (fun _ _ _ => rfl) (fun u t _ hlost ⟨⟨hempty, hbound, hnames⟩, h⟩ => ?_)
      exact (qtry_at hb hlost hempty hbound hnames).trans (qtry_declines h)

/-- Settles O19: QBIND by `qbind_binds`, QSTAT and QCLOSE by `boundPort_bound` and `boundPort_unbound`, QTRY at its queue (`qtry_at`) by
`qtry_pushes`, `qtry_pops` and `qtry_declines`; a FIFO's push and pop by what they make of the queue (`Queue.pushed_spec`,
`Queue.popped_spec`) and of its descriptor (`fifoMove_descKept`). -/
theorem queues : Obligations.Queues := ⟨queueInstructions, fifoOrder⟩

end Sys2Proof.Machine
end

section
/-! The supervisor complex (R211, R212, R222): what its records leave of it, a reset of the complex, and the replay of its journal. -/

namespace Sys2Proof.Machine

namespace State

/-- A record of the module itself that is not folded: it goes to the Ringmaster alone (R216). -/
theorem log_module (s : State) {e : ErrRec} (hsev : e.sev ≠ 1) (hpart : e.part = 0xFF) : ∃ d v,
    s.log e = { s with rm := { s.rm with mirror := s.rm.mirror ++ [{ e with time := s.now }], mirrorDue := d, severe := v } } := by
  have hqueue : queueToBy homeStore s e.part { e with time := s.now } = s := if_pos (.inl hpart)
  have hemit : s.log e = emitBy homeStore s { e with time := s.now } := if_pos hsev
  rw [hemit]
  unfold emitBy
  dsimp only
  rw [hqueue]
  exact ⟨_, _, rfl⟩

/-- A corrected event whose code no pending record has opens one (R218). -/
theorem log_opens {s : State} {e : ErrRec} (hsev : e.sev = 1) (hnone : NonePending s e.code) :
    s.log e = s.setPending s.nextId (some { err := { e with time := s.now }, line := e.pa.getD 0 / 128, due := s.now + 1000000 }) := by
  have hpending : s.pendingOf { e with time := s.now } = none := by
    refine List.findSome?_eq_none_iff.2 (fun c hc => ?_)
    cases hq : c.2 with
    | none => rfl
    | some q => simp [hnone c hc q hq]
  unfold log logBy
  dsimp only
  rw [if_neg (not_not_intro hsev), hpending]

/-- What a record leaves of the complex: all but the mirror, its delay and the hub die's list. -/
theorem shell_rm {γ : Type} (view : Ringmaster → γ)
    (hview : ∀ r : Ringmaster, view { r with mirror := [], mirrorDue := 0, severe := [] } = view r) {s t : State} (h : t.shell = s.shell) :
    view t.rm = view s.rm := by
  rw [← hview t.rm, ← hview s.rm]
  exact congrArg (fun x => view x.1.rm) h

/-- The complex in RECOVERING, as a reset with a bit of RSTC leaves it (R212, R222). -/
def recovering (s : State) (bit : Nat) : State :=
  ({ s with rm := { s.rm with
      state := .recovering, pairs := 0, excluded := 0, passed := none, harts := {}, rstc := s.rm.rstc ||| BitVec.ofNat 20 (2 ^ bit) } } :
    State).queueHeld

theorem rmReset_up {s : State} (hup : s.rmUp = true) (bit : Nat) : s.rmReset bit = s.recovering bit := if_pos hup

theorem rmReset_recovering {s : State} (h : s.rm.state = .recovering) (bit : Nat) :
    s.rmReset bit = { s with rm := { s.rm with passed := none, rstc := s.rm.rstc ||| BitVec.ofNat 20 (2 ^ bit) } } := by
  unfold rmReset
  rw [if_neg (by simp [rmUp, h]), if_pos h]
  rfl

theorem recovering_spec (s : State) (bit : Nat) : (s.recovering bit).rm.state = .recovering ∧ (s.recovering bit).rm.pairs = 0 ∧
    (s.recovering bit).rm.rstc = s.rm.rstc ||| BitVec.ofNat 20 (2 ^ bit) := ⟨rfl, rfl, rfl⟩

/-- The last running pair, by the mask of the running pairs. -/
theorem pairCount_findIdx_of_last : ∀ pairs : BitVec 4, ∀ pair, pair < 4 → pairs.getLsbD pair = true →
    pairs &&& ~~~BitVec.ofNat 4 (2 ^ pair) = 0 →
    pairCount pairs = 1 ∧ (List.range 4).findIdx (fun i => pairs.getLsbD i) = pair := by decide

section
variable {s : State} {pair : Nat}

/-- The state in which a mismatch of a pair is recorded and the pair has halted (R211). -/
def halted (s : State) (pair : Nat) : State :=
  (s.rmRecord 0x0601 1 1 pair 0).setRm (fun r => { r with pairs := r.pairs &&& ~~~BitVec.ofNat 4 (2 ^ pair), state := .reduced })

theorem mismatch_up (hpair : pair < 4) (hup : s.rmUp = true) (hruns : s.rm.pairs.getLsbD pair = true) :
    s.mismatch pair = if (s.halted pair).rm.pairs = 0 then (s.halted pair).rmReset 7 else (s.halted pair).moveWork pair := by
  unfold mismatch
  rw [if_neg (Nat.not_le.2 hpair), if_pos ⟨hup, hruns⟩]
  rfl

theorem rmRecord_opens {code action einst detail : Nat} (hnone : NonePending s code) : ∃ q : Pending,
    s.rmRecord code 1 action einst detail = s.setPending s.nextId (some q) ∧ q.err.code = code ∧ q.err.sev = 1 ∧ q.err.count = 1 ∧
      q.due = s.now + 1000000 :=
  ⟨_, log_opens rfl hnone, rfl, rfl, rfl, rfl⟩

theorem halted_rm (hnone : NonePending s 0x0601) : (s.halted pair).rm =
    { s.rm with pairs := s.rm.pairs &&& ~~~BitVec.ofNat 4 (2 ^ pair), state := .reduced } := by
  obtain ⟨q, hq, -⟩ := rmRecord_opens (action := 1) (einst := pair) (detail := 0) hnone
  rw [halted, hq]
  rfl

theorem halted_opened (hnone : NonePending s 0x0601) : Opened s (s.halted pair) s.nextId 0x0601 := by
  obtain ⟨q, hq, hspec⟩ := rmRecord_opens (action := 1) (einst := pair) (detail := 0) hnone
  rw [halted, hq]
  exact ⟨q, Tab.get_set_self s.pending s.nextId _, hspec⟩

/-- A pair halts, and another one runs on (R211). -/
theorem mismatch_reduced (hpair : pair < 4) (hup : s.rmUp = true) (hruns : s.rm.pairs.getLsbD pair = true) (hnone : NonePending s 0x0601)
    (hrest : s.rm.pairs &&& ~~~BitVec.ofNat 4 (2 ^ pair) ≠ 0) : s.mismatch pair = (s.halted pair).moveWork pair := by
  rw [mismatch_up hpair hup hruns, if_neg (by rw [halted_rm hnone]; exact hrest)]

/-- The last pair halts: the complex is reset. -/
theorem mismatch_last (hpair : pair < 4) (hup : s.rmUp = true) (hruns : s.rm.pairs.getLsbD pair = true) (hnone : NonePending s 0x0601)
    (hrest : s.rm.pairs &&& ~~~BitVec.ofNat 4 (2 ^ pair) = 0) : s.mismatch pair = (s.halted pair).recovering 7 := by
  have hreduced : (s.halted pair).rmUp = true := by rw [rmUp, halted_rm hnone]; rfl
  rw [mismatch_up hpair hup hruns, if_pos (by rw [halted_rm hnone]; exact hrest), rmReset_up hreduced]

theorem ringmasterReset_lastPair (hpair : pair < 4) (hruns : s.rm.pairs.getLsbD pair = true)
    (hrest : s.rm.pairs &&& ~~~BitVec.ofNat 4 (2 ^ pair) = 0) : s.ringmasterReset .lastPair = s.mismatch pair := by
  obtain ⟨hcount, hindex⟩ := pairCount_findIdx_of_last s.rm.pairs pair hpair hruns hrest
  rw [ringmasterReset, if_pos hcount, hindex]

/-- A watchdog that is not restarted in time resets the complex (R212). -/
theorem watchdog_expired (hup : s.rmUp = true) (hlate : s.rm.petAt + s.rm.timeout.toNat * 1000 ≤ s.now) :
    s.watchdog = (s.rmRecord 0x0602 1 1 (rmPair 0x0602) 0).recovering 6 := by
  have hrecord : (s.rmRecord 0x0602 1 1 (rmPair 0x0602) 0).rm.state = s.rm.state :=
    shell_rm Ringmaster.state (fun _ => rfl) (log_shell s _)
  have hup' : (s.rmRecord 0x0602 1 1 (rmPair 0x0602) 0).rmUp = true := by rw [rmUp, hrecord]; exact hup
  unfold watchdog
  rw [if_neg (by simp [hup, hlate]), rmReset_up hup']

theorem watchdog_waits (h : s.now < s.rm.petAt + s.rm.timeout.toNat * 1000) : s.watchdog = s := if_pos (.inr h)

/-- Out of recovery mode a reset by the sideband is one of the complex (R186). -/
theorem ringmasterReset_sideband (h : s.rm.state ≠ .recoveryMode) : s.ringmasterReset .sideband = s.rmReset 5 := if_neg h

theorem rmUp_iff (s : State) : s.rmUp = true ↔ s.rm.state = .running ∨ s.rm.state = .reduced := by
  simp only [rmUp, Bool.or_eq_true, beq_iff_eq]

end

/-! The journal (R205, R211). -/

theorem tableActions_self {β : Type} [Inhabited β] [DecidableEq β] (t : Tab β) (obj : Nat → JObject) (st : β → JState) :
    tableActions t t obj st = [] := by
  simp [tableActions]

/-- A step that changes nothing takes no action. -/
theorem actionsOf_self (s : State) : s.actionsOf s = [] := by
  simp [actionsOf, tableActions_self]

theorem record_nil (s : State) : s.record [] = s := by
  simp [record]

theorem complete_nil (s : State) : s.complete [] = s := by
  simp [complete]

/-- A replay leaves the state where each open action is completed by the steps that are its own. -/
theorem replayJournal_stays {s : State} (h : ∀ a ∈ s.rm.actions, a.done = false → s.recover a = s) : s.replayJournal = s := by
  have hfold : (s.rm.actions.filter (fun a => !a.done)).foldl recover s = s := foldl_stays (fun a ha => by
    obtain ⟨hmem, hopen⟩ := List.mem_filter.1 ha
    exact h a hmem (Bool.not_eq_true' _ ▸ hopen))
  unfold replayJournal
  dsimp only
  rw [hfold, actionsOf_self]
  exact (congrArg (fun t : State => t.complete []) (record_nil s)).trans (complete_nil s)

/-- The pairs that passed are in service again (R211). -/
def reattached (s : State) (p : BitVec 4) : State :=
  let s1 := s.setRm (fun r => { r with
    state := if p = 15 then .running else .reduced, pairs := p, passed := none, excluded := 0, petAt := s.now, mirrorDue := 0 })
  let s2 := { s1 with cores := s1.cores.mapCells (fun _ c => { c with attFaulted := false }) }
  s2.rmRecord 0x0603 0 0 (rmPair 0x0603) (pairCount p)

theorem reattach_eq {s : State} {p : BitVec 4} (hstate : s.rm.state = .recovering) (hpassed : s.rm.passed = some p) (hp : p ≠ 0)
    (hreplay : s.replayJournal = s) : s.reattach = if s.unfinished then s else s.reattached p := by
  unfold reattach
  rw [hstate, hpassed, hreplay]
  exact if_neg hp

theorem thenReconf_same {s : State} {k : State → State} (h : (k s).reconf = s.reconf) : s.thenReconf k = k s := by
  unfold thenReconf
  dsimp only
  rw [h, if_neg]
  cases s.reconf <;> simp

theorem reattached_spec (s : State) (p : BitVec 4) :
    (s.reattached p).reconf = s.reconf ∧ (s.reattached p).rm.state = (if p = 15 then .running else .reduced) ∧
      (s.reattached p).rm.pairs = p ∧ (s.reattached p).rm.petAt = s.now ∧ (∀ k, ((s.reattached p).core k).attFaulted = false) ∧
      LastRecord (s.reattached p) 0x0603 0 := by
  let e : ErrRec := { code := 0x0603, sev := 0, action := 0, eclass := 14, part := 0xFF, einst := rmPair 0x0603, detail := pairCount p }
  obtain ⟨d, v, hlog⟩ : ∃ d v, s.reattached p = _ := log_module _ (e := e) (Nat.zero_ne_one) rfl
  rw [hlog]
  refine ⟨rfl, rfl, rfl, rfl, fun k => ?_, _, List.getLast?_concat, rfl, rfl⟩
  exact congrArg Core.attFaulted (Tab.get_mapCells_of s.cores (fun _ c => { c with attFaulted := false }) k rfl)

end State

theorem supervisorSteps : Parts.SupervisorSteps := by
  refine ⟨fun pair s hpair hup hruns hnone => ⟨fun i hi hrest => ?reduced, fun i hi hrest => ?last⟩,
    fun s hup => ⟨?sideband, fun hlate i hi => ?late, fun hearly => congrArg Host.Outcome.next (State.watchdog_waits hearly)⟩,
    fun s hstate => ?again, fun s v => ⟨rfl, fun h1 hmax => ?timeout, fun hbad => ?badTimeout⟩,
    fun p s hstate hpassed => ⟨fun hsome => ?passes, fun hnone => ?fails⟩,
    fun p s hstate hpassed hp => ⟨fun hdone => ?back, fun f hf hopen hall => ?waits⟩⟩
  case reduced =>
    obtain rfl := List.mem_singleton.1 hi
    refine ⟨_, congrArg Host.Outcome.next (State.mismatch_reduced hpair hup hruns hnone hrest), ?_, ?_, State.halted_opened hnone⟩
    · exact congrArg Ringmaster.pairs (State.halted_rm (pair := pair) hnone)
    · exact congrArg Ringmaster.state (State.halted_rm (pair := pair) hnone)
  case last =>
    have hlast := State.mismatch_last hpair hup hruns hnone hrest
    have hex : exec i s = .next ((s.halted pair).recovering 7) := by
      obtain rfl | hi := List.mem_cons.1 hi
      · exact congrArg Host.Outcome.next hlast
      · obtain rfl := List.mem_singleton.1 hi
        exact congrArg Host.Outcome.next ((State.ringmasterReset_lastPair hpair hruns hrest).trans hlast)
    refine ⟨_, hex, rfl, rfl, ?_⟩
    rw [(State.recovering_spec _ 7).2.2, State.halted_rm hnone]
    rfl
  case sideband =>
    have hmode : s.rm.state ≠ .recoveryMode := fun h => by simp [State.rmUp_iff, h] at hup
    exact congrArg Host.Outcome.next ((State.ringmasterReset_sideband hmode).trans (State.rmReset_up hup 5))
  case late =>
    have hex : exec i s = .next s.watchdog := by
      obtain rfl | hi := List.mem_cons.1 hi
      · rfl
      · obtain rfl := List.mem_singleton.1 hi
        rfl
    refine ⟨_, hex.trans (congrArg Host.Outcome.next (State.watchdog_expired hup hlate)), rfl, rfl, ?_⟩
    exact congrArg (· ||| 0x40) (State.shell_rm Ringmaster.rstc (fun _ => rfl) (State.log_shell s _))
  case again =>
    have hmode : s.rm.state ≠ .recoveryMode := by rw [hstate]; decide
    exact congrArg Host.Outcome.next ((State.ringmasterReset_sideband hmode).trans (State.rmReset_recovering hstate 5))
  case timeout =>
    have hv : ¬(v = 0 ∨ 10000000 < v.toNat) := by
      rintro (rfl | h)
      · exact absurd h1 (by decide)
      · omega
    exact congrArg Host.Outcome.next (if_neg hv)
  case badTimeout =>
    exact congrArg Host.Outcome.next (if_pos (hbad.imp_left (fun h => BitVec.eq_of_toNat_eq h)))
  case passes =>
    refine congrArg Host.Outcome.next ((if_neg ?_).trans (if_neg hsome))
    simp [hstate, hpassed]
  case fails =>
    refine ⟨_, congrArg Host.Outcome.next ((if_neg ?_).trans (if_pos hnone)), rfl⟩
    simp [hstate, hpassed]
  case back =>
    have hreplay : s.replayJournal = s := State.replayJournal_stays (fun a ha hopen => absurd (hdone a ha) (by rw [hopen]; decide))
    have hfinished : s.unfinished = false := List.any_eq_false.2 (fun a ha => by simp [hdone a ha])
    have hback : s.reattach = s.reattached p := (State.reattach_eq hstate hpassed hp hreplay).trans (if_neg (by rw [hfinished]; decide))
    obtain ⟨hreconf, hspec⟩ := State.reattached_spec s p
    exact ⟨_, congrArg Host.Outcome.next ((State.thenReconf_same (by rw [hback, hreconf])).trans hback), hspec⟩
  case waits =>
    have hreplay : s.replayJournal = s := State.replayJournal_stays (fun a ha hnot => by
      obtain ⟨hobj, hnew⟩ := hall a ha hnot
      rw [State.recover, hobj, hnew])
    have hunfinished : s.unfinished = true := by
      obtain ⟨a, ha, hnot⟩ := hopen
      obtain ⟨hobj, hnew⟩ := hall a ha hnot
      refine List.any_eq_true.2 ⟨a, ha, ?_⟩
      rw [hobj, hnew, hnot]
      simp [hf, JState.passing]
    have hstays : s.reattach = s := (State.reattach_eq hstate hpassed hp hreplay).trans (if_pos hunfinished)
    exact congrArg Host.Outcome.next ((State.thenReconf_same (by rw [hstays])).trans hstays)

end Sys2Proof.Machine
end

section
/-! The sideband port (R69, R185, R186, R208–R210): sessions, reset requests and SPDM requests. -/

namespace Sys2Proof.Machine

namespace State

/-! Sessions (R69, R210). -/

/-- A session's number is written into the queues of a list. -/
def grantAll (s : State) (n : Word) (l : List Nat) : State := l.foldl (fun s q => s.updQueue q (fun x => { x with session := n })) s

theorem grantAll_sessions (s : State) (n : Word) (l : List Nat) : (s.grantAll n l).sessions = s.sessions :=
  foldl_keeps State.sessions _ (fun u q => congrArg (fun x => x.1.sessions) (homeStore_shell (u.modQueue q _) q _)) l s

theorem grantAll_queue (n : Word) (l : List Nat) (s : State) (q : Nat) (h : q ∈ l ∨ (s.queue q).session = n) :
    ((s.grantAll n l).queue q).session = n := by
  induction l generalizing s with
  | nil => exact h.resolve_left List.not_mem_nil
  | cons p r ih =>
    refine ih (s.updQueue p _) ?_
    by_cases hq : q = p
    · right
      rw [updQueue_queue_at, if_pos hq]
    · rw [updQueue_queue_at, if_neg hq]
      exact h.imp_left (fun h => (List.mem_cons.1 h).resolve_left hq)

/-- A handshake is over: no queue is granted to its peer any more. -/
def closeGrants (s : State) : State := s.setRm (fun r => { r with grants := [] })

theorem closeGrants_same {s : State} (h : s.rm.grants = []) : s.closeGrants = s :=
  congrArg (fun r : Ringmaster => { s with rm := r }) (show ({ s.rm with grants := [] } : Ringmaster) = s.rm by rw [← h])

theorem closeSession_sessions (s : State) (n : Word) (m : Nat) :
    (s.closeSession n).sessions.get m = if m = n.toNat then {} else s.sessions.get m := by
  rw [closeSession, Tab.get_set]

section
variable {s : State} {n : Word} {key : BitVec 512}

theorem openSession_opens (hup : s.rmUp = true) (hn : n ≠ 0) (hnew : (s.sessions.get n.toNat).opened = false)
    (hkey : s.rm.attests = true) : s.openSession n key true = (State.grantAll
      { s with sessions := s.sessions.set n.toNat { opened := true, key := key, highest := 0 } } n s.rm.grants).closeGrants := by
  unfold openSession
  rw [if_neg (by simp [hup]), if_neg (by simp [hkey]), if_neg (not_or.2 ⟨hn, by simp [hnew]⟩)]
  rfl

theorem openSession_refused (hup : s.rmUp = true) : s.openSession n key false = (s.bootRecord 0x0902 0 0).closeGrants := by
  unfold openSession
  rw [if_neg (by simp [hup]), if_pos (.inl rfl)]
  rfl

end

/-! Reset requests (R186). -/

/-- A set of dies as a number: the sum of its dies' powers of two. -/
theorem dieMask_toNat (s : State) (p : Nat) : (dieMask (s.diesOf p)).toNat = ((s.diesOf p).map (fun d => 2 ^ d)).sum := by
  have hle : ((s.diesOf p).map (fun d => 2 ^ d)).sum ≤ ((List.range 4).map (fun d => 2 ^ d)).sum :=
    (List.filter_sublist.map _).sum_le_sum (fun _ _ => Nat.zero_le _)
  rw [dieMask, BitVec.toNat_ofNat]
  exact Nat.mod_eq_of_lt (Nat.lt_of_le_of_lt hle (by decide))

/-- Two partitions with one mask have the same dies. -/
theorem diesOf_of_mask {s : State} {p q : Nat} (h : (dieMask (s.diesOf p)).toNat = (dieMask (s.diesOf q)).toNat) :
    s.diesOf p = s.diesOf q := by
  have hsorted (r : Nat) : (s.diesOf r).SortedLT := (List.pairwise_lt_range.filter _).sortedLT
  rw [dieMask_toNat, dieMask_toNat] at h
  rw [← Nat.bitIndices_sum_map_two_pow (hsorted p), h, Nat.bitIndices_sum_map_two_pow (hsorted q)]

theorem partOf_of_mem {s : State} {p d : Nat} (h : d ∈ s.diesOf p) : s.partOf d = p := by
  have := (List.mem_filter.1 h).2
  simpa using this

/-- PMASK names the partition whose dies it lists. -/
theorem partOfMask_eq {s : State} {p : Nat} {m : Byte} (hp : p < 4) (hdies : s.diesOf p ≠ []) (hstate : (s.part p).state ≠ .absent)
    (hmask : m.toNat = (dieMask (s.diesOf p)).toNat) : s.partOfMask m = some p := by
  refine List.find?_range_eq_some.2 ⟨by simp [hdies, hstate, hmask], List.mem_range.2 hp, fun j hj => ?_⟩
  by_contra hother
  have hsame : s.diesOf j = s.diesOf p := diesOf_of_mask (by
    simp only [Bool.not_eq_true', Bool.not_eq_false, Bool.and_eq_true, beq_iff_eq] at hother
    exact hother.2.symm.trans hmask)
  obtain ⟨d, hd⟩ := List.exists_mem_of_ne_nil _ hdies
  have hpj : p = j := (partOf_of_mem hd).symm.trans (partOf_of_mem (hsame ▸ hd))
  exact absurd hpj (Nat.ne_of_gt hj)

theorem resetByMask_eq {s : State} {m : ResetMsg} {p : Nat} (h : s.partOfMask m.pmask = some p) :
    s.resetByMask m = (s.answerReset m 0).resetPart p true := by
  rw [resetByMask, h]

section
variable {s : State} {m : ResetMsg}

theorem badRequest_command (h : m.cmd ≠ 1 ∨ 2 < m.scope.toNat) : s.badRequest m = 1 := if_pos h

/-- A request that names what it may is refused for its reserved bytes and its length alone. -/
theorem badRequest_named (hcmd : m.cmd = 1) (hscope : m.scope.toNat ≤ 2) (hmask : m.scope = 1 ∨ m.pmask = 0)
    (hmode : m.scope = 0 ∨ s.rm.state ≠ .recoveryMode) :
    s.badRequest m = if m.rsv ≠ 0 ∨ m.bytes ≠ 8 then 4 else 0 := by
  have h1 : ¬(m.cmd ≠ 1 ∨ 2 < m.scope.toNat) := not_or.2 ⟨not_not_intro hcmd, Nat.not_lt.2 hscope⟩
  have h2 : ¬(m.scope ≠ 1 ∧ m.pmask ≠ 0) := fun h => hmask.elim h.1 h.2
  have h3 : ¬(m.scope ≠ 0 ∧ s.rm.state = .recoveryMode) := fun h => hmode.elim h.1 (fun hne => hne h.2)
  rw [badRequest, if_neg h1, if_neg h2, if_neg h3]

theorem badRequest_none (hcmd : m.cmd = 1) (hrsv : m.rsv = 0) (hbytes : m.bytes = 8) (hscope : m.scope.toNat ≤ 2)
    (hmask : m.scope = 1 ∨ m.pmask = 0) (hmode : m.scope = 0 ∨ s.rm.state ≠ .recoveryMode) : s.badRequest m = 0 :=
  (badRequest_named hcmd hscope hmask hmode).trans (if_neg (by simp [hrsv, hbytes]))

/-! Which of the three steps answers a message, by its scope. -/

theorem requestDevice_eq (b : BootRecord) (h1 : m.scope ≠ 1) (h2 : m.scope ≠ 2) : s.requestDevice m b =
    if s.badRequest m ≠ 0 then s.answerReset m (s.badRequest m) else (s.answerReset m 0).deviceReset .sideband b :=
  if_neg (not_or.2 ⟨h1, h2⟩)

theorem requestPart_eq (h : m.scope = 1) : s.requestPart m =
    if s.badRequest m ≠ 0 then s.answerReset m (s.badRequest m)
    else if s.reconf.isSome then s.setRm (fun r => { r with held := r.held ++ [m] }) else s.resetByMask m := if_neg (not_not_intro h)

theorem requestRm_eq (h : m.scope = 2) : s.requestRm m =
    if s.badRequest m ≠ 0 then s.answerReset m (s.badRequest m) else (s.answerReset m 0).rmReset 5 := if_neg (not_not_intro h)

end

/-! SPDM requests (R208, R209). -/

section
variable {s : State} {inRecovery signed : Bool} {r : Reply}

/-- A request that is answered at all is refused where its answer would be signed without an identity key. -/
theorem spdm_answers (h : s.rm.state ≠ .recoveryMode ∨ inRecovery = true) :
    s.spdm inRecovery signed r = s.answer (if signed ∧ (!s.rm.attests) = true then .refused else r) := by
  have hanswers : ¬(s.rm.state = .recoveryMode ∧ (!inRecovery) = true) := fun hc => h.elim (absurd hc.1) (fun hin => by simp [hin] at hc)
  exact (if_neg hanswers).trans (apply_ite s.answer _ _ _).symm

theorem spdm_plain (h : s.rm.state ≠ .recoveryMode ∨ inRecovery = true) : s.spdm inRecovery false r = s.answer r :=
  (spdm_answers h).trans (congrArg s.answer (if_neg (fun hc => Bool.false_ne_true hc.1)))

theorem spdm_signed (h : s.rm.state ≠ .recoveryMode ∨ inRecovery = true) :
    s.spdm inRecovery true r = s.answer (if s.rm.attests then r else .refused) := by
  refine (spdm_answers h).trans (congrArg s.answer ?_)
  cases s.rm.attests <;> rfl

theorem spdm_silent (h : s.rm.state = .recoveryMode) : s.spdm false signed r = s := if_pos ⟨h, rfl⟩

end

/-! A partition reset, as far as the sideband sees it (R222). -/

theorem freeBinding_rm (s : State) (p n : Nat) : (s.freeBinding p n).rm = s.rm :=
  foldl_keeps State.rm unpinOne (fun _ _ => rfl) (pinFrames (s.binding p n)) s

theorem freeBindings_rm (s : State) (p : Nat) : (s.freeBindings p).rm = s.rm :=
  foldl_keeps State.rm (fun u n => u.freeBinding p n) (fun u n => freeBinding_rm u p n) _ s

theorem clearDies_rm (s : State) (ds : List Nat) : (s.clearDies ds).rm = s.rm := rfl

theorem putDesc_rm {γ : Type} (view : Ringmaster → γ)
    (hview : ∀ r : Ringmaster, view { r with mirror := [], mirrorDue := 0, severe := [] } = view r) (s : State) (q : Nat) :
    view (s.putDesc q).rm = view s.rm := shell_rm view hview (homeStore_shell s q _)

/-- What a reset of a partition leaves of the partition, of what the sideband has been told, and of RSTC. -/
theorem resetOne_spec {s : State} {p : Nat} (sideband : Bool) (hdies : s.diesOf p ≠ []) (hstate : (s.part p).state ≠ .absent) :
    (s.resetOne p sideband).part p = { state := .resetting } ∧ (s.resetOne p sideband).rm.replies = s.rm.replies ∧
      (s.resetOne p sideband).rm.rstc = (s.rm.rstc % 2 ^ 16 ||| BitVec.ofNat 20 (if sideband then 2 ^ 8 else 2 ^ 9)) |||
        ((dieMask (s.diesOf p)).zeroExtend 20 <<< 16) := by
  have hgoes : ¬((s.diesOf p).isEmpty = true ∨ (s.part p).state = .absent) := by simp [hdies, hstate]
  have hclear : ((s.freeBindings p).clearDies (s.diesOf p)).rm = s.rm := (clearDies_rm _ _).trans (freeBindings_rm s p)
  have hdescs {γ : Type} (view : Ringmaster → γ)
      (hview : ∀ r : Ringmaster, view { r with mirror := [], mirrorDue := 0, severe := [] } = view r) (u : State) (l : List Nat) :
      view (l.foldl putDesc u).rm = view u.rm := foldl_keeps (fun u : State => view u.rm) putDesc (fun u q => putDesc_rm view hview u q) l u
  unfold resetOne
  dsimp only
  rw [if_neg hgoes]
  refine ⟨modPart_part_self _ p _, ?_, ?_⟩
  · rw [modPart_rm, hdescs Ringmaster.replies (fun _ => rfl), hclear]
  · rw [modPart_rm, hdescs Ringmaster.rstc (fun _ => rfl), hclear]

theorem thenReconf_none {s : State} {k : State → State} (h : s.reconf = none) : s.thenReconf k = k s := if_neg (by simp [h])

theorem resetPart_alone {s : State} (h : s.reconf = none) (p : Nat) (sideband : Bool) : s.resetPart p sideband = s.resetOne p sideband := by
  simp only [resetPart, together, dropReconf, h]

/-! Device reset, whatever its boot comes to. -/

theorem failingStep_cases (b : BootRecord) : failingStep b = 6 ∨ failingStep b = 5 ∨ failingStep b < 5 := by
  unfold failingStep
  split_ifs <;> decide

theorem boot_division (s : State) {b : BootRecord} (h6 : failingStep b = 6) : s.boot b = (s.beforeBootFails b).bootDivision b := by
  simp only [boot, beforeBootFails, measured, h6, if_true]

theorem deviceReset_remains (s : State) (cause : ResetCause) (b : BootRecord) :
    (s.deviceReset cause b).remains = (s.afterReset cause).remains := by
  obtain h6 | h5 | hlt := failingStep_cases b
  · rw [deviceReset, boot_division _ h6, bootDivision_remains]
    exact beforeBootFails_keeps remains (fun _ _ _ _ => rfl) (fun _ _ _ _ => rfl) _ b
  · exact (deviceReset_step_five cause s h5).1
  · exact (deviceReset_recovery cause s hlt).1

end State

/-- A session is opened, refused and closed (R69, R210). -/
theorem sessionSteps (n : Word) (key : BitVec 512) (s : State) (hup : s.rmUp = true) :
    (n ≠ 0 → (s.sessions.get n.toNat).opened = false → s.rm.attests = true → Gives (.sessionOpen n key true) s (fun t =>
      t.sessions = s.sessions.set n.toNat { opened := true, key := key, highest := 0 } ∧ t.rm.grants = [] ∧
      (∀ q ∈ s.rm.grants, (t.queue q).session = n) ∧ (s.rm.grants = [] → t = { s with sessions := t.sessions }))) ∧
    Gives (.sessionOpen n key false) s (fun t => t.sessions = s.sessions ∧ LastRecord t 0x0902 0) ∧
    Gives (.sessionClose n) s (fun t => (t.sessions.get n.toNat).opened = false ∧
      ∀ m, m ≠ n.toNat → t.sessions.get m = s.sessions.get m) := by
  refine ⟨fun hn hnew hkey => ?opens, ?refused, ?closes⟩
  case opens =>
    refine ⟨_, congrArg Host.Outcome.next (State.openSession_opens hup hn hnew hkey), State.grantAll_sessions _ n _, rfl,
      fun q hq => State.grantAll_queue n _ _ q (.inl hq), fun hnone => ?_⟩
    rw [hnone]
    exact State.closeGrants_same (s := { s with sessions := s.sessions.set n.toNat { opened := true, key := key, highest := 0 } }) hnone
  case refused =>
    let e : ErrRec := { code := 0x0902, sev := 0, action := 0, eclass := 16, part := 0xFF, einst := 4 }
    obtain ⟨d, v, hlog⟩ : ∃ d v, s.bootRecord 0x0902 0 0 = _ := State.log_module s (e := e) Nat.zero_ne_one rfl
    refine ⟨_, congrArg Host.Outcome.next (State.openSession_refused hup), ?_⟩
    rw [hlog]
    exact ⟨rfl, _, List.getLast?_concat, rfl, rfl⟩
  case closes =>
    refine ⟨s.closeSession n, rfl, ?_, fun m hm => ?_⟩
    · rw [State.closeSession_sessions, if_pos rfl]
    · rw [State.closeSession_sessions, if_neg hm]

theorem sidebandSteps : Parts.SidebandSteps := by
  refine ⟨sessionSteps, fun m b s => ?requests, fun nonce s => ?spdm⟩
  case requests =>
    intro answered whole
    refine ⟨fun ⟨hcmd, hrsv, hbytes⟩ h0 hmask => ?device, fun ⟨hcmd, hrsv, hbytes⟩ h2 hmask hmode => ?complex,
      fun ⟨hcmd, hrsv, hbytes⟩ h1 hmode hreconf => ⟨fun p hp hdies hstate hmask => ?part, fun hnone => ?noPart⟩,
      fun ⟨hcmd, hrsv, hbytes⟩ h1 hmode hreconf => ?waits, fun i hi hdevice hpart hcomplex => ?refused⟩
    case device =>
      have hcode : s.badRequest m = 0 := State.badRequest_none hcmd hrsv hbytes (by rw [h0]; decide) (.inr hmask) (.inl h0)
      have hanswer : s.requestDevice m b = (answered 0).deviceReset .sideband b :=
        (State.requestDevice_eq b (by rw [h0]; decide) (by rw [h0]; decide)).trans (if_neg (not_not_intro hcode))
      obtain ⟨hthreads, -, -, -, -, -, -, -, hreplies, hrstc⟩ := deviceReset_left (State.deviceReset_remains (answered 0) .sideband b)
      refine ⟨_, congrArg Host.Outcome.next hanswer, rfl, hthreads, hreplies, ?_⟩
      rw [hrstc, State.rstcAfter, if_neg (by decide), BitVec.getLsbD_or]
      exact Bool.or_true _
    case complex =>
      have hcode : s.badRequest m = 0 := State.badRequest_none hcmd hrsv hbytes (by rw [h2]; decide) (.inr hmask) (.inr hmode)
      have hanswer : s.requestRm m = (answered 0).ringmasterReset .sideband :=
        (State.requestRm_eq h2).trans ((if_neg (not_not_intro hcode)).trans
          (State.ringmasterReset_sideband (s := answered 0) hmode).symm)
      exact congrArg Host.Outcome.next hanswer
    case part =>
      have hcode : s.badRequest m = 0 := State.badRequest_none hcmd hrsv hbytes (by rw [h1]; decide) (.inl h1) (.inr hmode)
      have hanswer : s.requestPart m = (answered 0).resetOne p true := by
        rw [State.requestPart_eq h1, if_neg (not_not_intro hcode), hreconf, State.resetByMask_eq (State.partOfMask_eq hp hdies hstate hmask)]
        exact State.resetPart_alone (s := answered 0) hreconf p true
      have hreset : (answered 0).resetPart p true = (answered 0).resetOne p true := State.resetPart_alone (s := answered 0) hreconf p true
      obtain ⟨hpart, hreplies, hrstc⟩ := State.resetOne_spec (s := answered 0) true hdies hstate
      refine ⟨_, congrArg Host.Outcome.next ((State.thenReconf_none hreconf).trans hanswer),
        congrArg Host.Outcome.next ((State.thenReconf_none (s := answered 0) hreconf).trans hreset), hpart, hreplies, ?_⟩
      rw [hrstc, BitVec.getLsbD_or, BitVec.getLsbD_or, if_pos rfl]
      exact (congrArg (· || _) (Bool.or_true _)).trans (Bool.true_or _)
    case noPart =>
      have hcode : s.badRequest m = 0 := State.badRequest_none hcmd hrsv hbytes (by rw [h1]; decide) (.inl h1) (.inr hmode)
      have hanswer : s.requestPart m = answered 2 := by
        rw [State.requestPart_eq h1, if_neg (not_not_intro hcode), hreconf, State.resetByMask, hnone]
        rfl
      exact congrArg Host.Outcome.next ((State.thenReconf_none hreconf).trans hanswer)
    case waits =>
      have hcode : s.badRequest m = 0 := State.badRequest_none hcmd hrsv hbytes (by rw [h1]; decide) (.inl h1) (.inr hmode)
      have hanswer : s.requestPart m = { s with rm := { s.rm with held := s.rm.held ++ [m] } } := by
        rw [State.requestPart_eq h1, if_neg (not_not_intro hcode), if_pos hreconf]
        rfl
      exact congrArg Host.Outcome.next ((State.thenReconf_same (by rw [hanswer])).trans hanswer)
    case refused =>
      have hrefused {code : Nat} (hcode : s.badRequest m = code) (hbad : code ≠ 0) : exec i s = .next (answered code) := by
        have hbad' : s.badRequest m ≠ 0 := by rw [hcode]; exact hbad
        rw [show answered code = s.answerReset m (s.badRequest m) by rw [hcode]; rfl]
        simp only [List.mem_cons, List.not_mem_nil, or_false] at hi
        obtain rfl | rfl | rfl := hi
        · obtain ⟨h1, h2⟩ := hdevice rfl
          exact congrArg Host.Outcome.next ((State.requestDevice_eq b h1 h2).trans (if_pos hbad'))
        · have hanswer := (State.requestPart_eq (s := s) (hpart rfl)).trans (if_pos hbad')
          exact congrArg Host.Outcome.next ((State.thenReconf_same (by rw [hanswer]; rfl)).trans hanswer)
        · exact congrArg Host.Outcome.next ((State.requestRm_eq (hcomplex rfl)).trans (if_pos hbad'))
      refine ⟨fun h => hrefused (State.badRequest_command h) Nat.one_ne_zero, fun hcmd hscope hmask hmode hbytes => ?_⟩
      exact hrefused ((State.badRequest_named hcmd hscope hmask hmode).trans (if_pos hbytes)) (by decide)
  case spdm =>
    intro plus
    refine ⟨congrArg Host.Outcome.next (State.spdm_plain (.inr rfl)), fun hmode => ?answers, fun hmode i hi => ?silent,
      congrArg Host.Outcome.next (State.spdm_signed (s := { s with fresh := s.fresh + 1 }) (.inr rfl)), fun t => rfl⟩
    case answers =>
      have hplain (r : Reply) : s.spdm false false r = plus r := State.spdm_plain (.inl hmode)
      exact ⟨congrArg Host.Outcome.next (hplain _), congrArg Host.Outcome.next (hplain _), congrArg Host.Outcome.next (hplain _),
        congrArg Host.Outcome.next (hplain _), congrArg Host.Outcome.next (State.spdm_signed (.inl hmode))⟩
    case silent =>
      have hsilent (signed : Bool) (r : Reply) : s.spdm false signed r = s := State.spdm_silent hmode
      simp only [List.mem_cons, List.not_mem_nil, or_false] at hi
      obtain rfl | rfl | rfl | rfl | rfl := hi
      all_goals exact congrArg Host.Outcome.next (hsilent _ _)

/-- Settles O46: the complex by what a mismatch (`mismatch_reduced`, `mismatch_last`), its watchdog, its self-test and its re-attachment
(`reattach_eq`) make of it; the sideband by `sessionSteps`, by what refuses a reset request (`badRequest_named`) and what answers it
(`resetOne_spec`, `deviceReset_remains`), and by the three answers to an SPDM request. -/
theorem supervisor : Obligations.Supervisor := ⟨supervisorSteps, sidebandSteps⟩

end Sys2Proof.Machine
end

section
/-! Prefetches and fences (R310, R313): an instruction whose troupe of one is held, the memory space of an address, and FENCE by what
stands before it. -/

namespace Sys2Proof.Machine

section
variable {s : State} {sel : Sel} {k : Nat} {i : Instr} {y : Bool} {op : State → Nat → TRes}

/-- A troupe of one whose thread is held stays as it is, and is selected no longer. -/
theorem run_holds (hex : exec i s = s.run i y op) (ha : Alone s sel k i.parcels) (hwf : i.wf = true)
    (hmay : State.mayStand { s with sel := none } (sel.key k) i = true) (hop : op { s with sel := none } (sel.key k) = .hold) :
    exec i s = .next { s with sel := none } := by
  have hgate : gated i op { s with sel := none } (threadKey sel.ctx k) = .hold := (gated_alone ha hwf hmay).trans hop
  rw [hex]
  show s.issue i.parcels y (gated i op) = _
  simp [State.issue, ha.1, ha.2.1, Issued.add, hgate, State.leaveAll]

end

/-- The space of an address is its upper four bits (R95). -/
theorem space_eq (e : DWord) : cut e.toNat 60 4 = e.toNat / 2 ^ 60 :=
  Nat.mod_eq_of_lt (by have := e.isLt; omega)

/-- PREF of a translated address requests its line (R310). -/
theorem prefetch_requests (a : BitVec 4) (l : BitVec 2) (o : BitVec 9) (hwf : (Instr.pref a l o).wf = true) :
    CompletesAs (.pref a l o)
      (fun u t => (((u.thr t).rdA a.toNat + o.signExtend 64).toNat / 2 ^ 60 = 0 ∨
        ((u.thr t).rdA a.toNat + o.signExtend 64).toNat / 2 ^ 60 = 15) ∧ canonical ((u.thr t).rdA a.toNat + o.signExtend 64) = true)
      (fun u t => prefLine u t l ((u.thr t).rdA a.toNat + o.signExtend 64)) :=
  completes_of (fun _ => rfl) hwf two_ne_zero (fun _ _ _ => rfl) fun u t _ _ ⟨hspace, hcanonical⟩ => by
    rw [← space_eq] at hspace
    exact (if_pos hspace).trans (if_pos hcanonical)

/-- PREF of a local address at level L1 does nothing (R310). -/
theorem prefetch_local (a : BitVec 4) (o : BitVec 9) :
    CompletesAs (.pref a 0 o)
      (fun u t => let e := ((u.thr t).rdA a.toNat + o.signExtend 64).toNat
        8 ≤ e / 2 ^ 60 ∧ e / 2 ^ 60 ≤ 11 ∧ e / 2 ^ 32 % 2 ^ 28 = 0) (fun u _ => u) :=
  completes_of (fun _ => rfl) rfl two_ne_zero (fun _ _ _ => rfl) fun u t _ _ ⟨hlow, hhigh, hoffset⟩ => by
    rw [← space_eq] at hlow hhigh
    have hlocal : ¬(cut ((u.thr t).rdA a.toNat + o.signExtend 64).toNat 60 4 = 0 ∨
      cut ((u.thr t).rdA a.toNat + o.signExtend 64).toNat 60 4 = 15) := by omega
    exact (if_neg hlocal).trans (if_pos ⟨hlow, hhigh, rfl, hoffset⟩)

section
variable {p q : BitVec 5} {scope : Nat} {s : State} {t : Nat}

/-- A FENCE whose predecessors are performed acquires at its scope (R112). -/
theorem fence_passes (hp : p ≠ 0) (hq : q ≠ 0) (hheld : s.heldBehind t s.nextId = false) (hdone : s.performed t s.nextId scope p = true) :
    fence p q scope s t = .done
      ((if q.getLsbD 0 then s.acquire (s.coreOf t) scope else s).modThr t
        (fun x => { x with seen := x.seen.filter (fun r => (s.regns.get r).isSome) })) none := by
  rw [fence, if_neg (not_or.2 ⟨hp, hq⟩)]
  simp [hheld, hdone]

theorem fence_waits (hp : p ≠ 0) (hq : q ≠ 0) (hheld : s.heldBehind t s.nextId = false) (hdone : s.performed t s.nextId scope p = false) :
    fence p q scope s t = .hold := by
  rw [fence, if_neg (not_or.2 ⟨hp, hq⟩)]
  simp [hheld, hdone]

/-- Behind a faulted entry of its thread a FENCE is put under way (R87). -/
theorem fence_logged (hp : p ≠ 0) (hq : q ≠ 0) (hheld : s.heldBehind t s.nextId = true) :
    fence p q scope s t = s.launch t (.fence p q scope) .l1 .none [] none 0 := by
  rw [fence, if_neg (not_or.2 ⟨hp, hq⟩), if_pos hheld]

theorem State.acquire_eq (s : State) (core scope : Nat) :
    s.acquire core scope = if 2 ≤ scope then { s with l1 := s.l1.drop (fun k x => k / 2 ^ 38 == core && !x.reg) } else s := by
  by_cases h : 2 ≤ scope
  · rw [State.acquire, if_neg (by omega), if_pos h]
  · rw [State.acquire, if_pos (by omega), if_neg h]

end

/-- Settles O15: PREF by the space of its address (`prefetch_requests`, `prefetch_local`), FENCE by what stands before it (`fence_passes`,
`fence_logged`, `fence_waits`). -/
theorem prefetchAndFence : Obligations.PrefetchAndFence := by
  unfold Obligations.PrefetchAndFence
  refine ⟨prefetch_requests, prefetch_local, fun p q c hwf hp hq => ⟨?passes, ?logged, fun s sel k ha hheld hdone => ?waits⟩,
    fun p q c hnone hwf s sel hi => ?nothing⟩
  case passes =>
    refine completes_of (fun _ => rfl) hwf two_ne_zero (fun _ _ _ => rfl) fun u t _ _ ⟨hheld, hdone⟩ => ?_
    rw [fence_passes hp hq hheld hdone, State.acquire_eq, ite_and]
  case logged =>
    refine completes_of (fun _ => rfl) hwf two_ne_zero (fun _ _ _ => rfl) fun u t _ hlost ⟨hheld, hmay⟩ => ?_
    rw [fence_logged hp hq hheld, launch_accessed hlost hmay]
  case waits => exact run_holds rfl ha hwf rfl (fence_waits hp hq hheld hdone)
  case nothing =>
    exact run_own (g := fun u _ => u) rfl hwf two_ne_zero hi (fun _ _ _ _ _ => rfl) (fun u t => ⟨rfl, rfl, fun _ _ => rfl⟩)
      (fun u k _ _ _ => if_pos hnone)

end Sys2Proof.Machine
end

section
/-! Page walks, the operand log and its replays (R86–R88, R133, R134). -/

namespace Sys2Proof.Machine

namespace State

/-! One piece among the pieces of an access. -/

theorem setPiece_append (pre post : List Piece) (p q : Piece) : setPiece (pre ++ p :: post) pre.length q = pre ++ q :: post := by
  induction pre with
  | nil => rfl
  | cons r pre ih => exact congrArg (r :: ·) ih

theorem firstPiece_append {pre post : List Piece} {p : Piece} {f : Piece → Bool} (hp : f p = true) (hpre : ∀ q ∈ pre, f q = false) :
    firstPiece (pre ++ p :: post) f = some pre.length := by
  simp [firstPiece, List.findIdx?_append, List.findIdx?_cons, hp, List.findIdx?_eq_none_iff.2 hpre]

/-- The fault of a piece that stands in the operand log. -/
def faultIn (p : Piece) : Option (XFault × Piece) := match p.st with | .logged f => some (f, p) | _ => none

theorem faultIn_logged {p : Piece} {f : XFault} (h : p.st = .logged f) : faultIn p = some (f, p) := by
  simp only [faultIn, h]

theorem faultIn_none {p : Piece} (h : ∀ g, p.st ≠ .logged g) : faultIn p = none := by
  unfold faultIn
  split
  · next g hg => exact absurd hg (h g)
  · rfl

/-- An access names its first faulted piece (R88). -/
theorem faultOf_append {a : Access} {pre post : List Piece} {p : Piece} {f : XFault} (ha : a.pieces = pre ++ p :: post)
    (hp : p.st = .logged f) (hpre : ∀ q ∈ pre, ∀ g, q.st ≠ .logged g) : faultOf a = some (f, p) := by
  have hnone : pre.findSome? faultIn = none := List.findSome?_eq_none_iff.2 (fun q hq => faultIn_none (hpre q hq))
  show a.pieces.findSome? faultIn = _
  rw [ha, List.findSome?_append, hnone, List.findSome?_cons, faultIn_logged hp]
  rfl

theorem faulted_iff (a : Access) : faulted a = true ↔ ∃ p ∈ a.pieces, ∃ f, p.st = .logged f := by
  unfold faulted
  rw [List.any_eq_true]
  refine exists_congr fun p => and_congr_right fun _ => ?_
  cases p.st <;> simp

section
variable {id : Nat} {s : State} {a : Access} {pre post : List Piece} {p : Piece}
  (ha : s.accs.get id = some a) (hpieces : a.pieces = pre ++ p :: post)

/-! PAGE_WALK_DONE. -/

section
variable (hst : p.st = .walk) (hpre : ∀ q ∈ pre, q.st ≠ .walk)
include ha hpieces hst hpre

/-- The walk of the access's first waiting piece, by its start. -/
theorem walkDone_eq : s.walkDone id = match a.walkAt with
    | none => if s.walksOn (coreDie a.core) < 96 then s.setAcc id (some { a with walkAt := some s.cycle }) else s
    | some t0 =>
      if s.cycle < t0 + 130 * s.walkLevels (coreDie a.core) a.asid p.va.toNat a.op.need then s
      else match s.translate a.core a.asid p.va.toNat a.op.need with
        | .ok (v, pa) => (v.setAcc id (some { withPiece a pre { p with st := .queued, pa := some pa } post with walkAt := none })).fromNow id
            [{ p with st := .queued, pa := some pa }]
        | .error f =>
          if 256 ≤ s.logCount (keyCtx a.thr) ∧ !faulted a then s.logFull a.thr
          else ((s.denied (coreDie a.core) a.asid p.va.toNat f).setAcc id
            (some { withPiece a pre { p with st := .logged f } post with walkAt := none })).commitPart id := by
  have hfirst : firstPiece a.pieces (fun p => p.st == .walk) = some pre.length := by
    rw [hpieces]
    exact firstPiece_append (by simp [hst]) (fun q hq => by simpa using hpre q hq)
  have hget : a.pieces[pre.length]? = some p := by simp [hpieces]
  have hset (q : Piece) : setPiece a.pieces pre.length q = pre ++ q :: post := by rw [hpieces, setPiece_append]
  unfold walkDone
  simp only [ha, hfirst, hget, hset, withPiece]
  cases a.walkAt <;> rfl

end

/-! ATTENDANT_FAULT_HANDLE. -/

section
variable {f : XFault} (hst : p.st = .logged f) (hpre : ∀ q ∈ pre, ∀ g, q.st ≠ .logged g)
include ha hpieces hst hpre

theorem settle_eq (fate : FaultFate) : s.settle id fate =
    if fate ≠ .resolve ∧ s.inMigration a.asid p.va = true then s
    else if s.fateStands id (coreDie a.core) a.asid p.va [a.op.need] f fate = false then s
    else match fate with
      | .resolve => s.setAcc id (some { a with resolved := true })
      | .outside | .permission | .walkUE =>
        (s.trapLate a.thr a.pc (xTrap f p.va) a.batch).setAcc id (if a.op = .fetch then none else some a)
      | .discard => ((s.accessGone id a (fun x => x)).wakeCtx (keyCtx a.thr)).settleSlot a.thr := by
  have hfault : faultOf a = some (f, p) := faultOf_append hpieces hst hpre
  unfold settle settleFault
  simp only [ha, faultVa, hfault, Option.map_some, Bool.not_eq_true']
  rfl

end

/-! OPERAND_LOG_REPLAY. -/

@[simp] theorem fromNow_threads (s : State) (id : Nat) (ps : List Piece) : (s.fromNow id ps).threads = s.threads := by
  unfold fromNow
  split <;> rfl

/-- A faulted piece translates again; another one stays. -/
def replayPiece (a : Access) (acc : State × List Piece) (p : Piece) : State × List Piece :=
  match p.st with
  | .logged _ =>
    match acc.1.translate a.core a.asid p.va.toNat a.op.need with
    | .ok (s1, pa) => (s1, acc.2 ++ [{ p with st := .queued, pa := some pa }])
    | .error f => (acc.1.denied (coreDie a.core) a.asid p.va.toNat f, acc.2 ++ [{ p with st := .logged f }])
  | _ => (acc.1, acc.2 ++ [p])

/-- A settled entry in its turn translates its faulted pieces again, and goes on once none is left. -/
theorem replay_eq {id : Nat} {s : State} {a : Access} (ha : s.accs.get id = some a) : s.replay id =
    if !faulted a || !a.resolved || s.heldBehind a.thr id || !s.mayReplay a.thr then s
    else
      let r := a.pieces.foldl (replayPiece a) (s, [])
      let b := { a with pieces := r.2, resolved := false }
      if a.op = .fetch then (if faulted b then r.1.setAcc id (some b) else (r.1.setAcc id none).wakeCtx (keyCtx a.thr))
      else ((r.1.setAcc id (some b)).fromNow id (r.2.filter (fun p => p.st == .queued))).wakeCtx (keyCtx a.thr) := by
  unfold replay
  rw [ha]
  rfl

theorem foldl_replayPiece_stays (a : Access) {l : List Piece} (hl : ∀ q ∈ l, ∀ g, q.st ≠ .logged g) (acc : State × List Piece) :
    l.foldl (replayPiece a) acc = (acc.1, acc.2 ++ l) := by
  induction l generalizing acc with
  | nil => simp
  | cons q r ih =>
    have hq : replayPiece a acc q = (acc.1, acc.2 ++ [q]) := by
      unfold replayPiece
      split
      · next g hg => exact absurd hg (hl q (List.mem_cons_self ..) g)
      · rfl
    rw [List.foldl_cons, hq, ih (fun x hx => hl x (List.mem_cons_of_mem _ hx))]
    simp

section
variable {f : XFault} {v : State} {pa : Nat} (hst : p.st = .logged f) (hpre : ∀ q ∈ pre, ∀ g, q.st ≠ .logged g)
  (hpost : ∀ q ∈ post, ∀ g, q.st ≠ .logged g) (htr : s.translate a.core a.asid p.va.toNat a.op.need = .ok (v, pa))
include hpieces hst hpre hpost htr

theorem foldl_replayPiece : a.pieces.foldl (replayPiece a) (s, []) = (v, pre ++ { p with st := .queued, pa := some pa } :: post) := by
  have hp : replayPiece a (s, pre) p = (v, pre ++ [{ p with st := .queued, pa := some pa }]) := by
    simp only [replayPiece, hst, htr]
  rw [hpieces, List.foldl_append, foldl_replayPiece_stays a hpre, List.nil_append, List.foldl_cons, hp, foldl_replayPiece_stays a hpost,
    List.append_assoc]
  rfl

include ha

/-- A settled entry in its turn translates again and goes on. -/
theorem replayEntry_eq (hres : a.resolved = true) (hheld : s.heldBehind a.thr id = false) (hactive : (s.ctx (keyCtx a.thr)).state = .active) :
    s.replayEntry id =
      (let q : Piece := { p with st := .queued, pa := some pa }
       if a.op = .fetch then v.setAcc id none
       else (v.setAcc id (some { a with pieces := pre ++ q :: post, resolved := false })).fromNow id
         ((pre ++ q :: post).filter (fun r => r.st == .queued))).wakeCtx (keyCtx a.thr) := by
  have hfaulted : faulted a = true := (faulted_iff a).2 ⟨p, by simp [hpieces], f, hst⟩
  have hgone : faulted { a with pieces := pre ++ { p with st := .queued, pa := some pa } :: post, resolved := false } = false := by
    rw [Bool.eq_false_iff, ne_eq, faulted_iff]
    rintro ⟨q, hq, g, hg⟩
    obtain hq | rfl | hq := (List.mem_append.trans (or_congr_right List.mem_cons)).1 hq
    · exact hpre q hq g hg
    · exact PieceState.noConfusion hg
    · exact hpost q hq g hg
  have hfold := foldl_replayPiece hpieces hst hpre hpost htr
  have hready : ¬((!faulted a || !a.resolved || s.heldBehind a.thr id || !s.mayReplay a.thr) = true) := by
    simp [hfaulted, hres, hheld, mayReplay, hactive]
  have hentry : s.replayEntry id = s.replay id := by
    unfold replayEntry
    rw [ha]
  rw [hentry, replay_eq ha, if_neg hready, hfold]
  dsimp only
  rw [hgone, if_neg Bool.false_ne_true]
  split_ifs <;> rfl

end
end
end State

theorem faultsAreResolvedAndReplayed : Parts.FaultsAreResolvedAndReplayed := by
  intro id s a pre post p hwf ha hpieces put
  refine ⟨fun hst hpre => ?walk, fun f hst hpre => ?log⟩
  case walk =>
    have heq : exec (.pageWalkDone id) s = .next (s.walkDone id) := rfl
    rw [heq, State.walkDone_eq ha hpieces hst hpre]
    refine ⟨fun hidle => ?_, fun t0 ht0 hlt => ?_, fun t0 ht0 hle => ⟨fun v pa htr => ?_, fun f htr => ?_⟩⟩
    · rw [hidle]
      rfl
    · simp only [ht0, if_pos hlt]
    · simp only [ht0, if_neg (Nat.not_lt.2 hle), htr]
      rfl
    · simp only [ht0, if_neg (Nat.not_lt.2 hle), htr, Bool.not_eq_true']
      rfl
  case log =>
    intro stands
    have heq (fate : FaultFate) : exec (.attendantFaultHandle id fate) s = .next (s.settle id fate) := rfl
    have hsettle := State.settle_eq ha hpieces hst hpre
    refine ⟨fun fate hnot => ?falls, ?kinds, fun h => ?outside, fun h => ?resolves, fun fate hfate h hop hmove => ?traps,
      fun fate hne hmove => ?moving, fun hactive hmove => ?discards, fun v pa hpost hres hheld hactive htr => ?replays⟩
    case falls => rw [heq, hsettle, if_pos (Bool.eq_false_iff.2 hnot), ite_self]
    case kinds => 
      have hfits {fate : FaultFate} (h : stands fate) : State.fateFits f fate = true := (Bool.and_eq_true_iff.1 h).1
      simp only [List.forall_mem_cons]
      refine ⟨fun h => ?_, fun h => ?_, fun h => ?_, by simp⟩ <;> simpa [State.fateFits] using hfits h
    case outside =>
      have hup := (Bool.and_eq_true_iff.1 (Bool.and_eq_true_iff.1 (Bool.and_eq_true_iff.1 h).2).1).2
      exact (State.rmUp_iff s).1 hup
    case resolves => 
      have h : s.fateStands id (coreDie a.core) a.asid p.va [a.op.need] f .resolve = true := h
      rw [heq, hsettle, if_neg (fun hc => hc.1 rfl), h]
      rfl
    case traps =>
      have h : s.fateStands id (coreDie a.core) a.asid p.va [a.op.need] f fate = true := h
      rw [heq, hsettle, if_neg (fun hc => by simp [hmove] at hc), h, if_neg hop]
      simp only [List.mem_cons, List.not_mem_nil, or_false] at hfate
      obtain rfl | rfl | rfl := hfate <;> rfl
    case moving => rw [heq, hsettle, if_pos ⟨hne, hmove⟩]
    case discards =>
      have hwoken := State.wakeCtx_accessGone hwf id a (fun x => x) (keyCtx a.thr)
      have hgone : (((s.accessGone id a (fun x => x)).wakeCtx (keyCtx a.thr)).ctx (keyCtx a.thr)).state = .active := by
        rw [hwoken.2.2]
        exact hactive
      refine ⟨_, heq .discard, ?_⟩
      rw [hsettle, if_neg (fun hc => by simp [hmove] at hc)]
      exact (congrArg (WokenOf _) (State.settleSlot_active hgone)).mpr hwoken
    case replays =>
      have hthreads : v.threads.wf = true := by
        rw [State.translate_threads htr]
        exact hwf
      have hreplay := State.replayEntry_eq ha hpieces hst hpre hpost htr hres hheld hactive
      have hexec : exec (.operandLogReplay id) s = .next (s.replayEntry id) := rfl
      refine ⟨fun hop => ⟨_, hexec, ?_⟩, fun hop => ⟨_, hexec, ?_⟩⟩
      · rw [hreplay, if_neg hop]
        exact State.wakeCtx_wokenOf (by rw [State.fromNow_threads]; exact hthreads) _
      · rw [hreplay, if_pos hop]
        exact State.wakeCtx_wokenOf (s := v.setAcc id none) hthreads _

end Sys2Proof.Machine
end

section
/-! Traps decided after issue (R88, R217, R380). -/

namespace Sys2Proof.Machine

namespace State

section
variable {s : State} {g batch : Nat} {e : ErrRec}

theorem amend_shell (s : State) (r : RecAt) (f : ErrRec → ErrRec) : (s.amend r f).shell = s.shell := by
  unfold amend
  split
  · rfl
  · dsimp only
    split
    · rfl
    · exact (homeStore_shell _ _ _).trans rfl

/-- A record that stands is amended where it stands. -/
theorem amend_mirror {r : RecAt} {x : ErrRec} (hx : s.rm.mirror[r.mirror]? = some x) (f : ErrRec → ErrRec) :
    (s.amend r f).rm.mirror[r.mirror]? = some (f x) := by
  have hlt : r.mirror < s.rm.mirror.length := (List.getElem?_eq_some_iff.1 hx).1
  unfold amend
  rw [List.head?_drop, hx]
  dsimp only
  split
  · exact List.getElem?_set_self hlt
  · obtain ⟨rest, hrest⟩ := homeStore_grows { s with rm := { s.rm with mirror := s.rm.mirror.set r.mirror (f x) } } _ _
    rw [← hrest, List.getElem?_append_left (by simpa using hlt)]
    exact List.getElem?_set_self hlt

/-- The first of a troupe's late traps at an instruction is recorded. -/
theorem lateRecord_first (he : e.sev ≠ 1) (hmates : (s.group g).late.find? (fun r => r.batch == batch && s.unread r.place) = none) :
    ∃ pre, (s.lateRecord g batch e).rm.mirror = s.rm.mirror ++ pre ++ [{ e with time := s.now }] := by
  unfold lateRecord
  rw [hmates]
  exact log_mirror s he

/-- A later one is counted in the record of the first (log 8). -/
theorem lateRecord_joins {r : LateRec} {x : ErrRec}
    (hmates : (s.group g).late.find? (fun r => r.batch == batch && s.unread r.place) = some r)
    (hx : s.rm.mirror[r.place.mirror]? = some x) :
    ∃ y, (s.lateRecord g batch e).rm.mirror[r.place.mirror]? = some y ∧ y.count = x.count + 1 ∧ y.slot = min x.slot e.slot := by
  unfold lateRecord
  rw [hmates]
  refine ⟨_, amend_mirror hx _, ?_⟩
  split_ifs with h
  · exact ⟨rfl, (Nat.min_eq_right (Nat.le_of_lt h)).symm⟩
  · exact ⟨rfl, (Nat.min_eq_left (Nat.not_lt.1 h)).symm⟩

/-- The record of a late trap leaves the state beside memory and the list of late records. -/
theorem lateRecord_view {γ : Type} (view : State → γ) (hshell : ∀ {s t : State}, t.shell = s.shell → view t = view s)
    (hgroup : ∀ (u : State) f, (∀ x : Group, ∃ l, f x = { x with late := l }) → view (u.modGroup g f) = view u) :
    view (s.lateRecord g batch e) = view s := by
  unfold lateRecord
  split
  · exact hshell (amend_shell s _ _)
  · exact (hgroup _ _ (fun x => ⟨_, rfl⟩)).trans (hshell (log_shell s e))

theorem lateRecord_groupState (s : State) (g batch : Nat) (e : ErrRec) (j : Nat) :
    ((s.lateRecord g batch e).group j).state = (s.group j).state := by
  refine lateRecord_view (fun v => (v.group j).state) (fun h => by simp only [group, shell_groups h]) (fun v f hf => ?_)
  obtain ⟨l, hl⟩ := hf (v.group g)
  by_cases hj : j = g
  · rw [hj, modGroup_group_self, hl]
  · rw [modGroup_group_ne _ _ _ hj]

/-- The halt of a group is broadcast in threads and groups alone. -/
theorem startHalt_view {γ : Type} (view : State → γ) (hthr : ∀ (u : State) k f, view (u.modThr k f) = view u)
    (hgroup : ∀ (u : State) g f, view (u.modGroup g f) = view u) (s : State) (g : Nat) (cause : Byte) (slot : Nat) :
    view (s.startHalt g cause slot) = view s := by
  unfold startHalt
  split
  · rfl
  · exact (hgroup _ _ _).trans (foldl_keeps view _ (fun u k => hthr u _ _) _ s)

end

/-- Of a late trap in a context in its bank only the record changes more than threads and groups. -/
theorem trapLate_view {γ : Type} (view : State → γ) (hthr : ∀ (u : State) k f, view (u.modThr k f) = view u)
    (hgroup : ∀ (u : State) g f, view (u.modGroup g f) = view u) {s : State} {t : Nat} (hactive : (s.ctx (keyCtx t)).state = .active)
    (pc : DWord) (i : TrapInfo) (batch : Nat) :
    view (s.trapLate t pc i batch) = view (s.lateRecord (s.groupOf t) batch (s.trapRec t pc i 1)) := by
  unfold trapLate
  dsimp only
  split
  · rfl
  · rfl
  · rw [settleSlot_active]
    · exact (startHalt_view view hthr hgroup _ _ _ _).trans (hthr _ _ _)
    · rw [ctx, startHalt_view State.ctxs (fun _ _ _ => rfl) (fun _ _ _ => rfl), modThr_ctxs,
        lateRecord_view State.ctxs (fun h => congrArg (fun x => x.1.ctxs) h) (fun _ _ _ => rfl)]
      exact hactive

/-- A late trap of a runnable thread of a running group: the thread's fields, and the halt. -/
theorem trapLate_spec {s : State} {t : Nat} (hwf : s.threads.wf = true) (hthr : (s.thr t).run = .runnable)
    (hrun : (s.group (s.thr t).group).state = .running) (hactive : (s.ctx (keyCtx t)).state = .active) (pc : DWord) (i : TrapInfo) (batch : Nat) :
    (s.trapLate t pc i batch).thr t =
      { s.thr t with cause := BitVec.ofNat 8 i.cause.code, fva := BitVec.ofNat 64 (i.va.getD 0), tpc := pc } ∧
    (let g := (s.trapLate t pc i batch).group (s.thr t).group
     g.state = .halting ∧ g.cause = BitVec.ofNat 8 i.cause.code ∧ g.causeSlot = keySlot t) := by
  obtain ⟨u, hu⟩ : ∃ u, u = s.lateRecord (s.groupOf t) batch (s.trapRec t pc i 1) := ⟨_, rfl⟩
  have huthr : u.threads = s.threads := hu ▸ lateRecord_view State.threads shell_threads (fun _ _ _ => rfl)
  have huctx : u.ctxs = s.ctxs := hu ▸ lateRecord_view State.ctxs (fun h => congrArg (fun x => x.1.ctxs) h) (fun _ _ _ => rfl)
  have hurun : (u.group (s.thr t).group).state = .running := by
    refine Eq.trans ?_ hrun
    rw [hu]
    exact lateRecord_groupState _ _ _ _ _
  let named (x : Thread) : Thread := { x with cause := BitVec.ofNat 8 i.cause.code, fva := BitVec.ofNat 64 (i.va.getD 0), tpc := pc }
  have hnamed : (u.modThr t named).thr t = named (s.thr t) := by
    rw [modThr_thr_self, thr, huthr]
    rfl
  obtain ⟨hthrs, hgroup, _⟩ := startHalt_spec (s := u.modThr t named) (Tab.set_wf _ _ _ (huthr ▸ hwf)) hurun
    (BitVec.ofNat 8 i.cause.code) (keySlot t)
  have hhalt : s.trapLate t pc i batch = (u.modThr t named).startHalt (s.thr t).group (BitVec.ofNat 8 i.cause.code) (keySlot t) := by
    unfold trapLate
    rw [← hu, hthr]
    refine settleSlot_active ?_
    rw [ctx, startHalt_view State.ctxs (fun _ _ _ => rfl) (fun _ _ _ => rfl), modThr_ctxs, huctx]
    exact hactive
  rw [hhalt, hgroup]
  refine ⟨?_, rfl, rfl, rfl⟩
  rw [hthrs, if_neg, hnamed]
  rw [hnamed]
  simp [named, isBlocked, hthr]

/-- What a trap that its reply carries names. -/
def lateInfo (l : LateTrap) : TrapInfo := { cause := l.cause, code := l.code, va := l.va.map BitVec.toNat, pa := l.pa }

theorem lateInfo_va (l : LateTrap) : BitVec.ofNat 64 ((lateInfo l).va.getD 0) = l.va.getD 0 := by
  unfold lateInfo
  cases l.va <;> simp

/-- The thread of a late trap as its reply finds it: the flag that it carries has counted down. -/
def replied (s : State) (id : Nat) (l : LateTrap) : State :=
  ({ s with late := s.late.set id none } : State).modThr l.thr (fun x => x.flagDown l.flag)

theorem trapAtReply_eq {s : State} {id : Nat} {l : LateTrap} (hl : s.late.get id = some l) : s.trapAtReply id =
    let u := (s.replied id l).wakeCtx (keyCtx l.thr)
    (if l.flag.isSome then u.settleSlot l.thr else u).trapLate l.thr l.pc (lateInfo l) l.batch := by
  unfold trapAtReply
  rw [hl]
  rfl

end State

namespace State

/-- What holds of a thread table and of every change of a run state to runnable holds when threads have gone on. -/
theorem wakeCtx_keeps (good : Tab Thread → Prop) (hset : ∀ m k, good m → good (m.set k { m.get k with run := .runnable })) {s : State}
    (h : good s.threads) (c : Nat) : good (s.wakeCtx c).threads := by
  have hfold (l : List Nat) : ∀ u : State, good u.threads →
      good (l.foldl (fun s k => s.modThr (threadKey c k) (fun x => { x with run := .runnable })) u).threads := by
    induction l with
    | nil => exact fun u h => h
    | cons k r ih => exact fun u h => ih _ (hset _ _ h)
  unfold wakeCtx
  dsimp only
  split
  · exact h
  · unfold wake
    rw [show (State.releaseTroupes _ c _).threads = _ from congrArg State.threads (releaseTroupes_retrouped _ c _)]
    exact hfold _ s h

theorem wakeCtx_threads_wf {s : State} (h : s.threads.wf = true) (c : Nat) : (s.wakeCtx c).threads.wf = true :=
  wakeCtx_keeps (fun m => m.wf = true) (fun _ _ h => Tab.set_wf _ _ _ h) h c

/-- A runnable thread is as it was when others have gone on. -/
theorem wakeCtx_runnable {s : State} {j : Nat} (h : (s.thr j).run = .runnable) (c : Nat) : (s.wakeCtx c).thr j = s.thr j := by
  refine wakeCtx_keeps (fun m => m.get j = s.thr j) (fun m k hm => ?_) rfl c
  rw [Tab.get_set]
  split_ifs with hk
  · rw [← hk, hm, ← h]
  · exact hm

end State

theorem lateTraps : Parts.LateTraps := by
  intro id s l hwf hl hthr hrun hactive hlt mates
  have hghost : ghostGroup l.thr = 0 := by unfold ghostGroup; omega
  have hslot : slotKey l.thr = l.thr := Nat.mod_eq_of_lt hlt
  obtain ⟨w, hw⟩ : ∃ w, w = (s.replied id l).wakeCtx (keyCtx l.thr) := ⟨_, rfl⟩
  have hwoken : WokenOf (s.replied id l) w := hw ▸ State.wakeCtx_wokenOf (Tab.set_wf _ _ _ hwf) _
  have hreplied : (s.replied id l).thr l.thr = (s.thr l.thr).flagDown l.flag := State.modThr_thr_self _ _ _
  have hrunnable : ((s.thr l.thr).flagDown l.flag).run = .runnable := by
    unfold Thread.flagDown
    split <;> exact hthr
  have hgroup : ((s.thr l.thr).flagDown l.flag).group = (s.thr l.thr).group := by
    unfold Thread.flagDown
    split <;> rfl
  have hwthr : w.thr l.thr = (s.thr l.thr).flagDown l.flag := by
    rw [hw, State.wakeCtx_runnable (by rw [hreplied, hrunnable]), hreplied]
  have hwgroups : w.groups = s.groups := by
    rw [hwoken.1]
    rfl
  have hwactive : (w.ctx (keyCtx l.thr)).state = .active := by
    rw [hwoken.2.2]
    exact hactive
  have hwunread : w.unread = s.unread := by
    rw [hwoken.1]
    rfl
  have hwrm : w.rm = s.rm := by
    rw [hwoken.1]
    rfl
  have hstep : s.trapAtReply id = w.trapLate l.thr l.pc (State.lateInfo l) l.batch := by
    rw [State.trapAtReply_eq hl, ← hw]
    dsimp only
    rw [State.settleSlot_active hwactive, ite_self]
  have hgroupOf : w.groupOf l.thr = (s.thr l.thr).group := by rw [State.groupOf, if_pos hghost, hwthr, hgroup]
  obtain ⟨hrec, hhalt⟩ := State.trapLate_spec (s := w) (by rw [hw]; exact State.wakeCtx_threads_wf (Tab.set_wf _ _ _ hwf) _)
    (by rw [hwthr]; exact hrunnable) (by rw [hwthr, hgroup, State.group, hwgroups]; exact hrun) hwactive l.pc (State.lateInfo l) l.batch
  rw [hwthr, hgroup] at hhalt
  have hrm := State.trapLate_view State.rm (fun _ _ _ => rfl) (fun _ _ _ => rfl) hwactive l.pc (State.lateInfo l) l.batch
  rw [hgroupOf] at hrm
  refine ⟨_, congrArg Host.Outcome.next hstep, ?gone, ?thread, hhalt, fun hnone => ?first, fun r e hsome he => ?joins⟩
  case gone =>
    rw [State.trapLate_view State.late (fun _ _ _ => rfl) (fun _ _ _ => rfl) hwactive,
      State.lateRecord_view State.late (fun h => congrArg (fun x => x.1.late) h) (fun _ _ _ => rfl), hwoken.1]
    exact Tab.get_set_self _ _ _
  case thread =>
    rw [hrec, hwthr, State.lateInfo_va]
    rfl
  case first =>
    obtain ⟨pre, hpre⟩ := State.lateRecord_first (s := w) (g := (s.thr l.thr).group) (batch := l.batch)
      (e := w.trapRec l.thr l.pc (State.lateInfo l) 1) (show (2 : Nat) ≠ 1 by decide)
      (by rw [hwunread, State.group, hwgroups]; exact hnone)
    rw [hrm, hpre, hwrm]
    exact ⟨pre, _, rfl, rfl, rfl, congrArg keyCtx hslot, congrArg keySlot hslot, rfl, rfl, rfl⟩
  case joins =>
    obtain ⟨y, hy, hcount, hmin⟩ := State.lateRecord_joins (s := w) (g := (s.thr l.thr).group) (batch := l.batch)
      (e := w.trapRec l.thr l.pc (State.lateInfo l) 1)
      (by rw [hwunread, State.group, hwgroups]; exact hsome) (by rw [hwrm]; exact he)
    rw [hrm]
    exact ⟨y, hy, hcount, hmin.trans (congrArg (min e.slot) (congrArg keySlot hslot))⟩

/-- Settles O30: a walk, a settled fault and a replay by what the step does with the one piece (`walkDone_eq`, `settle_eq`,
`replayEntry_eq`), a late trap by `trapLate_spec` and the two answers of its record. -/
theorem faultsAndLateTraps : Obligations.FaultsAndLateTraps := ⟨faultsAreResolvedAndReplayed, lateTraps⟩

end Sys2Proof.Machine
end

section
/-! A request that is injected (R184): what its step leaves, and what of the state in which the step is counted stays as it was. -/

namespace Sys2Proof.Machine

theorem rested_die (s : State) (d : Nat) : (rested s).die d = { s.die d with lastLine := 0, lastBurst := 0 } :=
  Tab.get_mapCells_of s.dies _ d rfl

theorem rested_partOf (s : State) : (rested s).partOf = s.partOf := rfl

theorem rested_homeDie (s : State) (die pa : Nat) : (rested s).homeDie die pa = s.homeDie die pa := by
  unfold State.homeDie
  rw [rested_die]
  rfl

theorem rested_stopOf (s : State) (die pa : Nat) : (rested s).stopOf die pa = s.stopOf die pa := by
  unfold State.stopOf
  rw [rested_homeDie]
  rfl

theorem rested_flitOf (s : State) (id : Nat) : (rested s).flitOf id = s.flitOf id := by
  unfold State.flitOf
  simp only [rested_stopOf]
  rfl

theorem rested_barred (s : State) (id : Nat) : (rested s).barred id = s.barred id := by
  unfold State.barred State.behind
  simp only [rested_flitOf]
  rfl

theorem rested_mayPresent (s : State) (id : Nat) (p : Post) : (rested s).mayPresent id p = s.mayPresent id p := by
  unfold State.mayPresent
  rw [rested_barred]
  rfl

theorem rested_postBarred (s : State) (p : Post) : (rested s).postBarred p = s.postBarred p := by
  unfold State.postBarred
  simp only [rested_die, rested_partOf]

theorem foldl_take_dies (s : State) (id : Nat) (l : List BudgetNeed) (v : State) : ∃ ds, l.foldl (s.take id) v = { v with dies := ds } := by
  induction l generalizing v with
  | nil => exact ⟨v.dies, rfl⟩
  | cons n r ih =>
    obtain ⟨ds, h⟩ := ih (s.take id v n)
    exact ⟨ds, h⟩

/-- A request whose step moves and has its budget ends as the step does, with injections and bursts counted. -/
theorem inject_moved {s : State} {die cls stop id : Nat} {moved : State → Bool} {k : State → State} (hmoved : moved (k (rested s)) = true)
    (hbudget : HasBudget s (k (rested s)) die cls stop id) : s.inject die cls stop id moved k = injected s (k (rested s)) die cls stop id := by
  show (if !moved (k (rested s)) then _ else if (s.needs (k (rested s)) die cls stop).all (s.affords id) then _ else _) = _
  rw [hmoved, show _ = true from hbudget]
  rfl

/-- What holds of the end of the step, whatever the dies count, holds of the answer. -/
theorem gives_injected {i : Instr} {s : State} {die cls stop id : Nat} {moved : State → Bool} {k : State → State} {q : State → Prop}
    (hex : exec i s = .next (s.inject die cls stop id moved k)) (hmoved : moved (k (rested s)) = true)
    (hbudget : HasBudget s (k (rested s)) die cls stop id) (hq : ∀ ds, q { k (rested s) with dies := ds }) : Gives i s q := by
  obtain ⟨ds, hds⟩ := foldl_take_dies s id (s.needs (k (rested s)) die cls stop) (k (rested s))
  have hinject : s.inject die cls stop id moved k = { k (rested s) with dies := ds } := (inject_moved hmoved hbudget).trans hds
  exact ⟨_, hex, by rw [hinject]; exact hq ds⟩

end Sys2Proof.Machine
end

section
/-! A post and a revoke at their target (R346, R347, R351, R353). -/

namespace Sys2Proof.Machine

namespace State

/-- The check at a post's target is over: its answer is on its way. -/
def answered (u v : State) (id : Nat) (p : Post) (st : PostStage) : State :=
  { v with posts := v.posts.set id (some { p with stage := st, due := u.cycle + postCycles p.core (handleCore p.handle) }) }

/-- The stage of a post after the check. -/
def stageOf (c : Option Cause) : PostStage := match c with | none => .acked | some c => .rejected c

section
variable {u : State} {id : Nat} {p : Post} (hp : u.posts.get id = some p) (hout : p.stage = .out) (hdue : p.due ≤ u.cycle)
  (hmay : u.mayPresent id p = true)
include hp hout hdue hmay

/-- What a post that may be presented meets at its target core. -/
theorem postArrival_eq (hpost : p.revoke = false) (hhere : p.remote = false) : u.postArrival id none =
    if u.postBarred p then u.postRefused id p
    else if u.targetLoads p.handle then { u with posts := u.posts.set id (some { p with stage := .held u.nextHeld }) }
    else
      let r := (u.learn (handleCore p.handle) p.epoch).present (some (p.thr, p.pc)) p.handle p.off p.wide p.value p.wvalue
      u.answered r.1 id p (stageOf r.2) := by
  unfold postArrival
  dsimp only
  rw [hp]
  dsimp only
  rw [if_neg (by simp [hpost, hhere, hout, hmay, Nat.not_lt.2 hdue])]
  rfl

theorem revokeArrival_barred (hrevoke : p.revoke = true) (hbarred : u.postBarred p = true) : u.revokeArrival id = u.postRefused id p := by
  unfold revokeArrival
  rw [hp]
  dsimp only
  rw [if_neg (by simp [hrevoke, hout, hmay, Nat.not_lt.2 hdue]), if_pos hbarred]

/-- A revoke of a live entry of its own context ends the entry's generation (R353). -/
theorem revokeArrival_live (hrevoke : p.revoke = true) (hbarred : u.postBarred p = false) (hforged : u.forged p.handle = false)
    (hgen : handleGen p.handle = (u.handle (handleCore p.handle) (handleIdx p.handle)).gen)
    (hlive : (u.handle (handleCore p.handle) (handleIdx p.handle)).state = .live)
    (hctx : (u.handle (handleCore p.handle) (handleIdx p.handle)).ctx = keyCtx p.thr) : u.revokeArrival id =
      u.answered (u.setHandle (handleCore p.handle) (handleIdx p.handle) ((u.handle (handleCore p.handle) (handleIdx p.handle)).free false))
        id p .acked := by
  unfold revokeArrival
  rw [hp]
  dsimp only
  rw [if_neg (by simp [hrevoke, hout, hmay, Nat.not_lt.2 hdue]), if_neg (by simp [hbarred]), if_neg (by simp [hforged]),
    if_neg (by simp [hlive, hgen]), if_neg (by simp [hctx])]
  rfl

end

/-- A post that may not reach its target is recorded and completes (R193, R196). -/
theorem postRefused_spec (u : State) (id : Nat) (p : Post) :
    (u.postRefused id p).posts.get id = some { p with stage := .acked } ∧ (u.postRefused id p).threads = u.threads ∧
    (u.postRefused id p).cores = u.cores ∧
    ∃ pre r, (u.postRefused id p).rm.mirror = u.rm.mirror ++ pre ++ [r] ∧ r.code = 0x0502 ∧ r.sev = 2 ∧ r.action = 5 := by
  obtain ⟨e, heq, hcode, hsev, haction⟩ : ∃ e : ErrRec,
      u.postRefused id p = { u.log e with posts := (u.log e).posts.set id (some { p with stage := .acked }) } ∧
      e.code = 0x0502 ∧ e.sev = 2 ∧ e.action = 5 := ⟨_, rfl, rfl, rfl, rfl⟩
  obtain ⟨pre, hpre⟩ := log_mirror u (e := e) (by rw [hsev]; decide)
  have hthreads : (u.log e).threads = u.threads := shell_threads (log_shell u e)
  have hcores : (u.log e).cores = u.cores := congrArg (fun x => x.1.cores) (log_shell u e)
  rw [heq]
  exact ⟨Tab.get_set_self _ _ _, hthreads, hcores, pre, _, hpre, hcode, hsev, haction⟩

/-- A handle that names no entry is recorded (R347). -/
theorem forgeRecord_spec (u : State) (sender : Option (Nat × DWord)) (h : DWord) :
    (u.forgeRecord sender h).threads = u.threads ∧
    ∃ pre r, (u.forgeRecord sender h).rm.mirror = u.rm.mirror ++ pre ++ [r] ∧ r.code = 0x0903 ∧ r.sev = 2 ∧ r.detail = h.toNat := by
  obtain ⟨e, heq, hcode, hsev, hdetail⟩ : ∃ e : ErrRec,
      u.forgeRecord sender h = u.log e ∧ e.code = 0x0903 ∧ e.sev = 2 ∧ e.detail = h.toNat := by
    cases sender <;> exact ⟨_, rfl, rfl, rfl, rfl⟩
  obtain ⟨pre, hpre⟩ := log_mirror u (e := e) (by rw [hsev]; decide)
  rw [heq]
  exact ⟨shell_threads (log_shell u e), pre, _, hpre, hcode, hsev, hdetail⟩

theorem wake_troupesOnly (s : State) (c : Nat) (slots : List Nat) : TroupesOnly s (s.wake c slots) := by
  let runs (u : State) (k : Nat) : State := u.modThr (threadKey c k) (fun x => { x with run := .runnable })
  have hruns : TroupesOnly s (slots.foldl runs s) := .foldl runs (fun _ _ _ => rfl) slots s
  exact hruns.trans (releaseTroupes_troupesOnly _ c slots)

theorem wakeCtx_troupesOnly (s : State) (c : Nat) : TroupesOnly s (s.wakeCtx c) := by
  unfold wakeCtx
  dsimp only
  split
  · exact .refl s
  · exact wake_troupesOnly s c _

/-- The registers of a thread in its slot are the target's. -/
theorem targetThread_slot {u : State} {e : Handle} (hgroup : (u.thr (threadKey e.ctx e.slot)).group = e.group) :
    u.targetThread e = u.thr (threadKey e.ctx e.slot) := if_pos hgroup

/-- A runnable target in an active context takes its registers; nothing else of it changes, and no memory. -/
theorem setTarget_spec {u : State} {e : Handle} {x : Thread} (hgroup : (u.thr (threadKey e.ctx e.slot)).group = e.group)
    (hactive : (u.ctx (keyCtx (threadKey e.ctx e.slot))).state = .active) (hx : x.run = .runnable) :
    (u.setTarget e x).thr (threadKey e.ctx e.slot) = x ∧ (u.setTarget e x).mem = u.mem := by
  have hset : u.setTarget e x = (u.setThr (threadKey e.ctx e.slot) x).wakeCtx e.ctx := by
    refine (if_pos hgroup).trans (settleSlot_active ?_)
    rw [wakeCtx_troupesOnly]
    exact hactive
  have hself : (u.setThr (threadKey e.ctx e.slot) x).thr (threadKey e.ctx e.slot) = x := Tab.get_set_self _ _ _
  rw [hset]
  refine ⟨(wakeCtx_runnable (by rw [hself, hx]) _).trans hself, ?_⟩
  rw [wakeCtx_released]
  rfl

section
variable {u : State} {sender : Option (Nat × DWord)} {h : DWord} {off : Nat} {wide : Bool} {v : Word} {w : WReg} {e : Handle}
  (he : u.handle (handleCore h) (handleIdx h) = e)

theorem present_forged (hforged : u.forged h = true) :
    u.present sender h off wide v w = (u.forgeRecord sender h, some .cap) := if_pos hforged

section
variable (hforged : u.forged h = false) (hgen : handleGen h = e.gen) (hlive : e.state = .live)
include he hforged hgen hlive

/-- The check at a live entry of the handle's generation (R347). -/
theorem present_live : u.present sender h off wide v w =
    if (e.kind == 1) != wide || e.cnt ≤ off then (u, some .cap)
    else
      let x := u.targetThread e
      let n := e.first + off
      let b := x.busy.get (if wide then 128 + n else n)
      if e.mode = 0 ∧ !(if decide (u.cycle < b.due) then b.empty else if wide then x.wEmpty.get n else x.gEmpty.get n) then (u, some .overwrite)
      else if decide (u.cycle < b.due) then
        (u.setTarget e { x with busy := x.busy.set (if wide then 128 + n else n) { b with empty := false } }, none)
      else (u.setTarget e (if wide then x.wrW n w else x.wrG n v), none) := by
  unfold present
  rw [if_neg (by simp [hforged]), he]
  dsimp only
  rw [if_neg (by rw [hgen]; omega), if_neg (by simp [hgen, hlive]), if_neg (by simp [hlive])]

/-- A post of another kind, or past the last register, is refused. -/
theorem present_cap (hbad : wide ≠ (e.kind == 1) ∨ e.cnt ≤ off) : u.present sender h off wide v w = (u, some .cap) := by
  rw [present_live he hforged hgen hlive, if_pos]
  rcases hbad with hkind | hcnt
  · simp [Ne.symm hkind]
  · simp [hcnt]

section
variable (hkind : wide = (e.kind == 1)) (hcnt : off < e.cnt) (hgroup : (u.thr (threadKey e.ctx e.slot)).group = e.group)
include hkind hcnt hgroup

/-- A full register of an entry that does not overwrite refuses the post. -/
theorem present_overwrite (hmode : e.mode = 0)
    (hdue : ((u.thr (threadKey e.ctx e.slot)).busy.get (if wide then 128 + (e.first + off) else e.first + off)).due ≤ u.cycle)
    (hfull : (if wide then (u.thr (threadKey e.ctx e.slot)).wEmpty.get (e.first + off)
      else (u.thr (threadKey e.ctx e.slot)).gEmpty.get (e.first + off)) = false) :
    u.present sender h off wide v w = (u, some .overwrite) := by
  rw [present_live he hforged hgen hlive, if_neg (by simp [hkind, hcnt])]
  dsimp only
  rw [targetThread_slot hgroup, decide_eq_false (Nat.not_lt.2 hdue), if_neg Bool.false_ne_true, hfull, if_pos ⟨hmode, rfl⟩]

/-- A post writes an empty register, or one whose entry overwrites. -/
theorem present_writes
    (hdue : ((u.thr (threadKey e.ctx e.slot)).busy.get (if wide then 128 + (e.first + off) else e.first + off)).due ≤ u.cycle)
    (hempty : (if wide then (u.thr (threadKey e.ctx e.slot)).wEmpty.get (e.first + off)
      else (u.thr (threadKey e.ctx e.slot)).gEmpty.get (e.first + off)) = true ∨ e.mode = 1) :
    u.present sender h off wide v w =
      (u.setTarget e (if wide then (u.thr (threadKey e.ctx e.slot)).wrW (e.first + off) w
        else (u.thr (threadKey e.ctx e.slot)).wrG (e.first + off) v), none) := by
  rw [present_live he hforged hgen hlive, if_neg (by simp [hkind, hcnt])]
  dsimp only
  rw [targetThread_slot hgroup, decide_eq_false (Nat.not_lt.2 hdue), if_neg Bool.false_ne_true, if_neg Bool.false_ne_true, if_neg]
  rintro ⟨hmode, hfull⟩
  rcases hempty with hempty | hempty
  · simp [hempty] at hfull
  · omega

/-- Before a result of fixed latency a post marks the register full (R249, R276). -/
theorem present_flying
    (hdue : u.cycle < ((u.thr (threadKey e.ctx e.slot)).busy.get (if wide then 128 + (e.first + off) else e.first + off)).due)
    (hempty : ((u.thr (threadKey e.ctx e.slot)).busy.get (if wide then 128 + (e.first + off) else e.first + off)).empty = true ∨ e.mode = 1) :
    u.present sender h off wide v w =
      (u.setTarget e { u.thr (threadKey e.ctx e.slot) with
        busy := (u.thr (threadKey e.ctx e.slot)).busy.set (if wide then 128 + (e.first + off) else e.first + off)
          { (u.thr (threadKey e.ctx e.slot)).busy.get (if wide then 128 + (e.first + off) else e.first + off) with empty := false } }, none) := by
  rw [present_live he hforged hgen hlive, if_neg (by simp [hkind, hcnt])]
  dsimp only
  rw [targetThread_slot hgroup, decide_eq_true hdue, if_pos rfl, if_pos rfl, if_neg]
  rintro ⟨hmode, hfull⟩
  rcases hempty with hempty | hempty
  · simp [hempty] at hfull
  · omega

end
end
end

end State
end Sys2Proof.Machine
end

section
/-! Posts and revokes at their target, their answers, and the rotation of a handle key. -/

namespace Sys2Proof.Machine

namespace State

@[simp] theorem wrG_run (x : Thread) (n : Nat) (v : Word) : (x.wrG n v).run = x.run := by
  unfold Thread.wrG
  split <;> rfl

@[simp] theorem wrW_run (x : Thread) (n : Nat) (w : WReg) : (x.wrW n w).run = x.run := rfl

/-! Answers. -/

/-- The state in which a post is over: its flag has counted down. -/
def postGone (s : State) (id : Nat) (p : Post) : State :=
  { s with threads := s.threads.set p.thr ((s.thr p.thr).flagDown p.flag), posts := s.posts.set id none }

section
variable {s : State} {id : Nat} {p : Post} (hp : s.posts.get id = some p) (hdue : p.due ≤ s.cycle)
include hp hdue

theorem postReply_acked (hstage : p.stage = .acked) (fate : PostFate) :
    s.postReply id fate = ((s.postGone id p).wakeCtx (keyCtx p.thr)).settleSlot p.thr := by
  unfold postReply
  rw [hp]
  dsimp only
  rw [hstage]
  exact if_neg (Nat.not_lt.2 hdue)

theorem postReply_rejected {c : Cause} (hstage : p.stage = .rejected c) (fate : PostFate) :
    s.postReply id fate =
      (((s.postGone id p).wakeCtx (keyCtx p.thr)).settleSlot p.thr).trapLate p.thr p.pc (trapOf c) p.batch := by
  unfold postReply
  rw [hp]
  dsimp only
  rw [hstage]
  exact if_neg (Nat.not_lt.2 hdue)

end

theorem exec_postReply {s : State} {id : Nat} {p : Post} (hp : s.posts.get id = some p) (hstage : p.stage ≠ .out) (fate : PostFate) :
    exec (.postReply id fate) s = .next (s.postReply id fate) := by
  show execPostReply id fate s = _
  unfold execPostReply
  rw [hp]
  dsimp only
  rw [if_neg (by simpa using hstage)]

theorem exec_postArrival {s : State} {id : Nat} {p : Post} (hp : s.posts.get id = some p) : exec (.postArrival id none) s =
    .next (s.inject (coreDie p.core) 7 (p.core % 56) id (fun t => t.posts.get id != some p) (fun s => s.postArrival id none)) := by
  show execPostArrival id none s = _
  unfold execPostArrival
  rw [hp]

theorem exec_revokeArrival {s : State} {id : Nat} {p : Post} (hp : s.posts.get id = some p) : exec (.revokeArrival id) s =
    .next (s.inject (coreDie p.core) 7 (p.core % 56) id (fun t => t.posts.get id != some p) (fun s => s.revokeArrival id)) := by
  show execRevokeArrival id s = _
  unfold execRevokeArrival
  rw [hp]

/-! A post that is lost with its link. -/

theorem linkRecord_spec (s : State) (l : LinkId) (code action : Nat) (pa : Option Nat) :
    (s.linkRecord l code 2 action pa).shell = s.shell ∧
    ∃ pre r, (s.linkRecord l code 2 action pa).rm.mirror = s.rm.mirror ++ pre ++ [r] ∧ r.code = code ∧ r.sev = 2 := by
  obtain ⟨e, heq, hcode, hsev⟩ : ∃ e : ErrRec, s.linkRecord l code 2 action pa = s.log e ∧ e.code = code ∧ e.sev = 2 := by
    cases l <;> exact ⟨_, rfl, rfl, rfl⟩
  obtain ⟨pre, hpre⟩ := log_mirror s (e := e) (by rw [hsev]; decide)
  rw [heq]
  exact ⟨log_shell s e, pre, _, hpre, hcode, hsev⟩

theorem deadLink_remote {s : State} {p : Post} (hremote : p.remote = true) (hstage : p.stage = .out) (hpeer : p.peer = false)
    (hdown : s.postLink p = .down ∨ s.postLink p = .disabled) : s.deadLink p = some (.uaLink (Config.postPort p.station % 16)) := by
  have hcut : cutOff (s.postLink p) = true := by rcases hdown with h | h <;> rw [h] <;> rfl
  unfold deadLink
  rw [if_neg (by simp [hpeer, hstage, PostStage.onWay]), if_pos ⟨hremote, hcut⟩]

/-- A post that is lost has its record, and its sender traps (R188). -/
theorem postLost_eq {s : State} {id : Nat} {p : Post} {l : LinkId} (hp : s.posts.get id = some p) (hdead : s.deadLink p = some l)
    (hlate : p.sentAt + 100000 ≤ s.now) : s.postLost id =
      ((((s.linkRecord l 0x0507 2 3 none).postGone id p).wakeCtx (keyCtx p.thr)).settleSlot p.thr).trapLate p.thr p.pc (trapOf .notarget)
        p.batch := by
  unfold postLost
  rw [hp]
  dsimp only
  rw [hdead]
  exact if_neg (Nat.not_lt.2 hlate)

/-! A new key. -/

/-- An entry after the rotation of its core's key (R346). -/
def rekeyed (e : Handle) : Handle :=
  let e' : Handle := match e.state with | .live => e.free false | _ => e
  if e'.state = .withdrawn then { e' with state := .free, gen := 0 } else e'

theorem rekeyed_state (e : Handle) : (rekeyed e).state ≠ .live ∧ (rekeyed e).state ≠ .withdrawn := by
  unfold rekeyed Handle.free
  cases h : e.state <;> dsimp only <;> split_ifs <;> simp_all

theorem rotateKey_handle (s : State) (core i : Nat) : (s.rotateKey core).handle core i = rekeyed (s.handle core i) := by
  show (((s.modCore core _).modCore core _).core core).handles.get i = _
  rw [modCore_core_self, modCore_core_self, Tab.get_mapCells_of _ _ _ rfl, Tab.get_mapCells_of _ _ _ rfl]
  rfl

end State

/-- A post or a revoke that is presented and has its budget: what holds of the end of its step, whatever the dies count, holds when it
has arrived. -/
theorem gives_arrived {i : Instr} {id : Nat} {s v : State} {p : Post} {k : State → State} {q : State → Prop} {st : PostStage} {due : Nat}
    (hout : p.stage = .out)
    (hex : exec i s = .next (s.inject (coreDie p.core) 7 (p.core % 56) id (fun t => t.posts.get id != some p) k))
    (hv : k (rested s) = v) (hbudget : HasBudget s v (coreDie p.core) 7 (p.core % 56) id)
    (hget : v.posts.get id = some { p with stage := st, due := due }) (hst : st ≠ .out) (hq : ∀ ds, q { v with dies := ds }) : Gives i s q := by
  subst hv
  refine gives_injected hex ?_ hbudget hq
  rw [hget, bne_iff_ne]
  exact fun h => hst ((congrArg Post.stage (Option.some.inj h)).trans hout)

section
variable {id : Nat} {s : State} {p : Post} {q : State → Prop} (hp : s.posts.get id = some p) (hout : p.stage = .out) (hdue : p.due ≤ s.cycle)
  (hmay : s.mayPresent id p = true)
  (hbudget : HasBudget s (if p.revoke then (rested s).revokeArrival id else (rested s).postArrival id none) (coreDie p.core) 7 (p.core % 56) id)
include hp hout hdue hmay hbudget

section
variable (hrevoke : p.revoke = false) (hhere : p.remote = false)
include hrevoke hhere

/-- A post that may not reach its target arrives nowhere. -/
theorem post_refused (hbarred : s.postBarred p = true) (hq : ∀ ds, q { (rested s).postRefused id p with dies := ds }) :
    Gives (.postArrival id none) s q := by
  have hv := State.postArrival_eq (u := rested s) hp hout hdue ((rested_mayPresent s id p).trans hmay) hrevoke hhere
  rw [rested_postBarred, if_pos hbarred] at hv
  rw [hrevoke, if_neg Bool.false_ne_true, hv] at hbudget
  exact gives_arrived hout (State.exec_postArrival hp) hv hbudget (State.postRefused_spec _ id p).1 PostStage.noConfusion hq

section
variable (hfree : s.postBarred p = false)
include hfree

/-- A post to a context that loads is held (R94). -/
theorem post_held (hloads : s.targetLoads p.handle = true)
    (hq : ∀ ds, q { rested s with posts := s.posts.set id (some { p with stage := .held s.nextHeld }), dies := ds }) :
    Gives (.postArrival id none) s q := by
  have hloads : (rested s).targetLoads p.handle = true := hloads
  have hv := State.postArrival_eq (u := rested s) hp hout hdue ((rested_mayPresent s id p).trans hmay) hrevoke hhere
  rw [rested_postBarred, hfree, if_neg Bool.false_ne_true, if_pos hloads] at hv
  rw [hrevoke, if_neg Bool.false_ne_true, hv] at hbudget
  exact gives_arrived hout (State.exec_postArrival hp) hv hbudget (Tab.get_set_self _ _ _) PostStage.noConfusion hq

/-- A post that is checked goes back with the answer of the check. -/
theorem post_checked (hloads : s.targetLoads p.handle = false) {w : State} {c : Option Cause}
    (hcheck : ((rested s).learn (handleCore p.handle) p.epoch).present (some (p.thr, p.pc)) p.handle p.off p.wide p.value p.wvalue = (w, c))
    (hq : ∀ t : State, t.posts.get id = some { p with stage := State.stageOf c, due := s.cycle + State.postCycles p.core (handleCore p.handle) } →
      t.threads = w.threads → t.mem = w.mem → t.rm = w.rm → q t) : Gives (.postArrival id none) s q := by
  have hloads : (rested s).targetLoads p.handle = false := hloads
  have hv := State.postArrival_eq (u := rested s) hp hout hdue ((rested_mayPresent s id p).trans hmay) hrevoke hhere
  rw [rested_postBarred, hfree, if_neg Bool.false_ne_true, hloads, if_neg Bool.false_ne_true, hcheck] at hv
  rw [hrevoke, if_neg Bool.false_ne_true, hv] at hbudget
  exact gives_arrived hout (State.exec_postArrival hp) hv hbudget (Tab.get_set_self _ _ _) (by cases c <;> exact PostStage.noConfusion)
    (fun ds => hq _ (Tab.get_set_self _ _ _) rfl rfl rfl)

end
end

omit hdue hmay in
theorem revoke_arrives (hrevoke : p.revoke = true) {v : State} {due : Nat} (hv : (rested s).revokeArrival id = v)
    (hget : v.posts.get id = some { p with stage := .acked, due := due }) (hq : ∀ ds, q { v with dies := ds }) : Gives (.revokeArrival id) s q := by
  rw [hrevoke, if_pos rfl, hv] at hbudget
  exact gives_arrived hout (State.exec_revokeArrival hp) hv hbudget hget PostStage.noConfusion hq

end

theorem post_lost {id : Nat} {s : State} {p : Post} (hp : s.posts.get id = some p) (hremote : p.remote = true) (hstage : p.stage = .out)
    (hpeer : p.peer = false) (hdown : s.postLink p = .down ∨ s.postLink p = .disabled) (hlate : p.sentAt + 100000 ≤ s.now)
    (hactive : (s.ctx (keyCtx p.thr)).state = .active) (hlt : p.thr < 2 ^ 40)
    (hbatch : ∀ r ∈ (s.group (s.thr p.thr).group).late, r.batch ≠ p.batch) :
    (s.postLost id).posts.get id = none ∧ ∃ pre r mid q, (s.postLost id).rm.mirror = s.rm.mirror ++ pre ++ [r] ++ mid ++ [q] ∧
      r.code = 0x0507 ∧ r.sev = 2 ∧ q.code = 0x0309 ∧ q.thread = true ∧ q.ctx = keyCtx p.thr ∧ q.slot = keySlot p.thr := by
  have hghost : ghostGroup p.thr = 0 := by unfold ghostGroup; omega
  have hslot : slotKey p.thr = p.thr := Nat.mod_eq_of_lt hlt
  have heq := State.postLost_eq hp (State.deadLink_remote hremote hstage hpeer hdown) hlate
  obtain ⟨u, hu⟩ : ∃ u, u = s.linkRecord (.uaLink (Config.postPort p.station % 16)) 0x0507 2 3 none := ⟨_, rfl⟩
  obtain ⟨hshell, pre, r, hr, hcode, hsev⟩ := s.linkRecord_spec (.uaLink (Config.postPort p.station % 16)) 0x0507 3 none
  rw [← hu] at heq hshell hr
  obtain ⟨w, hw⟩ : ∃ w, w = (u.postGone id p).wakeCtx (keyCtx p.thr) := ⟨_, rfl⟩
  have hreleased : State.Released (u.postGone id p) w := hw ▸ State.wakeCtx_released _ _
  have hwactive : (w.ctx (keyCtx p.thr)).state = .active := by
    have hctxs : u.ctxs = s.ctxs := congrArg (fun x => x.1.ctxs) hshell
    rw [hw, State.wakeCtx_troupesOnly]
    show (u.ctxs.get _).state = _
    rw [hctxs]
    exact hactive
  have hugroups : u.groups = s.groups := State.shell_groups hshell
  have hwgroups : w.groups = s.groups := hreleased.groups.trans hugroups
  have hgroup : (w.thr p.thr).group = (s.thr p.thr).group := by
    have hgone : ((u.postGone id p).thr p.thr).group = (s.thr p.thr).group := by
      rw [State.thr, State.postGone, Tab.get_set_self, State.thr, State.shell_threads hshell]
      unfold Thread.flagDown
      split <;> rfl
    rw [hw, ← hgone]
    refine State.wakeCtx_keeps (fun m => (m.get p.thr).group = ((u.postGone id p).thr p.thr).group) (fun m k hm => ?_) rfl _
    rw [Tab.get_set]
    split_ifs with hk
    · rw [← hm, hk]
    · exact hm
  have hgroupOf : w.groupOf p.thr = (s.thr p.thr).group := by rw [State.groupOf, if_pos hghost, hgroup]
  rw [← hw, State.settleSlot_active hwactive] at heq
  rw [heq]
  constructor
  · rw [State.trapLate_view State.posts (fun _ _ _ => rfl) (fun _ _ _ => rfl) hwactive,
      State.lateRecord_view State.posts (fun h => congrArg (fun x => x.1.posts) h) (fun _ _ _ => rfl), hreleased]
    exact Tab.get_set_self _ _ _
  · have hmates : (w.group (s.thr p.thr).group).late.find? (fun r => r.batch == p.batch && w.unread r.place) = none := by
      rw [State.group, hwgroups, List.find?_eq_none]
      intro x hx
      simp [hbatch x hx]
    obtain ⟨mid, hmid⟩ := State.lateRecord_first (e := w.trapRec p.thr p.pc (trapOf .notarget) 1) (show (2 : Nat) ≠ 1 by decide) hmates
    have hwrm : w.rm = u.rm := by
      rw [hreleased]
      rfl
    rw [State.trapLate_view State.rm (fun _ _ _ => rfl) (fun _ _ _ => rfl) hwactive, hgroupOf, hmid, hwrm, hr]
    exact ⟨pre, r, mid, _, rfl, hcode, hsev, rfl, rfl, congrArg keyCtx hslot, congrArg keySlot hslot⟩

/-- Settles O35: a post by the answer of the check at its target (`present_live` and its cases), a revoke by `revokeArrival_live`, an answer
by `postReply_acked` and `postReply_rejected`, a lost post by `post_lost`, a rotation by `rotateKey_handle`. -/
theorem postsAndRevokes : Obligations.PostsAndRevokes := by
  unfold Obligations.PostsAndRevokes
  refine ⟨?arrival, ?reply, ?lost, ?rotate⟩
  case arrival =>
    intro id s p hp hout hhere hmay core e k n live b staged kept lies hdue hbudget
    have hmay' : (rested s).mayPresent id p = true := (rested_mayPresent s id p).trans hmay
    have hbarred' := rested_postBarred s p
    let u := (rested s).learn core p.epoch
    obtain ⟨hget, hthreads, hcores, hrec⟩ := State.postRefused_spec (rested s) id p
    refine ⟨fun hbarred => ⟨fun hrevoke => ?barredPost, fun hrevoke => ?barredRevoke⟩, fun hfree =>
      ⟨fun hrevoke hloads => ?held, fun hrevoke hloads hlive => ⟨fun hkind hcnt hgroup hrun hactive hkey =>
        ⟨fun hdone hempty => ?writes, fun hdone hempty => ?flying⟩, fun hkind hcnt hgroup hmode hdone hfull => ?overwrite, fun hbad => ?cap⟩,
        fun hrevoke hloads hforged => ?forged, fun hrevoke hforged hgen hlive hctx => ?revoked⟩⟩
    case barredPost => exact post_refused hp hout hdue hmay hbudget hrevoke hhere hbarred (fun ds => ⟨hget, hthreads, hcores, hrec⟩)
    case barredRevoke =>
      exact revoke_arrives hp hout hbudget hrevoke
        (State.revokeArrival_barred (u := rested s) hp hout hdue hmay' hrevoke (hbarred'.trans hbarred)) hget
        (fun ds => ⟨hget, hthreads, hcores, hrec⟩)
    case revoked =>
      refine revoke_arrives hp hout hbudget hrevoke
        (State.revokeArrival_live (u := rested s) hp hout hdue hmay' hrevoke (hbarred'.trans hfree) hforged hgen hlive hctx)
        (Tab.get_set_self _ _ _) (fun ds => ⟨Tab.get_set_self _ _ _, ?_, rfl⟩)
      show (((rested s).setHandle core (handleIdx p.handle) (e.free false)).core core).handles.get (handleIdx p.handle) = _
      rw [State.setHandle, State.modCore_core_self, Tab.get_set_self]
      rfl
    case held => exact post_held hp hout hdue hmay hbudget hrevoke hhere hfree hloads (fun ds => ⟨Tab.get_set_self _ _ _, rfl, rfl⟩)
    case forged =>
      obtain ⟨hthreads, hrec⟩ := State.forgeRecord_spec u (some (p.thr, p.pc)) p.handle
      exact post_checked hp hout hdue hmay hbudget hrevoke hhere hfree hloads (State.present_forged (u := u) hforged)
        (fun t hget ht _ hrm => ⟨hget, ht.trans hthreads, by rw [hrm]; exact hrec⟩)
    all_goals obtain ⟨hforged, hgen, hlive⟩ := hlive
    case writes =>
      obtain ⟨hthr, hmem⟩ := State.setTarget_spec (u := u) (e := e)
        (x := if p.wide then (s.thr k).wrW n p.wvalue else (s.thr k).wrG n p.value) hgroup hactive (by split <;> simp [hrun])
      exact post_checked hp hout hdue hmay hbudget hrevoke hhere hfree hloads
        (State.present_writes (u := u) rfl hforged hgen hlive hkind hcnt hgroup hdone hempty)
        (fun t hget ht hm _ => ⟨hget, by rw [State.thr, ht]; exact hthr, hm.trans hmem⟩)
    case flying =>
      obtain ⟨hthr, hmem⟩ := State.setTarget_spec (u := u) (e := e)
        (x := { s.thr k with busy := (s.thr k).busy.set (if p.wide then 128 + n else n) { b with empty := false } }) hgroup hactive hrun
      exact post_checked hp hout hdue hmay hbudget hrevoke hhere hfree hloads
        (State.present_flying (u := u) rfl hforged hgen hlive hkind hcnt hgroup hdone hempty)
        (fun t hget ht hm _ => ⟨hget, by rw [State.thr, ht]; exact hthr, hm.trans hmem⟩)
    case overwrite =>
      exact post_checked hp hout hdue hmay hbudget hrevoke hhere hfree hloads
        (State.present_overwrite (u := u) rfl hforged hgen hlive hkind hcnt hgroup hmode hdone hfull) (fun t hget ht _ _ => ⟨hget, ht⟩)
    case cap =>
      exact post_checked hp hout hdue hmay hbudget hrevoke hhere hfree hloads
        (State.present_cap (u := u) rfl hforged hgen hlive hbad) (fun t hget ht _ _ => ⟨hget, ht⟩)
  case reply =>
    intro id fate s p hwf hp hactive hdue v
    have hwoken : WokenOf v ((s.postGone id p).wakeCtx (keyCtx p.thr)) := State.wakeCtx_wokenOf (Tab.set_wf _ _ _ hwf) _
    have hsettled : ((s.postGone id p).wakeCtx (keyCtx p.thr)).settleSlot p.thr = (s.postGone id p).wakeCtx (keyCtx p.thr) := by
      apply State.settleSlot_active
      rw [hwoken.2.2]
      exact hactive
    refine ⟨fun hstage => ⟨_, State.exec_postReply hp (by simp [hstage]) fate, ?_⟩,
      fun c hstage => ⟨_, State.exec_postReply hp (by simp [hstage]) fate, _, hwoken, ?_⟩⟩
    · rw [State.postReply_acked hp hdue hstage, hsettled]
      exact hwoken
    · rw [State.postReply_rejected hp hdue hstage, hsettled]
  case lost =>
    intro id s p _ hp hremote hstage hpeer hdown hlate hactive hlt hbatch
    exact ⟨_, rfl, post_lost hp hremote hstage hpeer hdown hlate hactive hlt hbatch⟩
  case rotate =>
    intro core s
    refine ⟨s.rotateKey core, rfl, ?_, fun i => ?_, fun d hd => ?_, rfl⟩
    · show (((s.modCore core _).modCore core _).core core).keyEpoch = _
      rw [State.modCore_core_self, State.modCore_core_self]
    · rw [State.rotateKey_handle]
      exact State.rekeyed_state _
    · show ((s.modCore core _).modCore core _).core d = _
      rw [State.modCore_core_ne _ _ _ hd, State.modCore_core_ne _ _ _ hd]

end Sys2Proof.Machine
end

section
/-! What a store at a home leaves of the bindings: which words each of them watches (R144). -/

namespace Sys2Proof.Machine

namespace State

/-- The words that the bindings of every partition watch. -/
def watches (s : State) (p k : Nat) : List Watch := ((s.part p).bindings.get k).watch

theorem modPart_watches (s : State) (p : Nat) (f : Part → Part)
    (h : ∀ k, ((f (s.part p)).bindings.get k).watch = ((s.part p).bindings.get k).watch) : (s.modPart p f).watches = s.watches := by
  funext q k
  unfold watches
  by_cases hq : q = p
  · rw [hq, modPart_part_self]
    exact h k
  · rw [modPart_part_ne _ _ _ hq]

/-- A binding is replaced by one that watches the same words. -/
theorem setBinding_watches (s : State) (p n : Nat) (b : Binding) (h : b.watch = ((s.part p).bindings.get n).watch) :
    (s.modPart p (fun q => { q with bindings := q.bindings.set n b })).watches = s.watches := by
  refine modPart_watches s p _ (fun k => ?_)
  dsimp only
  rw [Tab.get_set]
  split_ifs with hk
  · rw [hk, h]
  · rfl

theorem homeStoreRaw_watches (s : State) (pa : Nat) (bs : List Byte) : (s.homeStoreRaw pa bs).watches = s.watches := by
  refine foldl_keeps watches _ (fun u w => ?_) (wordsOf pa bs.length) s
  dsimp only
  split
  · show (u.revoke w).watches = u.watches
    unfold revoke
    cases u.ownerOf w with
    | none => rfl
    | some c => dsimp only; split <;> rfl
  · unfold forward
    cases u.ownerOf w <;> rfl

section
variable {put : State → Nat → List Byte → State} (hput : ∀ s pa bs, (put s pa bs).watches = s.watches)
include hput

theorem queueToBy_watches (s : State) (p : Nat) (e : ErrRec) : (queueToBy put s p e).watches = s.watches := by
  unfold queueToBy
  dsimp only
  split_ifs
  · rfl
  · exact modPart_watches _ _ _ (fun _ => rfl)
  · exact (modPart_watches _ _ _ (fun _ => rfl)).trans (hput s _ _)

theorem emitBy_watches (s : State) (e : ErrRec) : (emitBy put s e).watches = s.watches := queueToBy_watches hput s e.part e

theorem logBy_watches (s : State) (e : ErrRec) : (logBy put s e).watches = s.watches := by
  unfold logBy
  dsimp only
  split_ifs
  · exact emitBy_watches hput s _
  · cases s.pendingOf { e with time := s.now } with
    | none => rfl
    | some kp =>
      dsimp only
      split_ifs
      · exact emitBy_watches hput s _
      · rfl
      · exact emitBy_watches hput s _

theorem putEntryBy_watches (s : State) (key : Nat) (old : Word) (bad : Bool) (e : Option (Bool × Nat)) :
    (putEntryBy put s key old bad e).watches = s.watches := by
  match e with
  | none => rfl
  | some (true, _) => rfl
  | some (false, a) => exact hput s a _

theorem captureWordBy_watches (s : State) (w p n opnd idx : Nat) (old : Word) (bad : Bool) :
    (captureWordBy put s w p n opnd idx old bad).watches = s.watches := by
  unfold captureWordBy
  dsimp only
  cases s.beforeCut p ((s.part p).bindings.get n) w
  all_goals
    simp only [Bool.false_eq_true, if_false, if_true]
    split_ifs
    · rfl
    · exact setBinding_watches s p n _ rfl
    · exact (logBy_watches hput _ _).trans (setBinding_watches s p n _ rfl)
    · exact (putEntryBy_watches hput _ _ _ _ _).trans (setBinding_watches s p n _ rfl)

theorem captureInBy_watches (s : State) (w p n : Nat) : (captureInBy put s w p n).watches = s.watches := by
  unfold captureInBy
  dsimp only
  split
  · rfl
  · refine foldl_keeps watches _ (fun u r => ?_) _ s
    split_ifs
    · exact captureWordBy_watches hput u _ _ _ _ _ _ _
    · exact captureWordBy_watches hput u _ _ _ _ _ _ _
    · exact setBinding_watches u p n _ rfl
    · rfl

theorem captureBy_watches (s : State) (ws : List Nat) : (captureBy put s ws).watches = s.watches :=
  foldl_keeps watches _ (fun u _ => foldl_keeps watches _ (fun v _ => foldl_keeps watches _
    (fun x _ => captureInBy_watches hput x _ _ _) _ v) _ u) _ s

end

theorem writeHome_watches (n : Nat) (s : State) (pa : Nat) (bs : List Byte) : (writeHome n s pa bs).watches = s.watches := by
  induction n generalizing s pa bs with
  | zero => exact homeStoreRaw_watches s pa bs
  | succ n ih => rw [writeHome, homeStoreRaw_watches, captureBy_watches ih]

theorem homeStore_watches (s : State) (pa : Nat) (bs : List Byte) : (s.homeStore pa bs).watches = s.watches := writeHome_watches 4096 s pa bs

/-- A word that no binding watches is in no region of one. -/
theorem unwatched_of_watches {s t : State} {pa n : Nat} (h : t.watches = s.watches) (hs : Unwatched s pa n) : Unwatched t pa n :=
  fun p k w hw => by
    have hsame : ((t.part p).bindings.get k).watch = ((s.part p).bindings.get k).watch := congrFun (congrFun h p) k
    rw [regionsOf, hsame]
    exact hs p k w hw

end State
end Sys2Proof.Machine
end

section
/-! Words that a store at a home has written whole or in part: no core owns them, and their bytes are memory's (R100, R102). -/

namespace Sys2Proof.Machine

theorem mem_wordsOf {pa n w : Nat} : w ∈ wordsOf pa n ↔ n ≠ 0 ∧ pa / 4 ≤ w ∧ 4 * w < pa + n := by
  unfold wordsOf
  split_ifs with hn
  · simp [hn]
  · rw [List.mem_map]
    constructor
    · rintro ⟨i, hi, rfl⟩
      have hlt := List.mem_range.1 hi
      omega
    · rintro ⟨_, hlow, hhigh⟩
      exact ⟨w - pa / 4, List.mem_range.2 (by omega), by omega⟩

/-- Words of fewer bytes within others' are watched no more than they are. -/
theorem unwatched_within {s : State} {pa n a m : Nat} (h : Unwatched s pa n) (hlow : pa ≤ a) (hhigh : a + m ≤ pa + n) : Unwatched s a m :=
  fun p k w hw => h p k w (by
    obtain ⟨hm, h1, h2⟩ := mem_wordsOf.1 hw
    exact mem_wordsOf.2 ⟨by omega, by omega, by omega⟩)

namespace State

theorem revoke_owner (s : State) (w v : Nat) : (s.revoke w).owner.get v = if v = w then 0 else s.owner.get v := by
  unfold revoke ownerOf
  by_cases h : s.owner.get w = 0
  · rw [if_pos h]
    dsimp only
    split_ifs with hv
    · rw [hv, h]
    · rfl
  · rw [if_neg h]
    dsimp only
    split <;> exact Tab.get_set _ _ _ _

theorem forward_owner (s : State) (w v : Nat) : (s.forward w).owner.get v = if v = w then 0 else s.owner.get v := by
  unfold forward ownerOf
  by_cases h : s.owner.get w = 0
  · rw [if_pos h]
    dsimp only
    split_ifs with hv
    · rw [hv, h]
    · rfl
  · rw [if_neg h]
    exact Tab.get_set _ _ _ _

/-- A word is forwarded: no byte of another word changes. -/
theorem forward_mem (s : State) (w : Nat) {a : Nat} (h : a / 4 ≠ w) : (s.forward w).mem.get a = s.mem.get a := by
  unfold forward
  cases s.ownerOf w with
  | none => rfl
  | some c =>
    refine Memory.get_store_outside s.mem (4 * w) a (leBytes 4 _) ?_
    rw [leBytes_length]
    omega

theorem foldl_owner {f : State → Nat → State} (hf : ∀ u w v, (f u w).owner.get v = if v = w then 0 else u.owner.get v) (l : List Nat)
    (s : State) (v : Nat) : (l.foldl f s).owner.get v = if v ∈ l then 0 else s.owner.get v := by
  induction l generalizing s with
  | nil => rfl
  | cons w r ih =>
    rw [List.foldl_cons, ih, hf]
    by_cases hr : v ∈ r
    · simp [hr]
    · by_cases hw : v = w <;> simp [hr, hw]

theorem foldl_mem {f : State → Nat → State} {a : Nat} (hf : ∀ u w, a / 4 ≠ w → (f u w).mem.get a = u.mem.get a) {l : List Nat}
    (hl : a / 4 ∉ l) (s : State) : (l.foldl f s).mem.get a = s.mem.get a := by
  induction l generalizing s with
  | nil => rfl
  | cons w r ih =>
    obtain ⟨hw, hr⟩ := not_or.1 (mt List.mem_cons.2 hl)
    rw [List.foldl_cons, ih hr, hf s w hw]

/-- No core owns a word that a store has touched. -/
theorem homeStoreRaw_owner (s : State) (pa : Nat) (bs : List Byte) (v : Nat) :
    (s.homeStoreRaw pa bs).owner.get v = if v ∈ wordsOf pa bs.length then 0 else s.owner.get v := by
  refine foldl_owner (fun u w v => ?_) (wordsOf pa bs.length) s v
  split
  · exact revoke_owner u w v
  · exact forward_owner u w v

theorem homeStoreRaw_inside (s : State) (pa : Nat) (bs : List Byte) {i : Nat} (h : i < bs.length) :
    (s.homeStoreRaw pa bs).mem.get (pa + i) = bs.getD i 0 := Memory.get_store_inside _ _ _ _ h

/-- A store leaves the bytes of the words that it does not touch. -/
theorem homeStoreRaw_outside (s : State) (pa : Nat) (bs : List Byte) {a : Nat} (h : a / 4 ∉ wordsOf pa bs.length) :
    (s.homeStoreRaw pa bs).mem.get a = s.mem.get a := by
  have hpa : a < pa ∨ pa + bs.length ≤ a := by
    rw [mem_wordsOf] at h
    omega
  refine (Memory.get_store_outside _ _ _ _ hpa).trans ?_
  refine foldl_mem (fun u w hw => ?_) h s
  dsimp only
  split_ifs
  · exact congrArg (fun m : Memory => m.get a) (revoke_mem u w)
  · exact forward_mem u w hw

/-- A byte of a word of four bytes. -/
theorem byteOf_wordOf {bs : List Byte} (hlen : bs.length = 4) {j : Nat} (hj : j < 4) : byteOf (wordOf bs) j = bs.getD j 0 := by
  match bs, hlen with
  | [b0, b1, b2, b3], _ =>
    have h0 := b0.isLt
    have h1 := b1.isLt
    have h2 := b2.isLt
    have h3 := b3.isLt
    apply BitVec.eq_of_toNat_eq
    simp only [byteOf, wordOf, leNat, BitVec.truncate_eq_setWidth, BitVec.toNat_setWidth, BitVec.toNat_ushiftRight, BitVec.toNat_ofNat,
      Nat.shiftRight_eq_div_pow]
    obtain rfl | rfl | rfl | rfl : j = 0 ∨ j = 1 ∨ j = 2 ∨ j = 3 := by omega
    all_goals
      simp
      omega

/-- Bytes of words that no core owns are memory's. -/
theorem homeLoad_unowned {s : State} {n pa : Nat} (h : ∀ i < n, s.owner.get ((pa + i) / 4) = 0) : s.homeLoad pa n = s.mem.bytes pa n := by
  induction n generalizing pa with
  | zero => rfl
  | succ n ih =>
    have hbyte : byteOf (s.wordVal (pa / 4)) (pa % 4) = s.mem.get pa := by
      have hword : s.wordVal (pa / 4) = wordOf (s.mem.bytes (4 * (pa / 4)) 4) := by
        have hnone : s.owner.get (pa / 4) = 0 := h 0 (Nat.succ_pos n)
        rw [wordVal, ownerOf, if_pos hnone]
        rfl
      have hlt : pa % 4 < 4 := Nat.mod_lt _ (by decide)
      rw [hword, byteOf_wordOf (Memory.length_bytes _ _ _) hlt, Memory.getD_bytes _ _ _ _ hlt]
      congr 1
      omega
    have hrest := ih (pa := pa + 1) (fun i hi => by rw [Nat.add_assoc, Nat.add_comm 1]; exact h (i + 1) (by omega))
    rw [homeLoad, hbyte, hrest]
    rfl

end State
end Sys2Proof.Machine
end

section
/-! The save area of a context as the Gleaner writes it (R79, R374, R381, R382): what its stores leave, and its first bytes. -/

namespace Sys2Proof.Machine

namespace State

/-- What no store into a save area changes. -/
def kept (s : State) : Tab Thread × Tab Core × Tab Ctx × (Nat → Nat → List Watch) := (s.threads, s.cores, s.ctxs, s.watches)

theorem homeStore_kept (s : State) (pa : Nat) (bs : List Byte) : (s.homeStore pa bs).kept = s.kept := by
  have hshell := homeStore_shell s pa bs
  exact Prod.ext (shell_threads hshell) (Prod.ext (congrArg (fun x => x.1.cores) hshell)
    (Prod.ext (congrArg (fun x => x.1.ctxs) hshell) (homeStore_watches s pa bs)))

theorem markPoison_kept (s : State) (w : Nat) (bad : Bool) : (s.markPoison w bad).kept = s.kept := by
  cases bad <;> rfl

theorem areaWord_kept (s : State) (a : Nat) (v : List Byte) (bad : Bool) : (s.areaWord a v bad).kept = s.kept :=
  (markPoison_kept _ _ _).trans (homeStore_kept s a v)

theorem areaPad_kept (s : State) (c p : Nat) : (s.areaPad c p).kept = s.kept := by
  unfold areaPad
  dsimp only
  split
  · exact (markPoison_kept _ _ _).trans (homeStore_kept s _ _)
  · exact homeStore_kept s _ _

theorem areaShare_kept (s : State) (c q : Nat) : (s.areaShare c q).kept = s.kept := by
  unfold areaShare
  dsimp only
  split
  · exact (markPoison_kept _ _ _).trans (homeStore_kept s _ _)
  · exact homeStore_kept s _ _

theorem areaPrivate_kept (s : State) (a n : Nat) : (s.areaPrivate a n).kept = s.kept :=
  foldl_keeps kept _ (fun u _ => (homeStore_kept u.draw.2 _ _).trans rfl) _ s

/-- The save area is written up to its header, then the header and SPILLPOS; the spill is over. -/
theorem writeArea_split (s : State) (c : Nat) : ∃ u : State, u.kept = s.kept ∧
    s.writeArea c = ((u.homeStore (s.ctx c).save (u.areaHeader c)).areaPrivate ((s.ctx c).save + 0x58) 2).modCtx c
      (fun x => { x with passed := 0, movedAt := 0, slots := [], ovPad := [], ovShare := [] }) := by
  unfold writeArea
  refine ⟨_, ?_, rfl⟩
  dsimp only
  refine (foldl_keeps kept _ (fun u k => areaPrivate_kept u _ _) _ _).trans ?_
  refine (areaPrivate_kept _ _ _).trans ((areaPrivate_kept _ _ _).trans ?_)
  refine (foldl_keeps kept _ (fun u q => areaShare_kept u _ _) _ _).trans ?_
  refine (foldl_keeps kept _ (fun u p => areaPad_kept u _ _) _ _).trans ?_
  refine (homeStore_kept _ _ _).trans ?_
  refine (foldl_keeps kept _ (fun u i => (homeStore_kept _ _ _).trans (homeStore_kept u _ _)) _ _).trans ?_
  refine (foldl_keeps kept _ (fun u i => ?_) _ _).trans ?_
  · split
    · rfl
    · exact (foldl_keeps kept _ (fun u j => areaWord_kept u _ _ _) _ _).trans (homeStore_kept u _ _)
  · exact foldl_keeps kept _ (fun u k => (foldl_keeps kept _ (fun u j => areaWord_kept u _ _ _) _ _).trans (homeStore_kept u _ _)) _ s

theorem areaHeader_length (s : State) (c : Nat) : (s.areaHeader c).length = 256 := by
  simp [areaHeader, recBytes, bitmap, leBytes_length]

/-- The header begins with the magic number, the context, its tenant and the format. -/
theorem areaHeader_take (s : State) (c : Nat) :
    (s.areaHeader c).take 8 = leBytes 4 0x4B375341 ++ leBytes 2 c ++ leBytes 1 (s.ctx c).tenant.toNat ++ [1] := by
  simp [areaHeader, recBytes, leBytes]

/-- Eight bytes stand at the head of a save area, in words that no core owns. -/
def Heads (v : State) (save : Nat) (bs : List Byte) : Prop :=
  ∀ i < 8, v.owner.get ((save + i) / 4) = 0 ∧ v.mem.get (save + i) = bs.getD i 0

section
variable {u : State} {save : Nat} {bs : List Byte}

theorem homeStore_heads (hunwatched : Unwatched u save bs.length) (hlen : 8 ≤ bs.length) : Heads (u.homeStore save bs) save bs := by
  rw [homeStore_unwatched hunwatched]
  refine fun i hi => ⟨?_, homeStoreRaw_inside u save bs (by omega)⟩
  rw [homeStoreRaw_owner, if_pos (mem_wordsOf.2 ⟨by omega, by omega, by omega⟩)]

/-- A store further on leaves the head as it is. -/
theorem Heads.store (h : Heads u save bs) {a : Nat} {l : List Byte} (hunwatched : Unwatched u a l.length) (hlow : save + 12 ≤ a) :
    Heads (u.homeStore a l) save bs := by
  rw [homeStore_unwatched hunwatched]
  intro i hi
  obtain ⟨howner, hmem⟩ := h i hi
  have hword : (save + i) / 4 ∉ wordsOf a l.length := fun hw => by
    have := (mem_wordsOf.1 hw).2.1
    omega
  rw [homeStoreRaw_owner, if_neg hword, homeStoreRaw_outside u a l hword]
  exact ⟨howner, hmem⟩

theorem Heads.areaPrivate (h : Heads u save bs) {a n : Nat} (hunwatched : Unwatched u a (4 * n)) (hlow : save + 12 ≤ a) :
    Heads (u.areaPrivate a n) save bs := by
  have hfold (l : List Nat) (hl : ∀ i ∈ l, i < n) : ∀ v : State, v.watches = u.watches → Heads v save bs →
      Heads (l.foldl (fun s i => s.draw.2.homeStore (a + 4 * i) (leBytes 4 s.draw.1.toNat)) v) save bs := by
    induction l with
    | nil => exact fun v _ hv => hv
    | cons i r ih =>
      intro v hwatches hv
      have hi := hl i (List.mem_cons_self ..)
      refine ih (fun j hj => hl j (List.mem_cons_of_mem _ hj)) _ ((homeStore_watches v.draw.2 _ _).trans hwatches) ?_
      refine Heads.store (u := v.draw.2) hv (unwatched_of_watches (t := v.draw.2) hwatches (unwatched_within hunwatched (by omega) ?_)) (by omega)
      rw [leBytes_length]
      omega
  exact hfold _ (fun i hi => List.mem_range.1 hi) u rfl h

/-- The first eight bytes as the home gives them. -/
theorem Heads.load (h : Heads u save bs) (hlen : 8 ≤ bs.length) : u.homeLoad save 8 = bs.take 8 := by
  rw [homeLoad_unowned (fun i hi => (h i hi).1)]
  refine List.ext_getElem (by simp [Memory.length_bytes, hlen]) (fun i hi _ => ?_)
  have hi8 : i < 8 := by rwa [Memory.length_bytes] at hi
  have hbyte := Memory.getD_bytes u.mem save 8 i hi8
  rw [(h i hi8).2, List.getD_eq_getElem?_getD, List.getD_eq_getElem?_getD, List.getElem?_eq_getElem hi,
    List.getElem?_eq_getElem (by omega)] at hbyte
  simpa using hbyte

end

/-- An unwatched save area begins with the header's first bytes once it is written. -/
theorem writeArea_heads {s : State} {c : Nat} (hunwatched : Unwatched s (s.ctx c).save (2 ^ 22)) :
    ∃ bs : List Byte, bs.take 8 = leBytes 4 0x4B375341 ++ leBytes 2 c ++ leBytes 1 (s.ctx c).tenant.toNat ++ [1] ∧
      8 ≤ bs.length ∧ Heads (s.writeArea c) (s.ctx c).save bs := by
  obtain ⟨u, hkept, heq⟩ := s.writeArea_split c
  have hctxs : u.ctxs = s.ctxs := congrArg (fun x => x.2.2.1) hkept
  have hwatches : u.watches = s.watches := congrArg (fun x => x.2.2.2) hkept
  have hlen := u.areaHeader_length c
  refine ⟨u.areaHeader c, ?_, by omega, ?_⟩
  · rw [areaHeader_take, ctx, ctx, hctxs]
  · rw [heq]
    have hhead : Heads (u.homeStore (s.ctx c).save (u.areaHeader c)) (s.ctx c).save (u.areaHeader c) :=
      homeStore_heads (unwatched_within (unwatched_of_watches hwatches hunwatched) (Nat.le_refl _) (by omega)) (by omega)
    refine hhead.areaPrivate (unwatched_of_watches ((homeStore_watches u _ _).trans hwatches) ?_) (by omega)
    exact unwatched_within hunwatched (by omega) (by omega)

end State
end Sys2Proof.Machine
end

section
/-! Context commands and what ends them (R77–R84, R94, R381, R382), and the attendants' window (R84, R207). -/

namespace Sys2Proof.Machine

theorem Core.ctxIn_setCtx (k : Core) (bank c : Nat) : (k.setCtx bank c).ctxIn bank = c := by
  unfold Core.setCtx Core.ctxIn
  by_cases h : bank = 0 <;> simp [h]

/-- A bank's context is no part of the command register. -/
theorem Core.setCtx_cmd (k : Core) (bank c : Nat) : (k.setCtx bank c).cmdSave = k.cmdSave ∧ (k.setCtx bank c).cmdCtx = k.cmdCtx := by
  unfold Core.setCtx
  split <;> exact ⟨rfl, rfl⟩

namespace State

/-- A context that is not 0 reaches its state; nothing else of it changes. -/
theorem ctxTo_ctx (s : State) (core bank : Nat) {c : Nat} (hc : c ≠ 0) (st : CtxState) :
    (s.ctxTo core bank c st).ctx c = { s.ctx c with state := st } := by
  unfold ctxTo
  rw [if_neg hc]
  exact s.modCtx_ctx_self c _

theorem ctxTo_ctx_ne (s : State) (core bank : Nat) {c j : Nat} (hj : j ≠ c) (st : CtxState) : (s.ctxTo core bank c st).ctx j = s.ctx j := by
  unfold ctxTo
  split
  · rfl
  · exact s.modCtx_ctx_ne c _ hj

theorem ctxTo_view {γ : Type} (view : State → γ) (hctx : ∀ (u : State) c f, view (u.modCtx c f) = view u)
    (hrm : ∀ (u : State) r, view { u with rm := r } = view u) (s : State) (core bank c : Nat) (st : CtxState) :
    view (s.ctxTo core bank c st) = view s := by
  unfold ctxTo
  split
  · rfl
  · exact (hrm _ _).trans (hctx _ _ _)

theorem ctxTo_core (s : State) (core bank c : Nat) (st : CtxState) : (s.ctxTo core bank c st).core = s.core :=
  ctxTo_view State.core (fun _ _ _ => rfl) (fun _ _ => rfl) s core bank c st

/-! Swap. -/

theorem ctxSwapWrite_exchanges {s : State} {core : Nat} (hbusy : (s.core core).cmdBusy = none)
    (hhalting : s.haltingIn ((s.core core).ctxIn (s.core core).activeBank) = false) :
    s.ctxSwapWrite core = (s.modCore core (fun c => { c with cmdBusy := some .swapWait })).exchangeBanks core := by
  have hwait : (s.modCore core (fun c => { c with cmdBusy := some .swapWait })).core core =
      { s.core core with cmdBusy := some .swapWait } := s.modCore_core_self core _
  unfold ctxSwapWrite
  dsimp only
  rw [hbusy, if_neg (by simp), trySwap, hwait]
  exact if_pos ⟨rfl, (Bool.not_eq_true' _).mpr hhalting⟩

theorem exchangeBanks_spec (s : State) (core : Nat) :
    let k := s.core core
    let a := k.ctxIn k.activeBank
    let b := k.ctxIn k.shadowBank
    let t := s.exchangeBanks core
    t.core core = { k with active := !k.active, idleUntil := s.cycle + 48, cmdBusy := some .swap } ∧
    ((a ≠ 0 → a ≠ b) → (a ≠ 0 → t.ctx a = { s.ctx a with state := .shadow }) ∧
      (b ≠ 0 → t.ctx b = { s.ctx b with state := .active, passed := 0, movedAt := 0, slots := [], ovPad := [], ovShare := [] })) ∧
    t.threads = s.threads ∧ t.mem = s.mem := by
  intro k a b t
  refine ⟨?_, fun hne => ⟨fun ha => ?_, fun hb => ?_⟩, ?_, ?_⟩
  · show ((State.ctxTo _ core _ b .active).core core) = _
    rw [ctxTo_core, ctxTo_core]
    exact modCore_core_self _ core _
  · show (State.ctxTo _ core _ b .active).ctx a = _
    rw [ctxTo_ctx_ne _ _ _ (hne ha), ctxTo_ctx _ _ _ ha, modCore_ctx_read, modCtx_ctx_ne _ _ _ (hne ha)]
  · have hab : b ≠ a := fun h => hne (h ▸ hb) h.symm
    show (State.ctxTo _ core _ b .active).ctx b = _
    rw [ctxTo_ctx _ _ _ hb, ctxTo_ctx_ne _ _ _ hab, modCore_ctx_read, modCtx_ctx_self]
  · exact (ctxTo_view State.threads (fun _ _ _ => rfl) (fun _ _ => rfl) _ _ _ _ _).trans
      (ctxTo_view State.threads (fun _ _ _ => rfl) (fun _ _ => rfl) _ _ _ _ _)
  · exact (ctxTo_view State.mem (fun _ _ _ => rfl) (fun _ _ => rfl) _ _ _ _ _).trans
      (ctxTo_view State.mem (fun _ _ _ => rfl) (fun _ _ => rfl) _ _ _ _ _)

/-- The active and the shadow context of a core change places (R78). -/
theorem ctxSwapWrite_spec {s : State} {core : Nat} (hbusy : (s.core core).cmdBusy = none)
    (hhalting : s.haltingIn ((s.core core).ctxIn (s.core core).activeBank) = false) :
    let k := s.core core
    let a := k.ctxIn k.activeBank
    let b := k.ctxIn k.shadowBank
    let t := s.ctxSwapWrite core
    t.core core = { k with active := !k.active, idleUntil := s.cycle + 48, cmdBusy := some .swap } ∧
    ((a ≠ 0 → a ≠ b) → (a ≠ 0 → t.ctx a = { s.ctx a with state := .shadow }) ∧
      (b ≠ 0 → t.ctx b = { s.ctx b with state := .active, passed := 0, movedAt := 0, slots := [], ovPad := [], ovShare := [] })) ∧
    t.threads = s.threads ∧ t.mem = s.mem := by
  have hspec := exchangeBanks_spec (s.modCore core (fun c => { c with cmdBusy := some .swapWait })) core
  rw [← ctxSwapWrite_exchanges hbusy hhalting, modCore_core_self] at hspec
  exact hspec

/-! Spill. -/

/-- A SPILL begins: the part of the save area that both contexts' allocations share is taken up (R79). -/
theorem ctxSpillWrite_begins {s : State} {core : Nat} (hbusy : (s.core core).cmdBusy = none) (hshadow : s.shadowCtx core ≠ 0) (save : BitVec 26) :
    s.ctxSpillWrite core save =
      let c := s.shadowCtx core
      let ac := (s.core core).ctxIn (s.core core).activeBank
      ((((s.modCore core (fun x => { x with cmdSave := save })).modCore core (fun x => { x with cmdBusy := some .spill })).ctxTo core
        (s.core core).shadowBank c .spilling).modCtx c (fun x =>
          { x with save := save.toNat * 2 ^ 22, passed := 0, movedAt := 0, slots := s.occupied c,
                   ovPad := common (s.padSpans ac) (s.padSpans c), ovShare := common (s.shareSpans ac) (s.shareSpans c) })) := by
  unfold ctxSpillWrite
  dsimp only
  rw [hbusy, if_neg (by simp), if_neg hshadow]

/-- The next 128 bytes of the shared allocations stand in the save area (R79, R80). -/
def bytesMoved (s : State) (b : Nat) : State :=
  ((((spanBytes (s.ctx b).ovPad).map (Prod.mk false) ++ (spanBytes (s.ctx b).ovShare).map (Prod.mk true)).drop (128 * (s.ctx b).passed)).take
    128).foldl (fun u e => if e.1 then u.areaShare b e.2 else u.areaPad b e.2) s

/-- And so do the records that begin in the transfer. -/
def recordsMoved (s : State) (b : Nat) : State :=
  ((List.range (s.ctx b).slots.length).filterMap (fun i =>
    if recordTransfer (s.ctx b) i = (s.ctx b).passed then (s.ctx b).slots[i]? else none)).foldl
      (fun u n => u.homeStore (u.recordAt (threadKey b n)) (u.threadRecord (threadKey b n))) (s.bytesMoved b)

theorem recordsMoved_kept (s : State) (b : Nat) : (s.recordsMoved b).kept = s.kept := by
  refine (foldl_keeps kept _ (fun u n => homeStore_kept u _ _) _ _).trans (foldl_keeps kept _ (fun u e => ?_) _ s)
  split
  · exact areaShare_kept u b e.2
  · exact areaPad_kept u b e.2

theorem gleanerMoves_eq {s : State} {core : Nat} (hstate : (s.ctx (s.shadowCtx core)).state = .spilling)
    (hdue : (s.ctx (s.shadowCtx core)).movedAt ≤ s.cycle) : s.gleanerMoves core =
      { s.recordsMoved (s.shadowCtx core) with
        ctxs := s.ctxs.set (s.shadowCtx core)
          { s.ctx (s.shadowCtx core) with passed := (s.ctx (s.shadowCtx core)).passed + 1, movedAt := s.cycle + 1 } } := by
  have hctxs : (s.recordsMoved (s.shadowCtx core)).ctxs = s.ctxs := congrArg (fun x => x.2.2.1) (s.recordsMoved_kept _)
  unfold gleanerMoves
  refine (if_neg (not_or.2 ⟨not_not_intro hstate, Nat.not_lt.2 hdue⟩)).trans ?_
  show (s.recordsMoved (s.shadowCtx core)).modCtx (s.shadowCtx core) (fun x => { x with passed := x.passed + 1, movedAt := s.cycle + 1 }) = _
  rw [modCtx, Tab.modify, hctxs]
  rfl

/-- The last byte of a spill is written, and its bank is free. -/
theorem spillEnds_eq {s : State} {core : Nat} (hstate : (s.ctx (s.shadowCtx core)).state = .spilling)
    (hbusy : (s.core core).cmdBusy = some .spill) (hdue : (s.ctx (s.shadowCtx core)).movedAt ≤ s.cycle)
    (hsize : s.spillSize (s.shadowCtx core) ≤ 128 * (s.ctx (s.shadowCtx core)).passed) (htile : s.writesTile (s.shadowCtx core) = false) :
    s.spillEnds core = ((s.writeArea (s.shadowCtx core)).ctxTo core (s.core core).shadowBank (s.shadowCtx core) .spilled).modCore core
      (fun x => { (x.setCtx x.shadowBank 0) with cmdBusy := none, cmdStatus := 0 }) := by
  unfold spillEnds
  dsimp only
  rw [if_neg]
  simp only [hstate, hbusy, htile, ne_eq, not_true_eq_false, Bool.false_eq_true, or_false, false_or, not_or, Nat.not_lt]
  exact ⟨hdue, hsize⟩

theorem writeArea_threads (s : State) (c : Nat) : (s.writeArea c).threads = s.threads := by
  obtain ⟨u, hkept, heq⟩ := s.writeArea_split c
  rw [heq]
  exact congrArg (fun x => x.1) ((areaPrivate_kept _ _ _).trans ((homeStore_kept u _ _).trans hkept))

theorem writeArea_cores (s : State) (c : Nat) : (s.writeArea c).cores = s.cores := by
  obtain ⟨u, hkept, heq⟩ := s.writeArea_split c
  rw [heq]
  exact congrArg (fun x => x.2.1) ((areaPrivate_kept _ _ _).trans ((homeStore_kept u _ _).trans hkept))

/-- A context that is spilled leaves its bank free and its threads as they are, and its save area begins with its number and tenant (R79,
R381). -/
theorem spillEnds_spec {s : State} {core : Nat} (hstate : (s.ctx (s.shadowCtx core)).state = .spilling) (hshadow : s.shadowCtx core ≠ 0)
    (hbusy : (s.core core).cmdBusy = some .spill) (hdue : (s.ctx (s.shadowCtx core)).movedAt ≤ s.cycle)
    (hunwatched : Unwatched s (s.ctx (s.shadowCtx core)).save (2 ^ 22))
    (hsize : s.spillSize (s.shadowCtx core) ≤ 128 * (s.ctx (s.shadowCtx core)).passed) (htile : s.writesTile (s.shadowCtx core) = false) :
    let b := s.shadowCtx core
    let t := s.spillEnds core
    (t.ctx b).state = .spilled ∧ t.core core = { ((s.core core).setCtx (s.core core).shadowBank 0) with cmdBusy := none, cmdStatus := 0 } ∧
      t.threads = s.threads ∧
      t.homeLoad (s.ctx b).save 8 = leBytes 4 0x4B375341 ++ leBytes 2 b ++ leBytes 1 (s.ctx b).tenant.toNat ++ [1] := by
  intro b t
  obtain ⟨bs, htake, hlen, hheads⟩ := writeArea_heads hunwatched
  have hend : t = ((s.writeArea b).ctxTo core (s.core core).shadowBank b .spilled).modCore core
      (fun x => { (x.setCtx x.shadowBank 0) with cmdBusy := none, cmdStatus := 0 }) := spillEnds_eq hstate hbusy hdue hsize htile
  have hcore : (s.writeArea b).core core = s.core core := congrArg (fun x : Tab Core => x.get core) (s.writeArea_cores b)
  have howner : t.owner = (s.writeArea b).owner := by
    rw [hend]
    exact ctxTo_view State.owner (fun _ _ _ => rfl) (fun _ _ => rfl) _ _ _ _ _
  have hmem : t.mem = (s.writeArea b).mem := by
    rw [hend]
    exact ctxTo_view State.mem (fun _ _ _ => rfl) (fun _ _ => rfl) _ _ _ _ _
  have hhead : Heads t (s.ctx b).save bs := fun i hi => by
    rw [howner, hmem]
    exact hheads i hi
  refine ⟨?_, ?_, ?_, (hhead.load hlen).trans htake⟩
  · rw [hend, modCore_ctx_read, ctxTo_ctx _ _ _ hshadow]
  · rw [hend, modCore_core_self, ctxTo_core, hcore]
  · rw [hend]
    exact (ctxTo_view State.threads (fun _ _ _ => rfl) (fun _ _ => rfl) _ _ _ _ _).trans (s.writeArea_threads b)

/-! Load. -/

theorem endHandles_core (s : State) (c : Nat) (on : Option Nat) (j : Nat) :
    ∃ h, (s.endHandles c on).core j = { s.core j with handles := h } :=
  ⟨_, Tab.get_mapCells_of s.cores _ j rfl⟩

theorem endHandles_ctx (s : State) (c : Nat) (on : Option Nat) (j : Nat) : (s.endHandles c on).ctx j = s.ctx j := rfl

/-- A LOAD begins in a bank that is free, of a save area that holds the context (R82, R381); a context that it brings into being takes the
address space of the event (log 53). -/
theorem ctxLoadWrite_begins {s : State} {core a : Nat} {save : BitVec 26} {ctx asid : BitVec 16} (ha : a = save.toNat * 2 ^ 22)
    (hbusy : (s.core core).cmdBusy = none) (hshadow : s.shadowCtx core = 0) (hctx : ctx.toNat ≠ 0)
    (hmagic : s.areaNat a 0 4 = 0x4B375341) (hnum : s.areaNat a 4 2 = ctx.toNat) (hform : s.areaNat a 7 1 = 1) :
    ∃ (v : State) (due : Nat),
      s.ctxLoadWrite core save ctx asid = ((v.endHandles ctx.toNat (some core)).modCore core (fun x =>
        { (x.setCtx x.shadowBank ctx.toNat) with cmdBusy := some .load, loadDue := due })).ctxTo core (s.core core).shadowBank ctx.toNat
          .loading ∧
      v.core core = { s.core core with cmdSave := save, cmdCtx := ctx } ∧
      ∃ y : Ctx, v.ctx ctx.toNat = { y with
        core := core, bank := (s.core core).shadowBank, tenant := BitVec.ofNat 6 (s.areaNat a 6 1), save := a
        asid := if (s.ctx ctx.toNat).state = .absent ∨ (s.ctx ctx.toNat).state = .destroyed then asid else (s.ctx ctx.toNat).asid } := by
  have hidle : ¬((s.core core).cmdBusy.isSome = true) := by simp [hbusy]
  have haccept : ¬(ctx.toNat = 0 ∨ s.areaNat a 0 4 ≠ 0x4B375341 ∨ s.areaNat a 4 2 ≠ ctx.toNat ∨ s.areaNat a 7 1 ≠ 1) := by
    simp only [hctx, hmagic, hnum, hform, ne_eq, not_true_eq_false, or_self, not_false_eq_true]
  have hnamed : (s.modCore core (fun x => { x with cmdSave := save, cmdCtx := ctx })).core core =
      { s.core core with cmdSave := save, cmdCtx := ctx } := s.modCore_core_self core _
  have hfresh : ((s.ctx ctx.toNat).state = .absent ∨ (s.ctx ctx.toNat).state = .destroyed) ↔
      ((s.ctx ctx.toNat).state == .absent || (s.ctx ctx.toNat).state == .destroyed) = true := by simp
  unfold ctxLoadWrite
  dsimp only
  rw [if_neg hidle, if_neg (not_not_intro hshadow), ← ha, if_neg haccept]
  simp only [hfresh]
  generalize ((s.ctx ctx.toNat).state == .absent || (s.ctx ctx.toNat).state == .destroyed) = fresh
  cases fresh
  all_goals
    simp only [Bool.false_eq_true, if_false, if_true]
  · exact ⟨_, _, rfl, hnamed, s.ctx ctx.toNat, modCtx_ctx_self _ _ _⟩
  · exact ⟨_, _, rfl, hnamed, {}, modCtx_ctx_self _ _ _⟩

theorem ctxLoadWrite_refused {s : State} {core : Nat} (hbusy : (s.core core).cmdBusy = none) (hshadow : s.shadowCtx core ≠ 0)
    (save : BitVec 26) (ctx asid : BitVec 16) :
    s.ctxLoadWrite core save ctx asid = (s.modCore core (fun x => { x with cmdSave := save, cmdCtx := ctx })).setStatus core 1 := by
  unfold ctxLoadWrite
  dsimp only
  rw [hbusy, if_neg (by simp), if_pos hshadow]

/-- The last act of a LOAD: the context is SHADOW (R82). -/
theorem loadEnds_eq {s : State} {core : Nat} (hstate : (s.ctx (s.shadowCtx core)).state = .loading)
    (hdue : (s.core core).loadDue ≤ s.cycle) : ∃ u : State,
      s.loadEnds core = (u.ctxTo core (s.core core).shadowBank (s.shadowCtx core) .shadow).modCore core
        (fun x => { x with cmdBusy := none, cmdStatus := 0 }) :=
  ⟨_, if_neg (not_or.2 ⟨not_not_intro hstate, Nat.not_lt.2 hdue⟩)⟩

/-! The end of a context. -/

/-- A context that has no group in any cell has none at all. -/
theorem groupless {s : State} {c : Nat} (hc : c ≠ 0) (h : ∀ e ∈ s.groups.cells, e.2.ctx ≠ c) (g : Nat) : (s.group g).ctx ≠ c := by
  by_cases hg : s.groups.get g = default
  · rw [group, hg]
    exact hc.symm
  · exact h _ (Tab.mem_cells_of_get hg)

/-- A context without groups is destroyed: no group is discarded and no kernel cancelled. -/
theorem destroyCtx_groupless {s : State} {c : Nat} (h : ∀ g, (s.group g).ctx ≠ c) (core bank : Nat) :
    s.destroyCtx core bank c = ((s.endHandles c none).modCtx c (fun x =>
      { state := x.state, core := x.core, bank := x.bank, tenant := x.tenant, asid := x.asid })).ctxTo core bank c .destroyed := by
  have hnone : s.groups.keys.filter (fun g => (s.group g).ctx == c && holds (s.group g)) = [] :=
    List.filter_eq_nil_iff.2 (fun g _ => by simp [h g])
  unfold destroyCtx
  rw [hnone]
  rfl

theorem destroyCtx_spec {s : State} {c : Nat} (hc : c ≠ 0) (h : ∀ g, (s.group g).ctx ≠ c) (core bank : Nat) :
    ((s.destroyCtx core bank c).ctx c).state = .destroyed ∧ (s.destroyCtx core bank c).threads = s.threads ∧
      ∀ j, ∃ hs, (s.destroyCtx core bank c).core j = { s.core j with handles := hs } := by
  rw [destroyCtx_groupless h]
  refine ⟨?_, ?_, fun j => ?_⟩
  · rw [ctxTo_ctx _ _ _ hc]
  · exact ctxTo_view State.threads (fun _ _ _ => rfl) (fun _ _ => rfl) _ _ _ _ _
  · rw [ctxTo_core]
    exact endHandles_core s c none j

theorem ctxDiscardWrite_eq {s : State} {core : Nat} (hbusy : (s.core core).cmdBusy = none) (hshadow : s.shadowCtx core ≠ 0) :
    s.ctxDiscardWrite core = (s.destroyCtx core (s.core core).shadowBank (s.shadowCtx core)).modCore core
      (fun x => { (x.setCtx x.shadowBank 0) with cmdStatus := 0 }) := by
  unfold ctxDiscardWrite
  dsimp only
  rw [hbusy, if_neg (by simp), if_neg hshadow]

/-! Commands that do nothing but answer. -/

theorem ctxBadWrite_answers (s : State) (core : Nat) {cmd : BitVec 3} (hcmd : cmd = 0 ∨ 4 < cmd.toNat) :
    s.ctxBadWrite core cmd = { s with cores := s.cores.set core { s.core core with
      cmdStatus := if (s.core core).cmdBusy = none then 5 else 4 } } := by
  have hbad : ¬ (1 ≤ cmd.toNat ∧ cmd.toNat ≤ 4) := by
    rcases hcmd with rfl | h
    · decide
    · omega
  unfold ctxBadWrite
  rw [if_neg hbad]
  cases hb : (s.core core).cmdBusy <;> rfl

theorem ctxSwapWrite_refused {s : State} {core : Nat} (hbusy : (s.core core).cmdBusy = some .load) :
    s.ctxSwapWrite core = { s with cores := s.cores.set core { s.core core with cmdStatus := 4 } } := by
  unfold ctxSwapWrite
  dsimp only
  rw [if_pos (by rw [hbusy]; rfl)]
  rfl

/-! The attendants (R84, R206, R207). -/

/-- The record of an attendant's fault. -/
def attendantRecord (s : State) (core : Nat) : ErrRec :=
  { code := 0x0604, sev := 2, action := 1, eclass := 1, part := s.partOf (coreDie core), einst := core }

/-- The groups of a core that the attendant works on go to the Ringmaster, and the attendant is FAULTED unless that is in service. -/
theorem attendantFails_spec {s : State} {core : Nat} (h : core < 224) :
    (((s.attendantFails core).core core).attFaulted = true ↔ ¬ (s.rm.state = .running ∨ s.rm.state = .reduced)) ∧
    (∀ g, (s.group g).handler = some 0 → (s.ctx (s.group g).ctx).core = core → ((s.attendantFails core).group g).handler = some 2) ∧
    ∃ pre, (s.attendantFails core).rm.mirror = s.rm.mirror ++ pre ++ [{ s.attendantRecord core with time := s.now }] := by
  have hsev : (s.attendantRecord core).sev ≠ 1 := (by decide : (2 : Nat) ≠ 1)
  have hgroups : (s.log (s.attendantRecord core)).groups = s.groups := congrArg (fun x => x.1.groups) (log_shell s (s.attendantRecord core))
  unfold attendantFails
  rw [if_neg (Nat.not_le.2 h)]
  refine ⟨?_, fun g hg hcore => ?_, log_mirror s hsev⟩
  · show (((s.log (s.attendantRecord core)).modCore core _).core core).attFaulted = true ↔ _
    rw [modCore_core_self, Bool.not_eq_true', ← Bool.not_eq_true, rmUp_iff]
  · have hcell : ((s.log (s.attendantRecord core)).groups.mapCells (fun _ y =>
        if y.handler = some 0 ∧ (s.ctx y.ctx).core = core then { y with handler := some 2 } else y)).get g =
        { s.group g with handler := some 2 } := by
      rw [hgroups, Tab.get_mapCells_of _ _ _ rfl]
      exact if_pos ⟨hg, hcore⟩
    exact congrArg Group.handler hcell

theorem parkWrite_lands {s : State} {core slot off : Nat} (hslot : core < 224 ∧ slot < 1024 ∧ off % 8 = 0 ∧ off < 1152)
    (hctx : s.parkCtx core ≠ 0) (hrun : (s.thr (threadKey (s.parkCtx core) slot)).run = .stopped) (v : DWord) :
    s.parkWrite core slot off v = s.parkBytes (threadKey (s.parkCtx core) slot) off (leBytes 8 v.toNat) := by
  obtain ⟨hcore, hslot, halign, hoff⟩ := hslot
  unfold parkWrite
  dsimp only
  rw [if_neg (by omega), if_neg (by simp [hctx, hrun])]

theorem parkWrite_refused {s : State} {core slot off : Nat} (hslot : core < 224 ∧ slot < 1024 ∧ off % 8 = 0 ∧ off < 1152)
    (hrun : (s.thr (threadKey (s.parkCtx core) slot)).run ≠ .stopped) (v : DWord) :
    s.parkWrite core slot off v = s.modCore core (fun k => { k with parkWerr := true }) := by
  obtain ⟨hcore, hslot, halign, hoff⟩ := hslot
  unfold parkWrite
  dsimp only
  rw [if_neg (by omega), if_pos (.inr hrun)]

/-- A write in the park window, where it lands (R84, R207). -/
theorem parkBytes_eight (s : State) (t off : Nat) (v : DWord) : s.parkBytes t off (leBytes 8 v.toNat) =
    (s.setThr t { readRecord (s.thr t) ((s.threadRecord t).take off ++ leBytes 8 v.toNat ++ (s.threadRecord t).drop (off + 8)) with
      skid := (s.thr t).skid
      sync := if (readRecord (s.thr t) ((s.threadRecord t).take off ++ leBytes 8 v.toNat ++ (s.threadRecord t).drop (off + 8))).pc =
        (s.thr t).pc then (s.thr t).sync else none }).findPorts t := by
  rw [parkBytes, leBytes_length]

end State

/-- A transfer of the Gleaner moves its 128 bytes and its records, as one injection of its core. -/
theorem gleanerTransfer_injects {s : State} {core : Nat} (hstate : (s.ctx (s.shadowCtx core)).state = .spilling)
    (hdue : (s.ctx (s.shadowCtx core)).movedAt ≤ s.cycle) :
    Injects (.gleanerTransfer core) s
      { (rested s).recordsMoved (s.shadowCtx core) with
        ctxs := s.ctxs.set (s.shadowCtx core)
          { s.ctx (s.shadowCtx core) with passed := (s.ctx (s.shadowCtx core)).passed + 1, movedAt := s.cycle + 1 } }
      (coreDie core) 4 (core % 56) (2 ^ 64) := by
  have hmoves := State.gleanerMoves_eq (s := rested s) (core := core) hstate hdue
  have hpassed : (((rested s).gleanerMoves core).ctx (s.shadowCtx core)).passed = (s.ctx (s.shadowCtx core)).passed + 1 := by
    rw [hmoves]
    exact congrArg Ctx.passed (Tab.get_set_self _ _ _)
  intro hbudget
  refine (congrArg Host.Outcome.next (inject_moved (k := fun u => u.gleanerMoves core)
    (moved := fun t => (t.ctx (s.shadowCtx core)).passed != (s.ctx (s.shadowCtx core)).passed) ?_ ?_)).trans ?_
  · rw [hpassed]
    simp
  · rw [hmoves]
    exact hbudget
  · rw [hmoves]
    rfl

end Sys2Proof.Machine
end

section
/-! The statement of the context commands, clause by clause: the steps of one core, then those of a spilled context, of an attendant and of
the park window. -/

namespace Sys2Proof.Machine

section
variable {core : Nat} {s : State}

theorem ctxSwap_gives (hbusy : (s.core core).cmdBusy = none) (hhalting : s.haltingIn ((s.core core).ctxIn (s.core core).activeBank) = false)
    (hne : (s.core core).ctxIn (s.core core).activeBank ≠ 0 → (s.core core).ctxIn (s.core core).activeBank ≠ s.shadowCtx core) :
    Gives (.ctxSwap core) s (fun t =>
      (t.core core) = { s.core core with active := !(s.core core).active, idleUntil := s.cycle + 48, cmdBusy := some .swap } ∧
      ((s.core core).ctxIn (s.core core).activeBank ≠ 0 → t.ctx ((s.core core).ctxIn (s.core core).activeBank) =
        { s.ctx ((s.core core).ctxIn (s.core core).activeBank) with state := .shadow }) ∧
      (s.shadowCtx core ≠ 0 → t.ctx (s.shadowCtx core) =
        { s.ctx (s.shadowCtx core) with state := .active, passed := 0, movedAt := 0, slots := [], ovPad := [], ovShare := [] }) ∧
      t.threads = s.threads ∧ t.mem = s.mem) := by
  obtain ⟨hcore, hctxs, hthreads, hmem⟩ := State.ctxSwapWrite_spec hbusy hhalting
  exact ⟨_, rfl, hcore, (hctxs hne).1, (hctxs hne).2, hthreads, hmem⟩

theorem swapEnd_exec (hbusy : (s.core core).cmdBusy = some .swap) (hidle : (s.core core).idleUntil ≤ s.cycle) :
    exec (.swapEnd core) s = .next { s with cores := s.cores.set core { s.core core with cmdBusy := none, cmdStatus := 0 } } :=
  congrArg Host.Outcome.next (if_pos ⟨hbusy, hidle⟩)

theorem ctxSpill_gives (save : BitVec 26) (hbusy : (s.core core).cmdBusy = none) (hshadow : s.shadowCtx core ≠ 0) :
    Gives (.ctxSpill core save) s (fun t =>
      (t.core core) = { s.core core with cmdSave := save, cmdBusy := some .spill } ∧
      t.ctx (s.shadowCtx core) = { s.ctx (s.shadowCtx core) with
        state := .spilling, save := save.toNat * 2 ^ 22, passed := 0, movedAt := 0, slots := s.occupied (s.shadowCtx core)
        ovPad := State.common (s.padSpans ((s.core core).ctxIn (s.core core).activeBank)) (s.padSpans (s.shadowCtx core))
        ovShare := State.common (s.shareSpans ((s.core core).ctxIn (s.core core).activeBank)) (s.shareSpans (s.shadowCtx core)) }) := by
  refine ⟨s.ctxSpillWrite core save, rfl, ?_⟩
  rw [State.ctxSpillWrite_begins hbusy hshadow]
  refine ⟨?_, ?_⟩
  · show (State.ctxTo _ core _ _ .spilling).core core = _
    rw [State.ctxTo_core, State.modCore_core_self, State.modCore_core_self]
  · dsimp only
    rw [State.modCtx_ctx_self, State.ctxTo_ctx _ _ _ hshadow]
    rfl

theorem ctxLoad_refused (save : BitVec 26) (c asid : BitVec 16) (hbusy : (s.core core).cmdBusy = none) (hshadow : s.shadowCtx core ≠ 0) :
    Gives (.ctxLoad core save c asid) s (fun t => t.core core = { s.core core with cmdSave := save, cmdCtx := c, cmdStatus := 1 } ∧
      t.ctxs = s.ctxs ∧ t.threads = s.threads ∧ t.mem = s.mem) := by
  refine ⟨s.ctxLoadWrite core save c asid, rfl, ?_⟩
  rw [State.ctxLoadWrite_refused hbusy hshadow]
  refine ⟨?_, rfl, rfl, rfl⟩
  rw [State.setStatus, State.modCore_core_self, State.modCore_core_self]
  rfl

theorem ctxLoad_gives (save : BitVec 26) (c asid : BitVec 16) (hbusy : (s.core core).cmdBusy = none) (hshadow : s.shadowCtx core = 0)
    (hc : c ≠ 0) (harea : s.areaNat (save.toNat * 2 ^ 22) 0 4 = 0x4B375341 ∧ s.areaNat (save.toNat * 2 ^ 22) 4 2 = c.toNat ∧
      s.areaNat (save.toNat * 2 ^ 22) 7 1 = 1) :
    Gives (.ctxLoad core save c asid) s (fun t => (t.core core).cmdBusy = some .load ∧
      (t.core core).ctxIn (s.core core).shadowBank = c.toNat ∧ (t.core core).cmdSave = save ∧ (t.core core).cmdCtx = c ∧
      (t.ctx c.toNat).state = .loading ∧ (t.ctx c.toNat).core = core ∧ (t.ctx c.toNat).bank = (s.core core).shadowBank ∧
      (t.ctx c.toNat).asid = (if (s.ctx c.toNat).state = .absent ∨ (s.ctx c.toNat).state = .destroyed then asid else (s.ctx c.toNat).asid) ∧
      (t.ctx c.toNat).tenant = BitVec.ofNat 6 (s.areaNat (save.toNat * 2 ^ 22) 6 1) ∧
      (t.ctx c.toNat).save = save.toNat * 2 ^ 22) := by
  obtain ⟨hmagic, hnum, hform⟩ := harea
  have hnat : c.toNat ≠ 0 := fun h => hc (BitVec.eq_of_toNat_eq h)
  obtain ⟨v, due, heq, hnamed, y, hctx⟩ :=
    State.ctxLoadWrite_begins (asid := asid) rfl hbusy hshadow hnat hmagic hnum hform
  obtain ⟨hs, hhandles⟩ := State.endHandles_core v c.toNat (some core) core
  refine ⟨_, rfl, ?_⟩
  rw [heq]
  dsimp only
  rw [State.ctxTo_ctx _ _ _ hnat, State.modCore_ctx_read, State.endHandles_ctx, hctx, State.ctxTo_core, State.modCore_core_self, hhandles, hnamed]
  exact ⟨rfl, Core.ctxIn_setCtx _ _ _, (Core.setCtx_cmd _ _ _).1, (Core.setCtx_cmd _ _ _).2, rfl, rfl, rfl, rfl, rfl, rfl⟩

theorem spillDone_gives (hstate : (s.ctx (s.shadowCtx core)).state = .spilling) (hshadow : s.shadowCtx core ≠ 0)
    (hbusy : (s.core core).cmdBusy = some .spill) (hdue : (s.ctx (s.shadowCtx core)).movedAt ≤ s.cycle)
    (hunwatched : Unwatched s (s.ctx (s.shadowCtx core)).save (2 ^ 22))
    (hsize : s.spillSize (s.shadowCtx core) ≤ 128 * (s.ctx (s.shadowCtx core)).passed) (htile : s.writesTile (s.shadowCtx core) = false) :
    Gives (.spillDone core) s (fun t => (t.ctx (s.shadowCtx core)).state = .spilled ∧ (t.core core).cmdBusy = none ∧
      (t.core core).ctxIn (s.core core).shadowBank = 0 ∧ (t.core core).cmdStatus = 0 ∧ t.threads = s.threads ∧
      t.homeLoad (s.ctx (s.shadowCtx core)).save 8 =
        leBytes 4 0x4B375341 ++ leBytes 2 (s.shadowCtx core) ++ leBytes 1 (s.ctx (s.shadowCtx core)).tenant.toNat ++ [1]) := by
  obtain ⟨hend, hcore, hthreads, hhead⟩ := State.spillEnds_spec hstate hshadow hbusy hdue hunwatched hsize htile
  refine ⟨s.spillEnds core, rfl, hend, ?_⟩
  rw [hcore]
  exact ⟨rfl, Core.ctxIn_setCtx _ _ _, rfl, hthreads, hhead⟩

theorem loadDone_gives (hstate : (s.ctx (s.shadowCtx core)).state = .loading) (hshadow : s.shadowCtx core ≠ 0)
    (hdue : (s.core core).loadDue ≤ s.cycle) :
    Gives (.loadDone core) s (fun t => (t.ctx (s.shadowCtx core)).state = .shadow ∧ (t.core core).cmdBusy = none ∧
      (t.core core).cmdStatus = 0) := by
  obtain ⟨u, hend⟩ := State.loadEnds_eq hstate hdue
  refine ⟨s.loadEnds core, rfl, ?_⟩
  rw [hend]
  dsimp only
  rw [State.modCore_core_self, State.modCore_ctx_read, State.ctxTo_ctx _ _ _ hshadow]
  exact ⟨rfl, rfl, rfl⟩

theorem ctxDiscard_gives (hbusy : (s.core core).cmdBusy = none) (hshadow : s.shadowCtx core ≠ 0)
    (hgroups : ∀ e ∈ s.groups.cells, e.2.ctx ≠ s.shadowCtx core) :
    Gives (.ctxDiscard core) s (fun t => (t.ctx (s.shadowCtx core)).state = .destroyed ∧
      (t.core core).ctxIn (s.core core).shadowBank = 0 ∧ (t.core core).cmdStatus = 0) := by
  obtain ⟨hstate, _, hcores⟩ :=
    State.destroyCtx_spec hshadow (State.groupless hshadow hgroups) core (s.core core).shadowBank
  obtain ⟨hs, hcore⟩ := hcores core
  refine ⟨s.ctxDiscardWrite core, rfl, ?_⟩
  rw [State.ctxDiscardWrite_eq hbusy hshadow]
  dsimp only
  rw [State.modCore_core_self, hcore]
  exact ⟨hstate, Core.ctxIn_setCtx _ _ _, rfl⟩

end

theorem contextDestroy_gives {s : State} {c : BitVec 16} (hstate : (s.ctx c.toNat).state = .spilled) (hc : c ≠ 0)
    (hgroups : ∀ e ∈ s.groups.cells, e.2.ctx ≠ c.toNat) :
    Gives (.contextDestroy c) s (fun t => (t.ctx c.toNat).state = .destroyed ∧ t.threads = s.threads) := by
  have hnat : c.toNat ≠ 0 := fun h => hc (BitVec.eq_of_toNat_eq h)
  obtain ⟨hend, hthreads, _⟩ :=
    State.destroyCtx_spec hnat (State.groupless hnat hgroups) (s.ctx c.toNat).core (s.ctx c.toNat).bank
  refine ⟨s.destroySpilled c.toNat, rfl, ?_⟩
  rw [State.destroySpilled, if_pos hstate]
  exact ⟨hend, hthreads⟩

/-- Settles O36: each command of CTX_CMD and each event that ends one, then the attendants and their park window. -/
theorem contextSteps : Obligations.ContextSteps := by
  unfold Obligations.ContextSteps
  refine ⟨fun core s => ⟨?swap, ?swapEnd, ?spill, ?transfer, ?spillDone, ?loadRefused, ?load, ?loadDone, ?discard, ?bad, ?swapRefused⟩,
    ?destroy, ?attendant, ?parkCtl, ?park⟩
  case swap => exact ctxSwap_gives
  case swapEnd => exact swapEnd_exec
  case spill => exact ctxSpill_gives
  case transfer => exact fun _ hstate hdue => gleanerTransfer_injects hstate hdue
  case spillDone => exact spillDone_gives
  case loadRefused => exact ctxLoad_refused
  case load => exact ctxLoad_gives
  case loadDone => exact fun hstate hshadow hdue _ => loadDone_gives hstate hshadow hdue
  case discard => exact ctxDiscard_gives
  case bad => exact fun _ hcmd => congrArg Host.Outcome.next (s.ctxBadWrite_answers core hcmd)
  case swapRefused => exact fun hbusy => congrArg Host.Outcome.next (State.ctxSwapWrite_refused hbusy)
  case destroy => exact fun _ _ => contextDestroy_gives
  case attendant =>
    intro core s hcore
    obtain ⟨hfaulted, hgroups, pre, hmirror⟩ := State.attendantFails_spec (s := s) hcore
    exact ⟨_, rfl, hfaulted, hgroups, pre, _, hmirror, rfl, rfl, rfl⟩
  case parkCtl => exact fun _ _ _ => rfl
  case park =>
    intro core slot off v s hcore hslot halign hoff
    refine ⟨fun hctx hrun => ?_, fun hrun => ?_⟩
    · exact congrArg Host.Outcome.next
        ((State.parkWrite_lands ⟨hcore, hslot, halign, hoff⟩ hctx hrun v).trans (State.parkBytes_eight _ _ _ _))
    · exact congrArg Host.Outcome.next (State.parkWrite_refused ⟨hcore, hslot, halign, hoff⟩ hrun v)

end Sys2Proof.Machine
end


section
/-! O58. Every function of the model whose answer holds a state keeps the canonical form of the memories, of the thread slots and of
the accesses under way. One lemma says it for each function, under the function's name in `State.Canonical`: from `h : s.Canonical`,
`h.f` is the canonical form of `s.f …`, so a function that composes others is proved by the same composition. Here: what the lemmas
say of answers that hold a state only in some cases, and the rules for updates, branches and folds. -/

namespace Sys2Proof.Machine

/-- What an optional answer satisfies, where there is one. -/
def OnSome {α : Type} (p : α → Prop) : Option α → Prop
  | some x => p x
  | none => True

/-- What an answer satisfies, and what an error. -/
def OnExcept {ε α : Type} (q : ε → Prop) (p : α → Prop) : Except ε α → Prop
  | .ok x => p x
  | .error e => q e

/-- What an answer satisfies that is no error. -/
abbrev OnOk {ε α : Type} (p : α → Prop) : Except ε α → Prop := OnExcept (fun _ => True) p

/-- The fields that the canonical form speaks of. -/
def State.canonicalFields (s : State) :=
  (s.mem, s.lane, s.pad, s.clus, s.dsp, s.evLane, s.backing, s.dspSave, s.threads, s.accs)

/-- The next state of an outcome is canonical. -/
def CanonicalOut : Host.Outcome State Fault Refusal → Prop
  | .next t => t.Canonical
  | _ => True

/-- The state that one thread's part of an instruction hands on is canonical. -/
def TRes.Canonical : TRes → Prop
  | .done s _ | .leave s | .block s _ => s.Canonical
  | _ => True

/-- The state after a fetch is canonical. -/
def Fetched.Canonical : Fetched → Prop
  | .bytes s _ => s.Canonical
  | _ => True

/-- The state after an instruction is found is canonical. -/
def Found.Canonical : Found → Prop
  | .instr s _ => s.Canonical
  | _ => True

/-- A description of commands keeps the canonical form. -/
def DescribeKeeps (f : State.Describe) : Prop := ∀ s c, s.Canonical → OnOk (fun r => r.1.Canonical) (f s c)

/-- Both branches of a choice. -/
theorem of_ite {α : Type} {p : α → Prop} {c : Prop} [Decidable c] {a b : α} (ha : p a) (hb : p b) : p (if c then a else b) := by
  split
  · exact ha
  · exact hb

namespace OnSome
variable {α β : Type} {p : α → Prop} {q : β → Prop} {o : Option α} {t : State} {y : β}

theorem get {x : α} (h : OnSome p o) (e : o = some x) : p x := by
  subst e
  exact h

theorem fst {o : Option (State × β)} (h : OnSome (fun r => r.1.Canonical) o) (e : o = some (t, y)) : t.Canonical := h.get e

theorem map {f : α → β} (h : OnSome p o) (hf : ∀ x, p x → q (f x)) : OnSome q (o.map f) := by
  cases o with
  | none => trivial
  | some x => exact hf x h

theorem mapFst {f : α → State × β} (h : OnSome p o) (hf : ∀ x, p x → (f x).1.Canonical) :
    OnSome (fun r => r.1.Canonical) (o.map f) := h.map hf

theorem bind {f : α → Option β} (h : OnSome p o) (hf : ∀ x, p x → OnSome q (f x)) : OnSome q (o.bind f) := by
  cases o with
  | none => trivial
  | some x => exact hf x h

end OnSome

namespace OnExcept
variable {ε α β : Type} {q : ε → Prop} {p : α → Prop} {r : Except ε α} {t : State} {y : β}

theorem get {x : α} (h : OnExcept q p r) (e : r = .ok x) : p x := by
  subst e
  exact h

theorem getError {x : ε} (h : OnExcept q p r) (e : r = .error x) : q x := by
  subst e
  exact h

theorem fst {r : Except ε (State × β)} (h : OnExcept q (fun r => r.1.Canonical) r) (e : r = .ok (t, y)) : t.Canonical := h.get e

theorem ok (h : t.Canonical) : OnExcept q (fun r => r.1.Canonical) (.ok (t, y)) := h

/-- A fold that may stop with an error. -/
theorem foldl {f : Except ε α → β → Except ε α} {l : List β} (h : OnExcept q p r)
    (he : ∀ e x, q e → OnExcept q p (f (.error e) x)) (hf : ∀ a x, p a → OnExcept q p (f (.ok a) x)) :
    OnExcept q p (l.foldl f r) := by
  induction l generalizing r with
  | nil => exact h
  | cons x l ih =>
    cases r with
    | error e => exact ih (he e x h)
    | ok a => exact ih (hf a x h)

end OnExcept

section
variable {t : State}

theorem TRes.Canonical.done {r : TRes} {d : Option DWord} (h : r.Canonical) (e : r = .done t d) : t.Canonical := by
  subst e
  exact h

theorem TRes.Canonical.leave {r : TRes} (h : r.Canonical) (e : r = .leave t) : t.Canonical := by
  subst e
  exact h

theorem TRes.Canonical.block {r : TRes} {y : BlockWhy} (h : r.Canonical) (e : r = .block t y) : t.Canonical := by
  subst e
  exact h

theorem Fetched.Canonical.bytes {r : Fetched} {bs : List Byte} (h : r.Canonical) (e : r = .bytes t bs) : t.Canonical := by
  subst e
  exact h

theorem Found.Canonical.instr {r : Found} {i : Instr} (h : r.Canonical) (e : r = .instr t i) : t.Canonical := by
  subst e
  exact h

theorem CanonicalOut.next {r : Host.Outcome State Fault Refusal} (h : CanonicalOut r) (e : r = .next t) : t.Canonical := by
  subst e
  exact h

end

namespace State.Canonical
variable {s t : State} {α β : Type}

theorem mem (h : s.Canonical) : Memory.wf s.mem := h.1

theorem lane (h : s.Canonical) : Memory.wf s.lane := h.2.1

theorem pad (h : s.Canonical) : Memory.wf s.pad := h.2.2.1

theorem clus (h : s.Canonical) : Memory.wf s.clus := h.2.2.2.1

theorem dsp (h : s.Canonical) : Memory.wf s.dsp := h.2.2.2.2.1

theorem evLane (h : s.Canonical) : Memory.wf s.evLane := h.2.2.2.2.2.1

theorem backing (h : s.Canonical) : Memory.wf s.backing := h.2.2.2.2.2.2.1

theorem dspSave (h : s.Canonical) : Memory.wf s.dspSave := h.2.2.2.2.2.2.2.1

theorem threads (h : s.Canonical) : s.threads.wf := h.2.2.2.2.2.2.2.2.1

theorem accs (h : s.Canonical) : s.accs.wf := h.2.2.2.2.2.2.2.2.2

/-- An update of fields that hold no memory, no thread slot and no access under way. -/
theorem update (h : s.Canonical) (e : t.canonicalFields = s.canonicalFields) : t.Canonical := by
  simp only [State.canonicalFields, Prod.mk.injEq] at e
  obtain ⟨hmem, hlane, hpad, hclus, hdsp, hev, hback, hsave, hthreads, haccs⟩ := e
  unfold State.Canonical at h ⊢
  rw [hmem, hlane, hpad, hclus, hdsp, hev, hback, hsave, hthreads, haccs]
  exact h

theorem withMem {x : Memory} (h : s.Canonical) (hx : Memory.wf s.mem → Memory.wf x) : State.Canonical { s with mem := x } :=
  ⟨hx h.mem, h.lane, h.pad, h.clus, h.dsp, h.evLane, h.backing, h.dspSave, h.threads, h.accs⟩

theorem withLane {x : Memory} (h : s.Canonical) (hx : Memory.wf s.lane → Memory.wf x) : State.Canonical { s with lane := x } :=
  ⟨h.mem, hx h.lane, h.pad, h.clus, h.dsp, h.evLane, h.backing, h.dspSave, h.threads, h.accs⟩

theorem withPad {x : Memory} (h : s.Canonical) (hx : Memory.wf s.pad → Memory.wf x) : State.Canonical { s with pad := x } :=
  ⟨h.mem, h.lane, hx h.pad, h.clus, h.dsp, h.evLane, h.backing, h.dspSave, h.threads, h.accs⟩

theorem withClus {x : Memory} (h : s.Canonical) (hx : Memory.wf s.clus → Memory.wf x) : State.Canonical { s with clus := x } :=
  ⟨h.mem, h.lane, h.pad, hx h.clus, h.dsp, h.evLane, h.backing, h.dspSave, h.threads, h.accs⟩

theorem withDsp {x : Memory} (h : s.Canonical) (hx : Memory.wf s.dsp → Memory.wf x) : State.Canonical { s with dsp := x } :=
  ⟨h.mem, h.lane, h.pad, h.clus, hx h.dsp, h.evLane, h.backing, h.dspSave, h.threads, h.accs⟩

theorem withEvLane {x : Memory} (h : s.Canonical) (hx : Memory.wf s.evLane → Memory.wf x) : State.Canonical { s with evLane := x } :=
  ⟨h.mem, h.lane, h.pad, h.clus, h.dsp, hx h.evLane, h.backing, h.dspSave, h.threads, h.accs⟩

theorem withBacking {x : Memory} (h : s.Canonical) (hx : Memory.wf s.backing → Memory.wf x) : State.Canonical { s with backing := x } :=
  ⟨h.mem, h.lane, h.pad, h.clus, h.dsp, h.evLane, hx h.backing, h.dspSave, h.threads, h.accs⟩

theorem withDspSave {x : Memory} (h : s.Canonical) (hx : Memory.wf s.dspSave → Memory.wf x) : State.Canonical { s with dspSave := x } :=
  ⟨h.mem, h.lane, h.pad, h.clus, h.dsp, h.evLane, h.backing, hx h.dspSave, h.threads, h.accs⟩

theorem withThreads {x : Tab Thread} (h : s.Canonical) (hx : s.threads.wf → x.wf) : State.Canonical { s with threads := x } :=
  ⟨h.mem, h.lane, h.pad, h.clus, h.dsp, h.evLane, h.backing, h.dspSave, hx h.threads, h.accs⟩

theorem withAccs {x : Tab (Option Access)} (h : s.Canonical) (hx : s.accs.wf → x.wf) : State.Canonical { s with accs := x } :=
  ⟨h.mem, h.lane, h.pad, h.clus, h.dsp, h.evLane, h.backing, h.dspSave, h.threads, hx h.accs⟩

theorem of_eq_fst {r : State × α} {x : α} (h : r.1.Canonical) (e : r = (t, x)) : t.Canonical := by
  subst e
  exact h

theorem ite {c : Prop} [Decidable c] (hs : s.Canonical) (ht : t.Canonical) : (if c then s else t).Canonical := of_ite hs ht

theorem iteFst {c : Prop} [Decidable c] {a b : State × α} (ha : a.1.Canonical) (hb : b.1.Canonical) :
    (if c then a else b).1.Canonical := by
  split
  · exact ha
  · exact hb

theorem elim {o : Option α} {f : α → State} (h : s.Canonical) (hf : ∀ x, (f x).Canonical) : (o.elim s f).Canonical := by
  cases o with
  | none => exact h
  | some x => exact hf x

theorem getD {o : Option State} (h : s.Canonical) (ho : OnSome State.Canonical o) : (o.getD s).Canonical := by
  cases o with
  | none => exact h
  | some x => exact ho

theorem foldl {f : State → β → State} {l : List β} (h : s.Canonical) (hf : ∀ u x, u.Canonical → (f u x).Canonical) :
    (l.foldl f s).Canonical := by
  induction l generalizing s with
  | nil => exact h
  | cons x l ih => exact ih (hf s x h)

theorem foldlFst {f : State × α → β → State × α} {l : List β} {r : State × α} (h : r.1.Canonical)
    (hf : ∀ a x, a.1.Canonical → (f a x).1.Canonical) : (l.foldl f r).1.Canonical := by
  induction l generalizing r with
  | nil => exact h
  | cons x l ih => exact ih (hf r x h)

theorem foldlSnd {f : α × State → β → α × State} {l : List β} {r : α × State} (h : r.2.Canonical)
    (hf : ∀ a x, a.2.Canonical → (f a x).2.Canonical) : (l.foldl f r).2.Canonical := by
  induction l generalizing r with
  | nil => exact h
  | cons x l ih => exact ih (hf r x h)

/-- Cells set one by one, at any addresses. -/
theorem foldl_set_wf (g : Nat → Nat) (l : List (Nat × Byte)) {m : Memory} (h : Memory.wf m) :
    Memory.wf (l.foldl (fun m e => m.set (g e.1) e.2) m) := by
  induction l generalizing m with
  | nil => exact h
  | cons e l ih => exact ih (Tab.set_wf _ _ _ h)

theorem copyBytes_wf {src dst : Memory} {a b n : Nat} (h : Memory.wf dst) : Memory.wf (State.copyBytes src dst a b n) :=
  Memory.store_wf _ _ _ h

theorem moveBytes_wf {src dst : Memory} {a b n : Nat} (h : Memory.wf dst) : Memory.wf (State.moveBytes src dst a b n) :=
  foldl_set_wf (fun k => b + (k - a)) _ (Tab.drop_wf _ _ h)

end State.Canonical
end Sys2Proof.Machine
end

section
/-! Machine/State.lean: what its functions answer is canonical. -/

namespace Sys2Proof.Machine.State.Canonical
variable {s s0 s' t u a0 : State}

theorem reset : State.reset.Canonical := by
  unfold State.Canonical
  decide +kernel

end Sys2Proof.Machine.State.Canonical
end

section
/-! Machine/Regs.lean: what its functions answer is canonical. -/

namespace Sys2Proof.Machine.State.Canonical
variable {s s0 s' t u a0 : State}

theorem setThr {t : Nat} {x : Thread} (h : s.Canonical) : (s.setThr t x).Canonical := h.withThreads (Tab.set_wf _ _ _)

theorem modThr {t : Nat} {f : Thread → Thread} (h : s.Canonical) : (s.modThr t f).Canonical := h.setThr

theorem modCtx {c : Nat} {f : Ctx → Ctx} (h : s.Canonical) : (s.modCtx c f).Canonical := h.update (by rfl)

theorem modCore {c : Nat} {f : Core → Core} (h : s.Canonical) : (s.modCore c f).Canonical := h.update (by rfl)

theorem modGroup {g : Nat} {f : Group → Group} (h : s.Canonical) : (s.modGroup g f).Canonical := h.update (by rfl)

theorem modKernel {k : Nat} {f : Kernel → Kernel} (h : s.Canonical) : (s.modKernel k f).Canonical := h.update (by rfl)

theorem modQueue {q : Nat} {f : Queue → Queue} (h : s.Canonical) : (s.modQueue q f).Canonical := h.update (by rfl)

theorem modDie {d : Nat} {f : Die → Die} (h : s.Canonical) : (s.modDie d f).Canonical := h.update (by rfl)

theorem modPart {p : Nat} {f : Part → Part} (h : s.Canonical) : (s.modPart p f).Canonical := h.update (by rfl)

theorem setEvicted {gid t : Nat} {x : Thread} (h : s.Canonical) : (s.setEvicted gid t x).Canonical :=
  .ite (h.update (by rfl)) h.setThr

theorem takeId (h : s.Canonical) : s.takeId.2.Canonical := h.update (by rfl)

theorem draw (h : s.Canonical) : s.draw.2.Canonical := h.update (by rfl)

end Sys2Proof.Machine.State.Canonical
end

section
/-! Machine/Home.lean: what its functions answer is canonical. -/

namespace Sys2Proof.Machine.State.Canonical
variable {s s0 s' t u a0 : State}

theorem setL1 {core w : Nat} {x : L1Word} (h : s.Canonical) : (s.setL1 core w x).Canonical := h.update (by rfl)

theorem forward {w : Nat} (h : s.Canonical) : (s.forward w).Canonical := by
  unfold State.forward
  dsimp only
  split
  · exact h
  · exact (h.withMem (Memory.store_wf _ _ _)).update (by rfl)

theorem revoke {w : Nat} (h : s.Canonical) : (s.revoke w).Canonical := by
  unfold State.revoke
  split
  · exact h
  · exact .ite (h.update (by rfl)) (h.update (by rfl))

theorem homeStoreRaw {pa : Nat} {bs : List Byte} (h : s.Canonical) : (s.homeStoreRaw pa bs).Canonical :=
  (h.foldl (fun _ _ hu => .ite (hu.revoke.update (by rfl)) hu.forward)).withMem (Memory.store_wf _ _ _)

theorem queueToBy {put : State → Nat → List Byte → State} {p : Nat} {e : ErrRec} (h : s.Canonical)
    (hput : ∀ (u : State) (x1 : Nat) (x2 : List Byte), u.Canonical → (put u x1 x2).Canonical) :
    (State.queueToBy put s p e).Canonical :=
  .ite h (.ite h.modPart (hput _ _ _ h).modPart)

theorem emitBy {put : State → Nat → List Byte → State} {e : ErrRec} (h : s.Canonical)
    (hput : ∀ (u : State) (x1 : Nat) (x2 : List Byte), u.Canonical → (put u x1 x2).Canonical) : (State.emitBy put s e).Canonical
    :=
  (h.queueToBy (fun _ _ _ hu => hput _ _ _ hu)).update (by rfl)

theorem setPending {k : Nat} {p : Option Pending} (h : s.Canonical) : (s.setPending k p).Canonical := h.update (by rfl)

theorem logBy {put : State → Nat → List Byte → State} {e0 : ErrRec} (h : s.Canonical)
    (hput : ∀ (u : State) (x1 : Nat) (x2 : List Byte), u.Canonical → (put u x1 x2).Canonical) : (State.logBy put s e0).Canonical
    := by
  unfold State.logBy
  refine .ite (h.emitBy (fun _ _ _ hu => hput _ _ _ hu)) ?_
  dsimp only
  split
  · exact h.setPending
  · exact .ite (.ite (h.emitBy (fun _ _ _ hu => hput _ _ _ hu)).setPending h.setPending)
      (h.emitBy (fun _ _ _ hu => hput _ _ _ hu)).setPending.setPending

theorem forgetEpochs {ds : List Nat} (h : s.Canonical) : (s.forgetEpochs ds).Canonical := h.update (by rfl)

theorem seeEpoch {die pa e : Nat} (h : s.Canonical) : (s.seeEpoch die pa e).Canonical := h.modDie

theorem learn {agent e : Nat} (h : s.Canonical) : (s.learn agent e).Canonical := h.update (by rfl)

theorem tellEpoch {agent die pa : Nat} (h : s.Canonical) : (s.tellEpoch agent die pa).Canonical := h.learn

theorem meetEpoch {agent die pa : Nat} (h : s.Canonical) : (s.meetEpoch agent die pa).Canonical := h.seeEpoch.tellEpoch

theorem passEpoch {from_ to_ : Nat} (h : s.Canonical) : (s.passEpoch from_ to_).Canonical := h.learn

theorem putEntryBy {put : State → Nat → List Byte → State} {key : Nat} {old : Word} {bad : Bool} {y0 : Option (Bool × Nat)}
    (h : s.Canonical) (hput : ∀ (u : State) (x1 : Nat) (x2 : List Byte), u.Canonical → (put u x1 x2).Canonical) :
    (State.putEntryBy put s key old bad y0).Canonical := by
  unfold State.putEntryBy
  dsimp only
  split
  · exact h
  · exact (h.withDsp (Memory.store_wf _ _ _)).update (by rfl)
  · exact (hput _ _ _ h).update (by rfl)

theorem captureWordBy {put : State → Nat → List Byte → State} {w p n opnd idx : Nat} {old : Word} {bad : Bool} (h : s.Canonical)
    (hput : ∀ (u : State) (x1 : Nat) (x2 : List Byte), u.Canonical → (put u x1 x2).Canonical) :
    (State.captureWordBy put s w p n opnd idx old bad).Canonical :=
  .ite h (.ite (.ite h.modPart (h.modPart.logBy (fun _ _ _ hu => hput _ _ _ hu)))
    (h.modPart.putEntryBy (fun _ _ _ hu => hput _ _ _ hu)))

theorem captureInBy {put : State → Nat → List Byte → State} {w p n : Nat} (h : s.Canonical)
    (hput : ∀ (u : State) (x1 : Nat) (x2 : List Byte), u.Canonical → (put u x1 x2).Canonical) :
    (State.captureInBy put s w p n).Canonical :=
  .ite h (h.foldl (fun _ _ hu => .ite (hu.captureWordBy (fun _ _ _ hv => hput _ _ _ hv))
    (.ite (hu.captureWordBy (fun _ _ _ hv => hput _ _ _ hv)) (.ite hu.modPart hu))))

theorem captureBy {put : State → Nat → List Byte → State} {ws : List Nat} (h : s.Canonical)
    (hput : ∀ (u : State) (x1 : Nat) (x2 : List Byte), u.Canonical → (put u x1 x2).Canonical) :
    (State.captureBy put s ws).Canonical :=
  h.foldl (fun _ _ hu => hu.foldl (fun _ _ hv => hv.foldl (fun _ _ hw => hw.captureInBy (fun _ _ _ hx => hput _ _ _ hx))))

theorem writeHome {n pa : Nat} {bs : List Byte} (h : s.Canonical) : (State.writeHome n s pa bs).Canonical := by
  induction n generalizing s pa bs with
  | zero => exact h.homeStoreRaw
  | succ n ih => exact (h.captureBy (fun _ _ _ hu => ih hu)).homeStoreRaw

theorem homeStore {pa : Nat} {bs : List Byte} (h : s.Canonical) : (s.homeStore pa bs).Canonical := h.writeHome

theorem capture {ws : List Nat} (h : s.Canonical) : (s.capture ws).Canonical := h.captureBy (fun _ _ _ hu => hu.homeStore)

theorem queueTo {p : Nat} {e : ErrRec} (h : s.Canonical) : (s.queueTo p e).Canonical := h.queueToBy (fun _ _ _ hu => hu.homeStore)

theorem emit {e : ErrRec} (h : s.Canonical) : (s.emit e).Canonical := h.emitBy (fun _ _ _ hu => hu.homeStore)

theorem log {e : ErrRec} (h : s.Canonical) : (s.log e).Canonical := h.logBy (fun _ _ _ hu => hu.homeStore)

theorem putDesc {q : Nat} (h : s.Canonical) : (s.putDesc q).Canonical := h.homeStore

theorem updQueue {q : Nat} {f : Queue → Queue} (h : s.Canonical) : (s.updQueue q f).Canonical := h.modQueue.putDesc

theorem burst {pa n : Nat} (h : s.Canonical) : (s.burst pa n).Canonical := h.modDie

theorem dropLine {die set_ : Nat} {x : L2Line} (h : s.Canonical) : (s.dropLine die set_ x).Canonical :=
  (Canonical.ite (h.foldl (fun _ _ hu => hu.forward)).burst (h.foldl (fun _ _ hu => hu.forward))).modDie

theorem cleanLine {die pa : Nat} (h : s.Canonical) : (s.cleanLine die pa).Canonical := .ite h.burst.modDie h

theorem countLine {die pa : Nat} (h : s.Canonical) : (s.countLine die pa).Canonical := h.modDie

theorem countBurst {pa : Nat} (h : s.Canonical) : (s.countBurst pa).Canonical := h.modDie

theorem useSys {die pa n : Nat} {wr : Bool} (h : s.Canonical) : (s.useSys die pa n wr).Canonical :=
  (Canonical.ite (h.foldl (fun _ _ hu => hu.countLine))
    ((h.foldl (fun _ _ hu => hu.countLine)).foldl (fun _ _ hu => hu.cleanLine))).burst

theorem useLine {die pa : Nat} {tenant : Option Nat} {first wr : Bool} (h : s0.Canonical) :
    (s0.useLine die pa tenant first wr).Canonical := by
  unfold State.useLine
  refine .ite h.useSys ?_
  dsimp only
  split
  · exact h.countLine.modDie
  · split
    · exact h.countLine.burst.modDie
    · split
      · exact h.countLine.dropLine.burst.modDie
      · exact h.countLine.burst.modDie

theorem useLines {die pa n : Nat} {tenant : Option Nat} {first wr : Bool} (h : s.Canonical) :
    (s.useLines die pa n tenant first wr).Canonical :=
  h.foldl (fun _ _ hu => hu.useLine)

theorem noteBlocked {die pa : Nat} (h : s.Canonical) : (s.noteBlocked die pa).Canonical := .ite h.log h

theorem dieStore {die pa : Nat} {bs : List Byte} {agent : Nat} (h : s.Canonical) : (s.dieStore die pa bs agent).Canonical :=
  .ite h.noteBlocked h.meetEpoch.homeStore

end Sys2Proof.Machine.State.Canonical
end

section
/-! Machine/Walk.lean: what its functions answer is canonical. -/

namespace Sys2Proof.Machine.State.Canonical
variable {s s0 s' t u a0 : State}

theorem readPath {die : Nat} {asid : BitVec 16} {va : Nat} (h : s.Canonical) : (s.readPath die asid va).Canonical :=
  .ite h (h.foldl (fun _ _ hu => hu.useLine))

theorem setLeafBits {a low : Nat} (h : s.Canonical) : (s.setLeafBits a low).Canonical := h.homeStore.burst

theorem deniedRoot {root : Nat} {die : Option Nat} {va : Nat} {f : XFault} (h : s.Canonical) :
    (s.deniedRoot root die va f).Canonical := by
  unfold State.deniedRoot
  refine .ite h ?_
  refine .ite ?_ ?_
  · split
    · exact h.noteBlocked
    · exact h
  · refine .ite h ?_
    split
    · exact .ite h h.setLeafBits
    · exact h

theorem denied {die : Nat} {asid : BitVec 16} {va : Nat} {f : XFault} (h : s.Canonical) : (s.denied die asid va f).Canonical :=
  h.readPath.deniedRoot

end Sys2Proof.Machine.State.Canonical
end

section
/-! Machine/Ops.lean: what its functions answer is canonical. -/

namespace Sys2Proof.Machine.State.Canonical
variable {s s0 s' t u a0 : State}

theorem queueHeld (h : s.Canonical) : s.queueHeld.Canonical := h.update (by rfl)

theorem settleSlot {t : Nat} (h : s.Canonical) : (s.settleSlot t).Canonical := .ite h.homeStore h

theorem addTroupe {c : Nat} {slots : List Nat} {age readyAt : Nat} {first : Option Nat} (h : s.Canonical) :
    (s.addTroupe c slots age readyAt first).Canonical :=
  h.update (by rfl)

theorem formTroupes {c : Nat} {slots : List Nat} {age readyAt : Nat} {first : Option Nat} (h : s.Canonical) :
    (s.formTroupes c slots age readyAt first).Canonical := by
  unfold State.formTroupes
  split
  · exact h
  · exact h.addTroupe.foldl (fun _ _ hu => hu.addTroupe)

theorem releaseTroupes {c : Nat} {slots : List Nat} (h : s.Canonical) : (s.releaseTroupes c slots).Canonical :=
  h.modCtx.formTroupes.modCtx

theorem wake {c : Nat} {slots : List Nat} (h : s.Canonical) : (s.wake c slots).Canonical :=
  (h.foldl (fun _ _ hu => hu.modThr)).releaseTroupes

theorem wakeCtx {c : Nat} (h : s.Canonical) : (s.wakeCtx c).Canonical := .ite h h.wake

theorem wakeQueue {q : Nat} (h : s.Canonical) : (s.wakeQueue q).Canonical := h.foldl (fun _ _ hu => .ite hu hu.wake)

theorem startHalt {g : Nat} {cause : Byte} {slot : Nat} (h : s.Canonical) : (s.startHalt g cause slot).Canonical :=
  .ite h (h.foldl (fun _ _ hu => hu.modThr)).modGroup

theorem dropTroupe {c : Nat} {slots : List Nat} (h : s.Canonical) : (s.dropTroupe c slots).Canonical := h.modCtx

theorem amend {r : RecAt} {f : ErrRec → ErrRec} (h : s.Canonical) : (s.amend r f).Canonical := by
  unfold State.amend
  dsimp only
  split
  · exact h
  · split
    · exact h.update (by rfl)
    · exact (h.update (by rfl)).homeStore

theorem trapAgain {g : Nat} {cause : Byte} {slot : Nat} (h : s.Canonical) : (s.trapAgain g cause slot).Canonical := by
  unfold State.trapAgain
  dsimp only
  split
  · exact h.modGroup
  · exact h.amend.modGroup.modGroup

theorem deniedAt {c : Nat} {i : TrapInfo} (h : s.Canonical) : (s.deniedAt c i).Canonical := by
  unfold State.deniedAt
  dsimp only
  split
  · exact h.denied
  · exact h.noteBlocked.modCore
  · exact h

theorem trapTroupe {sel : Sel} {traps : List (Nat × TrapInfo)} (h : s.Canonical) : (s.trapTroupe sel traps).Canonical := by
  unfold State.trapTroupe
  dsimp only
  split
  · exact h
  · exact .ite (((h.foldl (fun _ _ hu => hu.modThr)).foldl (fun _ _ hu => hu.modThr)).foldl
      (fun _ _ hu => hu.deniedAt)).log.dropTroupe.modGroup.trapAgain
      (.ite (((h.foldl (fun _ _ hu => hu.modThr)).foldl (fun _ _ hu => hu.modThr)).foldl
      (fun _ _ hu => hu.deniedAt)).log.dropTroupe.modGroup.startHalt
      (((h.foldl (fun _ _ hu => hu.modThr)).foldl (fun _ _ hu => hu.modThr)).foldl
      (fun _ _ hu => hu.deniedAt)).log.dropTroupe.modGroup)

theorem lateRecord {g batch : Nat} {e : ErrRec} (h : s.Canonical) : (s.lateRecord g batch e).Canonical := by
  unfold State.lateRecord
  split
  · exact h.amend
  · exact h.log.modGroup

theorem trapLate {t : Nat} {pc : DWord} {i : TrapInfo} {batch : Nat} (h : s.Canonical) : (s.trapLate t pc i batch).Canonical := by
  unfold State.trapLate
  dsimp only
  split
  · exact h.lateRecord
  · exact h.lateRecord
  · exact h.lateRecord.modThr.startHalt.settleSlot

theorem laterFlag {t : Nat} {pc : DWord} {i : TrapInfo} {flag : Option Nat} {batch : Nat} (h : s.Canonical) :
    (s.laterFlag t pc i flag batch).Canonical :=
  h.update (by rfl)

theorem later {t : Nat} {pc : DWord} {i : TrapInfo} {batch : Nat} (h : s.Canonical) : (s.later t pc i batch).Canonical :=
  h.laterFlag

theorem add {op : State → Nat → TRes} {c : Nat} {a : Issued} {k : Nat} (h : a.st.Canonical)
    (hop : ∀ (u : State) (x1 : Nat), u.Canonical → (op u x1).Canonical) : (Issued.add op c a k).st.Canonical := by
  unfold Machine.Issued.add
  split
  · exact (hop _ _ h).done ‹_›
  · exact (hop _ _ h).leave ‹_›
  · exact (hop _ _ h).block ‹_›
  · exact h
  · exact h

theorem regroup {c : Nat} {old : Troupe} {header : Bool} {age : Nat} {go : List (Nat × Option DWord)} (h : s.Canonical) :
    (s.regroup c old header age go).Canonical := by
  unfold State.regroup
  dsimp only
  split
  · exact h.modCtx.foldl (fun _ _ hu => hu.addTroupe)
  · split
    · exact h
    · exact h.modCtx.foldl (fun _ _ hu => hu.addTroupe)

theorem leaveTroupe {sel : Sel} {t : Nat} {why : BlockWhy} (h : s.Canonical) : (s.leaveTroupe sel t why).Canonical :=
  h.modThr.modCtx

theorem noteIssue {sel : Sel} {id : Nat} {yields : Bool} (h : s.Canonical) : (s.noteIssue sel id yields).Canonical := h.modCore

theorem goOn {c n : Nat} {go : List (Nat × Option DWord)} (h : s.Canonical) : (s.goOn c n go).Canonical :=
  h.foldl (fun _ _ hu => hu.modThr)

theorem finish {sel : Sel} {n : Nat} {yields : Bool} {a : Issued} (_h : s.Canonical) (ha : a.st.Canonical) :
    (s.finish sel n yields a).Canonical :=
  .ite (ha.foldl (fun _ _ hu => hu.modThr)).goOn.dropTroupe.regroup
    (ha.foldl (fun _ _ hu => hu.modThr)).goOn.dropTroupe.regroup.noteIssue

theorem leaveAll {sel : Sel} {l : List (Nat × BlockWhy)} (h : s.Canonical) : (s.leaveAll sel l).Canonical :=
  foldlFst h (fun _ _ hu => hu.leaveTroupe)

theorem issuedAdd {op : State → Nat → TRes} {c k : Nat} {a : Issued} (h : a.st.Canonical)
    (hop : ∀ u j, u.Canonical → (op u j).Canonical) : (Issued.add op c a k).st.Canonical := by
  unfold Issued.add
  split
  · exact (hop _ _ h).done ‹_›
  · exact (hop _ _ h).leave ‹_›
  · exact (hop _ _ h).block ‹_›
  · exact h
  · exact h

theorem foldlIssued {op : State → Nat → TRes} {c : Nat} {l : List Nat} {a : Issued} (h : a.st.Canonical)
    (hop : ∀ u j, u.Canonical → (op u j).Canonical) : (l.foldl (Issued.add op c) a).st.Canonical := by
  induction l generalizing a with
  | nil => exact h
  | cons k l ih => exact ih (issuedAdd h hop)

theorem issue {n : Nat} {yields : Bool} {op : State → Nat → TRes} (h : s.Canonical)
    (hop : ∀ u j, u.Canonical → (op u j).Canonical) :
    CanonicalOut (s.issue n yields op) := by
  unfold State.issue
  split
  · trivial
  · have hs : State.Canonical { s with sel := none } := h.update (by rfl)
    exact of_ite hs.trapTroupe (of_ite (.ite hs.leaveAll hs) (hs.finish (foldlIssued hs hop)))

theorem resumeThread {t : Nat} (h : s.Canonical) : (s.resumeThread t).Canonical := h.modThr

end Sys2Proof.Machine.State.Canonical
end

section
/-! Machine/Translate.lean: what its functions answer is canonical. -/

namespace Sys2Proof.Machine.State.Canonical
variable {s s0 s' t u a0 : State}

theorem modFrame {f : Nat} {g : Frame → Frame} (h : s.Canonical) : (s.modFrame f g).Canonical := h.update (by rfl)

theorem dirtied {pa level : Nat} (h : s.Canonical) : (s.dirtied pa level).Canonical :=
  .ite (h.foldl (fun _ _ hu => hu.modFrame)) h.modFrame

theorem walkRoot {root : Nat} {die : Option Nat} {asid : BitVec 16} {va : Nat} {n : Need} (h : s.Canonical) : OnOk
    (fun r => r.1.Canonical) (s.walkRoot root die asid va n) := by
  unfold State.walkRoot
  refine of_ite trivial ?_
  dsimp only
  split
  · trivial
  · exact of_ite trivial (of_ite trivial (.ite (Canonical.ite h h.setLeafBits).dirtied (.ite h h.setLeafBits)))

theorem walk {die : Nat} {asid : BitVec 16} {va : Nat} {n : Need} (h : s.Canonical) : OnOk (fun r => r.1.Canonical)
    (s.walk die asid va n) :=
  h.readPath.walkRoot

theorem tlbHit {core : Nat} {asid : BitVec 16} {va : Nat} {n : Need} (h : s.Canonical) : OnSome (fun r => r.1.Canonical)
    (s.tlbHit core asid va n) := by
  unfold State.tlbHit
  split
  · exact h
  · split
    · exact h.modCore
    · trivial

theorem walkFill {core : Nat} {asid : BitVec 16} {va : Nat} {n : Need} (h : s.Canonical) : OnOk (fun r => r.1.Canonical)
    (s.walkFill core asid va n) := by
  unfold State.walkFill
  dsimp only
  split
  · trivial
  · have h1 := h.walk.fst ‹_›
    exact h1.modDie.modCore

theorem translate {core : Nat} {asid : BitVec 16} {va : Nat} {n : Need} (h : s.Canonical) : OnOk (fun r => r.1.Canonical)
    (s.translate core asid va n) := by
  unfold State.translate
  split
  · exact h.tlbHit.get ‹_›
  · exact h.walkFill

theorem translateDie {die : Nat} {asid : BitVec 16} {va : Nat} {n : Need} (h : s.Canonical) : OnOk (fun r => r.1.Canonical)
    (s.translateDie die asid va n) := by
  unfold State.translateDie
  split
  · exact h
  · split
    · trivial
    · have h1 := h.walk.fst ‹_›
      exact h1.modDie

theorem dieAddr {die : Nat} {asid : BitVec 16} {va : Nat} {n : Need} (h : s.Canonical) : OnExcept State.Canonical
    (fun r => r.1.Canonical) (s.dieAddr die asid va n) := by
  unfold State.dieAddr
  split
  · exact h.translateDie.get ‹_›
  · exact h.denied

theorem translateTile {cluster : Nat} {asid : BitVec 16} {va : Nat} {n : Need} (h : s.Canonical) : OnOk (fun r => r.1.Canonical)
    (s.translateTile cluster asid va n) := by
  unfold State.translateTile
  dsimp only
  split
  · exact h
  · split
    · exact h.update (by rfl)
    · split
      · trivial
      · have h1 := h.walk.fst ‹_›
        exact h1.update (by rfl)

end Sys2Proof.Machine.State.Canonical
end

section
/-! Machine/Area.lean: what its functions answer is canonical. -/

namespace Sys2Proof.Machine.State.Canonical
variable {s s0 s' t u a0 : State}

theorem settleTags {c : Nat} (h : s.Canonical) : (s.settleTags c).Canonical := .ite h.homeStore h

theorem findPorts {t : Nat} (h : s.Canonical) : (s.findPorts t).Canonical :=
  h.foldl (fun _ _ hu => by
  refine .ite hu ?_
  split
  · have h1 := hu.translate.fst ‹_›
    exact h1.modThr
  · exact hu.denied)

theorem parkBytes {t off : Nat} {bs : List Byte} (h : s.Canonical) : (s.parkBytes t off bs).Canonical := h.setThr.findPorts

theorem windowPut {g off : Nat} {v : Byte} (h : s.Canonical) : (s.windowPut g off v).Canonical := by
  unfold State.windowPut
  refine .ite h.modGroup ?_
  dsimp only
  split
  · exact .ite h.parkBytes h
  · exact h

theorem windowStore {n : Nat} {bs : List Byte} (h : s.Canonical) : (s.windowStore n bs).Canonical :=
  h.foldl (fun _ _ hu => hu.windowPut)

end Sys2Proof.Machine.State.Canonical
end

section
/-! Machine/Budget.lean: what its functions answer is canonical. -/

namespace Sys2Proof.Machine.State.Canonical
variable {s s0 s' t u a0 : State}

theorem take {id : Nat} {n : BudgetNeed} (_h : s.Canonical) (hu : u.Canonical) : (s.take id u n).Canonical := hu.modDie

theorem stalled {die cls : Nat} (h : s.Canonical) : (s.stalled die cls).Canonical := .ite h h.modDie

theorem waitFor {id cls : Nat} {n : BudgetNeed} (h : s.Canonical) : (s.waitFor id cls n).Canonical := by
  unfold State.waitFor
  dsimp only
  split
  · exact h
  · exact .ite h.modDie h.modDie.stalled

theorem inject {die cls stop id : Nat} {moved : State → Bool} {k : State → State} (h : s.Canonical)
    (hk : ∀ u, u.Canonical → (k u).Canonical) : (s.inject die cls stop id moved k).Canonical :=
  .ite (hk _ (h.update (by rfl))) (.ite ((hk _ (h.update (by rfl))).foldl (fun _ _ hu => h.take hu))
    (h.foldl (fun _ _ hu => hu.waitFor)))

theorem newPeriod {die : Nat} (h : s.Canonical) : (s.newPeriod die).Canonical := .ite h.modDie h

theorem writeBudget {die cls : Nat} {v : DWord} (h : s.Canonical) : (s.writeBudget die cls v).Canonical := .ite h h.modDie

theorem readBudget {die cls : Nat} (h : s.Canonical) : (s.readBudget die cls).Canonical := h.modDie

end Sys2Proof.Machine.State.Canonical
end

section
/-! Machine/Access.lean: what its functions answer is canonical. -/

namespace Sys2Proof.Machine.State.Canonical
variable {s s0 s' t u a0 : State}

theorem setAcc {id : Nat} {a : Option Access} (h : s.Canonical) : (s.setAcc id a).Canonical := h.withAccs (Tab.set_wf _ _ _)

theorem orHold (h : s.Canonical) (ht : t.Canonical) : (s.orHold t).Canonical := .ite h ht

theorem walking {die id : Nat} {k : State → State} (h : s.Canonical) (hk : ∀ u, u.Canonical → (k u).Canonical) :
    (s.walking die id k).Canonical := by
  unfold State.walking
  dsimp only
  split
  · exact hk _ h
  · refine .ite (hk _ h) ?_
    split
    · exact .ite (h.update (by rfl)) h
    · exact .ite h ((hk _ h).update (by rfl))

theorem startAccess {k : Nat} {op : AccOp} {lv : Level} {dst : Dst} {ws : List Want} {flag : Option Nat} {pc : DWord}
    (h : s.Canonical) :
    (s.startAccess k op lv dst ws flag pc).Canonical := by
  unfold State.startAccess
  refine (setAcc (foldlFst h (fun _ _ hu => ?_))).takeId
  refine .iteFst hu ?_
  split
  · exact hu.tlbHit.fst ‹_›
  · exact hu

theorem localStore {pl : Place} {bs : List Byte} (h : s.Canonical) : (s.localStore pl bs).Canonical := by
  unfold State.localStore
  dsimp only
  split
  · exact h
  · exact (h.foldl (fun _ _ hu => .ite (hu.update (by rfl)) hu)).withLane (Memory.store_wf _ _ _)
  · exact (h.foldl (fun _ _ hu => .ite (hu.update (by rfl)) hu)).withPad (Memory.store_wf _ _ _)
  · exact (h.foldl (fun _ _ hu => .ite (hu.update (by rfl)) hu)).withClus (Memory.store_wf _ _ _)
  · exact (h.foldl (fun _ _ hu => .ite (hu.update (by rfl)) hu)).withDsp (Memory.store_wf _ _ _)
  · exact (h.foldl (fun _ _ hu => .ite (hu.update (by rfl)) hu)).windowStore

theorem putLocal {c : Nat} {pl : Place} {bs : List Byte} (h : s.Canonical) : (s.putLocal c pl bs).Canonical :=
  h.foldl (fun _ _ hu => by
  dsimp only
  split
  · exact hu.localStore
  · split
    · exact .ite hu.homeStore hu.homeStore.localStore
    · exact hu.homeStore.localStore)

theorem leaveEpoch {core : Nat} {pl : Place} (h : s.Canonical) : (s.leaveEpoch core pl).Canonical := h.elim (fun _ => h.passEpoch)

theorem takeEpoch {core : Nat} {pl : Place} (h : s.Canonical) : (s.takeEpoch core pl).Canonical := h.elim (fun _ => h.passEpoch)

theorem flitTaken {id : Nat} (h : s.Canonical) : (s.flitTaken id).Canonical := h.update (by rfl)

theorem evictLine {core line : Nat} (h : s.Canonical) : (s.evictLine core line).Canonical :=
  h.foldl (fun _ _ hu => .ite hu (Canonical.ite hu.forward hu).setL1)

theorem l1Room {core pa : Nat} (h : s.Canonical) : OnSome State.Canonical (s.l1Room core pa) := by
  unfold State.l1Room
  refine of_ite h ?_
  dsimp only
  split
  · trivial
  · exact h.draw.evictLine

theorem fillLine {core pa : Nat} (h : s.Canonical) : (s.fillLine core pa).Canonical := h.foldl (fun _ _ hu => .ite hu hu.setL1)

theorem refresh {core : Nat} {ws : List Nat} (h : s.Canonical) : (s.refresh core ws).Canonical :=
  h.foldl (fun _ _ hu => .ite hu.setL1 hu)

theorem loadPhys {t core pa n : Nat} {lv : Level} (h : s.Canonical) : OnSome (fun r => r.1.Canonical) (s.loadPhys t core pa n lv)
    := by
  unfold State.loadPhys
  refine of_ite (of_ite trivial h) (of_ite h.modThr (of_ite trivial (of_ite h.noteBlocked ?_)))
  extract_lets s1
  have h1 : s1.Canonical := h.tellEpoch
  split
  · refine h1.l1Room.mapFst (fun _ hu => ?_)
    dsimp only
    exact hu.refresh.fillLine
  · exact h1.foldl (fun _ _ hu => hu.forward)
  · exact h1

theorem storePhys {core pa e : Nat} {bs : List Byte} (h : s.Canonical) : OnSome State.Canonical (s.storePhys core pa e bs) :=
  of_ite trivial (of_ite h.noteBlocked (h.seeEpoch.homeStore.tellEpoch.foldl (fun _ _ hu => hu.setL1)))

theorem acquire {core scope : Nat} (h : s.Canonical) : (s.acquire core scope).Canonical := .ite h (h.update (by rfl))

theorem homeRead {pa n : Nat} (h : s.Canonical) : (s.homeRead pa n).1.Canonical := h.foldl (fun _ _ hu => hu.forward)

theorem homeAdd {pa : Nat} {v : Word} (h : s.Canonical) : (s.homeAdd pa v).Canonical := h.homeStore

end Sys2Proof.Machine.State.Canonical
end

section
/-! Machine/Memory.lean: what its functions answer is canonical. -/

namespace Sys2Proof.Machine.State.Canonical
variable {s s0 s' t u a0 : State}

theorem writeL1 {core pa : Nat} {bs : List Byte} {bad : Bool} (h : s.Canonical) : (s.writeL1 core pa bs bad).Canonical :=
  h.foldl (fun _ _ hu => (Canonical.ite (hu.withMem (Memory.store_wf _ _ _)) hu).setL1)

theorem setTags {c : Nat} {m : DWord} (h : s.Canonical) : (s.setTags c m).Canonical := h.modCtx.settleTags.wakeCtx

theorem leavePiece {t id i : Nat} {a : Access} {p : Piece} {regn : Nat} (h : s.Canonical) :
    (s.leavePiece t id i a p regn).Canonical := by
  unfold State.leavePiece
  dsimp only
  split
  · exact h.setTags.setAcc
  · exact h.modCtx.settleTags.setAcc
  · split
    · exact h.putLocal.leaveEpoch.setAcc
    · exact .ite ((h.writeL1.withAccs (Tab.set_wf _ _ _)).update (by rfl)) h.setAcc.takeId

theorem drainRun {n k regn : Nat} {block : Option Nat} (h : s.Canonical) : (State.drainRun n s k regn block).Canonical := by
  induction n generalizing s block with
  | zero => exact h
  | succ n ih =>
    unfold State.drainRun
    dsimp only
    split
    · exact h
    · split
      · exact h
      · split
        · exact h
        · refine .ite h ?_
          split
          · exact h
          · have hroom := (of_ite (p := OnSome State.Canonical) (b := some s) h.l1Room h).get ‹_›
            split
            · exact .ite (ih hroom.leavePiece) hroom.leavePiece
            · exact .ite (ih hroom.leavePiece) hroom

theorem storeDrain {t : Nat} (h : s.Canonical) : (s.storeDrain t).Canonical := h.takeId.drainRun

theorem acceptRegn {id : Nat} (h : s.Canonical) : (s.acceptRegn id).Canonical := by
  unfold State.acceptRegn
  split
  · exact h
  · refine .ite h ?_
    extract_lets lost own mine s0 held s1 s2
    have h0 : s0.Canonical := .ite h (h.foldl (fun _ _ hu => hu.useLine)).seeEpoch.tellEpoch
    have hheld : held.Canonical := takeId (.ite h0 h0.capture)
    have h1 : s1.Canonical := hheld.update (by rfl)
    have h2 : s2.Canonical := by
      refine .ite (h1.noteBlocked.foldl (fun _ _ hu => hu.setL1)) (h1.foldl (fun u w hu => ?_))
      extract_lets u1 u2
      have hu1 : u1.Canonical := .ite hu.revoke hu
      have hu2 : u2.Canonical := .ite ((hu1.withMem (Memory.store_wf _ _ _)).update (by rfl)) hu1
      exact .ite ((hu1.withMem (Memory.store_wf _ _ _)).update (by rfl)) (hu2.update (by rfl))
    refine h2.foldl (fun _ _ hu => ?_)
    split
    · exact hu
    · split
      · exact hu
      · exact hu.setAcc

theorem commitPart {id : Nat} (h : s.Canonical) : (s.commitPart id).Canonical := by
  unfold State.commitPart
  dsimp only
  split
  · exact h
  · refine .ite h ?_
    split
    · exact .ite h h.modThr.setAcc.settleSlot
    · exact .ite h h.modThr.setAcc.settleSlot
    · exact h

theorem usesLines {t core pa n : Nat} {lv : Level} {wr : Bool} (h : s.Canonical) : (s.usesLines t core pa n lv wr).Canonical :=
  .ite h.useSys h.useLines

theorem pieceDone {id i : Nat} {a : Access} {p : Piece} {bs : List Byte} {bad : Bool} {reply : Nat} (h : s.Canonical) :
    (s.pieceDone id i a p bs bad reply).Canonical :=
  h.setAcc

theorem pieceHome {id i : Nat} {a : Access} {p : Piece} {bs : List Byte} {bad : Bool} (h : s.Canonical) :
    (s.pieceHome id i a p bs bad).Canonical :=
  h.takeId.pieceDone

theorem performLoad {t id i : Nat} {a : Access} {p : Piece} (h : s.Canonical) : (s.performLoad t id i a p).Canonical := by
  unfold State.performLoad
  refine .ite h ?_
  dsimp only
  split
  · exact h
  · exact h.pieceDone
  · split
    · exact h.takeEpoch.pieceDone
    · split
      · exact h
      · have h1 := h.loadPhys.fst ‹_›
        exact .ite h1.pieceDone (Canonical.ite h1 h1.usesLines).pieceHome

theorem performAtomic {t id i : Nat} {a : Access} {p : Piece} (h : s.Canonical) : (s.performAtomic t id i a p).Canonical := by
  unfold State.performAtomic
  refine .ite h ?_
  dsimp only
  split
  · refine .ite h.takeEpoch.pieceDone ?_
    split
    · exact h.takeEpoch.pieceDone
    · exact h.takeEpoch.putLocal.leaveEpoch.pieceDone
  · refine .ite h ?_
    refine .ite h.noteBlocked.pieceHome ?_
    split
    · exact h.usesLines.tellEpoch.pieceHome
    · split
      · exact h
      · have h1 := h.storePhys.get ‹_›
        exact h1.usesLines.pieceHome

theorem performNext {id : Nat} (h : s.Canonical) : (s.performNext id).Canonical := by
  unfold State.performNext
  dsimp only
  split
  · exact h
  · split
    · split
      · exact h
      · split
        · split
          · refine .ite h ?_
            split
            · exact h
            · have h1 := h.storePhys.get ‹_›
              exact ((Canonical.ite h1 h1.usesLines).foldl (fun _ _ hu => .ite (hu.update (by rfl)) hu)).pieceHome
          · exact h
        · exact h
    · split
      · exact h
      · split
        · split
          · refine .ite h ?_
            split
            · exact h
            · have h1 := h.storePhys.get ‹_›
              exact ((Canonical.ite h1 h1.usesLines).foldl (fun _ _ hu => .ite (hu.update (by rfl)) hu)).pieceHome
          · exact h
        · exact h
    · split
      · exact h
      · split
        · split
          · refine .ite h ?_
            split
            · exact h
            · have h1 := h.storePhys.get ‹_›
              exact ((Canonical.ite h1 h1.usesLines).foldl (fun _ _ hu => .ite (hu.update (by rfl)) hu)).pieceHome
          · exact h
        · exact h
    · split
      · exact h
      · split
        · exact .ite h.performLoad.commitPart h
        · exact h
    · split
      · exact .ite h.performAtomic h
      · exact h
    · split
      · exact .ite h.performAtomic h
      · exact h
    · exact h
    · exact h
    · exact h

theorem homeRequest {id : Nat} (h : s.Canonical) : (s.homeRequest id).Canonical := .ite h.performNext h.performNext.flitTaken

theorem forwardFor {id : Nat} (h : s.Canonical) : (s.forwardFor id).Canonical := by
  unfold State.forwardFor
  split
  · exact h
  · split
    · exact h
    · split
      · exact h
      · exact h.foldl (fun _ _ hu => .ite hu.forward hu)

theorem fenceDone {id : Nat} {a : Access} {p u : BitVec 5} {scope : Nat} (h : s.Canonical) :
    (s.fenceDone id a p u scope).Canonical :=
  .ite h (Canonical.ite h.acquire h).modThr.setAcc.wakeCtx

theorem completeAccess {id : Nat} (h : s.Canonical) : (s.completeAccess id).Canonical := by
  unfold State.completeAccess
  dsimp only
  split
  · exact h
  · split
    · exact h.fenceDone
    · exact .ite h (.ite h.modThr.setAcc.wakeCtx.settleSlot.trapLate h.modThr.setAcc.wakeCtx.settleSlot)

theorem logFull {t : Nat} (h : s.Canonical) : (s.logFull t).Canonical := by
  unfold State.logFull
  dsimp only
  split
  · exact .ite h.leaveTroupe h
  · exact h

theorem fromNow {id : Nat} {ps : List Piece} (h : s.Canonical) : (s.fromNow id ps).Canonical := by
  unfold State.fromNow
  split
  · exact h
  · exact h.setAcc

theorem walkDone {id : Nat} (h : s.Canonical) : (s.walkDone id).Canonical := by
  unfold State.walkDone
  dsimp only
  split
  · exact h
  · split
    · exact h
    · split
      · exact h
      · exact .ite h.setAcc h
      · refine .ite h ?_
        split
        · have h1 := h.translate.fst ‹_›
          exact h1.setAcc.fromNow
        · exact .ite h.logFull h.denied.setAcc.commitPart

theorem settleFault {id : Nat} {fate : FaultFate} (h : s.Canonical) : (s.settleFault id fate).Canonical := by
  unfold State.settleFault
  dsimp only
  split
  · exact h
  · split
    · exact h
    · refine .ite h ?_
      split
      · exact h.setAcc
      · exact h.trapLate.setAcc
      · exact h.trapLate.setAcc
      · exact h.trapLate.setAcc
      · exact h.modThr.setAcc.wakeCtx.settleSlot

theorem replay {id : Nat} (h : s.Canonical) : (s.replay id).Canonical := by
  unfold State.replay
  split
  · exact h
  · refine .ite h ?_
    extract_lets r b
    have hr : r.1.Canonical := by
      refine foldlFst h (fun _ _ hu => ?_)
      split
      · split
        · exact hu.translate.fst ‹_›
        · exact hu.denied
      · exact hu
    exact .ite (.ite hr.setAcc hr.setAcc.wakeCtx) hr.setAcc.fromNow.wakeCtx

theorem execRegistrationAccept {id : Nat} (h : s.Canonical) : CanonicalOut (execRegistrationAccept id s) := by
  unfold Machine.execRegistrationAccept
  change State.Canonical _
  split
  · exact h.inject (fun _ hu => hu.acceptRegn)
  · exact h

theorem execHomeRequest {id : Nat} (h : s.Canonical) : CanonicalOut (execHomeRequest id s) := by
  unfold Machine.execHomeRequest
  change State.Canonical _
  split
  · exact h.inject (fun _ hu => hu.homeRequest)
  · exact h

end Sys2Proof.Machine.State.Canonical
end

section
/-! Machine/Queue.lean: what its functions answer is canonical. -/

namespace Sys2Proof.Machine.State.Canonical
variable {s s0 s' t u a0 : State}

theorem usedBy {die pa : Nat} {tenant : Option Nat} {lv : Level} {wr : Bool} (h : s.Canonical) :
    (s.usedBy die pa tenant lv wr).Canonical :=
  .ite h (.ite (Canonical.ite h.countLine h.countLine.cleanLine).countBurst h.useLine)

theorem translateFor {die : Nat} {tile : Option Nat} {asid : BitVec 16} {va : Nat} {n : Need} (h : s.Canonical) : OnOk
    (fun r => r.1.Canonical) (s.translateFor die tile asid va n) := by
  unfold State.translateFor
  split
  · exact h.translateTile
  · exact h.translateDie

theorem heard {agent die pa : Nat} (h : s.Canonical) : (s.heard agent die pa).Canonical := .ite h h.tellEpoch

theorem vbyte {die : Nat} {asid : BitVec 16} {va : Nat} {tenant tile : optParam (Option Nat) none} {lv : optParam Level Level.l2}
    {agent : Nat} (h : s.Canonical) : OnOk (fun r => r.1.Canonical) (s.vbyte die asid va tenant tile lv agent) := by
  unfold State.vbyte
  dsimp only
  split
  · trivial
  · have h1 := h.translateFor.fst ‹_›
    exact .ite h1.forward.usedBy.heard.noteBlocked h1.forward.usedBy.heard

theorem vreadBy {agent die : Nat} {asid : BitVec 16} {va n : Nat} (h : s.Canonical) :
    OnExcept State.Canonical (fun r => r.1.Canonical) (State.vreadBy agent s die asid va n) := by
  induction n generalizing s va with
  | zero => exact h
  | succ n ih =>
    unfold State.vreadBy
    split
    · exact h.denied
    · have hbyte := h.vbyte.fst ‹_›
      split
      · exact (ih hbyte).getError ‹_›
      · exact (ih hbyte).fst ‹_›

theorem tenantStore {die : Nat} {asid : BitVec 16} {pa : Nat} {bs : List Byte} {agent : Nat} (h : s.Canonical) :
    (s.tenantStore die asid pa bs agent).Canonical :=
  h.dieStore.usedBy

theorem vwriteBy {agent die : Nat} {asid : BitVec 16} {va : Nat} {bs : List Byte} (h : s.Canonical) :
    (State.vwriteBy agent s die asid va bs).1.Canonical := by
  fun_induction State.vwriteBy agent s die asid va bs with
  | case1 => exact h
  | case2 _ _ _ _ _ _ _ _ e => exact h.dieAddr.getError e
  | case3 _ _ _ _ _ _ _ _ _ e _ ih => exact ih (h.dieAddr.get e).tenantStore
  | case4 _ _ _ _ _ _ _ _ _ e _ ih => exact ih (h.dieAddr.get e).tenantStore
  | case5 _ _ _ _ _ _ e => exact h.dieAddr.getError e
  | case6 _ _ _ _ _ _ _ e ih => exact ih (h.dieAddr.get e).tenantStore

theorem vread {die : Nat} {asid : BitVec 16} {va n : Nat} (h : s.Canonical) : OnExcept State.Canonical (fun r => r.1.Canonical)
    (s.vread die asid va n) :=
  h.vreadBy

theorem vwrite {die : Nat} {asid : BitVec 16} {va : Nat} {bs : List Byte} (h : s.Canonical) :
    (s.vwrite die asid va bs).1.Canonical :=
  h.vwriteBy

theorem snapshot {die : Nat} {asid : BitVec 16} {va : Nat} (h : s.Canonical) : (s.snapshot die asid va).1.Canonical := by
  unfold State.snapshot
  extract_lets r codeVa c
  have hr : r.1.Canonical := by
    dsimp only [r]
    split
    · exact h.vread.fst ‹_›
    · exact h.vread.getError ‹_›
  dsimp only [c]
  split
  · exact hr.vread.fst ‹_›
  · exact hr.vread.getError ‹_›

theorem enqueueKernel {q ctx tenant : Nat} {asid : BitVec 16} {v : Word} (h : s.Canonical) :
    (s.enqueueKernel q ctx tenant asid v).1.Canonical := by
  have hs : ∀ die va, (s.snapshot die asid va).1.Canonical := fun _ _ => h.snapshot
  exact (hs _ _).update (by rfl)

theorem push {q die ctx tenant : Nat} {asid : BitVec 16} {v : Word} {agent : Nat} (h : s.Canonical) :
    (s.push q die ctx tenant asid v agent).Canonical := by
  unfold State.push
  dsimp only
  split
  · exact h.passEpoch.modQueue.updQueue.wakeQueue
  · exact (Canonical.ite h.enqueueKernel.vwrite.modQueue h.vwriteBy).updQueue.wakeQueue

theorem releaseHeld {q die : Nat} (h : s.Canonical) : (s.releaseHeld q die).Canonical := by
  unfold State.releaseHeld
  refine .ite h ?_
  split
  · exact h
  · exact (h.update (by rfl)).push

theorem engineResult {q : Nat} {v : Word} {cmd : Nat} (h : s.Canonical) : (s.engineResult q v cmd).Canonical :=
  .ite h.push (.ite (h.update (by rfl)) h)

theorem pop {q die : Nat} {agent : Nat} (h : s.Canonical) : (s.pop q die agent).1.Canonical := by
  unfold State.pop
  dsimp only
  split
  · exact (Canonical.ite h.passEpoch h).modQueue.updQueue.wakeQueue.releaseHeld
  · split
    · have h1 := h.vreadBy.fst ‹_›
      exact h1.updQueue.wakeQueue.releaseHeld
    · have h1 := h.vreadBy.getError ‹_›
      exact h1.updQueue.wakeQueue.releaseHeld

end Sys2Proof.Machine.State.Canonical
end

section
/-! Machine/Operands.lean: what its functions answer is canonical. -/

namespace Sys2Proof.Machine.State.Canonical
variable {s s0 s' t u a0 : State}

theorem portHinder {t : Nat} {ins : List Nat} {out : Option Nat} (h : s.Canonical) : OnSome (fun r => r.Canonical)
    (s.portHinder t ins out) := by
  unfold State.portHinder
  refine of_ite trivial ?_
  refine of_ite trivial ?_
  dsimp only
  split
  · exact h
  · split
    · trivial
    · split
      · trivial
      · exact of_ite h (of_ite trivial trivial)

theorem latchPort {k port : Nat} (h : s.Canonical) : (s.latchPort k port).Canonical := by
  unfold State.latchPort
  refine .ite h ?_
  extract_lets q
  exact h.pop.acquire.modThr

theorem unlatch {t : Nat} {ports : List Nat} (h : s.Canonical) : (s.unlatch t ports).Canonical := .ite h h.modThr

theorem flagHinder {x : Thread} {f : Option Nat} : OnSome (fun r => r.Canonical) (State.flagHinder x f) :=
  of_ite trivial (of_ite trivial trivial)

theorem operands {t : Nat} {gs ws : List Nat} {dst : Option Nat} {pre : Thread → Option TrapInfo} {k : State → List Word → TRes}
    (h : s.Canonical) (hk : ∀ (u : State) (x1 : List Word), u.Canonical → (k u x1).Canonical) :
    (s.operands t gs ws dst pre k).Canonical := by
  unfold State.operands
  refine of_ite trivial ?_
  refine of_ite h ?_
  dsimp only
  split
  · trivial
  · split
    · exact h.portHinder.get ‹_›
    · split
      · have h1 := (hk _ _ (h.foldl (fun _ _ hu => hu.latchPort))).done ‹_›
        exact h1.unlatch
      · have h1 := (hk _ _ (h.foldl (fun _ _ hu => hu.latchPort))).leave ‹_›
        exact h1.unlatch
      · exact hk _ _ (h.foldl (fun _ _ hu => hu.latchPort))

theorem wr {t n : Nat} {v : Word} (h : s.Canonical) : (s.wr t n v).Canonical := .ite h.push h.modThr

theorem regOp {d : BitVec 6} {gs : List (BitVec 6)} {f : List Word → Word} {t : Nat} (h : s.Canonical) :
    (regOp d gs f s t).Canonical :=
  h.operands (fun _ _ hu => hu.wr)

theorem floatOp {d : BitVec 6} {gs : List (BitVec 6)} {f : RMode → List Word → Res} {t : Nat} (h : s.Canonical) :
    (floatOp d gs f s t).Canonical :=
  h.operands (fun _ _ hu => hu.modThr.wr)

theorem predOp {p : Nat} {gs : List (BitVec 6)} {f : List Word → Bool} {t : Nat} (h : s.Canonical) : (predOp p gs f s t).Canonical
    :=
  h.operands (fun _ _ hu => hu.modThr)

theorem illegal : illegal.Canonical := trivial

theorem threadOp {f : Thread → Thread} {t : Nat} (h : s.Canonical) : (threadOp f s t).Canonical := h.modThr

end Sys2Proof.Machine.State.Canonical
end

section
/-! Machine/Timing.lean: what its functions answer is canonical. -/

namespace Sys2Proof.Machine.State.Canonical
variable {s s0 s' t u a0 : State}

theorem stamped {sel : Sel} {i : Instr} (_h : s.Canonical) (hs' : s'.Canonical) : (s.stamped s' sel i).Canonical :=
  .ite hs' (.ite hs'.modCtx (.ite hs' (.ite (hs'.foldl (fun _ _ hu => hu.modThr)).modCore (hs'.foldl (fun _ _ hu => hu.modThr)))))

end Sys2Proof.Machine.State.Canonical
end

section
/-! Machine/Fetch.lean: what its functions answer is canonical. -/

namespace Sys2Proof.Machine.State.Canonical
variable {s s0 s' t u a0 : State}

theorem codeBlock {t b : Nat} (h : s.Canonical) : (s.codeBlock t b).1.Canonical := .iteFst h h.useLine.modCore

theorem fetchPart {t va n : Nat} (h : s.Canonical) : (s.fetchPart t va n).Canonical := by
  unfold State.fetchPart
  refine of_ite h ?_
  refine of_ite trivial ?_
  dsimp only
  split
  · trivial
  · have h1 := h.translate.fst ‹_›
    split
    · trivial
    · exact of_ite trivial h1.codeBlock

theorem fetchParcels {k va n : Nat} (h : s.Canonical) : (s.fetchParcels k va n).Canonical := by
  induction n generalizing s va with
  | zero => exact h
  | succ n ih =>
    unfold State.fetchParcels
    split
    · have hnext := ih (va := va + 2) (h.fetchPart.bytes ‹_›)
      split
      · exact hnext.bytes ‹_›
      · exact hnext
    · exact h.fetchPart

theorem fetch {t va n : Nat} (h : s.Canonical) : (s.fetch t va n).Canonical := h.fetchParcels

theorem standIn {sel : Sel} {va : Nat} (h : s.Canonical) : (s.standIn sel va).Canonical := by
  unfold State.standIn
  refine .ite h ?_
  split
  · exact h
  · have h1 := h.translate.fst ‹_›
    exact h1.foldl (fun _ _ hu => hu.modThr)

theorem logFetch {t : Nat} {va : DWord} {f : XFault} (h : s.Canonical) : (s.logFetch t va f).Canonical :=
  of_ite h h.denied.setAcc.takeId

theorem transfer {t : Nat} {target : DWord} {link : Thread → Thread} (h : s.Canonical) : (s.transfer t target link).Canonical :=
    by
  unfold State.transfer
  refine of_ite trivial ?_
  split
  · trivial
  · exact h.logFetch
  · trivial
  · have h1 := h.fetch.bytes ‹_›
    exact of_ite h1.modThr trivial

theorem notHere {x : Thread} : (State.notHere x).Canonical := of_ite trivial State.Canonical.illegal

theorem run {i : Instr} {yields : Bool} {op : State → Nat → TRes} (h : s.Canonical)
    (hop : ∀ (u : State) (x1 : Nat), u.Canonical → (op u x1).Canonical) : CanonicalOut (s.run i yields op) :=
  h.issue (fun _ _ hu => of_ite (of_ite State.Canonical.illegal (of_ite trivial (hop _ _ hu))) State.Canonical.notHere)

end Sys2Proof.Machine.State.Canonical
end

section
/-! Machine/Control.lean: what its functions answer is canonical. -/

namespace Sys2Proof.Machine.State.Canonical
variable {s s0 s' t u a0 : State}

theorem passHeader {w : BitVec 12} {a b n : BitVec 4} {y : BitVec 1} {t : Nat} (h : s.Canonical) :
    (passHeader w a b n y s t).Canonical := by
  unfold Machine.passHeader
  refine of_ite State.Canonical.illegal ?_
  refine of_ite trivial ?_
  refine of_ite h.modThr ?_
  split
  · trivial
  · exact h

theorem compact {d : BitVec 6} {k : BitVec 5} {f : Word → Word → Word} {t : Nat} (h : s.Canonical) : (compact d k f s t).Canonical
    :=
  h.regOp

theorem compactI {d : BitVec 6} {f : Word → Word} {t : Nat} (h : s.Canonical) : (compactI d f s t).Canonical := h.regOp

theorem compactF {d : BitVec 6} {k : BitVec 5} {f : RMode → Nat → Nat → Res} {t : Nat} (h : s.Canonical) :
    (compactF d k f s t).Canonical :=
  h.floatOp

theorem int2 {i : Instr} {d a b : BitVec 6} {f : Word → Word → Word} (h : s.Canonical) : CanonicalOut (int2 i d a b f s) :=
  h.run (fun _ _ hu => hu.regOp)

theorem int1 {i : Instr} {d a : BitVec 6} {f : Word → Word} (h : s.Canonical) : CanonicalOut (int1 i d a f s) :=
  h.run (fun _ _ hu => hu.regOp)

theorem plog {d a b : BitVec 3} {f : Bool → Bool → Bool} {t : Nat} (h : s.Canonical) : (plog d a b f s t).Canonical := h.threadOp

theorem float2 {i : Instr} {d a b : BitVec 6} {f : RMode → Nat → Nat → Res} (h : s.Canonical) : CanonicalOut (float2 i d a b f s)
    :=
  h.run (fun _ _ hu => hu.floatOp)

theorem float1 {i : Instr} {d a : BitVec 6} {f : RMode → Nat → Res} (h : s.Canonical) : CanonicalOut (float1 i d a f s) :=
  h.run (fun _ _ hu => hu.floatOp)

theorem fused {i : Instr} {d a b : BitVec 6} {np na : Bool} (h : s.Canonical) : CanonicalOut (fused i d a b np na s) :=
  h.run (fun _ _ hu => hu.floatOp)

theorem fcvt {i : Instr} {d a : BitVec 6} {r : BitVec 3} {f : RMode → Nat → Res} (h : s.Canonical) : CanonicalOut
    (fcvt i d a r f s) :=
  h.run (fun _ _ hu => hu.floatOp)

theorem branch {p : BitVec 3} {n : BitVec 1} {o : BitVec 21} {link : Thread → Thread} {t : Nat} (h : s.Canonical) :
    (branch p n o link s t).Canonical :=
  of_ite h.transfer h

end Sys2Proof.Machine.State.Canonical
end

section
/-! Machine/Storage.lean: what its functions answer is canonical. -/

namespace Sys2Proof.Machine.State.Canonical
variable {s s0 s' t u a0 : State}

theorem memHinder {t : Nat} {flag : Option Nat} {entries : Nat} (h : s.Canonical) : OnSome (fun r => r.Canonical)
    (s.memHinder t flag entries) := by
  unfold State.memHinder
  split
  · exact State.Canonical.flagHinder.get ‹_›
  · exact of_ite trivial (of_ite h trivial)

theorem launch {t : Nat} {op : AccOp} {lv : Level} {dst : Dst} {ws : List Want} {flag : Option Nat} {entries : Nat}
    (h : s.Canonical) : (s.launch t op lv dst ws flag entries).Canonical := by
  unfold State.launch
  refine of_ite trivial ?_
  dsimp only
  split
  · exact h.memHinder.get ‹_›
  · exact h.startAccess.modThr

theorem tracked {t : Nat} {f : BitVec 1} {k : TRes} (_h : s.Canonical) (hk : k.Canonical) : (s.tracked t f k).Canonical :=
  of_ite hk State.Canonical.illegal

theorem execLd {t : BitVec 6} {a : BitVec 4} {l : BitVec 2} {y : BitVec 3} {f : BitVec 1} {o : BitVec 9} (h : s.Canonical) :
    CanonicalOut (execLd t a l y f o s) :=
  h.run (fun _ _ hu => hu.tracked (by
  dsimp only
  split
  · trivial
  · exact hu.launch))

theorem execSt {t : BitVec 6} {a : BitVec 4} {l : BitVec 2} {y : BitVec 3} {f : BitVec 1} {o : BitVec 9} (h : s.Canonical) :
    CanonicalOut (execSt t a l y f o s) :=
  h.run (fun _ _ hu => hu.operands (fun _ _ hv => by
  dsimp only
  split
  · trivial
  · exact hv.launch))

theorem execWld {t a : BitVec 4} {l : BitVec 2} {o : BitVec 6} {f : BitVec 1} {g : BitVec 6} (h : s.Canonical) : CanonicalOut
    (execWld t a l o f g s) :=
  h.run (fun _ _ hu => hu.tracked (by
  dsimp only
  split
  · trivial
  · exact hu.launch))

theorem execWst {t a : BitVec 4} {l : BitVec 2} {o : BitVec 6} {f : BitVec 1} {g : BitVec 6} (h : s.Canonical) : CanonicalOut
    (execWst t a l o f g s) :=
  h.run (fun _ _ hu => hu.operands (fun _ _ hv => by
  dsimp only
  split
  · trivial
  · exact hv.launch))

theorem execGather {d a b : BitVec 4} {f : BitVec 1} {l : BitVec 2} {y : BitVec 1} (h : s.Canonical) : CanonicalOut
    (execGather d a b f l y s) :=
  h.run (fun _ _ hu => hu.tracked (hu.operands (fun _ _ hv => by
  dsimp only
  split
  · trivial
  · exact hv.launch)))

theorem execScatter {d a b : BitVec 4} {f : BitVec 1} {l : BitVec 2} {y : BitVec 1} (h : s.Canonical) : CanonicalOut
    (execScatter d a b f l y s) :=
  h.run (fun _ _ hu => hu.operands (fun _ _ hv => by
  dsimp only
  split
  · trivial
  · exact hv.launch))

theorem prefLine {t : Nat} {l : BitVec 2} {ea : DWord} (h : s.Canonical) : (prefLine s t l ea).Canonical := by
  unfold Machine.prefLine
  dsimp only
  split
  · exact h.denied
  · have h1 := h.translate.fst ‹_›
    refine .ite h1.noteBlocked ?_
    refine .ite ?_ h1.useLine
    split
    · have h2 := h1.useLine.l1Room.get ‹_›
      exact h2.fillLine
    · exact h1.useLine

theorem atom {i : Instr} {op : Nat} {d : BitVec 6} {a : BitVec 4} {b : BitVec 6} {f : BitVec 1} {l : BitVec 2} (h : s.Canonical) :
    CanonicalOut (atom i op d a b f l s) :=
  h.run (fun _ _ hu => hu.tracked (hu.operands (fun _ _ hv => by
  dsimp only
  split
  · trivial
  · exact hv.launch)))

theorem execAcas {d : BitVec 6} {a : BitVec 4} {b : BitVec 6} {f : BitVec 1} {l : BitVec 2} (h : s.Canonical) : CanonicalOut
    (execAcas d a b f l s) :=
  h.run (fun _ _ hu => hu.tracked (hu.operands (fun _ _ hv => by
  dsimp only
  split
  · trivial
  · exact hv.launch)))

theorem fence {p u : BitVec 5} {scope : Nat} {t : Nat} (h : s.Canonical) : (fence p u scope s t).Canonical :=
  of_ite h (of_ite h.launch (of_ite trivial (Canonical.ite h.acquire h).modThr))

end Sys2Proof.Machine.State.Canonical
end

section
/-! Machine/Sync.lean: what its functions answer is canonical. -/

namespace Sys2Proof.Machine.State.Canonical
variable {s s0 s' t u a0 : State}

theorem setBarrier {c p : Nat} {b : Barrier} (h : s.Canonical) : (s.setBarrier c p b).Canonical := h.modCtx

theorem checkRelease {c p : Nat} (h : s.Canonical) : (s.checkRelease c p).Canonical := .ite h.setBarrier h

theorem arrive {t p : Nat} {own : Bool} (h : s.Canonical) : (s.arrive t p own).Canonical := h.setBarrier.checkRelease

theorem dropAt {t p : Nat} (h : s.Canonical) : (s.dropAt t p).Canonical := .ite h (.ite h.setBarrier h.setBarrier.checkRelease)

theorem waitOn {t p : Nat} {phase : Bool} (h : s.Canonical) : (waitOn s t p phase).Canonical := h.modThr

theorem waited {t : Nat} (h : s.Canonical) : (waited s t).Canonical := by
  unfold Machine.waited
  dsimp only
  split
  · exact h.modThr
  · exact h.setBarrier.modThr

theorem onBarrier {n : Nat} {far : Bool} {k : State → Nat → Nat → Bool → TRes} {t : Nat} (h : s.Canonical)
    (hk : ∀ (u : State) (x1 x2 : Nat) (x3 : Bool), u.Canonical → (k u x1 x2 x3).Canonical) : (onBarrier n far k s t).Canonical :=
    by
  unfold Machine.onBarrier
  split
  · trivial
  · exact hk _ _ _ _ h

theorem arriving {k : State → Nat → Nat → Bool → TRes} {t p : Nat} {own : Bool} (h : s.Canonical)
    (hk : ∀ (u : State) (x1 x2 : Nat) (x3 : Bool), u.Canonical → (k u x1 x2 x3).Canonical) : (arriving k s t p own).Canonical :=
  of_ite trivial (of_ite trivial (hk _ _ _ _ h))

theorem barInit {n l : Nat} {k : Word} {t : Nat} (h : s.Canonical) : (barInit n l k s t).Canonical :=
  of_ite trivial ((h.foldl (fun _ _ hu => .ite hu.setBarrier hu)).foldl (fun _ _ hu => hu.setBarrier))

theorem releaseWaiter {c p k : Nat} (h : s.Canonical) : (s.releaseWaiter c p k).Canonical := h.modThr

theorem releaseBarrier {c p : Nat} (h : s.Canonical) : (s.releaseBarrier c p).Canonical := by
  unfold State.releaseBarrier
  dsimp only
  split
  · exact h
  · exact .ite h ((Canonical.ite (h.setBarrier.foldl (fun _ _ hu => hu.releaseWaiter))
      (h.setBarrier.foldl (fun _ _ hu => hu.releaseWaiter)).releaseTroupes).update (by rfl))

theorem tagStore {op : DWord → AccOp} {a : BitVec 4} {t : Nat} (h : s.Canonical) : (tagStore op a s t).Canonical := h.launch

theorem qbind {port : Nat} {va : DWord} {push : Bool} {t : Nat} (h : s.Canonical) : (qbind port va push s t).Canonical := by
  unfold Machine.qbind
  refine of_ite trivial ?_
  dsimp only
  split
  · trivial
  · have h1 := h.translate.fst ‹_›
    exact of_ite trivial h1.modThr

theorem boundPort {port : Nat} {k : Port → Nat → TRes} {t : Nat} (_h : s.Canonical)
    (hk : ∀ (u : Port) (x1 : Nat), (k u x1).Canonical) : (boundPort port k s t).Canonical :=
  of_ite trivial (hk _ _)

theorem trapBlocked {q : Nat} {p : Thread → Bool} (h : s.Canonical) : (s.trapBlocked q p).Canonical :=
  h.foldl (fun _ _ hu => hu.foldl (fun _ _ hv => hv.trapTroupe))

theorem closeQueue {q : Nat} (h : s.Canonical) : (s.closeQueue q).Canonical := by
  unfold State.closeQueue
  split
  · exact h.updQueue.trapBlocked
  · exact h.updQueue.trapBlocked
  · exact h.updQueue.trapBlocked
  · exact h

theorem qtry {d : Nat} {v : Word} {t : Nat} {p : Port} {k : Nat} (h : s.Canonical) : (qtry d v s t p k).Canonical := by
  unfold Machine.qtry
  refine of_ite (of_ite trivial (of_ite h.modThr (of_ite trivial h.push.modThr))) ?_
  refine of_ite trivial ?_
  refine of_ite h.modThr ?_
  dsimp only
  split
  · trivial
  · exact h.pop.acquire.modThr

theorem portStep {t : Nat} {ins : List Nat} {out : Option Nat} {k : State → State} (h : s.Canonical)
    (hk : ∀ u, u.Canonical → (k u).Canonical) : (s.portStep t ins out k).Canonical := by
  unfold State.portStep
  split
  · exact h
  · refine .ite h ?_
    split
    · exact trapTroupe (h.update (by rfl))
    · have h1 := TRes.Canonical.block (h.portHinder.get ‹_›) rfl
      exact leaveTroupe (h1.update (by rfl))
    · exact h
    · exact hk _ h

theorem configureQueue {asid : BitVec 16} {va : DWord} {c : QueueCfg} (h : s.Canonical) : (s.configureQueue asid va c).Canonical
    := by
  unfold State.configureQueue
  dsimp only
  split
  · exact h
  · exact .ite h (h.update (by rfl)).putDesc

theorem reopenQueue {q : Nat} {free : Bool} (h : s.Canonical) : (s.reopenQueue q free).Canonical :=
  .ite h (.ite (h.update (by rfl)).putDesc h.updQueue)

theorem notifyAuth {q : Option Nat} {session : Word} {va : DWord} (h : s.Canonical) : (s.notifyAuth q session va).Canonical :=
  h.log

theorem notify {session : Word} {va : DWord} {tail : Word} {seq : DWord} {tag : BitVec 128} (h : s.Canonical) :
    (s.notify session va tail seq tag).Canonical := by
  unfold State.notify
  dsimp only
  split
  · exact h.notifyAuth
  · exact .ite h.notifyAuth (.ite (h.update (by rfl)).notifyAuth
      (.ite (h.update (by rfl)) (h.update (by rfl)).updQueue.wakeQueue))

theorem heapStart {t : Nat} {kind : HeapKind} {key : Word} {payload : DWord} {dg da : Nat} {flag : Option Nat} (h : s.Canonical) :
    (s.heapStart t kind key payload dg da flag).Canonical := by
  unfold State.heapStart
  refine of_ite trivial ?_
  dsimp only
  split
  · exact State.Canonical.flagHinder.get ‹_›
  · exact of_ite trivial (h.update (by rfl)).modThr

theorem heapFinish {id : Nat} {o : HeapOp} {f : Thread → Thread} (h : s.Canonical) : (s.heapFinish id o f).Canonical := by
  unfold State.heapFinish
  extract_lets live s1 s2
  have h1 : s1.Canonical := h.modThr
  have h2 : s2.Canonical := h1.update (by rfl)
  exact h2.wakeCtx.settleSlot

theorem heapServe {id : Nat} {o : HeapOp} {pick : Nat} (h : s.Canonical) : (s.heapServe id o pick).Canonical := by
  unfold State.heapServe
  dsimp only
  split
  · exact h
  · exact (h.update (by rfl)).passEpoch.acquire.heapFinish

theorem heapArrival {die pick : Nat} (h : s.Canonical) : (s.heapArrival die pick).Canonical := by
  unfold State.heapArrival
  dsimp only
  split
  · exact h
  · refine .ite h ?_
    split
    · refine .ite h.heapFinish ?_
      split
      · exact (h.update (by rfl)).passEpoch.heapFinish.heapServe
      · exact (h.update (by rfl)).passEpoch.heapFinish
    · exact .ite (h.update (by rfl)) h.heapServe
    · exact .ite h.heapFinish h.heapServe

theorem writeHeapOwner {die : Nat} {v : DWord} (h : s.Canonical) : (s.writeHeapOwner die v).Canonical :=
  .ite h.modDie ((h.update (by rfl)).foldl (fun _ _ hu => by
  split
  · exact .ite hu.heapFinish.later hu
  · exact hu))

end Sys2Proof.Machine.State.Canonical
end

section
/-! Machine/Fabric.lean: what its functions answer is canonical. -/

namespace Sys2Proof.Machine.State.Canonical
variable {s s0 s' t u a0 : State}

theorem setHandle {core i : Nat} {e : Handle} (h : s.Canonical) : (s.setHandle core i e).Canonical := h.modCore

theorem mapHandles {f : Nat → Handle → Handle} (h : s.Canonical) : (s.mapHandles f).Canonical := h.update (by rfl)

theorem retireHandles {t : Nat} (h : s.Canonical) : (s.retireHandles t).Canonical := h.mapHandles

theorem freeHandles {t : Nat} (h : s.Canonical) : (s.freeHandles t).Canonical := h.mapHandles

theorem endHandles {ctx : Nat} {loadedOn : Option Nat} (h : s.Canonical) : (s.endHandles ctx loadedOn).Canonical := h.mapHandles

theorem mint {t : Nat} {v : Word} (h : s.Canonical) : (s.mint t v).1.Canonical := by
  unfold State.mint
  dsimp only
  split
  · exact h
  · exact h.setHandle

theorem execMkh {d : BitVec 4} {a : BitVec 6} {f : BitVec 1} (h : s.Canonical) : CanonicalOut (Machine.execMkh d a f s) := by
  refine h.run (fun _ _ hu => hu.tracked (hu.operands (fun _ _ hv => of_ite State.Canonical.illegal ?_)))
  split
  · exact hv.memHinder.get ‹_›
  · extract_lets r
    have hr : r.1.Canonical := hv.mint
    exact hr.launch

theorem sendPost {t : Nat} {p : Post} {flag : Option Nat} (h : s.Canonical) : (s.sendPost t p flag).Canonical := by
  unfold State.sendPost
  dsimp only
  split
  · exact h.memHinder.get ‹_›
  · exact (h.update (by rfl)).modThr

theorem postRefused {id : Nat} {p : Post} (h : s.Canonical) : (s.postRefused id p).Canonical := h.log.update (by rfl)

theorem forgeRecord {sender : Option (Nat × DWord)} {y0 : DWord} (h : s.Canonical) : (s.forgeRecord sender y0).Canonical := h.log

theorem setTarget {e : Handle} {x : Thread} (h : s.Canonical) : (s.setTarget e x).Canonical :=
  .ite h.setThr.wakeCtx.settleSlot h.setEvicted

theorem present {sender : Option (Nat × DWord)} {y0 : DWord} {off : Nat} {wide : Bool} {v : Word} {w : WReg} (h : s.Canonical) :
    (s.present sender y0 off wide v w).1.Canonical :=
  .iteFst h.forgeRecord (.iteFst h (.iteFst h (.iteFst h (.iteFst h (.iteFst h (.iteFst h.setTarget h.setTarget))))))

theorem postArrival {id : Nat} {peer : Option PeerPost} (h : s.Canonical) : (s.postArrival id peer).Canonical := by
  unfold State.postArrival
  dsimp only
  split
  · exact .ite h (.ite (h.update (by rfl)) h.present)
  · split
    · exact h
    · exact .ite h (.ite h.postRefused (.ite (h.update (by rfl)) (h.learn.present.update (by rfl))))

theorem revokeArrival {id : Nat} (h : s.Canonical) : (s.revokeArrival id).Canonical := by
  unfold State.revokeArrival
  split
  · exact h
  · refine .ite h (.ite h.postRefused ?_)
    extract_lets done core e
    have hdone : ∀ {u : State} {st : PostStage}, u.Canonical → (done u st).Canonical := fun hu => hu.update (by rfl)
    exact .ite (hdone h.forgeRecord) (.ite (hdone h) (.ite (hdone h) (hdone h.setHandle)))

theorem postReply {id : Nat} {fate : PostFate} (h : s.Canonical) : (s.postReply id fate).Canonical := by
  unfold State.postReply
  split
  · exact h
  · extract_lets down s1 s2 finish
    have h0 : down.Canonical := h.modThr
    have h1 : s1.Canonical := h0.update (by rfl)
    have h2 : s2.Canonical := h1.wakeCtx.settleSlot
    have hfinish : ∀ c, (finish c).Canonical := by
      intro c
      dsimp only [finish]
      split
      · exact h2
      · exact h2.trapLate
    clear_value finish
    split
    · exact .ite h (hfinish _)
    · exact .ite h (hfinish _)
    · exact h
    · exact .ite (hfinish _) h

theorem rotateKey {core : Nat} (h : s.Canonical) : (s.rotateKey core).Canonical := by
  unfold State.rotateKey
  extract_lets s1 s2 note
  have h1 : s1.Canonical := h.modCore
  have h2 : s2.Canonical := h1.modCore
  exact h2.update (by rfl)

theorem execPostArrival {idx : Nat} {peer : Option PeerPost} (h : s.Canonical) : CanonicalOut (execPostArrival idx peer s) := by
  unfold Machine.execPostArrival
  change State.Canonical _
  split
  · exact h.inject (fun _ hu => hu.postArrival)
  · exact h.postArrival

theorem execRevokeArrival {idx : Nat} (h : s.Canonical) : CanonicalOut (execRevokeArrival idx s) := by
  unfold Machine.execRevokeArrival
  change State.Canonical _
  split
  · exact h.inject (fun _ hu => hu.revokeArrival)
  · exact h

theorem execPostReply {idx : Nat} {fate : PostFate} (h : s.Canonical) : CanonicalOut (execPostReply idx fate s) := by
  unfold Machine.execPostReply
  change State.Canonical _
  split
  · exact .ite (h.inject (fun _ hu => hu.postReply)) h.postReply
  · exact h

end Sys2Proof.Machine.State.Canonical
end

section
/-! Machine/Group.lean: what its functions answer is canonical. -/

namespace Sys2Proof.Machine.State.Canonical
variable {s s0 s' t u a0 : State}

theorem grant {gid c n : Nat} {k : Kernel} {pad bar tile cluBase : Nat} (h : s.Canonical) :
    (s.grant gid c n k pad bar tile cluBase).Canonical :=
  h.modGroup.modCtx

theorem fillSlots {c : Nat} {slots : List Nat} {f : Nat → Thread} (h : s.Canonical) : (s.fillSlots c slots f).Canonical :=
  h.foldl (fun _ _ hu => hu.setThr)

theorem completionAdd {k : Nat} {v : Word} (h : s.Canonical) : (s.completionAdd k v).Canonical := by
  unfold State.completionAdd
  refine .ite h ?_
  split
  · have h1 := h.dieAddr.fst ‹_›
    exact h1.homeAdd
  · have h1 := h.dieAddr.getError ‹_›
    exact h1.log

theorem endKernel {k : Nat} {st : KState} (h : s.Canonical) : (s.endKernel k st).Canonical := h.modKernel.completionAdd

theorem rekey {t u : Nat} {flags : Bool} (h : s.Canonical) : (s.rekey t u flags).Canonical :=
  (h.withAccs (fun _ => Tab.mapCells_wf _ _)).update (by rfl)

theorem freeSlot {t : Nat} (h : s.Canonical) : (s.freeSlot t).Canonical := h.rekey.freeHandles.setThr

theorem flushStores {n k : Nat} (h : s.Canonical) : (State.flushStores n s k).Canonical := by
  induction n generalizing s with
  | zero => exact h
  | succ n ih => exact .ite (ih h.storeDrain) h

theorem discardThread {t : Nat} (h : s.Canonical) : (s.discardThread t).Canonical := by
  unfold State.discardThread
  extract_lets keep s0 s1 s2
  have h0 : s0.Canonical := h.withAccs (fun _ => Tab.mapCells_wf _ _)
  have h1 : s1.Canonical := h0.flushStores
  have h2 : s2.Canonical := (h1.withAccs (fun _ => Tab.mapCells_wf _ _)).update (by rfl)
  exact h2.freeSlot

theorem ctxTo {core bank c : Nat} {st : CtxState} (h : s.Canonical) : (s.ctxTo core bank c st).Canonical :=
  .ite h (h.update (by rfl))

theorem exchangeBanks {core : Nat} (h : s.Canonical) : (s.exchangeBanks core).Canonical := h.modCtx.modCore.ctxTo.ctxTo

theorem trySwap {core : Nat} (h : s.Canonical) : (s.trySwap core).Canonical := .ite h.exchangeBanks h

theorem freeGroup {gid : Nat} {st : GroupState} (h : s.Canonical) : (s.freeGroup gid st).Canonical := by
  unfold State.freeGroup
  extract_lets g s1 s2
  have h1 : s1.Canonical := h.modCtx
  have h2 : s2.Canonical := ⟨h1.mem, h1.lane, h1.pad, h1.clus, h1.dsp, Tab.drop_wf _ _ h1.evLane, h1.backing, h1.dspSave,
    Tab.drop_wf _ _ h1.threads, h1.accs⟩
  exact h2.modGroup

theorem discardGroup {gid : Nat} (h : s.Canonical) : (s.discardGroup gid).Canonical :=
  .ite h ((h.foldl (fun _ _ hu => hu.discardThread)).freeGroup.foldl (fun _ _ hu => hu.discardThread)).wakeCtx.trySwap

theorem cancelGroup {gid : Nat} (h : s.Canonical) : (s.cancelGroup gid).Canonical := by
  unfold State.cancelGroup
  split
  · exact h.discardGroup
  · exact h.discardGroup
  · exact h.discardGroup
  · exact h.startHalt
  · exact h

theorem unplace {gid : Nat} (h : s.Canonical) : (s.unplace gid).Canonical := by
  unfold State.unplace
  extract_lets g s1 kr die stay p q
  have h1 : s1.Canonical := h.freeGroup.modGroup
  exact h1.update (by rfl)

theorem dropWaiting {k : Nat} (h : s.Canonical) : (s.dropWaiting k).Canonical := h.update (by rfl)

theorem cancelKernel {k : Nat} {faulting : Bool} (h : s.Canonical) : (s.cancelKernel k faulting).Canonical := by
  unfold State.cancelKernel
  dsimp only
  split
  · exact (h.dropWaiting.foldl (fun _ _ hu => hu.cancelGroup)).endKernel
  · exact (h.dropWaiting.foldl (fun _ _ hu => hu.cancelGroup)).modKernel
  · exact (h.dropWaiting.foldl (fun _ _ hu => hu.cancelGroup)).modKernel
  · exact h

theorem reject {k : Nat} (h : s.Canonical) : (s.reject k).Canonical := h.log.endKernel

theorem createGroups {k die : Nat} {cluster : Option Nat} (h : s.Canonical) : (s.createGroups k die cluster).Canonical := by
  unfold State.createGroups
  extract_lets kr n base s1 s2
  have h1 : s1.Canonical := h.foldl (fun _ _ hu => hu.update (by rfl))
  have h2 : s2.Canonical := h1.foldl (fun _ _ hu => hu.update (by rfl))
  exact h2.update (by rfl)

theorem bindMates {kr : Kernel} {p : PendUnit} {cl : Nat} (h : s.Canonical) : (s.bindMates kr p cl).Canonical := h.update (by rfl)

theorem placeUnit {idx core bank : Nat} (h : s.Canonical) : (s.placeUnit idx core bank).Canonical := by
  unfold State.placeUnit
  split
  · exact h
  · split
    · exact h.update (by rfl)
    · extract_lets kr c cl home
      refine .ite h (.ite h (.ite h ?_))
      split
      · extract_lets s1 s2
        have h1 : s1.Canonical := h.grant
        have h2 : s2.Canonical := h1.update (by rfl)
        exact h2.bindMates
      · refine .ite ?_ h
        exact State.Canonical.bindMates (h.update (by rfl))

theorem takeLaunch {die q core bank : Nat} (h : s.Canonical) : (s.takeLaunch die q core bank).Canonical := by
  unfold State.takeLaunch
  dsimp only
  split
  · exact h
  · exact .ite h (.ite h.updQueue.wakeQueue (.ite h.updQueue.wakeQueue.reject h.updQueue.wakeQueue.createGroups.placeUnit))

theorem placementArrival {idx : Nat} (h : s.Canonical) : (s.placementArrival idx).Canonical := by
  unfold State.placementArrival
  dsimp only
  split
  · exact h
  · exact .ite h (.ite (h.update (by rfl)) (h.update (by rfl)).fillSlots.modGroup.modKernel.formTroupes)

theorem handoff {idx die : Nat} (h : s.Canonical) : (s.handoff idx die).Canonical := by
  unfold State.handoff
  dsimp only
  split
  · exact h
  · exact .ite h (h.update (by rfl))

theorem stealRequest {cl : Nat} (h : s.Canonical) : (s.stealRequest cl).Canonical := .ite h (h.update (by rfl))

theorem stealReply {idx : Nat} (h : s.Canonical) : (s.stealReply idx).Canonical := by
  unfold State.stealReply
  dsimp only
  split
  · exact h
  · split
    · exact h.update (by rfl)
    · exact h.update (by rfl)

theorem formationRound {core islot : Nat} (h : s.Canonical) : (s.formationRound core islot).Canonical :=
  .ite h (h.modCtx.foldl (fun _ _ hu => hu.addTroupe))

theorem launchService {gid : Nat} (h : s.Canonical) : (s.launchService gid).Canonical :=
  .ite (h.snapshot.update (by rfl)).createGroups.modGroup (h.snapshot.update (by rfl)).reject.modGroup

theorem startHandler {gid : Nat} (h : s.Canonical) : (s.startHandler gid).Canonical := by
  unfold State.startHandler
  dsimp only
  split
  · exact .ite h.log.modGroup h.modGroup
  · exact .ite h.modGroup h.launchService
  · exact h.modGroup

theorem groupHalted {gid : Nat} (h : s.Canonical) : (s.groupHalted gid).Canonical :=
  .ite h (.ite (h.foldl (fun _ _ hu => hu.modThr)).modCtx.modGroup.discardGroup
    (h.foldl (fun _ _ hu => hu.modThr)).modCtx.modGroup.startHandler.trySwap)

theorem trapAtReply {idx : Nat} (h : s.Canonical) : (s.trapAtReply idx).Canonical := by
  unfold State.trapAtReply
  dsimp only
  split
  · exact h
  · exact (Canonical.ite (h.update (by rfl)).modThr.wakeCtx.settleSlot (h.update (by rfl)).modThr.wakeCtx).trapLate

theorem relatch {t : Nat} (h : s.Canonical) : (s.relatch t).Canonical := by
  unfold State.relatch
  dsimp only
  split
  · exact h
  · exact h.modThr

theorem checkRetiring {gid : Nat} (h : s.Canonical) : (s.checkRetiring gid).Canonical := .ite h.modGroup h

theorem unholdLog {gid : Nat} (h : s.Canonical) : (s.unholdLog gid).Canonical :=
  (h.withAccs (fun _ => Tab.mapCells_wf _ _)).update (by rfl)

theorem resume {gid : Nat} (h : s.Canonical) : (s.resume gid).Canonical :=
  .ite h ((((h.modGroup.foldl (fun _ _ hu => hu.resumeThread.relatch)).foldl (fun _ _ hu => hu.modThr)).foldl
    (fun _ _ hu => hu.modThr)).formTroupes.foldl (fun _ _ hu => hu.trapTroupe)).unholdLog.checkRetiring

theorem terminateGroup {gid : Nat} (h : s.Canonical) : (s.terminateGroup gid).Canonical := .ite h.discardGroup h

theorem terminateKernel {gid : Nat} (h : s.Canonical) : (s.terminateKernel gid).Canonical := .ite h.cancelKernel h

theorem windowAction {gid : Nat} (h : s.Canonical) : (s.windowAction gid).Canonical := by
  unfold State.windowAction
  split
  · exact h.resume
  · exact h.terminateKernel
  · exact h.terminateGroup

theorem serviceTimeout {gid : Nat} (h : s.Canonical) : (s.serviceTimeout gid).Canonical := by
  unfold State.serviceTimeout
  dsimp only
  split
  · exact .ite h.cancelKernel.modGroup h
  · exact h

theorem evictThread {gid c k : Nat} (h : s.Canonical) : (s.evictThread gid c k).Canonical := by
  unfold State.evictThread
  extract_lets t e s1 s2
  have hcopy : Memory.wf (State.copyBytes s.lane s.evLane (256 * t) (256 * e) 256) := copyBytes_wf h.evLane
  have h1 : s1.Canonical := (h.withEvLane (fun _ => hcopy)).update (by dsimp only [s1, State.canonicalFields])
  have h2 : s2.Canonical := .ite h1.rekey.setThr h1
  exact h2.withThreads (Tab.set_wf _ _ _)

theorem evictGroup {gid : Nat} (h : s.Canonical) : (s.evictGroup gid).Canonical :=
  .ite h (h.foldl (fun _ _ hu => hu.evictThread)).modGroup

theorem recallThread {gid c k : Nat} (h : s.Canonical) : (s.recallThread gid c k).Canonical := by
  unfold State.recallThread
  extract_lets t e x s1
  have h1 : s1.Canonical := by
    dsimp only [s1]
    exact setThr h.rekey
  have hlane : Memory.wf (State.copyBytes s.evLane s.lane (256 * e) (256 * t) 256) := copyBytes_wf h.lane
  have hev : Memory.wf (s.evLane.drop (fun a _ => a / 256 == e)) := Tab.drop_wf _ _ h.evLane
  have hthreads : (s1.threads.set t { x with run := .runnable }).wf := Tab.set_wf _ _ _ h1.threads
  exact (((h1.withLane (fun _ => hlane)).withEvLane (fun _ => hev)).withThreads (fun _ => hthreads)).update
    (by dsimp only [State.canonicalFields])

theorem recallGroup {gid : Nat} (h : s.Canonical) : (s.recallGroup gid).Canonical :=
  .ite h (h.foldl (fun _ _ hu => hu.recallThread)).modGroup.formTroupes

theorem slotFree {t : Nat} (h : s.Canonical) : (s.slotFree t).Canonical := .ite h.freeSlot h

theorem retireGroup {gid : Nat} (h : s.Canonical) : (s.retireGroup gid).Canonical :=
  .ite h (.ite (Canonical.ite h.freeGroup.modKernel h.freeGroup).windowAction (.ite h.freeGroup.modKernel h.freeGroup))

theorem drainDone {k : Nat} (h : s.Canonical) : (s.drainDone k).Canonical := .ite h.endKernel h

theorem cancelDone {k : Nat} (h : s.Canonical) : (s.cancelDone k).Canonical := .ite h.endKernel h

theorem exitThread {t : Nat} (h : s.Canonical) : (exitThread s t).Canonical :=
  (h.foldl (fun _ _ hu => hu.dropAt)).retireHandles.modThr.checkRetiring

theorem spawnGroup {t d : Nat} {count : Word} {entry : DWord} {copied : List Word} (h : s.Canonical) :
    (spawnGroup s t d count entry copied).Canonical := by
  unfold Machine.spawnGroup
  refine of_ite State.Canonical.illegal ?_
  refine of_ite trivial ?_
  refine of_ite trivial ?_
  dsimp only
  split
  · exact h.modThr
  · exact (Canonical.ite (h.update (by rfl)).grant.fillSlots.modKernel.formTroupes.startHalt
      (h.update (by rfl)).grant.fillSlots.modKernel.formTroupes).modThr

end Sys2Proof.Machine.State.Canonical
end

section
/-! Machine/Frames.lean: what its functions answer is canonical. -/

namespace Sys2Proof.Machine.State.Canonical
variable {s s0 s' t u a0 : State}

theorem broadcast {part : Nat} {asid : Option (BitVec 16)} {va : Option DWord} (h : s.Canonical) :
    (s.broadcast part asid va).Canonical :=
  (h.withAccs (fun _ => Tab.mapCells_wf _ _)).update (by rfl)

theorem sfence {part : Nat} {asid : Option (BitVec 16)} {va : Option DWord} (h : s.Canonical) : (s.sfence part asid va).Canonical
    :=
  (h.update (by rfl)).broadcast

theorem byHart {k : State → State} (h : s.Canonical) (hk : ∀ u, u.Canonical → (k u).Canonical) : (s.byHart k).Canonical :=
  .ite (hk _ h) (.ite h ((hk _ h).update (by rfl)))

theorem broadcastAll {asid : Option (BitVec 16)} {va : Option DWord} (h : s.Canonical) : (s.broadcastAll asid va).Canonical :=
  h.foldl (fun _ _ hu => .ite hu hu.broadcast)

theorem shootAck {idx : Nat} (h : s.Canonical) : (s.shootAck idx).Canonical := by
  unfold State.shootAck
  split
  · exact .ite (h.update (by rfl)) h
  · exact h

theorem shootRecord {b : Shoot} {sev action : Nat} (h : s.Canonical) : (s.shootRecord b sev action).Canonical := h.log

theorem shootWarn {idx : Nat} (h : s.Canonical) : (s.shootWarn idx).Canonical := by
  unfold State.shootWarn
  split
  · exact .ite h (h.shootRecord.update (by rfl))
  · exact h

theorem modTenant {t : Nat} {g : Tenant → Tenant} (h : s.Canonical) : (s.modTenant t g).Canonical := h.update (by rfl)

theorem forwardFrame {f : Nat} (h : s.Canonical) : (s.forwardFrame f).Canonical := h.foldl (fun _ _ hu => hu.forward)

theorem writeOut {f : Nat} (h : s.Canonical) : (s.writeOut f).Canonical := h.forwardFrame.withBacking moveBytes_wf

theorem putLeaf {a v : Nat} (h : s.Canonical) : (s.putLeaf a v).Canonical := h.homeStore

theorem mapLeaves {f : Nat} {g : Nat → Nat} (h : s.Canonical) : (s.mapLeaves f g).Canonical := h.foldl (fun _ _ hu => hu.putLeaf)

theorem unmapLeaves {f : Nat} (h : s.Canonical) : (s.unmapLeaves f).Canonical := h.mapLeaves.broadcastAll

theorem eachBinding {f : Binding → Binding} (h : s.Canonical) : (s.eachBinding f).Canonical := h.update (by rfl)

theorem releaseFrame {f : Nat} (h : s.Canonical) : (s.releaseFrame f).Canonical := h.unmapLeaves.modFrame.modTenant.eachBinding

theorem giveSpan {f : Nat} {x : Frame} (h : s.Canonical) : (s.giveSpan f x).Canonical :=
  (h.update (by rfl)).foldl (fun _ _ hu => hu.update (by rfl))

theorem pinOne {f : Nat} (h : s.Canonical) : (s.pinOne f).Canonical := h.modFrame

theorem unpinOne {f : Nat} (h : s.Canonical) : (s.unpinOne f).Canonical := h.modFrame

theorem rmPin {f : Nat} (h : s.Canonical) : (s.rmPin f).Canonical := h.modFrame

theorem rmUnpin {f : Nat} (h : s.Canonical) : (s.rmUnpin f).Canonical := h.modFrame

theorem poolPin {f : Nat} (h : s.Canonical) : (s.poolPin f).Canonical := .ite h.rmPin h

theorem rebind {asid : BitVec 16} {va n pa : Nat} (h : s.Canonical) : (s.rebind asid va n pa).Canonical :=
  h.eachBinding.foldl (fun _ _ hu => hu.pinOne)

theorem grantFrames {n t f : Nat} {asid : BitVec 16} {va : DWord} {leaf : Nat} {perms : BitVec 3} (h : s.Canonical) :
    (s.grantFrames n t f asid va leaf perms).Canonical :=
  .ite h ((h.withMem moveBytes_wf).withBacking (Tab.drop_wf _ _)).putLeaf.giveSpan.modTenant.poolPin.rebind

theorem allocateFrame {t f : Nat} {asid : BitVec 16} {va : DWord} {leaf : Nat} {perms : BitVec 3} (h : s.Canonical) :
    (s.allocateFrame t f asid va leaf perms).Canonical :=
  h.grantFrames

theorem writeEntry {a : Nat} {v : DWord} (h : s.Canonical) : (s.writeEntry a v).Canonical :=
  .ite h (.ite (Canonical.ite h.modFrame h).putLeaf.modFrame (Canonical.ite h.modFrame h).putLeaf)

theorem writeRoot {asid : BitVec 16} {table : Option Nat} (h : s.Canonical) : (s.writeRoot asid table).Canonical := by
  unfold State.writeRoot
  split
  · exact h.update (by rfl)
  · exact .ite h (h.update (by rfl))

theorem evictFrame {f : Nat} (h : s.Canonical) : (s.evictFrame f).Canonical :=
  .ite h (Canonical.ite h.forwardFrame h.writeOut).releaseFrame

theorem unmapFrame {f : Nat} (h : s.Canonical) : (s.unmapFrame f).Canonical := by
  unfold State.unmapFrame
  refine .ite h ?_
  dsimp only
  split
  · exact h.modFrame.modTenant.forwardFrame.releaseFrame.withBacking (Tab.drop_wf _ _)
  · exact h.forwardFrame.releaseFrame.withBacking (Tab.drop_wf _ _)

theorem sweep (h : s.Canonical) : s.sweep.Canonical := h.foldl (fun _ _ hu => hu.mapLeaves.modFrame)

theorem writebackDone {f : Nat} (h : s.Canonical) : (s.writebackDone f).Canonical :=
  .ite h (.ite h.mapLeaves.modFrame.broadcastAll (.ite h (.ite h.modFrame h.writeOut.modFrame)))

theorem migrate {src dst : Nat} (h : s.Canonical) : (s.migrate src dst).Canonical :=
  .ite h h.mapLeaves.modFrame.giveSpan.modTenant.broadcastAll

theorem restoreLeaves {x : Frame} {f : Nat} (h : s.Canonical) : (s.restoreLeaves x f).Canonical :=
  h.foldl (fun _ _ hu => hu.putLeaf)

theorem copyDone {src : Nat} (h : s.Canonical) : (s.copyDone src).Canonical := by
  unfold State.copyDone
  dsimp only
  split
  · exact h
  · exact .ite h (h.forwardFrame.withMem moveBytes_wf).restoreLeaves.modFrame.modFrame.modTenant.eachBinding.poolPin.broadcastAll

theorem abandon {src : Nat} {ue : Bool} (h : s.Canonical) : (s.abandon src ue).Canonical := by
  unfold State.abandon
  dsimp only
  split
  · exact h
  · exact .ite h h.restoreLeaves.modFrame.modFrame.modTenant.poolPin.log.broadcastAll

theorem scrubbed {f : Nat} (h : s.Canonical) : (s.scrubbed f).Canonical :=
  .ite h (.ite (h.update (by rfl)) ((h.withMem (Tab.drop_wf _ _)).update (by rfl)).modFrame.broadcastAll)

theorem scrubFailed {f : Nat} (h : s.Canonical) : (s.scrubFailed f).Canonical := .ite h h.modFrame.log

theorem powerRecord {die code sev action detail : Nat} (h : s.Canonical) : (s.powerRecord die code sev action detail).Canonical :=
  h.log

theorem bankUsed {die left : Nat} (h : s.Canonical) : (s.bankUsed die left).Canonical := .ite h.powerRecord h

theorem rowSpared {f left : Nat} (h : s.Canonical) : (s.rowSpared f left).Canonical :=
  .ite h (h.update (by rfl)).modFrame.log.bankUsed

theorem writeTenFr {t : Nat} {v : DWord} (h : s.Canonical) : (s.writeTenFr t v).Canonical := .ite h h.modTenant

end Sys2Proof.Machine.State.Canonical
end

section
/-! Machine/Tensor.lean: what its functions answer is canonical. -/

namespace Sys2Proof.Machine.State.Canonical
variable {s s0 s' t u a0 : State}

theorem eachE {β γ : Type} {f : State → β → Except EFault (State × γ)} {l : List β} (h : s.Canonical)
    (hf : ∀ u x, u.Canonical → OnOk (fun r => r.1.Canonical) (f u x)) : OnOk (fun r => r.1.Canonical) (Machine.eachE f s l) := by
  induction l generalizing s with
  | nil => exact h
  | cons x l ih =>
    unfold Machine.eachE
    split
    · trivial
    · have hrest := ih ((hf _ _ h).fst ‹_›)
      split
      · trivial
      · exact hrest.fst ‹_›

theorem engByte {c : Cmd} {va : DWord} (h : s.Canonical) : OnOk (fun r => r.1.Canonical) (s.engByte c va) := by
  unfold State.engByte
  split
  · trivial
  · split
    · trivial
    · exact h.vbyte.fst ‹_›
  · exact of_ite trivial h.takeEpoch

theorem engRead {c : Cmd} {va : DWord} {n : Nat} (h : s.Canonical) : OnOk (fun r => r.1.Canonical) (s.engRead c va n) := by
  unfold State.engRead
  split
  · trivial
  · refine OnExcept.fst (h.eachE (fun _ _ hu => ?_)) ‹_›
    split
    · trivial
    · exact hu.engByte.fst ‹_›

theorem markPoison {w : Nat} {bad : Bool} (h : s.Canonical) : (s.markPoison w bad).Canonical := .ite (h.update (by rfl)) h

theorem engPut {c : Cmd} {va : DWord} {bs : List Byte} {bad0 : Bool} (h : s.Canonical) : OnOk State.Canonical
    (s.engPut c va bs bad0) := by
  unfold State.engPut
  dsimp only
  split
  · trivial
  · split
    · trivial
    · have h1 := h.translateFor.fst ‹_›
      exact of_ite h1.noteBlocked (of_ite trivial h1.meetEpoch.homeStore.markPoison.usedBy)
  · exact of_ite trivial (.ite (h.putLocal.leaveEpoch.update (by rfl)) h.putLocal.leaveEpoch)

theorem engWrite {c : Cmd} {n : Nat} {va : DWord} {bs : List Byte} {bad : Bool} (h : s.Canonical) :
    (s.engWrite c n va bs bad).1.Canonical := by
  induction n generalizing s va bs with
  | zero => exact h
  | succ n ih =>
    unfold State.engWrite
    refine .iteFst h ?_
    dsimp only
    split
    · exact h
    · exact ih (h.engPut.get ‹_›)

theorem elemBits {c : Cmd} {t : Tsr} {ix : List Nat} (h : s.Canonical) : OnOk (fun r => r.1.Canonical) (s.elemBits c t ix) := by
  unfold State.elemBits
  dsimp only
  split
  · trivial
  · exact h.engRead.fst ‹_›

theorem elemScale {c : Cmd} {t : Tsr} {ix : List Nat} (h : s.Canonical) : OnOk (fun r => r.1.Canonical) (s.elemScale c t ix) := by
  unfold State.elemScale
  refine of_ite h ?_
  split
  · trivial
  · exact h.engRead.fst ‹_›

theorem elemVal {c : Cmd} {t : Tsr} {ix : List Nat} (h : s.Canonical) : OnOk (fun r => r.1.Canonical) (s.elemVal c t ix) := by
  unfold State.elemVal
  split
  · trivial
  · have h1 := h.elemBits.fst ‹_›
    split
    · trivial
    · exact h1.elemScale.fst ‹_›

theorem doPut {c : Cmd} {p : Put} (h : s.Canonical) : (s.doPut c p).1.Canonical := by
  unfold State.doPut
  dsimp only
  split
  · exact h.engWrite
  · split
    · exact h
    · have h1 := h.engRead.fst ‹_›
      exact h1.engWrite

theorem writeAll {β : Type} {f : State → β → State × Option EFault} {l : List β} (h : s.Canonical)
    (hf : ∀ u x, u.Canonical → (f u x).1.Canonical) : (State.writeAll f s l).1.Canonical := by
  induction l generalizing s with
  | nil => exact h
  | cons x l ih =>
    unfold State.writeAll
    split
    · exact (hf _ _ h).of_eq_fst ‹_›
    · exact ih ((hf _ _ h).of_eq_fst ‹_›)

theorem engRecord {c : Cmd} {va : DWord} (h : s.Canonical) : OnOk (fun r => r.1.Canonical) (s.engRecord c va) := by
  unfold State.engRecord
  refine of_ite h ?_
  split
  · trivial
  · have h1 := h.engRead.fst ‹_›
    exact of_ite trivial h1

theorem engTsrs {c : Cmd} {vas : List DWord} (h : s.Canonical) : OnOk (fun r => r.1.Canonical) (s.engTsrs c vas) := by
  unfold State.engTsrs
  dsimp only
  split
  · trivial
  · exact (h.eachE (fun _ _ hu => hu.engRecord)).fst ‹_›

theorem setCmd {id : Nat} {c : Option Cmd} (h : s.Canonical) : (s.setCmd id c).Canonical := h.update (by rfl)

theorem enter {c : Cmd} (h : s.Canonical) : (s.enter c).Canonical := (h.update (by rfl)).modThr.setCmd.passEpoch

theorem cmdHinder {t : Nat} {e : Eng} {cap : Nat} {flag : Option Nat} (h : s.Canonical) : OnSome (fun r => r.Canonical)
    (s.cmdHinder t e cap flag) := by
  unfold State.cmdHinder
  split
  · exact h.memHinder.get ‹_›
  · exact of_ite trivial trivial

theorem cmdPageFault {id : Nat} {c : Cmd} {f : XFault} {va : DWord} (h : s.Canonical) : (s.cmdPageFault id c f va).Canonical :=
  .ite h.logFull h.denied.setCmd

theorem describe {id : Nat} {c : Cmd} {d : State.Describe} (h : s.Canonical)
    (hd : ∀ (u : State) (x1 : Cmd), u.Canonical → OnOk (fun r => r.1.Canonical) (d u x1)) : (s.describe id c d).Canonical := by
  unfold State.describe
  split
  · exact h.cmdPageFault
  · exact h
  · exact h.setCmd.laterFlag
  · have h1 := (hd _ _ h).fst ‹_›
    exact h1.setCmd.laterFlag
  · have h1 := (hd _ _ h).fst ‹_›
    exact h1.setCmd

theorem accept {c : Cmd} {d : State.Describe} (h : s.Canonical)
    (hd : ∀ (u : State) (x1 : Cmd), u.Canonical → OnOk (fun r => r.1.Canonical) (d u x1)) : (s.accept c d).Canonical := by
  unfold State.accept
  refine .ite ?_ (h.enter.describe (fun _ _ hu => hd _ _ hu))
  split
  · exact h.enter.modThr.setCmd
  · exact h.enter

theorem takeStep {c : Cmd} {sr : Bool} (h : s.Canonical) : (s.takeStep c sr).1.Canonical := .iteFst h.modThr h

theorem endCmd {id : Nat} {c : Cmd} (h : s.Canonical) : (s.endCmd id c).Canonical := h.passEpoch.setCmd.modThr.wakeCtx.settleSlot

theorem endTrap {id : Nat} {c : Cmd} {i : TrapInfo} (h : s.Canonical) : (s.endTrap id c i).Canonical := h.setCmd.laterFlag

end Sys2Proof.Machine.State.Canonical
end

section
/-! Machine/Matrix.lean: what its functions answer is canonical. -/

namespace Sys2Proof.Machine.State.Canonical
variable {s s0 s' t u a0 : State}

theorem settleTile {ctx k : Nat} (h : s.Canonical) : (s.settleTile ctx k).Canonical :=
  .ite h (h.foldl (fun _ _ hu => hu.homeStore.markPoison)).homeStore.homeStore

theorem setTile {ctx k : Nat} {x : Tile} (h : s.Canonical) : (s.setTile ctx k x).Canonical := h.modCtx.settleTile

theorem mtx {i : Instr} {d : BitVec 3} {required : Bool} {f : Option (BitVec 1)} {o : BitVec 2}
    {vals : Thread → List Word → List Nat} {gs : List Nat} {va : Option Nat} {dsc : State.Describe} {t : Nat} (h : s.Canonical)
    (hdsc : ∀ (u : State) (x1 : Cmd), u.Canonical → OnOk (fun r => r.1.Canonical) (dsc u x1)) :
    (mtx i d required f o vals gs va dsc s t).Canonical := by
  unfold Machine.mtx
  dsimp only
  split
  · exact State.Canonical.illegal
  · exact of_ite State.Canonical.illegal (h.operands (fun _ _ hu => by
      refine of_ite trivial ?_
      split
      · exact hu.cmdHinder.get ‹_›
      · exact hu.accept (fun _ _ hv => hdsc _ _ hv)))

theorem describeMma {sparse : Bool} {c : Cmd} (h : s.Canonical) : OnOk (fun r => r.1.Canonical) (describeMma sparse s c) := by
  unfold Machine.describeMma
  dsimp only
  split
  · trivial
  · exact h.engRecord.fst ‹_›
  · have h1 := h.engRecord.fst ‹_›
    split
    · trivial
    · exact h1.engTsrs.fst ‹_›
    · exact h1.engTsrs.fst ‹_›

theorem operandRows {c : Cmd} {t : Tsr} {row n k0 klen : Nat} (h : s.Canonical) : OnOk (fun r => r.1.Canonical)
    (operandRows s c t row n k0 klen) :=
  h.eachE (fun _ _ hu => hu.eachE (fun _ _ hv => by
  split
  · trivial
  · exact hv.elemVal.fst ‹_›))

theorem sparseMasks {c : Cmd} {a : Tsr} {meta_ row n k0 klen : Nat} (h : s.Canonical) : OnOk (fun r => r.1.Canonical)
    (sparseMasks s c a meta_ row n k0 klen) :=
  h.eachE (fun _ _ hu => hu.eachE (fun _ _ hv => by
  split
  · trivial
  · exact hv.engRead.fst ‹_›))

theorem mmaTile {c : Cmd} {sparse : Bool} (h : s.Canonical) : OnOk (fun r => r.1.Canonical) (s.mmaTile c sparse) := by
  unfold State.mmaTile
  split
  · split
    · trivial
    · have h1 := h.operandRows.fst ‹_›
      split
      · trivial
      · have h2 := h1.operandRows.fst ‹_›
        split
        · trivial
        · have h3 := (of_ite h2.sparseMasks (OnExcept.ok h2)).fst ‹_›
          exact of_ite h3 h3
  · exact h

theorem guardRecord {core code sev action : Nat} (h : s.Canonical) : (s.guardRecord core code sev action).Canonical := h.log

theorem commitTile {id : Nat} {c : Cmd} {x : Tile} {mismatches : Nat} (h : s.Canonical) :
    (s.commitTile id c x mismatches).Canonical :=
  .ite h.setTile.endCmd (.ite h.guardRecord.setTile.endCmd
    (.ite h.guardRecord.setTile.endTrap h.guardRecord.setTile.guardRecord.endCmd))

theorem cmdFaults {id : Nat} {c : Cmd} {e : EFault} (h : s.Canonical) : (s.cmdFaults id c e).Canonical := by
  unfold State.cmdFaults
  split
  · exact h.cmdPageFault
  · exact h
  · exact h.endTrap

theorem mmaDone {id : Nat} {c : Cmd} {sparse : Bool} {mismatches : Nat} (h : s.Canonical) :
    (s.mmaDone id c sparse mismatches).Canonical := by
  unfold State.mmaDone
  split
  · exact h.cmdFaults
  · have h1 := h.mmaTile.fst ‹_›
    exact h1.endTrap
  · have h1 := h.mmaTile.fst ‹_›
    exact h1.modCore.commitTile

theorem describeNone {c : Cmd} (h : s.Canonical) : OnOk (fun r => r.1.Canonical) (describeNone s c) := h

theorem describeTile {load : Bool} {c : Cmd} (h : s.Canonical) : OnOk (fun r => r.1.Canonical) (describeTile load s c) := by
  unfold Machine.describeTile
  dsimp only
  split
  · trivial
  · exact h.engTsrs.fst ‹_›
  · have h1 := h.engTsrs.fst ‹_›
    exact of_ite h1.takeStep h1

theorem xldElems {c : Cmd} {t : Tsr} {col0 row0 : Nat} (h : s.Canonical) : OnOk (fun r => r.1.Canonical)
    (s.xldElems c t col0 row0) :=
  h.eachE (fun _ _ hu => hu.eachE (fun _ _ hv => by
  refine of_ite hv ?_
  dsimp only
  split
  · trivial
  · exact hv.elemBits.fst ‹_›))

theorem xldDone {id : Nat} {c : Cmd} (h : s.Canonical) : (s.xldDone id c).Canonical := by
  unfold State.xldDone
  dsimp only
  split
  · exact h.cmdFaults
  · have h1 := h.xldElems.fst ‹_›
    exact h1.setTile.endCmd

theorem xstDone {id : Nat} {c : Cmd} {el : Tab Word} {bad : Tab Bool} (h : s.Canonical) : (s.xstDone id c el bad).Canonical := by
  unfold State.xstDone
  split
  · have h1 := (h.writeAll (fun _ _ hu => hu.doPut)).of_eq_fst ‹_›
    exact h1.endCmd
  · exact h.cmdFaults

theorem putAhead {id : Nat} {c : Cmd} {ps : List Put} (h : s.Canonical) : (s.putAhead id c ps).Canonical := by
  unfold State.putAhead
  split
  · exact h
  · split
    · have h1 := h.doPut.of_eq_fst ‹_›
      exact h1.setCmd
    · exact h

theorem execXguard {d : BitVec 6} {a : BitVec 3} {c : BitVec 1} (h : s.Canonical) : CanonicalOut (execXguard d a c s) :=
  h.run (fun _ _ hu => by
  dsimp only
  split
  · exact State.Canonical.illegal
  · exact of_ite trivial (Canonical.ite hu.setTile hu).modThr)

theorem describeDrain {c : Cmd} (h : s.Canonical) : OnOk (fun r => r.1.Canonical) (describeDrain s c) := of_ite h h.describeTile

theorem drainCopy {id : Nat} {c : Cmd} (h : s.Canonical) : (s.drainCopy id c).Canonical := .ite h h.setTile.setCmd

theorem addSequence {n ctx k id : Nat} {c : Cmd} (h : s.Canonical) : (State.addSequence n s ctx k id c).Canonical := by
  induction n generalizing s id c with
  | zero => exact h
  | succ n ih =>
    unfold State.addSequence
    dsimp only
    refine .ite h.setTile.endCmd ?_
    split
    · exact h.setTile.endCmd
    · exact ih h.setTile.endCmd

theorem drainArrives {id : Nat} {c : Cmd} (h : s.Canonical) : (s.drainArrives id c).Canonical := by
  unfold State.drainArrives
  refine .ite h.endTrap ?_
  dsimp only
  split
  · exact h.endTrap
  · exact .ite h.endTrap (.ite h (.ite (.ite h.addSequence h)
      (.ite h.setTile.endCmd (.ite h.setTile.endTrap (.ite h.setTile.addSequence (.ite h.setTile h.setTile.setCmd))))))

theorem drainArrival {id : Nat} (h : s.Canonical) : (s.drainArrival id).Canonical := by
  unfold State.drainArrival
  split
  · exact h
  · split
    · exact .ite h.drainArrives h
    · exact h

theorem matrixDescribe {c d : Cmd} (h : s.Canonical) : OnOk (fun r => r.1.Canonical) (State.matrixDescribe c s d) := by
  have hall : DescribeKeeps (State.matrixDescribe c) := by
    unfold State.matrixDescribe
    split
    · exact fun _ _ hu => hu.describeMma
    · exact fun _ _ hu => hu.describeMma
    · exact fun _ _ hu => hu.describeTile
    · exact fun _ _ hu => hu.describeTile
    · exact fun _ _ hu => hu.describeDrain
    · exact fun _ _ hu => hu.describeNone
  exact hall s d h

theorem performMatrix {id mismatches : Nat} {c : Cmd} (h : s.Canonical) : (s.performMatrix id mismatches c).Canonical := by
  unfold State.performMatrix
  dsimp only
  split
  · exact .ite h.mmaDone h
  · exact .ite h.mmaDone h
  · exact h.setTile.endCmd
  · exact h.xldDone
  · exact h.xstDone
  · exact .ite h.drainCopy (.ite h h.xstDone)
  · exact h

theorem matrixDone {id mismatches : Nat} (h : s.Canonical) : (s.matrixDone id mismatches).Canonical := by
  unfold State.matrixDone
  split
  · exact h
  · split
    · exact .ite h (.ite (.ite h (h.describe (fun _ _ hu => hu.matrixDescribe))) (.ite h h.performMatrix))
    · exact h

theorem matrixAhead {id : Nat} (h : s.Canonical) : (s.matrixAhead id).Canonical := by
  unfold State.matrixAhead
  dsimp only
  split
  · exact h
  · refine .ite h ?_
    split
    · exact .ite h h.putAhead
    · exact .ite h h.putAhead
    · exact h

theorem arrayDown {core : Nat} (h : s.Canonical) : (s.arrayDown core).Canonical := .ite h.modCore h

theorem arrayUp {core : Nat} (h : s.Canonical) : (s.arrayUp core).Canonical := .ite h (Canonical.ite h.modDie h).modCore

theorem execMatrixCommandDone {idx mismatches : Nat} (h : s.Canonical) : CanonicalOut (execMatrixCommandDone idx mismatches s) :=
    by
  unfold Machine.execMatrixCommandDone
  change State.Canonical _
  split
  · exact h.walking (fun _ hu => hu.matrixDone)
  · exact h

end Sys2Proof.Machine.State.Canonical
end

section
/-! Machine/Streamer.lean: what its functions answer is canonical. -/

namespace Sys2Proof.Machine.State.Canonical
variable {s s0 s' t u a0 : State}

theorem setTagIn {c n : Nat} (h : s.Canonical) : (s.setTagIn c n).Canonical := h.setTags

theorem setCmdTag {c : Cmd} (h : s.Canonical) : (s.setCmdTag c).Canonical := by
  unfold State.setCmdTag
  split
  · exact h
  · exact h.passEpoch.setTagIn

theorem describeStrm {c : Cmd} (h : s.Canonical) : OnOk (fun r => r.1.Canonical) (describeStrm s c) := by
  unfold Machine.describeStrm
  dsimp only
  split
  · trivial
  · exact h
  · exact h.engRecord.fst ‹_›
  · have h1 := h.engRecord.fst ‹_›
    split
    · trivial
    · exact h
    · exact h1.engTsrs.fst ‹_›
    · have h2 := h1.engTsrs.fst ‹_›
      exact of_ite h2 h2.takeStep

theorem strm {i : Instr} {a : BitVec 4} {b : BitVec 6} {f : BitVec 1} {o : BitVec 2} {t : Nat} (h : s.Canonical) :
    (strm i a b f o s t).Canonical :=
  h.operands (fun _ _ hu => by
  refine of_ite trivial ?_
  refine of_ite trivial ?_
  refine of_ite trivial ?_
  dsimp only
  split
  · exact hu.cmdHinder.get ‹_›
  · exact hu.accept (fun _ _ hv => hv.describeStrm))

theorem begin_ {a : Copied} {ps : List Put} {bad range : Bool} (_h : a.st.Canonical) (hs : s.Canonical) :
    (a.begin_ s ps bad range).st.Canonical :=
  hs

theorem fail {a : Copied} {e : EFault} (_h : a.st.Canonical) (hs : s.Canonical) : (a.fail s e).st.Canonical := hs

theorem sourceElem {c : Cmd} {t : Tsr} {ix : List Nat} (h : s.Canonical) : OnOk (fun r => r.1.Canonical) (sourceElem s c t ix) :=
    by
  unfold Machine.sourceElem
  refine of_ite h ?_
  split
  · trivial
  · have h1 := h.elemBits.fst ‹_›
    split
    · trivial
    · exact h1.elemScale.fst ‹_›

theorem streamRows {a : Copied} (h : a.st.Canonical) : (streamRows a).st.Canonical := by
  unfold Machine.streamRows
  extract_lets c src dst w rows shift
  split
  · exact h.fail h
  · refine h.begin_ (OnExcept.fst (h.eachE (fun _ _ hu => hu.eachE (fun _ _ hv => ?_))) ‹_›)
    split
    · trivial
    · exact hv.sourceElem.fst ‹_›

theorem streamgRow {a : Copied} (h : a.st.Canonical) : (streamgRow a).st.Canonical := by
  unfold Machine.streamgRow
  extract_lets c r src dst w
  split
  · exact h.fail h
  · have h1 := h.engRead.fst ‹_›
    extract_lets i read
    split
    · exact h.begin_ h1
    · have hread : OnOk (fun r => r.1.Canonical) read := by
        refine of_ite (OnExcept.ok h1) (h1.eachE (fun _ _ hu => ?_))
        split
        · trivial
        · exact hu.sourceElem.fst ‹_›
      clear_value read
      split
      · exact h.fail h1
      · exact h.begin_ hread

theorem readBytes {c : Cmd} {va n : Nat} (h : s.Canonical) : OnOk (fun r => r.1.Canonical) (readBytes s c va n) :=
  h.eachE (fun _ _ hu => by
  split
  · trivial
  · exact hu.engByte.fst ‹_›)

theorem scopyRows {a : Copied} (h : a.st.Canonical) : (scopyRows a).st.Canonical := by
  unfold Machine.scopyRows
  split
  · exact h.fail h
  · have h1 := h.readBytes.fst ‹_›
    exact h.begin_ h1

theorem sfillRows {a : Copied} (h : a.st.Canonical) : (sfillRows a).st.Canonical := h.begin_ h

theorem countUp {c : Cmd} {va : Nat} (h : s.Canonical) : OnOk (fun r => r.1.Canonical) (countUp s c va) := by
  unfold Machine.countUp
  split
  · trivial
  · have h1 := h.engRead.fst ‹_›
    split
    · trivial
    · exact h1.engWrite.of_eq_fst ‹_›

theorem freeBytes {n : Nat} (h : s.Canonical) : (Machine.freeBytes n s).1.Canonical := by
  induction n generalizing s with
  | zero => exact h
  | succ n ih => exact ih h.draw

theorem rowOf {c : Cmd} {t : Tsr} {r n : Nat} (h : s.Canonical) : OnOk (fun r => r.1.Canonical) (rowOf s c t r n) :=
  of_ite h.freeBytes h.readBytes

theorem toBin {a : Copied} {bin k : Nat} {bad : Bool} (h : a.st.Canonical) (hs : s.Canonical) : (toBin a s bin k bad).st.Canonical
    := by
  unfold Machine.toBin
  dsimp only
  split
  · exact h.fail hs
  · have h1 := hs.engRead.fst ‹_›
    split
    · exact h.fail h1
    · have h2 := h1.rowOf.fst ‹_›
      exact h.begin_ h2

theorem binCap {c : Cmd} {bin : Nat} (h : s.Canonical) : OnOk (fun r => r.1.Canonical) (binCap s c bin) := by
  unfold Machine.binCap
  split
  · trivial
  · exact h.engRead.fst ‹_›

theorem offer {a : Copied} {bin : Nat} {bad : Bool} {next : State → Copied} (h : a.st.Canonical) (hs : s.Canonical)
    (hnext : ∀ u, u.Canonical → (next u).st.Canonical) : (Machine.offer a s bin bad next).st.Canonical := by
  unfold Machine.offer
  split
  · exact h.fail hs
  · have hcount := hs.countUp.fst ‹_›
    split
    · exact h.fail hcount
    · split
      · exact h.toBin (hcount.binCap.fst ‹_›)
      · exact hnext _ (hcount.binCap.fst ‹_›)

theorem binscatRow {a : Copied} (h : a.st.Canonical) : (binscatRow a).st.Canonical := by
  unfold Machine.binscatRow
  dsimp only
  split
  · exact h.fail h
  · have h1 := h.engRead.fst ‹_›
    exact h.offer h1 (fun _ hu => h.offer hu (fun _ hv => by
      split
      · exact h.fail hv
      · have h2 := hv.countUp.fst ‹_›
        exact h.begin_ h2))

theorem nextRow {a : Copied} (h : a.st.Canonical) : (nextRow a).st.Canonical := by
  unfold Machine.nextRow
  split
  · exact h.streamRows
  · exact h.streamgRow
  · exact h.scopyRows
  · exact h.binscatRow
  · exact h.sfillRows
  · exact h

theorem writeOutCopy {a : Copied} (h : a.st.Canonical) : (Machine.writeOut a).st.Canonical := by
  unfold Machine.writeOut
  split
  · exact h
  · exact h.writeAll (fun _ _ hu => hu.doPut)

theorem runStrm {c : Cmd} (h : s.Canonical) : (Machine.runStrm s c).st.Canonical := by
  have hrows : ∀ (l : List Nat) (a : Copied), a.st.Canonical →
      (l.foldl (fun a _ => if a.stop.isSome then a else Machine.writeOut (Machine.nextRow a)) a).st.Canonical := by
    intro l
    induction l with
    | nil => exact fun _ ha => ha
    | cons x l ih =>
      refine fun a ha => ih _ ?_
      dsimp only
      split
      · exact ha
      · exact writeOutCopy (nextRow ha)
  exact hrows _ _ (writeOutCopy h)

theorem putStatus {c : Cmd} {n : Nat} (h : s.Canonical) : (s.putStatus c n).1.Canonical := .iteFst h.engWrite h

theorem strmFail {id : Nat} {c : Cmd} {va : Option DWord} (h : s.Canonical) : (s.strmFail id c va).Canonical :=
  (Canonical.ite h.runStrm h).log.putStatus.setCmdTag.endCmd

theorem strmDone {id : Nat} {c : Cmd} (h : s.Canonical) : (s.strmDone id c).Canonical := by
  unfold State.strmDone
  dsimp only
  split
  · exact h.cmdPageFault
  · exact h.strmFail
  · exact h.strmFail
  · exact h
  · exact h.runStrm.putStatus.setCmdTag.endCmd

theorem streamerDone {cluster id : Nat} (h : s.Canonical) : (s.streamerDone cluster id).Canonical := by
  unfold State.streamerDone
  split
  · exact h
  · exact .ite h (.ite (.ite h (h.describe (fun _ _ hu => hu.describeStrm))) (.ite h (.ite h.strmFail h.strmDone)))

theorem strmAhead {id : Nat} {c : Cmd} (h : s.Canonical) : (s.strmAhead id c).Canonical := by
  unfold State.strmAhead
  dsimp only
  split
  · split
    · have h1 := h.doPut.of_eq_fst ‹_›
      exact h1.setCmd
    · exact h
  · exact .ite h (.ite h h.nextRow.setCmd)

theorem copyAhead {id : Nat} (h : s.Canonical) : (s.copyAhead id).Canonical := by
  unfold State.copyAhead
  split
  · exact h
  · split
    · exact .ite h (h.inject (fun _ hu => hu.strmAhead))
    · exact h.matrixAhead
    · exact h

theorem tileAhead {id r k : Nat} (h : s.Canonical) : (s.tileAhead id r k).Canonical := by
  unfold State.tileAhead
  dsimp only
  split
  · exact h
  · split
    · split
      · exact h
      · refine .ite h ?_
        split
        · exact h.translateTile.fst ‹_›
        · exact h.denied
    · exact h

end Sys2Proof.Machine.State.Canonical
end

section
/-! Machine/Spe.lean: what its functions answer is canonical. -/

namespace Sys2Proof.Machine.State.Canonical
variable {s s0 s' t u a0 : State}

theorem setBinding {p n : Nat} {b : Binding} (h : s.Canonical) : (s.setBinding p n b).Canonical := h.modPart

theorem cmdResult {c : Cmd} {f : Thread → Thread} (h : s.Canonical) : (s.cmdResult c f).Canonical := by
  unfold State.cmdResult
  split
  · exact h
  · exact h
  · exact h.modThr

theorem mapRows {c : Cmd} {region : Nat} {need : Need} {rows : List (Nat × Nat)} (h : s.Canonical) :
    OnExcept State.Canonical (fun r => r.1.Canonical) (s.mapRows c region need rows) := by
  refine OnExcept.foldl h (fun _ _ hu => hu) (fun r _ hu => ?_)
  obtain ⟨u, ws⟩ := r
  refine of_ite hu ?_
  split
  · exact (State.Canonical.dieAddr hu).getError ‹_›
  · exact (State.Canonical.dieAddr hu).fst ‹_›

theorem mapAll {c : Cmd} {l : List (Nat × Need × List (Nat × Nat))} (h : s.Canonical) :
    OnExcept State.Canonical (fun r => r.1.Canonical) (s.mapAll c l) := by
  induction l generalizing s with
  | nil => exact h
  | cons x l ih =>
    unfold State.mapAll
    split
    · exact h.mapRows.getError ‹_›
    · have hrest := ih (h.mapRows.fst ‹_›)
      split
      · exact hrest.getError ‹_›
      · exact hrest.fst ‹_›

theorem bindMake {c : Cmd} {d : List Byte} {ts : List Tsr} (h : s.Canonical) : (s.bindMake c d ts).1.Canonical := by
  unfold State.bindMake
  dsimp only
  split
  · exact h.mapAll.getError ‹_›
  · exact h.mapAll.fst ‹_›

theorem bindRead {c : Cmd} (h : s.Canonical) : OnOk (fun r => r.1.Canonical) (s.bindRead c) := by
  unfold State.bindRead
  dsimp only
  split
  · trivial
  · exact h.engRecord.fst ‹_›
  · have h1 := h.engRecord.fst ‹_›
    refine of_ite h1 ?_
    split
    · trivial
    · have h2 := (h1.eachE (fun _ _ hu => hu.engRecord)).fst ‹_›
      exact of_ite h2 h2.bindMake

theorem freeBinding {p n : Nat} (h : s.Canonical) : (s.freeBinding p n).Canonical :=
  (h.foldl (fun _ _ hu => hu.unpinOne)).setBinding

theorem cutBinding {p n : Nat} {st : BState} {full : Bool} (h : s.Canonical) : (s.cutBinding p n st full).Canonical :=
  h.setBinding.modPart.learn

theorem bindAccept {id : Nat} {c : Cmd} (h : s.Canonical) : (s.bindAccept id c).Canonical := by
  unfold State.bindAccept
  dsimp only
  split
  · exact h.cmdPageFault
  · exact h.endTrap
  · have h1 := h.bindRead.fst ‹_›
    exact h1.endTrap
  · have h1 := h.bindRead.fst ‹_›
    refine .ite h ?_
    split
    · exact h1.cmdResult.endCmd
    · exact .ite (h1.foldl (fun _ _ hu => hu.pinOne)).setBinding.setCmd
        (h1.foldl (fun _ _ hu => hu.pinOne)).setBinding.setCmd.cutBinding

theorem bindTry {id : Nat} (h : s.Canonical) : (s.bindTry id).Canonical := by
  unfold State.bindTry
  split
  · exact .ite h h.bindAccept
  · exact h

theorem execBind {d : BitVec 6} {a : BitVec 4} {f : BitVec 1} {o : BitVec 2} (h : s.Canonical) : CanonicalOut (execBind d a f o s)
    :=
  h.run (fun _ _ hu => by
  refine of_ite State.Canonical.illegal ?_
  refine of_ite trivial ?_
  dsimp only
  split
  · exact hu.cmdHinder.get ‹_›
  · exact hu.enter.bindTry)

theorem speCmd {i : Instr} {required : Bool} {f : BitVec 1} {o : BitVec 2} {b tagG : BitVec 6} {t : Nat} (h : s.Canonical) :
    (speCmd i required f o b tagG s t).Canonical :=
  of_ite State.Canonical.illegal (h.operands (fun _ _ hu => by
  refine of_ite trivial ?_
  dsimp only
  split
  · exact hu.cmdHinder.get ‹_›
  · exact hu.enter))

theorem setWatch {p n : Nat} {ws : List Watch} (h : s.Canonical) : (s.setWatch p n ws).Canonical :=
  ((h.foldl (fun _ _ hu => hu.unpinOne)).foldl (fun _ _ hu => hu.pinOne)).setBinding

theorem speTranslate {p n : Nat} (h : s.Canonical) : OnExcept State.Canonical State.Canonical (s.speTranslate p n) := by
  have hr : ∀ (l : List Watch) (f : Except State (State × List Watch) → Watch → Except State (State × List Watch)),
      (∀ e x, e.Canonical → OnExcept State.Canonical (fun r => r.1.Canonical) (f (.error e) x)) →
      (∀ a x, a.1.Canonical → OnExcept State.Canonical (fun r => r.1.Canonical) (f (.ok a) x)) →
      OnExcept State.Canonical (fun r => r.1.Canonical) (l.foldl f (.ok (s, []))) := fun _ _ he hf => OnExcept.foldl h he hf
  unfold State.speTranslate
  extract_lets b r
  have hr : OnExcept State.Canonical (fun r => r.1.Canonical) r := by
    refine hr _ _ (fun _ _ hu => hu) (fun r _ hu => ?_)
    obtain ⟨u, ws⟩ := r
    refine of_ite hu ?_
    split
    · exact (State.Canonical.dieAddr hu).get ‹_›
    · exact (State.Canonical.dieAddr hu).getError ‹_›
  clear_value r
  split
  · exact hr
  · exact .ite hr (setWatch hr)

theorem speReads {p n : Nat} (h : s.Canonical) : (s.speReads p n).Canonical := by
  unfold State.speReads
  split
  · exact h.speTranslate.get ‹_›
  · exact h.speTranslate.getError ‹_›

theorem speForward {p n : Nat} (h : s.Canonical) : (s.speForward p n).Canonical := h.foldl (fun _ _ hu => hu.forward)

theorem speUses {p n : Nat} (h : s.Canonical) : (s.speUses p n).Canonical :=
  h.foldl (fun _ _ hu => hu.foldl (fun _ _ hv => hv.foldl (fun _ _ hw => by
  split
  · exact hw.usedBy
  · exact hw)))

theorem speWrite {die pa : Nat} {v : Word} {bad : Bool} (h : s.Canonical) : (s.speWrite die pa v bad).Canonical :=
  .ite h.noteBlocked (h.homeStoreRaw.markPoison.foldl (fun _ _ hu => hu.foldl (fun _ _ hv => .ite hv.setBinding hv)))

theorem speWriteAll {p n : Nat} (h : s0.Canonical) : (s0.speWriteAll p n).Canonical :=
  h.speReads.speForward.speUses.foldl (fun _ _ hu => hu.speWrite)

theorem speBlocked {p n : Nat} (h : s.Canonical) : (s.speBlocked p n).Canonical := by
  unfold State.speBlocked
  dsimp only
  split
  · exact h.noteBlocked
  · exact h

theorem speComplete {p n : Nat} (h : s.Canonical) : (s.speComplete p n).Canonical := by
  unfold State.speComplete
  dsimp only
  split
  · exact h
  · split
    · exact h.setCmdTag.cmdResult.endCmd
    · exact h.setCmdTag.endCmd

theorem restoreC {p n : Nat} (h : s.Canonical) : (s.restoreC p n).Canonical :=
  .ite h (h.foldl (fun _ _ hu => hu.foldl (fun _ _ hv => hv.putLeaf)))

theorem speRest {p n : Nat} {g : Binding → Binding} (h : s0.Canonical) : (s0.speRest p n g).Canonical :=
  .ite h.restoreC.freeBinding h.restoreC.setBinding

theorem fullDone {p n : Nat} (h : s.Canonical) : (s.fullDone p n).Canonical := .ite h h.speWriteAll.speRest.speComplete

theorem settleDone {p n : Nat} (h : s.Canonical) : (s.settleDone p n).Canonical := .ite h h.speWriteAll.speRest.speComplete

theorem speElement {p n i j : Nat} (h : s.Canonical) : (s.speElement p n i j).Canonical := by
  unfold State.speElement
  refine .ite h ?_
  dsimp only
  split
  · exact h
  · exact h.speReads.speForward.speWrite.setBinding

theorem speFailed {p n : Nat} (h : s.Canonical) : (s.speFailed p n).Canonical := by
  unfold State.speFailed
  refine .ite h ?_
  dsimp only
  split
  · exact h.speReads.log.speBlocked.log.speRest.speComplete
  · split
    · exact h.speReads.log.speWriteAll.speBlocked.log.speRest.speComplete
    · exact h.speReads.speWriteAll.speBlocked.log.speRest.speComplete

theorem dropAdmitting {p n : Nat} (h : s.Canonical) : (s.dropAdmitting p n).Canonical := by
  unfold State.dropAdmitting
  dsimp only
  split
  · exact h
  · exact h.draw.cmdResult.endCmd

theorem speStart {id : Nat} {c : Cmd} (h : s.Canonical) : (s.speStart id c).Canonical := by
  unfold State.speStart
  dsimp only
  split
  · exact h.bindTry
  · exact h.cmdResult.endCmd
  · exact .ite h.endTrap h.cmdResult.endCmd
  · exact .ite h.endTrap (Canonical.ite h.dropAdmitting h).freeBinding.endCmd
  · exact .ite h.endTrap h.setCmd.cutBinding
  · exact .ite h.endTrap h.setCmd.cutBinding
  · exact h

theorem speNext {die : Nat} (h : s.Canonical) : (s.speNext die).Canonical := by
  unfold State.speNext
  split
  · exact h
  · exact h.walking (fun _ hu => hu.speStart)

theorem speWalking {p n : Nat} {k : State → State} (h : s.Canonical) (hk : ∀ u, u.Canonical → (k u).Canonical) :
    (s.speWalking p n k).Canonical := by
  unfold State.speWalking
  split
  · exact h.walking (fun _ hu => hk _ hu)
  · exact hk _ h

theorem adaptIn {p : Nat} (h : s.Canonical) : (s.adaptIn p).Canonical := by
  unfold State.adaptIn
  refine .ite h ?_
  split
  · exact h
  · exact h.cutBinding

theorem adaptOut {p n : Nat} (h : s.Canonical) : (s.adaptOut p n).Canonical :=
  .ite h (h.foldl (fun _ _ hu => hu.forwardFrame.releaseFrame)).setBinding

theorem adaptFrame {p n old new : Nat} {x : Frame} (h : s.Canonical) : (s.adaptFrame p n old new x).Canonical :=
  h.giveSpan.modTenant.setBinding

theorem adaptBack {p n : Nat} {frames : List Nat} (h : s.Canonical) : (s.adaptBack p n frames).Canonical := by
  unfold State.adaptBack
  refine .ite h ?_
  dsimp only
  split
  · exact (h.foldl (fun _ _ hu => hu.adaptFrame)).setCmd.setBinding.cutBinding
  · exact (h.foldl (fun _ _ hu => hu.adaptFrame)).setBinding.cutBinding

theorem cutMarker {die slice : Nat} (h : s.Canonical) : (s.cutMarker die slice).Canonical := .ite h h.modDie

end Sys2Proof.Machine.State.Canonical
end

section
/-! Machine/Pfx.lean: what its functions answer is canonical. -/

namespace Sys2Proof.Machine.State.Canonical
variable {s s0 s' t u a0 : State}

theorem modPool {p : Nat} {f : Pool → Pool} (h : s.Canonical) : (s.modPool p f).Canonical := h.modPart

theorem setPage {p n : Nat} {e : PageSet} (h : s.Canonical) : (s.setPage p n e).Canonical := h.modPool

theorem freePage {p n : Nat} (h : s.Canonical) : (s.freePage p n).Canonical := h.modPool

theorem pageUp {p n : Nat} (h : s.Canonical) : (s.pageUp p n).Canonical := .ite h.modPool h.setPage

theorem pageDown {p n : Nat} (h : s.Canonical) : (s.pageDown p n).Canonical := .ite h.modPool (.ite (.ite h.freePage h.setPage) h)

theorem takePage {p : Nat} (h : s.Canonical) : (s.takePage p).2.Canonical := by
  unfold State.takePage
  split
  · exact h.modPool
  · exact h.modPool

theorem takePages {n p : Nat} (h : s.Canonical) : (State.takePages n s p).2.Canonical := by
  induction n generalizing s with
  | zero => exact h
  | succ n ih => exact ih h.takePage

theorem dropNode {p n : Nat} (h : s.Canonical) : (s.dropNode p n).Canonical :=
  .ite h.modPool (.ite h.modPool.freePage h.modPool.setPage)

theorem dropTree {k p n : Nat} (h : s.Canonical) : (State.dropTree k s p n).Canonical := by
  induction k generalizing s n with
  | zero => exact h
  | succ k ih => exact h.dropNode.foldl (fun _ _ hu => ih hu)

theorem dropSubtree {p n : Nat} (h : s.Canonical) : (s.dropSubtree p n).Canonical := h.dropTree

theorem dropRemote {p n : Nat} (h : s.Canonical) : (s.dropRemote p n).Canonical :=
  h.foldl (fun _ _ hu => (hu.foldl (fun _ _ hv => hv.modPool)).dropNode)

theorem supply {k p pages nodes : Nat} {kept : List Nat} (h : s.Canonical) :
    OnSome State.Canonical (State.supply k s p pages nodes kept) := by
  induction k generalizing s with
  | zero => trivial
  | succ k ih =>
    unfold State.supply
    refine of_ite h ?_
    split
    · trivial
    · exact ih h.dropNode

theorem supplied {p pages nodes : Nat} {kept : List Nat} (h : s.Canonical) : OnSome State.Canonical
    (s.supplied p pages nodes kept) :=
  h.supply

theorem addNode {p parent : Nat} {ts : List Word} {psn ref : Nat} {station : Option (BitVec 10)} (h : s.Canonical) :
    (s.addNode p parent ts psn ref station).2.Canonical :=
  h.modPool

theorem setSeq {p i : Nat} {q : Seq} (h : s.Canonical) : (s.setSeq p i q).Canonical := h.modPool

theorem mapEntry {c : Cmd} {q : Seq} {i : Nat} (h : s.Canonical) : OnOk (fun r => r.1.Canonical) (s.mapEntry c q i) := by
  unfold State.mapEntry
  split
  · trivial
  · have h1 := h.engRead.fst ‹_›
    exact of_ite trivial h1

theorem mapEntries {c : Cmd} {q : Seq} {i n : Nat} (h : s.Canonical) : OnOk (fun r => r.1.Canonical) (s.mapEntries c q i n) :=
  h.eachE (fun _ _ hu => hu.mapEntry)

theorem writeMap {c : Cmd} {q : Seq} {l : List (Nat × Nat)} (h : s.Canonical) : OnOk State.Canonical (s.writeMap c q l) := by
  induction l generalizing s with
  | nil => exact h
  | cons x l ih =>
    unfold State.writeMap
    split
    · trivial
    · exact ih (h.engWrite.of_eq_fst ‹_›)

theorem dropEntry {p e : Nat} (h : s.Canonical) : (s.dropEntry p e).Canonical := .ite h h.pageDown

theorem loseNodes {p : Nat} {es : List Nat} (h : s.Canonical) : (s.loseNodes p es).Canonical :=
  h.foldl (fun _ _ hu => .ite hu.dropSubtree hu)

theorem tokenBlock {c : Cmd} {tokens i : Nat} (h : s.Canonical) : OnOk (fun r => r.1.Canonical) (s.tokenBlock c tokens i) := by
  unfold State.tokenBlock
  split
  · trivial
  · have h1 := h.engRead.fst ‹_›
    exact of_ite trivial h1

theorem matchTree {p : Nat} {c : Cmd} {tokens k i node : Nat} (h : s.Canonical) :
    OnOk (fun r => r.1.Canonical) (State.matchTree p c tokens k s i node) := by
  induction k generalizing s i node with
  | zero => exact h
  | succ k ih =>
    unfold State.matchTree
    split
    · trivial
    · have hblock := h.tokenBlock.fst ‹_›
      split
      · exact hblock
      · refine of_ite hblock (of_ite hblock ?_)
        split
        · trivial
        · exact (ih hblock).fst ‹_›

theorem pxfindStep {p : Nat} {c : Cmd} {d : Nat} (h : s.Canonical) : OnOk (fun r => r.1.Canonical) (s.pxfindStep p c d) := by
  unfold State.pxfindStep
  refine of_ite h ?_
  dsimp only
  split
  · trivial
  · have h1 := h.engRead.fst ‹_›
    refine of_ite trivial ?_
    refine of_ite h1 ?_
    split
    · exact h1
    · split
      · trivial
      · have h2 := h1.matchTree.fst ‹_›
        exact h2.dropSubtree
      · have h2 := h1.matchTree.fst ‹_›
        split
        · trivial
        · have h3 := h2.writeMap.get ‹_›
          exact (h3.foldl (fun _ _ hu => hu.modPool)).setSeq

theorem insertWalk {p : Nat} {c : Cmd} {q : Seq} {tokens k i node : Nat} {fresh : Bool} (h : s.Canonical) :
    OnOk (fun r => r.1.Canonical) (State.insertWalk p c q tokens k s i node fresh) := by
  induction k generalizing s i node fresh with
  | zero => exact h
  | succ k ih =>
    unfold State.insertWalk
    split
    · trivial
    · have hblock := h.tokenBlock.fst ‹_›
      split
      · refine of_ite hblock ?_
        split
        · trivial
        · exact (ih hblock).fst ‹_›
      · split
        · trivial
        · have hentry := (State.Canonical.mapEntry hblock).fst ‹_›
          refine of_ite hentry (of_ite hentry (of_ite hentry ?_))
          split
          · trivial
          · exact (ih hentry).fst ‹_›

theorem pxinsStep {p id : Nat} {c : Cmd} {d : Nat} (h : s.Canonical) : OnOk (fun r => r.1.Canonical) (s.pxinsStep p id c d) := by
  unfold State.pxinsStep
  dsimp only
  split
  · exact h
  · refine of_ite h ?_
    split
    · trivial
    · exact .ite (h.insertWalk.fst ‹_›) (dropSubtree (h.insertWalk.fst ‹_›))
    · have hwalk := h.insertWalk.fst ‹_›
      split
      · exact hwalk
      · exact foldlSnd (supplied hwalk |>.get ‹_›) (fun _ _ hu => hu.addNode.setPage)

theorem release {p i : Nat} {q : Seq} {es : List Nat} (h : s.Canonical) : (s.release p i q es).Canonical :=
  (h.foldl (fun _ _ hu => hu.dropEntry)).setSeq

theorem pxunrefStep {p id : Nat} {c : Cmd} {d : Nat} (h : s.Canonical) : OnOk (fun r => r.1.Canonical) (s.pxunrefStep p id c d) :=
    by
  unfold State.pxunrefStep
  split
  · exact h
  · split
    · trivial
    · have h1 := h.mapEntries.fst ‹_›
      refine of_ite h1.loseNodes ?_
      split
      · trivial
      · have h2 := h1.writeMap.get ‹_›
        exact h2.release

theorem pxrefStep {p id : Nat} {c : Cmd} {d : Nat} (h : s.Canonical) : OnOk (fun r => r.1.Canonical) (s.pxrefStep p id c d) := by
  unfold State.pxrefStep
  dsimp only
  split
  · exact h
  · refine of_ite h ?_
    split
    · exact h
    · split
      · trivial
      · have h1 := h.mapEntries.fst ‹_›
        refine of_ite h1.loseNodes ?_
        split
        · exact h1
        · have h2 := h1.supplied.get ‹_›
          split
          · trivial
          · have h3 := (h2.takePages.foldl (fun _ _ hu => hu.setPage)).writeMap.get ‹_›
            exact of_ite (h3.foldl (fun _ _ hu => hu.pageUp)).setSeq (h3.foldl (fun _ _ hu => hu.pageUp)).setSeq

theorem pagePa {p : Nat} {c : Cmd} {n : Nat} {need : Need} (h : s.Canonical) : OnOk (fun r => r.1.Canonical) (s.pagePa p c n need)
    := by
  unfold State.pagePa
  dsimp only
  split
  · trivial
  · exact h.translateDie.fst ‹_›

theorem copyPage {src dst : Nat} (h : s.Canonical) : (s.copyPage src dst).Canonical := by
  unfold State.copyPage
  extract_lets f g s1 s2 k bad p0
  have h1 : s1.Canonical := h.forwardFrame.forwardFrame
  have h2 : s2.Canonical := h1.capture
  have hmem : Memory.wf (State.moveBytes s2.mem s2.mem src dst frameBytes) := moveBytes_wf h2.mem
  exact (h2.withMem (fun _ => hmem)).update (by dsimp only [State.canonicalFields])

theorem fillPage {dst : Nat} {ws : List Word} (h : s.Canonical) : (s.fillPage dst ws).Canonical := h.homeStore

theorem kvappStep {p id : Nat} {c : Cmd} {d : Nat} (h : s.Canonical) : OnOk (fun r => r.1.Canonical) (s.kvappStep p id c d) := by
  unfold State.kvappStep
  dsimp only
  split
  · exact h
  · refine of_ite h ?_
    split
    · trivial
    · have h1 := (of_ite h.mapEntry (OnExcept.ok h)).fst ‹_›
      refine of_ite h1.loseNodes (of_ite h1 ?_)
      split
      · exact h1
      · have h2 := h1.supplied.get ‹_›
        split
        · trivial
        · have h3 := h2.takePages.writeMap.get ‹_›
          exact of_ite (setSeq (h3.foldl (fun _ _ hu => hu.setPage))) (setPage (pageDown (h3.foldl (fun _ _ hu => hu.setPage))))

theorem kvtrimStep {p id : Nat} {c : Cmd} {d : Nat} (h : s.Canonical) : OnOk (fun r => r.1.Canonical) (s.kvtrimStep p id c d) :=
    by
  unfold State.kvtrimStep
  dsimp only
  split
  · exact h
  · refine of_ite h ?_
    refine of_ite h ?_
    split
    · trivial
    · have h1 := h.mapEntries.fst ‹_›
      refine of_ite h1.loseNodes ?_
      split
      · trivial
      · have h2 := h1.writeMap.get ‹_›
        exact (h2.foldl (fun _ _ hu => hu.dropEntry)).setSeq

theorem kvxlatStep {p id : Nat} {c : Cmd} {d : Nat} (h : s.Canonical) : OnOk (fun r => r.1.Canonical) (s.kvxlatStep p id c d) :=
    by
  unfold State.kvxlatStep
  split
  · exact h
  · split
    · exact h
    · split
      · trivial
      · exact h.mapEntry.fst ‹_›

theorem releaseEnded {p i : Nat} (h : s.Canonical) : (s.releaseEnded p i).Canonical := by
  unfold State.releaseEnded
  refine .ite h ?_
  dsimp only
  split
  · exact h.release
  · have h1 := h.mapEntries.fst ‹_›
    split
    · exact h1.release
    · have h2 := h1.writeMap.get ‹_›
      exact h2.release

theorem releaseAll {p : Nat} (h : s.Canonical) : (s.releaseAll p).Canonical := h.foldl (fun _ _ hu => hu.releaseEnded)

theorem pfxEndCmd {id : Nat} {c : Cmd} (h : s.Canonical) : (s.pfxEndCmd id c).Canonical := h.endCmd.releaseAll

theorem pfxEndTrap {id : Nat} {c : Cmd} {i : TrapInfo} (h : s.Canonical) : (s.pfxEndTrap id c i).Canonical := h.endTrap.releaseAll

theorem pfxRecord {c : Cmd} {code : Nat} (h : s.Canonical) : (s.pfxRecord c code).Canonical := h.log

theorem pfxFinish {id : Nat} {c : Cmd} {r : PfxRes} (h : s.Canonical) (hr : OnOk (fun r => r.1.Canonical) r) :
    (s.pfxFinish id c r).Canonical := by
  unfold State.pfxFinish
  split
  · exact h.cmdPageFault
  · exact h
  · exact h.pfxEndTrap
  · exact (cmdResult hr).pfxEndCmd
  · exact pfxEndTrap hr
  · exact h.pfxRecord.cmdResult.pfxEndCmd
  · exact (pfxRecord hr).cmdResult.pfxEndCmd
  · exact setCmd hr

theorem seqLost {p id : Nat} {c : Cmd} {y0 : Nat} (h : s.Canonical) : OnSome (fun r => OnOk (fun r => r.1.Canonical) r)
    (s.seqLost p id c y0) := by
  unfold State.seqLost
  split
  · refine of_ite trivial ?_
    split
    · exact h.release
    · have h1 := h.mapEntries.fst ‹_›
      exact h1.release
  · trivial

end Sys2Proof.Machine.State.Canonical
end

section
/-! Machine/Attn.lean: what its functions answer is canonical. -/

namespace Sys2Proof.Machine.State.Canonical
variable {s s0 s' t u a0 : State}

theorem vecRead {c : Cmd} {va : DWord} {tag n : Nat} (h : s.Canonical) : OnOk (fun r => r.1.Canonical) (s.vecRead c va tag n) :=
  h.eachE (fun _ _ hu => by
  split
  · trivial
  · exact hu.engRead.fst ‹_›)

theorem scorePos {rd : State.VecReader} {pl : Pool} {d : AttnD} {q : List (Val × Bool)} {psn pos : Nat} {a : Scored}
    (h : s.Canonical) (hrd : ∀ (u : State) (x1 : DWord) (x2 x3 : Nat), u.Canonical → OnOk (fun r => r.1.Canonical)
    (rd u x1 x2 x3)) : OnOk (fun r => r.1.Canonical) (State.scorePos rd pl s d q psn pos a) := by
  unfold State.scorePos
  dsimp only
  split
  · trivial
  · have h1 := (hrd _ _ _ _ h).fst ‹_›
    split
    · exact h1
    · split
      · trivial
      · exact (hrd _ _ _ _ h1).fst ‹_›

theorem scoreBlock {rd : VecReader} {pl : Pool} {d : AttnD} {q : List (Val × Bool)} {psn : Nat} {l : List Nat} {a : Scored}
    (h : s.Canonical) (hrd : ∀ u va tag n, u.Canonical → OnOk (fun r => r.1.Canonical) (rd u va tag n)) :
    OnOk (fun r => r.1.Canonical) (State.scoreBlock rd pl s d q psn l a) := by
  induction l generalizing s a with
  | nil => exact h
  | cons x l ih =>
    unfold State.scoreBlock
    split
    · trivial
    · exact ih ((h.scorePos hrd).fst ‹_›)

theorem noteUnreached {p e : Nat} (h : s.Canonical) : (s.noteUnreached p e).Canonical := h.log

theorem askHolder {p e : Nat} {r : PeerBlock} (h : s.Canonical) : OnSome (fun r => r.1.Canonical) (s.askHolder p e r) :=
  of_ite h (of_ite h.noteUnreached (of_ite (.ite h.noteUnreached.dropRemote h) trivial))

theorem scoreBlocks {c : Cmd} {d : AttnD} {q : List (Val × Bool)} {l : List (Nat × Nat)} {peers : List PeerBlock}
    (h : s.Canonical) :
    OnOk (fun r => r.1.Canonical) (State.scoreBlocks c d q l peers s) := by
  induction l generalizing s peers with
  | nil => exact h
  | cons x l ih =>
    unfold State.scoreBlocks
    extract_lets p lo hi here
    have hhere : OnOk (fun r => r.1.Canonical) here := by
      refine of_ite ?_ (h.scoreBlock (fun _ _ _ _ hu => hu.vecRead))
      split
      · trivial
      · exact h.askHolder.fst ‹_›
    clear_value here
    split
    · trivial
    · have h1 : State.Canonical _ := hhere
      split
      · trivial
      · exact (ih h1).fst ‹_›

theorem writeWords {c : Cmd} {va : DWord} {l : List (Nat × Bool)} (h : s.Canonical) : OnOk State.Canonical (s.writeWords c va l)
    := by
  induction l generalizing s va with
  | nil => exact h
  | cons x l ih =>
    unfold State.writeWords
    split
    · trivial
    · exact ih (h.engWrite.of_eq_fst ‹_›)

theorem attnStep {p id : Nat} {c : Cmd} {g : Nat} {peers : List PeerBlock} (h : s.Canonical) : OnOk (fun r => r.1.Canonical)
    (s.attnStep p id c g peers) := by
  unfold State.attnStep
  refine of_ite h ?_
  dsimp only
  split
  · trivial
  · have h1 := h.engRead.fst ‹_›
    refine of_ite trivial ?_
    split
    · exact h1.seqLost.get ‹_›
    · exact h1
    · refine of_ite h1 ?_
      refine of_ite h1 ?_
      split
      · trivial
      · have h2 := h1.mapEntries.fst ‹_›
        refine of_ite h2 ?_
        refine of_ite h2.loseNodes ?_
        split
        · trivial
        · have h3 := h2.vecRead.fst ‹_›
          split
          · trivial
          · have h4 := h3.scoreBlocks.fst ‹_›
            split
            · trivial
            · exact h4.writeWords.get ‹_›

theorem pfxPerform {p id : Nat} {c : Cmd} {peers : List PeerBlock} (h : s.Canonical) :
    OnOk (fun r => r.1.Canonical) (s.pfxPerform p id c peers) := by
  unfold State.pfxPerform
  refine of_ite h ?_
  split
  · next heq =>
    split at heq
    · cases heq
    · cases heq
    · exact h.seqLost.get heq
  · split
    · exact h.pxfindStep
    · exact h.pxinsStep
    · exact h.pxrefStep
    · exact h.pxunrefStep
    · exact h.kvappStep
    · exact h.kvtrimStep
    · exact h.kvxlatStep
    · exact h.attnStep
    · exact h

theorem xlatAll {id : Nat} {c : Cmd} (h : s.Canonical) : (s.xlatAll id c).Canonical := by
  unfold State.xlatAll
  dsimp only
  split
  · exact h.cmdPageFault.foldl (fun _ _ hu => hu.cmdPageFault)
  · have h1 := h.pfxPerform.fst ‹_›
    refine (h.pfxFinish (OnExcept.ok h1)).foldl (fun _ _ hu => ?_)
    split
    · exact hu.pfxFinish (OnExcept.ok hu)
    · exact hu
  · exact h.pfxFinish h.pfxPerform

theorem pfxNext {die : Nat} {peers : List PeerBlock} (h : s.Canonical) : (s.pfxNext die peers).Canonical := by
  unfold State.pfxNext
  split
  · exact h
  · exact h.walking (fun _ hu => by
      split
      · exact hu.xlatAll
      · exact hu.pfxFinish hu.pfxPerform)

theorem refCopies {p : Nat} {c : Cmd} {q : Seq} {l : List (Nat × Nat × Nat)} (h : s.Canonical) :
    OnOk State.Canonical (s.refCopies p c q l) := by
  induction l generalizing s with
  | nil => exact h
  | cons x l ih =>
    unfold State.refCopies
    split
    · trivial
    · have hsrc := h.pagePa.fst ‹_›
      split
      · trivial
      · have hdst := (State.Canonical.pagePa hsrc).fst ‹_›
        split
        · trivial
        · exact ih ((State.Canonical.copyPage hdst).writeMap.get ‹_›).setPage

theorem appCopy {p : Nat} {c : Cmd} {e m : Nat} (h : s.Canonical) : OnOk State.Canonical (s.appCopy p c e m) := by
  unfold State.appCopy
  split
  · trivial
  · have h1 := h.pagePa.fst ‹_›
    split
    · trivial
    · have h2 := h1.pagePa.fst ‹_›
      exact h2.copyPage

theorem appUndo {p : Nat} {c : Cmd} (h : s.Canonical) : (s.appUndo p c).Canonical := by
  unfold State.appUndo
  dsimp only
  split
  · split
    · have h1 := h.writeMap.get ‹_›
      exact (h1.foldl (fun _ _ hu => hu.setPage.pageDown)).pageUp
    · exact (h.foldl (fun _ _ hu => hu.setPage.pageDown)).pageUp
  · exact h

theorem appFetch {p : Nat} {c : Cmd} {d i len b e : Nat} {peer : PeerBlock} (h : s.Canonical) : OnOk (fun r => r.1.Canonical)
    (s.appFetch p c d i len b e peer) := by
  unfold State.appFetch
  dsimp only
  split
  · trivial
  · have h1 := h.askHolder.fst ‹_›
    split
    · exact h1
    · have h2 := h1.supplied.get ‹_›
      split
      · trivial
      · have h3 := h2.takePages.pagePa.fst ‹_›
        split
        · trivial
        · have h4 := h3.fillPage.writeMap.get ‹_›
          exact (h4.foldl (fun _ _ hu => hu.setPage)).setSeq
  · exact h.askHolder.fst ‹_›

theorem appDone {p : Nat} {c : Cmd} {d : Nat} {peer : PeerBlock} (h : s.Canonical) : OnOk (fun r => r.1.Canonical)
    (s.appDone p c d peer) := by
  unfold State.appDone
  dsimp only
  split
  · exact h.appFetch
  · split
    · trivial
    · have h1 := h.appCopy.get ‹_›
      split
      · trivial
      · have h2 := h1.writeMap.get ‹_›
        exact h2.setPage.setSeq
  · trivial

theorem pfxCopied {id : Nat} {peer : PeerBlock} (h : s.Canonical) : (s.pfxCopied id peer).Canonical := by
  unfold State.pfxCopied
  dsimp only
  split
  · exact h
  · refine .ite h ?_
    split
    · exact h.pfxFinish h.appDone
    · split
      · exact h.pfxFinish trivial
      · have h1 := h.refCopies.get ‹_›
        exact h1.cmdResult.pfxEndCmd
    · exact h

theorem repin (h : s.Canonical) (_hbefore : before.Canonical) : (s.repin before).Canonical :=
  h.foldl (fun _ _ hu => .ite hu.rmPin (.ite hu.rmUnpin hu))

theorem writePfxBase {p : Nat} {v : DWord} (h : s.Canonical) : (s.writePfxBase p v).Canonical := .ite h (h.modPool.repin h)

theorem writePfxCfg {p : Nat} {v : DWord} (h : s.Canonical) : (s.writePfxCfg p v).Canonical := .ite h (h.modPool.repin h)

theorem leaseUse {p n : Nat} (h : s.Canonical) : (s.leaseUse p n).Canonical := .ite h h.modPool

theorem send {r : PeerReply} (h : s.Canonical) : (s.send r).Canonical := h.update (by rfl)

theorem remoteFetch {p n : Nat} (h : s.Canonical) : (s.remoteFetch p n).Canonical := by
  unfold State.remoteFetch
  dsimp only
  split
  · exact h.send
  · exact h.leaseUse.forwardFrame.send

theorem homeVec {base pa : Nat} {y1 : DWord} {y2 y3 : Nat} (h : s.Canonical) : OnOk (fun r => r.1.Canonical)
    (State.homeVec base pa s y1 y2 y3) :=
  h.foldl (fun _ _ hu => hu.forward)

theorem remoteQuery {p n : Nat} {x : PeerQuery} (h : s.Canonical) : (s.remoteQuery p n x).Canonical := by
  unfold State.remoteQuery
  dsimp only
  split
  · exact h.send
  · split
    · exact h
    · have h1 := (h.leaseUse.scoreBlock (fun _ _ _ _ hu => hu.homeVec)).fst ‹_›
      exact h1.send

theorem nodeFails {p n : Nat} (h : s.Canonical) : (s.nodeFails p n).Canonical := .ite h.modPool h

theorem pageFails {p n : Nat} (h : s.Canonical) : (s.pageFails p n).Canonical := .ite h.modPool h

theorem seqFails {p n : Nat} (h : s.Canonical) : (s.seqFails p n).Canonical := .ite h.modPool h

theorem exchange {p : Nat} {op : NodeOp} (h : s.Canonical) : (s.exchange p op).Canonical := by
  unfold State.exchange
  split
  · exact .ite h h.addNode
  · exact .ite h.dropRemote h

theorem endProcess {asid : BitVec 16} (h : s.Canonical) : (s.endProcess asid).Canonical :=
  (h.foldl (fun _ _ hu => hu.foldl (fun _ _ hv => by
  refine .ite hv ?_
  dsimp only
  split
  · exact hv.setBinding
  · exact hv.setBinding
  · exact hv.dropAdmitting.freeBinding
  · exact hv.freeBinding))).foldl (fun _ _ hu => hu.foldl (fun _ _ hv => .ite hv hv.setSeq.releaseEnded))

theorem unrefWaits {id : Nat} (h : s.Canonical) : (s.unrefWaits id).Canonical := by
  unfold State.unrefWaits
  dsimp only
  split
  · exact h
  · split
    · exact .ite h.setSeq h
    · exact h

theorem pfx {i : Instr} {f : BitVec 1} {o : BitVec 2} {a : Option Nat} {gs : List Nat} {handle : Option Nat} {t : Nat}
    (h : s.Canonical) : (pfx i f o a gs handle s t).Canonical :=
  of_ite State.Canonical.illegal (h.operands (fun _ _ hu => by
  refine of_ite trivial ?_
  dsimp only
  split
  · exact hu.cmdHinder.get ‹_›
  · exact hu.enter.unrefWaits))

theorem execPfxCopyDone {idx : Nat} {peer : PeerBlock} (h : s.Canonical) : CanonicalOut (execPfxCopyDone idx peer s) := by
  unfold Machine.execPfxCopyDone
  change State.Canonical _
  split
  · exact h.inject (fun _ hu => hu.walking (fun _ hv => hv.pfxCopied))
  · exact h

end Sys2Proof.Machine.State.Canonical
end

section
/-! Machine/Context.lean: what its functions answer is canonical. -/

namespace Sys2Proof.Machine.State.Canonical
variable {s s0 s' t u a0 : State}

theorem setStatus {core n : Nat} (h : s.Canonical) : (s.setStatus core n).Canonical := h.modCore

theorem ctxSwapWrite {core : Nat} (h : s.Canonical) : (s.ctxSwapWrite core).Canonical := .ite h.setStatus h.modCore.trySwap

theorem swapEnds {core : Nat} (h : s.Canonical) : (s.swapEnds core).Canonical := .ite h.modCore h

theorem ctxSpillWrite {core : Nat} {save : BitVec 26} (h : s.Canonical) : (s.ctxSpillWrite core save).Canonical :=
  .ite h.setStatus (.ite h.modCore.setStatus h.modCore.modCore.ctxTo.modCtx)

theorem areaPad {c p : Nat} (h : s.Canonical) : (s.areaPad c p).Canonical := .ite h.homeStore.markPoison h.homeStore

theorem areaShare {c q : Nat} (h : s.Canonical) : (s.areaShare c q).Canonical := .ite h.homeStore.markPoison h.homeStore

theorem gleanerMoves {core : Nat} (h : s.Canonical) : (s.gleanerMoves core).Canonical :=
  .ite h ((h.foldl (fun _ _ hu => .ite hu.areaShare hu.areaPad)).foldl (fun _ _ hu => hu.homeStore)).modCtx

theorem areaWord {at_ : Nat} {v : List Byte} {bad : Bool} (h : s.Canonical) : (s.areaWord at_ v bad).Canonical :=
  h.homeStore.markPoison

theorem areaPrivate {at_ words : Nat} (h : s.Canonical) : (s.areaPrivate at_ words).Canonical :=
  h.foldl (fun _ _ hu => hu.draw.homeStore)

theorem writeArea {c : Nat} (h : s.Canonical) : (s.writeArea c).Canonical :=
  ((((((h.foldl (fun _ _ hu => hu.homeStore.foldl (fun _ _ hv => hv.areaWord))).foldl
    (fun _ _ hu => .ite hu (hu.homeStore.foldl (fun _ _ hv => hv.areaWord)))).foldl
    (fun _ _ hu => hu.homeStore.homeStore)).homeStore.foldl (fun _ _ hu => hu.areaPad)).foldl
    (fun _ _ hu => hu.areaShare)).areaPrivate.areaPrivate.foldl (fun _ _ hu => hu.areaPrivate)).homeStore.areaPrivate.modCtx

theorem spillEnds {core : Nat} (h : s.Canonical) : (s.spillEnds core).Canonical := .ite h h.writeArea.ctxTo.modCore

theorem ctxLoadWrite {core : Nat} {save : BitVec 26} {ctx asid : BitVec 16} (h : s.Canonical) :
    (s.ctxLoadWrite core save ctx asid).Canonical :=
  .ite h.setStatus (.ite h.modCore.setStatus (.ite h.modCore.setStatus
    (Canonical.ite h.modCore.modCtx h.modCore.modCtx.passEpoch).endHandles.modCore.ctxTo))

theorem localWord {pl : Place} {at_ : Nat} (h : s.Canonical) : (s.localWord pl at_).Canonical :=
  .ite (h.localStore.update (by rfl)) h.localStore

theorem readArea {c : Nat} (h : s.Canonical) : (s.readArea c).Canonical :=
  ((((h.foldl (fun _ _ hu => hu.setThr.findPorts.foldl (fun _ _ hv => hv.localWord))).foldl
    (fun _ _ hu => .ite hu.modCtx hu)).foldl (fun _ _ hu => .ite hu.modCtx hu)).modCtx.foldl (fun _ _ hu => hu.localWord)).foldl
    (fun _ _ hu => hu.localWord)

theorem applyHeld {id : Nat} (h : s.Canonical) : (s.applyHeld id).Canonical := by
  unfold State.applyHeld
  dsimp only
  split
  · exact h
  · exact h.learn.present.update (by rfl)

theorem loadEnds {core : Nat} (h : s.Canonical) : (s.loadEnds core).Canonical :=
  .ite h (((h.readArea.homeStore.withAccs (fun _ => Tab.mapCells_wf _ _)).update (by rfl)).foldl
    (fun _ _ hu => hu.applyHeld)).ctxTo.modCore

theorem destroyCtx {core bank c : Nat} (h : s.Canonical) : (s.destroyCtx core bank c).Canonical :=
  ((h.foldl (fun _ _ hu => hu.discardGroup)).foldl (fun _ _ hu => hu.cancelKernel)).endHandles.modCtx.ctxTo

theorem ctxDiscardWrite {core : Nat} (h : s.Canonical) : (s.ctxDiscardWrite core).Canonical :=
  .ite h.setStatus (.ite h.setStatus h.destroyCtx.modCore)

theorem ctxBadWrite {core : Nat} {cmd : BitVec 3} (h : s.Canonical) : (s.ctxBadWrite core cmd).Canonical := .ite h h.setStatus

theorem destroySpilled {c : Nat} (h : s.Canonical) : (s.destroySpilled c).Canonical := .ite h.destroyCtx h

end Sys2Proof.Machine.State.Canonical
end

section
/-! Machine/Faults.lean: what its functions answer is canonical. -/

namespace Sys2Proof.Machine.State.Canonical
variable {s s0 s' t u a0 : State}

theorem refUndo {p : Nat} {c : Cmd} (h : s.Canonical) : (s.refUndo p c).Canonical := by
  unfold State.refUndo
  dsimp only
  split
  · have h1 := (h.foldl (fun _ _ hu => hu.setPage.pageDown)).mapEntries.fst ‹_›
    exact h1.release
  · exact (h.foldl (fun _ _ hu => hu.setPage.pageDown)).release

theorem pfxUndo {p : Nat} {c : Cmd} (h : s.Canonical) : (s.pfxUndo p c).Canonical := by
  unfold State.pfxUndo
  refine .ite h ?_
  split
  · exact h.appUndo
  · exact h.refUndo
  · exact h

theorem retryCmd {id : Nat} {c : Cmd} (h : s.Canonical) : (s.retryCmd id c).Canonical := by
  unfold State.retryCmd
  dsimp only
  split
  · exact h.setCmd.bindTry
  · exact h.setCmd

theorem failCmd {id : Nat} {c : Cmd} {f : XFault} {va : DWord} (h : s.Canonical) : (s.failCmd id c f va).Canonical := by
  unfold State.failCmd
  refine .ite h.trapLate ?_
  split
  · exact h.strmFail
  · exact h.pfxUndo.pfxEndTrap
  · exact h.endTrap

theorem dropCmd {id : Nat} {c : Cmd} (h : s.Canonical) : (s.dropCmd id c).Canonical := by
  unfold State.dropCmd
  split
  · exact h.pfxUndo.pfxEndCmd
  · exact h.endCmd

theorem settleCmd {id : Nat} {c : Cmd} {fate : FaultFate} (h : s.Canonical) : (s.settleCmd id c fate).Canonical := by
  unfold State.settleCmd
  split
  · exact h
  · refine .ite h ?_
    split
    · exact .ite h.setCmd h.retryCmd
    · exact .ite h h.failCmd
    · exact .ite h h.failCmd
    · exact .ite h h.failCmd
    · exact .ite h.dropCmd h

theorem settle {id : Nat} {fate : FaultFate} (h : s.Canonical) : (s.settle id fate).Canonical := by
  unfold State.settle
  dsimp only
  split
  · exact .ite h h.settleFault
  · exact h.settleCmd
  · exact h

theorem replayEntry {id : Nat} (h : s.Canonical) : (s.replayEntry id).Canonical := by
  unfold State.replayEntry
  dsimp only
  split
  · exact h.replay
  · exact .ite h h.retryCmd.wakeCtx
  · exact h

end Sys2Proof.Machine.State.Canonical
end

section
/-! Machine/Flits.lean: what its functions answer is canonical. -/

namespace Sys2Proof.Machine.State.Canonical
variable {s s0 s' t u a0 : State}

theorem drawW (h : s.Canonical) : s.drawW.2.Canonical := by
  unfold State.drawW
  extract_lets r d
  have hr : r.2.Canonical := foldlSnd h (fun _ _ hu => hu.draw)
  exact hr.draw

theorem spoil {id : Nat} (h : s.Canonical) : (s.spoil id).Canonical := by
  unfold State.spoil
  dsimp only
  split
  · exact h.setAcc
  · exact h.update (by rfl)
  · exact h.draw.drawW.update (by rfl)
  · exact h

theorem setFlit {id : Nat} {f : Flit} (h : s.Canonical) : (s.setFlit id f).Canonical :=
  .ite (h.takeId.update (by rfl)) (h.update (by rfl))

theorem flitFails {id die loop : Nat} (h : s.Canonical) : (s.flitFails id die loop).Canonical :=
  .ite h (.ite h.log.setFlit h.log.spoil.setFlit)

theorem flitArrives {id : Nat} {full bad : Bool} (h : s.Canonical) : (s.flitArrives id full bad).Canonical := by
  unfold State.flitArrives
  dsimp only
  split
  · exact h.update (by rfl)
  · exact .ite h.flitFails (.ite h (.ite h.setFlit h.setFlit))

theorem legFails {id leg : Nat} (h : s.Canonical) : (s.legFails id leg).Canonical := by
  unfold State.legFails
  split
  · exact h
  · exact h.flitFails

theorem flitResent {die loop : Nat} (h : s.Canonical) : (s.flitResent die loop).Canonical := .ite h h.log

theorem flitLost {die loop : Nat} (h : s.Canonical) : (s.flitLost die loop).Canonical :=
  (h.foldl (fun _ _ hu => hu.flitResent)).log

theorem replyLost {id : Nat} (h : s.Canonical) : (s.replyLost id).Canonical := by
  unfold State.replyLost
  dsimp only
  split
  · exact h
  · refine .ite h ?_
    split
    · exact h
    · exact h.flitLost.setAcc

theorem forwardLost {w : Nat} (h : s.Canonical) : (s.forwardLost w).Canonical := by
  unfold State.forwardLost
  dsimp only
  split
  · exact h
  · exact .ite h (h.flitLost.forward.update (by rfl))

theorem cmdLost {id line loop0 : Nat} (h : s.Canonical) : (s.cmdLost id line loop0).Canonical := by
  unfold State.cmdLost
  dsimp only
  split
  · exact h
  · split
    · exact .ite h.flitLost.setCmd.setCmd h.flitLost.setCmd
    · exact .ite h.flitLost.setCmd.setBinding h.flitLost.setCmd
    · exact .ite h.flitLost.setCmd.setBinding h.flitLost.setCmd
    · exact .ite h.flitLost.setCmd.setBinding h.flitLost.setCmd
    · exact h.flitLost.setCmd

theorem fetchLost {core block loop0 : Nat} (h : s.Canonical) : (s.fetchLost core block loop0).Canonical :=
  .ite h h.flitLost.modCore

theorem walkLost {id loop0 : Nat} (h : s.Canonical) : (s.walkLost id loop0).Canonical := by
  unfold State.walkLost
  dsimp only
  split
  · exact h
  · split
    · exact .ite h h.flitLost.setAcc.commitPart
    · exact h

theorem collLost {k line loop0 : Nat} (h : s.Canonical) : (s.collLost k line loop0).Canonical := by
  unfold State.collLost
  dsimp only
  split
  · exact h
  · exact h.flitLost.update (by rfl)

theorem captureEarly {id w : Nat} (h : s.Canonical) : (s.captureEarly id w).Canonical := by
  unfold State.captureEarly
  dsimp only
  split
  · exact h
  · exact .ite h h.capture.setFlit

theorem l1Fill {core pa : Nat} (h : s.Canonical) : (s.l1Fill core pa).Canonical :=
  .ite h (h.getD (h.l1Room.map (fun _ hu => hu.fillLine)))

end Sys2Proof.Machine.State.Canonical
end

section
/-! Machine/Partition.lean: what its functions answer is canonical. -/

namespace Sys2Proof.Machine.State.Canonical
variable {s s0 s' t u a0 : State}

theorem setDivision {o : Byte} {dl : BitVec 4} {fresh : Bool} (h : s.Canonical) : (s.setDivision o dl fresh).Canonical :=
  (((Canonical.ite h.forgetEpochs h).update (by rfl)).foldl (fun _ _ hu => .ite hu.modPart hu)).foldl (fun _ _ hu => hu.modPart)

theorem closeReconf (h : s.Canonical) : s.closeReconf.Canonical := by
  unfold State.closeReconf
  split
  · exact .ite h (h.update (by rfl))
  · exact h

theorem writePartCfg {v : DWord} (h : s.Canonical) : (s.writePartCfg v).Canonical := .ite h h.setDivision.closeReconf

theorem writeIvl {die : Nat} {v : DWord} (h : s.Canonical) : (s.writeIvl die v).Canonical := .ite h h.modDie

theorem writeNbnd {die : Nat} {v : DWord} (h : s.Canonical) : (s.writeNbnd die v).Canonical := .ite h h.modDie

theorem writeXshr {n : Nat} {v : DWord} (h : s.Canonical) : (s.writeXshr n v).Canonical :=
  .ite h (((h.foldl (fun _ _ hu => hu.forward)).foldl (fun _ _ hu => hu.foldl
    (fun _ _ hv => hv.foldl (fun _ _ hw => hw.dropLine)))).update (by rfl))

theorem dropFlight {ds : List Nat} (h : s.Canonical) : (s.dropFlight ds).Canonical :=
  (h.withAccs (Tab.drop_wf _ _)).update (by rfl)

theorem clearDies {ds : List Nat} (h : s.Canonical) : (s.clearDies ds).Canonical := by
  unfold State.clearDies
  extract_lets here cs mine base s0 s1
  have hbase : base.Canonical := h.dropFlight.forgetEpochs
  have h0 : s0.Canonical := hbase.update (by rfl)
  have h1 : s1.Canonical := h0.mapHandles
  exact ⟨h1.mem, Tab.drop_wf _ _ h1.lane, Tab.drop_wf _ _ h1.pad, Tab.drop_wf _ _ h1.clus, Tab.drop_wf _ _ h1.dsp,
    Tab.drop_wf _ _ h1.evLane, h1.backing, h1.dspSave, Tab.drop_wf _ _ h1.threads, h1.accs⟩

theorem freeBindings {p : Nat} (h : s.Canonical) : (s.freeBindings p).Canonical := h.foldl (fun _ _ hu => hu.freeBinding)

theorem dropReconf {p : Nat} (h : s.Canonical) : (s.dropReconf p).Canonical := by
  unfold State.dropReconf
  dsimp only
  split
  · exact h
  · exact .ite h ((h.foldl (fun _ _ hu => hu.modPart)).update (by rfl))

theorem restoreMaps {ds : List Nat} (h : s.Canonical) : (s.restoreMaps ds).Canonical := h.foldl (fun _ _ hu => hu.modDie)

theorem resetOne {p : Nat} {sideband : Bool} (h : s.Canonical) : (s.resetOne p sideband).Canonical := by
  unfold State.resetOne
  extract_lets ds s1 rm s2 s3
  have h1 : s1.Canonical := h.freeBindings.clearDies
  have h2 : s2.Canonical := h1.update (by rfl)
  have h3 : s3.Canonical := h2.foldl (fun _ _ hu => hu.putDesc)
  exact .ite h h3.modPart

theorem resetPart {p : Nat} {sideband : Bool} (h : s.Canonical) : (s.resetPart p sideband).Canonical := by
  unfold State.resetPart
  dsimp only
  split
  · exact h.dropReconf.resetOne
  · exact (h.restoreMaps.update (by rfl)).foldl (fun _ _ hu => hu.resetOne)

theorem resetDone {p : Nat} (h : s.Canonical) : (s.resetDone p).Canonical :=
  .ite h (.ite h.modPart (h.foldl (fun _ _ hu => hu.modDie)).modPart)

theorem shootReset {idx : Nat} (h : s.Canonical) : (s.shootReset idx).Canonical := by
  unfold State.shootReset
  dsimp only
  split
  · exact .ite h (h.shootRecord.update (by rfl)).resetPart
  · exact h

theorem degradedRecord {p : Nat} (h : s.Canonical) : (s.degradedRecord p).Canonical := h.log

theorem degrade {p : Nat} (h : s.Canonical) : (s.degrade p).Canonical := by
  unfold State.degrade
  split
  · exact h.modPart.degradedRecord
  · exact h.dropReconf.modPart.degradedRecord
  · exact h.degradedRecord.resetPart
  · exact h

theorem leaveDie {die : Nat} (h : s.Canonical) : (s.leaveDie die).Canonical := h.update (by rfl)

theorem dieFails {die : Nat} (h : s.Canonical) : (s.dieFails die).Canonical := by
  unfold State.dieFails
  refine .ite h ?_
  dsimp only
  split
  · exact ((((h.modDie.dropFlight.foldl (fun _ _ hu => hu.update (by rfl))).foldl (fun _ _ hu => hu.update (by rfl))).foldl
      (fun _ _ hu => hu.log)).foldl (fun _ _ hu => .ite (hu.foldl (fun _ _ hv => hv.unplace))
      (hu.foldl (fun _ _ hv => hv.discardGroup)).cancelKernel)).leaveDie.degrade
  · exact ((((h.modDie.dropFlight.foldl (fun _ _ hu => hu.update (by rfl))).foldl (fun _ _ hu => hu.update (by rfl))).foldl
      (fun _ _ hu => hu.log)).foldl (fun _ _ hu => .ite (hu.foldl (fun _ _ hv => hv.unplace))
      (hu.foldl (fun _ _ hv => hv.discardGroup)).cancelKernel)).leaveDie.degrade
  · exact ((((h.modDie.dropFlight.foldl (fun _ _ hu => hu.update (by rfl))).foldl (fun _ _ hu => hu.update (by rfl))).foldl
      (fun _ _ hu => hu.log)).foldl (fun _ _ hu => .ite (hu.foldl (fun _ _ hv => hv.unplace))
      (hu.foldl (fun _ _ hv => hv.discardGroup)).cancelKernel)).leaveDie.degrade
  · exact ((((h.modDie.dropFlight.foldl (fun _ _ hu => hu.update (by rfl))).foldl (fun _ _ hu => hu.update (by rfl))).foldl
      (fun _ _ hu => hu.log)).foldl (fun _ _ hu => .ite (hu.foldl (fun _ _ hv => hv.unplace))
      (hu.foldl (fun _ _ hv => hv.discardGroup)).cancelKernel)).leaveDie.degradedRecord

theorem openReconf {r : ReconfReq} (h : s.Canonical) : (s.openReconf r).Canonical :=
  .ite h ((h.foldl (fun _ _ hu => hu.modPart)).update (by rfl))

theorem request {r : ReconfReq} (h : s.Canonical) : (s.request r).Canonical := .ite (h.update (by rfl)) h.openReconf

theorem nextRequest {l : List ReconfReq} (h : s.Canonical) : (State.nextRequest l s).Canonical := by
  induction l generalizing s with
  | nil => exact h
  | cons x l ih => exact .ite (h.openReconf.update (by rfl)) (ih h.openReconf)

theorem flushDies {ds : List Nat} (h : s.Canonical) : (s.flushDies ds).Canonical := by
  unfold State.flushDies
  extract_lets here s1 s2
  have h1 : s1.Canonical := h.foldl (fun _ _ hu => hu.forward)
  have h2 : s2.Canonical := h1.foldl (fun _ _ hu => hu.foldl (fun _ _ hv => .ite hv.burst hv))
  exact ⟨h2.mem, h2.lane, h2.pad, h2.clus, Tab.drop_wf _ _ h2.dsp, h2.evLane, h2.backing,
    foldl_set_wf id _ (Tab.drop_wf _ _ h2.dspSave), h2.threads, h2.accs⟩

theorem rewriteMaps {r : Reconf} (h : s.Canonical) : (s.rewriteMaps r).Canonical := h.foldl (fun _ _ hu => hu.modDie)

theorem reconfigure {r : Reconf} (h : s.Canonical) : (s.reconfigure r).Canonical :=
  (Canonical.ite h.flushDies.rewriteMaps (h.flushDies.rewriteMaps.foldl (fun _ _ hu => hu.broadcast))).foldl
    (fun _ _ hu => hu.modPart)

theorem configure (h : s.Canonical) : s.configure.Canonical := by
  unfold State.configure
  dsimp only
  split
  · exact h
  · exact .ite h (h.setDivision.update (by rfl))

theorem answerReset {m : ResetMsg} {code : Nat} (h : s.Canonical) : (s.answerReset m code).Canonical := h.update (by rfl)

theorem resetByMask {m : ResetMsg} (h : s.Canonical) : (s.resetByMask m).Canonical := by
  unfold State.resetByMask
  split
  · exact h.answerReset.resetPart
  · exact h.answerReset

theorem afterReconf (h : s.Canonical) : s.afterReconf.Canonical := by
  unfold State.afterReconf
  have h0 : State.Canonical { s with rm := { s.rm with held := [] } } := h.update (by rfl)
  extract_lets _ s1
  have h1 : s1.Canonical := h0.foldl (fun _ _ hu => hu.resetByMask)
  exact .ite h1 (nextRequest (h1.update (by rfl)))

theorem quiesceDone (h : s.Canonical) : s.quiesceDone.Canonical := by
  unfold State.quiesceDone
  split
  · exact h
  · exact .ite h.reconfigure h

theorem quiesceRefused {found : DWord} (h : s.Canonical) : (s.quiesceRefused found).Canonical := by
  unfold State.quiesceRefused
  dsimp only
  split
  · exact h
  · exact .ite h h.log.dropReconf.afterReconf

theorem thenReconf {k : State → State} (h : s.Canonical) (hk : ∀ u, u.Canonical → (k u).Canonical) : (s.thenReconf k).Canonical :=
  .ite (hk _ h).afterReconf (hk _ h)

end Sys2Proof.Machine.State.Canonical
end

section
/-! Machine/Agenda.lean: what its functions answer is canonical. -/

namespace Sys2Proof.Machine.State.Canonical
variable {s s0 s' t u a0 : State}

theorem clock (h : s.Canonical) : s.clock.Canonical := h.update (by rfl)

theorem tick (h : s.Canonical) : s.tick.Canonical := (Canonical.ite h.clock.queueHeld h.clock).update (by rfl)

end Sys2Proof.Machine.State.Canonical
end

section
/-! Machine/Journal.lean: what its functions answer is canonical. -/

namespace Sys2Proof.Machine.State.Canonical
variable {s s0 s' t u a0 : State}

theorem record {as : List JAction} (h : s.Canonical) : (s.record as).Canonical := h.update (by rfl)

theorem complete {as : List JAction} (h : s.Canonical) : (s.complete as).Canonical := h.update (by rfl)

end Sys2Proof.Machine.State.Canonical
end

section
/-! Machine/Boot.lean: what its functions answer is canonical. -/

namespace Sys2Proof.Machine.State.Canonical
variable {s s0 s' t u a0 : State}

theorem setRm {f : Ringmaster → Ringmaster} (h : s.Canonical) : (s.setRm f).Canonical := h.update (by rfl)

theorem bootRecord {code sev action : Nat} (h : s.Canonical) : (s.bootRecord code sev action).Canonical := h.log

theorem afterReset {cause : ResetCause} (_h : s.Canonical) : (s.afterReset cause).Canonical :=
  State.Canonical.reset.update (by rfl)

theorem bootDivision {b : BootRecord} (h : s.Canonical) : (s.bootDivision b).Canonical := by
  unfold State.bootDivision
  extract_lets o dl s1 s2
  have h0 : State.Canonical { s with owners := o, dlocal := dl } := h.update (by rfl)
  have h1 : s1.Canonical := h0.foldl (fun _ _ hu => hu.modDie)
  have h2 : s2.Canonical := h1.foldl (fun _ _ hu => hu.modPart)
  exact h2.update (by rfl)

theorem boot {b : BootRecord} (h : s.Canonical) : (s.boot b).Canonical :=
  .ite (Canonical.ite h.setRm h.setRm.bootRecord).bootDivision
    (.ite (Canonical.ite h.setRm h.setRm.bootRecord).bootRecord (Canonical.ite h.setRm h.setRm.bootRecord).bootRecord.setRm)

theorem deviceReset {cause : ResetCause} {b : BootRecord} (h : s.Canonical) : (s.deviceReset cause b).Canonical :=
  h.afterReset.boot

theorem measure (h : s.Canonical) : s.measure.Canonical := h.setRm

theorem buildJournal (h : s.Canonical) : s.buildJournal.Canonical := .ite (h.update (by rfl)) h

theorem bootEnds (h : s.Canonical) : s.bootEnds.Canonical := .ite h h.measure.buildJournal.setRm

theorem startCluster {die : Nat} (h : s.Canonical) : (s.startCluster die).Canonical :=
  .ite h (.ite h.modDie.measure.bootEnds h.modDie)

theorem rmReset {bit : Nat} (h : s.Canonical) : (s.rmReset bit).Canonical :=
  .ite h.setRm.setRm.queueHeld (.ite h.setRm.setRm h.setRm)

theorem rmRecord {code sev action einst detail : Nat} (h : s.Canonical) : (s.rmRecord code sev action einst detail).Canonical :=
  h.log

theorem moveWork {pair : Nat} (h : s.Canonical) : (s.moveWork pair).Canonical := h.setRm

theorem mismatch {pair : Nat} (h : s.Canonical) : (s.mismatch pair).Canonical :=
  .ite h (.ite (.ite h.rmRecord.setRm.rmReset h.rmRecord.setRm.moveWork) (.ite h.rmRecord.setRm h))

theorem watchdog (h : s.Canonical) : s.watchdog.Canonical := .ite h h.rmRecord.rmReset

theorem writeWdog {v : DWord} (h : s.Canonical) : (s.writeWdog v).Canonical := .ite h h.setRm

theorem pet (h : s.Canonical) : s.pet.Canonical := h.setRm

theorem writeTimeout {v : Word} (h : s.Canonical) : (s.writeTimeout v).Canonical := .ite h h.setRm

theorem ringmasterReset {cause : RmCause} (h : s.Canonical) : (s.ringmasterReset cause).Canonical := by
  unfold State.ringmasterReset
  split
  · exact .ite h h.rmReset
  · exact h.watchdog
  · exact .ite h.mismatch h

theorem rmFailed (h : s.Canonical) : s.rmFailed.Canonical := h.rmRecord.setRm

theorem selfTest {passing : BitVec 4} (h : s.Canonical) : (s.selfTest passing).Canonical := .ite h (.ite h.rmFailed h.setRm)

theorem recover {a : JAction} (h : s.Canonical) : (s.recover a).Canonical := by
  unfold State.recover
  split
  · exact h.abandon
  · exact h.dropReconf
  · exact h

theorem replayJournal (h : s.Canonical) : s.replayJournal.Canonical := (h.foldl (fun _ _ hu => hu.recover)).record.complete

theorem reattach (h : s.Canonical) : s.reattach.Canonical := by
  unfold State.reattach
  dsimp only
  split
  · exact .ite h.rmFailed (.ite h.replayJournal (h.replayJournal.update (by rfl)).rmRecord)
  · exact h

theorem grantQueue {q : Nat} (h : s.Canonical) : (s.grantQueue q).Canonical := .ite h h.setRm

theorem openSession {n : Word} {key : BitVec 512} {ok : Bool} (h : s.Canonical) : (s.openSession n key ok).Canonical :=
  .ite h (.ite h.bootRecord.setRm (.ite h ((h.update (by rfl)).foldl (fun _ _ hu => hu.updQueue)).setRm))

theorem handshake {n : Word} {secret peerKey ownKey : BitVec 256} {chainOk sigOk : Bool} (h : s.Canonical) :
    (s.handshake n secret peerKey ownKey chainOk sigOk).Canonical :=
  h.openSession

theorem closeSession {n : Word} (h : s.Canonical) : (s.closeSession n).Canonical :=
  h.update (by dsimp only [State.closeSession, State.canonicalFields])

theorem attendantFails {core : Nat} (h : s.Canonical) : (s.attendantFails core).Canonical := .ite h (h.log.update (by rfl))

theorem setLevel {pair : Nat} {l : HartLevel} (h : s.Canonical) : (s.setLevel pair l).Canonical := .ite h.setRm h

theorem hartFault {pair : Nat} (h : s.Canonical) : (s.hartFault pair).Canonical := h.setLevel

theorem attendantLevel {core : Nat} {l : HartLevel} (h : s.Canonical) : (s.attendantLevel core l).Canonical := .ite h h.modCore

theorem attendantRead {core va n : Nat} (h : s.Canonical) : (s.attendantRead core va n).Canonical := by
  unfold State.attendantRead
  refine .ite h ?_
  split
  · exact h.attendantFails
  · have h1 := h.translate.fst ‹_›
    split
    · exact h
    · have h2 := h1.loadPhys.fst ‹_›
      exact .ite h2.attendantFails h2.modCore

theorem attendantWrite {core va : Nat} {bs : List Byte} (h : s.Canonical) : (s.attendantWrite core va bs).Canonical := by
  unfold State.attendantWrite
  refine .ite h ?_
  split
  · exact h.attendantFails
  · have h1 := h.translate.fst ‹_›
    exact h.getD h1.storePhys

theorem answer {r : Reply} (h : s.Canonical) : (s.answer r).Canonical := h.setRm

theorem requestDevice {m : ResetMsg} {b : BootRecord} (h : s.Canonical) : (s.requestDevice m b).Canonical :=
  .ite h (.ite h.answerReset h.answerReset.deviceReset)

theorem requestPart {m : ResetMsg} (h : s.Canonical) : (s.requestPart m).Canonical :=
  .ite h (.ite h.answerReset (.ite h.setRm h.resetByMask))

theorem requestRm {m : ResetMsg} (h : s.Canonical) : (s.requestRm m).Canonical :=
  .ite h (.ite h.answerReset h.answerReset.rmReset)

theorem spdm {inRecovery signed : Bool} {r : Reply} (h : s.Canonical) : (s.spdm inRecovery signed r).Canonical :=
  .ite h (.ite h.answer h.answer)

end Sys2Proof.Machine.State.Canonical
end

section
/-! Machine/Collective.lean: what its functions answer is canonical. -/

namespace Sys2Proof.Machine.State.Canonical
variable {s s0 s' t u a0 : State}

theorem linkRecord {l : LinkId} {code sev action : Nat} {pa : Option Nat} (h : s.Canonical) :
    (s.linkRecord l code sev action pa).Canonical :=
  h.log

theorem setColl {k : Nat} {c : Option Coll} (h : s.Canonical) : (s.setColl k c).Canonical := h.update (by rfl)

theorem endDesc {d : CollDesc} {status : Nat} (h : s.Canonical) : (s.endDesc d status).Canonical := by
  unfold State.endDesc
  refine .ite h.vwrite ?_
  split
  · have h1 := h.vwrite.dieAddr.fst ‹_›
    exact h1.homeAdd
  · exact h.vwrite.dieAddr.getError ‹_›

theorem failColl {k : Nat} {c : Coll} {status : Nat} (h : s.Canonical) : (s.failColl k c status).Canonical :=
  h.setColl.foldl (fun _ _ hu => hu.endDesc)

theorem collTake {q : Nat} (h : s.Canonical) : (s.collTake q).Canonical := by
  unfold State.collTake
  refine .ite h ?_
  extract_lets die lost
  split
  have h1 := h.pop.of_eq_fst ‹_›
  extract_lets va
  refine .ite h1 ?_
  split
  · exact h1.vread.getError ‹_›
  · have h2 := h1.vread.fst ‹_›
    extract_lets d comm part
    refine .ite h2.endDesc ?_
    split
    · exact h2.setColl
    · exact .ite h (.ite h2.setColl h2.failColl)

theorem readElems {d : CollDesc} (h : s.Canonical) : OnExcept State.Canonical (fun r => r.1.Canonical) (s.readElems d) := by
  refine OnExcept.foldl h (fun _ _ hu => hu) (fun r _ hu => ?_)
  obtain ⟨u, vs⟩ := r
  dsimp only
  split
  · exact (State.Canonical.vread hu).getError ‹_›
  · exact (State.Canonical.vread hu).fst ‹_›

theorem readAll {l : List CollDesc} (h : s.Canonical) : OnExcept State.Canonical (fun r => r.1.Canonical) (s.readAll l) := by
  induction l generalizing s with
  | nil => exact h
  | cons x l ih =>
    unfold State.readAll
    split
    · exact h.readElems.getError ‹_›
    · have hrest := ih (h.readElems.fst ‹_›)
      split
      · exact hrest.getError ‹_›
      · exact hrest.fst ‹_›

theorem collAdvance {k comm step : Nat} {c : Coll} (h : s.Canonical) : (s.collAdvance k comm step c).Canonical := by
  unfold State.collAdvance
  split
  · exact h.linkRecord.failColl
  · split
    · exact h.setColl
    · exact h.setColl

theorem collReduce {comm step : Nat} (h : s.Canonical) : (s.collReduce comm step).Canonical := by
  unfold State.collReduce
  dsimp only
  split
  · exact h
  · split
    · exact h
    · have h1 := h.readAll.getError ‹_›
      exact h1.failColl
    · have h1 := h.readAll.fst ‹_›
      exact h1.collAdvance

theorem collChild {comm step rank : Nat} {vals : List Word} {bad : List Nat} (h : s.Canonical) :
    (s.collChild comm step rank vals bad).Canonical := by
  unfold State.collChild
  dsimp only
  split
  · exact h
  · exact .ite h h.collAdvance

theorem poisonElem {d : CollDesc} {va : Nat} (h : s.Canonical) : (s.poisonElem d va).Canonical := by
  unfold State.poisonElem
  split
  · have h1 := h.dieAddr.fst ‹_›
    exact h1.update (by rfl)
  · exact h.dieAddr.getError ‹_›

theorem collWrite {d : CollDesc} {vals : List Word} {bad : List Nat} (h : s.Canonical) : (s.collWrite d vals bad).Canonical := by
  unfold State.collWrite
  dsimp only
  split
  · have h1 := h.vwrite.of_eq_fst ‹_›
    exact h1.endDesc
  · have h1 := h.vwrite.of_eq_fst ‹_›
    exact (h1.foldl (fun _ _ hu => hu.poisonElem)).endDesc

theorem collResult {comm step : Nat} {vals : List Word} {bad : List Nat} (h : s.Canonical) :
    (s.collResult comm step vals bad).Canonical := by
  unfold State.collResult
  dsimp only
  split
  · exact h
  · exact .ite h (.ite h (h.setColl.foldl (fun _ _ hu => hu.collWrite)))

theorem collCancel {comm step : Nat} (h : s.Canonical) : (s.collCancel comm step).Canonical := by
  unfold State.collCancel
  split
  · exact h
  · exact h.failColl

theorem collCut {l : LinkId} (h : s.Canonical) : (s.collCut l).Canonical :=
  h.foldl (fun _ _ hu => by
  split
  · exact .ite hu.failColl hu
  · exact hu)

end Sys2Proof.Machine.State.Canonical
end

section
/-! Machine/Links.lean: what its functions answer is canonical. -/

namespace Sys2Proof.Machine.State.Canonical
variable {s s0 s' t u a0 : State}

theorem setLink {l : LinkId} {x : LinkState} (h : s.Canonical) : (s.setLink l x).Canonical := by
  unfold State.setLink
  split
  · exact h.update (by rfl)
  · exact h

theorem enable {l : LinkId} (h : s.Canonical) : (s.enable l).Canonical := .ite h.setLink h

theorem trained {l : LinkId} {wide : Bool} (h : s.Canonical) : (s.trained l wide).Canonical :=
  .ite h (.ite h.setLink h.setLink.linkRecord)

theorem overThreshold {l : LinkId} (h : s.Canonical) : (s.overThreshold l).Canonical :=
  .ite (.ite h.setLink.linkRecord h.setLink) h

theorem retrained {l : LinkId} {wide : Bool} (h : s.Canonical) : (s.retrained l wide).Canonical := .ite h.setLink h

theorem refuseOption {l : LinkId} (h : s.Canonical) : (s.refuseOption l).Canonical := by
  unfold State.refuseOption
  split
  · exact .ite (h.update (by rfl)) h
  · exact h

theorem cutTraffic {l : LinkId} (h : s.Canonical) : (s.cutTraffic l).Canonical :=
  ((h.foldl (fun _ _ hu => hu.foldl (fun _ _ hv => hv.setL1))).withAccs (fun _ => Tab.mapCells_wf _ _)).update (by rfl)

theorem cutLink {l : LinkId} {action : Nat} (h : s.Canonical) : (s.cutLink l action).Canonical :=
  (h.foldl (fun _ _ hu => hu.linkRecord)).cutTraffic.collCut

theorem linkFails {l : LinkId} (h : s.Canonical) : (s.linkFails l).Canonical := by
  unfold State.linkFails
  refine .ite ?_ h
  dsimp only
  split
  · exact .ite (Canonical.ite h.setLink.linkRecord h.setLink).cutLink
      (.ite (Canonical.ite h.setLink.linkRecord h.setLink).cutLink.dieFails
      (Canonical.ite h.setLink.linkRecord h.setLink).cutLink.degrade)
  · exact (Canonical.ite h.setLink.linkRecord h.setLink).cutLink

theorem tryFails {l : LinkId} (h : s.Canonical) : (s.tryFails l).Canonical := by
  unfold State.tryFails
  split
  · exact .ite (h.update (by rfl)).linkFails h
  · exact h

theorem disable {l : LinkId} (h : s.Canonical) : (s.disable l).Canonical := .ite h.setLink.cutLink h

theorem postLost {id : Nat} (h : s.Canonical) : (s.postLost id).Canonical := by
  unfold State.postLost
  split
  · exact h
  · split
    · exact h
    · refine .ite h ?_
      extract_lets s1 down s2 s3
      have h1 : s1.Canonical := h.linkRecord
      have h0 : down.Canonical := h1.modThr
      have h2 : s2.Canonical := h0.update (by rfl)
      have h3 : s3.Canonical := h2.wakeCtx.settleSlot
      exact h3.trapLate

end Sys2Proof.Machine.State.Canonical
end

section
/-! Machine/Peers.lean: what its functions answer is canonical. -/

namespace Sys2Proof.Machine.State.Canonical
variable {s s0 s' t u a0 : State}

theorem hubRead {pa n : Nat} (h : s.Canonical) : (s.hubRead pa n).1.Canonical := .iteFst h h.homeRead

theorem hubWrite {pa : Nat} {bs : List Byte} (h : s.Canonical) : OnSome State.Canonical (s.hubWrite pa bs) :=
  of_ite trivial (of_ite h h.homeStore)

theorem peerRead {port pa n : Nat} (h : s.Canonical) : (s.peerRead port pa n).Canonical := .ite h (.ite h.send h.hubRead.send)

theorem peerWrite {l : LinkId} {pa : Nat} {bs : List Byte} (h : s.Canonical) : (s.peerWrite l pa bs).Canonical := by
  unfold State.peerWrite
  refine .ite h ?_
  refine .ite h.send ?_
  split
  · have h1 := h.hubWrite.get ‹_›
    exact h1.send
  · exact h

theorem peerAtomic {port pa op : Nat} {y : Word} {cmp : Option Word} (h : s.Canonical) : (s.peerAtomic port pa op y cmp).Canonical
    := by
  unfold State.peerAtomic
  refine .ite h ?_
  refine .ite h.send ?_
  refine .ite h.hubRead.send ?_
  split
  · exact h.hubRead.send
  · split
    · have h1 := h.hubRead.hubWrite.get ‹_›
      exact h1.send
    · exact h

theorem writeIoRoot {port : Nat} {table : Option Nat} (h : s.Canonical) : (s.writeIoRoot port table).Canonical :=
  .ite h (h.update (by rfl))

theorem ioTranslate {port iova : Nat} {n : Need} (h : s.Canonical) : OnOk (fun r => r.1.Canonical) (s.ioTranslate port iova n) :=
    by
  unfold State.ioTranslate
  split
  · trivial
  · exact h.walkRoot.fst ‹_›

theorem ioDenied {port iova : Nat} {f : XFault} (h : s.Canonical) : (s.ioDenied port iova f).Canonical := h.deniedRoot

theorem dmaBytes {port iova n : Nat} (h : s.Canonical) :
    OnSome (OnExcept State.Canonical (fun r => r.1.Canonical)) (s.dmaBytes port iova n) := by
  induction n generalizing s iova with
  | zero => exact h
  | succ n ih =>
    unfold State.dmaBytes
    split
    · exact h.ioDenied
    · have h1 := h.ioTranslate.fst ‹_›
      refine of_ite trivial ?_
      extract_lets r
      have hr : r.1.Canonical := h1.hubRead
      have hrest := ih (iova := iova + 1) hr
      split
      · exact (hrest.get ‹_›).fst rfl
      · exact hrest

theorem dmaRead {port iova n : Nat} (h : s.Canonical) : (s.dmaRead port iova n).Canonical := by
  unfold State.dmaRead
  refine .ite h ?_
  split
  · have h1 := OnExcept.fst (h.dmaBytes.get ‹_›) rfl
    exact h1.send
  · have h1 := OnExcept.getError (h.dmaBytes.get ‹_›) rfl
    exact h1.send
  · exact h

theorem dmaStore {port iova : Nat} {l : List Byte} (h : s.Canonical) : OnSome (fun r => r.1.Canonical) (s.dmaStore port iova l) :=
    by
  induction l generalizing s iova with
  | nil => exact h
  | cons b r ih =>
    unfold State.dmaStore
    split
    · exact h.ioDenied
    · have h1 := h.ioTranslate.fst ‹_›
      exact of_ite trivial (OnSome.bind h1.hubWrite (fun _ hu => ih hu))

theorem dmaWrite {port iova : Nat} {bs : List Byte} (h : s.Canonical) : (s.dmaWrite port iova bs).Canonical := by
  unfold State.dmaWrite
  refine .ite h ?_
  split
  · have h1 := h.dmaStore.fst ‹_›
    exact h1.send
  · exact h

theorem writeComm {comm : Nat} {members : List PeerAddr} {rank : Nat} {links : List LinkId} (h : s.Canonical) :
    (s.writeComm comm members rank links).Canonical :=
  .ite h (h.update (by rfl))

end Sys2Proof.Machine.State.Canonical
end

section
/-! Machine/Logger.lean: what its functions answer is canonical. -/

namespace Sys2Proof.Machine.State.Canonical
variable {s s0 s' t u a0 : State}

theorem writeErqCfg {p : Nat} {v : DWord} (h : s.Canonical) : (s.writeErqCfg p v).Canonical :=
  .ite h (Canonical.ite (h.modPart.foldl (fun _ _ hu => hu.queueTo)).setRm h.modPart).bootEnds

theorem readErqCfg {p : Nat} (h : s.Canonical) : (s.readErqCfg p).Canonical := h.modPart

theorem flushPending {k : Nat} (h : s.Canonical) : (s.flushPending k).Canonical := by
  unfold State.flushPending
  split
  · exact .ite h.emit.setPending h
  · exact h

theorem sramRecord {code sev action : Nat} {at_ : SramAt} (h : s.Canonical) : (s.sramRecord code sev action at_).Canonical :=
  h.log

theorem refetched {at_ : SramAt} (h : s.Canonical) : OnSome State.Canonical (s.refetched at_) := by
  unfold State.refetched
  split
  · exact of_ite trivial (h.update (by rfl))
  · exact h
  · split
    · exact of_ite trivial h.burst
    · exact h
  · exact h.modCore
  · exact h.modDie
  · exact h.update (by rfl)
  · trivial
  · trivial
  · trivial
  · trivial
  · trivial

theorem sramPoison {at_ : SramAt} (h : s.Canonical) : (s.sramPoison at_).Canonical := by
  unfold State.sramPoison
  dsimp only
  split
  · exact .ite (h.forward.update (by rfl)) (h.update (by rfl))
  · exact h.foldl (fun _ _ hu => .ite hu (hu.update (by rfl)))
  · exact h.update (by rfl)
  · exact h.modCtx
  · exact h.withAccs (Tab.modify_wf _ _ _)
  · exact h.nodeFails
  · exact h

theorem regFails {t : Nat} {r : RegName} (h : s.Canonical) : (s.regFails t r).Canonical := .ite h h.modThr.log

theorem sramFails {at_ : SramAt} (h : s.Canonical) : (s.sramFails at_).Canonical := by
  unfold State.sramFails
  split
  · exact h.regFails
  · split
    · have h1 := h.refetched.get ‹_›
      exact h1.sramRecord
    · exact h.sramPoison.sramRecord

theorem hbmRecord {pa code sev action detail : Nat} (h : s.Canonical) : (s.hbmRecord pa code sev action detail).Canonical := h.log

theorem countRow {pa left : Nat} (h : s.Canonical) : (s.countRow pa left).Canonical :=
  .ite (h.update (by rfl)).hbmRecord.bankUsed (h.update (by rfl))

theorem patrol {pa : Nat} {fate : ScrubFate} {left : Nat} (h : s.Canonical) : (s.patrol pa fate left).Canonical := by
  unfold State.patrol
  refine .ite h ?_
  split
  · exact h
  · exact h.hbmRecord.countRow
  · exact h.hbmRecord.foldl (fun _ _ hu => .ite hu (hu.update (by rfl)))

theorem writeRstc {v : DWord} (h : s.Canonical) : (s.writeRstc v).Canonical := h.setRm

theorem updateWear {die : Nat} {hours : Word} {bankSpent : Bool} (h : s.Canonical) : (s.updateWear die hours bankSpent).Canonical
    :=
  .ite h (.ite (Canonical.ite h.modDie.powerRecord h.modDie).powerRecord (.ite h.modDie.powerRecord h.modDie))

theorem thermalFirst {die : Nat} (h : s.Canonical) : (s.thermalFirst die).Canonical := .ite h h.modDie.powerRecord

theorem throttle {die : Nat} {cool : Bool} (h : s.Canonical) : (s.throttle die cool).Canonical := .ite h h.modDie

theorem thermalTrips {die : Nat} {b : BootRecord} (h : s.Canonical) : (s.thermalTrips die b).Canonical :=
  h.powerRecord.deviceReset

theorem droop {die : Nat} (h : s.Canonical) : (s.droop die).Canonical := .ite h h.modDie.powerRecord

theorem parkWrite {core slot off : Nat} {v : DWord} (h : s.Canonical) : (s.parkWrite core slot off v).Canonical :=
  .ite h (.ite h.modCore h.parkBytes)

theorem writeParkCtl {core : Nat} {v : DWord} (h : s.Canonical) : (s.writeParkCtl core v).Canonical := h.modCore

theorem writeDspWin {die tenant : Nat} {v : DWord} (h : s.Canonical) : (s.writeDspWin die tenant v).Canonical := .ite h h.modDie

theorem writeReg {r : CtlReg} {v : DWord} (h : s.Canonical) : (s.writeReg r v).Canonical := by
  unfold State.writeReg
  dsimp only
  split
  · exact .ite h h.modTenant
  · exact .ite h h.modDie
  · exact .ite h h.modPart

end Sys2Proof.Machine.State.Canonical
end

section
/-! Machine/Packed.lean: what its functions answer is canonical. -/

namespace Sys2Proof.Machine.State.Canonical
variable {s s0 s' t u a0 : State}

theorem putW {t : Nat} {d : BitVec 4} {r : WReg} {fl : BitVec 5} (h : s.Canonical) : (putW s t d r fl).Canonical := h.modThr

theorem putElems {t : Nat} {d : BitVec 4} {tag : Nat} {rs : List Res} (h : s.Canonical) : (putElems s t d tag rs).Canonical :=
  h.putW

theorem zip2 {i : Instr} {d a b : BitVec 4} {f : Fmt → RMode → Nat → Nat → Res} {g : Word → Word → Word} (h : s.Canonical) :
    CanonicalOut (zip2 i d a b f g s) :=
  h.run (fun _ _ hu => hu.operands (fun _ _ hv => hv.putElems))

theorem execWmax {d a b : BitVec 4} (h : s.Canonical) : CanonicalOut (execWmax d a b s) := by
  unfold Machine.execWmax
  exact h.zip2

theorem execWmin {d a b : BitVec 4} (h : s.Canonical) : CanonicalOut (execWmin d a b s) := by
  unfold Machine.execWmin
  exact h.zip2

end Sys2Proof.Machine.State.Canonical
end

section
/-! Machine/Dispatch.lean: what its functions answer is canonical. -/

namespace Sys2Proof.Machine.State.Canonical
variable {s s0 s' t u a0 : State}

theorem exec {i : Instr} (h : s.Canonical) : CanonicalOut (Machine.exec i s) := by
  cases i with
  | clause _ _ _ _ _ => exact h.issue (fun _ _ hu => hu.passHeader)
  | movC _ _ => exact h.run (fun _ _ hu => hu.regOp)
  | addC _ _ => exact h.run (fun _ _ hu => hu.compact)
  | subC _ _ => exact h.run (fun _ _ hu => hu.compact)
  | andC _ _ => exact h.run (fun _ _ hu => hu.compact)
  | orC _ _ => exact h.run (fun _ _ hu => hu.compact)
  | xorC _ _ => exact h.run (fun _ _ hu => hu.compact)
  | shlC _ _ => exact h.run (fun _ _ hu => hu.compact)
  | shrC _ _ => exact h.run (fun _ _ hu => hu.compact)
  | addiC _ _ => exact h.run (fun _ _ hu => hu.compactI)
  | moviC _ _ => exact h.run (fun _ _ hu => hu.regOp)
  | faddC _ _ => exact h.run (fun _ _ hu => hu.compactF)
  | fmulC _ _ => exact h.run (fun _ _ hu => hu.compactF)
  | fmaxC _ _ => exact h.run (fun _ _ hu => hu.compactF)
  | fsubC _ _ => exact h.run (fun _ _ hu => hu.compactF)
  | shriC _ _ => exact h.run (fun _ _ hu => hu.compactI)
  | nopC => exact h.run (fun _ _ hu => hu)
  | add _ _ _ => exact h.int2
  | sub _ _ _ => exact h.int2
  | mul _ _ _ => exact h.int2
  | mulhI _ _ _ => exact h.int2
  | mulhN _ _ _ => exact h.int2
  | divI _ _ _ => exact h.int2
  | divN _ _ _ => exact h.int2
  | remI _ _ _ => exact h.int2
  | remN _ _ _ => exact h.int2
  | and _ _ _ => exact h.int2
  | or _ _ _ => exact h.int2
  | xor _ _ _ => exact h.int2
  | andn _ _ _ => exact h.int2
  | shl _ _ _ => exact h.int2
  | shr _ _ _ => exact h.int2
  | sar _ _ _ => exact h.int2
  | rot _ _ _ => exact h.int2
  | minI _ _ _ => exact h.int2
  | minN _ _ _ => exact h.int2
  | maxI _ _ _ => exact h.int2
  | maxN _ _ _ => exact h.int2
  | abs _ _ => exact h.int1
  | neg _ _ => exact h.int1
  | clz _ _ => exact h.int1
  | popc _ _ => exact h.int1
  | brev _ _ => exact h.int1
  | mov _ _ => exact h.int1
  | not _ _ => exact h.int1
  | addi _ _ _ => exact h.run (fun _ _ hu => hu.regOp)
  | andi _ _ _ => exact h.run (fun _ _ hu => hu.regOp)
  | ori _ _ _ => exact h.run (fun _ _ hu => hu.regOp)
  | xori _ _ _ => exact h.run (fun _ _ hu => hu.regOp)
  | shli _ _ _ => exact h.run (fun _ _ hu => hu.regOp)
  | shri _ _ _ => exact h.run (fun _ _ hu => hu.regOp)
  | sari _ _ _ => exact h.run (fun _ _ hu => hu.regOp)
  | roti _ _ _ => exact h.run (fun _ _ hu => hu.regOp)
  | movh _ _ => exact h.run (fun _ _ hu => hu.regOp)
  | cmp _ _ _ _ _ => exact h.run (fun _ _ hu => hu.predOp)
  | cmpi _ _ _ _ => exact h.run (fun _ _ hu => hu.predOp)
  | pand _ _ _ => exact h.run (fun _ _ hu => hu.plog)
  | por _ _ _ => exact h.run (fun _ _ hu => hu.plog)
  | pxor _ _ _ => exact h.run (fun _ _ hu => hu.plog)
  | pandn _ _ _ => exact h.run (fun _ _ hu => hu.plog)
  | pnot _ _ => exact h.run (fun _ _ hu => hu.threadOp)
  | pmovg _ _ => exact h.run (fun _ _ hu => hu.predOp)
  | pmovp _ _ => exact h.run (fun _ _ hu => hu.regOp)
  | sel _ _ _ _ => exact h.run (fun _ _ hu => hu.regOp)
  | fadd _ _ _ => exact h.float2
  | fsub _ _ _ => exact h.float2
  | fmul _ _ _ => exact h.float2
  | fdiv _ _ _ => exact h.float2
  | fmin _ _ _ => exact h.float2
  | fmax _ _ _ => exact h.float2
  | fabs _ _ => exact h.int1
  | fneg _ _ => exact h.int1
  | fcpsgn _ _ _ => exact h.int2
  | fsqrt _ _ => exact h.float1
  | frcp _ _ => exact h.float1
  | frsq _ _ => exact h.float1
  | ex2 _ _ => exact h.float1
  | fma _ _ _ => exact h.fused
  | fms _ _ _ => exact h.fused
  | fnma _ _ _ => exact h.fused
  | fnms _ _ _ => exact h.fused
  | fcmp _ _ _ _ => exact h.run (fun _ _ hu => hu.operands (fun _ _ hv => hv.modThr))
  | fcvtF32I32 _ _ _ => exact h.fcvt
  | fcvtF32N32 _ _ _ => exact h.fcvt
  | fcvtI32F32 _ _ _ => exact h.fcvt
  | fcvtN32F32 _ _ _ => exact h.fcvt
  | fcvtF32F16 _ _ _ => exact h.fcvt
  | fcvtF16F32 _ _ _ => exact h.fcvt
  | fcvtF32Bf16 _ _ _ => exact h.fcvt
  | fcvtBf16F32 _ _ _ => exact h.fcvt
  | frnd _ _ _ => exact h.fcvt
  | aadd _ _ _ _ => exact h.run (fun _ _ hu => hu.operands (fun _ _ hv => hv.modThr))
  | amov _ _ => exact h.run (fun _ _ hu => hu.operands (fun _ _ hv => hv.modThr))
  | asplit _ _ => exact h.run (fun _ _ hu => hu.threadOp)
  | acmp _ _ _ _ => exact h.run (fun _ _ hu => hu.threadOp)
  | amova _ _ => exact h.run (fun _ _ hu => hu.threadOp)
  | aaddi _ _ _ => exact h.run (fun _ _ hu => hu.threadOp)
  | afrom _ _ => exact h.run (fun _ _ hu => hu.threadOp)
  | br _ _ _ => exact h.run (fun _ _ hu => hu.branch)
  | call _ _ _ => exact h.run (fun _ _ hu => hu.branch)
  | jmp _ => exact h.run (fun _ _ hu => hu.transfer)
  | jcall _ _ => exact h.run (fun _ _ hu => hu.transfer)
  | ret _ => exact h.run (fun _ _ hu => hu.transfer)
  | exit => exact h.run (fun _ _ hu => hu.exitThread)
  | yield => exact h.run (fun _ _ hu => hu)
  | nop => exact h.run (fun _ _ hu => hu)
  | brk => exact h.run (fun _ _ hu => trivial)
  | trap _ => exact h.run (fun _ _ hu => trivial)
  | spawn _ _ _ => exact h.run (fun _ _ hu => hu.operands (fun _ _ hv => hv.spawnGroup))
  | ld _ _ _ _ _ _ => exact h.execLd
  | st _ _ _ _ _ _ => exact h.execSt
  | wld _ _ _ _ _ _ => exact h.execWld
  | wst _ _ _ _ _ _ => exact h.execWst
  | gather _ _ _ _ _ _ => exact h.execGather
  | scatter _ _ _ _ _ _ => exact h.execScatter
  | pref _ _ _ => exact h.run (fun _ _ hu => of_ite (of_ite hu.prefLine trivial) (of_ite hu trivial))
  | atomAdd _ _ _ _ _ => exact h.atom
  | atomMinI _ _ _ _ _ => exact h.atom
  | atomMinN _ _ _ _ _ => exact h.atom
  | atomMaxI _ _ _ _ _ => exact h.atom
  | atomMaxN _ _ _ _ _ => exact h.atom
  | atomAnd _ _ _ _ _ => exact h.atom
  | atomOr _ _ _ _ _ => exact h.atom
  | atomXor _ _ _ _ _ => exact h.atom
  | atomXchg _ _ _ _ _ => exact h.atom
  | atomFadd _ _ _ _ _ => exact h.atom
  | atomBump _ _ _ _ _ => exact h.atom
  | acas _ _ _ _ _ => exact h.execAcas
  | fence _ _ _ => exact h.run (fun _ _ hu => hu.fence)
  | barArrive _ _ => exact h.run (fun _ _ hu => hu.onBarrier (fun _ _ _ _ hv => hv.arriving (fun _ _ _ _ hw => hw.arrive.modThr)))
  | barWait _ _ => exact h.run (fun _ _ hu => hu.operands
    (fun _ _ hv => hv.onBarrier (fun _ _ _ _ hw => of_ite (of_ite hw.waited hw.waitOn)
    (of_ite trivial (of_ite hw.waited hw.waitOn)))))
  | barSync _ => exact h.run (fun _ _ hu => hu.onBarrier
    (fun _ _ _ _ hv => of_ite (of_ite hv.waited hv.waitOn) (hv.arriving (fun _ _ _ _ hw => hw.modThr.arrive))))
  | barInit _ _ _ => exact h.run (fun _ _ hu => hu.operands (fun _ _ hv => hv.barInit))
  | barTest _ _ _ => exact h.run (fun _ _ hu => hu.onBarrier (fun _ _ _ _ hv => hv.modThr))
  | barDrop _ => exact h.run (fun _ _ hu => hu.onBarrier (fun _ _ _ _ hv => of_ite trivial hv.dropAt))
  | twaitany _ => exact h.run (fun _ _ hu => of_ite trivial (of_ite hu hu))
  | twaitall _ => exact h.run (fun _ _ hu => of_ite hu hu)
  | tfirst _ _ => exact h.run (fun _ _ hu => hu.modThr)
  | tclr _ => exact h.run (fun _ _ hu => hu.tagStore)
  | tset _ => exact h.run (fun _ _ hu => hu.tagStore)
  | ttest _ _ => exact h.run (fun _ _ hu => hu.modThr)
  | qbind _ _ _ => exact h.run (fun _ _ hu => hu.qbind)
  | qstat _ _ => exact h.run (fun _ _ hu => hu.boundPort (fun _ _ => hu.modThr))
  | qclose _ => exact h.run (fun _ _ hu => hu.boundPort (fun _ _ => hu.closeQueue))
  | qtry _ _ _ => exact h.run (fun _ _ hu => hu.operands (fun _ _ hv => hv.boundPort (fun _ _ => hv.qtry)))
  | hpush _ _ _ => exact h.run (fun _ _ hu => hu.tracked (hu.operands (fun _ _ hv => hv.heapStart)))
  | hpop _ _ _ => exact h.run (fun _ _ hu => hu.tracked hu.heapStart)
  | htry _ _ _ => exact h.run (fun _ _ hu => hu.tracked hu.heapStart)
  | movs _ _ => exact h.run (fun _ _ hu => of_ite hu.modThr (hu.operands (fun _ _ hv => hv.modThr.wr)))
  | movsw _ _ => exact h.run (fun _ _ hu => hu.operands (fun _ _ hv => hv.modThr))
  | mkh _ _ _ => exact h.execMkh
  | arm _ _ _ => exact h.run (fun _ _ hu => hu.threadOp)
  | rpost _ _ _ _ _ => exact h.run (fun _ _ hu => hu.operands (fun _ _ hv => of_ite trivial hv.sendPost))
  | rpostw _ _ _ _ _ => exact h.run (fun _ _ hu => hu.operands (fun _ _ hv => of_ite trivial hv.sendPost))
  | full _ _ _ => exact h.run (fun _ _ hu => hu.threadOp)
  | revoke _ _ _ => exact h.run (fun _ _ hu => hu.sendPost)
  | stream _ _ _ _ => exact h.run (fun _ _ hu => hu.strm)
  | streamg _ _ _ _ => exact h.run (fun _ _ hu => hu.strm)
  | scopy _ _ _ _ => exact h.run (fun _ _ hu => hu.strm)
  | binscat _ _ _ _ => exact h.run (fun _ _ hu => hu.strm)
  | sfill _ _ _ _ => exact h.run (fun _ _ hu => hu.strm)
  | mma _ _ _ _ _ => exact h.run (fun _ _ hu => hu.mtx (fun _ _ hv => hv.describeMma))
  | mmas _ _ _ _ _ => exact h.run (fun _ _ hu => hu.mtx (fun _ _ hv => hv.describeMma))
  | xzero _ => exact h.run (fun _ _ hu => hu.mtx (fun _ _ hv => hv.describeNone))
  | xld _ _ _ _ _ => exact h.run (fun _ _ hu => hu.mtx (fun _ _ hv => hv.describeTile))
  | xst _ _ _ _ _ => exact h.run (fun _ _ hu => hu.mtx (fun _ _ hv => hv.describeTile))
  | xdrain _ _ _ _ _ => exact h.run (fun _ _ hu => of_ite State.Canonical.illegal
    (of_ite trivial (hu.mtx (fun _ _ hv => hv.describeDrain))))
  | xguard _ _ _ => exact h.execXguard
  | xtag _ _ => exact h.run (fun _ _ hu => of_ite State.Canonical.illegal hu.modThr)
  | bind _ _ _ _ => exact h.execBind
  | unbind _ _ _ => exact h.run (fun _ _ hu => hu.speCmd)
  | settle _ _ _ _ => exact h.run (fun _ _ hu => hu.speCmd)
  | stale _ _ _ => exact h.run (fun _ _ hu => hu.speCmd)
  | recomp _ _ _ _ => exact h.run (fun _ _ hu => hu.speCmd)
  | bstat _ _ _ => exact h.run (fun _ _ hu => hu.speCmd)
  | pxfind _ _ _ _ => exact h.run (fun _ _ hu => hu.pfx)
  | pxins _ _ _ _ _ => exact h.run (fun _ _ hu => hu.pfx)
  | pxref _ _ _ _ _ => exact h.run (fun _ _ hu => hu.pfx)
  | pxunref _ _ _ _ => exact h.run (fun _ _ hu => hu.pfx)
  | kvapp _ _ _ _ => exact h.run (fun _ _ hu => hu.pfx)
  | kvtrim _ _ _ _ => exact h.run (fun _ _ hu => hu.pfx)
  | kvxlat _ _ _ => exact h.run (fun _ _ hu => hu.pfx)
  | attn _ _ _ _ => exact h.run (fun _ _ hu => hu.pfx)
  | wadd _ _ _ => exact h.zip2
  | wsub _ _ _ => exact h.zip2
  | wmul _ _ _ => exact h.zip2
  | wfma _ _ _ => exact h.run (fun _ _ hu => hu.operands (fun _ _ hv => hv.putElems))
  | wmax _ _ _ => exact h.execWmax
  | wmin _ _ _ => exact h.execWmin
  | wdot _ _ _ => exact h.run (fun _ _ hu => hu.operands (fun _ _ hv => hv.putElems))
  | wred _ _ _ => exact h.run (fun _ _ hu => hu.operands (fun _ _ hv => hv.modThr.wr))
  | wcvt _ _ _ _ _ => exact h.run (fun _ _ hu => hu.operands (fun _ _ hv => hv.modThr.putElems))
  | wpack _ _ _ => exact h.run (fun _ _ hu => hu.operands (fun _ _ hv => hv.putW))
  | wunpk _ _ _ => exact h.run (fun _ _ hu => hu.operands (fun _ _ hv => of_ite hv.putElems hv.putElems))
  | wshuf _ _ _ => exact h.run (fun _ _ hu => hu.operands (fun _ _ hv => hv.putW))
  | wtag _ _ => exact h.run (fun _ _ hu => hu.operands (fun _ _ hv => hv.putW))
  | wscl _ _ _ => exact h.run (fun _ _ hu => hu.operands (fun _ _ hv => of_ite hv.putElems hv.putW))
  | wsets _ _ _ => exact h.run (fun _ _ hu => hu.operands (fun _ _ hv => hv.putW))
  | wcmp _ _ _ _ => exact h.run (fun _ _ hu => hu.operands (fun _ _ hv => hv.modThr.wr))
  | queuePortPush _ _ _ => exact h.portStep (fun _ hu => hu.wr)
  | queuePortPop _ _ => exact h.portStep (fun _ hu => hu.latchPort)
  | schedulerTakeLaunch _ _ _ _ => exact h.takeLaunch
  | placementArrival _ => exact h.placementArrival
  | pendingGroupPlace _ _ _ => exact h.placeUnit
  | unitHandoff _ _ => exact h.handoff
  | stealRequest _ => exact h.stealRequest
  | stealReply _ => exact h.stealReply
  | formationRound _ _ => exact h.formationRound
  | trapAtReply _ => exact h.trapAtReply
  | groupHalted _ => exact h.groupHalted
  | trapServiceTimeout _ => exact h.serviceTimeout
  | trapResume _ => exact h.resume
  | trapTerminateGroup _ => exact h.terminateGroup
  | trapTerminateKernel _ => exact h.terminateKernel
  | groupEvict _ => exact h.evictGroup
  | groupRecall _ => exact h.recallGroup
  | groupRetire _ => exact h.retireGroup
  | kernelDrainDone _ => exact h.drainDone
  | threadSlotFree _ => exact h.slotFree
  | kernelCancel _ => exact h.cancelKernel
  | kernelCancelDone _ => exact h.cancelDone
  | barrierRelease _ _ _ => exact h.releaseBarrier
  | queueConfigure _ _ _ => exact h.configureQueue
  | queueReopen _ _ => exact h.reopenQueue
  | engineResultPush _ _ => exact h.engineResult
  | notify _ _ _ _ _ => exact h.notify
  | heapArrival _ _ => exact h.heapArrival
  | heapOwnerWrite _ _ => exact h.writeHeapOwner
  | ctxSwap _ => exact h.ctxSwapWrite
  | ctxSpill _ _ => exact h.ctxSpillWrite
  | ctxLoad _ _ _ _ => exact h.ctxLoadWrite
  | ctxDiscard _ => exact h.ctxDiscardWrite
  | ctxCmdBad _ _ => exact h.ctxBadWrite
  | swapEnd _ => exact h.swapEnds
  | spillDone _ => exact h.spillEnds
  | loadDone _ => exact h.loadEnds
  | attendantFaultHandle _ _ => exact h.settle
  | operandLogReplay _ => exact h.replayEntry
  | pageWalkDone _ => exact h.walkDone
  | storeDrain _ => exact h.storeDrain
  | registrationAccept _ => exact h.execRegistrationAccept
  | homeRequest _ => exact h.execHomeRequest
  | forwardAtOwner _ => exact h.forwardFor
  | l1EvictWriteback _ _ => exact h.evictLine
  | accessComplete _ => exact h.completeAccess
  | dspWinWrite _ _ _ => exact h.writeDspWin
  | settleCutMarker _ _ => exact h.cutMarker
  | sfenceVma _ _ _ => exact h.byHart (fun _ hu => hu.sfence)
  | shootdownAck _ => exact h.shootAck
  | shootdownTimeoutWarn _ => exact h.shootWarn
  | shootdownTimeoutReset _ => exact h.thenReconf (fun _ hu => hu.shootReset)
  | frameAllocate _ _ _ _ _ _ => exact h.allocateFrame
  | frameEvict _ => exact h.byHart (fun _ hu => hu.evictFrame)
  | ageSweep => exact h.sweep
  | frameWritebackDone _ => exact h.inject (fun _ hu => hu.byHart (fun _ hv => hv.writebackDone))
  | framePin _ => exact h.rmPin
  | frameUnpin _ => exact h.rmUnpin
  | migrationStart _ _ => exact h.byHart (fun _ hu => hu.migrate)
  | migrationCopyDone _ => exact h.inject (fun _ hu => hu.byHart (fun _ hv => hv.copyDone))
  | migrationAbandon _ _ => exact h.byHart (fun _ hu => hu.abandon)
  | scrubDone _ => exact h.inject (fun _ hu => hu.byHart (fun _ hv => hv.scrubbed))
  | scrubFail _ => exact h.scrubFailed
  | rowSpareRepair _ _ => exact h.rowSpared
  | tenFrWrite _ _ => exact h.writeTenFr
  | speCommandStart _ => exact h.inject (fun _ hu => hu.speNext)
  | speFullComputeDone _ _ => exact h.inject (fun _ hu => hu.speWalking (fun _ hv => hv.fullDone))
  | speSettleDone _ _ => exact h.inject (fun _ hu => hu.speWalking (fun _ hv => hv.settleDone))
  | speFail _ _ => exact h.speWalking (fun _ hu => hu.speFailed)
  | adaptAdmit _ => exact h.adaptIn
  | adaptEvict _ _ => exact h.byHart (fun _ hu => hu.adaptOut)
  | adaptRecreate _ _ _ => exact h.adaptBack
  | pfxBaseWrite _ _ => exact h.writePfxBase
  | pfxCfgWrite _ _ => exact h.writePfxCfg
  | pfxCommandStart _ _ => exact h.inject (fun _ hu => hu.pfxNext)
  | pfxCopyDone _ _ => exact h.execPfxCopyDone
  | remoteFetch _ _ => exact h.remoteFetch
  | remoteAttnQuery _ _ => exact h.remoteQuery
  | flitArrival _ _ _ => exact h.flitArrives
  | budgetPeriod _ => exact h.newPeriod
  | bgtClassWrite _ _ _ => exact h.writeBudget
  | bgtClassRead _ _ => exact h.readBudget
  | resetReqDevice _ _ => exact h.requestDevice
  | resetReqPartition _ => exact h.thenReconf (fun _ hu => hu.requestPart)
  | resetReqRingmaster _ => exact h.requestRm
  | getVersion => exact h.spdm
  | getCapabilities => exact h.spdm
  | negotiateAlgorithms => exact h.spdm
  | getDigests => exact h.spdm
  | getCertificate => exact h.spdm
  | challenge _ => exact h.spdm
  | getMeasurements => exact (h.update (by rfl)).spdm
  | mctpUnsupported _ => exact h
  | linkEnable _ => exact h.enable
  | linkTrained _ _ => exact h.trained
  | linkErrorThreshold _ => exact h.overThreshold
  | linkRetrainDone _ _ => exact h.retrained
  | linkFail _ => exact h.thenReconf (fun _ hu => hu.linkFails)
  | linkDisable _ => exact h.disable
  | postLostTimeout _ => exact h.postLost
  | collectiveTake _ => exact h.inject (fun _ hu => hu.collTake)
  | collectiveReduce _ _ => exact h.inject (fun _ hu => hu.collReduce)
  | collectiveChildPartial _ _ _ _ _ => exact h.inject (fun _ hu => hu.collChild)
  | collectiveResult _ _ _ _ => exact h.inject (fun _ hu => hu.collResult)
  | collectiveCancel _ _ => exact h.inject (fun _ hu => hu.collCancel)
  | partCfgWrite _ => exact h.thenReconf (fun _ hu => hu.writePartCfg)
  | ivlMapWrite _ _ => exact h.writeIvl
  | nbndWrite _ _ => exact h.writeNbnd
  | xshrWrite _ _ => exact h.writeXshr
  | partitionMerge _ _ _ => exact h.request
  | partitionSplit _ => exact h.request
  | l2ModeChange _ _ => exact h.request
  | quiesceDone => exact h.quiesceDone
  | quiesceTimeout _ => exact h.quiesceRefused
  | partitionReset _ _ => exact h.thenReconf (fun _ hu => hu.resetPart)
  | partitionResetDone _ => exact h.resetDone
  | deviceReset _ _ => exact h.deviceReset
  | clusterStart _ => exact h.startCluster
  | lockstepMismatch _ => exact h.mismatch
  | watchdogExpiry => exact h.watchdog
  | rmWdogPet => exact h.pet
  | rmWdogTimeoutWrite _ => exact h.writeTimeout
  | ringmasterReset _ => exact h.ringmasterReset
  | selfTestDone _ => exact h.selfTest
  | reattachDone => exact h.thenReconf (fun _ hu => hu.reattach)
  | sessionOpen _ _ _ => exact h.openSession
  | sessionClose _ => exact h.closeSession
  | attendantFault _ => exact h.attendantFails
  | parkWindowWrite _ _ _ _ => exact h.parkWrite
  | parkCtlWrite _ _ => exact h.writeParkCtl
  | handleKeyRotate _ => exact h.rotateKey
  | postArrival _ _ => exact h.execPostArrival
  | revokeArrival _ => exact h.execRevokeArrival
  | postReply _ _ => exact h.execPostReply
  | drainArrival _ => exact h.drainArrival
  | matrixCommandDone _ _ => exact h.execMatrixCommandDone
  | streamerCommandDone _ _ => exact h.inject (fun _ hu => hu.walking (fun _ hv => hv.streamerDone))
  | erqCfgWrite _ _ => exact h.writeErqCfg
  | erqCfgRead _ => exact h.readErqCfg
  | ceFoldFlush _ => exact h.flushPending
  | patrolScrub _ _ _ => exact h.patrol
  | rstcWrite _ => exact h.writeRstc
  | dieFailure _ => exact h.thenReconf (fun _ hu => hu.dieFails)
  | wearUpdate _ _ _ => exact h.updateWear
  | thermalWarn _ => exact h.thermalFirst
  | throttleStep _ _ => exact h.throttle
  | thermalTrip _ _ => exact h.thermalTrips
  | vdroop _ => exact h.droop
  | brownout _ => exact h.deviceReset
  | arrayPowerDown _ => exact h.arrayDown
  | arrayWake _ => exact h.arrayUp
  | registerWrite _ _ => exact h.writeReg
  | reservedEncoding _ => exact h.issue (fun _ _ hu => State.Canonical.notHere)
  | gleanerTransfer _ => exact h.inject (fun _ hu => hu.gleanerMoves)
  | contextDestroy _ => exact h.destroySpilled
  | processEnd _ => exact h.endProcess
  | frameUnmap _ => exact h.byHart (fun _ hu => hu.unmapFrame)
  | directoryExchange _ _ => exact h.exchange

end Sys2Proof.Machine.State.Canonical
end

section
/-! Machine/Select.lean: what its functions answer is canonical. -/

namespace Sys2Proof.Machine.State.Canonical
variable {s s0 s' t u a0 : State}

theorem find {sel : Sel} (h : s.Canonical) : (s.find sel).Canonical := by
  unfold State.find
  dsimp only
  split
  · trivial
  · trivial
  · trivial
  · have h1 := h.fetch.bytes ‹_›
    refine of_ite ?_ ?_
    · split
      · exact h1.standIn
      · exact h1.standIn
    · refine of_ite h1 ?_
      split
      · trivial
      · trivial
      · trivial
      · have h2 := h1.fetch.bytes ‹_›
        split
        · exact h2.standIn.standIn
        · exact h2.standIn.standIn

theorem fetchFaults {sel : Sel} {f : XFault} (h : s.Canonical) : CanonicalOut (s.fetchFaults sel f) :=
  (h.update (by rfl)).issue (fun _ _ hu => hu.logFetch)

theorem fetchPoison {sel : Sel} {pa : Nat} (h : s.Canonical) : CanonicalOut (s.fetchPoison sel pa) :=
  (h.update (by rfl)).issue (fun _ _ hu => trivial)

theorem recheckTroupe {sel : Sel} (h : s.Canonical) : CanonicalOut (s.recheckTroupe sel) := by
  unfold State.recheckTroupe
  dsimp only
  split
  · exact (h.foldl (fun _ _ hu => hu.modThr)).foldl (fun _ _ hu => hu.relatch)
  · exact ((h.foldl (fun _ _ hu => hu.modThr)).update (by rfl)).issue (fun _ _ hu => State.Canonical.illegal)
  · exact h
  · exact (h.update (by rfl)).issue (fun _ _ hu => hu.logFetch)
  · exact (h.update (by rfl)).issue (fun _ _ hu => trivial)

theorem afterIssue {core islot c : Nat} {tr : Troupe} (_h : s.Canonical) (hs' : s'.Canonical) :
    (s.afterIssue s' core islot c tr).Canonical :=
  .ite (hs'.update (by rfl)) (.ite hs'.modCore hs')

end Sys2Proof.Machine.State.Canonical
end

section
/-! Machine/Step.lean: what its functions answer is canonical. -/

namespace Sys2Proof.Machine.State.Canonical
variable {s s0 s' t u a0 : State}

theorem attempt {sel : Sel} (h : s.Canonical) : CanonicalOut (Machine.attempt s sel) := by
  unfold Machine.attempt
  refine of_ite h.recheckTroupe ?_
  split
  · exact h
  · have h1 := h.find.instr ‹_›
    refine of_ite h ?_
    split
    · next heq => exact of_ite h (h1.stamped (CanonicalOut.next (exec (h1.update (by rfl))) heq))
    · exact exec (h1.update (by rfl))
  · exact h.fetchFaults
  · exact h.fetchPoison

theorem issueFrom {core islot c : Nat} {l : List Troupe} (h : s.Canonical) : CanonicalOut (Machine.issueFrom s core islot c l) :=
    by
  induction l with
  | nil => exact h
  | cons tr l ih =>
    unfold Machine.issueFrom
    split
    · exact of_ite (h.afterIssue (h.attempt.next ‹_›)) ih
    · trivial
    · trivial

theorem issueSlot {core islot : Nat} (h : s.Canonical) : CanonicalOut (issueSlot s core islot) := h.issueFrom

theorem outerStep {o : Outer} (h : s.Canonical) : (outerStep s o).Canonical := by
  unfold Machine.outerStep
  split
  · exact h.serviceTimeout
  · exact h.storeDrain
  · exact h.copyAhead
  · exact h.speElement
  · exact h.captureEarly
  · exact h.l1Fill
  · exact h.tileAhead
  · exact h.legFails
  · exact h.replyLost
  · exact h.forwardLost
  · exact h.cmdLost
  · exact h.fetchLost
  · exact h.walkLost
  · exact h.collLost
  · exact h.flitResent
  · exact h.refuseOption
  · exact h.thenReconf (fun _ hu => hu.tryFails)
  · split
    · exact h.thenReconf (fun _ hu => hu.linkFails)
    · exact h
  · exact h.postLost
  · exact h.peerRead
  · exact h.peerWrite
  · exact h.peerAtomic
  · exact h.writeIoRoot
  · exact h.dmaRead
  · exact h.dmaWrite
  · exact h.writeComm
  · exact h.quiesceRefused
  · exact h.thenReconf (fun _ hu => hu.configure)
  · exact h.sramRecord
  · exact h.sramFails
  · exact h.pageFails
  · exact h.seqFails
  · exact h.setLevel
  · refine .ite h ?_
    refine .ite h.hartFault ?_
    split
    · exact h.exec.next ‹_›
    · exact h
  · exact h.attendantLevel
  · exact h.attendantRead
  · exact h.attendantWrite
  · exact h.writeWdog
  · exact h.grantQueue
  · exact h.handshake
  · exact h.writeRoot
  · exact h.writeEntry
  · exact h.grantFrames

theorem journaled {k : State → Host.Outcome State Fault Refusal} (h : s.Canonical) (hk : ∀ u, u.Canonical → CanonicalOut (k u)) :
    CanonicalOut (journaled k s) := by
  unfold Machine.journaled
  dsimp only
  split
  · have h1 := (hk _ h).next ‹_›
    refine of_ite h1 ?_
    split
    · have h2 := (hk _ h.record).next ‹_›
      exact h2.complete
    · exact hk _ h.record
  · exact hk _ h

theorem orHeld {r : Host.Outcome State Fault Refusal} (h : s.Canonical) (hr : CanonicalOut r) : CanonicalOut (Machine.orHeld s r)
    := by
  unfold Machine.orHeld
  split
  · exact h.orHold hr
  · exact hr

theorem eventStep {i : Instr} (h : s.Canonical) : CanonicalOut (eventStep s i) :=
  of_ite h (of_ite (h.journaled (fun _ hu => hu.orHeld hu.exec)) (h.orHeld h.exec))

theorem outerTurn {o : Outer} (h : s.Canonical) : CanonicalOut (outerTurn s o) :=
  of_ite h (of_ite (h.journaled (fun _ hu => hu.orHold hu.outerStep)) (h.orHold h.outerStep))

theorem step (h : s.Canonical) : CanonicalOut (step s) := by
  unfold Machine.step
  split
  · exact h.tick
  · exact (h.update (by rfl)).tick
  · exact (h.update (by rfl)).eventStep
  · exact (h.update (by rfl)).outerTurn
  · exact (h.update (by rfl)).issueSlot

end Sys2Proof.Machine.State.Canonical
end

section
/-! O58: the invariant of every step. -/

namespace Sys2Proof.Machine

/-- Settles O58: the step is one of the model's functions, each of which keeps the canonical form. -/
theorem stepKeepsCanonical : Obligations.StepKeepsCanonical := fun _ _ h e => (State.Canonical.step h).next e

end Sys2Proof.Machine
end

section
/-! O14. What the issue of an access changes, where it traps, and the space that an address selects. -/

namespace Sys2Proof.Machine

/-- One piece of an access that issues: translated by a TLB hit, or waiting for a walk; a local one needs neither. -/
def startPiece (core : Nat) (asid : BitVec 16) (need : Need) (acc : State × List Piece) (w : Want) : State × List Piece :=
  let p : Piece := { place := w.place, va := w.va, pa := none, len := w.len, pos := w.pos, data := w.data,
                     poisoned := false, st := .queued }
  if w.place ≠ .virt then (acc.1, acc.2 ++ [p])
  else match acc.1.tlbHit core asid w.va.toNat need with
    | some (s1, pa) => (s1, acc.2 ++ [{ p with pa := some pa }])
    | none => (acc.1, acc.2 ++ [{ p with st := .walk }])

/-- A piece as it is issued: not begun, or waiting for the walk of a translated address. -/
def Piece.Issued (p : Piece) : Prop := p.st = .queued ∨ (p.st = .walk ∧ p.place = .virt)

/-- What a piece takes over of what is wanted. -/
def Piece.wanted (p : Piece) : DWord × Place × Nat × Nat × List Byte := (p.va, p.place, p.len, p.pos, p.data)

def Want.wanted (w : Want) : DWord × Place × Nat × Nat × List Byte := (w.va, w.place, w.len, w.pos, w.data)

/-- A TLB hit fills the L1 TLB of its core and changes nothing else. -/
theorem State.tlbHit_cores {s v : State} {core va pa : Nat} {asid : BitVec 16} {n : Need} (h : s.tlbHit core asid va n = some (v, pa)) :
    ∃ cs, v = { s with cores := cs } := by
  unfold State.tlbHit at h
  split at h
  · cases h
    exact ⟨_, rfl⟩
  · split at h
    · cases h
      exact ⟨_, rfl⟩
    · cases h

theorem startPiece_spec (core : Nat) (asid : BitVec 16) (need : Need) (acc : State × List Piece) (w : Want) :
    ∃ cs p, startPiece core asid need acc w = ({ acc.1 with cores := cs }, acc.2 ++ [p]) ∧ p.wanted = w.wanted ∧ p.Issued := by
  unfold startPiece
  split
  · exact ⟨_, _, rfl, rfl, .inl rfl⟩
  · next hvirt =>
    split
    · next heq =>
      obtain ⟨cs, rfl⟩ := State.tlbHit_cores heq
      exact ⟨cs, _, rfl, rfl, .inl rfl⟩
    · exact ⟨_, _, rfl, rfl, .inr ⟨rfl, not_not.1 hvirt⟩⟩

theorem startPieces_spec (core : Nat) (asid : BitVec 16) (need : Need) (ws : List Want) (acc : State × List Piece) :
    ∃ cs ps, ws.foldl (startPiece core asid need) acc = ({ acc.1 with cores := cs }, acc.2 ++ ps) ∧
      ps.map Piece.wanted = ws.map Want.wanted ∧ ∀ p ∈ ps, p.Issued := by
  induction ws generalizing acc with
  | nil => exact ⟨acc.1.cores, [], by rw [List.append_nil]; rfl, rfl, by simp⟩
  | cons w ws ih =>
    obtain ⟨cs, p, hstep, hw, hp⟩ := startPiece_spec core asid need acc w
    obtain ⟨cs', ps, hrest, hws, hps⟩ := ih ({ acc.1 with cores := cs }, acc.2 ++ [p])
    refine ⟨cs', p :: ps, ?_, by rw [List.map_cons, List.map_cons, hw, hws], List.forall_mem_cons.2 ⟨hp, hps⟩⟩
    rw [List.foldl_cons, hstep, hrest, List.append_assoc]
    rfl

/-- The issue of an access changes the accesses under way, the next number, the flag of its thread, and the L1 TLB that a
translation fills. -/
theorem accessed_spec (u : State) (t : Nat) (op : AccOp) (lv : Level) (dst : Dst) (flag : Option Nat) (ws : List Want) :
    ∃ a cs, accessed u t op lv dst flag ws = { u with
        cores := cs, accs := u.accs.set u.nextId (some a), nextId := u.nextId + 1,
        threads := u.threads.set t ((u.thr t).flagUp flag) } ∧
      (a.thr = t ∧ a.core = u.coreOf t ∧ a.op = op ∧ a.lv = lv ∧ a.dst = dst ∧ a.flag = flag ∧ a.pc = (u.thr t).pc) ∧
      a.pieces.map Piece.wanted = ws.map Want.wanted ∧ ∀ p ∈ a.pieces, p.Issued := by
  obtain ⟨cs, ps, hfold, hws, hps⟩ := startPieces_spec (u.coreOf t) (u.ctx (keyCtx t)).asid op.need ws (u, [])
  have hstart : ∀ pc, ∃ a, u.startAccess t op lv dst ws flag pc =
      { u with cores := cs, accs := u.accs.set u.nextId (some a), nextId := u.nextId + 1 } ∧
      (a.thr = t ∧ a.core = u.coreOf t ∧ a.op = op ∧ a.lv = lv ∧ a.dst = dst ∧ a.flag = flag ∧ a.pc = pc) ∧ a.pieces = ps := by
    intro pc
    unfold State.startAccess
    extract_lets core asid r a
    have hr : r = ({ u with cores := cs }, ps) := hfold
    refine ⟨a, ?_, ⟨rfl, rfl, rfl, rfl, rfl, rfl, rfl⟩, congrArg Prod.snd hr⟩
    rw [hr]
    rfl
  obtain ⟨a, hu, hfields, hpieces⟩ := hstart (u.thr t).pc
  refine ⟨a, cs, ?_, hfields, hpieces ▸ hws, hpieces ▸ hps⟩
  rw [accessed, hu]
  rfl

theorem Thread.flagUp_flags (x : Thread) (flag : Option Nat) : x.flagUp flag = { x with flags := (x.flagUp flag).flags } := by
  cases flag <;> rfl

theorem Thread.flagUp_get_self (x : Thread) (n : Nat) : (x.flagUp (some n)).flags.get n = x.flags.get n + 1 := by
  simp [Thread.flagUp]

theorem Thread.flagUp_get_other {x : Thread} {flag : Option Nat} {n : Nat} (h : flag ≠ some n) :
    (x.flagUp flag).flags.get n = x.flags.get n := by
  cases flag with
  | none => rfl
  | some m =>
    have hne : n ≠ m := fun e => h (congrArg some e.symm)
    simp [Thread.flagUp, Tab.get_set, hne]

theorem accessIssueFrame : Parts.AccessIssueFrame := by
  intro u t op lv dst flag ws v
  obtain ⟨a, cs, hv, ⟨hthr, hcore, hop, hlv, hdst, hflag, hpc⟩, hws, hps⟩ := accessed_spec u t op lv dst flag ws
  have hself : v.thr t = (u.thr t).flagUp flag := by
    simp only [v, hv, State.thr, Tab.get_set, if_true]
  refine ⟨⟨a, ?_, hthr, hcore, hop, hlv, hdst, hflag, hpc, hws, hps⟩, ?_, fun j hj => ?_, fun j hj => ?_, ?_, fun n hn => ?_,
    fun n hn => ?_, ?_⟩
  · simp only [v, hv, Tab.get_set, if_true]
  · simp only [v, hv]
  · simp only [v, hv, Tab.get_set, hj, if_false]
  · simp only [v, hv, State.thr, Tab.get_set, hj, if_false]
  · rw [hself]
    exact Thread.flagUp_flags _ _
  · rw [hself, hn, Thread.flagUp_get_self]
  · rw [hself, Thread.flagUp_get_other hn]
  · simp only [v, hv, and_self]

/-! Where an access traps (R302). -/

theorem tySize_eq (y : BitVec 3) : tySize y.toNat = typeBytes y := by
  revert y
  decide

namespace State
variable {s : State} {t n al : Nat} {ea : DWord} {localOk : Bool}

theorem checkAt_misaligned (h : ea.toNat % al ≠ 0) : s.checkAt t ea n al localOk = .error (trapAt .align ea) := if_pos h

theorem checkAt_nowhere (h : ea.toNat % al = 0) (hl : s.locate t ea n = none) :
    s.checkAt t ea n al localOk = .error (trapAt .address ea) := by
  rw [checkAt, if_neg (not_not.2 h), hl]

end State

section
variable {r : BitVec 6} {a : BitVec 4} {l : BitVec 2} {y : BitVec 3} {f : BitVec 1} {o : BitVec 9} {s : State} {sel : Sel} {k : Nat}

/-- The address of a load or store of one register. -/
def eaOf (x : Thread) (a : BitVec 4) (y : BitVec 3) (o : BitVec 9) : DWord :=
  x.rdA a.toNat + o.signExtend 64 * BitVec.ofNat 64 (typeBytes y)

theorem ld_traps {i : TrapInfo} (ha : Alone s sel k 2) (hf : (flagNamed (s.thr (sel.key k)) f).isSome)
    (hwf : (Instr.ld r a l y f o).wf = true)
    (hi : State.checkAt { s with sel := none } (sel.key k) (eaOf (s.thr (sel.key k)) a y o) (typeBytes y) (typeBytes y)
      (levelCode l == .l1) = .error i) : TrapsAs (.ld r a l y f o) s sel k i := by
  have hflag : needFlag (State.thr { s with sel := none } (sel.key k)) f = true := by
    rw [needFlag, ← flagNamed_eq]
    exact hf
  refine run_traps rfl ha hwf hflag ?_
  rw [State.tracked_of_flag hflag, tySize_eq]
  rw [eaOf] at hi
  simp only [State.thr] at hi ⊢
  rw [hi]

/-- The registers that a store of a type reads. -/
def stSources (r : BitVec 6) (y : BitVec 3) : List Nat :=
  if y.toNat = 7 then [] else if y.toNat = 5 then [r.toNat, r.toNat + 1] else [r.toNat]

/-- They are no ports, where the one that the store names is none: a pair ends below the ports. -/
theorem stSources_registers (hr : NoPorts [r]) (hwf : (Instr.st r a l y f o).wf = true) : ∀ n ∈ stSources r y, n < 60 := by
  have hr60 : r.toNat < 60 := hr r (List.mem_singleton.2 rfl)
  intro n hn
  unfold stSources at hn
  split at hn
  · cases hn
  · split at hn
    · next h5 =>
      have hpair : isPair r = true := by
        have hlim := (Bool.and_eq_true_iff.1 hwf).2
        simpa [Instr.limitsOk, h5] using hlim
      have h58 : r.toNat ≤ 58 := of_decide_eq_true (Bool.and_eq_true_iff.1 hpair).2
      rcases List.mem_cons.1 hn with rfl | hn
      · exact hr60
      · rw [List.mem_singleton.1 hn]
        omega
    · rw [List.mem_singleton.1 hn]
      exact hr60

theorem someEmpty_registers {x : Thread} {gs : List Nat} (he : ∀ g, 1 ≤ g → g < 60 → x.gEmpty.get g = false) :
    someEmpty x gs [] = false := by
  have hany : gs.any (fun n => 1 ≤ n && n < 60 && x.gEmpty.get n) = false := by
    refine List.any_eq_false.2 (fun n _ hn => ?_)
    simp only [Bool.and_eq_true, decide_eq_true_eq] at hn
    rw [he n hn.1.1 hn.1.2] at hn
    exact absurd hn.2 (by decide)
  rw [someEmpty, hany]
  rfl

theorem st_traps {i : TrapInfo} (ha : Alone s sel k 2) (hr : NoPorts [r])
    (he : ∀ g, 1 ≤ g → g < 60 → (s.thr (sel.key k)).gEmpty.get g = false) (hwf : (Instr.st r a l y f o).wf = true)
    (hi : State.checkAt { s with sel := none } (sel.key k) (eaOf (s.thr (sel.key k)) a y o) (typeBytes y) (typeBytes y)
      (levelCode l == .l1) = .error i) : TrapsAs (.st r a l y f o) s sel k i := by
  have hregs := stSources_registers hr hwf
  refine run_traps rfl ha hwf rfl
    ((operands_regs { s with sel := none } _ (stSources r y) [] none noCheck _ hregs (by simp) ha.2.2.2 (someEmpty_registers he) rfl).trans ?_)
  rw [tySize_eq]
  rw [eaOf] at hi
  simp only [State.thr] at hi ⊢
  rw [hi]

end

theorem accessTraps : Parts.AccessTraps := by
  intro r a l y f o s sel k ha hr he hf n ea both
  have hboth {i : TrapInfo} (hi : State.checkAt { s with sel := none } (sel.key k) ea n n (levelCode l == .l1) = .error i) : both i :=
    ⟨fun hwf => ld_traps ha hf hwf hi, fun hwf => st_traps ha hr he hwf hi⟩
  exact ⟨fun hal => hboth (State.checkAt_misaligned hal), fun hal hloc => hboth (State.checkAt_nowhere hal hloc)⟩

/-! The space that an address selects (R95, R96). -/

theorem cut_space (ea : DWord) : cut ea.toNat 60 4 = ea.toNat / 2 ^ 60 := by
  have := ea.isLt
  unfold cut
  omega

theorem cut_offset (n : Nat) : cut n 0 32 = n % 2 ^ 32 := by
  unfold cut
  rw [pow_zero, Nat.div_one]

namespace State
variable {s : State} {t n : Nat} {ea : DWord}

/-- The top four bits of a translated address are alike. -/
theorem locate_virt (h : ea.toNat / 2 ^ 60 = 0 ∨ ea.toNat / 2 ^ 60 = 15) :
    s.locate t ea n = if canonical ea then some .virt else none := by
  simp only [locate, cut_space, h, if_true]

/-- A local space holds 4 GiB: an address above them is in none. -/
theorem locate_high (hv : ¬(ea.toNat / 2 ^ 60 = 0 ∨ ea.toNat / 2 ^ 60 = 15)) (h : ea.toNat / 2 ^ 32 % 2 ^ 28 ≠ 0) :
    s.locate t ea n = none := by
  simp only [locate, cut_space, hv, if_false]
  exact if_pos h

theorem locate_unused (h : 1 ≤ ea.toNat / 2 ^ 60 ∧ ea.toNat / 2 ^ 60 ≤ 7 ∨ 12 ≤ ea.toNat / 2 ^ 60 ∧ ea.toNat / 2 ^ 60 ≤ 14) :
    s.locate t ea n = none := by
  simp only [locate, cut_space]
  generalize ea.toNat / 2 ^ 60 = sel at h ⊢
  rw [if_neg (by omega), if_neg (by omega : ¬sel = 8), if_neg (by omega : ¬sel = 9), if_neg (by omega : ¬sel = 10),
    if_neg (by omega : ¬sel = 11)]
  exact ite_self none

/-- Which local space an address selects, and that an access must lie inside the group's allocation there. -/
theorem locate_local (h : ea.toNat / 2 ^ 32 % 2 ^ 28 = 0) (hv : ¬(ea.toNat / 2 ^ 60 = 0 ∨ ea.toNat / 2 ^ 60 = 15)) :
    (s.locate t ea n).isSome =
      if ea.toNat / 2 ^ 60 = 8 then decide (ea.toNat % 2 ^ 32 + n ≤ (s.group (s.thr t).group).lane)
      else if ea.toNat / 2 ^ 60 = 9 then decide (ea.toNat % 2 ^ 32 + n ≤ (s.group (s.thr t).group).padLen)
      else if ea.toNat / 2 ^ 60 = 10 then decide (ea.toNat % 2 ^ 32 + n ≤ (s.group (s.thr t).group).cluLen)
      else if ea.toNat / 2 ^ 60 = 11 then decide (ea.toNat % 2 ^ 32 + n ≤ (s.window (coreDie (s.coreOf t)) (s.tenantOf t)).2)
      else false := by
  have hlow : ¬cut ea.toNat 32 28 ≠ 0 := not_not.2 h
  simp only [locate, cut_space, cut_offset, hv, hlow, if_false, apply_ite Option.isSome, Option.isSome_some, Option.isSome_none,
    Bool.if_false_right, Bool.and_true]

end State

theorem addressSpaces : Parts.AddressSpaces := by
  intro s t ea n sel off g
  refine ⟨State.locate_virt, fun hsel => State.locate_high (by omega), State.locate_unused, fun hlow => ⟨?_, ?_, ?_, ?_⟩⟩
  all_goals
    intro hsel
    rw [State.locate_local hlow (by omega), show ea.toNat / 2 ^ 60 = _ from hsel]
    rfl

/-- Settles O14: the frame of the issue by `accessed_spec`, the traps by `checkAt`, the spaces by the branches of `locate`. -/
theorem accessesAtIssue : Obligations.AccessesAtIssue := ⟨accessIssueFrame, accessTraps, addressSpaces⟩

end Sys2Proof.Machine
end

section
/-! O27. The head of a store queue leaves it. -/

namespace Sys2Proof.Machine
namespace State

section
variable {s : State} {t id : Nat} {a : Access} {p : Piece}

/-- What stands at the head of a store queue has a piece that has not left. -/
theorem storeHead_ahead (hhead : s.storeHead t = some (id, a)) (hp : a.pieces = [p]) : p.ahead = true := by
  have h := List.find?_some hhead
  simp only [hp, List.any_cons, List.any_nil, Bool.or_false, Bool.and_eq_true] at h
  exact h.1.2

theorem firstPiece_one {f : Piece → Bool} (h : f p = true) : firstPiece [p] f = some 0 :=
  firstPiece_append (pre := []) h (fun _ hq => absurd hq List.not_mem_nil)

/-- A head of one piece that joins no registration leaves alone. -/
theorem storeDrain_alone (hhead : s.storeHead t = some (id, a)) (hp : a.pieces = [p]) (hmay : s.mayLeave t id p = true)
    (hreg : s.registers a.lv p (wholeWords a) = false) :
    s.storeDrain t = State.leavePiece { s with nextId := s.nextId + 1 } t id 0 a p s.nextId := by
  have hfirst : firstPiece [p] Piece.ahead = some 0 := firstPiece_one (storeHead_ahead hhead hp)
  have hhead' : s.takeId.2.storeHead t = some (id, a) := hhead
  have hmay' : s.takeId.2.mayLeave t id p = true := hmay
  have hreg' : s.takeId.2.registers a.lv p (wholeWords a) = false := hreg
  simp only [storeDrain, drainRun, hhead', hp, hfirst, List.getElem?_cons_zero, hmay', hreg', Bool.not_true, Bool.false_eq_true, if_false]
  rfl

/-- A .l1 store of whole words joins a registration once the L1 has room; the stores behind it may join it. -/
theorem storeDrain_joins {r : State} (hhead : s.storeHead t = some (id, a)) (hp : a.pieces = [p]) (hmay : s.mayLeave t id p = true)
    (hreg : s.registers a.lv p (wholeWords a) = true)
    (hroom : State.l1Room { s with nextId := s.nextId + 1 } a.core (p.pa.getD 0) = some r) :
    s.storeDrain t = drainRun 16 (r.leavePiece t id 0 a p s.nextId) t s.nextId (some (p.pa.getD 0 / 256)) := by
  have hfirst : firstPiece [p] Piece.ahead = some 0 := firstPiece_one (storeHead_ahead hhead hp)
  have hhead' : s.takeId.2.storeHead t = some (id, a) := hhead
  have hmay' : s.takeId.2.mayLeave t id p = true := hmay
  have hreg' : s.takeId.2.registers a.lv p (wholeWords a) = true := hreg
  have hroom' : s.takeId.2.l1Room a.core (p.pa.getD 0) = some r := hroom
  rw [storeDrain, drainRun]
  simp only [hhead', hp, hfirst, List.getElem?_cons_zero, hmay', hreg', hroom', Bool.not_true, Bool.false_eq_true, if_false, if_true]

theorem drainRun_idle (n : Nat) {regn : Nat} {block : Option Nat} (h : s.storeHead t = none) : drainRun n s t regn block = s := by
  cases n with
  | zero => rfl
  | succ n => simp only [drainRun, h]

end

/-! More views of the shell. -/

theorem shell_accs {s t : State} (h : t.shell = s.shell) : t.accs = s.accs := congrArg (fun x => x.1.accs) h
theorem shell_regns {s t : State} (h : t.shell = s.shell) : t.regns = s.regns := congrArg (fun x => x.1.regns) h
theorem shell_seen {s t : State} (h : t.shell = s.shell) : t.seen = s.seen := congrArg (fun x => x.1.seen) h
theorem shell_xshr {s t : State} (h : t.shell = s.shell) : t.xshr = s.xshr := congrArg (fun x => x.1.xshr) h

/-! What stays at the head once a store is on its way. -/

theorem mem_accsOf {s : State} {t k : Nat} {a : Access} : (k, a) ∈ s.accsOf t ↔ (k, some a) ∈ s.accs.cells ∧ a.thr = t := by
  unfold accsOf
  rw [List.mem_filterMap]
  constructor
  · rintro ⟨⟨j, o⟩, hmem, hval⟩
    cases o with
    | none => cases hval
    | some b =>
      dsimp only at hval
      split at hval
      · next hthr =>
        cases hval
        exact ⟨hmem, beq_iff_eq.1 hthr⟩
      · cases hval
  · rintro ⟨hmem, rfl⟩
    exact ⟨_, hmem, by simp⟩

/-- Where the only store of a thread with something in its queue has left whole, the queue has no head. -/
theorem storeHead_none {s u : State} {t id : Nat} {b : Access} (hwf : s.accs.wf = true) (haccs : u.accs = s.accs.set id (some b))
    (hb : b.pieces.any Piece.ahead = false) (hothers : ∀ e ∈ s.accsOf t, e.1 ≠ id → e.2.op.isStore = false) :
    u.storeHead t = none := by
  refine List.find?_eq_none.2 (fun ⟨k, c⟩ hmem => ?_)
  have hget : u.accs.get k = some c := Tab.get_of_mem_cells (haccs ▸ Tab.set_wf _ _ _ hwf) (mem_accsOf.1 hmem).1
  rw [haccs, Tab.get_set] at hget
  split at hget
  · cases hget
    simp [hb]
  · next hne =>
    have hcell : (k, some c) ∈ s.accs.cells := by
      have h := Tab.mem_cells_of_get (t := s.accs) (k := k) (by rw [hget]; exact Option.some_ne_none c)
      rwa [hget] at h
    simp [hothers (k, c) (mem_accsOf.2 ⟨hcell, (mem_accsOf.1 hmem).2⟩) hne]

/-! Room in an L1, and the words that a store writes there. -/

theorem setL1_shell (s : State) (core w : Nat) (x : L1Word) : (s.setL1 core w x).shell = s.shell := rfl

theorem writeL1_shell (s : State) (core pa : Nat) (bs : List Byte) (bad : Bool) : (s.writeL1 core pa bs bad).shell = s.shell := by
  refine foldl_keeps shell _ (fun u w => ?_) _ s
  dsimp only
  rw [setL1_shell]
  split <;> rfl

theorem evictLine_shell (s : State) (core line : Nat) : (s.evictLine core line).shell = s.shell := by
  refine foldl_keeps shell _ (fun u w => ?_) _ s
  dsimp only
  split
  · rfl
  · rw [setL1_shell]
    split
    · exact forward_shell u w
    · rfl

/-- Making room draws a free choice and evicts at most a line. -/
theorem l1Room_shell {s r : State} {core pa : Nat} (h : s.l1Room core pa = some r) :
    ∃ n, r.shell = ({ s with fresh := n } : State).shell := by
  unfold l1Room at h
  dsimp only at h
  split at h
  · cases h
    exact ⟨_, rfl⟩
  · split at h
    · cases h
    · rw [← Option.some.inj h]
      exact ⟨_, evictLine_shell _ _ _⟩

theorem l1Word_setL1 (s : State) (core w k : Nat) (x : L1Word) :
    (s.setL1 core w x).l1Word core k = if k = w then x else s.l1Word core k := by
  have hkey : l1Key core k = l1Key core w ↔ k = w := by
    unfold l1Key
    omega
  unfold l1Word setL1
  rw [Tab.get_set]
  simp only [hkey]

/-- A fold that assigns each place of a list its value. -/
theorem foldl_assigns {σ β : Type} (view : σ → Nat → β) (val : Nat → β) {f : σ → Nat → σ}
    (hf : ∀ u w k, view (f u w) k = if k = w then val k else view u k) (l : List Nat) (s : σ) (k : Nat) :
    view (l.foldl f s) k = if k ∈ l then val k else view s k := by
  induction l generalizing s with
  | nil => rfl
  | cons w r ih =>
    rw [List.foldl_cons, ih, hf]
    by_cases hr : k ∈ r
    · simp [hr]
    · by_cases hw : k = w <;> simp [hr, hw]

/-- The words of a .l1 store in the L1 of its core. -/
theorem writeL1_word (s : State) (core pa : Nat) (bs : List Byte) (bad : Bool) {k : Nat} (hk : k ∈ wordsOf pa bs.length) :
    (s.writeL1 core pa bs bad).l1Word core k = { value := pieceWord pa bs k, valid := true, reg := true, bad := bad } := by
  refine (foldl_assigns (fun u j => u.l1Word core j) (fun j => { value := pieceWord pa bs j, valid := true, reg := true, bad := bad })
    (fun u w j => ?_) _ s k).trans (if_pos hk)
  dsimp only
  rw [l1Word_setL1]
  split
  · next hjw => rw [hjw]
  · split <;> rfl

/-! The piece of a store that leaves. -/

section
variable {t id regn : Nat} {a : Access} {p : Piece}

theorem leavePiece_tset (s : State) {m : DWord} (hp : a.pieces = [p]) (hop : a.op = .tset m) :
    s.leavePiece t id 0 a p regn = (s.setTags (keyCtx t) m).setAcc id (some { a with pieces := [{ p with st := .done }] }) := by
  simp only [leavePiece, hop, hp, setPiece]

theorem leavePiece_tclr (s : State) {m : DWord} (hp : a.pieces = [p]) (hop : a.op = .tclr m) :
    s.leavePiece t id 0 a p regn =
      ((s.modCtx (keyCtx t) (fun c => { c with tags := c.tags &&& ~~~m })).settleTags (keyCtx t)).setAcc id
        (some { a with pieces := [{ p with st := .done }] }) := by
  simp only [leavePiece, hop, hp, setPiece]

theorem leavePiece_local (s : State) (hp : a.pieces = [p]) (hop : a.op = .store) (hpa : p.pa = none) :
    s.leavePiece t id 0 a p regn =
      ((s.putLocal (keyCtx t) p.place p.data).leaveEpoch a.core p.place).setAcc id
        (some { a with pieces := [{ p with st := .done }] }) := by
  simp only [leavePiece, hop, hpa, hp, setPiece]

theorem leavePiece_sent {s : State} {pa : Nat} (hp : a.pieces = [p]) (hop : a.op = .store) (hpa : p.pa = some pa)
    (hreg : s.registers a.lv p (wholeWords a) = false) : s.leavePiece t id 0 a p regn =
      (s.setAcc id (some { a with pieces := [{ p with st := .sent s.nextId }], epoch := s.seen.get a.core })).takeId.2 := by
  simp only [leavePiece, hop, hpa, hp, hreg, setPiece, Bool.false_eq_true, if_false]

/-- The registration of a store's words, alone. -/
def regnOf (s : State) (id : Nat) (a : Access) (p : Piece) (pa : Nat) : Regn :=
  { core := a.core, block := pa / 256, words := wordsOf pa p.len, covers := [(id, 0)], epoch := s.seen.get a.core,
    vals := (wordsOf pa p.len).foldl (fun m k => m.set k (pieceWord pa p.data k)) {} }

theorem leavePiece_registers {s : State} {pa : Nat} (hp : a.pieces = [p]) (hop : a.op = .store) (hpa : p.pa = some pa)
    (hreg : s.registers a.lv p (wholeWords a) = true) (hnew : s.regns.get regn = none) :
    s.leavePiece t id 0 a p regn = { s.writeL1 a.core pa p.data p.poisoned with
      regns := s.regns.set regn (some (regnOf s id a p pa))
      accs := s.accs.set id (some { a with pieces := [{ p with st := .sent regn }] }) } := by
  have hshell := writeL1_shell s a.core pa p.data p.poisoned
  have hregns : (s.writeL1 a.core pa p.data p.poisoned).regns = s.regns := shell_regns hshell
  have haccs : (s.writeL1 a.core pa p.data p.poisoned).accs = s.accs := shell_accs hshell
  have hseen : (s.writeL1 a.core pa p.data p.poisoned).seen = s.seen := shell_seen hshell
  simp only [leavePiece, hop, hpa, hp, hreg, setPiece, if_true, hregns, haccs, hseen, hnew, Option.getD_none, List.nil_append]
  rfl

end

end State

/-- A store of whole words leaves alone: it is in the L1 of its core, and its registration has the number that the step drew. -/
theorem wholeWordStore_spec (q : TRef) (s : State) (id : Nat) (a : Access) (p : Piece) (pa : Nat) (r : State)
    (hhead : s.storeHead (s.keyOf q) = some (id, a)) (hp : a.pieces = [p]) (hmay : s.mayLeave (s.keyOf q) id p = true)
    (hop : a.op = .store) (hpa : p.pa = some pa) (hreg : s.registers a.lv p (State.wholeWords a) = true)
    (hnew : s.regns.get s.nextId = none) (hwf : s.accs.wf = true)
    (hothers : ∀ e ∈ s.accsOf (s.keyOf q), e.1 ≠ id → e.2.op.isStore = false)
    (hroom : State.l1Room { s with nextId := s.nextId + 1 } a.core pa = some r) :
    s.storeDrain (s.keyOf q) = { r.writeL1 a.core pa p.data p.poisoned with
      regns := s.regns.set s.nextId (some (State.regnOf s id a p pa))
      accs := (r.writeL1 a.core pa p.data p.poisoned).accs.set id (some { a with pieces := [{ p with st := .sent s.nextId }] }) } := by
  have haccs' : (r.writeL1 a.core pa p.data p.poisoned).accs = r.accs :=
    State.shell_accs (State.writeL1_shell r a.core pa p.data p.poisoned)
  obtain ⟨n, hr⟩ := State.l1Room_shell hroom
  have hregns : r.regns = s.regns := (State.shell_regns hr).trans rfl
  have haccs : r.accs = s.accs := (State.shell_accs hr).trans rfl
  have hseen : r.seen = s.seen := (State.shell_seen hr).trans rfl
  have hxshr : r.xshr = s.xshr := (State.shell_xshr hr).trans rfl
  have hreg' : r.registers a.lv p (State.wholeWords a) = true := by
    rw [← hreg]
    simp only [State.registers, State.shared, hxshr]
  have hleaves := State.leavePiece_registers (t := s.keyOf q) (id := id) hp hop hpa hreg' (hregns ▸ hnew)
  rw [State.storeDrain_joins hhead hp hmay hreg (by rw [hpa]; exact hroom), hleaves, hregns, haccs', haccs, State.drainRun_idle]
  · rw [State.regnOf, State.regnOf, hseen]
  · exact State.storeHead_none (id := id) hwf rfl rfl hothers

/-- Arrival tags are set in the context, and its troupes may form anew. -/
theorem State.setTags_ctx (s : State) (c : Nat) (m : DWord) : (s.setTags c m).ctx c =
    { s.ctx c with tags := (s.ctx c).tags ||| m, troupes := ((s.setTags c m).ctx c).troupes } := by
  have hsettle (u : State) : (u.settleTags c).ctx c = u.ctx c := by
    unfold settleTags
    dsimp only
    split
    · exact congrArg (fun x => x.1.ctxs.get c) (homeStore_shell u _ _)
    · rfl
  have hwake := wakeCtx_troupesOnly ((s.modCtx c (fun x => { x with tags := x.tags ||| m })).settleTags c) c c
  rw [hsettle, modCtx_ctx_self] at hwake
  exact hwake

/-- Settles O27, by what `leavePiece` does with the one piece of the queue's head, a kind of head at a time. -/
theorem storesLeaveTheirQueue : Obligations.StoresLeaveTheirQueue := by
  intro q s id a p t hhead hp hmay v put away
  have halone (hreg : s.registers a.lv p (State.wholeWords a) = false) :
      exec (.storeDrain q) s = .next (v.leavePiece t id 0 a p s.nextId) :=
    congrArg Host.Outcome.next (State.storeDrain_alone hhead hp hmay hreg)
  have hlocal (hpa : p.pa = none) : s.registers a.lv p (State.wholeWords a) = false := by rw [State.registers, hpa]
  refine ⟨fun m hop hpa => ⟨?_, ?_⟩, fun m hop hpa => ?_, fun hop hpa => ?_, fun pa hop hpa hreg => ?_,
    fun pa r hop hpa hreg hnew hwf hothers hroom => ⟨?_, fun _ k hk => ?_⟩⟩
  · rw [halone (hlocal hpa), State.leavePiece_tset v hp hop]
    rfl
  · exact State.setTags_ctx v (keyCtx t) m
  · rw [halone (hlocal hpa), State.leavePiece_tclr v hp hop]
    rfl
  · rw [halone (hlocal hpa), State.leavePiece_local v hp hop hpa]
    rfl
  · rw [halone hreg]
    exact congrArg Host.Outcome.next (State.leavePiece_sent (s := v) hp hop hpa hreg)
  · exact congrArg Host.Outcome.next
      (wholeWordStore_spec q s id a p pa r hhead hp hmay hop hpa hreg hnew hwf hothers hroom)
  · exact State.writeL1_word r _ _ _ _ hk

end Sys2Proof.Machine
end

section
/-! The current value of a word (R100–R104): what a forward, a revoked registration, a store at the home and an evicted line do to it. -/

namespace Sys2Proof.Machine

theorem l1Key_eq_iff {c d w k : Nat} (hw : w < 2 ^ 38) (hk : k < 2 ^ 38) : l1Key c k = l1Key d w ↔ c = d ∧ k = w := by
  unfold l1Key
  omega

theorem bytes_four (m : Memory) (a : Nat) : m.bytes a 4 = [m.get a, m.get (a + 1), m.get (a + 2), m.get (a + 3)] := rfl

theorem wordOf_leBytes (v : Word) : wordOf (leBytes 4 v.toNat) = v := by
  rw [wordOf, leNat_leBytes, Nat.mod_eq_of_lt (by exact v.isLt), BitVec.ofNat_toNat, BitVec.setWidth_eq]

/-- A place that some step of a fold sets, and no other step changes, is set at its end. -/
theorem foldl_sets {σ β γ : Type} {view : σ → γ} {f : σ → β → σ} {x : β} {g : γ} {Q : σ → Prop} {P : β → Prop}
    (hQ : ∀ u y, Q u → Q (f u y)) (hset : ∀ u, Q u → view (f u x) = g) (hkeep : ∀ u y, P y → y ≠ x → view (f u y) = view u)
    {l : List β} (hl : ∀ y ∈ l, P y) (s : σ) (hs : Q s) (h : x ∈ l ∨ view s = g) : view (l.foldl f s) = g := by
  induction l generalizing s with
  | nil => exact h.resolve_left List.not_mem_nil
  | cons y r ih =>
    refine ih (fun z hz => hl z (List.mem_cons_of_mem y hz)) (f s y) (hQ s y hs) ?_
    by_cases hy : y = x
    · exact .inr (hy ▸ hset s hs)
    · rw [hkeep s y (hl y List.mem_cons_self) hy]
      exact h.imp_left (fun hx => (List.mem_cons.1 hx).resolve_left (Ne.symm hy))

namespace State

theorem l1Word_set {s : State} {c d w k : Nat} (x : L1Word) (hw : w < 2 ^ 38) (hk : k < 2 ^ 38) :
    (s.setL1 d w x).l1Word c k = if c = d ∧ k = w then x else s.l1Word c k := by
  unfold l1Word setL1
  rw [Tab.get_set]
  simp only [l1Key_eq_iff hw hk]

/-- The current value of a word is its owner's, or memory's. -/
theorem wordVal_keeps {s t : State} {k : Nat} (howner : t.owner.get k = s.owner.get k) (hregns : t.regns = s.regns)
    (hmem : ∀ a, a / 4 = k → t.mem.get a = s.mem.get a) (hl1 : ∀ c, s.ownerOf k = some c → t.l1Word c k = s.l1Word c k) :
    t.wordVal k = s.wordVal k := by
  have hownerOf : t.ownerOf k = s.ownerOf k := by rw [ownerOf, ownerOf, howner]
  have hword : t.memWord k = s.memWord k := by
    rw [memWord, memWord, bytes_four, bytes_four, hmem _ (by omega), hmem _ (by omega), hmem _ (by omega), hmem _ (by omega)]
  unfold wordVal regnPending
  rw [hownerOf, hword, hregns]
  cases hc : s.ownerOf k with
  | none => rfl
  | some c =>
    dsimp only
    rw [hl1 c hc]

/-- The current value of a word that no core owns is memory's. -/
theorem wordVal_unowned {s : State} {w : Nat} (h : s.owner.get w = 0) : s.wordVal w = s.memWord w := by
  rw [wordVal, ownerOf, if_pos h]

theorem ownerOf_none {s : State} {w : Nat} (h : s.owner.get w = 0) : s.ownerOf w = none := by rw [ownerOf, if_pos h]

theorem forward_l1 (s : State) {c w k : Nat} (hw : w < 2 ^ 38) (hk : k < 2 ^ 38) (hne : k ≠ w) :
    (s.forward w).l1Word c k = s.l1Word c k := by
  unfold forward
  cases s.ownerOf w with
  | none => rfl
  | some d => exact (l1Word_set (s := s) _ hw hk).trans (if_neg (fun h => hne h.2))

theorem revoke_l1 (s : State) {c w k : Nat} (hw : w < 2 ^ 38) (hk : k < 2 ^ 38) (hne : k ≠ w) :
    (s.revoke w).l1Word c k = s.l1Word c k := by
  unfold revoke
  cases s.ownerOf w with
  | none => rfl
  | some d =>
    dsimp only
    split
    · rfl
    · exact (l1Word_set (s := s) _ hw hk).trans (if_neg (fun h => hne h.2))

theorem forward_poison (s : State) {w k : Nat} (hne : k ≠ w) : (s.forward w).poison.get k = s.poison.get k := by
  unfold forward
  cases s.ownerOf w with
  | none => rfl
  | some c =>
    dsimp only
    split
    · exact Tab.get_set_ne _ _ hne
    · rfl

theorem revoke_poison (s : State) (w : Nat) : (s.revoke w).poison = s.poison := by
  unfold revoke
  cases s.ownerOf w with
  | none => rfl
  | some c => dsimp only; split <;> rfl

theorem forward_regns (s : State) (w : Nat) : (s.forward w).regns = s.regns := shell_regns (forward_shell s w)

theorem revoke_regns (s : State) (w : Nat) : (s.revoke w).regns = s.regns := shell_regns (revoke_shell s w)

/-- The home has the value of a word that its owner has forwarded. -/
theorem forward_memWord (s : State) (w : Nat) : (s.forward w).memWord w = s.wordVal w := by
  by_cases h : s.owner.get w = 0
  · rw [wordVal_unowned h, forward, ownerOf_none h]
  · have howner : s.ownerOf w = some (s.owner.get w - 1) := if_neg h
    have hbytes := Memory.bytes_store s.mem (4 * w) (leBytes 4 (s.wordVal w).toNat)
    rw [leBytes_length] at hbytes
    rw [memWord, forward, howner]
    exact (congrArg wordOf hbytes).trans (wordOf_leBytes _)

/-- A forward changes no word's value. -/
theorem forward_wordVal (s : State) {w k : Nat} (hw : w < 2 ^ 38) (hk : k < 2 ^ 38) : (s.forward w).wordVal k = s.wordVal k := by
  by_cases hkw : k = w
  · subst hkw
    rw [wordVal_unowned ((forward_owner s k k).trans (if_pos rfl)), forward_memWord]
  · exact wordVal_keeps ((forward_owner s w k).trans (if_neg hkw)) (forward_regns s w) (fun a ha => forward_mem s w (ha ▸ hkw))
      (fun c _ => forward_l1 s hw hk hkw)

theorem revoke_wordVal (s : State) {w k : Nat} (hw : w < 2 ^ 38) (hk : k < 2 ^ 38) (hkw : k ≠ w) :
    (s.revoke w).wordVal k = s.wordVal k :=
  wordVal_keeps ((revoke_owner s w k).trans (if_neg hkw)) (revoke_regns s w) (fun a _ => by rw [revoke_mem])
    (fun c _ => revoke_l1 s hw hk hkw)

/-- What becomes of a word before the bytes of a store are written: a word of which all bytes are stored is revoked, another is
forwarded. -/
def clearWord (pa n : Nat) (s : State) (w : Nat) : State :=
  if pa ≤ 4 * w ∧ 4 * w + 4 ≤ pa + n then { s.revoke w with poison := (s.revoke w).poison.set w false } else s.forward w

theorem homeStoreRaw_eq (s : State) (pa : Nat) (bs : List Byte) :
    s.homeStoreRaw pa bs = { (wordsOf pa bs.length).foldl (clearWord pa bs.length) s with
      mem := ((wordsOf pa bs.length).foldl (clearWord pa bs.length) s).mem.store pa bs } := rfl

/-- A word that a store does not write whole keeps its value until the bytes are written. -/
theorem clearWord_wordVal (s : State) {pa n w k : Nat} (hw : w < 2 ^ 38) (hk : k < 2 ^ 38) (hpart : ¬(pa ≤ 4 * k ∧ 4 * k + 4 ≤ pa + n)) :
    (s.clearWord pa n w).wordVal k = s.wordVal k := by
  unfold clearWord
  split
  · next hwhole => exact revoke_wordVal s hw hk (fun h => hpart (h ▸ hwhole))
  · exact forward_wordVal s hw hk

theorem clearWords_wordVal (s : State) {pa n k : Nat} (hn : pa + n ≤ 2 ^ 40) (hk : k < 2 ^ 38)
    (hpart : ¬(pa ≤ 4 * k ∧ 4 * k + 4 ≤ pa + n)) : ((wordsOf pa n).foldl (clearWord pa n) s).wordVal k = s.wordVal k := by
  refine List.foldlRecOn (motive := fun u : State => u.wordVal k = s.wordVal k) (wordsOf pa n) (clearWord pa n) rfl
    (fun u hu w hw => ?_)
  obtain ⟨_, _, hlt⟩ := mem_wordsOf.1 hw
  rw [clearWord_wordVal u (by omega) hk hpart, hu]

theorem homeLoad_one (s : State) (a : Nat) : s.homeLoad a 1 = [byteOf (s.wordVal (a / 4)) (a % 4)] := rfl

/-- A byte of a word's value is memory's own where no core's value of the word counts. -/
theorem byteOf_memWord (s : State) (a : Nat) : byteOf (s.memWord (a / 4)) (a % 4) = s.mem.get a := by
  have hlt : a % 4 < 4 := Nat.mod_lt _ (by decide)
  rw [memWord, byteOf_wordOf (Memory.length_bytes _ _ _) hlt, Memory.getD_bytes _ _ _ _ hlt, Nat.div_add_mod]

/-- Bytes of memory that a store leaves stand in the words' values as before. -/
theorem byteOf_wordVal_store (s : State) {pa a : Nat} {bs : List Byte} (h : a < pa ∨ pa + bs.length ≤ a) :
    byteOf (State.wordVal { s with mem := s.mem.store pa bs } (a / 4)) (a % 4) = byteOf (s.wordVal (a / 4)) (a % 4) := by
  have hmem : byteOf (State.memWord { s with mem := s.mem.store pa bs } (a / 4)) (a % 4) = byteOf (s.memWord (a / 4)) (a % 4) := by
    rw [byteOf_memWord, byteOf_memWord]
    exact Memory.get_store_outside _ _ _ _ h
  show byteOf (match s.ownerOf (a / 4) with
    | some c => if s.regnPending c (a / 4) then State.memWord { s with mem := s.mem.store pa bs } (a / 4) else (s.l1Word c (a / 4)).value
    | none => State.memWord { s with mem := s.mem.store pa bs } (a / 4)) (a % 4) = _
  unfold wordVal
  cases s.ownerOf (a / 4) with
  | none => exact hmem
  | some c =>
    dsimp only
    split
    · exact hmem
    · rfl

theorem homeStoreRaw_loads (s : State) (pa : Nat) (bs : List Byte) : (s.homeStoreRaw pa bs).homeLoad pa bs.length = bs := by
  rw [homeLoad_unowned, homeStoreRaw_eq]
  · exact Memory.bytes_store _ _ _
  · intro i hi
    rw [homeStoreRaw_owner, if_pos (mem_wordsOf.2 ⟨by omega, by omega, by omega⟩)]

theorem homeStoreRaw_keepsByte (s : State) {pa a : Nat} {bs : List Byte} (hn : pa + bs.length ≤ 2 ^ 40) (ha : a < 2 ^ 40)
    (h : a < pa ∨ pa + bs.length ≤ a) : (s.homeStoreRaw pa bs).homeLoad a 1 = s.homeLoad a 1 := by
  rw [homeLoad_one, homeLoad_one, homeStoreRaw_eq, byteOf_wordVal_store _ h, clearWords_wordVal s hn (by omega) (by omega)]

theorem homeStoreRaw_cleared (s : State) {pa w : Nat} {bs : List Byte} (hw : w ∈ wordsOf pa bs.length)
    (hwhole : pa ≤ 4 * w ∧ 4 * w + 4 ≤ pa + bs.length) :
    (s.homeStoreRaw pa bs).ownerOf w = none ∧ (s.homeStoreRaw pa bs).poison.get w = false := by
  refine ⟨ownerOf_none ((homeStoreRaw_owner s pa bs w).trans (if_pos hw)), ?_⟩
  refine foldl_sets (view := fun u : State => u.poison.get w) (f := clearWord pa bs.length) (x := w)
    (Q := fun _ => True) (P := fun _ => True)
    (fun _ _ _ => trivial) (fun u _ => ?_) (fun u y _ hy => ?_) (fun _ _ => trivial) s trivial (.inl hw)
  · rw [clearWord, if_pos hwhole]
    exact Tab.get_set_self _ _ _
  · unfold clearWord
    split
    · exact (Tab.get_set_ne _ _ (Ne.symm hy)).trans (by rw [revoke_poison])
    · exact forward_poison u (Ne.symm hy)

/-! A line that leaves an L1. -/

/-- A word leaves an L1, forwarded where the core owns it; not while a registration of it is on its way. -/
def evictWord (core : Nat) (s : State) (w : Nat) : State :=
  if s.regnPending core w then s else (if s.ownerOf w == some core then s.forward w else s).setL1 core w {}

theorem evictLine_eq (s : State) (core line : Nat) :
    s.evictLine core line = ((List.range 32).map (· + line * 32)).foldl (evictWord core) s := rfl

section
variable {core : Nat} (s : State) {w k : Nat}

theorem evictWord_regns : (evictWord core s w).regns = s.regns := by
  unfold evictWord
  split
  · rfl
  · show (if s.ownerOf w == some core then s.forward w else s).regns = s.regns
    split
    · exact forward_regns s w
    · rfl

theorem evictWord_l1_self (hw : w < 2 ^ 38) (h : s.regnPending core w = false) : (evictWord core s w).l1Word core w = {} := by
  rw [evictWord, h]
  exact (l1Word_set _ hw hw).trans (if_pos ⟨rfl, rfl⟩)

theorem evictWord_l1_ne (hw : w < 2 ^ 38) (hk : k < 2 ^ 38) (hne : k ≠ w) {c : Nat} :
    (evictWord core s w).l1Word c k = s.l1Word c k := by
  unfold evictWord
  split
  · rfl
  · refine (l1Word_set _ hw hk).trans ((if_neg (fun h => hne h.2)).trans ?_)
    split
    · exact forward_l1 s hw hk hne
    · rfl

theorem evictWord_owner_ne (hne : k ≠ w) : (evictWord core s w).owner.get k = s.owner.get k := by
  unfold evictWord
  split
  · rfl
  · show (if s.ownerOf w == some core then s.forward w else s).owner.get k = s.owner.get k
    split
    · exact (forward_owner s w k).trans (if_neg hne)
    · rfl

/-- A core does not own a word that it has evicted. -/
theorem evictWord_owner_self (h : s.regnPending core w = false) : ((evictWord core s w).ownerOf w == some core) = false := by
  rw [evictWord, h]
  show ((if s.ownerOf w == some core then s.forward w else s).ownerOf w == some core) = false
  split
  · rw [ownerOf_none ((forward_owner s w w).trans (if_pos rfl))]
    rfl
  · next hother => exact Bool.eq_false_of_not_eq_true hother

/-- A copy that its core does not own counts for nothing. -/
theorem setL1_wordVal (hw : w < 2 ^ 38) (hk : k < 2 ^ 38) (howner : s.ownerOf w ≠ some core) (x : L1Word) :
    (s.setL1 core w x).wordVal k = s.wordVal k :=
  wordVal_keeps rfl rfl (fun _ _ => rfl) (fun _ hc =>
    (l1Word_set _ hw hk).trans (if_neg (fun ⟨hcore, hkw⟩ => howner (hcore ▸ hkw ▸ hc))))

/-- A word that is evicted keeps its value, and so does every other. -/
theorem evictWord_wordVal (hw : w < 2 ^ 38) (hk : k < 2 ^ 38) : (evictWord core s w).wordVal k = s.wordVal k := by
  unfold evictWord
  split
  · rfl
  · split
    · have hnone : (s.forward w).ownerOf w = none := ownerOf_none ((forward_owner s w w).trans (if_pos rfl))
      rw [setL1_wordVal _ hw hk (by simp [hnone]), forward_wordVal s hw hk]
    · next hother => exact setL1_wordVal s hw hk (mt beq_iff_eq.2 hother) _

end

theorem mem_line {line w : Nat} : w ∈ (List.range 32).map (· + line * 32) ↔ w / 32 = line := by
  rw [List.mem_map]
  constructor
  · rintro ⟨i, hi, rfl⟩
    have hlt := List.mem_range.1 hi
    omega
  · intro h
    exact ⟨w % 32, List.mem_range.2 (Nat.mod_lt _ (by decide)), by omega⟩

section
variable {s : State} {core line : Nat} (hline : line < 2 ^ 33)
include hline

theorem line_lt {w : Nat} (h : w / 32 = line) : w < 2 ^ 38 := by omega

theorem evictLine_wordVal {w : Nat} (hw : w / 32 = line) : (s.evictLine core line).wordVal w = s.wordVal w := by
  rw [evictLine_eq]
  refine List.foldlRecOn (motive := fun u : State => u.wordVal w = s.wordVal w) _ (evictWord core) rfl (fun u hu y hy => ?_)
  rw [evictWord_wordVal u (line_lt hline (mem_line.1 hy)) (line_lt hline hw), hu]

/-- Once a line has left an L1, its words are not valid there, and its core owns none of them. -/
theorem evictLine_gone (hregn : ∀ w, w / 32 = line → s.regnPending core w = false) {w : Nat} (hw : w / 32 = line) :
    (s.evictLine core line).l1Word core w = {} ∧ (s.evictLine core line).ownerOf w ≠ some core := by
  have hmem := mem_line.2 hw
  have hpending (u : State) (hu : u.regns = s.regns) : u.regnPending core w = false := by
    rw [← hregn w hw, regnPending, regnPending, hu]
  have hregns (u : State) (y : Nat) (hu : u.regns = s.regns) : (evictWord core u y).regns = s.regns := (evictWord_regns u).trans hu
  have hlt : ∀ y ∈ (List.range 32).map (· + line * 32), y < 2 ^ 38 := fun y hy => line_lt hline (mem_line.1 hy)
  rw [evictLine_eq]
  constructor
  · exact foldl_sets (view := fun u : State => u.l1Word core w) hregns (fun u hu => evictWord_l1_self u (line_lt hline hw) (hpending u hu))
      (fun u y hy hne => evictWord_l1_ne u hy (line_lt hline hw) (Ne.symm hne)) hlt s rfl (.inl hmem)
  · refine (beq_eq_false_iff_ne ..).1 (foldl_sets (view := fun u : State => u.ownerOf w == some core) hregns
      (fun u hu => evictWord_owner_self u (hpending u hu)) (fun u y _ hne => ?_) hlt s rfl (.inl hmem))
    simp only [ownerOf, evictWord_owner_ne u (Ne.symm hne)]

end

end State

/-- R100–R104: the bytes that a store at the home changes. -/
theorem homeStoresTheirBytes : Parts.HomeStoresTheirBytes := fun s pa bs hn =>
  ⟨s.homeStoreRaw_loads pa bs, fun _ ha h => s.homeStoreRaw_keepsByte hn ha h,
    fun w a hw ha => by rw [State.homeLoad_one, State.homeLoad_one, State.forward_wordVal s hw (by omega)],
    fun _ hw hlow hhigh => s.homeStoreRaw_cleared hw ⟨hlow, hhigh⟩⟩

/-- L1_EVICT_WRITEBACK of a line of which no registration is on its way. -/
theorem lineEvicted (core line : Nat) (s : State) (hline : line < 2 ^ 33) (hregn : ∀ w, w / 32 = line → s.regnPending core w = false) :
    Gives (.l1EvictWriteback core line) s (fun t =>
      (∀ w, w / 32 = line → t.l1Word core w = {} ∧ t.ownerOf w ≠ some core ∧ t.wordVal w = s.wordVal w) ∧
      t.threads = s.threads ∧ t.accs = s.accs ∧ t.regns = s.regns) := by
  have hshell := State.evictLine_shell s core line
  have hthreads : (s.evictLine core line).threads = s.threads := State.shell_threads hshell
  have haccs : (s.evictLine core line).accs = s.accs := State.shell_accs hshell
  have hregns : (s.evictLine core line).regns = s.regns := State.shell_regns hshell
  refine ⟨s.evictLine core line, rfl, fun w hw => ?_, hthreads, haccs, hregns⟩
  obtain ⟨hl1, howner⟩ := State.evictLine_gone hline hregn hw
  exact ⟨hl1, howner, State.evictLine_wordVal hline hw⟩

end Sys2Proof.Machine
end

section
/-! REGISTRATION_ACCEPT: the home accepts a registration (R103). -/

namespace Sys2Proof.Machine
namespace State

/-- The home takes the registration of a word that no other core owns: the word has a new owner, or is stored in a shared range. -/
def registerWord (r : Regn) (s : State) (w : Nat) : State :=
  if s.shared (4 * w) then
    { s with mem := s.mem.store (4 * w) (leBytes 4 (r.vals.get w).toNat), poison := s.poison.set w r.bad,
             l1 := s.l1.set (l1Key r.core w) {} }
  else
    let s := if s.regnPending r.core w then { s with mem := s.mem.store (4 * w) (leBytes 4 (r.vals.get w).toNat) } else s
    { s with owner := s.owner.set w (r.core + 1), poison := s.poison.set w r.bad }

/-- The home accepts the registration of a word, which another owner loses. -/
def acceptWord (r : Regn) (s : State) (w : Nat) : State := registerWord r (if s.elsewhere r.core w then s.revoke w else s) w

/-- A store that a registration covers is performed. -/
def coverDone (reply : Nat) (s : State) (c : Nat × Nat) : State :=
  match s.accs.get c.1 with
  | none => s
  | some a => match a.pieces[c.2]? with
    | none => s
    | some p => s.setAcc c.1 (some { a with pieces := setPiece a.pieces c.2 { p with st := .done, reply := reply } })

section
variable (r : Regn) (s : State) {w k : Nat}

theorem registerWord_shell : (registerWord r s w).shell = s.shell := by
  unfold registerWord
  dsimp only
  split
  · rfl
  · split <;> rfl

theorem registerWord_self (h : s.shared (4 * w) = false) :
    (registerWord r s w).owner.get w = r.core + 1 ∧ (registerWord r s w).poison.get w = r.bad := by
  rw [registerWord, h]
  exact ⟨Tab.get_set_self _ _ _, Tab.get_set_self _ _ _⟩

theorem registerWord_ne (hne : k ≠ w) :
    (registerWord r s w).owner.get k = s.owner.get k ∧ (registerWord r s w).poison.get k = s.poison.get k := by
  unfold registerWord
  dsimp only
  split
  · exact ⟨rfl, Tab.get_set_ne _ _ hne⟩
  · split <;> exact ⟨Tab.get_set_ne _ _ hne, Tab.get_set_ne _ _ hne⟩

theorem acceptWord_shell : (acceptWord r s w).shell = s.shell := by
  unfold acceptWord
  split
  · rw [registerWord_shell, revoke_shell]
  · rw [registerWord_shell]

theorem acceptWord_self (h : s.shared (4 * w) = false) :
    (acceptWord r s w).owner.get w = r.core + 1 ∧ (acceptWord r s w).poison.get w = r.bad := by
  unfold acceptWord
  split
  · refine registerWord_self r (s.revoke w) ?_
    rw [← h, shared, shared, shell_xshr (revoke_shell s w)]
  · exact registerWord_self r s h

theorem acceptWord_ne (hne : k ≠ w) :
    (acceptWord r s w).owner.get k = s.owner.get k ∧ (acceptWord r s w).poison.get k = s.poison.get k := by
  unfold acceptWord
  split
  · obtain ⟨howner, hpoison⟩ := registerWord_ne r (s.revoke w) hne
    rw [howner, hpoison, revoke_owner, if_neg hne, revoke_poison]
    exact ⟨rfl, rfl⟩
  · exact registerWord_ne r s hne

/-- The words that a registration names, once the home has accepted it. -/
theorem acceptWords_spec (hshared : ∀ w ∈ r.words, s.shared (4 * w) = false) (hw : w ∈ r.words) :
    (r.words.foldl (acceptWord r) s).owner.get w = r.core + 1 ∧ (r.words.foldl (acceptWord r) s).poison.get w = r.bad := by
  refine Prod.ext_iff.1 (foldl_sets (view := fun u : State => (u.owner.get w, u.poison.get w)) (g := (r.core + 1, r.bad))
    (Q := fun u => u.xshr = s.xshr) (P := fun _ => True) (fun u y hu => (shell_xshr (acceptWord_shell r u)).trans hu) (fun u hu => ?_)
    (fun u y _ hne => Prod.ext_iff.2 (acceptWord_ne r u (Ne.symm hne))) (fun _ _ => trivial) s rfl (.inl hw))
  have hsame : u.shared (4 * w) = false := by rw [← hshared w hw, shared, shared, hu]
  exact Prod.ext_iff.2 (acceptWord_self r u hsame)

/-- Covered stores change the accesses alone. -/
theorem coverDone_eq (n : Nat) (c : Nat × Nat) : ∃ accs, coverDone n s c = { s with accs := accs } := by
  unfold coverDone
  split
  · exact ⟨_, rfl⟩
  · split
    · exact ⟨_, rfl⟩
    · exact ⟨_, rfl⟩

theorem coversDone_eq (n : Nat) (l : List (Nat × Nat)) : ∃ accs, l.foldl (coverDone n) s = { s with accs := accs } := by
  induction l generalizing s with
  | nil => exact ⟨_, rfl⟩
  | cons c l ih =>
    obtain ⟨x, hx⟩ := coverDone_eq s n c
    obtain ⟨y, hy⟩ := ih (coverDone n s c)
    exact ⟨y, by rw [List.foldl_cons, hy, hx]⟩

end

/-- What of a state a registration is accepted by, and no use of a line, no epoch and no capture changes. -/
def ranges (s : State) : Tab Thread × Memory × Tab (Nat × Nat) := (s.threads, s.lane, s.xshr)

theorem ranges_of_shell {s t : State} (h : t.shell = s.shell) : t.ranges = s.ranges :=
  congrArg (fun x => (x.1.threads, x.1.lane, x.1.xshr)) h

theorem acceptWords_shell (r : Regn) (s : State) : (r.words.foldl (acceptWord r) s).shell = s.shell :=
  foldl_keeps shell _ (fun u _ => acceptWord_shell r u) _ s

/-- A registration that may pass is accepted a word at a time. -/
theorem acceptRegn_eq {s : State} {id : Nat} {r : Regn} (hr : s.regns.get id = some r) (hsent : s.sentBefore r.core r.block id = false)
    (hbarred : s.barred id = false) (hport : s.portWaits (coreDie r.core) (r.block * 256) = false) (hcap : s.captureHeld r.words = false)
    (hlost : s.homeLost r.core (r.block * 256) = false) :
    ∃ v n, v.ranges = s.ranges ∧ v.regns = s.regns.set id none ∧
      s.acceptRegn id = r.covers.foldl (coverDone n) (r.words.foldl (acceptWord r) v) := by
  have hlines (own : Option Nat) (ws : List Nat) :
      (ws.foldl (fun s w => s.useLine (coreDie r.core) (4 * w) own false true) s).ranges = s.ranges :=
    ranges_of_shell (foldl_keeps shell _ (fun u _ => useLine_shell u _ _ _ _ _) ws s)
  have hcapture (u : State) : (u.capture r.words).ranges = u.ranges := ranges_of_shell (captureBy_shell homeStore_shell u r.words)
  unfold acceptRegn
  rw [hr]
  dsimp only
  rw [hsent, hbarred, hport, hcap, hlost]
  refine ⟨_, _, ?_, ?_, rfl⟩
  · exact (hcapture _).trans (hlines _ _)
  · rfl

end State

/-- REGISTRATION_ACCEPT of a registration that may pass. -/
theorem registrationAccepted (id : Nat) (s : State) (r : Regn) (hr : s.regns.get id = some r)
    (hpass : MayPass (rested s) r.core (r.block * 256) id id) (hlost : (rested s).homeLost r.core (r.block * 256) = false)
    (hcap : (rested s).captureHeld r.words = false) (hshared : ∀ w ∈ r.words, s.shared (4 * w) = false)
    (hbudget : HasBudget s ((rested s).acceptRegn id) (coreDie r.core) 0 (r.core % 56) id) :
    Gives (.registrationAccept id) s (fun t => t.regns.get id = none ∧
      (∀ w ∈ r.words, t.owner.get w = r.core + 1 ∧ t.poison.get w = r.bad) ∧ t.threads = s.threads ∧ t.lane = s.lane) := by
  obtain ⟨hbarred, hport, hsent⟩ := hpass
  rw [Nat.mul_div_cancel _ (by decide)] at hsent
  obtain ⟨v, n, hranges, hregns, heq⟩ := State.acceptRegn_eq (s := rested s) hr hsent hbarred hport hcap hlost
  obtain ⟨accs, hcovers⟩ := State.coversDone_eq (r.words.foldl (State.acceptWord r) v) n r.covers
  have hshell := State.acceptWords_shell r v
  have hranges' := (State.ranges_of_shell hshell).trans hranges
  have hregn : ((rested s).acceptRegn id).regns.get id = none := by
    rw [heq, hcovers]
    exact (congrArg (fun t => t.get id) ((State.shell_regns hshell).trans hregns)).trans (Tab.get_set_self _ _ _)
  have hshared' (w : Nat) (hw : w ∈ r.words) : v.shared (4 * w) = false := by
    rw [← hshared w hw, State.shared, State.shared, show v.xshr = s.xshr from congrArg (fun x => x.2.2) hranges]
  refine gives_injected (k := fun u => u.acceptRegn id) (moved := fun t => (t.regns.get id).isNone) (die := coreDie r.core) (cls := 0)
    (stop := r.core % 56) (id := id) ?_ ?_ hbudget (fun ds => ⟨hregn, fun w hw => ?_, ?_, ?_⟩)
  · show Host.Outcome.next (match s.regns.get id with | some r => _ | none => s) = _
    rw [hr]
  · rw [hregn]
    rfl
  · show ((rested s).acceptRegn id).owner.get w = _ ∧ ((rested s).acceptRegn id).poison.get w = _
    rw [heq, hcovers]
    exact State.acceptWords_spec r v hshared' hw
  · show ((rested s).acceptRegn id).threads = s.threads
    rw [heq, hcovers]
    exact congrArg (fun x => x.1) hranges'
  · show ((rested s).acceptRegn id).lane = s.lane
    rw [heq, hcovers]
    exact congrArg (fun x => x.2.1) hranges'

end Sys2Proof.Machine
end

section
/-! HOME_REQUEST and FORWARD_AT_OWNER: an access of one piece is performed at its place (R102–R104, R113, R311, R312). -/

namespace Sys2Proof.Machine
namespace State

/-- Nothing of an access without a fault is committed before it completes. -/
theorem commitPart_whole {s : State} {id : Nat} {a : Access} (ha : s.accs.get id = some a) (hfault : faulted a = false) :
    s.commitPart id = s := by
  unfold commitPart
  rw [ha]
  dsimp only
  rw [if_pos (by simp [hfault])]

section
variable {u v : State} {id : Nat} {a : Access} {p q : Piece} (ha : u.accs.get id = some a) (hp : a.pieces = [p])
include ha hp

theorem accWaits_one (h : ∀ pa, p.pa = some pa → u.portWaits (coreDie a.core) pa = false) : u.accWaits id = false := by
  unfold accWaits
  rw [ha]
  dsimp only
  rw [hp, List.any_cons, List.any_nil, Bool.or_false]
  cases hpa : p.pa with
  | none => exact Bool.and_false _
  | some pa =>
    dsimp only
    rw [h pa hpa, Bool.and_false]

section
variable (hbarred : u.barred id = false) (hwaits : u.accWaits id = false)
include hbarred hwaits

theorem performNext_load (hop : a.op = .load) (hst : p.st = .queued) :
    u.performNext id = (u.performLoad a.thr id 0 a p).commitPart id := by
  unfold performNext
  rw [hbarred, hwaits]
  simp only [Bool.or_false, Bool.false_eq_true, if_false, ha, hop, hp]
  rw [firstPiece_one (by rw [hst])]
  simp only [List.getElem?_cons_zero, hst, if_true]

theorem performNext_atomic (hop : a.op.isLoad = true ∧ a.op ≠ .load) (hst : p.st = .queued) :
    u.performNext id = u.performAtomic a.thr id 0 a p := by
  obtain ⟨hload, hne⟩ := hop
  unfold performNext
  rw [hbarred, hwaits]
  simp only [Bool.or_false, Bool.false_eq_true, if_false, ha, hp, List.getElem?_cons_zero, hst, if_true]
  cases hop : a.op with
  | load => exact absurd hop hne
  | rmw => rfl
  | cas => rfl
  | _ => rw [hop] at hload; cases hload

theorem performNext_store {pa k : Nat} (hop : a.op = .store) (hpa : p.pa = some pa) (hst : p.st = .sent k) (hregn : u.regns.get k = none)
    (hsent : u.sentBefore a.core (pa / 256) k = false) (hgood : p.poisoned = false) (hlost : u.homeLost a.core pa = false)
    (hphys : u.storePhys a.core pa a.epoch p.data = some v) :
    u.performNext id = (v.usesLines a.thr a.core pa p.len (u.levelOf a p) true).pieceHome id 0 a p p.data false := by
  have hfirst : firstPiece [p] u.goesHome = some 0 := firstPiece_one (by simp [goesHome, hst, hregn])
  have hclean (w : State) : (wordsOf pa p.len).foldl (fun s _ => s) w = w := foldl_keeps (fun x : State => x) _ (fun _ _ => rfl) _ w
  unfold performNext
  rw [hbarred, hwaits]
  simp only [Bool.or_false, Bool.false_eq_true, if_false, ha, hop, hp, hfirst, List.getElem?_cons_zero, hpa, hst, hsent, hphys,
    hlost, hgood, hclean]

end

end

/-! A load and an atomic in the order of their thread. -/

section
variable {u : State} {id pa : Nat} {a : Access} {p : Piece} (hbar : u.gleanerBars a.thr a.core p = false)
  (hbehind : u.heldBehind a.thr id = false) (hfixed : u.loadsFixed a.thr id = true)
include hbar hbehind hfixed

theorem inTurn_now : (u.gleanerBars a.thr a.core p || !u.inTurn a.thr id p) = false := by
  rw [hbar, inTurn, hbehind, if_neg (by decide), hfixed]
  rfl

theorem performLoad_bytes {bs : List Byte} (hown : u.ownStores a.thr id p = .bytes bs) :
    u.performLoad a.thr id 0 a p = u.pieceDone id 0 a p bs false 0 := by
  rw [performLoad, if_neg (Bool.eq_false_iff.1 (inTurn_now hbar hbehind hfixed)), hown]

theorem performLoad_local (hown : u.ownStores a.thr id p = .nothing) (hpa : p.pa = none) : u.performLoad a.thr id 0 a p =
    (u.takeEpoch a.core p.place).pieceDone id 0 a p (u.getLocal (keyCtx a.thr) p.place p.len) (u.localPoison p.place p.len) 0 := by
  rw [performLoad, if_neg (Bool.eq_false_iff.1 (inTurn_now hbar hbehind hfixed)), hown]
  dsimp only
  rw [hpa]

theorem performLoad_home (hown : u.ownStores a.thr id p = .nothing) (hpa : p.pa = some pa) (hshared : u.shared pa = false)
    (hlv : a.lv = .l2) (hsent : u.sentBefore a.core (pa / 256) u.nextId = false)
    (hhere : ∀ w ∈ wordsOf pa p.len, u.elsewhere a.core w = false) (hlost : u.homeLost a.core pa = false) :
    u.performLoad a.thr id 0 a p = ((u.tellEpoch a.core (coreDie a.core) pa).usesLines a.thr a.core pa p.len .l2 false).pieceHome id 0 a p
      (u.homeLoad pa p.len) (u.poisonedAt pa p.len) := by
  have hlevel : u.levelOf a p = .l2 := by simp [levelOf, hpa, hshared, hlv]
  have hany : (wordsOf pa p.len).any (u.elsewhere a.core) = false := List.any_eq_false.2 (fun w hw => by simp [hhere w hw])
  have hphys : u.loadPhys a.thr a.core pa p.len .l2 =
      some (u.tellEpoch a.core (coreDie a.core) pa, u.homeLoad pa p.len, u.poisonedAt pa p.len) := by
    unfold loadPhys
    simp [hshared, hsent, hany, hlost]
  rw [performLoad, if_neg (Bool.eq_false_iff.1 (inTurn_now hbar hbehind hfixed)), hown]
  dsimp only
  rw [hpa]
  dsimp only
  rw [hlevel, hphys]
  dsimp only
  rw [hlost]
  rfl

/-- An atomic at a good home computes from the word there, and stores what it writes. -/
theorem performAtomic_home (hown : u.ownPending a.thr id p = false) (hpa : p.pa = some pa)
    (hsent : u.sentBefore a.core (pa / 256) u.nextId = false) (hhere : u.elsewhere a.core (pa / 4) = false)
    (hgood : u.poisonedAt pa 4 = false) (hlost : u.homeLost a.core pa = false) : u.performAtomic a.thr id 0 a p =
      match a.op.writes (wordOf (u.homeLoad pa 4)) with
      | none => ((u.usesLines a.thr a.core pa 4 (u.levelOf a p) false).tellEpoch a.core (coreDie a.core) pa).pieceHome id 0 a p
          (u.homeLoad pa 4) false
      | some new =>
        match u.storePhys a.core pa (u.seen.get a.core) (leBytes 4 new.toNat) with
        | none => u
        | some v => (v.usesLines a.thr a.core pa 4 (u.levelOf a p) true).pieceHome id 0 a p (u.homeLoad pa 4) false := by
  have hturn := inTurn_now hbar hbehind hfixed
  unfold performAtomic
  rw [hturn, hown, hpa]
  dsimp only
  rw [hsent, hhere, hgood, hlost]
  rfl

end

theorem pieceDone_one (s : State) {id : Nat} {a : Access} {p : Piece} (hp : a.pieces = [p]) (bs : List Byte) (bad : Bool) (reply : Nat) :
    s.pieceDone id 0 a p bs bad reply =
      s.setAcc id (some { a with pieces := [{ p with st := .done, data := bs, poisoned := bad || p.poisoned, reply := reply }] }) := by
  rw [pieceDone, hp]
  rfl

theorem commitPart_done (v : State) {id : Nat} {a : Access} {q : Piece} (hq : q.st = .done) :
    (v.setAcc id (some { a with pieces := [q] })).commitPart id = v.setAcc id (some { a with pieces := [q] }) :=
  commitPart_whole (Tab.get_set_self _ _ _) (by simp [faulted, hq])

/-- The flit of an access that has been performed is gone. -/
theorem homeRequest_performed {u v : State} {id : Nat} {b : Access} (hperf : u.performNext id = v.setAcc id (some b))
    (hne : u.accs.get id ≠ some b) : u.homeRequest id = { v with accs := v.accs.set id (some b), flits := v.flits.set id {} } := by
  have hget : (v.setAcc id (some b)).accs.get id = some b := Tab.get_set_self _ _ _
  rw [homeRequest, hperf, hget, if_neg (fun h => hne (beq_iff_eq.1 h).symm)]
  rfl

end State

section
variable {s v : State} {id : Nat} {a : Access} {p q : Piece} (ha : s.accs.get id = some a) (hp : a.pieces = [p]) (hst : p.st ≠ .done)
  (hq : q.st = .done)
include ha hp hst hq

theorem performed_ne : (rested s).accs.get id ≠ some { a with pieces := [q] } := by
  rw [show (rested s).accs = s.accs from rfl, ha]
  intro h
  have hpieces : [p] = [q] := hp.symm.trans (congrArg Access.pieces (Option.some.inj h))
  exact hst ((congrArg Piece.st (List.cons.inj hpieces).1).trans hq)

section
variable (hperf : (rested s).performNext id = v.setAcc id (some { a with pieces := [q] }))
include hperf

/-- An access to a local level is performed; its step injects nothing. -/
theorem homeRequest_here (hpa : p.pa = none) : exec (.homeRequest id) s =
    .next { v with accs := v.accs.set id (some { a with pieces := [q] }), flits := v.flits.set id {} } := by
  have hany : a.pieces.any (fun p => !p.isDone && p.pa.isSome) = false := by simp [hp, hpa]
  have hend := State.homeRequest_performed hperf (performed_ne ha hp hst hq)
  show Host.Outcome.next (match s.accs.get id with | some a => _ | none => s) = _
  rw [ha]
  show Host.Outcome.next (if !(_ && a.pieces.any _) then (rested s).homeRequest id else _) = _
  rw [hany, Bool.and_false, hend]
  rfl

/-- An access at its home is performed; its reply is injected. -/
theorem homeRequest_goes {pa : Nat} (hpa : p.pa = some pa) : Injects (.homeRequest id) s
    { v with accs := v.accs.set id (some { a with pieces := [q] }), flits := v.flits.set id {} } (coreDie a.core) 0 (a.core % 56) id := by
  have hany : a.pieces.any (fun p => !p.isDone && p.pa.isSome) = true := by simp [hp, hpa, Piece.isDone, hst]
  have hne := performed_ne ha hp hst hq
  have hend := State.homeRequest_performed hperf hne
  intro hbudget
  rw [← hend] at hbudget ⊢
  refine Eq.trans ?_ (congrArg Host.Outcome.next (inject_moved (k := fun u => u.homeRequest id)
    (moved := fun t => t.accs.get id != s.accs.get id && a.pieces.any (fun p => !p.isDone && p.pa.isSome)) ?_ hbudget))
  · show Host.Outcome.next (match s.accs.get id with | some a => _ | none => s) = _
    rw [ha]
  · rw [hany, Bool.and_true, hend]
    exact bne_iff_ne.2 (fun h => hne (h.symm.trans (Tab.get_set_self _ _ _)))

end
end

/-- A word that another core needs is forwarded by its owner (R104). -/
theorem wordForwarded (id : Nat) (s : State) (a : Access) (p : Piece) (pa w c : Nat) (ha : s.accs.get id = some a) (hp : a.pieces = [p])
    (hst : p.st = .queued ∨ ∃ k, p.st = .sent k) (hpa : p.pa = some pa) (hw : wordsOf pa p.len = [w]) (howner : s.ownerOf w = some c)
    (hc : c ≠ a.core) : exec (.forwardAtOwner id) s = .next { s with
      mem := s.mem.store (4 * w) (leBytes 4 (s.wordVal w).toNat), owner := s.owner.set w 0,
      poison := if (s.l1Word c w).bad then s.poison.set w true else s.poison
      l1 := s.l1.set (l1Key c w) { s.l1Word c w with reg := s.regnPending c w } } := by
  have hother : s.elsewhere a.core w = true := by simp [State.elsewhere, howner, hc]
  have hforward : s.forwardFor id = s.forward w := by
    obtain hst | ⟨k, hst⟩ := hst <;> simp [State.forwardFor, ha, hp, hst, hpa, hw, hother]
  refine congrArg Host.Outcome.next (hforward.trans ?_)
  rw [State.forward, howner]

/-- R100–R104, R112, R144, R221: a registration, an access of one piece by its kind, a forward and an evicted line. -/
theorem theHomePerforms : Parts.TheHomePerforms := by
  refine ⟨registrationAccepted, fun id s a p ha hp => ?_, wordForwarded, lineEvicted⟩
  intro u put here goes hbar
  have hua : u.accs.get id = some a := ha
  have hlocal (hpa : p.pa = none) : u.accWaits id = false := State.accWaits_one hua hp (fun pa h => by simp [hpa] at h)
  have hhome {pa : Nat} (hpa : p.pa = some pa) (hport : u.portWaits (coreDie a.core) pa = false) : u.accWaits id = false :=
    State.accWaits_one hua hp (fun x h => (Option.some.inj (hpa.symm.trans h)) ▸ hport)
  refine ⟨fun hop hst hbarred hbehind hfixed => ?_, fun pa k v hop hpa hst hregn hpass hgood hlost hphys => ?_,
    fun pa old hop hpa hst hpass hfixed hbehind hhere hown hgood hlost hclean hold => ?_⟩
  · have hopen : p.st ≠ .done := by simp [hst]
    refine ⟨fun bs hpa hown => ?_, fun hpa hown => ?_, fun pa hpa hown hshared hlv hpass hhere hlost => ?_⟩
    · refine homeRequest_here ha hp hopen rfl ?_ hpa
      rw [State.performNext_load hua hp hbarred (hlocal hpa) hop hst, State.performLoad_bytes hbar hbehind hfixed hown,
        State.pieceDone_one _ hp, State.commitPart_done _ rfl]
      rfl
    · refine homeRequest_here ha hp hopen rfl ?_ hpa
      rw [State.performNext_load hua hp hbarred (hlocal hpa) hop hst, State.performLoad_local hbar hbehind hfixed hown hpa,
        State.pieceDone_one _ hp, State.commitPart_done _ rfl]
    · obtain ⟨_, hport, hsent⟩ := hpass
      refine homeRequest_goes ha hp hopen rfl ?_ hpa
      rw [State.performNext_load hua hp hbarred (hhome hpa hport) hop hst,
        State.performLoad_home hbar hbehind hfixed hown hpa hshared hlv hsent hhere hlost, State.pieceHome,
        State.pieceDone_one _ hp, State.commitPart_done _ rfl]
      rfl
  · obtain ⟨hbarred, hport, hsent⟩ := hpass
    refine homeRequest_goes ha hp (by simp [hst]) rfl ?_ hpa
    rw [State.performNext_store hua hp hbarred (hhome hpa hport) hop hpa hst hregn hsent hgood hlost hphys, State.pieceHome,
      State.pieceDone_one _ hp]
    rfl
  · obtain ⟨hbarred, hport, hsent⟩ := hpass
    have hopen : p.st ≠ .done := by simp [hst]
    have hperf := State.performNext_atomic hua hp hbarred (hhome hpa hport) hop hst
    rw [State.performAtomic_home hbar hbehind hfixed hown hpa hsent hhere hgood hlost, ← hold] at hperf
    refine ⟨fun hwrites => ?_, fun new v hwrites hphys => ?_⟩
    · refine homeRequest_goes ha hp hopen rfl ?_ hpa
      rw [hwrites] at hperf
      exact hperf.trans (State.pieceDone_one _ hp _ _ _)
    · refine homeRequest_goes ha hp hopen rfl ?_ hpa
      rw [hwrites] at hperf
      dsimp only at hperf
      rw [hphys] at hperf
      exact hperf.trans (State.pieceDone_one _ hp _ _ _)

/-- Settles O28: the steps of the home by `theHomePerforms`, the bytes that they change by `homeStoresTheirBytes`. -/
theorem theHome : Obligations.TheHome := ⟨theHomePerforms, homeStoresTheirBytes⟩

end Sys2Proof.Machine
end

section
/-! O37. A broadcast of translations, its end and its warning, windows and epoch markers (R98, R107, R115, R134–R136). -/

namespace Sys2Proof.Machine

/-- A property of the changed entries that the unlisted one has. -/
theorem mapCells_has {α : Type} [Inhabited α] [DecidableEq α] {P : α → Prop} {t : Tab α} {f : Nat → α → α} {k : Nat}
    (hnone : P default) (hf : ∀ x, P (f k x)) : P ((t.mapCells f).get k) := by
  rw [Tab.get_mapCells]
  cases lookup k t.cells with
  | none => exact hnone
  | some x => exact hf x

theorem filter_unnamed (l : List TlbEntry) (asid : Option (BitVec 16)) (va : Option DWord) :
    ∀ e ∈ l.filter (fun e => !e.named asid va), e.named asid va = false := fun _ he => by simpa using (List.mem_filter.1 he).2

theorem extractLsb'_cut (v : DWord) (lo n : Nat) : (v.extractLsb' lo n).toNat = cut v.toNat lo n := by
  rw [BitVec.extractLsb'_toNat, Nat.shiftRight_eq_div_pow, cut]

namespace State

/-- The step by which a hart broadcasts under one new number bears that number. -/
theorem byHart_new {s : State} {k : State → State} {b : Shoot} (hfree : s.hartFree = true) (hnew : (k s).shoots.get s.nextId = some b) :
    ∃ shoots, s.byHart k = { k s with shoots := shoots } ∧ shoots.get s.nextId = some { b with hart := s.nextId } := by
  let mark (l : Tab (Option Shoot)) (n : Nat) : Tab (Option Shoot) := l.modify n (fun o => o.map (fun b => { b with hart := s.nextId }))
  let new := (k s).shoots.keys.filter (fun n => s.nextId ≤ n)
  have hkey : s.nextId ∈ new := by
    have hcell := Tab.mem_cells_of_get (t := (k s).shoots) (k := s.nextId) (by rw [hnew]; exact Option.some_ne_none b)
    exact List.mem_filter.2 ⟨List.mem_map_of_mem (f := Prod.fst) hcell, decide_eq_true (Nat.le_refl _)⟩
  refine ⟨new.foldl mark (k s).shoots, ?_, ?_⟩
  · have hsome : new.isEmpty = false := List.isEmpty_eq_false_iff.2 (List.ne_nil_of_mem hkey)
    show (if new.isEmpty then k s else if !s.hartFree then s else _) = _
    rw [hsome, hfree]
    rfl
  · refine foldl_sets (view := fun l : Tab (Option Shoot) => l.get s.nextId) (f := mark) (x := s.nextId)
      (Q := fun l => ∃ h, l.get s.nextId = some { b with hart := h }) (P := fun _ => True)
      (fun l n ⟨h, hl⟩ => ?_) (fun l ⟨h, hl⟩ => ?_) (fun l n _ hne => ?_) (fun _ _ => trivial) (k s).shoots ⟨b.hart, hnew⟩ (.inl hkey)
    · show ∃ h, (mark l n).get s.nextId = _
      rw [Tab.get_modify]
      split
      · next heq => exact ⟨s.nextId, by rw [← heq, hl]; rfl⟩
      · exact ⟨h, hl⟩
    · show (mark l s.nextId).get s.nextId = _
      rw [Tab.get_modify_self, hl]
      rfl
    · exact (Tab.get_modify _ _ _ _).trans (if_neg (Ne.symm hne))

section
variable (s : State) (part : Nat) (asid : Option (BitVec 16)) (va : Option DWord)

theorem broadcast_walkers {cluster : Nat} (h : s.partOf (cluster / 7) = part) :
    ∀ e ∈ (s.broadcast part asid va).walkers.get cluster, e.named asid va = false := by
  refine mapCells_has (P := fun l : List TlbEntry => ∀ e ∈ l, e.named asid va = false) (fun e he => nomatch he) (fun l => ?_)
  rw [if_pos h]
  exact filter_unnamed l asid va

theorem broadcast_cores {core : Nat} (h : s.partOf (coreDie core) = part) :
    ∀ e ∈ ((s.broadcast part asid va).core core).tlb, e.named asid va = false := by
  refine mapCells_has (P := fun c : Core => ∀ e ∈ c.tlb, e.named asid va = false) (fun e he => nomatch he) (fun c => ?_)
  rw [if_pos h]
  exact filter_unnamed c.tlb asid va

theorem broadcast_dies {die : Nat} (h : s.partOf die = part) :
    ∀ e ∈ ((s.broadcast part asid va).die die).tlb, e.named asid va = false := by
  refine mapCells_has (P := fun d : Die => ∀ e ∈ d.tlb, e.named asid va = false) (fun e he => nomatch he) (fun d => ?_)
  rw [if_pos h]
  exact filter_unnamed d.tlb asid va

/-- A piece that waits to leave with a translation that a broadcast drops. -/
def dropped (a : Access) (p : Piece) : Bool := p.st == .queued && s.touched part asid va a p

/-- What a broadcast makes of an access: pieces with a dropped translation wait for a walk, and walks under way begin again. -/
def rewalk (a : Access) : Access :=
  if a.pieces.any (s.dropped part asid va a) || (s.partOf (coreDie a.core) == part && a.pieces.any (fun p => p.st == .walk)) then
    { a with pieces := a.pieces.map (fun p => if s.dropped part asid va a p then { p with st := .walk, pa := none } else p),
             walkAt := none }
  else a

theorem broadcast_accs (id : Nat) : (s.broadcast part asid va).accs.get id = (s.accs.get id).map (s.rewalk part asid va) :=
  Tab.get_mapCells_of s.accs (fun _ o => o.map (s.rewalk part asid va)) id rfl

/-- No piece of such an access waits to leave with a dropped translation. -/
theorem rewalk_untouched {a : Access} {p : Piece} (hp : p ∈ (s.rewalk part asid va a).pieces) (hst : p.st = .queued) :
    s.touched part asid va (s.rewalk part asid va a) p = false := by
  have hkeep (hq : s.dropped part asid va a p = false) : s.touched part asid va a p = false := by
    simpa [dropped, hst] using hq
  unfold rewalk at hp ⊢
  split at hp
  · next hsome =>
    rw [if_pos hsome]
    obtain ⟨q, _, hq⟩ := List.mem_map.1 hp
    split at hq
    · rw [← hq] at hst
      cases hst
    · next hnot =>
      subst hq
      exact hkeep (Bool.eq_false_iff.2 hnot)
  · next hnone =>
    rw [if_neg hnone]
    refine hkeep (Bool.eq_false_iff.2 (fun hdrop => hnone ?_))
    rw [List.any_eq_true.2 ⟨p, hp, hdrop⟩, Bool.true_or]

end
end State

/-- SFENCE.VMA of a hart that is free. -/
theorem sfence_spec (part : Nat) (asid : Option (BitVec 16)) (va : Option DWord) (s : State) (hfree : s.hartFree = true) :
    Gives (.sfenceVma part asid va) s (fun t =>
      (∀ cluster, s.partOf (cluster / 7) = part → ∀ e ∈ t.walkers.get cluster, e.named asid va = false) ∧ t.rm.fencePart = part ∧
      (∀ core, s.partOf (coreDie core) = part → ∀ e ∈ (t.core core).tlb, e.named asid va = false) ∧
      (∀ die, s.partOf die = part → ∀ e ∈ (t.die die).tlb, e.named asid va = false) ∧
      (∀ id a p, t.accs.get id = some a → p ∈ a.pieces → p.st = .queued → s.touched part asid va a p = false) ∧
      (∃ b, t.shoots.get s.nextId = some b ∧ b.part = part ∧ b.asid = asid ∧ b.va = va ∧ b.warned = false ∧ b.due = s.now ∧
        b.hart = s.nextId) ∧
      t.mem = s.mem ∧ t.threads = s.threads) := by
  let u : State := { s with rm := { s.rm with fencePart := part } }
  obtain ⟨shoots, heq, hnew⟩ := State.byHart_new (s := s) (k := fun s => s.sfence part asid va) hfree (Tab.get_set_self _ _ _)
  refine ⟨_, congrArg Host.Outcome.next heq, fun cluster h => u.broadcast_walkers part asid va h, rfl,
    fun core h => u.broadcast_cores part asid va h, fun die h => u.broadcast_dies part asid va h, fun id a p ha hp hst => ?_,
    ⟨_, hnew, rfl, rfl, rfl, rfl, rfl, rfl⟩, rfl, rfl⟩
  obtain ⟨b, _, rfl⟩ := Option.map_eq_some_iff.1 ((u.broadcast_accs part asid va id).symm.trans ha)
  exact u.rewalk_untouched part asid va hp hst

/-- A broadcast of 8 µs that is not acknowledged is recorded once (R135). -/
theorem shootWarned (idx : Nat) (s : State) (b : Shoot) (hb : s.shoots.get idx = some b) (hopen : s.acknowledged b = false)
    (hwarned : b.warned = false) (hlate : b.due + 8000 ≤ s.now) (hnone : NonePending s 0x0204) :
    Gives (.shootdownTimeoutWarn idx) s (fun t =>
      t.shoots.get idx = some { b with warned := true } ∧ Opened s t s.nextId 0x0204 ∧ t.mem = s.mem) := by
  obtain ⟨e, hrecord, hcode, hsev, hcount⟩ : ∃ e : ErrRec, s.shootRecord b 1 1 = s.log e ∧ e.code = 0x0204 ∧ e.sev = 1 ∧ e.count = 1 :=
    ⟨_, rfl, rfl, rfl, rfl⟩
  rw [State.log_opens hsev (by rw [hcode]; exact hnone)] at hrecord
  refine ⟨_, congrArg Host.Outcome.next (?_ : s.shootWarn idx = { s.shootRecord b 1 1 with
    shoots := (s.shootRecord b 1 1).shoots.set idx (some { b with warned := true }) }), ?_, ?_, ?_⟩
  · unfold State.shootWarn
    rw [hb]
    dsimp only
    rw [if_neg (by simp [hopen, hwarned, hlate])]
  · exact Tab.get_set_self _ _ _
  · rw [hrecord]
    exact ⟨_, Tab.get_set_self _ _ _, hcode, hsev, hcount, rfl⟩
  · rw [hrecord]
    rfl

/-- Settles O37: a broadcast by `sfence_spec`, its warning by `shootWarned`, the registers and markers by what each write sets. -/
theorem translationSteps : Obligations.TranslationSteps := by
  refine ⟨sfence_spec, fun idx s b hb => ⟨fun hack => ?_, shootWarned idx s b hb⟩, fun die tenant v s hdie htenant => ?_,
    fun die slice s hdie hslice => ?_, fun v n m s hm => ⟨?_, fun hn => ?_, fun hpart => ?_⟩⟩
  · refine congrArg Host.Outcome.next ?_
    rw [State.shootAck, hb]
    exact if_pos hack
  · intro len base hfit
    refine congrArg Host.Outcome.next ?_
    rw [State.writeDspWin, ← extractLsb'_cut, ← extractLsb'_cut]
    exact if_neg (by omega)
  · intro e hbehind
    exact congrArg Host.Outcome.next (if_neg (by simp [hdie, hslice, hbehind, e]))
  · exact congrArg Host.Outcome.next (if_neg (Nat.not_le.2 hm))
  · refine congrArg Host.Outcome.next ?_
    rw [State.writeReg, ← extractLsb'_cut]
    exact if_neg (by omega)
  · refine congrArg Host.Outcome.next ?_
    rw [State.writeReg, if_neg (by simpa using hpart)]
    rfl

end Sys2Proof.Machine
end
